-- ==== Sys2Proof/Word.lean ====
section
/-! DEFINITION. The word types of the Lemveja module (spec/00_scope.md R3): 64-bit words, bytes, register numbers,
and the two readings of a bit field (R7: Sext, Zext, Bits). -/
namespace Sys2Proof

/-- A 64-bit scalar value. -/
abbrev Word := BitVec 64
/-- One byte (R3). -/
abbrev Byte := BitVec 8
/-- A 5-bit register field naming s0–s31 or v0–v31 (R48). -/
abbrev Reg := BitVec 5
/-- A 3-bit mask register field, m0–m7 (R48). -/
abbrev MReg := BitVec 3
/-- The 2,048 bits of a vector register (R100). -/
abbrev VWord := BitVec 2048
/-- The 256 bits of a mask register (R21). -/
abbrev MWord := BitVec 256

/-- `Bits(x, h, l)` of R7, as a natural number. -/
def bitsOf {n : Nat} (x : BitVec n) (h l : Nat) : Nat := (x.toNat >>> l) % 2 ^ (h + 1 - l)

/-- `Sext(x, n)` of R7: the low `n` bits of a natural number, sign-extended to 64 bits. -/
def sext64 (x n : Nat) : Word := ((BitVec.ofNat n x).signExtend 64)

/-- `Zext(x, n)` of R7. -/
def zext64 (x n : Nat) : Word := BitVec.ofNat 64 (x % 2 ^ n)

/-- One bit as a word: 1 when the condition holds, else 0. -/
def boolWord (b : Bool) : Word := if b then 1 else 0

/-- Ceiling of a quotient of natural numbers. -/
def ceilDiv (a b : Nat) : Nat := (a + b - 1) / b

end Sys2Proof
end

