-- ==== Sys2Proof/Config.lean ====
section
/-! DEFINITION. What the module fixes once: the sizes the spec gives it (R1, R27, R222, R303, R306, R426), and the layout
of the one address space in which the model lists the bytes of all its memories. -/
namespace Sys2Proof.Config

/-- Stations of the module (R1). -/
def stations : Nat := 8192
/-- Clusters of the module (R1). -/
def clusters : Nat := 512
/-- Compute dies (R1). -/
def dies : Nat := 8
/-- Memory-side slices (R1). -/
def slices : Nat := 512
/-- Bytes of a local pool, 384 KiB (R27). -/
def poolSize : Nat := 0x60000
/-- Bytes of a cluster scratchpad, 4 MiB (R222). -/
def spadSize : Nat := 0x400000
/-- Bytes of one scratchpad bank (R222). -/
def bankSize : Nat := 0x40000
/-- Bytes of a die's commons, 64 MiB (R1, R303). -/
def commonsSize : Nat := 0x4000000
/-- Bytes of a loader or storer instruction store (R37). -/
def istoreSize : Nat := 0x4000
/-- Bytes of a line (R1). -/
def lineSize : Nat := 128
/-- Bytes of a granule (R35). -/
def granuleSize : Nat := 16
/-- Instruction-cache sets and ways (R40). -/
def icacheSets : Nat := 64
def icacheWays : Nat := 4
/-- Entries of a slice's translation cache (R317). -/
def tlbEntries : Nat := 8192

/-- Where each memory lies in the model's one list of bytes. Pools lie at station × 2^20, scratchpads at
2^34 + cluster × 2^22, commons at 2^36 + die × 2^26, the loader and storer stores at 2^40 + station × 2^15, and
physical memory (R306) at 2^52 + pa. The ranges do not meet. -/
def poolAt (st : Nat) : Nat := st * 2 ^ 20
def spadAt (cl : Nat) : Nat := 2 ^ 34 + cl * 2 ^ 22
def commonsAt (die : Nat) : Nat := 2 ^ 36 + die * 2 ^ 26
def istoreAt (st : Nat) (storer : Bool) : Nat := 2 ^ 40 + st * 2 ^ 15 + (if storer then 2 ^ 14 else 0)
def physAt (pa : Nat) : Nat := 2 ^ 52 + pa

/-- Graph tables of a die's commons (R166, R167). -/
def nodeBase : Nat := 0x02000000
def counterBase : Nat := 0x02080000
/-- Launch journal, primary and mirror (R426). -/
def journalBase : Nat := 0x03000000
def mirrorBase : Nat := 0x03800000
def journalEntries : Nat := 32768
/-- Relay area (R434). -/
def relayBase : Nat := 0x03400000
def relayEnd : Nat := 0x03480000

/-- A record in the owner host's notice area (R431): its bytes, in a layout that the spec does not give, by the number of the record
and what it carries; and its place in the area. Free values for each notice. -/
opaque noticeByte : Nat → List Nat → Nat → Byte
opaque noticeSlot : Nat → Nat

/-- The temperature of a die at a package time, in units of 1/8 °C: a free value, which nothing in the module sets (R175,
R438). -/
opaque dieTemp : Nat → Nat → Nat

/-- The power the module draws at a package time, as the management window gives it: a free value (R438). -/
opaque power : Nat → Word

/-- What OWNER reads while the module is held in reset by an image that has failed: the spec gives the report no layout (R437). -/
opaque bootReport : Word

/-- What a place of the management window that R428 does not list holds: the spec gives the temperatures, the power and the error banks
(R438) no places. 1 and a die, 2, or 3 with a bank, a record and one of its doublewords; any other list holds nothing. -/
opaque managementPlace : Nat → List Nat

/-- The flits of an urgent message with so many payload words, and those of one broadcast of R171, by its number, that reach a station
from one direction: free values, as the spec gives no flit format (R161, R366). -/
opaque messageFlits : Nat → Nat
opaque broadcastFlits : Nat → Nat → Nat → Nat

/-- The byte of a shuttered station's TCM that is lost (R369), by package time and address: a free value. -/
opaque lostByte : Nat → Nat → Byte

/-- The first instruction of the program that `State.withFetchWord` places: the start of the TCM under the reset
layout (R28). -/
def testPc : Nat := 0xC000

end Sys2Proof.Config
end

