-- ==== Sys2Proof/Syntax.lean ====
section
/-! DEFINITION. The syntax of the machine: one constructor of `Instr` per row of spec/opcode_table.json. The rows with
an instruction word (spec/04_encoding.md) take the word's fields; the rows without one (spec/95_what_each_step_holds.md)
are the module's own steps, and take what the step acts on. The types of those fields come first. -/
namespace Sys2Proof

/-- The q field of MEM and VMEM (R11, R53): the load suffix and the store suffix share a code. -/
inductive Qual where
  | plain | waitfFill | takeFillw | tryfDrain
deriving DecidableEq, Repr, Inhabited

/-- The ew field (R57), by the width in the integer sense. -/
inductive Ew where
  | b8 | b16 | b32 | b64
deriving DecidableEq, Repr, Inhabited

/-- The rm field of the FPU (R60). -/
inductive Rm where
  | rne | rtz | rdn | rup | rma | dyn
deriving DecidableEq, Repr, Inhabited

/-- The kind of a FENCE (R68, R341). -/
inductive FenceKind where
  | acq | rel | full
deriving DecidableEq, Repr, Inhabited

/-- The six scopes of R8. -/
inductive Scope where
  | slot | station | cluster | die | module | system
deriving DecidableEq, Repr, Inhabited

/-- The hint of a PREF (R68, R391). -/
inductive Hint where
  | shared | exclusive | slice
deriving DecidableEq, Repr, Inhabited

/-- The operation of VRED and VSCAN (R112). -/
inductive RedOp where
  | add | min | max | minn | maxn | fadd | fmin | fmax
deriving DecidableEq, Repr, Inhabited

/-- The operation of an atomic (R376). -/
inductive AmoOp where
  | add | and | or | xor | min | max | minn | maxn | swp | cas | fadd | fmin | fmax
deriving DecidableEq, Repr, Inhabited

/-- The cores that issue instructions: the four slots and the urgent bank of a compute core (R19), the loader and the
storer (R37), and the innkeeper of a cluster (R265, R432). -/
inductive Core where
  | slot0 | slot1 | slot2 | slot3 | urgent | loader | storer | keeper
deriving DecidableEq, Repr, Inhabited

/-- One holder of the module: a core of the station with coordinate `st` (R18). The innkeeper of module cluster k is the
core `keeper` of the number 8192 + k, which names no station. -/
structure Who where
  st : Nat
  core : Core
deriving DecidableEq, Repr, Inhabited

/-- The home that performs an access, and the offset there (R303, R304). `far` carries the virtual address. -/
inductive Place where
  | pool (st off : Nat)
  | spad (cl off : Nat)
  | commons (die off : Nat)
  | far (va : Nat)
  | stationWindow (st off : Nat)
  | sliceWindow (off : Nat)
deriving DecidableEq, Repr, Inhabited

/-- What one access does at its home. An atomic carries its operation and its width, and whether it returns. -/
inductive PartKind where
  | load | store | fetch
  | amo (op : AmoOp) (wide : Bool)
  | red (op : AmoOp) (wide : Bool)
  | prefetch (exclusive : Bool)
deriving DecidableEq, Repr, Inhabited

/-- What every access of one instruction carries (R161, R318, R323): its issue sequence number, its holder and task,
the instruction's address, its service class, tenant class and address space, its priority, and the retry limits.
`eng` is 0 for an instruction's own access, 1 for a fill of the L1, 6 for a prefetch into the slice alone, or the engine
(2 COPY, 3 MTX, 4 SIG, 5 XING) whose command makes it. -/
structure Access where
  op : Nat
  who : Who
  task : Word
  pc : Word
  cls : Nat
  tenant : Nat
  asn : Nat
  ep : Nat
  ceil : Nat
  tries : Nat
  eng : Nat
deriving DecidableEq, Repr, Inhabited

/-- One part of an instruction's access: a near access, one line's part of a far access, or one element of a gather or
scatter (R123, R126, R317). `off` is its place in the instruction's data; `line` the allocation of the station L1 that its
answer is for, or 0 (R298, R310); `held` tells that it has been parked or held behind a parked access (R326), `again` that it looks its line up again once it is
translated, `faulted` that its translation has faulted before (R327). `elem` numbers the elements of a gather or scatter (R127);
`sent` tells that a copy engine's notification has left its station (R234), or that another near access has come to its bank and
waits for the bank's format (R225). -/
structure AccPart where
  acc : Access
  kind : PartKind
  addr : Word
  place : Place
  size : Nat
  off : Nat
  qual : Qual
  data : List Byte
  attempt : Nat
  pa : Option Nat
  line : Nat := 0
  held : Bool := false
  again : Bool := false
  faulted : Bool := false
  elem : Nat := 0
  sent : Bool := false
deriving DecidableEq, Repr, Inhabited

/-- Where a message comes from (R155): a task's SEND family, the station itself (copy, threshold or steal launches),
a die dispatcher, or a host link. -/
inductive MsgSource where
  | task (who : Who) (op : Nat)
  | self
  | dispatcher (die : Nat)
  | host (link : Nat)
  | keeper
deriving DecidableEq, Repr, Inhabited

/-- A message and the values its record takes (R153). `dst` is the coordinate of the station it is routed to (8192 for a
rank that is SHUT, 8193 for the host), `reply` the host reply address of R424, `gang` the die and the group index of a
gang-member launch, `sender` the TASKID of the task that sent it. `why` is 0 for a message and the reason of R371 for a
return; `left` tells that it has left the outbound queue (R191), `replay` that it comes from the launch journal (R427). -/
structure Msg where
  source : MsgSource
  sender : Word
  why : Nat
  left : Bool
  dst : Nat
  header : Word
  payload : List Word
  tilec : Word
  deadline : Word
  ep : Nat
  cv : Bool
  cctr : Nat
  jseq : Word
  reply : Option Word
  gang : Option (Nat × Nat)
  replay : Bool := false
deriving DecidableEq, Repr, Inhabited

/-- A phaser command at its home (R201). -/
inductive PhaserCmd where
  | join (mode : Nat) | leave | sig | sigw | wait | qry
deriving DecidableEq, Repr, Inhabited

/-- A phaser operation on its way: the command, who issued it (and its issue sequence number), and the phaser named by
home rank and index (R200). `home` is the station the rank table routes to; `sent` tells that it has left its station (R202). -/
structure PhaserOp where
  cmd : PhaserCmd
  who : Who
  task : Word
  op : Nat
  home : Nat
  rank : Nat
  idx : Nat
  sent : Bool := false
deriving DecidableEq, Repr, Inhabited

/-- A crossing delivery (R402, R406): the slot whose XPOP sends it, destination rank, the station it is routed to (8192 for a
rank that is SHUT) and variable, the time, the slope change as FP64 bits, the key (source rank, source variable, sequence), and
the issuing task's service class. -/
structure Delivery where
  who : Who
  rank : Nat
  dst : Nat
  var : Nat
  t : Nat
  d : Word
  srcRank : Nat
  srcVar : Nat
  seq : Nat
  cls : Nat := 0
deriving DecidableEq, Repr, Inhabited

/-- A steal on its way (R180, R205) to the station that the rank table names: DQSTEAL of a holder with its task and its issue
number, or an automatic steal of R181 (`who = none`). -/
structure Steal where
  thief : Nat
  rank : Nat
  victim : Nat
  who : Option (Who × Nat)
  task : Word := 0
deriving DecidableEq, Repr, Inhabited

/-- A ring operation at the commons home (R182, R240): which holder's port, the task it works for, the descriptor's offset, the
index. `sent` tells that a RINGEOS or a registration has left its station (R213). -/
structure RingOp where
  who : Who
  op : Nat
  port : Nat
  die : Nat
  desc : Nat
  idx : Nat
  data : List Byte
  task : Word := 0
  sent : Bool := false
deriving DecidableEq, Repr, Inhabited

/-- A command that waits for its task's earlier stores (R130, R207): the holder whose work it is, its issue number, and whether it
has left the station. -/
structure Issuer where
  who : Who
  op : Nat
  sent : Bool := false
deriving DecidableEq, Repr, Inhabited

/-- Where an error strikes or a poison mark lies: a 128-byte line of a pool, a scratchpad, a commons or physical
memory, given by the address of its first byte. -/
inductive LineAt where
  | pool (st line : Nat)
  | spad (cl line : Nat)
  | commons (die line : Nat)
  | phys (line : Nat)
deriving DecidableEq, Repr, Inhabited

/-- An error that strikes a line; `fixed` tells that the storage's check code has corrected it (R436). -/
structure LineError where
  line : LineAt
  fixed : Bool
deriving DecidableEq, Repr, Inhabited

/-- A threshold's crossing (R176, R210): its time, and the binding that stood then. -/
structure Firing where
  time : Word
  urg : Bool
  cls : Nat
  handler : Nat
deriving DecidableEq, Repr, Inhabited

/-- What a vote flit says (R367): the period it judges, and whether the station it is about is suspected. -/
structure Vote where
  period : Nat
  sus : Bool
deriving DecidableEq, Repr, Inhabited

/-- What reaches a link's aperture (R422): a write of doublewords from an offset on, or a read there. -/
structure LinkAccess where
  off : Nat
  write : Bool
  words : List Word
deriving DecidableEq, Repr, Inhabited

/-- A register write that has no row of its own (R6): the register and who writes it. -/
inductive RegTarget where
  | stationControl (st : Nat) (n : Nat)
  | rankTable (st : Nat) (rank : Nat)
  | asRoot (master : Nat) (a : Nat)
  | dbgCtl (master : Nat)
  | poolByte (st : Nat) (off : Nat) (size : Nat)
  | instrStore (st : Nat) (storer : Bool) (off : Nat) (size : Nat)
  | otherWindow (st : Nat) (off : Nat)
  | managementOther (master : Nat) (off : Nat)
deriving DecidableEq, Repr, Inhabited

/-- A single part of R427. -/
inductive ModulePart where
  | computeDie (d : Nat) | cacheDie (d : Nat) | station (st : Nat)
deriving DecidableEq, Repr, Inhabited

/-- What forms effective priorities again (R171): the broadcast of a counter's CPRI, or a phaser home's notice. -/
inductive EpCause where
  | counter (id : Nat) (cpri : Nat)
  | holder (who : Who)
deriving DecidableEq, Repr, Inhabited

/-- A heartbeat flit (R365) as received: SEQ, COUNT, CHK, APPEAL, SHUTNOTE; `valid` is false for a malformed flit. -/
structure Heartbeat where
  seq : Nat
  count : Nat
  chk : Nat
  appeal : Bool
  shutNote : Bool
  valid : Bool
deriving DecidableEq, Repr, Inhabited

/-- The configuration image of R437, as far as bring-up reads it, its bytes, and whether its signature check passes: the values of
step 1, and what step 3 installs: handler entries (station, index, entry), pool layouts (station, three boundaries in
8 KiB units), bank formats (cluster, bank, value), bytes of firmware and code by the addresses of Sys2Proof/Config.lean,
and the address at which each innkeeper starts. -/
structure BootImage where
  signed : Bool
  size : Nat
  hbper : Nat
  classes : List Word
  roots : List Word
  fnmode : Word
  notice : Word
  handlers : List (Nat × Nat × BitVec 256)
  layouts : List (Nat × Nat × Nat × Nat)
  formats : List (Nat × Nat × Word)
  bytes : List (Nat × Byte)
  keepers : List (Nat × Word)
  cxlBytes : List Nat
deriving DecidableEq, Repr, Inhabited

/-- A step frame of a relay collective (R434): the collective's descriptor offset and die, the step, the member. -/
structure RelayFrame where
  die : Nat
  desc : Nat
  step : Nat
  member : Nat
  data : List Byte
deriving DecidableEq, Repr, Inhabited

/-- Every step of the module: the 84 steps of spec/opcode_table.json without a word, then its 307 instruction words.
Field names follow the table: `d`, `a`, `b` registers, `ka`, `kb`, `k` disposition bits (R49), `m` the mask field (R58),
`e` the element width (R57), `q` the qualifier (R53), `i` an immediate, `o` an offset, `t` the tag (R71). -/
inductive Instr where
  | accessAtHome (p : AccPart)
  | loadLands (who : Who) (op : Nat)
  | l1FillArrives (p : AccPart)
  | translate (p : AccPart)
  | pageRetry (p : AccPart)
  | cxlRequestTimeout (p : AccPart)
  | recall (line requester : Nat)
  | writeBackArrives (st line : Nat) (gives : Bool) (bytes : List (Nat × Byte))
  | uncorrectableError (at_ : LineError)
  | coreStateError (st : Nat)
  | messageArrival (m : Msg)
  | launch (st : Nat)
  | urgentLaunch (st : Nat)
  | urgentRun (st : Nat)
  | maskwinExpiry (who : Who) (opened : Nat)
  | deadlineExpiry (who : Who) (task : Word)
  | layoutTakesEffect (st : Nat)
  | thresholdFire (st n : Nat) (count : Word) (f : Firing)
  | phaserOpAtHome (o : PhaserOp)
  | epRaise (c : EpCause)
  | stealAtVictim (x : Steal)
  | stealAttempt (st : Nat)
  | counterDecrement (id : Nat) (failed : Bool) (src : Nat) (after : Option Issuer)
  | garmAtHome (id count reload node failNode src : Nat) (after : Option Issuer)
  | dispatcherLaunch (die : Nat)
  | gangPlace (die : Nat)
  | pipePreempt (die : Nat)
  | ringPush (r : RingOp)
  | ringPop (r : RingOp)
  | streamFetch (who : Who) (port : Nat)
  | copyPerform (st id : Nat)
  | copyComplete (st id : Nat)
  | publishExchange (st id : Nat)
  | mtxCommandPerform (st ctx : Nat)
  | sigCommandPerform (st : Nat)
  | remoteElementAccess (ps : List AccPart)
  | crossingDelivery (d : Delivery)
  | migrationStart (asn va frame requester : Nat) (after : Option (Who × Nat))
  | migrationCopy (asn va : Nat)
  | tinv (requester : Nat) (v : Word)
  | frcl (requester : Nat) (v : Word)
  | tsync (who : Who) (op : Nat)
  | classcfgWrite (master c : Nat) (v : Word)
  | heartbeatSend (st : Nat)
  | heartbeatReceived (st dir : Nat) (h : Heartbeat)
  | voteReceived (st dir voter named : Nat) (v : Vote)
  | periodEnd (st : Nat)
  | shutterRestart (st : Nat)
  | returnServe (st rec : Nat)
  | selfTestDone (st : Nat) (pass : Bool)
  | relayStepReceived (f : RelayFrame)
  | relayStepFail (die desc step : Nat)
  | relayAckTimeout (die desc step : Nat)
  | inboundRecord (link : Nat) (a : LinkAccess)
  | journalReplay (die : Nat)
  | partReset (p : ModulePart)
  | throttle (die rate : Nat)
  | thermalReset (die : Nat)
  | claim (master : Nat) (v : Word)
  | electionEnd
  | handoverGive (master to_ : Nat)
  | handoverRelease (master : Nat)
  | masterPathDown (master : Nat)
  | fnmodeset (master : Nat) (v : Word)
  | powerOn (image : BootImage)
  | debugHalt (st : Nat)
  | debugResume (st : Nat)
  | l1cfgApply (st : Nat)
  | bfmtWrite (cl bank : Nat) (v : Word)
  | pcntWrite (st n : Nat) (v : Word)
  | thrWrite (st n : Nat) (v : Word)
  | waymaskWrite (who : Who) (c : Nat) (v : Word)
  | tenantWrite (who : Who) (v : Word)
  | fpendDiscard (who : Who)
  | shutForce (st : Nat)
  | shutTest (st : Nat)
  | handlerTableInstall (st : Nat) (entries : List (Nat × BitVec 256))
  | registerWrite (t : RegTarget) (v : Word)
  | powerGating (st : Nat)
  | appealAgeing (st : Nat)
  | relayStepAcknowledged (die desc step : Nat)
  | linkFlitResend (link : Nat)
  | ringRegistration (r : RingOp)
  | ringeosAtHome (r : RingOp)
  | add (d a b : Reg) (ka kb w : Bool)
  | sub (d a b : Reg) (ka kb w : Bool)
  | and (d a b : Reg) (ka kb w : Bool)
  | or (d a b : Reg) (ka kb w : Bool)
  | xor (d a b : Reg) (ka kb w : Bool)
  | andn (d a b : Reg) (ka kb w : Bool)
  | orn (d a b : Reg) (ka kb w : Bool)
  | sll (d a b : Reg) (ka kb w : Bool)
  | srl (d a b : Reg) (ka kb w : Bool)
  | sra (d a b : Reg) (ka kb w : Bool)
  | rol (d a b : Reg) (ka kb w : Bool)
  | ror (d a b : Reg) (ka kb w : Bool)
  | slt (d a b : Reg) (ka kb w : Bool)
  | sltu (d a b : Reg) (ka kb w : Bool)
  | seq (d a b : Reg) (ka kb w : Bool)
  | min (d a b : Reg) (ka kb w : Bool)
  | max (d a b : Reg) (ka kb w : Bool)
  | minu (d a b : Reg) (ka kb w : Bool)
  | maxu (d a b : Reg) (ka kb w : Bool)
  | mul (d a b : Reg) (ka kb w : Bool)
  | mulh (d a b : Reg) (ka kb w : Bool)
  | mulhu (d a b : Reg) (ka kb w : Bool)
  | div (d a b : Reg) (ka kb w : Bool)
  | divu (d a b : Reg) (ka kb w : Bool)
  | rem (d a b : Reg) (ka kb w : Bool)
  | remu (d a b : Reg) (ka kb w : Bool)
  | clz (d a : Reg) (ka : Bool)
  | ctz (d a : Reg) (ka : Bool)
  | popc (d a : Reg) (ka : Bool)
  | brev (d a : Reg) (ka : Bool)
  | bswap (d a : Reg) (ka : Bool)
  | exts (d a b : Reg) (ka kb : Bool)
  | extz (d a b : Reg) (ka kb : Bool)
  | fadd (d a b : Reg) (ka kb p : Bool) (rm : Rm)
  | fsub (d a b : Reg) (ka kb p : Bool) (rm : Rm)
  | fmul (d a b : Reg) (ka kb p : Bool) (rm : Rm)
  | fdiv (d a b : Reg) (ka kb p : Bool) (rm : Rm)
  | fsqrt (d a : Reg) (ka p : Bool) (rm : Rm)
  | ffma (d a b : Reg) (ka kb p : Bool) (rm : Rm)
  | ffms (d a b : Reg) (ka kb p : Bool) (rm : Rm)
  | fmin (d a b : Reg) (ka kb p : Bool)
  | fmax (d a b : Reg) (ka kb p : Bool)
  | feq (d a b : Reg) (ka kb p : Bool)
  | flt (d a b : Reg) (ka kb p : Bool)
  | fle (d a b : Reg) (ka kb p : Bool)
  | fclass (d a : Reg) (ka p : Bool)
  | fcvtis (d a : Reg) (t ka p : Bool) (rm : Rm)
  | fcvtin (d a : Reg) (t ka p : Bool) (rm : Rm)
  | fcvtfs (d a : Reg) (t ka p : Bool) (rm : Rm)
  | fcvtfn (d a : Reg) (t ka p : Bool) (rm : Rm)
  | fcvtw (d a : Reg) (f : BitVec 5) (ka p : Bool) (rm : Rm)
  | addi (d a : Reg) (ka : Bool) (i : BitVec 15)
  | andi (d a : Reg) (ka : Bool) (i : BitVec 15)
  | ori (d a : Reg) (ka : Bool) (i : BitVec 15)
  | xori (d a : Reg) (ka : Bool) (i : BitVec 15)
  | slti (d a : Reg) (ka : Bool) (i : BitVec 15)
  | sltiu (d a : Reg) (ka : Bool) (i : BitVec 15)
  | slli (d a : Reg) (ka w : Bool) (n : BitVec 6)
  | srli (d a : Reg) (ka w : Bool) (n : BitVec 6)
  | srai (d a : Reg) (ka w : Bool) (n : BitVec 6)
  | roli (d a : Reg) (ka w : Bool) (n : BitVec 6)
  | lui (d : Reg) (i : BitVec 21)
  | addpc (d : Reg) (i : BitVec 21)
  | lb (d a : Reg) (k : Bool) (q : Qual) (o : BitVec 13)
  | lbu (d a : Reg) (k : Bool) (q : Qual) (o : BitVec 13)
  | lh (d a : Reg) (k : Bool) (q : Qual) (o : BitVec 13)
  | lhu (d a : Reg) (k : Bool) (q : Qual) (o : BitVec 13)
  | lw (d a : Reg) (k : Bool) (q : Qual) (o : BitVec 13)
  | lwu (d a : Reg) (k : Bool) (q : Qual) (o : BitVec 13)
  | ld (d a : Reg) (k : Bool) (q : Qual) (o : BitVec 13)
  | sb (d a : Reg) (k : Bool) (q : Qual) (o : BitVec 13)
  | sh (d a : Reg) (k : Bool) (q : Qual) (o : BitVec 13)
  | sw (d a : Reg) (k : Bool) (q : Qual) (o : BitVec 13)
  | sd (d a : Reg) (k : Bool) (q : Qual) (o : BitVec 13)
  | beq (a b : Reg) (ka kb : Bool) (o : BitVec 11)
  | bne (a b : Reg) (ka kb : Bool) (o : BitVec 11)
  | blt (a b : Reg) (ka kb : Bool) (o : BitVec 11)
  | bge (a b : Reg) (ka kb : Bool) (o : BitVec 11)
  | bltu (a b : Reg) (ka kb : Bool) (o : BitVec 11)
  | bgeu (a b : Reg) (ka kb : Bool) (o : BitVec 11)
  | bf (a : Reg) (o : BitVec 11)
  | jal (d : Reg) (o : BitVec 21)
  | jalr (d a : Reg) (ka : Bool) (i : BitVec 15)
  | loop (a : Reg) (ka : Bool) (l : BitVec 10)
  | loopi (l n : BitVec 10)
  | vadd (d a b : Reg) (e : Ew) (m : MReg) (k : Bool)
  | vsub (d a b : Reg) (e : Ew) (m : MReg) (k : Bool)
  | vmul (d a b : Reg) (e : Ew) (m : MReg) (k : Bool)
  | vmulh (d a b : Reg) (e : Ew) (m : MReg) (k : Bool)
  | vmulhn (d a b : Reg) (e : Ew) (m : MReg) (k : Bool)
  | vmin (d a b : Reg) (e : Ew) (m : MReg) (k : Bool)
  | vmax (d a b : Reg) (e : Ew) (m : MReg) (k : Bool)
  | vminn (d a b : Reg) (e : Ew) (m : MReg) (k : Bool)
  | vmaxn (d a b : Reg) (e : Ew) (m : MReg) (k : Bool)
  | vand (d a b : Reg) (e : Ew) (m : MReg) (k : Bool)
  | vor (d a b : Reg) (e : Ew) (m : MReg) (k : Bool)
  | vxor (d a b : Reg) (e : Ew) (m : MReg) (k : Bool)
  | vandn (d a b : Reg) (e : Ew) (m : MReg) (k : Bool)
  | vsll (d a b : Reg) (e : Ew) (m : MReg) (k : Bool)
  | vsrl (d a b : Reg) (e : Ew) (m : MReg) (k : Bool)
  | vsra (d a b : Reg) (e : Ew) (m : MReg) (k : Bool)
  | vseq (d : MReg) (a b : Reg) (e : Ew) (m : MReg) (k : Bool)
  | vslt (d : MReg) (a b : Reg) (e : Ew) (m : MReg) (k : Bool)
  | vsltn (d : MReg) (a b : Reg) (e : Ew) (m : MReg) (k : Bool)
  | vsel (d a b : Reg) (e : Ew) (m : MReg) (k : Bool)
  | vabs (d a : Reg) (e : Ew) (m : MReg) (k : Bool)
  | vadds (d a b : Reg) (e : Ew) (m : MReg) (k : Bool)
  | vsubs (d a b : Reg) (e : Ew) (m : MReg) (k : Bool)
  | vaddsn (d a b : Reg) (e : Ew) (m : MReg) (k : Bool)
  | vdot4 (d a b : Reg) (e : Bool) (m : MReg) (k : Bool)
  | vdot4n (d a b : Reg) (e : Bool) (m : MReg) (k : Bool)
  | vpopc (d a : Reg) (e : Ew) (m : MReg) (k : Bool)
  | vclz (d a : Reg) (e : Ew) (m : MReg) (k : Bool)
  | vwiden (d a : Reg) (u : Bool) (e : Ew) (m : MReg) (k : Bool)
  | vnarrow (d a : Reg) (u : BitVec 2) (e : Ew) (m : MReg) (k : Bool)
  | vaddS (d a b : Reg) (e : Ew) (m : MReg) (k : Bool)
  | vsubS (d a b : Reg) (e : Ew) (m : MReg) (k : Bool)
  | vmulS (d a b : Reg) (e : Ew) (m : MReg) (k : Bool)
  | vmulhS (d a b : Reg) (e : Ew) (m : MReg) (k : Bool)
  | vmulhnS (d a b : Reg) (e : Ew) (m : MReg) (k : Bool)
  | vminS (d a b : Reg) (e : Ew) (m : MReg) (k : Bool)
  | vmaxS (d a b : Reg) (e : Ew) (m : MReg) (k : Bool)
  | vminnS (d a b : Reg) (e : Ew) (m : MReg) (k : Bool)
  | vmaxnS (d a b : Reg) (e : Ew) (m : MReg) (k : Bool)
  | vandS (d a b : Reg) (e : Ew) (m : MReg) (k : Bool)
  | vorS (d a b : Reg) (e : Ew) (m : MReg) (k : Bool)
  | vxorS (d a b : Reg) (e : Ew) (m : MReg) (k : Bool)
  | vandnS (d a b : Reg) (e : Ew) (m : MReg) (k : Bool)
  | vsllS (d a b : Reg) (e : Ew) (m : MReg) (k : Bool)
  | vsrlS (d a b : Reg) (e : Ew) (m : MReg) (k : Bool)
  | vsraS (d a b : Reg) (e : Ew) (m : MReg) (k : Bool)
  | vseqS (d : MReg) (a b : Reg) (e : Ew) (m : MReg) (k : Bool)
  | vsltS (d : MReg) (a b : Reg) (e : Ew) (m : MReg) (k : Bool)
  | vsltnS (d : MReg) (a b : Reg) (e : Ew) (m : MReg) (k : Bool)
  | vselS (d a b : Reg) (e : Ew) (m : MReg) (k : Bool)
  | vaddsS (d a b : Reg) (e : Ew) (m : MReg) (k : Bool)
  | vsubsS (d a b : Reg) (e : Ew) (m : MReg) (k : Bool)
  | vaddsnS (d a b : Reg) (e : Ew) (m : MReg) (k : Bool)
  | vdot4S (d a b : Reg) (e : Bool) (m : MReg) (k : Bool)
  | vdot4nS (d a b : Reg) (e : Bool) (m : MReg) (k : Bool)
  | vfadd (d a b : Reg) (e : Ew) (m : MReg) (k : Bool)
  | vfsub (d a b : Reg) (e : Ew) (m : MReg) (k : Bool)
  | vfmul (d a b : Reg) (e : Ew) (m : MReg) (k : Bool)
  | vfdiv (d a b : Reg) (e : Ew) (m : MReg) (k : Bool)
  | vfma (d a b : Reg) (e : Ew) (m : MReg) (k : Bool)
  | vfms (d a b : Reg) (e : Ew) (m : MReg) (k : Bool)
  | vfmin (d a b : Reg) (e : Ew) (m : MReg) (k : Bool)
  | vfmax (d a b : Reg) (e : Ew) (m : MReg) (k : Bool)
  | vfeq (d : MReg) (a b : Reg) (e : Ew) (m : MReg) (k : Bool)
  | vflt (d : MReg) (a b : Reg) (e : Ew) (m : MReg) (k : Bool)
  | vfle (d : MReg) (a b : Reg) (e : Ew) (m : MReg) (k : Bool)
  | vfsqrt (d a : Reg) (e : Ew) (m : MReg) (k : Bool)
  | vfrcp (d a : Reg) (e : Ew) (m : MReg) (k : Bool)
  | vfexp2 (d a : Reg) (e : Ew) (m : MReg) (k : Bool)
  | vflog2 (d a : Reg) (e : Ew) (m : MReg) (k : Bool)
  | vfabs (d a : Reg) (e : Ew) (m : MReg) (k : Bool)
  | vfneg (d a : Reg) (e : Ew) (m : MReg) (k : Bool)
  | vfclass (d a : Reg) (e : Ew) (m : MReg) (k : Bool)
  | vfaddS (d a b : Reg) (e : Ew) (m : MReg) (k : Bool)
  | vfsubS (d a b : Reg) (e : Ew) (m : MReg) (k : Bool)
  | vfmulS (d a b : Reg) (e : Ew) (m : MReg) (k : Bool)
  | vfdivS (d a b : Reg) (e : Ew) (m : MReg) (k : Bool)
  | vfmaS (d a b : Reg) (e : Ew) (m : MReg) (k : Bool)
  | vfmsS (d a b : Reg) (e : Ew) (m : MReg) (k : Bool)
  | vfminS (d a b : Reg) (e : Ew) (m : MReg) (k : Bool)
  | vfmaxS (d a b : Reg) (e : Ew) (m : MReg) (k : Bool)
  | vfeqS (d : MReg) (a b : Reg) (e : Ew) (m : MReg) (k : Bool)
  | vfltS (d : MReg) (a b : Reg) (e : Ew) (m : MReg) (k : Bool)
  | vfleS (d : MReg) (a b : Reg) (e : Ew) (m : MReg) (k : Bool)
  | vred (d a : Reg) (o : RedOp) (e : Ew) (m : MReg) (k : Bool)
  | vscan (d a : Reg) (o : RedOp) (e : Ew) (m : MReg) (k : Bool)
  | vsort (d a : Reg) (e : Ew) (m : MReg) (k : Bool)
  | vperm (d a b : Reg) (e : Ew) (m : MReg) (k : Bool)
  | vbcast (d a : Reg) (e : Ew) (m : MReg) (k : Bool)
  | vext (d a b : Reg) (e : Ew) (m : MReg) (k : Bool)
  | vins (d a b : Reg) (e : Ew) (m : MReg) (k : Bool)
  | vcmpr (d a : Reg) (e : Ew) (m : MReg) (k : Bool)
  | vexpd (d a : Reg) (e : Ew) (m : MReg) (k : Bool)
  | vbmask (d : MReg) (a : Reg) (m : MReg) (k : Bool)
  | vbrank (d : Reg) (a : MReg) (e : Ew) (m : MReg) (k : Bool)
  | vbpfx (d a : Reg) (e : Ew) (m : MReg) (k : Bool)
  | vnz (d : MReg) (a : Reg) (e : Ew) (m : MReg) (k : Bool)
  | vrand (d a b : Reg) (e : Ew) (m : MReg) (k : Bool)
  | vcvt (d a : Reg) (f : BitVec 5) (e : Ew) (dir k : Bool)
  | vidx (d : Reg) (e : Ew) (m : MReg) (k : Bool)
  | vslide (d a b : Reg) (e : Ew) (m : MReg) (k : Bool)
  | mand (d a b m : MReg) (k : Bool)
  | mor (d a b m : MReg) (k : Bool)
  | mxor (d a b m : MReg) (k : Bool)
  | mandn (d a b m : MReg) (k : Bool)
  | mnot (d a m : MReg) (k : Bool)
  | mpopc (d : Reg) (a : MReg) (k : Bool)
  | mfirst (d : Reg) (a : MReg) (k : Bool)
  | mfroms (d : MReg) (a b : Reg) (m : MReg) (k : Bool)
  | mtos (d : Reg) (a : MReg) (b : Reg) (k : Bool)
  | msetn (d : MReg) (a : Reg) (m : MReg) (k : Bool)
  | vld (d a : Reg) (k : Bool) (q : Qual) (o : BitVec 13)
  | vst (d a : Reg) (k : Bool) (q : Qual) (o : BitVec 13)
  | vldx (d a b : Reg) (e : Ew) (m : MReg) (k : Bool)
  | vstx (d a b : Reg) (e : Ew) (m : MReg) (k : Bool)
  | send (a b : Reg) (ka kb : Bool)
  | sendr (a b : Reg) (ka kb : Bool)
  | sendv (a b : Reg) (ka kb : Bool)
  | reply (a b : Reg) (ka kb : Bool)
  | mbind (a b : Reg) (ka kb : Bool)
  | mseal (a b : Reg) (ka kb : Bool)
  | rankrd (a b : Reg) (ka : Bool)
  | rankwr (a b : Reg) (ka kb : Bool)
  | rankmv (a : Reg) (ka : Bool)
  | pjoin (a b : Reg) (ka kb : Bool)
  | pleave (a : Reg) (ka : Bool)
  | psig (a : Reg) (ka : Bool)
  | pwait (a b : Reg) (ka : Bool)
  | psigw (a b : Reg) (ka : Bool)
  | pqry (a b : Reg) (ka : Bool)
  | dqpush (a b : Reg) (ka kb : Bool)
  | dqpop (b : Reg)
  | dqsplit (a : Reg) (ka : Bool)
  | dqsteal (a b : Reg) (ka : Bool)
  | gdec (a : Reg) (ka : Bool)
  | garm (a b : Reg) (ka kb : Bool)
  | tdead (a : Reg) (ka : Bool)
  | tclass (a : Reg) (ka : Bool)
  | thrbind (a b : Reg) (ka kb : Bool)
  | cpy (a b : Reg) (ka kb : Bool) (t : BitVec 3)
  | cpym (a b : Reg) (ka kb : Bool) (t : BitVec 3)
  | cpyg (a b : Reg) (ka kb : Bool) (t : BitVec 3)
  | strm (a b : Reg) (ka kb : Bool) (t : BitVec 3)
  | qbind (a b : Reg) (ka kb : Bool)
  | prel (a : Reg) (ka : Bool)
  | bufdef (a b : Reg) (ka kb : Bool)
  | publish (a : Reg) (ka : Bool)
  | cpoll (a b : Reg) (ka kb : Bool) (t : BitVec 3)
  | ringeos (a : Reg) (ka : Bool)
  | mmul (a b : Reg) (ka kb : Bool) (t : BitVec 3)
  | mzero (t : BitVec 3)
  | mdrain (a b : Reg) (ka kb : Bool) (t : BitVec 3)
  | mopen
  | mclose
  | mctx (a : Reg) (ka : Bool)
  | mpark
  | munpark
  | sghash (a b : Reg) (ka kb : Bool)
  | sgroom (a : Reg) (ka : Bool)
  | sglead (a b : Reg) (ka kb : Bool)
  | sgscat (a b : Reg) (ka kb : Bool)
  | sgsum (a b : Reg) (ka kb : Bool)
  | sgsel (a b : Reg) (ka kb : Bool)
  | xdef (a b : Reg) (ka kb : Bool)
  | xset (a b : Reg) (ka kb : Bool)
  | xnext (a : Reg) (ka : Bool)
  | xpost (a : Reg) (ka : Bool)
  | xpop (b : Reg)
  | xcurf (a : Reg) (ka : Bool)
  | xdep (a b : Reg) (ka kb : Bool)
  | xsamp (a b : Reg) (ka kb : Bool)
  | xbudg (a b : Reg) (ka kb : Bool)
  | ecfg (a b : Reg) (ka kb : Bool)
  | erd (a b : Reg) (ka : Bool)
  | edrain (a : Reg) (ka : Bool)
  | amadd (d a b : Reg) (ka kb w aq rl : Bool)
  | amand (d a b : Reg) (ka kb w aq rl : Bool)
  | amor (d a b : Reg) (ka kb w aq rl : Bool)
  | amxor (d a b : Reg) (ka kb w aq rl : Bool)
  | ammin (d a b : Reg) (ka kb w aq rl : Bool)
  | ammax (d a b : Reg) (ka kb w aq rl : Bool)
  | amminn (d a b : Reg) (ka kb w aq rl : Bool)
  | ammaxn (d a b : Reg) (ka kb w aq rl : Bool)
  | amswp (d a b : Reg) (ka kb w aq rl : Bool)
  | amcas (d a b : Reg) (ka kb w aq rl : Bool)
  | amfadd (d a b : Reg) (ka kb w aq rl : Bool)
  | amfmin (d a b : Reg) (ka kb w aq rl : Bool)
  | amfmax (d a b : Reg) (ka kb w aq rl : Bool)
  | redadd (a b : Reg) (ka kb w rl : Bool)
  | redand (a b : Reg) (ka kb w rl : Bool)
  | redor (a b : Reg) (ka kb w rl : Bool)
  | redxor (a b : Reg) (ka kb w rl : Bool)
  | redmin (a b : Reg) (ka kb w rl : Bool)
  | redmax (a b : Reg) (ka kb w rl : Bool)
  | redminn (a b : Reg) (ka kb w rl : Bool)
  | redmaxn (a b : Reg) (ka kb w rl : Bool)
  | redfadd (a b : Reg) (ka kb w rl : Bool)
  | redfmin (a b : Reg) (ka kb w rl : Bool)
  | redfmax (a b : Reg) (ka kb w rl : Bool)
  | fence (kind : FenceKind) (scope : Scope)
  | tend
  | tret
  | trap (c : BitVec 10)
  | crr (d : Reg) (c : BitVec 10)
  | crw (d : Reg) (c : BitVec 10)
  | crs (d : Reg) (c : BitVec 10)
  | crc (d : Reg) (c : BitVec 10)
  | sete (d : Reg)
  | tstf (d a : Reg)
  | winbeg
  | winend
  | brk (c : BitVec 10)
  | cflush (a : Reg) (ka : Bool)
  | cinvLine (a : Reg) (ka : Bool)
  | cinvL1
  | cinvIcache
  | pref (a : Reg) (hint : Hint) (ka : Bool)
  | migr (a b : Reg) (ka kb : Bool)
  | errrd (d a : Reg) (ka : Bool)
  | errclr (a : Reg) (ka : Bool)
  | nop
  | sigchk (s : BitVec 15)
deriving DecidableEq, Repr, Inhabited

end Sys2Proof
end

