-- ==== Sys2Proof/Machine/State.lean ====
section
/-! DEFINITION. The state of the module: every register, memory, queue and table the spec names, as plain data. Tables
over stations, clusters, dies or table indices are lists of key and value sorted by key; a key not listed stands for the
reset value. `State.reset` is the module right after reset: it waits for its configuration image (R437). -/
namespace Sys2Proof.Machine

/-! ## Holders: registers, loops, loads in flight, ports -/

/-- The full/empty state of a register (R21, R24): full; empty with nothing outstanding; or empty with the producer of
the given issue number outstanding. -/
inductive Avail where
  | full | empty | pending (op : Nat)
deriving DecidableEq, Repr, Inhabited

/-- A scalar register with its full/empty state. -/
structure SReg where
  val : Word
  avail : Avail
deriving DecidableEq, Repr, Inhabited

/-- A vector register with its full/empty state. -/
structure VReg where
  val : VWord
  avail : Avail
deriving DecidableEq, Repr, Inhabited

/-- An entry of the loop stack (R95): first body instruction, body length, iterations that remain, frozen by a trap
(R98). -/
structure LoopEntry where
  start : Word
  len : Nat
  count : Nat
  frozen : Bool
deriving DecidableEq, Repr, Inhabited

/-- A trap as it is taken: cause, TVAL, the FVA value where R350 writes one, and whether it reports a held store
failure (R352 step 3). -/
structure TrapInfo where
  cause : Nat
  tval : Word
  fva : Option Word
  held : Bool
deriving DecidableEq, Repr, Inhabited

/-- The registers a load's trap gives back (R91): as they stood when the load issued, its own destination empty. -/
structure Snapshot where
  s : Vector SReg 32
  v : Vector VReg 32
  m : Vector MWord 8
  loops : List LoopEntry
  fflags : Word
  vflags : Word
  sigacc : BitVec 15
deriving DecidableEq, Repr, Inhabited

/-- What an unsettled instruction writes when its value lands. -/
inductive LoadKind where
  /-- A scalar load: destination, bytes, sign extension. -/
  | scalar (d : Reg) (size : Nat) (signed : Bool)
  /-- VLD; `typed` tells a typed access (R125). -/
  | vector (d : Reg) (typed : Bool)
  /-- VLDX: destination, element bytes, the old value, the enabled elements. -/
  | gather (d : Reg) (w : Nat) (enabled : List Nat)
  /-- A returning atomic: destination, operation width, floating, aq. -/
  | amo (d : Reg) (wide float aq : Bool)
  /-- A returning engine command: destination, or destination pair (R187). -/
  | engine (d : Reg) (pair : Bool)
  /-- PWAIT and PSIGW: also acquire points (R189). -/
  | phaser (d : Reg)
  /-- PJOIN and a ring QBIND, whose answer the slot waits for (R202, R273). -/
  | answer
deriving DecidableEq, Repr, Inhabited

/-- An element a port holds (R238, R240), or the trap its reader takes. -/
structure PortElem where
  idx : Nat
  val : VWord
  trap : Option TrapInfo
deriving DecidableEq, Repr, Inhabited

/-- A push through an output port that becomes final with the loads before it (R25, R90): the port, the element's number, the
pushing instruction, the value. -/
structure PortPush where
  port : Nat
  idx : Nat
  pc : Word
  val : VWord
deriving DecidableEq, Repr, Inhabited

/-- A load, returning atomic or returning command that has issued and not settled (R90, R189). `left` counts its parts
not yet performed; `buf` holds what has come back; `trap` the trap that came back; `snap` the registers as they stood at
issue; `since` counts the instructions issued after it and before the next unsettled one, and `checks` holds the SIGCHKs
among them (address, expected, observed) (R396). `took` lists what its take has emptied (R91); `pops` and `pushes` are what the
instructions counted by `since` have popped from ports and pushed through them (R25). -/
structure Unsettled where
  op : Nat
  pc : Word
  addr : Word
  kind : LoadKind
  qual : Bool
  left : Nat
  buf : List (Nat × List Byte)
  trap : Option TrapInfo
  parked : Nat
  snap : Snapshot
  since : Nat
  checks : List (Word × BitVec 15 × BitVec 15)
  took : List (Nat × Nat) := []
  pops : List (Nat × PortElem) := []
  pushes : List PortPush := []
deriving DecidableEq, Repr, Inhabited

/-- A store, reduction or write-back that has issued and has `left` parts not yet performed, of which `host` are known to go
to host memory (R92, R341, R379). -/
structure OutStore where
  op : Nat
  task : Word
  pc : Word
  addr : Word
  reduction : Bool
  host : Nat
  qual : Bool
  left : Nat
  parked : Nat
  /-- The output stream port whose element it writes, the parts not yet sent, and the number of the STRM (R238, R272). -/
  port : Option Nat
  queued : List AccPart := []
  strm : Nat := 0
deriving DecidableEq, Repr, Inhabited

/-- A store failure held for the next FENCE or TEND (R325, R351). -/
structure HeldFailure where
  cause : Nat
  pc : Word
  addr : Word
deriving DecidableEq, Repr, Inhabited

/-- What a port register is bound to (R237). A stream carries its captured geometry; `next` counts elements fetched
or pushed, `done` the elements whose write has been performed. A ring carries its die, its descriptor and its index. -/
inductive PortTarget where
  | queue (q : Nat)
  | ring (die desc idx : Nat)
  | stream (base : Word) (len rows : Nat) (stride : Word) (op : Nat) (ceil tries : Nat)
deriving DecidableEq, Repr, Inhabited

/-- A retry under way of line parts of an engine command that fault (R236, R238, R323): its number, its time, the lines that
have parked so far, those whose translation has faulted (R327), and those whose port or link has not answered yet, with the time
at which it was asked (R321, R435). -/
structure LineRetry where
  attempt : Nat
  at_ : Nat
  lines : List Nat
  faulted : List Nat := []
  asked : List (Nat × Nat) := []
deriving DecidableEq, Repr, Inhabited

/-- A port binding (R25, R237): 0–3 for s28–s31, 4–7 for v28–v31. -/
structure PortBinding where
  port : Nat
  out : Bool
  target : PortTarget
  next : Nat
  pending : Nat
  held : List PortElem
  ended : Bool
  /-- The retry under way of a stream element that faulted (R238). -/
  retry : Option LineRetry
deriving DecidableEq, Repr, Inhabited

/-- The states of R159. `halted` keeps the state before the halt. `stopping` is that of a loader or a storer that issues no
more while its task's TEND waits (R16). -/
inductive HolderState where
  | free | reserved | pending | run | parked
  | halted (parked : Bool)
  | stopping
deriving DecidableEq, Repr, Inhabited

/-- A membership the issuing station keeps for its task (R200), in joining order. -/
structure Joined where
  rank : Nat
  idx : Nat
  mode : Nat
deriving DecidableEq, Repr, Inhabited

/-- What a task was launched with, and what the station keeps for it (R129, R153, R157, R163, R424, R425). -/
structure TaskInfo where
  header : Word
  payload : List Word
  srcRank : Nat
  reply : Option Word
  tcmn : Nat
  phn : Nat
  loader : Bool
  storer : Bool
  cctr : Option Nat
  jseq : Word
  gang : Option (Nat × Nat × Nat)
deriving DecidableEq, Repr, Inhabited

/-- One holder: a slot, the urgent bank, the loader, the storer or an innkeeper. The loader and the storer use the
registers, the pc, the loop stack and SIGACC; the rest stays at reset in them. `ir` is the word last fetched. -/
structure Holder where
  state : HolderState
  s : Vector SReg 32
  v : Vector VReg 32
  m : Vector MWord 8
  pc : Word
  ir : BitVec 32
  loops : List LoopEntry
  -- TSTATUS (R351)
  sigsav : BitVec 15
  sigacc : BitVec 15
  nfail : Nat
  loopsAt : Nat
  source : Nat
  failure : Option HeldFailure
  inh : Bool
  -- the other slot control registers (R26)
  epc : Word
  cause : Word
  fva : Word
  tval : Word
  tvec : Word
  fctl : Word
  fflags : Word
  vctl : Word
  vflags : Word
  taskid : Word
  tilec : Word
  cls : Nat
  deadl : Word
  pgceil : Nat
  pgtries : Nat
  ep : Nat
  task : Option TaskInfo
  /-- The slot a loader or storer serves (R37). -/
  serves : Nat
  /-- The masked window: the station clock when it opened (R160). -/
  window : Option Nat
  ports : List PortBinding
  phasers : List Joined
  unsettled : List Unsettled
  stores : List OutStore
  /-- A trap at issue held behind unsettled loads, with its address (R90). -/
  heldTrap : Option (Word × TrapInfo)
  /-- A trap taken before the next instruction issues (MASKWIN, UNDELIVERABLE of R202, a trap passed by R39). -/
  asyncTrap : List (TrapInfo × Nat)
  /-- Release fences whose conditions do not hold yet: issue number and scope (R341). -/
  releases : List (Nat × Scope)
  /-- The FENCE, EDRAIN or PARK at the pc has issued and waits (R290, R341, R284). -/
  waiting : Bool
  /-- An atomic with aq, or a command whose answer is awaited, after which nothing issues (R340). -/
  acquire : Option Nat
  /-- The last trapped restore (R99): ILLEGAL at the first instruction. -/
  badRestore : Bool
  /-- Withdrawn instructions to reissue after a restore (R34), in order: the record and the parts withdrawn. -/
  reissue : List (Unsettled × List AccPart)
deriving DecidableEq, Repr, Inhabited

/-! ## Engines of a station -/

/-- A byte as an engine reads it: its value, whether it comes from a poisoned line or could not be read, and whether it
arrived at all. -/
structure EByte where
  b : Byte
  poison : Bool
  arrived : Bool
deriving DecidableEq, Repr, Inhabited

/-- One COPY descriptor set (R212, R233). -/
structure CopySet where
  len : Nat
  rows : Nat
  sstr : Word
  dstr : Word
  idx : Word
  fb : Word
  ft : Nat
  done : Word
  cmp : Word
deriving DecidableEq, Repr, Inhabited

/-- The operand registers of the matrix engine a command captures (R247). -/
structure MxRegs where
  pa : Nat
  pb : Nat
  kg : Nat
  dfmt : Nat
deriving DecidableEq, Repr, Inhabited

/-- The registers of the signature unit (R212, R259). -/
structure SgRegs where
  w : Nat
  seed : Word
  rule : Nat
  rows : Nat
  kg : Nat
  rl : Word
  slen : Nat
  smode : Nat
  keys : Word
  nq : Nat
  nk : Nat
  topk : Nat
deriving DecidableEq, Repr, Inhabited

inductive CopyKind where
  | plain | follow | gather
deriving DecidableEq, Repr, Inhabited

/-- An accepted copy (R266 to R268): its captured registers, the work it counts as, and how far it has come. `row` is
the next row. While lines of the rows under way are parked the others go on (R236): `got` holds what has been read (row, place
in it, bytes), `placed` the groups of the row that have been placed, `data` the row once it has been read whole, and `put` the
destination lines written. `ghosts` are the lines it has poisoned, `noted` those of which it has left a record, and `missed` the
destination lines, by address, of which a part could not be written. -/
structure CopyCmd where
  id : Nat
  kind : CopyKind
  who : Who
  acc : Access
  set : Nat
  src : Word
  dst : Word
  regs : CopySet
  table : List (Nat × Word)
  row : Nat
  idxs : List Nat
  faulted : Bool
  retry : Option LineRetry
  ghosts : List Nat
  got : List (Nat × Nat × List EByte)
  placed : List Nat
  data : Option (List EByte)
  put : List Nat
  noted : List Nat
  missed : List Nat := []
  landed : Bool
  tilec : Word
deriving DecidableEq, Repr, Inhabited

inductive MtxKind where
  | zero (t : Nat) | mul (a b : Word) (t : Nat) | drain (dst stride : Word) (t : Nat)
  | park (slot : Nat) | unpark (slot : Nat)
deriving DecidableEq, Repr, Inhabited

/-- An accepted matrix command of a context. `ready` is false for a CPYM follow-on whose copy is not complete (R215). -/
structure MtxCmd where
  id : Nat
  kind : MtxKind
  who : Who
  acc : Access
  regs : MxRegs
  ready : Bool
  step : Nat
  retry : Option LineRetry
deriving DecidableEq, Repr, Inhabited

inductive SigKind where
  | hash | room | lead | scat | sum | sel
deriving DecidableEq, Repr, Inhabited

/-- An accepted signature command. -/
structure SigCmd where
  id : Nat
  kind : SigKind
  who : Who
  acc : Access
  a : Word
  b : Word
  regs : SgRegs
  retry : Option LineRetry
deriving DecidableEq, Repr, Inhabited

/-- A PUBLISH accepted and not yet exchanged (R242, R277). -/
structure PublishCmd where
  id : Nat
  who : Who
  task : Word
  op : Nat
  base : Nat
deriving DecidableEq, Repr, Inhabited

/-- A buffer window (R221, R241): pool offset of base, half length, its owner. The visible half always lies at base:
PUBLISH exchanges the contents of the halves. `live` is false
once it is dissolved while engine writes accepted before may still land (R221). `born` and `died` are issue numbers. -/
structure BufWindow where
  base : Nat
  len : Nat
  owner : Core
  task : Word
  live : Bool
  born : Nat
  died : Nat
deriving DecidableEq, Repr, Inhabited

/-- A pending CPOLL notification (R234). -/
structure Notify where
  set : Nat
  addr : Word
  target : Word
  acc : Access
deriving DecidableEq, Repr, Inhabited

/-- A crossing variable (R397, R405). FP64 fields hold bits; `tn = none` is never; `posted` is its time on the departure
board. -/
structure XVar where
  x : Word
  q : Word
  s : Word
  d : Word
  tl : Nat
  last : Nat
  tn : Option Nat
  d0 : Word
  dmax : Word
  same : List Delivery
  sbase : Word
  posted : Option Nat
deriving DecidableEq, Repr, Inhabited

/-- A dependence entry (R402, R406). -/
structure XDep where
  svar : Nat
  drank : Nat
  dvar : Nat
  coef : Word
  seq : Nat
deriving DecidableEq, Repr, Inhabited

/-- The crossing unit of a station. -/
structure Crossing where
  vars : List (Nat × XVar)
  deps : List XDep
  seq : Nat
  curfew : Nat
  dtmin : Nat
  budg : Nat
  dbl : Word
  overs : Word
  vsel : Nat
  pool : List Delivery
  window : Nat
  pops : Nat
deriving DecidableEq, Repr, Inhabited

/-! ## Caches -/

/-- A valid line of a station L1 (R297, R309): place, tag, state, sectors and data. `fill0` and `fill1` mark sectors
whose data is on its way, `waiters` the parts that wait for them, and `patches` the station's own stores to such sectors
since the home read them (R338), by offset in the line; `asking` marks a request for Exclusive on its way. `id` numbers the
allocations of the L1: what arrives for another allocation is not for this line. -/
structure L1Line where
  id : Nat
  set : Nat
  way : Nat
  va : Nat
  asn : Nat
  exclusive : Bool
  pa : Nat
  present0 : Bool
  present1 : Bool
  dirty0 : Bool
  dirty1 : Bool
  data : BitVec 1024
  owner : Nat
  stamp : Nat
  fill0 : Bool
  fill1 : Bool
  asking : Bool
  waiters : List AccPart
  patches : List (Nat × List Byte)
deriving DecidableEq, Repr, Inhabited

/-- A valid line of an instruction cache (R40), by the address of its first byte and the address space. -/
structure ICacheLine where
  set : Nat
  way : Nat
  line : Nat
  asn : Nat
  data : BitVec 1024
  stamp : Nat
deriving DecidableEq, Repr, Inhabited

/-! ## The station -/

/-- A mailbox record in use (R153, R371). Its contents are bytes of the pool; these are the unit's own marks: which
queue it waits in, its order of arrival, and what a launch keeps beside the record. -/
structure MailRec where
  idx : Nat
  urg : Bool
  ret : Bool
  order : Nat
  own : Bool
  reply : Option Word
  gang : Option (Nat × Nat × Nat)
  sender : Word
deriving DecidableEq, Repr, Inhabited

/-- A range bound by MBIND (R195). -/
structure MailBinding where
  lo : Nat
  n : Nat
  urg : Bool
  cls : Nat
  handler : Nat
  active : Bool
  /-- The holder whose work the binding is while it waits (R290). -/
  who : Who
deriving DecidableEq, Repr, Inhabited

/-- A threshold register pair (R174 to R176) and its binding (R210). -/
structure Threshold where
  count : Word
  sel : Word
  fired : Bool
  bound : Option (Bool × Nat × Nat)
deriving DecidableEq, Repr, Inhabited

/-- A member of a phaser (R177): its task, mode, and lp or wp. -/
structure PhMember where
  who : Who
  task : Word
  mode : Nat
  cnt : BitVec 32
deriving DecidableEq, Repr, Inhabited

/-- A phaser operation that waits at its home; `signalled` is set once a PSIGW has signalled (R201). -/
structure PhWait where
  op : PhaserOp
  signalled : Bool
deriving DecidableEq, Repr, Inhabited

/-- A phaser at its home (R177). -/
structure Phaser where
  phase : BitVec 32
  members : List PhMember
  waiting : List PhWait
deriving DecidableEq, Repr, Inhabited

/-- A station's view of the neighbour in one direction (R366 to R368). -/
structure Neighbour where
  /-- The last periods in which a valid heartbeat arrived, latest first. -/
  heard : List Nat
  /-- SEQ and COUNT of the last heartbeats, latest first. -/
  counts : List (Nat × Nat)
  /-- The last period in which a heartbeat had a CHK bit 0, and in which a flit was malformed. -/
  chkBad : Option Nat
  malformed : Option Nat
  /-- Class-0 flits that arrived from it in the period under way. -/
  flits : Nat
  /-- Message heads sent toward it in the period under way and in the one before. -/
  sent : Nat
  sentPrev : Nat
  /-- Message heads that arrived from it, by their stamp. -/
  arrived : List (Nat × Nat)
  /-- The last judged periods with WHY of the suspicion (0 none, 1 silent, 2 babbling, 3 self-check), latest first. -/
  judged : List (Nat × Nat)
  v : Nat
  vPrev : Nat
  shut : Bool
  /-- Its last heartbeat carried APPEAL, and the periods without suspicion since then. -/
  appeal : Bool
  appealOk : Nat
deriving DecidableEq, Repr, Inhabited

/-- One station. `held` counts the traffic held for ranks in transit (R199); `outq` the messages in the outbound queue
(R191). Sub-tables not listed hold reset values. -/
structure Station where
  cores : Vector Holder 8
  /-- The slot the round-robin order starts at (R20). -/
  order : Nat
  -- the pool layout (R28, R29), in 8 KiB units
  plb1 : Nat
  plb2 : Nat
  plb3 : Nat
  app1 : Nat
  app2 : Nat
  app3 : Nat
  pend : Bool
  launches : Nat
  /-- TCM units and phaser slots held for the die's oldest waiting gang, beside the slots RESERVED for it (R165). -/
  gangTcm : Nat
  gangPh : Nat
  handlers : List (Nat × BitVec 256)
  -- mailbox and message unit
  mail : List MailRec
  arrivals : Nat
  bindings : List MailBinding
  seals : List Nat
  ranks : List (Nat × BitVec 16)
  outq : List Nat
  held : List (Nat × Instr)
  rounds : List (Nat × Nat × Nat)
  thresholds : List (Nat × Threshold)
  -- synchronisation engine
  phasers : List (Nat × Phaser)
  deque : List (Word × Nat)
  /-- The order key of the last phaser operation that arrived here, and of the last operation of the deque, each with its cycle of the
  station clock (R5, R201, R205). -/
  phLast : Nat × Nat
  dqLast : Nat × Nat
  stealAt : Nat
  stealNext : Nat
  queues : List (Nat × List Word)
  -- copy, matrix, signature and crossing engines
  sets : Vector CopySet 8
  copies : List CopyCmd
  publishes : List PublishCmd
  windows : List BufWindow
  notifies : List Notify
  mx : MxRegs
  cbt : List (Nat × Word)
  acc : List (Nat × BitVec 32)
  mtx0 : List MtxCmd
  mtx1 : List MtxCmd
  batch0 : Option Nat
  batch1 : Bool
  mopenq : List Nat
  parkedBy : Option Nat
  parking : Option Nat
  /-- The batch of context 0 closes once the commands it has accepted are complete (R252). -/
  closing0 : Bool
  /-- The task that had parked context 0 has ended: it is restored once the accepted commands are complete (R256). -/
  restoring : Bool
  sg : SgRegs
  sigs : List SigCmd
  xing : Crossing
  -- caches
  tenant : Word
  waymask : List (Nat × Word)
  staged : List (Nat × Word)
  /-- TENANT and WAYMASK writes that take effect in the next cycle (R299): number, value, cycle. -/
  late : List (Nat × Word × Nat)
  l1 : List L1Line
  /-- Lines that have left the L1 while data or ownership asked for them was on its way, with the parts that wait for it (R297,
  R338). -/
  leaving : List L1Line
  icache : List ICacheLine
  stamp : Nat
  -- containment and roll call
  shut : Bool
  shutWhy : Nat
  shutPeriod : Nat
  /-- The period from which on it is shuttered (R367). -/
  shutFrom : Nat
  sealed : Bool
  appealing : Bool
  testing : Bool
  appeals : List Nat
  gated : Bool
  halted : Bool
  /-- The period under way (R365). -/
  epoch : Nat
  neighbours : Vector Neighbour 4
  /-- Vote flits: the period they judge, the direction of the station they name, voter, suspicion (R367). -/
  votes : List (Nat × Nat × Nat × Bool)
  returns : Nat
deriving DecidableEq, Repr, Inhabited

/-! ## Clusters, dies, slices -/

/-- A scratchpad's formats and side storage (R224, R227): by bank the register; by bank and group the shared exponent
(offset by 256) and the NaN mark. -/
structure Cluster where
  bfmt : List (Nat × Word)
  side : List (Nat × Nat × Nat × Bool)
  /-- The banks whose format is being written, each with the issue number from which on accesses and commands wait (R225). -/
  closing : List (Nat × Nat)
deriving DecidableEq, Repr, Inhabited

/-- A launch the dispatcher holds ready (R170). -/
structure Ready where
  header : Word
  payload : List Word
  tilec : Word
  deadline : Word
  cctr : Option Nat
  ep : Nat
  order : Nat
  src : Nat
  gang : Option (Nat × Nat)
  pipe : Bool
  lap : Nat
deriving DecidableEq, Repr, Inhabited

/-- A gang that runs (R165, R185). -/
structure Gang where
  index : Nat
  ready : Ready
  members : List (Nat × Nat)
deriving DecidableEq, Repr, Inhabited

/-- What a ring's home keeps beside the descriptor (R240): entries handed out and not yet popped, entries given back
unread, consumer requests and pushes that wait. -/
structure RingState where
  handed : Nat
  returned : List PortElem
  requests : List RingOp
  pushes : List RingOp
deriving DecidableEq, Repr, Inhabited

/-- A relay collective under way (R375, R434): where its descriptor lies, its captured words, this module's step and
whether it is acknowledged, when that was last sent, the retries used, the source bytes kept for it, the access its copy
made, and the frames received from the other members. -/
structure Collective where
  desc : Nat
  words : List Word
  acked : Bool
  sentAt : Nat
  tries : Nat
  kept : List Byte
  acc : Access
  got : List RelayFrame
deriving DecidableEq, Repr, Inhabited

/-- A compute die: dispatcher, journal counter, station clock, relay unit. -/
structure Die where
  ready : List Ready
  gangs : List Ready
  running : List Gang
  gangIndex : Nat
  cursor : Nat
  orders : Nat
  rounds : List (Nat × Nat × Nat)
  jseq : Nat
  /-- Station clock (R5): sixty-fourths of an edge counted up to a package time, and the rate since then. -/
  clock : Nat
  clockAt : Nat
  rate : Nat
  inReset : Bool
  collectives : List Collective
  rings : List (Nat × RingState)
deriving DecidableEq, Repr, Inhabited

/-- A journal entry in use (R426): die, entry, sequence, state, running station; with it the message as it was accepted, for
what its record does not hold, and how often containment has stopped its task (R372). -/
structure JEntry where
  die : Nat
  idx : Nat
  seq : Word
  launched : Bool
  station : Nat
  stops : Nat
  msg : Msg
deriving DecidableEq, Repr, Inhabited

/-- A cached translation of a slice (R317): level of the leaf, base of the page, frame, permissions R, W, X. -/
structure TlbEntry where
  slice : Nat
  asn : Nat
  level : Nat
  base : Nat
  frame : Nat
  r : Bool
  w : Bool
  x : Bool
  stamp : Nat
deriving DecidableEq, Repr, Inhabited

/-- A walk-cache entry: the address of the table that serves a va prefix at a level. -/
structure WalkEntry where
  slice : Nat
  asn : Nat
  level : Nat
  pre : Nat
  table : Nat
deriving DecidableEq, Repr, Inhabited

/-- A line a slice holds (R307, R314, R315). -/
structure SliceLine where
  slice : Nat
  set : Nat
  way : Nat
  line : Nat
  cls : Nat
  stamp : Nat
deriving DecidableEq, Repr, Inhabited

/-- An access parked at its translating slice (R323, R321), with the time of its next retry. -/
structure Parked where
  part : AccPart
  slice : Nat
  at_ : Nat
  walk : Bool
deriving DecidableEq, Repr, Inhabited

/-- A migration under way (R333): page, old and new frame, the accesses queued, and its stage: 0 from step 1 on, 1 once the
frame is frozen (step 3), 2 while the queue is replayed (step 6). -/
structure Migration where
  asn : Nat
  va : Nat
  old : Nat
  new : Nat
  leaf : Nat
  requester : Nat
  stage : Nat
  queue : List AccPart
deriving DecidableEq, Repr, Inhabited

/-- A fault notice (R327): address space, virtual address, kind of access, the requester's rank, and when it was formed or sent. -/
structure FaultNotice where
  asn : Nat
  va : Nat
  kind : PartKind
  rank : Nat
  time : Nat
deriving DecidableEq, Repr, Inhabited

/-- An error record (R360), with its order of arrival in its bank. -/
structure ErrRec where
  valid : Bool
  ovf : Bool
  cls : Nat
  kind : Nat
  subcode : Nat
  count : Nat
  addr : Word
  syndrome : Word
  context : Word
  order : Nat
deriving DecidableEq, Repr, Inhabited

/-- A notice for the owner host that has not been sent (R431): the bits of FNMODE of which one gives it to the host, and for an
escalation the record it reports. -/
structure DueNotice where
  bits : Nat
  kind : Nat
  subcode : Nat
  addr : Word
  syndrome : Word
  context : Word
deriving DecidableEq, Repr, Inhabited

/-! ## The module -/

/-- A step that is due at or after a time. -/
structure Timed where
  due : Nat
  ev : Instr
deriving DecidableEq, Repr, Inhabited

/-- One choice of what the spec leaves to the order of the module's parts and to the outside: which of the candidates moves,
how many cycles of package time pass, which CXL ports (0–7) and Ranaeso links (8 + link) do not answer, and the physical
addresses, divided by 128, of the lines whose homes answer that they are not resident (R321). -/
structure Turn where
  pick : Nat
  cycles : Nat
  silent : List Nat := []
  absent : List Nat := []
deriving DecidableEq, Repr, Inhabited

/-- The stages of bring-up (R437): waiting for the image, held in reset by a bad image, running. -/
inductive Boot where
  | waiting | failed | running
deriving DecidableEq, Repr, Inhabited

/-- The whole module. `mem` lists the bytes that are not zero, by the addresses of Sys2Proof/Config.lean, strictly
rising; `empties` the granules that are empty, `poison` the lines that are poisoned (R35, R308), as addresses divided by
16 and by 128. `cur` is the holder whose instruction is executed, `waits` tells that the instruction or step could not
be performed and left everything as it was, `ops` numbers instructions and commands in issue order. -/
structure State where
  mem : List Host.Cell
  empties : List Nat
  poison : List Nat
  stations : List (Nat × Station)
  clusters : List (Nat × Cluster)
  dies : List (Nat × Die)
  now : Nat
  ops : Nat
  cur : Who
  waits : Bool
  agenda : List Timed
  schedule : List Turn
  /-- Accesses that wait at a home on a granule, oldest first (R89). -/
  waiting : List AccPart
  -- slices
  parked : List Parked
  /-- Accesses held behind a parked one of the same slot and page (R326). -/
  behind : List AccPart
  owners : List (Nat × Nat)
  tlb : List TlbEntry
  walks : List WalkEntry
  lines : List SliceLine
  stamp : Nat
  migrations : List Migration
  /-- The last notice sent of each page, the notices not yet sent (R327), the other notices that are due to the owner host, and how
  many records have been written to its notice area (R431). -/
  faultNotices : List FaultNotice
  unsentNotices : List FaultNotice
  noticesDue : List DueNotice
  noticesSent : Nat
  shootdowns : List (Nat × Nat)
  /-- When each rank was last re-pointed after a shuttering (R372), in package time. -/
  repointed : List (Nat × Nat)
  /-- The broadcasts of raised counters (R171): the heartbeat period in which each went out, and its number. -/
  broadcasts : List (Nat × Nat)
  -- error-record banks, by bank key (Sys2Proof/Machine/Ops.lean)
  banks : List (Nat × List ErrRec)
  errOrder : Nat
  journal : List JEntry
  -- management window (R313, R318, R428)
  classcfg : List (Nat × Word)
  asroot : List (Nat × Word)
  status : Word
  vacant : Bool
  master : Nat
  claims : List (Nat × Word)
  election : Option Nat
  fnmodeset : Word
  fnmode : Word
  notice : Word
  dbgctl : Bool
  -- links and ports
  lastSeq : List (Nat × Nat)
  cxl : List (Nat × Nat)
  /-- The ports and links that do not answer, and the lines that are not resident, in the step under way (R321). -/
  silent : List Nat
  absent : List Nat
  -- bring-up
  boot : Boot
  /-- Configuration SRAM: the image that has come (R437). -/
  sram : Option BootImage
  hbper : Nat
deriving DecidableEq, Repr, Inhabited

/-- Why a step has no next state. -/
inductive Fault where
  /-- Raised by every instruction's issue when `State.cur` names a holder the module does not have (R1, R18, R432): a
  station of 8,192 or more, or an innkeeper's core anywhere else than at 8,192 + cluster. No step sets `cur` so. Safe:
  the machine stops where the module has no core. -/
  | noSuchHolder (st : Nat)
deriving DecidableEq, Repr, Inhabited

/-- Why an instruction has no meaning in the model. -/
inductive Refusal where
  /-- Raised by `exec` for a row of the opcode table that has no meaning yet. Safe: the machine stops. -/
  | notModelled (mnemonic : String)
deriving DecidableEq, Repr, Inhabited

/-! ## Reset -/

/-- A register at reset: zero and full. -/
def SReg.zero : SReg := { val := 0, avail := .full }
def VReg.zero : VReg := { val := 0, avail := .full }

/-- A holder at reset: free, every register zero and full, every control register at the launch value of R26 with
TVEC 0. DESIGN CHOICE: the spec gives launch values; the model gives the same values before the first launch. -/
def Holder.reset : Holder where
  state := .free
  s := Vector.replicate 32 SReg.zero
  v := Vector.replicate 32 VReg.zero
  m := Vector.replicate 8 0
  pc := 0
  ir := 0
  loops := []
  sigsav := 0
  sigacc := 0
  nfail := 0
  loopsAt := 0
  source := 0
  failure := none
  inh := false
  epc := 0
  cause := 0
  fva := 0
  tval := 0
  tvec := 0
  fctl := 0
  fflags := 0
  vctl := 0
  vflags := 0
  taskid := 0
  tilec := 0
  cls := 0
  deadl := 0xFFFF_FFFF_FFFF_FFFF#64
  pgceil := 65536
  pgtries := 16
  ep := 0
  task := none
  serves := 0
  window := none
  ports := []
  phasers := []
  unsettled := []
  stores := []
  heldTrap := none
  asyncTrap := []
  releases := []
  waiting := false
  acquire := none
  badRestore := false
  reissue := []

/-- A descriptor set at reset (R212, R233). -/
def CopySet.reset : CopySet :=
  { len := 0, rows := 1, sstr := 0, dstr := 0, idx := 0, fb := 0, ft := 0, done := 0, cmp := 0 }

/-- The matrix registers at reset (R247). -/
def MxRegs.reset : MxRegs := { pa := 8, pb := 8, kg := 1, dfmt := 0x17 }

/-- The signature registers at reset (R212, R259). -/
def SgRegs.reset : SgRegs :=
  { w := 32, seed := 0, rule := 0, rows := 64, kg := 1, rl := 0, slen := 0, smode := 0, keys := 0, nq := 1, nk := 1,
    topk := 1 }

/-- The crossing unit at reset (R397, R407). -/
def Crossing.reset : Crossing :=
  { vars := [], deps := [], seq := 0, curfew := 0, dtmin := 1, budg := 0, dbl := 0, overs := 0, vsel := 0, pool := [],
    window := 0, pops := 0 }

/-- A neighbour at reset (R368). -/
def Neighbour.reset : Neighbour :=
  { heard := [], counts := [], chkBad := none, malformed := none, flits := 0, sent := 0, sentPrev := 0, arrived := [],
    judged := [], v := 0, vPrev := 0, shut := false, appeal := false, appealOk := 0 }

/-- A station at reset: the reset layout of R28, every table empty, no rank rewritten (R197). -/
def Station.reset : Station where
  cores := Vector.replicate 8 Holder.reset
  order := 0
  plb1 := 6
  plb2 := 30
  plb3 := 46
  app1 := 6
  app2 := 30
  app3 := 46
  pend := false
  gangTcm := 0
  gangPh := 0
  launches := 0
  handlers := []
  mail := []
  arrivals := 0
  bindings := []
  seals := []
  ranks := []
  outq := []
  held := []
  rounds := []
  thresholds := []
  phasers := []
  deque := []
  phLast := (0, 0)
  dqLast := (0, 0)
  stealAt := 0
  stealNext := 0
  queues := []
  sets := Vector.replicate 8 CopySet.reset
  copies := []
  publishes := []
  windows := []
  notifies := []
  mx := MxRegs.reset
  cbt := []
  acc := []
  mtx0 := []
  mtx1 := []
  batch0 := none
  batch1 := false
  mopenq := []
  parkedBy := none
  parking := none
  closing0 := false
  restoring := false
  sg := SgRegs.reset
  sigs := []
  xing := Crossing.reset
  tenant := 0
  waymask := []
  staged := []
  late := []
  l1 := []
  leaving := []
  icache := []
  stamp := 0
  shut := false
  shutWhy := 0
  shutPeriod := 0
  shutFrom := 0
  sealed := false
  appealing := false
  testing := false
  appeals := []
  gated := false
  halted := false
  epoch := 0
  neighbours := Vector.replicate 4 Neighbour.reset
  votes := []
  returns := 0

def Cluster.reset : Cluster := { bfmt := [], side := [], closing := [] }

/-- A die at reset (R164, R166): no launch, gang index 0, the cursor at the die's first rank, full clock rate. -/
def Die.reset : Die :=
  { ready := [], gangs := [], running := [], gangIndex := 0, cursor := 0, orders := 0, rounds := [], jseq := 0,
    clock := 0, clockAt := 0, rate := 64, inReset := false, collectives := [], rings := [] }

/-- The module right after power-on: it waits for its configuration image (R437). Memory reads zero, every granule is
full and no line is poisoned (R35). Registers without a stated reset value are zero (log entry 1). -/
def State.reset : State where
  mem := []
  empties := []
  poison := []
  stations := []
  clusters := []
  dies := []
  now := 0
  ops := 0
  cur := { st := 0, core := .slot0 }
  waits := false
  agenda := []
  schedule := []
  waiting := []
  parked := []
  behind := []
  owners := []
  tlb := []
  walks := []
  lines := []
  stamp := 0
  migrations := []
  faultNotices := []
  unsentNotices := []
  noticesDue := []
  noticesSent := 0
  shootdowns := []
  repointed := []
  broadcasts := []
  banks := []
  errOrder := 0
  journal := []
  classcfg := []
  asroot := []
  status := 0
  vacant := true
  master := 0
  claims := []
  election := none
  fnmodeset := 0
  fnmode := 0
  notice := 0
  dbgctl := false
  lastSeq := []
  cxl := []
  silent := []
  absent := []
  boot := .waiting
  sram := none
  hbper := 8192

end Sys2Proof.Machine
end

