-- ==== Sys2Proof/Machine/Memory.lean ====
section
/-! DEFINITION. Tables, the one list of memory bytes with its canonical form, granules and poisoned lines (R35, R36),
little-endian packing (R3). -/
namespace Sys2Proof.Machine

/-! ## Tables: lists of key and value sorted by key -/

/-- The value of a key, or the given default. -/
def look {α : Type} (dflt : α) : List (Nat × α) → Nat → α
  | [], _ => dflt
  | (k, v) :: r, n => if k = n then v else look dflt r n

/-- The value of a key, if listed. -/
def find? {α : Type} : List (Nat × α) → Nat → Option α
  | [], _ => none
  | (k, v) :: r, n => if k = n then some v else find? r n

/-- The table with one key set. -/
def put {α : Type} (n : Nat) (x : α) : List (Nat × α) → List (Nat × α)
  | [] => [(n, x)]
  | (k, v) :: r => if n < k then (n, x) :: (k, v) :: r else if n = k then (n, x) :: r else (k, v) :: put n x r

/-- The table without a key. -/
def del {α : Type} (n : Nat) (l : List (Nat × α)) : List (Nat × α) := l.filter (fun e => e.1 != n)

/-! ## Sorted sets of numbers -/

/-- The set with one number more. -/
def setIns (n : Nat) : List Nat → List Nat
  | [] => [n]
  | k :: r => if n < k then n :: k :: r else if n = k then k :: r else k :: setIns n r

/-- The set without a number. -/
def setDel (n : Nat) (l : List Nat) : List Nat := l.filter (fun k => k != n)

/-! ## Memory -/

/-- Memory: the bytes that are not zero, by address, strictly rising. An address that is not listed reads zero (R35,
R437: memory is cleared at reset). -/
abbrev Memory := List Host.Cell

/-- What an unlisted address reads as (R35, R437). -/
def unlistedByte : Byte := 0

/-- The canonical form: addresses strictly rising, no entry equal to what an unlisted address reads as. -/
def Memory.wf : Memory → Bool
  | [] => true
  | [(_, b)] => b != unlistedByte
  | (a, b) :: (a', b') :: r => b != unlistedByte && a < a' && Memory.wf ((a', b') :: r)

/-- The byte at an address. -/
def memGet : Memory → Nat → Byte
  | [], _ => unlistedByte
  | (k, b) :: r, a => if k = a then b else memGet r a

/-- Memory with one entry set. -/
def memSet (a : Nat) (x : Byte) : Memory → Memory
  | [] => [(a, x)]
  | (k, b) :: r => if a < k then (a, x) :: (k, b) :: r else if a = k then (a, x) :: r else (k, b) :: memSet a x r

/-- Memory with one byte written. Writing what an unlisted address reads as removes the entry. -/
def memPut (a : Nat) (x : Byte) (m : Memory) : Memory :=
  if x = unlistedByte then m.filter (fun c => c.1 != a) else memSet a x m

/-- `n` bytes from an address, lowest first. -/
def memRead (m : Memory) (a : Nat) : Nat → List Byte
  | 0 => []
  | n + 1 => memGet m a :: memRead m (a + 1) n

/-- Bytes written from an address, lowest first. -/
def memWrite (m : Memory) (a : Nat) : List Byte → Memory
  | [] => m
  | b :: r => memWrite (memPut a b m) (a + 1) r

/-! ## Packing (R3) -/

/-- The number of bytes in memory order, little-endian. -/
def leNat : List Byte → Nat
  | [] => 0
  | b :: r => b.toNat + 256 * leNat r

/-- The low `n` bytes of a number in memory order. -/
def leBytes (x : Nat) : Nat → List Byte
  | 0 => []
  | n + 1 => BitVec.ofNat 8 x :: leBytes (x / 256) n

/-- A doubleword of bytes. -/
def leWord (bs : List Byte) : Word := BitVec.ofNat 64 (leNat bs)

/-- A vector register of bytes. -/
def leVec (bs : List Byte) : VWord := BitVec.ofNat 2048 (leNat bs)

/-- The bytes of a vector register. -/
def vecBytes (v : VWord) : List Byte := leBytes v.toNat 256

/-- The numbers from `a`, `n` of them. -/
def span (a n : Nat) : List Nat := (List.range n).map (a + ·)

/-- The lines (or granules) of `g` bytes that `n` bytes from `a` touch. -/
def blocks (g a n : Nat) : List Nat := if n = 0 then [] else span (a / g) ((a + n - 1) / g - a / g + 1)

/-! ## Memory, granules and poison in the state -/

/-- Bytes of the model's address space. -/
def State.readAt (s : State) (a n : Nat) : List Byte := memRead s.mem a n

/-- The doubleword at an address. -/
def State.wordAt (s : State) (a : Nat) : Word := leWord (s.readAt a 8)

/-- Whether any byte of a range lies in a poisoned line (R36). -/
def State.poisonedAt (s : State) (a n : Nat) : Bool := (blocks Config.lineSize a n).any (fun l => s.poison.contains l)

/-- Marks the lines of a range (R236). -/
def State.poisonAt (s : State) (a n : Nat) : State :=
  { s with poison := (blocks Config.lineSize a n).foldl (fun p l => setIns l p) s.poison }

/-- A plain write at a home. A line whose 128 bytes are all written is no longer poisoned (R36, R308). -/
def State.writeAt (s : State) (a : Nat) (bs : List Byte) : State :=
  let whole := (blocks Config.lineSize a bs.length).filter
    (fun l => a ≤ l * Config.lineSize && (l + 1) * Config.lineSize ≤ a + bs.length)
  { s with mem := memWrite s.mem a bs, poison := s.poison.filter (fun l => !whole.contains l) }

/-- Whether the granules of a range are all full (R35). -/
def State.fullAt (s : State) (a n : Nat) : Bool := (blocks Config.granuleSize a n).all (fun g => !s.empties.contains g)

/-- Whether the granules of a range are all empty. -/
def State.emptyAt (s : State) (a n : Nat) : Bool := (blocks Config.granuleSize a n).all (fun g => s.empties.contains g)

/-- Sets the granules of a range full. -/
def State.fillAt (s : State) (a n : Nat) : State :=
  let gs := blocks Config.granuleSize a n
  { s with empties := s.empties.filter (fun g => !gs.contains g) }

/-- Sets the granules of a range empty. -/
def State.drainAt (s : State) (a n : Nat) : State :=
  { s with empties := (blocks Config.granuleSize a n).foldl (fun p g => setIns g p) s.empties }

/-- A range as after reset: zero bytes, full granules, no poison (R32 step 4, R35). -/
def State.clearAt (s : State) (a n : Nat) : State :=
  { s with
    mem := s.mem.filter (fun c => !(a ≤ c.1 && c.1 < a + n)),
    empties := s.empties.filter (fun g => !(a ≤ g * Config.granuleSize && g * Config.granuleSize < a + n)),
    poison := s.poison.filter (fun l => !(a ≤ l * Config.lineSize && l * Config.lineSize < a + n)) }

end Sys2Proof.Machine
end

