-- ==== Sys2Proof/Machine/Numbers.lean ====
section
/-! DEFINITION. Number formats and rounding (spec/08_numbers.md): exact values, the 28 formats, Round of R135 with the
flags of R79, the operations of R82, R110 and R111 on exact values, the mix function of R118. -/
namespace Sys2Proof.Machine

/-- An exact value: a NaN (with its fraction in 52 bits, top-aligned), an infinity, or ±m × 2^e. -/
inductive Value where
  | nan (neg signalling : Bool) (frac : Nat)
  | inf (neg : Bool)
  | fin (neg : Bool) (m : Nat) (e : Int)
deriving DecidableEq, Repr, Inhabited

/-- The flags of FFLAGS and VFLAGS (R78, R102), as bits. -/
def flNX : Nat := 1
def flUF : Nat := 2
def flOF : Nat := 4
def flDZ : Nat := 8
def flNV : Nat := 16
def flSAT : Nat := 32

/-- How a floating format treats its special patterns (R133). -/
inductive Special where
  | ieee | nanOnly | none
deriving DecidableEq, Repr, Inhabited

/-- A floating format: exponent and fraction bits, bias, special patterns. -/
structure FFmt where
  eb : Nat
  mb : Nat
  bias : Nat
  special : Special
deriving DecidableEq, Repr, Inhabited

/-- The formats of R133. -/
def fp4 : FFmt := ⟨2, 1, 1, .none⟩
def fp6a : FFmt := ⟨2, 3, 1, .none⟩
def fp6b : FFmt := ⟨3, 2, 3, .none⟩
def fp8a : FFmt := ⟨4, 3, 7, .nanOnly⟩
def fp8b : FFmt := ⟨5, 2, 15, .ieee⟩
def fp16 : FFmt := ⟨5, 10, 15, .ieee⟩
def bf16 : FFmt := ⟨8, 7, 127, .ieee⟩
def fp32 : FFmt := ⟨8, 23, 127, .ieee⟩
def fp64 : FFmt := ⟨11, 52, 1023, .ieee⟩

/-- Bits of a format's element. -/
def FFmt.width (f : FFmt) : Nat := 1 + f.eb + f.mb

/-- The magnitude bits of the largest finite value. -/
def FFmt.maxBits (f : FFmt) : Nat :=
  match f.special with
  | .ieee => (2 ^ f.eb - 1) * 2 ^ f.mb - 1
  | .nanOnly => 2 ^ (f.eb + f.mb) - 2
  | .none => 2 ^ (f.eb + f.mb) - 1

/-- The value of an element's bits (R133, R134). -/
def FFmt.decode (f : FFmt) (x : Nat) : Value :=
  let neg := x / 2 ^ (f.eb + f.mb) % 2 = 1
  let e := x / 2 ^ f.mb % 2 ^ f.eb
  let fr := x % 2 ^ f.mb
  if f.special = .ieee && e = 2 ^ f.eb - 1 then
    if fr = 0 then .inf neg else .nan neg (decide (fr < 2 ^ (f.mb - 1))) (fr * 2 ^ (52 - f.mb))
  else if f.special = .nanOnly && e = 2 ^ f.eb - 1 && fr = 2 ^ f.mb - 1 then .nan neg false (fr * 2 ^ (52 - f.mb))
  else if e = 0 then .fin neg fr (1 - (f.bias : Int) - f.mb)
  else .fin neg (2 ^ f.mb + fr) ((e : Int) - f.bias - f.mb)

/-- A magnitude with its low `sh` bits rounded away (R135 step 3), and whether it is inexact. -/
def roundMag (rm : Rm) (neg : Bool) (m : Nat) (sh : Int) : Nat × Bool :=
  if sh ≤ 0 then (m * 2 ^ (-sh).toNat, false)
  else
    let d := 2 ^ sh.toNat
    let q := m / d
    let r := m % d
    let up := match rm with
      | .rne => decide (d < 2 * r) || (2 * r == d && q % 2 == 1)
      | .rtz => false
      | .rdn => neg && r != 0
      | .rup => !neg && r != 0
      | .rma => decide (d ≤ 2 * r)
      | .dyn => false
    (if up then q + 1 else q, r != 0)

/-- The sign bit in place. -/
def FFmt.signed (f : FFmt) (neg : Bool) (mag : Nat) : Nat := (if neg then 2 ^ (f.eb + f.mb) else 0) + mag

/-- The canonical quiet NaN (R134); formats without NaN have none and give +0. -/
def FFmt.qnan (f : FFmt) : Nat :=
  match f.special with
  | .ieee => (2 ^ f.eb - 1) * 2 ^ f.mb + 2 ^ (f.mb - 1)
  | .nanOnly => 2 ^ (f.eb + f.mb) - 1
  | .none => 0

/-- Round of R135: the element's bits and the flags. -/
def FFmt.round (f : FFmt) (rm : Rm) (x : Value) : Nat × Nat :=
  match x with
  | .nan neg sig frac =>
    let nv := if sig then flNV else 0
    match f.special with
    | .ieee =>
      let top := frac / 2 ^ (52 - f.mb)
      let q := if top / 2 ^ (f.mb - 1) % 2 = 1 then top else top + 2 ^ (f.mb - 1)
      (f.signed neg ((2 ^ f.eb - 1) * 2 ^ f.mb + q), nv)
    | .nanOnly => (f.signed neg f.qnan, nv)
    | .none => (0, flNV)
  | .inf neg =>
    match f.special with
    | .ieee => (f.signed neg ((2 ^ f.eb - 1) * 2 ^ f.mb), 0)
    | _ => (f.signed neg f.maxBits, flNV)
  | .fin neg m e =>
    if m = 0 then (f.signed neg 0, 0)
    else
      let top : Int := (Nat.log2 m : Int) + e
      let emin : Int := 1 - (f.bias : Int)
      let qe : Int := (if top < emin then emin else top) - f.mb
      let (q, inexact) := roundMag rm neg m (qe - e)
      let mag : Nat := ((qe + f.mb + f.bias - 1).toNat) * 2 ^ f.mb + q
      if f.maxBits < mag then
        let big := match f.special with
          | .ieee =>
            match rm with
            | .rne | .rma => f.maxBits + 1
            | .rtz | .dyn => f.maxBits
            | .rdn => if neg then f.maxBits + 1 else f.maxBits
            | .rup => if neg then f.maxBits else f.maxBits + 1
          | _ => f.maxBits
        (f.signed neg big, flOF + flNX)
      else
        let (q', _) := roundMag rm neg m (top - f.mb - e)
        let tiny := decide (top < emin) && !(top == emin - 1 && q' == 2 ^ (f.mb + 1))
        (f.signed neg mag, if inexact then (if tiny then flNX + flUF else flNX) else 0)

/-! ## Arithmetic on exact values -/

def Value.isNan : Value → Bool
  | .nan _ _ _ => true
  | _ => false
def Value.isSnan : Value → Bool
  | .nan _ s _ => s
  | _ => false
def Value.neg? : Value → Bool
  | .nan n _ _ => n
  | .inf n => n
  | .fin n _ _ => n
def Value.isZero : Value → Bool
  | .fin _ m _ => m == 0
  | _ => false
def Value.negate : Value → Value
  | .nan n s f => .nan n s f
  | .inf n => .inf (!n)
  | .fin n m e => .fin (!n) m e
/-- A NaN made quiet (R80). -/
def Value.quiet : Value → Value
  | .nan n _ f => .nan n false f
  | x => x
/-- The canonical quiet NaN. -/
def qNaN : Value := .nan false false (2 ^ 51)
/-- An integer as an exact value. -/
def numOfInt (i : Int) : Value := .fin (decide (i < 0)) i.natAbs 0
/-- The value multiplied by 2^k. -/
def Value.scale (x : Value) (k : Int) : Value :=
  match x with
  | .fin n m e => .fin n m (e + k)
  | y => y

/-- The signed integer of a finite value at a common exponent. -/
def atExp (neg : Bool) (m : Nat) (e e0 : Int) : Int :=
  let v : Int := (m : Int) * 2 ^ (e - e0).toNat
  if neg then -v else v

/-- A result and the flags raised so far. -/
abbrev FRes := Value × Nat

/-- The NaN rule of R80 over the operands in order, if one of them is a NaN. -/
def nanOf (xs : List Value) : Option FRes :=
  let nv := if xs.any Value.isSnan then flNV else 0
  (xs.find? Value.isNan).map (fun x => (x.quiet, nv))

/-- x + y exactly. An exact zero sum of opposite signs is +0, or −0 when rounding down. -/
def Value.addExact (rm : Rm) (x y : Value) : FRes :=
  match x, y with
  | .inf a, .inf b => if a = b then (.inf a, 0) else (qNaN, flNV)
  | .inf a, _ => (.inf a, 0)
  | _, .inf b => (.inf b, 0)
  | .fin a m e, .fin b k g =>
    let e0 := if e < g then e else g
    let v := atExp a m e e0 + atExp b k g e0
    if v = 0 then (.fin (if m = 0 && k = 0 && a = b then a else decide (rm = .rdn)) 0 0, 0)
    else (.fin (decide (v < 0)) v.natAbs e0, 0)
  | _, _ => (qNaN, 0)

/-- x × y exactly. -/
def Value.mulExact (x y : Value) : FRes :=
  match x, y with
  | .inf a, .inf b => (.inf (a != b), 0)
  | .inf a, .fin b m _ => if m = 0 then (qNaN, flNV) else (.inf (a != b), 0)
  | .fin a m _, .inf b => if m = 0 then (qNaN, flNV) else (.inf (a != b), 0)
  | .fin a m e, .fin b k g => (.fin (a != b) (m * k) (e + g), 0)
  | _, _ => (qNaN, 0)

/-- x ÷ y, to 130 bits with a sticky bit, which rounds as the exact quotient does in every format. -/
def Value.divExact (x y : Value) : FRes :=
  match x, y with
  | .inf _, .inf _ => (qNaN, flNV)
  | .inf a, .fin b _ _ => (.inf (a != b), 0)
  | .fin a _ _, .inf b => (.fin (a != b) 0 0, 0)
  | .fin a m e, .fin b k g =>
    if k = 0 then (if m = 0 then (qNaN, flNV) else (.inf (a != b), flDZ))
    else
      let sh := 130 + Nat.log2 k
      let n := m * 2 ^ sh
      (.fin (a != b) (2 * (n / k) + (if n % k = 0 then 0 else 1)) (e - g - sh - 1), 0)
  | _, _ => (qNaN, 0)

/-- The integer square root of `n`, bit by bit from bit `k`. -/
def isqrtFrom (n : Nat) : Nat → Nat → Nat
  | 0, r => if (r + 1) * (r + 1) ≤ n then r + 1 else r
  | k + 1, r => let r' := r + 2 ^ (k + 1); isqrtFrom n k (if r' * r' ≤ n then r' else r)

/-- The integer square root. -/
def isqrt (n : Nat) : Nat := isqrtFrom n (Nat.log2 n / 2 + 1) 0

/-- √x, to more than 120 bits with a sticky bit. -/
def Value.sqrtExact (x : Value) : FRes :=
  match x with
  | .inf n => if n then (qNaN, flNV) else (.inf false, 0)
  | .fin n m e =>
    if m = 0 then (.fin n 0 0, 0)
    else if n then (qNaN, flNV)
    else
      let (m', e') := if e % 2 = 0 then (m, e) else (2 * m, e - 1)
      let w := m' * 2 ^ 260
      let r := isqrt w
      (.fin false (2 * r + (if r * r = w then 0 else 1)) (e' / 2 - 130 - 1), 0)
  | y => (y, 0)

/-- x + y with the NaN rule. -/
def fAdd (rm : Rm) (x y : Value) : FRes := (nanOf [x, y]).getD (x.addExact rm y)
def fSub (rm : Rm) (x y : Value) : FRes := (nanOf [x, y]).getD (x.addExact rm y.negate)
def fMul (x y : Value) : FRes := (nanOf [x, y]).getD (x.mulExact y)
def fDiv (x y : Value) : FRes := (nanOf [x, y]).getD (x.divExact y)
def fSqrt (x : Value) : FRes := (nanOf [x]).getD x.sqrtExact

/-- x × y + z with one rounding to come; ∞ × 0 raises NV whatever z holds (R82). -/
def fFma (rm : Rm) (x y z : Value) : FRes :=
  let bad := match x, y with
    | .inf _, .fin _ m _ => m == 0
    | .fin _ m _, .inf _ => m == 0
    | _, _ => false
  match nanOf [x, y, z] with
  | some (r, fl) => (r, if bad then flNV else fl)
  | none =>
    if bad then (qNaN, flNV)
    else (x.mulExact y).1.addExact rm z

/-- The order of two values that are not NaN: −0 is below +0. -/
def numLt (x y : Value) : Bool :=
  match x, y with
  | .inf a, .inf b => a && !b
  | .inf a, _ => a
  | _, .inf b => !b
  | .fin a m e, .fin b k g =>
    let e0 := if e < g then e else g
    let v := atExp a m e e0
    let u := atExp b k g e0
    decide (v < u) || (v == u && m == 0 && a && !b)
  | _, _ => false

/-- Numeric equality of two values that are not NaN. -/
def numEq (x y : Value) : Bool :=
  match x, y with
  | .inf a, .inf b => a == b
  | .fin a m e, .fin b k g =>
    let e0 := if e < g then e else g
    atExp a m e e0 == atExp b k g e0
  | _, _ => false

/-- minimumNumber and maximumNumber (R82): one NaN operand gives the other. -/
def fMinMax (max : Bool) (x y : Value) : FRes :=
  let nv := if x.isSnan || y.isSnan then flNV else 0
  if x.isNan && y.isNan then (x.quiet, nv)
  else if x.isNan then (y, nv)
  else if y.isNan then (x, nv)
  else if max then (if numLt x y then y else x, 0)
  else (if numLt y x then y else x, 0)

/-- FEQ, FLT and FLE (R82). -/
def fEq (x y : Value) : Bool × Nat :=
  if x.isNan || y.isNan then (false, if x.isSnan || y.isSnan then flNV else 0) else (numEq x y, 0)
def fLt (x y : Value) : Bool × Nat :=
  if x.isNan || y.isNan then (false, flNV) else (numLt x y && !numEq x y, 0)
def fLe (x y : Value) : Bool × Nat :=
  if x.isNan || y.isNan then (false, flNV) else (numLt x y || numEq x y, 0)

/-- FCLASS (R82): the index of the one bit set. -/
def FFmt.classOf (f : FFmt) (bits : Nat) : Nat :=
  match f.decode bits with
  | .nan _ sig _ => if sig then 8 else 9
  | .inf n => if n then 0 else 7
  | .fin n m _ =>
    if m = 0 then (if n then 3 else 4)
    else if bits / 2 ^ f.mb % 2 ^ f.eb = 0 then (if n then 2 else 5)
    else (if n then 1 else 6)

/-- x rounded to an integer, and whether it differs from x. -/
def roundInt (rm : Rm) (neg : Bool) (m : Nat) (e : Int) : Int × Bool :=
  let (q, inexact) := roundMag rm neg m (-e)
  (if neg then -(q : Int) else q, inexact)

/-- Conversion to an integer in lo … hi with the saturation of R83 and R121. -/
def toIntRange (rm : Rm) (lo hi : Int) (x : Value) : Int × Nat :=
  match x with
  | .nan _ _ _ => (0, flNV)
  | .inf n => (if n then lo else hi, flNV)
  | .fin n m e =>
    let (v, inexact) := roundInt rm n m e
    if v < lo then (lo, flNV) else if hi < v then (hi, flNV) else (v, if inexact then flNX else 0)

/-! ## Exponential and logarithm (R111): enclosures narrow enough that both ends round alike -/

/-- Fixed-point 2^(f / 2^k) for the `k` low bits of `f`, at `p` fraction bits, from the highest bit down: `r` is
2^(2^−j). Every step rounds down, and the result is less than 16 k units below the exact value. -/
def exp2Frac (p f : Nat) : Nat → Nat → Nat → Nat
  | 0, _, acc => acc
  | k + 1, r, acc =>
    let r' := isqrt (r * 2 ^ p)
    exp2Frac p f k r' (if f / 2 ^ k % 2 = 1 then acc * r' / 2 ^ p else acc)

/-- Both ends of an enclosure, each with a sticky bit, round to one result. -/
def roundEnclosed (f : FFmt) (rm : Rm) (neg : Bool) (lo w : Nat) (e : Int) : Option (Nat × Nat) :=
  let a := f.round rm (.fin neg (2 * lo + 1) (e - 1))
  let b := f.round rm (.fin neg (2 * (lo + w) + 1) (e - 1))
  if a = b then some a else none

/-- 2^x for a finite x that is no integer, with precisions p, 2p, …. -/
def exp2Try (f : FFmt) (rm : Rm) (n : Int) (fr k : Nat) : Nat → Nat → Nat × Nat
  | 0, p => f.round rm (.fin false (2 * exp2Frac p fr k (2 * 2 ^ p) (2 ^ p) + 1) (n - p - 1))
  | fuel + 1, p =>
    match roundEnclosed f rm false (exp2Frac p fr k (2 * 2 ^ p) (2 ^ p)) (16 * k) (n - p) with
    | some r => r
    | none => exp2Try f rm n fr k fuel (2 * p)

/-- VFEXP2 (R110, R111). -/
def fExp2 (f : FFmt) (rm : Rm) (x : Value) : Nat × Nat :=
  match x with
  | .nan _ sig _ => ((f.round rm x.quiet).1, if sig then flNV else 0)
  | .inf n => f.round rm (if n then .fin false 0 0 else .inf false)
  | .fin neg m e =>
    if m = 0 then f.round rm (.fin false 1 0)
    else
      let top : Int := (Nat.log2 m : Int) + e
      if top < -100 then
        f.round rm (.fin false (if neg then 2 ^ 200 - 1 else 2 ^ 200 + 1) (-200))
      else if 12 < top then f.round rm (.fin false 3 (if neg then -5000 else 5000))
      else if 0 ≤ e then
        let v : Int := atExp neg m e 0
        f.round rm (.fin false 1 v)
      else
        let k := (-e).toNat
        let v : Int := if neg then -(m : Int) else m
        let n := v / 2 ^ k
        let fr := (v % 2 ^ k).toNat
        if fr = 0 then f.round rm (.fin false 1 n) else exp2Try f rm n fr k 4 256

/-- The first `k` fraction bits of log2 of y / 2^w, for 1 ≤ y / 2^w < 2, by squaring. -/
def log2Bits (w : Nat) : Nat → Nat → Nat → Nat
  | 0, _, acc => acc
  | k + 1, y, acc =>
    let q := y * y / 2 ^ w
    if 2 ^ (w + 1) ≤ q then log2Bits w k (q / 2) (2 * acc + 1) else log2Bits w k q (2 * acc)

/-- log2 of a value that is no power of two: m has its top bit at position `t`, and the value is m × 2^(n − t). -/
def log2Try (f : FFmt) (rm : Rm) (n : Int) (m t : Nat) : Nat → Nat → Nat × Nat
  | fuel, k =>
    let w := k + 60 + t
    let v : Int := n * 2 ^ k + log2Bits w k (m * 2 ^ (w - t)) 0
    let (neg, lo) := if v < 0 then (true, (v + 3).natAbs) else (false, v.natAbs)
    match roundEnclosed f rm neg lo 3 (-k) with
    | some r => r
    | none =>
      match fuel with
      | 0 => f.round rm (.fin neg (2 * lo + 1) (-k - 1))
      | fuel' + 1 => log2Try f rm n m t fuel' (2 * k)

/-- VFLOG2 (R110, R111). -/
def fLog2 (f : FFmt) (rm : Rm) (x : Value) : Nat × Nat :=
  match x with
  | .nan _ sig _ => ((f.round rm x.quiet).1, if sig then flNV else 0)
  | .inf n => if n then (f.qnan, flNV) else f.round rm (.inf false)
  | .fin neg m e =>
    if m = 0 then ((f.round rm (.inf true)).1, flDZ)
    else if neg then (f.qnan, flNV)
    else
      let t := Nat.log2 m
      let n : Int := e + t
      if m = 2 ^ t then f.round rm (numOfInt n) else log2Try f rm n m t 3 320

/-! ## The 28 format codes (R132, R133, R138, R139, R141) -/

/-- Bits of an element of a format (R119); CB2 counts 2 bits a weight. -/
def codeBits (c : Nat) : Nat :=
  match c with
  | 0x00 | 0x01 => 1
  | 0x02 | 0x03 | 0x16 => 2
  | 0x04 | 0x05 | 0x09 | 0x14 => 4
  | 0x0A | 0x0B | 0x12 | 0x13 => 6
  | 0x06 | 0x07 | 0x0C | 0x0D | 0x10 | 0x11 | 0x15 => 8
  | 0x08 | 0x0E | 0x0F => 16
  | 0x17 | 0x18 | 0x19 => 32
  | _ => 64

/-- Whether the format has a scale byte for each 32 elements. -/
def codeScaled (c : Nat) : Bool := decide (0x10 ≤ c) && decide (c ≤ 0x16)

/-- The floating format of a code, also the element format of an MX code. -/
def codeFloat (c : Nat) : Option FFmt :=
  match c with
  | 0x09 | 0x14 => some fp4
  | 0x0A | 0x12 => some fp6a
  | 0x0B | 0x13 => some fp6b
  | 0x0C | 0x10 => some fp8a
  | 0x0D | 0x11 => some fp8b
  | 0x0E => some fp16
  | 0x0F => some bf16
  | 0x17 => some fp32
  | 0x1B => some fp64
  | _ => none

/-- The range of an integer code other than INT1 (R132). -/
def codeRange (c : Nat) : Int × Int :=
  match c with
  | 0x01 => (0, 1)
  | 0x02 => (-2, 1)
  | 0x03 => (-1, 1)
  | 0x04 => (-8, 7)
  | 0x05 => (0, 15)
  | 0x06 | 0x15 => (-128, 127)
  | 0x07 => (0, 255)
  | 0x08 => (-32768, 32767)
  | 0x18 => (-2147483648, 2147483647)
  | 0x19 => (0, 4294967295)
  | _ => (-9223372036854775808, 9223372036854775807)

/-- The value of `b` bits as two's complement. -/
def twos (b x : Nat) : Int := if x % 2 ^ b < 2 ^ (b - 1) then (x % 2 ^ b : Nat) else (x % 2 ^ b : Nat) - (2 : Int) ^ b

/-- The value of an element, without its block scale (R132, R133, R138). The reserved TERN pattern is a NaN that raises
NV (R120). -/
def decodeElem (c x : Nat) : Value :=
  match codeFloat c with
  | some f => f.decode x
  | none =>
    if c = 0x00 then numOfInt (if x % 2 = 0 then 1 else -1)
    else if c = 0x03 then (if x % 4 = 2 then .nan false true 0 else numOfInt (twos 2 x))
    else if c = 0x15 then (numOfInt (twos 8 x)).scale (-6)
    else if c = 0x01 || c = 0x05 || c = 0x07 || c = 0x19 then numOfInt ((x % 2 ^ codeBits c : Nat) : Int)
    else numOfInt (twos (codeBits c) x)

/-- The E8M0 scale applied to a value (R137, R138). -/
def withScale (sb : Nat) (x : Value) : Value := if sb = 0xFF then qNaN else x.scale ((sb : Int) - 127)

/-- x converted to an element of a format without a block scale (R121, R135). -/
def encodeElem (c : Nat) (rm : Rm) (x : Value) : Nat × Nat :=
  match codeFloat c with
  | some f => f.round rm x
  | none =>
    if c = 0x00 then
      match x with
      | .nan _ _ _ => (0, flNV)
      | .inf n => (if n then 1 else 0, flNV)
      | .fin n m e =>
        let bit := if n && m != 0 then 1 else 0
        (bit, if numEq (.fin false m e) (numOfInt 1) then 0 else flNX)
    else
      let (lo, hi) := codeRange c
      let (v, fl) := toIntRange rm lo hi x
      ((BitVec.ofInt 64 v).toNat % 2 ^ codeBits c, fl)

/-- floor(log2 |x|) of a nonzero finite value. -/
def floorLog2 (m : Nat) (e : Int) : Int := (Nat.log2 m : Int) + e

/-- emax of a block-scaled format (R121). -/
def codeEmax (c : Nat) : Int :=
  match c with
  | 0x10 => 8 | 0x11 => 15 | 0x12 => 2 | 0x13 => 4 | 0x14 => 2 | _ => 0

/-- A block of values converted to a block-scaled format: elements, scale byte, and the flags of each element (R121). -/
def encodeBlock (c : Nat) (rm : Rm) (xs : List Value) : List Nat × Nat × List Nat :=
  if xs.any (fun x => match x with | .fin _ _ _ => false | _ => true) then
    (xs.map (fun _ => 0), 0xFF, xs.map (fun x => match x with | .fin _ _ _ => 0 | _ => flNV))
  else
    let top := xs.foldl (fun (t : Option Int) x => match x with
      | .fin _ m e => if m = 0 then t else
        match t with
        | none => some (floorLog2 m e)
        | some k => some (if k < floorLog2 m e then floorLog2 m e else k)
      | _ => t) none
    let X : Int := match top with
      | none => -127
      | some k => let v := k - codeEmax c; if v < -127 then -127 else if 127 < v then 127 else v
    let rs := xs.map (fun x =>
      match codeFloat c with
      | some f => f.round rm (x.scale (-X))
      | none =>
        match x with
        | .fin n m e =>
          let (v, inexact) := roundInt rm n m (e - (X - 6))
          if v < -128 then (128, flOF + flNX) else if 127 < v then (127, flOF + flNX)
          else ((BitVec.ofInt 8 v).toNat, if inexact then flNX else 0)
        | _ => (0, flNV))
    (rs.map (·.1), (X + 127).toNat, rs.map (·.2))

/-- The 768 bytes of a codebook as one number, from its 96 registers (R140). -/
def cbtNat (t : List (Nat × Word)) : Nat := ((List.range 96).map (fun n => (look 0#64 t n).toNat * 2 ^ (64 * n))).sum

/-- DecodeCB2 (R139): the half-unit integers of the eight weights of an index. -/
def decodeCB2 (cbt idx : Nat) : List Int :=
  let entry := cbt / 2 ^ (24 * (idx / 256 % 256)) % 2 ^ 24
  let sg (j : Nat) : Nat := idx / 2 ^ (j + 1) % 2
  let parity := ((List.range 7).map sg).sum % 2
  let h : Int := (idx % 2 : Nat)
  (List.range 8).map (fun j =>
    let m : Int := (entry / 2 ^ (3 * j) % 8 : Nat)
    let s := if j = 7 then parity else sg j
    (if s = 1 then -(2 * m) else 2 * m) + h)

/-- The values of `n` packed elements from bit 0 of a number, with their scale bytes (R119, R120). -/
def unpack (c cbt : Nat) (data : Nat) (scales : Nat → Nat) (n : Nat) : List Value :=
  (List.range n).map (fun k =>
    if c = 0x16 then
      let idx := data / 2 ^ (16 * (k / 8)) % 65536
      withScale (scales (k / 32)) ((numOfInt ((decodeCB2 cbt idx).getD (k % 8) 0)).scale (-1))
    else
      let x := decodeElem c (data / 2 ^ (k * codeBits c) % 2 ^ codeBits c)
      if codeScaled c then withScale (scales (k / 32)) x else x)

/-! ## The mix function (R118) -/

/-- Mix(seed, ctr, i). -/
def mix (seed ctr i : Word) : Word :=
  let z0 := seed ^^^ (ctr * 0x9E3779B97F4A7C15#64) ^^^ (i * 0xD1B54A32D192ED03#64)
  let z1 := (z0 ^^^ (z0 >>> 30)) * 0xBF58476D1CE4E5B9#64
  let z2 := (z1 ^^^ (z1 >>> 27)) * 0x94D049BB133111EB#64
  z2 ^^^ (z2 >>> 31)

end Sys2Proof.Machine
end

