-- ==== Sys2Proof/Machine/Ops.lean ====
section
/-! DEFINITION. The named operations every meaning is built from: reading and writing the parts of the state, places
and regions of the address map, the agenda, error records, taking a trap and returning from one, killing a task. -/
namespace Sys2Proof.Machine

/-! ## Geometry (R18, R432) -/

/-- Where a core's holder stands in its station. -/
def coreIx : Core → Fin 8
  | .slot0 => 0 | .slot1 => 1 | .slot2 => 2 | .slot3 => 3 | .urgent => 4 | .loader => 5 | .storer => 6 | .keeper => 7

/-- Slot n. -/
def slotOf (n : Nat) : Core :=
  match n with
  | 0 => .slot0 | 1 => .slot1 | 2 => .slot2 | _ => .slot3

/-- The cores that run tasks of messages: the slots and the urgent bank (R19). -/
def taskCores : List Core := [.slot0, .slot1, .slot2, .slot3, .urgent]

/-- The base profile (R47): loader, storer and innkeeper. -/
def isBase : Core → Bool
  | .loader | .storer | .keeper => true
  | _ => false

/-- x and y of a station coordinate (R18). -/
def xOf (st : Nat) : Nat := st / 32 % 32
def yOf (st : Nat) : Nat := st % 32

/-- The die of a station, or of an innkeeper. -/
def dieOf (st : Nat) : Nat := if st < 8192 then st / 1024 else (st - 8192) / 64

/-- The module cluster number of a station, or of an innkeeper (R18). -/
def clusterOf (st : Nat) : Nat :=
  if st < 8192 then 64 * (st / 1024) + 8 * (yOf st / 4) + xOf st / 4 else st - 8192

/-- A station's place in its cluster (R432). -/
def placeInCluster (st : Nat) : Nat := 4 * (yOf st % 4) + xOf st % 4

/-- The station at place i of a cluster. -/
def stationOfCluster (cl i : Nat) : Nat :=
  let die := cl / 64
  let c := cl % 64
  1024 * die + 32 * (4 * (c % 8) + i % 4) + (4 * (c / 8) + i / 4)

/-- The stations of a cluster in ascending coordinate. -/
def clusterStations (cl : Nat) : List Nat :=
  (List.range 16).map (fun j => stationOfCluster cl (4 * (j % 4) + j / 4))

/-- The neighbour of a station in direction 0 north, 1 east, 2 south, 3 west (R368), on its die. DESIGN CHOICE: north is
y − 1, and east is x + 1. -/
def neighbourOf (st dir : Nat) : Option Nat :=
  match dir with
  | 0 => if yOf st = 0 then none else some (st - 1)
  | 1 => if xOf st = 31 then none else some (st + 32)
  | 2 => if yOf st = 31 then none else some (st + 1)
  | _ => if xOf st = 0 then none else some (st - 32)

/-- The direction opposite to one. -/
def opposite (dir : Nat) : Nat := (dir + 2) % 4

/-! ## Reading and writing the parts of the state -/

def State.station (s : State) (st : Nat) : Station := look Station.reset s.stations st
def State.setStation (s : State) (st : Nat) (x : Station) : State := { s with stations := put st x s.stations }
def State.modStation (s : State) (st : Nat) (f : Station → Station) : State := s.setStation st (f (s.station st))
def State.holder (s : State) (w : Who) : Holder := (s.station w.st).cores[coreIx w.core]
def Station.setCore (x : Station) (c : Core) (h : Holder) : Station := { x with cores := x.cores.set (coreIx c) h }
def State.setHolder (s : State) (w : Who) (h : Holder) : State := s.modStation w.st (fun x => x.setCore w.core h)
def State.modHolder (s : State) (w : Who) (f : Holder → Holder) : State := s.setHolder w (f (s.holder w))
def State.cluster (s : State) (cl : Nat) : Cluster := look Cluster.reset s.clusters cl
def State.modCluster (s : State) (cl : Nat) (f : Cluster → Cluster) : State :=
  { s with clusters := put cl (f (s.cluster cl)) s.clusters }
def State.die (s : State) (d : Nat) : Die := look Die.reset s.dies d
def State.modDie (s : State) (d : Nat) (f : Die → Die) : State := { s with dies := put d (f (s.die d)) s.dies }

/-- The holder whose instruction is executed. -/
def State.me (s : State) : Holder := s.holder s.cur

/-- Package time as a 64-bit register value (R5). -/
def State.time (s : State) : Word := BitVec.ofNat 64 s.now

/-- The station clock of a die (R5, R438). -/
def State.clock (s : State) (d : Nat) : Nat :=
  ((s.die d).clock + (s.now - (s.die d).clockAt) * (s.die d).rate) / 64

/-- The class record of a class (R313). -/
def State.classCfg (s : State) (c : Nat) : Word := look 0xFFFF0001#64 s.classcfg c

/-- PRIO, WEIGHT, ASN and SWAYS of a class (R313). -/
def State.prio (s : State) (c : Nat) : Nat := bitsOf (s.classCfg c) 12 10
def State.weight (s : State) (c : Nat) : Nat := bitsOf (s.classCfg c) 6 0
def State.asnOf (s : State) (c : Nat) : Nat := bitsOf (s.classCfg c) 39 34
def State.sways (s : State) (c : Nat) : Nat := bitsOf (s.classCfg c) 31 16

/-- WAYMASK of a tenant class in force (R295). -/
def Station.mask (x : Station) (c : Nat) : Nat := bitsOf (look 0xFFFF#64 x.waymask c) 15 0

/-- The rank-table entry of a rank (R197). -/
def Station.rankEntry (x : Station) (rank : Nat) : BitVec 16 := look (BitVec.ofNat 16 rank) x.ranks rank
/-- Its fields. -/
def rankCoord (e : BitVec 16) : Nat := bitsOf e 12 0
def rankShut (e : BitVec 16) : Bool := e.getLsbD 14
def rankTransit (e : BitVec 16) : Bool := e.getLsbD 15

/-- The rank of a station. DEDUCED: a station's own rank is the rank equal to its coordinate, as at reset (R197); R372
points a second rank at a station and leaves its own. -/
def rankOf (st : Nat) : Nat := st

/-- The state of a task's holder (R19): its slot number, 4 for the urgent bank. -/
def slotNumber (c : Core) : Nat := (coreIx c).val

/-- The holder whose task a core works for: the slot a loader or storer serves (R37), else the core itself. -/
def State.worksFor (s : State) (w : Who) : Who :=
  match w.core with
  | .loader | .storer => { w with core := slotOf (s.holder w).serves }
  | _ => w

/-- The holder whose work something is that a core issued for a task (R37, R213): that of the slot in the task's TASKID (R26) for
what a loader or a storer issued, which may serve another slot by now, else the core's own. -/
def workOfTask (w : Who) (task : Word) : Who :=
  match w.core with
  | .loader | .storer => { w with core := slotOf (bitsOf task 50 48) }
  | _ => w

/-- The service class of a holder's accesses (R161, R318). -/
def State.classOf (s : State) (w : Who) : Nat := (s.holder (s.worksFor w)).cls

/-- The tenant class of a holder's far accesses (R293). -/
def State.tenantOf (s : State) (w : Who) : Nat :=
  let t := (s.station w.st).tenant
  match (s.worksFor w).core with
  | .slot0 => bitsOf t 3 0
  | .slot1 => bitsOf t 7 4
  | .slot2 => bitsOf t 11 8
  | .slot3 => bitsOf t 15 12
  | _ => bitsOf t 19 16

/-- What an access of a holder carries (R161, R318, R323). -/
def State.accessOf (s : State) (w : Who) (op : Nat) (pc : Word) (eng : Nat) : Access :=
  let h := s.holder (s.worksFor w)
  { op := op, who := w, task := h.taskid, pc := pc, cls := h.cls, tenant := s.tenantOf w, asn := s.asnOf h.cls,
    ep := h.ep, ceil := h.pgceil, tries := h.pgtries, eng := eng }

/-! ## The agenda -/

/-- A step that may take place in the next cycle or later. -/
def State.later (s : State) (e : Instr) : State := { s with agenda := s.agenda ++ [{ due := s.now + 1, ev := e }] }

/-- A step that may take place at a time or later. -/
def State.laterAt (s : State) (t : Nat) (e : Instr) : State := { s with agenda := s.agenda ++ [{ due := t, ev := e }] }

/-- A step that goes on first in its order (R336): it came first and has not come to its end. -/
def State.again (s : State) (t : Nat) (e : Instr) : State := { s with agenda := { due := t, ev := e } :: s.agenda }

/-- The step leaves everything as it was and is tried again. -/
def State.wait (s : State) : State := { s with waits := true }

/-! ## Error records (R360, R361) -/

/-- The STATUS doubleword of a record (R360). -/
def ErrRec.statusWord (r : ErrRec) : Word :=
  BitVec.ofNat 64 ((if r.valid then 2 ^ 63 else 0) + (if r.ovf then 2 ^ 62 else 0) + r.cls % 4 * 2 ^ 60 +
    r.kind % 256 * 2 ^ 40 + r.subcode % 256 * 2 ^ 32 + r.count % 65536)

/-- One of the four doublewords of a record (R360). -/
def ErrRec.word (r : ErrRec) (k : Nat) : Word :=
  match k with
  | 0 => r.statusWord
  | 1 => r.addr
  | 2 => r.syndrome
  | _ => r.context

/-- The keys of the four kinds of bank (R362). -/
def stationBank (st : Nat) : Nat := st
def clusterBank (cl : Nat) : Nat := 10000 + cl
def sliceBank (n : Nat) : Nat := 20000 + n
def linkBank (n : Nat) : Nat := 30000 + n

/-- The bank of the holder's own place: its station's, or its cluster's for an innkeeper. -/
def homeBank (st : Nat) : Nat := if st < 8192 then stationBank st else clusterBank (st - 8192)

/-- Records in a bank (R361). -/
def bankSize (key : Nat) : Nat := if key < 8192 then 4 else 8

def ErrRec.none : ErrRec :=
  { valid := false, ovf := false, cls := 0, kind := 0, subcode := 0, count := 0, addr := 0, syndrome := 0,
    context := 0, order := 0 }

/-- The records of a bank. -/
def State.bank (s : State) (key : Nat) : List ErrRec := look (List.replicate (bankSize key) ErrRec.none) s.banks key

/-- The lowest index at which a property holds. -/
def firstIdx {α : Type} (p : α → Bool) (l : List α) : Option Nat := l.findIdx? p

/-- The class codes of R360. -/
def corrected : Nat := 1
def deferred : Nat := 2
def uncorrected : Nat := 3

/-- The bank after one event of class `r.cls` (R361). -/
def bankTake (r : ErrRec) (l : List ErrRec) : List ErrRec :=
  match firstIdx (fun e => !e.valid) l with
  | some i => l.set i r
  | none =>
    let lowest := l.foldl (fun m e => if e.cls < m then e.cls else m) 3
    if lowest < r.cls then
      match firstIdx (fun e => e.cls == lowest) l with
      | some i => l.set i r
      | none => l
    else
      let target := if l.any (fun e => e.cls == r.cls) then r.cls else lowest
      let oldest := (l.filter (fun e => e.cls == target)).foldl
        (fun m e => match m with | none => some e.order | some o => if e.order < o then some e.order else some o)
        (none : Option Nat)
      l.map (fun e => if e.cls == target && some e.order == oldest then
        { e with ovf := true, count := Nat.min (e.count + 1) 0xFFFF } else e)

/-- Writes an error record. -/
def State.record (s : State) (key cls kind subcode : Nat) (addr syndrome context : Word) : State :=
  let r : ErrRec := { valid := true, ovf := false, cls := cls, kind := kind, subcode := subcode, count := 0,
                      addr := addr, syndrome := syndrome, context := context, order := s.errOrder }
  { s with banks := put key (bankTake r (s.bank key)) s.banks, errOrder := s.errOrder + 1 }

/-- Writes an uncorrected record and escalates it (R431): the innkeeper copies it to cluster 0 of die 0, or a notice to the
owner host is due. DESIGN CHOICE: the copy is made at once. -/
def State.recordUncorrected (s : State) (key kind subcode : Nat) (addr syndrome context : Word) : State :=
  let s1 := s.record key uncorrected kind subcode addr syndrome context
  if key = clusterBank 0 && !s.fnmode.getLsbD 4 then s1
  else if s.fnmode.getLsbD 4 then
    { s1 with noticesDue := s1.noticesDue ++ [{ bits := 2 ^ 4, kind := kind, subcode := subcode, addr := addr, syndrome := syndrome,
                                                context := context }] }
  else s1.record (clusterBank 0) uncorrected kind subcode addr syndrome context

/-! ## The address map (R302, R303, R304) -/

/-- The kind of region a plain access may name, for the rules that ask whether two bytes lie in one region. -/
inductive Region where
  | tcm | mailbox | spad (cl : Nat) | commons (die : Nat) | remote (rank : Nat) | far | control | slices
deriving DecidableEq, Repr, Inhabited

/-- The region of one address for a core of station `st`, or none where a plain access traps ACCESS. `keeper` is set for
the innkeeper, which reaches the control windows and has no pool of its own (R303). -/
def State.regionOf (s : State) (w : Who) (a : Nat) : Option Region :=
  let x := s.station w.st
  let keeper := w.core == .keeper
  if 0x800 * 2 ^ 52 ≤ a && a < 0x801 * 2 ^ 52 then some .far
  else if a < 0x60000 then
    if keeper then none
    else if x.app1 * 8192 ≤ a && a < x.app2 * 8192 then some .tcm
    else if x.app3 * 8192 ≤ a then some .mailbox
    else none
  else if 0x1000000 ≤ a && a < 0x1400000 then some (.spad (clusterOf w.st))
  else if 0x4000000 ≤ a && a < 0x8000000 then some (.commons (dieOf w.st))
  else if 0x10000000 ≤ a && a < 0x11000000 then if keeper then some .control else none
  else if 0x18000000 ≤ a && a < 0x18001000 then if keeper then some .slices else none
  else if 0x20000000 ≤ a && a < 0x40000000 then some (.commons ((a - 0x20000000) / 0x4000000))
  else if 0x40000000 ≤ a && a < 0xC0000000 then some (.spad ((a - 0x40000000) / 0x400000))
  else if 0x100000000 ≤ a && a < 0x300000000 then
    if (a - 0x100000000) % 0x100000 < 0x60000 then some (.remote ((a - 0x100000000) / 0x100000)) else none
  else none

/-- The region that holds all `n` bytes from an address, if one does. -/
def State.regionOfAll (s : State) (w : Who) (a n : Nat) : Option Region :=
  match s.regionOf w a, s.regionOf w (a + n - 1) with
  | some r, some r' => if r = r' then some r else none
  | _, _ => none

/-- Whether `n` bytes from an address lie in one region a plain access may reach (R232, R285). -/
def State.reachable (s : State) (w : Who) (a n : Nat) : Bool := (s.regionOfAll w a n).isSome

/-- A rank's TCM as an issuing core sees it: the TCM of its own station. -/
def Station.inTcm (x : Station) (off n : Nat) : Bool := decide (x.app1 * 8192 ≤ off) && decide (off + n ≤ x.app2 * 8192)

/-- The place of an address (R303): whose home performs the access, and the offset there. A rank-relative address is
routed by the station's rank table (R304). -/
def State.placeOf (s : State) (w : Who) (a : Nat) : Place :=
  match s.regionOf w a with
  | some .far => .far (a % 2 ^ 52)
  | some .tcm | some .mailbox => .pool w.st a
  | some (.spad cl) => .spad cl (if a < 0x40000000 then a - 0x1000000 else (a - 0x40000000) % 0x400000)
  | some (.commons d) => .commons d (if a < 0x20000000 then a - 0x4000000 else (a - 0x20000000) % 0x4000000)
  | some (.remote n) =>
    if n = rankOf w.st then .pool w.st ((a - 0x100000000) % 0x100000)
    else .pool (rankCoord ((s.station w.st).rankEntry n)) ((a - 0x100000000) % 0x100000)
  | some .control =>
    .stationWindow (stationOfCluster (clusterOf w.st) ((a - 0x10000000) / 0x100000)) ((a - 0x10000000) % 0x100000)
  | some .slices => .sliceWindow (a - 0x18000000)
  | none => .pool w.st a

/-- Where a place's bytes lie in the model's memory. Far places are placed by their physical address. -/
def placeAt (p : Place) (pa : Nat) : Nat :=
  match p with
  | .pool st off => Config.poolAt st + off
  | .spad cl off => Config.spadAt cl + off
  | .commons d off => Config.commonsAt d + off
  | .far _ => Config.physAt pa
  | .stationWindow st off => Config.poolAt st + off
  | .sliceWindow off => off

/-- Whether the region has full/empty bits (R87). -/
def Region.hasBits : Region → Bool
  | .tcm | .spad _ | .remote _ => true
  | _ => false

/-- A plane bank's fields (R224). -/
structure BankFmt where
  zs : Bool
  b : Bool
  typed : Bool
  p : Nat
  fmt : Nat
deriving DecidableEq, Repr, Inhabited

/-- The format of a scratchpad bank. -/
def State.bankFmt (s : State) (cl bank : Nat) : BankFmt :=
  let v := look 0#64 (s.cluster cl).bfmt bank
  { zs := v.getLsbD 12, b := v.getLsbD 11, typed := v.getLsbD 10, p := bitsOf v 9 5, fmt := bitsOf v 4 0 }

/-- Whether a range touches a TYPED bank (R226). -/
def State.typedAt (s : State) (p : Place) (n : Nat) : Bool :=
  match p with
  | .spad cl off => (s.bankFmt cl (off / Config.bankSize)).typed || (s.bankFmt cl ((off + n - 1) / Config.bankSize)).typed
  | _ => false

/-- Whether a range of a pool touches the half of a window that is not addressable (R221). -/
def Station.hiddenHalf (x : Station) (off n : Nat) : Bool :=
  x.windows.any (fun w => w.live && decide (off < w.base + 2 * w.len) && decide (w.base + w.len < off + n))

/-- The pool offset an engine write reaches: the shadow half of a window that stood when the command was accepted. -/
def Station.shadowOf (x : Station) (op off : Nat) : Nat :=
  match x.windows.find? (fun w => decide (w.base ≤ off) && decide (off < w.base + w.len) && decide (w.born < op) &&
      (w.live || decide (op < w.died))) with
  | some w => off + w.len
  | none => off

/-- Whether a range lies in the half of a window that is not addressable, for a command accepted while it stands. -/
def Station.hiddenFor (x : Station) (op off n : Nat) (write : Bool) : Bool :=
  x.windows.any (fun w => w.live && (!write || decide (w.born < op)) && decide (off < w.base + 2 * w.len) &&
    decide (w.base + w.len < off + n))

/-- Whether a place touches such a half. -/
def State.hidden (s : State) (p : Place) (n : Nat) : Bool :=
  match p with
  | .pool st off => (s.station st).hiddenHalf off n
  | _ => false

/-- Whether an engine command may name `n` bytes from an address (R221, R232, R258, R272, R285): they lie in one region that a
plain access may reach, none of them in the half of a window that is not addressable, and those named by the station's own rank
in its TCM. What lies in another station is checked there. -/
def State.mayName (s : State) (w : Who) (a n : Nat) : Bool :=
  match s.regionOfAll w a n with
  | none => false
  | some (.remote k) =>
    k != rankOf w.st || ((s.station w.st).inTcm ((a - 0x100000000) % 0x100000) n && !s.hidden (s.placeOf w a) n)
  | some _ => !s.hidden (s.placeOf w a) n

/-! ## Parts that return and parts that fail -/

/-- The same task runs in the holder as when the access issued, and has not ended (R325, R380). -/
def State.sameTask (s : State) (a : Access) : Bool :=
  let h := s.holder (workOfTask a.who a.task)
  h.taskid == a.task && h.state != .free

/-- A part of an unsettled load has come back with bytes or a trap (R90, R91). When it is the last, the load lands. DESIGN CHOICE: of
several traps the one that came back first stands (log entry 166). -/
def State.partBack (s : State) (who : Who) (op off : Nat) (bytes : List Byte) (trap : Option TrapInfo) : State :=
  let h := s.holder who
  match h.unsettled.find? (fun u => u.op == op) with
  | none => s
  | some u =>
    let u' := { u with left := u.left - 1, buf := u.buf ++ [(off, bytes)],
                       trap := match u.trap with | some t => some t | none => trap }
    let s1 := s.setHolder who { h with unsettled := h.unsettled.map (fun x => if x.op == op then u' else x) }
    if u'.left = 0 then s1.later (.loadLands who op) else s1

/-- A part of a store has been performed (R92). -/
def State.storeDone (s : State) (who : Who) (op : Nat) : State :=
  s.modHolder who (fun h =>
    { h with stores := (h.stores.map (fun o => if o.op == op then { o with left := o.left - 1 } else o)).filter
                         (fun o => o.left != 0) })

/-- A store or reduction of the holder's task has failed: the failure is held, or counted (R325, R380). A failure that
comes after the task has ended is not delivered. -/
def State.holdFailure (s : State) (a : Access) (cause : Nat) (addr : Word) : State :=
  if s.sameTask a then
    s.modHolder a.who (fun h =>
      match h.failure with
      | none => { h with failure := some { cause := cause, pc := a.pc, addr := addr } }
      | some _ => { h with nfail := Nat.min (h.nfail + 1) 255 })
  else s

/-- A part of a store or reduction is not performed: the record of R454 in its bank, and the held failure; a reduction
that finds its line poisoned is recorded only (R379 to R381). An engine's write leaves its engine's record instead
(R267). -/
def State.storeFailed (s : State) (p : AccPart) (cause bankKey : Nat) : State :=
  if p.acc.eng = 0 then
    let s1 := s.record bankKey deferred 0x0C cause p.addr p.acc.pc p.acc.task
    (if cause = 0x06 then s1 else s1.holdFailure p.acc cause p.addr).storeDone p.acc.who p.acc.op
  else
    s.record (homeBank p.acc.who.st) deferred (if p.acc.eng = 2 then 0x05 else 0x04)
      (match p.acc.eng with | 3 => 0x6E | 4 => 0x8E | 5 => 0xCE | _ => 0) p.addr (BitVec.ofNat 64 cause) p.acc.task

/-! ## Withdrawing accesses -/

/-- The bytes a part covers in the model's memory. -/
def partAt (p : AccPart) : Nat := placeAt p.place (p.pa.getD 0)

/-- The full/empty condition of an access (R88, R124). A tryf always goes on: it traps where a granule is empty. -/
def State.condition (s : State) (p : AccPart) : Bool :=
  match p.qual, p.kind with
  | .waitfFill, .load => s.fullAt (partAt p) p.size
  | .takeFillw, .load => s.fullAt (partAt p) p.size
  | .takeFillw, .store => s.emptyAt (partAt p) p.size
  | _, _ => true

/-- Whether a part waits at its home on its full/empty condition (R89). -/
def State.feWaits (s : State) (p : AccPart) : Bool := s.waiting.contains p && p.qual != .plain && !s.condition p

/-- The parts of accesses that an agenda step carries. -/
def partsIn : Instr → List AccPart
  | .accessAtHome p | .translate p | .pageRetry p | .cxlRequestTimeout p => [p]
  | .remoteElementAccess ps => ps
  | _ => []

/-- A step without the parts that meet a test; none where nothing of it is left. -/
def withoutParts (gone : AccPart → Bool) (e : Instr) : Option Instr :=
  match e with
  | .remoteElementAccess ps =>
    let rest := ps.filter (fun p => !gone p)
    if rest.isEmpty then none else some (.remoteElementAccess rest)
  | e => if (partsIn e).any gone then none else some e

/-- The agenda without the parts that meet a test. -/
def agendaWithout (gone : AccPart → Bool) (l : List Timed) : List Timed :=
  l.filterMap (fun t => (withoutParts gone t.ev).map (fun e => { t with ev := e }))

/-- The held traffic of a station without the parts that meet a test. -/
def heldWithout (gone : AccPart → Bool) (l : List (Nat × Instr)) : List (Nat × Instr) :=
  l.filterMap (fun t => (withoutParts gone t.2).map (fun e => (t.1, e)))

/-- Every part of an access on its way, held for a rank in transit (R199), at a home, parked, held behind a parked one, or queued
at a blocked page. -/
def State.allParts (s : State) : List AccPart :=
  (s.agenda.map (fun t => partsIn t.ev)).flatten ++
  (s.stations.map (fun e => (e.2.held.map (fun x => partsIn x.2)).flatten)).flatten ++ s.waiting ++ s.parked.map (fun q => q.part) ++ s.behind ++
  (s.migrations.map (fun m => m.queue)).flatten

/-- Whether two parts are of one holder, and lie in one page of one address space (R326). -/
def samePage (p q : AccPart) : Bool :=
  q.acc.who == p.acc.who && q.acc.asn == p.acc.asn && q.addr.toNat % 2 ^ 52 / 65536 == p.addr.toNat % 2 ^ 52 / 65536

/-- Whether two parts lie in one virtual line of one address space. -/
def sameLine (p q : AccPart) : Bool := q.acc.asn == p.acc.asn && q.addr.toNat / 128 == p.addr.toNat / 128

/-- Whether an access asks for a line Exclusive for the L1 (R310, R391). -/
def asks (p : AccPart) : Bool :=
  p.line != 0 && (match p.kind with | .amo _ _ | .prefetch true => true | _ => false)

/-- Whether a parked access holds back another (R326): one of its holder to its page. DESIGN CHOICE: also a request of its
station for its line Exclusive, so that the line does not come without what the parked access writes. -/
def holdsBack (q p : AccPart) : Bool :=
  samePage q p || (asks p && q.acc.who.st == p.acc.who.st && sameLine q p)

/-- Whether an access that is parked, or whose answer does not come (R321), holds back another. -/
def State.heldBack (s : State) (p : AccPart) : Bool :=
  s.parked.any (fun q => holdsBack (q.part) p) ||
  s.agenda.any (fun t => match t.ev with | .cxlRequestTimeout q => holdsBack q p | _ => false)

/-- The accesses held behind parked ones that nothing holds back any more go on, ahead of later arrivals (R326). -/
def State.releaseBehind (s : State) : State :=
  { s with behind := s.behind.filter s.heldBack,
           agenda := (s.behind.filter (fun q => !s.heldBack q)).map
             (fun q => { due := s.now + 1, ev := .translate { q with held := true } }) ++ s.agenda }

/-- A line of an L1 that holds no data, and for which none is on its way. -/
def L1Line.idle (l : L1Line) : Bool :=
  !l.exclusive && !l.present0 && !l.present1 && !l.fill0 && !l.fill1 && !l.asking && l.waiters.isEmpty

/-- The lines of a station's L1 that were allocated for accesses which no longer want them are Invalid again (R310). -/
def State.dropIdle (s : State) (st : Nat) : State :=
  let want (l : L1Line) : Bool := s.allParts.any (fun q => q.line == l.id && q.acc.who.st == st)
  s.modStation st (fun x => { x with l1 := x.l1.filter (fun l => !l.idle || want l) })

/-- Whether a part is an access of this holder and task that returns a value, from a given issue number on. A fill
request of the L1 (eng 1) stays (log entry 22). -/
def isLoadOf (who : Who) (op : Nat) (p : AccPart) : Bool :=
  p.acc.who == who && decide (op ≤ p.acc.op) && p.acc.eng == 0 &&
  (match p.kind with | .load | .fetch | .amo _ _ => true | _ => false)

/-- Removes parts that meet a test from wherever they are: on their way, at a home, parked, held, in an L1. What waited
at a home only behind a part that is removed arrives there again. A store that goes is no longer outstanding. -/
def State.withdraw (s : State) (st : Nat) (p : AccPart → Bool) : State :=
  let gone := s.waiting.filter p
  let freed (x : AccPart) : Bool := !p x && gone.any (fun y => y.acc.who == x.acc.who) && s.condition x
  let s1 : State := { s with
    agenda := (s.waiting.filter freed).map (fun x => { due := s.now + 1, ev := .accessAtHome x }) ++
      agendaWithout p s.agenda,
    waiting := s.waiting.filter (fun x => !p x && !freed x),
    parked := s.parked.filter (fun x => !p x.part),
    behind := s.behind.filter (fun x => !p x),
    migrations := s.migrations.map (fun m : Migration => { m with queue := m.queue.filter (fun x => !p x) }) }
  let s2 := s1.modStation st (fun x =>
    { x with l1 := x.l1.map (fun l : L1Line => { l with waiters := l.waiters.filter (fun y => !p y) }),
             leaving := x.leaving.map (fun l : L1Line => { l with waiters := l.waiters.filter (fun y => !p y) }),
             held := heldWithout p x.held })
  (gone ++ (s.parked.map (fun q => q.part)).filter p ++ s.behind.filter p).foldl (fun s x => match x.kind with
    | .store | .red _ _ => s.storeDone x.acc.who x.acc.op
    | _ => s) (s2.releaseBehind.dropIdle st)

/-- Granules that a take had emptied are full again, where they are still empty, and what waits at its home for that
arrives there once more. -/
def State.untake (s : State) (l : List (Nat × Nat)) : State :=
  let s1 := (l.filter (fun e => s.emptyAt e.1 e.2)).foldl (fun s e => s.fillAt e.1 e.2) s
  let freed (x : AccPart) : Bool := !s.condition x && s1.condition x
  { s1 with waiting := s1.waiting.filter (fun x => !freed x),
            agenda := (s1.waiting.filter freed).map (fun x => { due := s1.now + 1, ev := .accessAtHome x }) ++ s1.agenda }

/-- What instructions popped from ports is at their heads again, and what they pushed is not pushed (R91). -/
def State.undoPorts (s : State) (who : Who) (us : List Unsettled) : State :=
  let s1 := ((us.map (fun u => u.pops)).flatten.reverse).foldl (fun (s : State) e =>
    match (s.holder who).ports.find? (fun b => b.port == e.1) with
    | none => s
    | some b =>
      match b.target with
      | .queue q => s.modStation who.st (fun x => { x with queues := put q (e.2.val.setWidth 64 :: look [] x.queues q) x.queues })
      | _ => s.modHolder who (fun h => { h with ports := h.ports.map (fun x =>
          if x.port == e.1 then { x with held := e.2 :: x.held } else x) })) s
  ((us.map (fun u => u.pushes)).flatten).foldl (fun (s : State) e =>
    s.modHolder who (fun h => { h with ports := h.ports.map (fun x =>
      if x.port == e.port then { x with next := x.next - 1, pending := x.pending - 1 } else x) })) s1

/-- Parts of an instruction's access that park make their holder PARKED: all but reductions and prefetches (R324, R325,
R379). -/
def parksHolder (p : AccPart) : Bool :=
  (p.acc.eng == 0 || p.acc.eng == 1) && (match p.kind with | .red _ _ | .prefetch _ => false | _ => true)

/-- The accesses that are parked: at their slices, or with a retry whose walk waits for the answer of a port or link (R321,
R323). -/
def State.parkedParts (s : State) : List AccPart :=
  s.parked.map (fun q => q.part) ++ s.agenda.filterMap (fun t => match t.ev with
    | .cxlRequestTimeout q => if q.attempt != 0 && q.pa.isNone then some q else none
    | _ => none)

/-- A holder none of whose accesses is parked any more is not PARKED (R159). -/
def State.runsAgain (s : State) (who : Who) : State :=
  if (s.parkedParts ++ (s.migrations.map (fun m => m.queue)).flatten).any
      (fun q => q.attempt != 0 && q.acc.who == who && parksHolder q) then s
  else s.modHolder who (fun h => match h.state with
    | .parked => { h with state := .run }
    | .halted _ => { h with state := .halted false }
    | _ => h)

/-- Undoes everything after the load `u` (R91): registers, full/empty bits, masks, loop stack, flags, SIGACC and ports as they
stood at its issue, its own destination empty; the loads after it are withdrawn, and what their takes emptied is full; a
trap held behind it is dropped. -/
def State.undoTo (s : State) (who : Who) (u : Unsettled) : State :=
  let later := (s.holder who).unsettled.filter (fun x => decide (u.op < x.op))
  let s1 := (s.withdraw who.st (isLoadOf who u.op)).runsAgain who
  let s2 := (s1.untake ((u :: later).map (fun x => x.took)).flatten).undoPorts who (u :: later)
  s2.modHolder who (fun h =>
    { h with s := u.snap.s, v := u.snap.v, m := u.snap.m, loops := u.snap.loops, fflags := u.snap.fflags,
             vflags := u.snap.vflags, sigacc := u.snap.sigacc, pc := u.pc,
             unsettled := h.unsettled.filter (fun x => x.op < u.op), heldTrap := none, acquire := none,
             releases := h.releases.filter (fun f => decide (f.1 < u.op)), waiting := false })

/-! ## Journal, counters, phasers at a task's end -/

/-- The journal entry of a sequence becomes free in both copies (R426). -/
def State.journalRetire (s : State) (seq : Word) : State :=
  match s.journal.find? (fun j => j.seq == seq) with
  | none => s
  | some j =>
    let off := 128 * j.idx
    let s1 := s.clearAt (Config.commonsAt j.die + Config.journalBase + off) 128
    let s2 := s1.clearAt (Config.commonsAt (j.die ^^^ 1) + Config.mirrorBase + off) 128
    { s2 with journal := s2.journal.filter (fun k => k.seq != seq) }

/-- A graph counter is on its way to be decremented (R130); `failed` sets FAILED first (R173). -/
def State.decrement (s : State) (id : Nat) (failed : Bool) (src : Nat) : State :=
  s.later (.counterDecrement id failed src none)

/-- The cores that work for a holder's task: the holder, and the loader and storer that serve its slot. -/
def State.team (s : State) (w : Who) : List Who :=
  w :: (if w.core == .urgent || w.core == .keeper then []
        else ([Core.loader, .storer].map (fun c => ({ w with core := c } : Who))).filter (fun c =>
          (s.holder c).state != .free && (s.holder c).serves == slotNumber w.core))

/-- The stores and reductions on their way that are a holder's work, with those of its loader and storer (R37). -/
def State.storesOf (s : State) (w : Who) : List OutStore :=
  ([w.core, .loader, .storer].map (fun c => (s.holder { w with core := c }).stores.filter (fun o =>
    workOfTask { w with core := c } o.task == w))).flatten

/-- Whether every store, write-back and returning atomic of a holder's work that issued before an operation has been performed
(R130, R191, R202, R213). Reductions are not waited on. -/
def State.storesDone (s : State) (after : Option (Who × Nat)) : Bool :=
  match after with
  | none => true
  | some (w, op) =>
    !(s.storesOf w).any (fun o => decide (o.op < op) && !o.reduction) &&
    (s.team w).all (fun c => !(s.holder c).unsettled.any (fun u => decide (u.op < op) && decide (u.left ≠ 0) &&
      (match u.kind with | .amo _ _ _ _ => true | _ => false)))

/-- Whether what an access's work issued before it has been performed. -/
def State.accDone (s : State) (a : Access) (op : Nat) : Bool := s.storesDone (some (workOfTask a.who a.task, op))

/-- Whether a phaser operation belongs to a task, whichever core of its station issued it (R190). -/
def isPhaserOf (who : Who) (task : Word) (o : PhaserOp) : Bool := o.who.st == who.st && o.task == task

/-- The phaser operations of a task that wait at their homes are withdrawn (R41, R173, R202). -/
def State.phaserWithdraw (s : State) (who : Who) (task : Word) : State :=
  { s with stations := s.stations.map (fun e => (e.1, { e.2 with phasers := e.2.phasers.map (fun q =>
      (q.1, { q.2 with waiting := q.2.waiting.filter (fun w => !isPhaserOf who task w.op) })) })) }

/-- A phaser operation is sent to its home: held while the rank is in transit (R199); 8192 stands for a rank that is
SHUT. -/
def State.sendPhaser (s : State) (o : PhaserOp) : State :=
  let e := (s.station o.who.st).rankEntry o.rank
  if rankTransit e then s.modStation o.who.st (fun x => { x with held := x.held ++ [(o.rank, .phaserOpAtHome o)] })
  else s.later (.phaserOpAtHome { o with home := if rankShut e then 8192 else rankCoord e })

/-- The memberships of a task are left in the order in which it joined (R179). -/
def State.phaserLeaveAll (s : State) (who : Who) (h : Holder) : State :=
  h.phasers.foldl (fun s m =>
    ({ s with ops := s.ops + 1 } : State).sendPhaser
      { cmd := .leave, who := who, task := h.taskid, op := s.ops, home := 0, rank := m.rank, idx := m.idx }) s

/-- Whether traffic held for a rank in transit is a task's that ends by a kill, and is withdrawn (R199). A PLEAVE is the
station's own step of that end (R173, R179), and stays. -/
def heldOf (who : Who) (task : Word) (e : Instr) : Bool :=
  match e with
  | .messageArrival m => m.sender == task && m.why == 0
  | .phaserOpAtHome o => isPhaserOf who task o && o.cmd != .leave
  | .stealAtVictim x => x.who.isSome && x.task == task
  | .crossingDelivery d => d.who == who
  | e => (partsIn e).any (fun p => p.acc.task == task)

/-- The held traffic of a task that is killed is withdrawn without effect (R199). -/
def State.dropHeld (s : State) (who : Who) (task : Word) : State :=
  let gone := (s.station who.st).held.filter (fun e => heldOf who task e.2)
  let s1 := s.modStation who.st (fun x => { x with held := x.held.filter (fun e => !heldOf who task e.2) })
  ((gone.map (fun e => partsIn e.2)).flatten).foldl (fun s p => s.storeDone p.acc.who p.acc.op) s1

/-! ## Windows and ports at a task's end -/

/-- The window of a holder closes; the urgent bank's staged writes take effect (R300). -/
def State.closeWindow (s : State) (who : Who) : State :=
  let s1 := s.modHolder who (fun h => { h with window := none })
  if who.core == .urgent then
    s1.modStation who.st (fun x =>
      { x with late := x.late ++ x.staged.map (fun e => (e.1, e.2, s.clock (dieOf who.st) + 1)), staged := [] })
  else s1

/-- The buffer windows of a task are dissolved (R221). The bytes stay where they are: the visible half at base. What a killed
task had still to publish never takes effect (R242); after a TEND it does (R41). -/
def State.dissolve (s : State) (who : Who) (task : Word) (killed : Bool) : State :=
  s.modStation who.st (fun x =>
    { x with windows := x.windows.map (fun w => if w.live && w.task == task then { w with live := false, died := s.ops } else w),
             publishes := x.publishes.filter (fun p => !killed || p.task != task) })

/-- A ring's marks at its home. -/
def Die.ring (d : Die) (desc : Nat) : RingState := look { handed := 0, returned := [], requests := [], pushes := [] } d.rings desc
def Die.setRing (d : Die) (desc : Nat) (r : RingState) : Die := { d with rings := put desc r d.rings }

/-- A binding is dissolved (R25, R240, R274): a ring entry held unread goes back to its ring, and requests and elements
on their way are dropped. Pushes already made stay. -/
def State.unbind (s : State) (who : Who) (b : PortBinding) : State :=
  match b.target with
  | .ring die desc idx =>
    (s.modDie die (fun d =>
      let r := d.ring desc
      d.setRing desc { r with handed := r.handed - b.held.length, returned := r.returned ++ b.held,
                              requests := r.requests.filter (fun q => !(q.who == who && q.port == b.port)) })).later
      (.ringPop { who := who, op := 0, port := b.port, die := die, desc := desc, idx := idx, data := [3],
                  task := (s.holder (s.worksFor who)).taskid })
  | _ => s

/-- The requests of released ports that are on their way are dropped. A pop on its way still advances HEAD, and asks for
no further entry (`data` is [1] for a pop that asks for the next entry, [2] for one that does not, [0] for a request
alone, [3] for a notice that a port has let go). -/
def State.dropPortSteps (s : State) (who : Who) (which : Nat → Bool) : State :=
  { s with agenda := s.agenda.filterMap (fun t =>
    match t.ev with
    | .ringPop r =>
      if r.who == who && which r.port then (if r.data == [0] then none else if r.data == [3] then some t else some { t with ev := .ringPop { r with data := [2] } })
      else some t
    | .streamFetch w p => if w == who && which p then none else some t
    | _ => some t) }

/-- All bindings of a holder are dissolved. -/
def State.unbindAll (s : State) (who : Who) : State :=
  let s1 := (s.holder who).ports.foldl (fun s b => s.unbind who b) s
  let s2 := s1.dropPortSteps who (fun _ => true)
  s2.modHolder who (fun h => { h with ports := [] })

/-! ## Handler-table entries (R151) -/

/-- The handler-table entry of an index. -/
def Station.handler (x : Station) (n : Nat) : BitVec 256 := look 0#256 x.handlers n

/-- The fields of an entry. -/
def entryCode (e : BitVec 256) : Word := BitVec.ofNat 64 (bitsOf e 63 0)
def entryTvec (e : BitVec 256) : Word := BitVec.ofNat 64 (bitsOf e 127 64)
def entryPark (e : BitVec 256) : Bool := e.getLsbD 143
def entryPhn (e : BitVec 256) : Nat := bitsOf e 150 144
def entryTcmn (e : BitVec 256) : Nat := bitsOf e 156 152
def entryDclass (e : BitVec 256) : Nat := bitsOf e 162 159
def entryGang (e : BitVec 256) : Bool := e.getLsbD 163
def entryStoff (e : BitVec 256) : Nat := bitsOf e 175 164
def entryLdoff (e : BitVec 256) : Nat := bitsOf e 187 176
def entrySt (e : BitVec 256) : Bool := e.getLsbD 190
def entryLd (e : BitVec 256) : Bool := e.getLsbD 191

/-- TCM units and phaser slots a station has left (R157), those apart that it holds for a gang (R165). -/
def Station.tcmLeft (x : Station) : Nat :=
  (x.app2 - x.app1) - ((taskCores.map (fun c => match x.cores[coreIx c].task with | some t => t.tcmn | none => 0)).sum) - x.gangTcm
def Station.phLeft (x : Station) : Nat :=
  64 - ((taskCores.map (fun c => match x.cores[coreIx c].task with | some t => t.phn | none => 0)).sum) - x.gangPh

/-- Whether a station meets the reservations of an entry (R157, R164), a slot apart. -/
def Station.meets (x : Station) (e : BitVec 256) : Bool :=
  decide (entryTcmn e ≤ x.tcmLeft) && decide (entryPhn e ≤ x.phLeft) && (!entryPark e || decide (23 ≤ x.app1))

/-! ## The end of a task (R16, R41, R173) -/

/-- A loader or storer issues no more (R16, R39): its registers stay, and what it has issued goes on. -/
def State.restCore (s : State) (who : Who) : State :=
  (s.unbindAll who).modHolder who (fun h =>
    { h with state := .free, unsettled := [], loops := [], heldTrap := none, asyncTrap := [], releases := [],
             waiting := false, acquire := none })

/-- A loader or storer stops with its task (R16): its waiting accesses are withdrawn as well. -/
def State.stopCore (s : State) (who : Who) : State :=
  (s.withdraw who.st (fun p => p.acc.who == who && p.acc.eng == 0 && p.acc.task == (s.holder (s.worksFor who)).taskid &&
    (s.feWaits p || s.parkedParts.contains p))).restCore who

/-- The park area of the matrix engine in a pool (R33, R254). -/
def parkAt (st : Nat) : Nat := Config.poolAt st + 0xC000

/-- Restores context 0 from the park area (R255). -/
def State.unparkNow (s : State) (st : Nat) : State :=
  let a := parkAt st
  let tiles := (List.range 32768).filterMap (fun i =>
    let v := BitVec.ofNat 32 (leNat (s.readAt (a + 4 * i) 4))
    if v = 0 then none else some (i, v))
  let w := (s.wordAt (a + 0x20000)).toNat
  s.modStation st (fun x =>
    { x with acc := tiles ++ x.acc.filter (fun e => 32768 ≤ e.1),
             mx := { pa := (s.wordAt (a + 0x20008)).toNat, pb := (s.wordAt (a + 0x20010)).toNat,
                     kg := (s.wordAt (a + 0x20018)).toNat, dfmt := (s.wordAt (a + 0x20020)).toNat },
             batch0 := if w % 2 = 1 then some (w / 2 % 4) else none, parkedBy := none, parking := none, restoring := false })

/-- The batch of a slot that ends is closed in the park area as well, if that holds it. DESIGN CHOICE. -/
def State.closeParked (s : State) (st n : Nat) : State :=
  let a := parkAt st + 0x20000
  if (s.wordAt a).toNat % 8 = 1 + 2 * n then s.writeAt a (leBytes 0 8) else s

/-- The slot that has parked context 0 and may command it: none once that slot's task has ended (R256). -/
def Station.parker (x : Station) : Option Nat := if x.restoring then none else x.parkedBy

/-- What the end of a task does to the matrix engine (R252, R256). A restore follows the commands that have been accepted. -/
def State.closeBatch (s : State) (who : Who) : State :=
  let n := slotNumber who.core
  let x := s.station who.st
  if who.core == .urgent then s.modStation who.st (fun x => { x with batch1 := false })
  else
    let s1 := s.modStation who.st (fun x =>
      { x with batch0 := if x.batch0 = some n && !x.closing0 then none else x.batch0, mopenq := x.mopenq.filter (· != n),
               parking := if x.parking = some n then none else x.parking })
    match x.parkedBy with
    | none => s1
    | some m =>
      let s2 := s1.closeParked who.st n
      if m != n || x.restoring then s2
      else if x.mtx0.isEmpty then s2.unparkNow who.st
      else s2.modStation who.st (fun x => { x with restoring := true })

/-- A slot that is pre-empted keeps its batch until the commands that it has accepted are complete (R252). -/
def State.closeLater (s : State) (who : Who) : State :=
  s.modStation who.st (fun x =>
    { x with closing0 := x.closing0 || (x.batch0 == some (slotNumber who.core) &&
        x.mtx0.any (fun c => workOfTask c.who c.acc.task == who)) })

/-- What a slot holds for a task to come: TCM units and phaser slots (R164, R165). -/
def TaskInfo.held (tcmn phn : Nat) : TaskInfo :=
  { header := 0, payload := [], srcRank := 0, reply := none, tcmn := tcmn, phn := phn, loader := false, storer := false,
    cctr := none, jseq := 0, gang := none }

/-- Whether a slot is kept for its die's oldest waiting gang (R165). -/
def Holder.kept (h : Holder) : Bool := h.state == .reserved && (match h.task with | some t => t.gang.isNone | none => true)

/-- The slots a station keeps for that gang. -/
def Station.keptSlots (x : Station) : List Holder := x.cores.toList.filter Holder.kept

/-- How many members of the gang a station can take, with what it keeps for it (R164). -/
def Station.placeable (x : Station) (e : BitVec 256) : Nat :=
  if x.shut || (entryPark e && decide (x.app1 < 23)) then 0
  else
    let slots := ((List.range 4).filter (fun n => let h := x.cores[coreIx (slotOf n)]; h.state == .free || h.kept)).length
    Nat.min slots (Nat.min (if entryTcmn e = 0 then 4 else (x.tcmLeft + x.gangTcm) / entryTcmn e)
      (if entryPhn e = 0 then 4 else (x.phLeft + x.gangPh) / entryPhn e))

/-- How much of one resource a gang's missing members still need (R165): the members for which the die has no room need `need` each,
of which the stations keep some already, beyond what the members they have room for take. -/
def State.lacking (s : State) (st handler size : Nat) (need : BitVec 256 → Nat) (kept : Station → Nat) : Nat :=
  let xs := (span (dieOf st * 1024) 1024).map s.station
  let room (x : Station) : Nat := x.placeable (x.handler handler)
  (size - (xs.map room).sum) * need ((s.station st).handler handler) -
    (xs.map (fun x => kept x - room x * need (x.handler handler))).sum

/-- Whether a station could take a member of a gang if it were empty. -/
def Station.couldTake (x : Station) (e : BitVec 256) : Bool :=
  decide (entryTcmn e ≤ x.app2 - x.app1) && decide (entryPhn e ≤ 64) && (!entryPark e || decide (23 ≤ x.app1))

/-- A slot or the urgent bank has become free, with the TCM units and phaser slots that its task had (R165): while a gang waits on
its die, they are held for the oldest one up to what its missing members needed before. -/
def State.slotFreed (s : State) (who : Who) (tcmn phn : Nat) : State :=
  let x := s.station who.st
  if who.core == .keeper || x.shut then s
  else
    match (s.die (dieOf who.st)).gangs with
    | [] => s
    | g :: _ =>
      let handler := bitsOf g.header 47 40
      let size := match g.gang with | some (_, n) => n | none => 1
      if !x.couldTake (x.handler handler) then s
      else
        let before := s.modHolder who (fun h => { h with state := .run, task := some (TaskInfo.held tcmn phn) })
        let lacks := before.lacking who.st handler size
        let slot := who.core != .urgent && decide (0 < lacks (fun _ => 1) (fun x => x.keptSlots.length))
        let s1 := if slot then s.modHolder who (fun h => { h with state := .reserved, task := some (TaskInfo.held 0 0) }) else s
        s1.modStation who.st (fun y => { y with
          gangTcm := y.gangTcm + Nat.min tcmn (lacks entryTcmn Station.gangTcm),
          gangPh := y.gangPh + Nat.min phn (lacks entryPhn Station.gangPh) })

/-- The steps a TEND and a kill have in common, once the accesses are dealt with: phasers, ports, window, deadline,
loader and storer, buffer windows, matrix batch, and the slot becomes free. -/
def State.freeHolder (s : State) (who : Who) (killed : Bool) : State :=
  let h := s.holder who
  let s1 := s.phaserWithdraw who h.taskid
  let s2 := (s1.phaserLeaveAll who h).undoPorts who h.unsettled
  let s3 := s2.unbindAll who
  let s4 := s3.closeWindow who
  let s5 := s4.dissolve who h.taskid killed
  let n := slotNumber who.core
  let s6 := [Core.loader, Core.storer].foldl (fun s c =>
    let w : Who := { who with core := c }
    if (s.holder w).state != .free && (s.holder w).serves = n && who.core != .urgent then s.stopCore w else s) s5
  let s7 := s6.closeBatch who
  let s8 := s7.modHolder who (fun h => { h with
    state := .free, phasers := [], deadl := 0xFFFF_FFFF_FFFF_FFFF#64, task := none, loops := [], unsettled := [],
    heldTrap := none, asyncTrap := [], releases := [], waiting := false, acquire := none, inh := false, failure := none })
  s8.slotFreed who (match h.task with | some t => t.tcmn | none => 0) (match h.task with | some t => t.phn | none => 0)

/-- Completion is signalled to dependants and to the launch journal (R41, R166, R426). -/
def State.complete (s : State) (who : Who) (h : Holder) (failed : Bool) : State :=
  match h.task with
  | none => s
  | some t =>
    let s1 := match t.cctr with
      | some id => s.decrement id failed (rankOf who.st)
      | none => s
    let s2 := if t.jseq = 0 then s1 else s1.journalRetire t.jseq
    match t.gang with
    | some (die, g, _) =>
      s2.modDie die (fun d =>
        let left := d.running.map (fun q : Gang =>
          if q.index = g then
            { q with members := q.members.filter (fun m => !(m.1 == who.st && m.2 == slotNumber who.core)) }
          else q)
        { d with running := left.filter (fun q => q.members.length != 0) })
    | none => s2

/-- KILL (R173): the accesses of the task that wait on a full/empty condition or are parked are withdrawn, the reductions of a
shuttered station excepted (R369); the parts a TEND shares; with CV the counter's FAILED and its decrement, and the journal entry
retires. `restart` leaves out the last two for a task that is restarted (R372). -/
def State.kill (s : State) (who : Who) (restart : Bool) : State :=
  let h := s.holder who
  let mine (p : AccPart) : Bool := p.acc.who.st == who.st && p.acc.task == h.taskid
  let red (p : AccPart) : Bool := (s.station who.st).shut && (match p.kind with | .red _ _ => true | _ => false)
  let s1 := s.withdraw who.st (fun p => mine p && p.acc.eng == 0 && !red p &&
    (s.feWaits p || s.parkedParts.contains p))
  let s2 := (s1.dropHeld who h.taskid).freeHolder who true
  if restart then s2 else s2.complete who h true

/-! ## Traps (R350 to R354) -/

/-- The live loop entries. -/
def Holder.active (h : Holder) : Nat := h.loops.length

/-- TRAP ENTRY (R352), for a trap that is not fatal: EPC, CAUSE, TVAL and FVA; SIGSAV, SIGACC, SOURCE, LOOPS, the loop
stack frozen, INH; a reported failure is no longer held; PC := TVEC. -/
def Holder.enterTrap (h : Holder) (pc : Word) (t : TrapInfo) (source : Nat) : Holder :=
  { h with epc := pc, cause := BitVec.ofNat 64 t.cause, tval := t.tval,
           fva := match t.fva with | some f => f | none => h.fva,
           sigsav := h.sigacc, sigacc := 0, source := source, loopsAt := h.active,
           loops := h.loops.map (fun l => { l with frozen := true }), inh := true,
           failure := if t.held then none else h.failure, pc := h.tvec, heldTrap := none, waiting := false,
           acquire := none }

/-- A slot that takes a trap waits no longer with an MOPEN (R250). -/
def State.leaveMopen (s : State) (who : Who) : State :=
  if (s.station who.st).mopenq.contains (slotNumber who.core) then
    s.modStation who.st (fun x => { x with mopenq := x.mopenq.filter (· != slotNumber who.core) })
  else s

/-- TAKING A TRAP (R352, R353, R39): a loader or storer stops and passes its trap to the slot it serves; a double trap,
or a trap without a vector, writes its record and kills the task; any other trap enters the handler. -/
def State.takeTrap (s : State) (who : Who) (pc : Word) (t : TrapInfo) (source : Nat) : State :=
  let h := s.holder who
  match who.core with
  | .loader | .storer =>
    let slot : Who := { who with core := slotOf h.serves }
    let n := if who.core == .loader then 1 else 2
    (s.restCore who).modHolder slot (fun x =>
      { x with asyncTrap := x.asyncTrap ++ [({ t with tval := pc, held := false }, n)] })
  | _ =>
    if h.inh then
      (s.record (homeBank who.st) deferred 0x02 t.cause pc (h.cause &&& 0xFF) h.taskid).kill who false
    else if h.tvec = 0 then
      (s.record (homeBank who.st) deferred 0x01 t.cause pc t.tval h.taskid).kill who false
    else (s.setHolder who (h.enterTrap pc t source)).leaveMopen who

/-- Whether the body of a loop holds an address (R97). -/
def loopHolds (l : LoopEntry) (target : Word) : Bool :=
  decide (l.start.toNat ≤ target.toNat) && decide (target.toNat ≤ l.start.toNat + 4 * (l.len - 1))

/-- Step 1 of R97: pops the innermost loops whose bodies do not contain the target. -/
def popOutside (target : Word) : List LoopEntry → List LoopEntry
  | [] => []
  | l :: r => if l.frozen || loopHolds l target then l :: r else popOutside target r

/-- THE RETURN FROM A TRAP (R354): the handler's loops are discarded and the frozen ones thawed, SIGACC := SIGSAV,
INH := 0, and the jump to EPC pops every loop whose body does not hold it (R97 step 1). -/
def Holder.leaveTrap (h : Holder) : Holder :=
  let kept := (h.loops.drop (h.loops.length - h.loopsAt)).map (fun l => { l with frozen := false })
  { h with loops := popOutside h.epc kept, sigacc := h.sigsav, inh := false, pc := h.epc }

/-! ## Station kill (R363, R364) -/

/-- A station's view of the neighbour in a direction. -/
def Station.neighbour (x : Station) (d : Nat) : Neighbour := x.neighbours.toList.getD d Neighbour.reset
def Station.modNeighbour (x : Station) (d : Nat) (f : Neighbour → Neighbour) : Station :=
  if h : d < 4 then { x with neighbours := x.neighbours.set d (f x.neighbours[d]) } else x

/-- A heartbeat of a station in the period under way (R365). -/
def State.heartbeat (s : State) (st dir : Nat) (note : Bool) : Heartbeat :=
  let x := s.station st
  { seq := x.epoch % 0x10000, count := Nat.min (x.neighbour dir).sentPrev 0xFFFF,
    chk := if x.testing || note then 0 else 15, appeal := x.appealing, shutNote := note, valid := true }

/-- The neighbours of a station on its die, with directions. -/
def neighboursOf (st : Nat) : List (Nat × Nat) := (List.range 4).filterMap (fun d => (neighbourOf st d).map (fun n => (d, n)))

/-- STATION KILL (R364): every holder stops, the mailboxes are sealed, SHUT is set with WHY, and a heartbeat with
SHUTNOTE goes to each live neighbour. -/
def State.stationKill (s : State) (st why : Nat) : State :=
  if (s.station st).shut then s
  else
  let s1 := s.modStation st (fun x =>
    { x with shut := true, shutWhy := why, sealed := true, shutPeriod := x.epoch % 0x10000, shutFrom := x.epoch })
  (neighboursOf st).foldl (fun s e =>
    if ((s.station st).neighbour e.1).shut then s
    else s.later (.heartbeatReceived e.2 (opposite e.1) (s.heartbeat st e.1 true))) s1

/-- A signature mismatch (R359). -/
def State.sigMismatch (s : State) (who : Who) (pc : Word) (expected observed : BitVec 15) : State :=
  let syn := BitVec.ofNat 64 (expected.toNat * 0x10000 + observed.toNat)
  let s1 := s.recordUncorrected (homeBank who.st) 0x09 0 pc syn (s.holder (s.worksFor who)).taskid
  if who.st < 8192 then s1.stationKill who.st 3 else s1.modHolder who (fun h => { h with state := .free })

/-- The coordinates from `a`, exclusive, to `b` on one axis. -/
def axisWay (a b : Nat) : List Nat := if a ≤ b then span (a + 1) (b - a) else (span b (a - b)).reverse

/-- The stations after `a` on the way to the place of `b` on the die of `a`, along x first or along y first. -/
def meshWay (xFirst : Bool) (a b : Nat) : List Nat :=
  let at_ (x y : Nat) : Nat := a / 1024 * 1024 + 32 * x + y
  if xFirst then (axisWay (xOf a) (xOf b)).map (fun x => at_ x (yOf a)) ++ (axisWay (yOf a) (yOf b)).map (fun y => at_ (xOf b) y)
  else (axisWay (yOf a) (yOf b)).map (fun y => at_ (xOf a) y) ++ (axisWay (xOf a) (xOf b)).map (fun x => at_ x (yOf b))

/-- The way through the mesh of a die (R336, R367, R369), which avoids shuttered stations and those of `avoid`. DESIGN CHOICE: along
x and then along y, or along y and then along x, or one such way from a neighbour. -/
def State.way (s : State) (avoid : List Nat) (a b : Nat) : List Nat :=
  let plain (c : Nat) : List (List Nat) := [meshWay true c b, meshWay false c b]
  let round := ((neighboursOf a).map (fun e => (plain e.2).map (fun w => e.2 :: w))).flatten
  ((plain a ++ round).find? (fun w => w.dropLast.all (fun n => !avoid.contains n && !(s.station n).shut))).getD (meshWay true a b)

/-- The hops of a way, each from a station to a neighbour. -/
def hopsOf (a : Nat) (w : List Nat) : List (Nat × Nat) := (a :: w).zip w

/-- The direction in which a neighbour lies. -/
def towards (a b : Nat) : Option Nat := ((neighboursOf a).find? (fun e => e.2 == b)).map (·.1)

/-- One message head goes from a station to its neighbour, stamped with the period (R365, R366). -/
def State.headHop (s : State) (a b : Nat) : State :=
  match towards a b with
  | none => s
  | some d =>
    let k := (s.station a).epoch
    (s.modStation a (fun x => x.modNeighbour d (fun n => { n with sent := n.sent + 1 }))).modStation b
      (fun x => x.modNeighbour (opposite d) (fun n => { n with arrived := put k (look 0 n.arrived k + 1) n.arrived }))

/-- A message head that a station injects goes from router to router (R365, R366). DESIGN CHOICE: every hop is made in the step in
which the head leaves, and a head for another die leaves its own at the place of its destination. -/
def State.headSent (s : State) (st dst : Nat) : State :=
  if 8192 ≤ st || 8192 ≤ dst then s else (hopsOf st (s.way [] st dst)).foldl (fun s e => s.headHop e.1 e.2) s

/-- Class-0 flits go along a way: every router counts them against the neighbour they come from (R366). -/
def State.flitsAlong (s : State) (a n : Nat) (w : List Nat) : State :=
  (hopsOf a w).foldl (fun s e => match towards e.2 e.1 with
    | some d => s.modStation e.2 (fun x => x.modNeighbour d (fun k => { k with flits := k.flits + n }))
    | none => s) s

/-- A message leaves a station (R161, R365, R366): its head is counted on the way, and the flits of an urgent one, which are of mesh
class 0. -/
def State.messageSent (s : State) (st dst : Nat) (urgent : Bool) (words : Nat) : State :=
  let t := s.headSent st dst
  if urgent && st < 8192 && dst < 8192 then t.flitsAlong st (Config.messageFlits words) (t.way [] st dst) else t

/-! ## Event counts (R174 to R176) -/

def Threshold.reset : Threshold := { count := 0, sel := 0, fired := false, bound := none }

/-- A threshold that fires launches the handler that is bound at the crossing (R176, R210). -/
def State.crossed (s : State) (st n : Nat) (fire : Bool) (t : Threshold) (count : Word) : State :=
  match fire, t.bound with
  | true, some (urg, cls, handler) => s.later (.thresholdFire st n count { time := s.time, urg := urg, cls := cls, handler := handler })
  | _, _ => s

/-- One station's event happens `n` times: every PCNT that counts it rises, and a threshold passed fires (R176). -/
def State.countEvent (s : State) (st ev n : Nat) : State :=
  let x := s.station st
  let hits := x.thresholds.filter (fun e => bitsOf e.2.sel 63 56 == ev)
  hits.foldl (fun s e =>
    let t := e.2
    let c := t.count + BitVec.ofNat 64 n
    let lim := bitsOf t.sel 47 0
    let fire := !t.fired && decide (t.count.toNat < lim) && decide (lim ≤ c.toNat)
    let s1 := s.modStation st (fun y =>
      { y with thresholds := put e.1 { t with count := c, fired := t.fired || fire } y.thresholds })
    s1.crossed st e.1 fire t c) s

/-- A gauge takes a new value (R175, R176). -/
def State.gauge (s : State) (st ev v : Nat) : State :=
  let x := s.station st
  let hits := x.thresholds.filter (fun e => bitsOf e.2.sel 63 56 == ev)
  hits.foldl (fun s e =>
    let t := e.2
    let lim := bitsOf t.sel 47 0
    let fire := !t.fired && decide (t.count.toNat < lim) && decide (lim ≤ v)
    let s1 := s.modStation st (fun y =>
      { y with thresholds := put e.1 { t with count := BitVec.ofNat 64 v, fired := t.fired || fire } y.thresholds })
    s1.crossed st e.1 fire t (BitVec.ofNat 64 v)) s

end Sys2Proof.Machine
end

