-- ==== Sys2Proof/Machine/Operands.lean ====
section
/-! DEFINITION. How every instruction issues (R43, R49, R90): the registers it names under the full/empty rules (R24,
R25), what holds it at issue, and what follows at the same instruction boundary: the loop rule (R97), the signature
fold (R356, R357), the advance of the PC. -/
namespace Sys2Proof.Machine

/-! ## Registers as an instruction names them -/

/-- A register with a full/empty bit (R21). -/
inductive RegName where
  | s (r : Reg)
  | v (r : Reg)
deriving DecidableEq, Repr, Inhabited

/-- The port number of a port-capable register (R237). -/
def portOf : RegName → Option Nat
  | .s r => if 28 ≤ r.toNat then some (r.toNat - 28) else none
  | .v r => if 28 ≤ r.toNat then some (r.toNat - 24) else none

/-- The register of a port number. -/
def regOfPort (p : Nat) : RegName :=
  if p < 4 then .s (BitVec.ofNat 5 (28 + p)) else .v (BitVec.ofNat 5 (24 + p))

/-- The binding of a register, if it is bound. -/
def Holder.binding (h : Holder) (n : RegName) : Option PortBinding :=
  match portOf n with
  | some p => h.ports.find? (fun b => b.port == p)
  | none => none

/-- The full/empty state of a register that is not bound; s0 is always full (R21). -/
def Holder.avail (h : Holder) : RegName → Avail
  | .s r => if r = 0 then .full else h.s[r.toNat].avail
  | .v r => h.v[r.toNat].avail

/-- The value of a scalar register; s0 reads zero. -/
def Holder.rd (h : Holder) (r : Reg) : Word := if r = 0 then 0 else h.s[r.toNat].val

/-- The value of a vector register. -/
def Holder.rdv (h : Holder) (r : Reg) : VWord := h.v[r.toNat].val

/-- The value of a mask register; m0 reads all ones. -/
def Holder.rdm (h : Holder) (r : MReg) : MWord := if r = 0 then BitVec.allOnes 256 else h.m[r.toNat]

/-- A scalar register written and full; a write to s0 is discarded (R48). -/
def Holder.setS (h : Holder) (r : Reg) (x : Word) : Holder :=
  if r = 0 then h else { h with s := h.s.set r.toNat { val := x, avail := .full } }

/-- A vector register written and full. -/
def Holder.setV (h : Holder) (r : Reg) (x : VWord) : Holder := { h with v := h.v.set r.toNat { val := x, avail := .full } }

/-- A mask register written; a write to m0 is discarded (R48). -/
def Holder.setM (h : Holder) (r : MReg) (x : MWord) : Holder := if r = 0 then h else { h with m := h.m.set r.toNat x }

/-- The full/empty state of a register set. -/
def Holder.setAvail (h : Holder) (n : RegName) (a : Avail) : Holder :=
  match n with
  | .s r => if r = 0 then h else { h with s := h.s.set r.toNat { h.s[r.toNat] with avail := a } }
  | .v r => { h with v := h.v.set r.toNat { h.v[r.toNat] with avail := a } }

/-! ## How an issue goes on -/

/-- The outcome of one check or step of an issue: it goes on, it waits, or it traps (R43). -/
inductive Res (α : Type) where
  | go (x : α)
  | wait
  | trap (t : TrapInfo)
deriving Repr, Inhabited

/-- The first check that does not go on decides (R43). -/
def Res.bind {α β : Type} (r : Res α) (f : α → Res β) : Res β :=
  match r with
  | .go x => f x
  | .wait => .wait
  | .trap t => .trap t

/-- A trap with its cause and TVAL. -/
def trapOf (cause : Nat) (tval : Word) : TrapInfo := { cause := cause, tval := tval, fva := none, held := false }

/-- The trap causes of R350. -/
def illegalOf (h : Holder) : TrapInfo := trapOf 0x01 (h.ir.setWidth 64)
/-- EMPTY of a register (R350). -/
def emptyOf : RegName → TrapInfo
  | .s r => trapOf 0x02 (0x8000000000000000#64 ||| BitVec.ofNat 64 r.toNat)
  | .v r => trapOf 0x02 (0x8000000000000020#64 ||| BitVec.ofNat 64 r.toNat)
/-- EMPTY of a tryf at its home. -/
def emptyAtHome (a : Word) : TrapInfo := trapOf 0x02 a
def alignOf (a : Word) : TrapInfo := trapOf 0x03 a
def accessTrap (a : Word) : TrapInfo := trapOf 0x04 a
/-- PAGE with its access kind (0 load, 1 store, 2 fetch, 3 atomic) and FVA. -/
def pageTrap (kind : Nat) (a : Word) : TrapInfo :=
  { cause := 0x05, tval := BitVec.ofNat 64 kind, fva := some a, held := false }
def poisonTrap (a : Word) : TrapInfo := trapOf 0x06 a
def streamEnd (port : Nat) : TrapInfo := trapOf 0x07 (BitVec.ofNat 64 port)
/-- ENGINE (R266): subcode, engine, engine-register number. -/
def engineTrap (eng sub : Nat) : TrapInfo := trapOf 0x08 (BitVec.ofNat 64 (eng * 256 + sub))
def engineRegTrap (eng sub reg : Nat) : TrapInfo := trapOf 0x08 (BitVec.ofNat 64 (reg % 65536 * 65536 + eng * 256 + sub))
def queueTrap (port : Nat) : TrapInfo := trapOf 0x09 (BitVec.ofNat 64 port)
def undeliverable (name : Word) : TrapInfo := trapOf 0x0F name
def maskwinTrap : TrapInfo := trapOf 0x10 0
def eosTrap (port : Nat) : TrapInfo := trapOf 0x11 (BitVec.ofNat 64 port)

/-- A condition that must hold, or the trap is taken. -/
def need (c : Bool) (t : TrapInfo) : Res Unit := if c then .go () else .trap t

/-- A condition the instruction waits for. -/
def await (c : Bool) : Res Unit := if c then .go () else .wait

/-! ## Port registers (R25, R237 to R240) -/

/-- Bytes of a port's element. -/
def portBytes (p : Nat) : Nat := if p < 4 then 8 else 256

/-- Elements of a bound stream. -/
def streamTotal (port len rows : Nat) : Nat := len * rows / portBytes port

/-- The element at the head of an input binding. -/
def State.portHead (s : State) (who : Who) (b : PortBinding) : Option PortElem :=
  match b.target with
  | .queue q =>
    match look [] (s.station who.st).queues q with
    | x :: _ => some { idx := 0, val := x.setWidth 2048, trap := none }
    | [] => none
  | _ => b.held.head?

/-- Reading a source register (R24, R25): goes on when it is full. -/
def State.checkSrc (s : State) (who : Who) (n : RegName) (k : Bool) : Res Unit :=
  let h := s.holder who
  match h.binding n with
  | some b =>
    if b.out then .trap (queueTrap b.port)
    else
      match s.portHead who b with
      | some e =>
        match e.trap with
        | some t => .trap t
        | none => .go ()
      | none => if b.ended then .trap (streamEnd b.port) else if k then .trap (emptyOf n) else .wait
  | none =>
    match h.avail n with
    | .full => .go ()
    | .pending _ => if k then .trap (emptyOf n) else .wait
    | .empty => .trap (emptyOf n)

/-- Whether bit IDX of a ring's EOSMASK is set at its home (R182, R183). -/
def State.ringEos (s : State) (die desc idx : Nat) : Bool :=
  (s.wordAt (Config.commonsAt die + desc + 32)).getLsbD (32 + idx)

/-- The destinations of an unsettled instruction. -/
def destsOf (k : LoadKind) : List RegName :=
  match k with
  | .scalar d _ _ | .amo d _ _ _ | .phaser d => [.s d]
  | .vector d _ | .gather d _ _ => [.v d]
  | .engine d pair => if pair then [.s d, .s (d + 1)] else [.s d]
  | .answer => []

/-- The pushes through a port that are not final yet (R90). -/
def Holder.promised (h : Holder) (port : Nat) : Nat :=
  ((h.unsettled.map (fun u => u.pushes)).flatten.filter (fun e => e.port == port)).length

/-- The pushes to a station queue that are not final yet. -/
def Station.promised (x : Station) (q : Nat) : Nat :=
  (x.cores.toList.map (fun h => ((h.ports.filter (fun b => b.out && b.target == .queue q)).map (fun b => h.promised b.port)).sum)).sum

/-- Whether an output binding has room for a push (R25, R238, R240, R275): it waits, or traps past the end. -/
def State.roomFor (s : State) (who : Who) (b : PortBinding) : Res Unit :=
  let h := s.holder who
  let x := s.station who.st
  match b.target with
  | .queue q => await (decide ((look [] x.queues q).length + x.promised q < 32))
  | .ring die desc idx =>
    if b.ended || s.ringEos die desc idx then .trap (eosTrap b.port) else await (b.pending == 0)
  | .stream _ len rows _ _ _ _ =>
    if b.next < streamTotal b.port len rows then
      await (decide ((h.stores.filter (fun o => o.port == some b.port)).length + h.promised b.port < 4))
    else .trap (streamEnd b.port)

/-- Writing a destination register (R24, R25): goes on when its producer has landed, or when there is room. -/
def State.checkDst (s : State) (who : Who) (n : RegName) : Res Unit :=
  let h := s.holder who
  match h.binding n with
  | some b =>
    if !b.out then .trap (queueTrap b.port)
    else if h.unsettled.any (fun u => (destsOf u.kind).contains n) then .wait
    else s.roomFor who b
  | none =>
    match h.avail n with
    | .pending _ => .wait
    | _ => .go ()

/-- The registers an instruction names: its sources in the order of its fields, each with its disposition bit, and its
destinations. -/
structure Uses where
  srcs : List (RegName × Bool)
  dsts : List RegName
deriving DecidableEq, Repr, Inhabited

/-- Every source is read in field order. -/
def State.checkSrcs (s : State) (who : Who) : List (RegName × Bool) → Res Unit
  | [] => .go ()
  | (n, k) :: r => (s.checkSrc who n k).bind (fun _ => s.checkSrcs who r)

/-- Every destination can be written. -/
def State.checkDsts (s : State) (who : Who) : List RegName → Res Unit
  | [] => .go ()
  | n :: r => (s.checkDst who n).bind (fun _ => s.checkDsts who r)

/-- The value of a scalar source: the head of the port it is bound to, or the register. -/
def State.valS (s : State) (who : Who) (r : Reg) : Word :=
  let h := s.holder who
  match h.binding (.s r) with
  | some b => match s.portHead who b with
    | some e => e.val.setWidth 64
    | none => h.rd r
  | none => h.rd r

/-- The value of a vector source. -/
def State.valV (s : State) (who : Who) (r : Reg) : VWord :=
  let h := s.holder who
  match h.binding (.v r) with
  | some b => match s.portHead who b with
    | some e => e.val
    | none => h.rdv r
  | none => h.rdv r

/-- Whether a register is full as BF and TSTF test it (R25, R93, R387): a bound one is full when its input side has
an element at its head. -/
def State.testFull (s : State) (w : Who) (n : RegName) : Bool :=
  match (s.holder w).binding n with
  | some b => !b.out && (s.portHead w b).isSome
  | none => (s.holder w).avail n == .full

/-- Sets the register a port stands for to the element it last popped or pushed (R274). -/
def Holder.setPortReg (h : Holder) (p : Nat) (x : VWord) : Holder :=
  match regOfPort p with
  | .s r => h.setS r (x.setWidth 64)
  | .v r => h.setV r x

/-- Replaces a binding. -/
def Holder.setBinding (h : Holder) (b : PortBinding) : Holder :=
  { h with ports := h.ports.map (fun x => if x.port == b.port then b else x) }

/-- A pop is final (R25, R90): a ring's goes to its home with the request for the next entry; a stream's makes room for the
next fetch. -/
def State.popFinal (s : State) (who : Who) (port : Nat) : State :=
  match (s.holder who).ports.find? (fun b => b.port == port) with
  | none => s
  | some b =>
    match b.target with
    | .queue _ => s
    | .ring die desc idx =>
      s.later (.ringPop { who := who, op := s.ops, port := port, die := die, desc := desc, idx := idx, data := [1],
                          task := (s.holder (s.worksFor who)).taskid })
    | .stream _ _ _ _ _ _ _ =>
      let s1 := s.modHolder who (fun h => h.setBinding { b with pending := 1 })
      if b.pending = 0 then s1.later (.streamFetch who port) else s1

/-- The last of a list changed. -/
def onLast (f : Unsettled → Unsettled) : List Unsettled → List Unsettled
  | [] => []
  | [u] => [f u]
  | u :: r => u :: onLast f r

/-- Pops one element of a bound input port (R25). Past an unsettled load the pop is provisional, as the register's new state
is (R90). -/
def State.popPort (s : State) (who : Who) (b : PortBinding) : State :=
  match s.portHead who b with
  | none => s
  | some e =>
    let s1 := match b.target with
      | .queue q =>
        (s.modHolder who (fun h => h.setPortReg b.port e.val)).modStation who.st (fun x =>
          { x with queues := put q (look [] x.queues q).tail x.queues })
      | _ => s.modHolder who (fun h => (h.setPortReg b.port e.val).setBinding { b with held := b.held.tail })
    if (s.holder who).unsettled.isEmpty then s1.popFinal who b.port
    else s1.modHolder who (fun h => { h with unsettled := onLast (fun u => { u with pops := u.pops ++ [(b.port, e)] }) h.unsettled })

/-- Pops each bound source register once (R25). -/
def State.popAll (s : State) (who : Who) (srcs : List (RegName × Bool)) : State :=
  let ports := srcs.foldl (fun l e => match (s.holder who).binding e.1 with
    | some b => if l.contains b.port then l else l ++ [b.port]
    | none => l) ([] : List Nat)
  ports.foldl (fun s p => match (s.holder who).ports.find? (fun b => b.port == p) with
    | some b => s.popPort who b
    | none => s) s

/-! ## Parts of an access -/

/-- The pieces of `n` bytes from `a` that lie in one line each: address, length, place in the data. -/
def linePieces (a n : Nat) : List (Nat × Nat × Nat) :=
  (blocks Config.lineSize a n).map (fun l =>
    let lo := Nat.max a (l * Config.lineSize)
    let hi := Nat.min (a + n) ((l + 1) * Config.lineSize)
    (lo, hi - lo, lo - a))

/-- The parts of an access: one for a near access, one for each line of a far one (R317, R334). `data` is what a store
writes, or empty. -/
def State.partsOf (s : State) (acc : Access) (kind : PartKind) (a : Word) (n : Nat) (q : Qual) (data : List Byte) :
    List AccPart :=
  let mk (b len off : Nat) : AccPart :=
    { acc := acc, kind := kind, addr := BitVec.ofNat 64 b, place := s.placeOf acc.who b, size := len, off := off,
      qual := q, data := (data.drop off).take len, attempt := 0, pa := none }
  match s.regionOf acc.who a.toNat with
  | some .far => (linePieces a.toNat n).map (fun e => mk e.1 e.2.1 e.2.2)
  | _ => [mk a.toNat n 0]

/-- The rank a rank-relative address names, unless it is the station's own (R304). -/
def State.remoteRank (s : State) (who : Who) (a : Nat) : Option Nat :=
  match s.regionOf who a with
  | some (.remote n) => if n = rankOf who.st then none else some n
  | _ => none

/-- A part ends without having been performed: a load, returning atomic or fetch takes its trap (R91, R43), a store or
reduction is recorded and held (R325, R380, R454), a prefetch is dropped (R391). -/
def State.failPart (s : State) (p : AccPart) (t : TrapInfo) (bank : Nat) : State :=
  match p.kind with
  | .load | .amo _ _ => s.partBack p.acc.who p.acc.op p.off [] (some t)
  | .store | .red _ _ => s.storeFailed p t.cause bank
  | .prefetch _ => s
  | .fetch =>
    let h := s.holder p.acc.who
    if (s.sameTask p.acc || p.acc.who.core == .keeper) && h.pc == p.acc.pc && h.heldTrap.isNone then
      if h.unsettled.isEmpty then s.takeTrap p.acc.who h.pc t 0
      else s.setHolder p.acc.who { h with heldTrap := some (h.pc, t) }
    else s

/-- Sends a step of near traffic to a rank: held while the rank is in transit (R199), returned at once while it is SHUT
(R194, R197). -/
def State.sendNear (s : State) (p : AccPart) (e : Instr) : State :=
  match s.remoteRank p.acc.who p.addr.toNat with
  | none => s.later e
  | some n =>
    let entry := (s.station p.acc.who.st).rankEntry n
    if rankTransit entry then s.modStation p.acc.who.st (fun x => { x with held := x.held ++ [(n, e)] })
    else if rankShut entry then s.failPart p (undeliverable (BitVec.ofNat 64 n)) (homeBank p.acc.who.st)
    else s.later e

/-- Sends a part on its way: near to its home, far to its translating slice (R317). -/
def State.sendPart (s : State) (p : AccPart) : State :=
  match p.place with
  | .far _ => s.later (.translate p)
  | _ => s.sendNear p (.accessAtHome p)

/-- Sends parts in order. -/
def State.sendParts (s : State) (ps : List AccPart) : State := ps.foldl (fun s p => s.sendPart p) s

/-- Whether traffic to an address goes to a rank in transit. -/
def State.inTransit (s : State) (who : Who) (a : Nat) : Bool :=
  match s.remoteRank who a with
  | some n => rankTransit ((s.station who.st).rankEntry n)
  | none => false

/-- Whether the hold queue of 64 items has a place for traffic to each of some addresses (R199). -/
def State.holdRoom (s : State) (who : Who) (as : List Nat) : Bool :=
  let n := (as.filter (s.inTransit who)).length
  n == 0 || decide ((s.station who.st).held.length + n ≤ 64)

/-- Whether an instruction's traffic to an address must wait for a place in the hold queue (R199). -/
def State.holdFull (s : State) (who : Who) (a : Nat) : Bool := !s.holdRoom who [a]

/-- The next issue sequence number is used up. -/
def State.bump (s : State) : State := { s with ops := s.ops + 1 }

/-- Pieces of a stream's element `i`: address, length, place in the element (R238). -/
def streamPieces (base : Word) (len : Nat) (stride : Word) (size i : Nat) : List (Nat × Nat × Nat) :=
  let first := i * size
  (blocks len first size).map (fun row =>
    let lo := Nat.max first (row * len)
    let hi := Nat.min (first + size) ((row + 1) * len)
    ((base + BitVec.ofNat 64 row * stride + BitVec.ofNat 64 (lo - row * len)).toNat, hi - lo, lo - first))

/-- The ring registrations and RINGEOS of a station that have not been performed, on their way or at their homes (R273, R275). -/
def State.ringCommands (s : State) (st : Nat) : List RingOp :=
  s.agenda.filterMap (fun t => match t.ev with
    | .ringRegistration r | .ringeosAtHome r => if r.who.st == st then some r else none
    | _ => none) ++
  (s.dies.map (fun d => (d.2.rings.map (fun e => e.2.pushes.filter (fun r => r.data.isEmpty && r.who.st == st))).flatten)).flatten

/-- The output streams of a holder whose writes have not all been performed (R272): the numbers of their STRMs, each with the task it
works for. -/
def State.outStreams (s : State) (w : Who) : List (Nat × Word) :=
  let h := s.holder w
  (h.ports.filterMap (fun b => match b.out, b.target with
    | true, .stream _ len rows _ op _ _ =>
      if b.next < streamTotal b.port len rows || h.promised b.port != 0 then some (op, (s.holder (s.worksFor w)).taskid) else none
    | _, _ => none) ++
   (h.stores.filter (fun o => o.port.isSome)).map (fun o => (o.strm, o.task))).eraseDups

/-- The cores of a station that issue COPY commands (R47). -/
def copyCores : List Core := taskCores ++ [.loader, .storer, .keeper]

/-- Whether a slot's earlier copy, PUBLISH or ring command is not complete (R213). -/
def State.copiesBefore (s : State) (w : Who) (id : Nat) : Bool :=
  let x := s.station w.st
  x.copies.any (fun k => decide (k.id < id) && workOfTask k.who k.acc.task == w) ||
  x.publishes.any (fun k => decide (k.id < id) && workOfTask k.who k.task == w) ||
  (s.ringCommands w.st).any (fun r => decide (r.op < id) && workOfTask r.who r.task == w)

/-- Whether an output stream that the slot bound earlier is not complete (R213, R272). -/
def State.streamsBefore (s : State) (w : Who) (id : Nat) : Bool :=
  copyCores.any (fun c => (s.outStreams { st := w.st, core := c }).any (fun e =>
    decide (e.1 < id) && workOfTask { st := w.st, core := c } e.2 == w))

/-- Whether the earlier commands of a COPY command's slot are complete (R213). -/
def State.copyTurn (s : State) (w : Who) (id : Nat) : Bool := !s.copiesBefore w id && !s.streamsBefore w id

/-- The write of an output stream's next element goes out once every earlier one has been performed (R238) and the slot's copies
before the STRM are complete (R213), and the hold queue has room for it (R199). -/
def State.pump (s : State) (who : Who) : State :=
  let h := s.holder who
  let ready (o : OutStore) : Bool := !o.queued.isEmpty &&
    !h.stores.any (fun k => k.port == o.port && decide (k.op < o.op)) && !s.copiesBefore (workOfTask who o.task) o.strm &&
    s.holdRoom who (o.queued.map (fun p => p.addr.toNat))
  let out := (h.stores.filter ready).map (fun o => o.queued)
  (s.modHolder who (fun k => { k with stores := k.stores.map (fun o => if ready o then { o with queued := [] } else o) })).sendParts
    out.flatten

/-- A push that is final (R25, R238 to R240): the element enters the queue, goes to the ring's home, or becomes a write of the
stream's next element. -/
def State.pushFinal (s : State) (who : Who) (e : PortPush) : State :=
  match (s.holder who).ports.find? (fun b => b.port == e.port) with
  | none => s
  | some b =>
    let bytes := leBytes e.val.toNat (portBytes b.port)
    match b.target with
    | .queue q => s.modStation who.st (fun y => { y with queues := put q (look [] y.queues q ++ [e.val.setWidth 64]) y.queues })
    | .ring die desc idx =>
      s.bump.later (.ringPush { who := who, op := s.ops, port := b.port, die := die, desc := desc, idx := idx, data := bytes,
                                task := (s.holder (s.worksFor who)).taskid })
    | .stream base len _ stride strm ceil tries =>
      let acc := { s.accessOf who s.ops e.pc 0 with ceil := ceil, tries := tries }
      let ps := ((streamPieces base len stride (portBytes b.port) e.idx).map (fun q =>
        s.partsOf acc .store (BitVec.ofNat 64 q.1) q.2.1 .plain ((bytes.drop q.2.2).take q.2.1))).flatten
      let out : OutStore :=
        { op := s.ops, task := acc.task, pc := acc.pc, addr := base, reduction := false, host := 0, qual := false,
          left := ps.length, parked := 0, port := some b.port, queued := ps, strm := strm }
      ((s.modHolder who (fun h => { h with stores := h.stores ++ [out] })).bump).pump who

/-- Pushes one element through a bound output port (R25), for the instruction at `pc`. Past a load that is unsettled and older
than `op` the push is provisional (R90). -/
def State.pushPort (s : State) (who : Who) (b : PortBinding) (x : VWord) (pc : Word) (op : Nat) : State :=
  let e : PortPush := { port := b.port, idx := b.next, pc := pc, val := x }
  let ring : Bool := match b.target with | .ring _ _ _ => true | _ => false
  let s1 := s.modHolder who (fun h => (h.setPortReg b.port x).setBinding
    { b with next := b.next + 1, pending := if ring then b.pending + 1 else b.pending })
  match ((s.holder who).unsettled.filter (fun u => decide (u.op < op))).getLast? with
  | none => s1.pushFinal who e
  | some u => s1.modHolder who (fun h => { h with unsettled := h.unsettled.map (fun k =>
      if k.op == u.op then { k with pushes := k.pushes ++ [e] } else k) })

/-- Writes a scalar result: the register, or the output port it is bound to (R24, R25). -/
def State.writeS (s : State) (who : Who) (r : Reg) (x : Word) : State :=
  match (s.holder who).binding (.s r) with
  | some b => s.pushPort who b (x.setWidth 2048) (s.holder who).pc s.ops
  | none => s.modHolder who (fun h => h.setS r x)

/-- Writes a vector result. -/
def State.writeV (s : State) (who : Who) (r : Reg) (x : VWord) : State :=
  match (s.holder who).binding (.v r) with
  | some b => s.pushPort who b x (s.holder who).pc s.ops
  | none => s.modHolder who (fun h => h.setV r x)

/-- Writes a mask result. -/
def State.writeM (s : State) (who : Who) (r : MReg) (x : MWord) : State := s.modHolder who (fun h => h.setM r x)

/-! ## What follows an instruction (R97, R356, R357) -/

/-- How an instruction leaves the PC: to the next word; as a load that has become unsettled, to the next word; a taken
transfer; a LOOP that enters its body, with the entry pushed; a LOOP that skips it; as the meaning itself set it; or not at
all, as the instruction has begun and has not come to its end, or has trapped. -/
inductive PcFlow where
  | next
  | load
  | taken (target : Word)
  | enter
  | skip (target : Word)
  | done
  | stay
deriving DecidableEq, Repr, Inhabited

/-- The last instruction of a loop's body (R95). -/
def lastOf (l : LoopEntry) : Word := l.start + BitVec.ofNat 64 (4 * (l.len - 1))

/-- End-of-iteration processing (R97 step 2): the loop stack, and where an iteration end returns to. -/
def endIteration (pc : Word) : List LoopEntry → List LoopEntry × Option Word
  | [] => ([], none)
  | l :: r =>
    if !l.frozen && lastOf l == pc then
      if 1 < l.count then ({ l with count := l.count - 1 } :: r, some l.start) else endIteration pc r
    else (l :: r, none)

/-- The token of R356, from the word: major, the d, a and b fields of its format, T. -/
def tokenOf (w : BitVec 32) (t : Bool) : Nat :=
  let maj := bitsOf w 31 26
  let f (h l : Nat) := bitsOf w h l
  let (d, a, b) :=
    if maj = 0x1C then (0, f 22 18, f 17 13)
    else if maj = 0x0A || maj = 0x0B || maj = 0x1D then (f 25 21, 0, 0)
    else if maj = 0x1F then (0, f 25 21, 0)
    else if maj = 0x30 then (0, f 14 10, f 9 5)
    else if maj = 0x33 then (0, 0, 0)
    else if (0x03 ≤ maj && maj ≤ 0x09) || maj = 0x1E || (0x10 ≤ maj && maj ≤ 0x1B) || maj = 0x26 || maj = 0x27 then
      (f 25 21, f 20 16, 0)
    else (f 25 21, f 20 16, f 15 11)
  maj * 65536 + d * 2048 + a * 64 + b * 2 + (if t then 1 else 0)

/-- SIGACC after one token (R356, R357). -/
def foldToken (acc : BitVec 15) (t : Nat) : BitVec 15 :=
  let f := (BitVec.ofNat 15 t) ^^^ (BitVec.ofNat 15 (t >>> 15))
  (acc.rotateLeft 5) ^^^ f

/-- SIGACC after an instruction whose word is `w`: a token whose T is 1 resets it after the fold. -/
def signed (acc : BitVec 15) (w : BitVec 32) (t : Bool) : BitVec 15 := if t then 0 else foldToken acc (tokenOf w false)

/-- The holder after the instruction boundary. -/
def Holder.advance (h : Holder) (f : PcFlow) : Holder :=
  let h := { h with waiting := false }
  match f with
  | .next | .load =>
    match endIteration h.pc h.loops with
    | (l, some start) => { h with loops := l, pc := start, sigacc := 0 }
    | (l, none) => { h with loops := l, pc := h.pc + 4, sigacc := signed h.sigacc h.ir false }
  | .taken t => { h with loops := popOutside t h.loops, pc := t, sigacc := 0 }
  | .enter => { h with pc := h.pc + 4, sigacc := 0 }
  | .skip t => { h with pc := t, sigacc := 0 }
  | .done | .stay => h

/-- One more instruction behind the youngest unsettled load. -/
def bumpLast (l : List Unsettled) : List Unsettled := onLast (fun u => { u with since := u.since + 1 }) l

/-- The station of a holder, if it lies in one: event counts belong to stations (R174). -/
def State.counted (s : State) (who : Who) (n : Nat) : State := if who.st < 8192 then s.countEvent who.st 0x02 n else s

/-- What follows an instruction that issued (R90, R97, R356): the boundary, and the count of R175, at once or once the
loads before it have settled. -/
def State.retire (s : State) (who : Who) (f : PcFlow) : State :=
  if f = .stay then s
  else
    let h := s.holder who
    let h1 : Holder := { h with unsettled := if f = .load then h.unsettled else bumpLast h.unsettled }
    let s1 := s.setHolder who (h1.advance f)
    if h.unsettled.isEmpty then s1.counted who 1 else s1

/-! ## Issue -/

/-- What holds an instruction at issue. `hold`: it waits until every earlier load has settled (R90). `rel`: it waits for
the release fences before it (R341). `mem`: it waits for the acquire points before it (R189). -/
structure IssueClass where
  base : Bool
  hold : Bool
  rel : Bool
  mem : Bool
deriving DecidableEq, Repr, Inhabited

/-- An instruction of every core that neither holds nor reaches memory. -/
def IssueClass.plain : IssueClass := { base := true, hold := false, rel := false, mem := false }
/-- The same, of the compute core only. -/
def IssueClass.compute : IssueClass := { base := false, hold := false, rel := false, mem := false }
/-- A load. -/
def IssueClass.load : IssueClass := { base := true, hold := false, rel := false, mem := true }
def IssueClass.vload : IssueClass := { base := false, hold := false, rel := false, mem := true }
/-- A store, an atomic or an engine command. -/
def IssueClass.store : IssueClass := { base := true, hold := true, rel := true, mem := true }
def IssueClass.vstore : IssueClass := { base := false, hold := true, rel := true, mem := true }
/-- An instruction that holds but is no store (CRW, FENCE, TRAP). -/
def IssueClass.held : IssueClass := { base := true, hold := true, rel := false, mem := false }
def IssueClass.vheld : IssueClass := { base := false, hold := true, rel := false, mem := false }

/-- The holders the module has (R18, R432). -/
def whoExists (w : Who) : Bool :=
  if w.core = .keeper then decide (8192 ≤ w.st) && decide (w.st < 8704) else decide (w.st < 8192)

/-- Instructions issued past the oldest unsettled load (R90). -/
def pastOldest (l : List Unsettled) : Nat := (l.map (fun u => u.since + 1)).sum - 1

/-- Whether a release fence's conditions hold: every store and reduction before it that its scope covers is performed
(R341). -/
def Holder.released (h : Holder) (f : Nat × Scope) : Bool :=
  match f.2 with
  | .slot => true
  | .system => !h.stores.any (fun o => decide (o.op < f.1))
  | _ => !h.stores.any (fun o => decide (o.op < f.1) && decide (o.host < o.left))

/-- Whether a load or command of R189 that holds later memory instructions is unsettled. -/
def isAcquire (u : Unsettled) : Bool := match u.kind with | .phaser _ => true | _ => false

/-- Whether something holds the instruction back before anything of it takes place (R90, R189, R340, R341). -/
def Holder.holds (h : Holder) (c : IssueClass) : Bool :=
  h.acquire.isSome || h.heldTrap.isSome || (!h.unsettled.isEmpty && decide (32 ≤ pastOldest h.unsettled)) ||
  (c.hold && !h.unsettled.isEmpty) || (c.rel && !h.releases.all h.released) ||
  (c.mem && h.unsettled.any isAcquire)

/-- An outcome of a meaning: the machine goes on. -/
abbrev Out := Host.Outcome State Fault Refusal

/-- The source field of TSTATUS for a holder's own trap. -/
def State.trapNow (s : State) (t : TrapInfo) : State :=
  let h := s.me
  if h.unsettled.isEmpty then s.takeTrap s.cur h.pc t 0
  else s.setHolder s.cur { h with heldTrap := some (h.pc, t) }

/-- The end of an issue: wait, trap (at once, or held behind unsettled loads, R90), or the next boundary. -/
def State.finish (s : State) (r : Res (State × PcFlow)) : Out :=
  match r with
  | .go (t, f) => .next (t.retire s.cur f)
  | .wait => .next s.wait
  | .trap t => .next (s.trapNow t)

/-- ISSUE (R43): the profile check and the checks made with it (`ill`), what holds the instruction, its sources, its
destinations, then its own checks and effect. `body` sees the state with the bound sources popped; it reads its operands
from the state before. -/
def State.issueIf (s : State) (c : IssueClass) (ill : Bool) (u : Uses) (body : State → Res (State × PcFlow)) : Out :=
  if !whoExists s.cur then .fault (.noSuchHolder s.cur.st)
  else
    let h := s.me
    if h.holds { c with hold := false, rel := false, mem := false } then .next s.wait
    else if (isBase s.cur.core && !c.base) || ill then .next (s.trapNow (illegalOf h))
    else if h.holds c then .next s.wait
    else s.finish (((s.checkSrcs s.cur u.srcs).bind (fun _ => s.checkDsts s.cur u.dsts)).bind (fun _ =>
      body (s.popAll s.cur u.srcs)))

/-- The issue of an instruction that has no check beside its encoding. -/
def State.issue (s : State) (c : IssueClass) (u : Uses) (body : State → Res (State × PcFlow)) : Out :=
  s.issueIf c false u body

/-- An instruction that computes one scalar result. -/
def State.compS (s : State) (c : IssueClass) (srcs : List (RegName × Bool)) (d : Reg) (x : Word) : Out :=
  s.issue c ⟨srcs, [.s d]⟩ (fun t => .go (t.writeS s.cur d x, .next))

end Sys2Proof.Machine
end

