-- ==== Sys2Proof/Machine/Flags.lean ====
section
/-! DEFINITION. The flag registers (R77 to R79, R101 to R103): what an instruction raises, when it traps instead, and the
rounding modes it uses. -/
namespace Sys2Proof.Machine

/-- The rounding mode of a control register's RM field (R77, R101). -/
def rmOfField (n : Nat) : Rm :=
  match n with
  | 1 => .rtz | 2 => .rdn | 3 => .rup | 4 => .rma | _ => .rne

/-- The rounding mode of an FPU instruction (R82): its own, or FCTL.RM. -/
def Holder.fpuMode (h : Holder) (rm : Rm) : Rm :=
  match rm with
  | .dyn => rmOfField (bitsOf h.fctl 2 0)
  | m => m

/-- The enabled traps of a control register, as a flag set (R77, R101). -/
def enabledOf (v : Word) : Nat := bitsOf v 12 8

/-- FPTRAP with its TVAL (R79, R103). -/
def fpTrap (tval : Nat) : TrapInfo := trapOf 0x0C (BitVec.ofNat 64 tval)

/-- A scalar instruction raises flags (R78, R79): FPTRAP when one is enabled, else they are set. -/
def State.raiseF (s : State) (w : Who) (fl : Nat) : Res State :=
  let h := s.holder w
  if fl &&& enabledOf h.fctl != 0 then .trap (fpTrap fl)
  else .go (s.setHolder w { h with fflags := h.fflags ||| BitVec.ofNat 64 fl })

/-- All flags of a list of lanes. -/
def allFlags (ls : List Nat) : Nat := ls.foldl (· ||| ·) 0

/-- The trap of a vector instruction whose lanes raised flags (R103): the lowest lane that raised an enabled one, and the
flags raised in all lanes. -/
def laneTrap (vctl : Word) (ls : List Nat) : Option TrapInfo :=
  let en := enabledOf vctl
  if allFlags ls &&& en = 0 then none
  else some (fpTrap ((ls.findIdx? (fun f => f &&& en != 0)).getD 0 * 256 + allFlags ls % 32))

/-- VFLAGS after lanes have raised flags (R102). -/
def Holder.setVflags (h : Holder) (ls : List Nat) : Holder := { h with vflags := h.vflags ||| BitVec.ofNat 64 (allFlags ls) }

/-- A vector instruction raises flags, one number for each lane (R102, R103). -/
def State.raiseV (s : State) (w : Who) (ls : List Nat) : Res State :=
  match laneTrap (s.holder w).vctl ls with
  | some t => .trap t
  | none => .go (s.modHolder w (fun h => h.setVflags ls))

end Sys2Proof.Machine
end

