-- ==== Sys2Proof/Machine/Planes.lean ====
section
/-! DEFINITION. Plane banks of a scratchpad: placement of K-groups (R141, R142), the block-planar layout (R227, R228),
zero summaries (R229), the values a typed access reads and writes (R230). -/
namespace Sys2Proof.Machine

/-- A placed K-group: 32 significands (for INT1 and UINT1 the elements' own bits), the shared exponent, the NaN mark,
and the flags its placement raises. -/
structure PlaneGroup where
  q : List Int
  e : Int
  nan : Bool
  flags : Nat
deriving DecidableEq, Repr, Inhabited

/-- The legal planes of a format (R141). -/
def planesLegal (fmt p : Nat) : Bool :=
  if fmt ≤ 1 then p == 1 else decide (fmt ≤ 0x17) && decide (2 ≤ p) && decide (p ≤ 24)

/-- The lower bound of the shared exponent (R141); `x` is the block's scale byte. -/
def groupLo (fmt x : Nat) : Int :=
  match fmt with
  | 0x09 => -1 | 0x0A => -3 | 0x0B => -4 | 0x0C => -9 | 0x0D => -16
  | 0x0E => -24 | 0x0F => -133 | 0x17 => -149
  | 0x14 | 0x16 => (x : Int) - 128
  | 0x12 => (x : Int) - 130
  | 0x13 => (x : Int) - 131
  | 0x10 => (x : Int) - 136
  | 0x11 => (x : Int) - 143
  | 0x15 => (x : Int) - 133
  | _ => 0

/-- The exact test of R142: whether x × 2^−e lies in the range of P planes. -/
def fits (p : Nat) (e : Int) (x : Value) : Bool :=
  match x with
  | .fin n m e0 =>
    let b := if n then 2 ^ (p - 1) else 2 ^ (p - 1) - 1
    if e ≤ e0 then decide (m * 2 ^ (e0 - e).toNat ≤ b) else decide (m ≤ b * 2 ^ (e - e0).toNat)
  | _ => false

/-- The smallest exponent from `e` on at which every element fits; it lies within two steps of the start. -/
def fitFrom (p : Nat) (xs : List Value) : Nat → Int → Int
  | 0, e => e
  | k + 1, e => if xs.all (fits p e) then e else fitFrom p xs k (e + 1)

/-- Placement of one K-group (R142) for a format with exponents. `x` is the scale byte of its block. -/
def placeGroup (fmt p x : Nat) (xs : List Value) : PlaneGroup :=
  if xs.any (fun v => match v with | .fin _ _ _ => false | _ => true) || (codeScaled fmt && x == 0xFF) then
    { q := xs.map (fun _ => 0), e := groupLo fmt (if x = 0xFF then 127 else x), nan := true, flags := flNV }
  else
    let lo := groupLo fmt x
    let start := xs.foldl (fun (s : Int) v => match v with
      | .fin _ m e => if m = 0 then s else
        let t := floorLog2 m e - ((p : Int) - 1)
        if s < t then t else s
      | _ => s) lo
    let e1 := fitFrom p xs 3 start
    let e := if 127 < e1 then 127 else e1
    let qs := xs.map (fun v => match v with
      | .fin n m e0 =>
        let (r, inexact) := roundMag .rne n m (e - e0)
        let r : Int := if n then -(r : Int) else r
        let hi : Int := 2 ^ (p - 1) - 1
        let lo : Int := -(2 : Int) ^ (p - 1)
        if r < lo then (lo, true) else if hi < r then (hi, true) else (r, inexact)
      | _ => (0, false))
    { q := qs.map (·.1), e := e, nan := false,
      flags := (if 127 < e1 then flOF else 0) ||| (if qs.any (·.2) then flNX else 0) }

/-- Placement by format: INT1 and UINT1 keep the element's own bit (R142). -/
def place (fmt p x : Nat) (xs : List Value) : PlaneGroup :=
  if fmt = 0 then { q := xs.map (fun v => if v.neg? then 1 else 0), e := 0, nan := false, flags := 0 }
  else if fmt = 1 then { q := xs.map (fun v => if v.isZero then 0 else 1), e := 0, nan := false, flags := 0 }
  else placeGroup fmt p x xs

/-- The value an element of a group stands for (R141, R142). -/
def groupValue (fmt : Nat) (g : PlaneGroup) (k : Nat) : Value :=
  let q := g.q.getD k 0
  if g.nan then qNaN
  else if fmt = 0 then numOfInt (1 - 2 * q)
  else (numOfInt q).scale g.e

/-- Kmax of a bank (R228). -/
def kmax (f : BankFmt) : Nat :=
  if f.b then Nat.min 2048 (16384 / f.p) / 64 * 64 else Nat.min 4096 (32768 / f.p) / 64 * 64

/-- Rows of an A bank or columns of a B bank. -/
def lines (f : BankFmt) : Nat := if f.b then 128 else 64

/-- The number of the group of K-group g of row or column r, in the order of R227. -/
def groupIx (f : BankFmt) (r g : Nat) : Nat := g * lines f + r

/-- Where a plane word lies in the model's memory. -/
def planeAt (cl bank : Nat) (f : BankFmt) (ix pl : Nat) : Nat :=
  Config.spadAt cl + bank * Config.bankSize + ix * 4 * f.p + 4 * pl

/-- The side storage of a group: shared exponent and NaN mark. After a BFMT write every group has the format's lo, and
no NaN mark (R225). -/
def State.sideOf (s : State) (cl bank ix : Nat) (f : BankFmt) : Int × Bool :=
  match (s.cluster cl).side.find? (fun e => e.1 == bank && e.2.1 == ix) with
  | some (_, _, e, n) => ((e : Int) - 256, n)
  | none => (groupLo f.fmt 127, false)

/-- The placed group `ix` of a bank. -/
def State.groupAt (s : State) (cl bank : Nat) (f : BankFmt) (ix : Nat) : PlaneGroup :=
  let planes := (List.range f.p).map (fun pl => leNat (s.readAt (planeAt cl bank f ix pl) 4))
  let (e, n) := s.sideOf cl bank ix f
  let q := (List.range 32).map (fun k =>
    let raw : Nat := ((List.range f.p).map (fun pl => planes.getD pl 0 / 2 ^ k % 2 * 2 ^ pl)).sum
    if f.fmt ≤ 1 then (raw : Int) else twos f.p raw)
  { q := q, e := e, nan := n, flags := 0 }

/-- Writes a placed group into a bank. -/
def State.putGroup (s : State) (cl bank : Nat) (f : BankFmt) (ix : Nat) (g : PlaneGroup) : State :=
  let s1 := (List.range f.p).foldl (fun s pl =>
    let w := ((List.range 32).map (fun k =>
      let b := (g.q.getD k 0) / (2 : Int) ^ pl % 2
      (if b = 1 then 2 ^ k else 0))).sum
    { s with mem := memWrite s.mem (planeAt cl bank f ix pl) (leBytes w 4) }) s
  s1.modCluster cl (fun c => { c with side :=
    (bank, ix, (g.e + 256).toNat, g.nan) :: c.side.filter (fun e => !(e.1 == bank && e.2.1 == ix)) })

/-- The zero summary over K positions 64 j … 64 j + 63 of row or column r (R229). -/
def State.zeroSummary (s : State) (cl bank : Nat) (f : BankFmt) (r j : Nat) : Bool :=
  f.zs && f.fmt != 0 && [2 * j, 2 * j + 1].all (fun g =>
    let ix := groupIx f r g
    !(s.sideOf cl bank ix f).2 && (s.readAt (planeAt cl bank f ix 0) (4 * f.p)).all (· == 0))

/-- Lanes and format of VCTL.TW (R101). -/
def twFmt (tw : Nat) : FFmt :=
  match tw with
  | 0 => bf16 | 1 => fp16 | 2 => fp32 | _ => fp64
def twLanes (tw : Nat) : Nat := 2048 / (twFmt tw).width

/-- The row or column, and the K position, that a typed address names (R230). -/
def typedElem (f : BankFmt) (o : Nat) : Nat × Nat := if f.b then (o / 2048, o % 2048) else (o / 4096, o % 4096)

/-- Whether a typed access of `n` elements at a bank offset stays inside its row and below Kmax (R230). -/
def typedFits (f : BankFmt) (o n : Nat) : Bool := decide ((typedElem f o).2 + n ≤ kmax f)

/-- What a typed VLD reads at its home: the placed value of each element, as FP64 bits, which hold every one exactly. -/
def State.typedRead (s : State) (cl bank : Nat) (f : BankFmt) (o n : Nat) : List Byte :=
  let (r, k0) := typedElem f o
  ((List.range (n / 32)).map (fun j =>
    let g := s.groupAt cl bank f (groupIx f r (k0 / 32 + j))
    ((List.range 32).map (fun k => leBytes (fp64.round .rne (groupValue f.fmt g k)).1 8)).flatten)).flatten

/-- The groups of a typed VST: for each its 32 element values, its scale byte, and the flags. Rounding to the bank's format is that of
VCVT direction 1 (R230). -/
def typedGroups (fmt : Nat) (rm : Rm) (xs : List Value) : List (List Value × Nat × List Nat) :=
  (List.range (xs.length / 32)).map (fun j =>
    let ys := (xs.drop (32 * j)).take 32
    if codeScaled fmt then
      let (es, x, fl) := encodeBlock fmt rm ys
      (es.map (fun e => withScale x (decodeElem fmt e)), x, fl)
    else
      let es := ys.map (encodeElem fmt rm)
      (es.map (fun e => decodeElem fmt e.1), 127, es.map (·.2)))

/-- The number of a rounding mode, as VCTL.RM holds it (R101). -/
def rmNumber : Rm → Nat
  | .rne | .dyn => 0 | .rtz => 1 | .rdn => 2 | .rup => 3 | .rma => 4

/-- The mode of a number. -/
def rmOfNumber (n : Nat) : Rm :=
  match n with
  | 1 => .rtz | 2 => .rdn | 3 => .rup | 4 => .rma | _ => .rne

/-- What a typed VST sends to its bank: each lane's value as FP64 bits, which hold every one exactly, and its rounding mode. -/
def typedBytes (rm : Rm) (xs : List Value) : List Byte :=
  (xs.map (fun v => leBytes (fp64.round .rne v).1 8)).flatten ++ leBytes (rmNumber rm) 1

/-- A typed VST performed at its bank (R230, R142). -/
def State.typedWrite (s : State) (cl bank : Nat) (f : BankFmt) (o : Nat) (data : List Byte) : State :=
  let (r, k0) := typedElem f o
  let n := data.length / 8
  let xs := (List.range n).map (fun k => fp64.decode (leNat ((data.drop (8 * k)).take 8)))
  (typedGroups f.fmt (rmOfNumber (leNat (data.drop (8 * n)))) xs).zipIdx.foldl (fun s e =>
    s.putGroup cl bank f (groupIx f r (k0 / 32 + e.2)) (place f.fmt f.p e.1.2.1 e.1.1)) s

end Sys2Proof.Machine
end

