-- ==== Sys2Proof/Machine/Access.lean ====
section
/-! DEFINITION. What becomes of an access once it has issued: the station L1 (R297, R298, R309, R310), ownership and
recalls (R311), translation and its caches (R317 to R321), parking (R323 to R327), and performance at the home (R88,
R89, R223, R334, R376). -/
namespace Sys2Proof.Machine

/-! ## Atomic operations (R376) -/

/-- The new value of an atomic over `w` bits, from the old value, the operand and the expected value; none where
nothing is written. -/
def amoNew (op : AmoOp) (w old y e : Nat) : Option Nat :=
  let f := if w = 32 then fp32 else fp64
  let fl (r : FRes) : Nat := (f.round .rne r.1).1
  match op with
  | .add => some ((old + y) % 2 ^ w)
  | .and => some (old &&& y)
  | .or => some (old ||| y)
  | .xor => some (old ^^^ y)
  | .min => some (if twos w y < twos w old then y else old)
  | .max => some (if twos w old < twos w y then y else old)
  | .minn => some (if y < old then y else old)
  | .maxn => some (if old < y then y else old)
  | .swp => some y
  | .cas => if old = e then some y else none
  | .fadd => some (fl (fAdd .rne (f.decode old) (f.decode y)))
  | .fmin => some (fl (fMinMax false (f.decode old) (f.decode y)))
  | .fmax => some (fl (fMinMax true (f.decode old) (f.decode y)))

/-- Whether an operation is floating (R376, R377). -/
def amoFloat : AmoOp → Bool
  | .fadd | .fmin | .fmax => true
  | _ => false

/-- The bytes an atomic leaves, from the bytes it finds and the part's operands (8 bytes y, then 8 bytes e). -/
def amoBytes (op : AmoOp) (wide : Bool) (old data : List Byte) : List Byte :=
  let n := if wide then 8 else 4
  let w := 8 * n
  let y := leNat (data.take 8) % 2 ^ w
  let e := leNat (data.drop 8) % 2 ^ w
  match amoNew op w (leNat old) y e with
  | some v => leBytes v n
  | none => old

/-! ## The station L1 -/

/-- Sets of a station's L1 (R32). -/
def l1Sets (x : Station) : Nat := (x.app3 - x.app2) * 4

/-- The index of a virtual line's set (R297). -/
def l1SetOf (x : Station) (va : Nat) : Nat := va / 128 % l1Sets x

/-- The line that holds a virtual address of an address space (R309). -/
def l1Find (x : Station) (va asn : Nat) : Option L1Line := x.l1.find? (fun l => l.va == va / 128 * 128 && l.asn == asn)

/-- The line whose allocation an access's answer is for. -/
def l1Of (x : Station) (p : AccPart) : Option L1Line := x.l1.find? (fun l => p.line != 0 && l.id == p.line)

/-- The same, if it has left the L1 (R297). -/
def l1Gone (x : Station) (p : AccPart) : Option L1Line := x.leaving.find? (fun l => p.line != 0 && l.id == p.line)

/-- The same, wherever it is. -/
def l1Any (x : Station) (p : AccPart) : Option L1Line := (l1Of x p).or (l1Gone x p)

/-- Whether a range of a line touches its lower or upper sector. -/
def touches0 (off _n : Nat) : Bool := decide (off % 128 < 64)
def touches1 (off n : Nat) : Bool := decide (64 < off % 128 + n)

/-- Whether a line holds every sector a range touches. -/
def l1Holds (l : L1Line) (off n : Nat) : Bool := (!touches0 off n || l.present0) && (!touches1 off n || l.present1)

/-- The bytes of a range of a line. -/
def l1Bytes (l : L1Line) (off n : Nat) : List Byte := ((leBytes l.data.toNat 128).drop (off % 128)).take n

/-- A line with bytes written into it. -/
def l1Put (l : L1Line) (off : Nat) (bs : List Byte) : L1Line :=
  let old := leBytes l.data.toNat 128
  let o := off % 128
  { l with data := BitVec.ofNat 1024 (leNat (old.take o ++ bs ++ old.drop (o + bs.length))) }

/-- Bytes from an offset of a line, by sectors. -/
def sectorPieces (off : Nat) (bs : List Byte) : List (Nat × List Byte) :=
  if off < 64 && 64 < off + bs.length then [(off, bs.take (64 - off)), (64, bs.drop (64 - off))] else [(off, bs)]

/-- A store of the station to a Shared line (R338): its sectors take it, and it is kept for sectors on their way. -/
def L1Line.patched (l : L1Line) (va : Nat) (bs : List Byte) : L1Line :=
  { l1Put l va bs with patches := if l.fill0 || l.fill1 then l.patches ++ sectorPieces (va % 128) bs else l.patches }

/-- Replaces an allocation of a station's L1. -/
def Station.setLine (x : Station) (l : L1Line) : Station :=
  { x with l1 := x.l1.map (fun k => if k.id == l.id then l else k),
           leaving := x.leaving.map (fun k => if k.id == l.id then l else k) }

/-- Removes an allocation. -/
def Station.dropLine (x : Station) (l : L1Line) : Station :=
  { x with l1 := x.l1.filter (fun k => k.id != l.id), leaving := x.leaving.filter (fun k => k.id != l.id) }

/-- Whether data of a line or its ownership is on its way. -/
def L1Line.busy (l : L1Line) : Bool := l.fill0 || l.fill1 || l.asking

/-- The dirty bytes of a line, with their offsets in it. -/
def l1Dirty (l : L1Line) : List (Nat × Byte) :=
  let bs := leBytes l.data.toNat 128
  ((List.range 128).zip bs).filter (fun e => if e.1 < 64 then l.dirty0 else l.dirty1)

/-- A line leaves an L1: an Exclusive line is written back, and its home keeps the owner until that has arrived (R311).
Parts that wait for data or ownership on its way are served when it comes, though the line is not kept; a store that comes later
does not reach it. -/
def State.evict (s : State) (st : Nat) (l : L1Line) : State :=
  let s1 := s.modStation st (fun x => x.dropLine l)
  if l.exclusive then s1.later (.writeBackArrives st (l.pa / 128) true (l1Dirty l))
  else if l.busy then s1.modStation st (fun x => { x with leaving := x.leaving ++ [l] })
  else l.waiters.foldl (fun s p => s.later (.translate p)) s1

/-- Makes a line the most recent of its set (R297). -/
def State.touchLine (s : State) (st : Nat) (l : L1Line) : State :=
  s.modStation st (fun x => { x.setLine { l with stamp := x.stamp + 1 } with stamp := x.stamp + 1 })

/-- The way a miss of class c allocates in a set (R298): the lowest invalid way of the mask, else the least recent. -/
def l1Way (x : Station) (set mask : Nat) : Nat × Option L1Line :=
  let ls := x.l1.filter (fun l => l.set == set)
  let ways := (List.range 16).filter (fun w => mask.testBit w)
  match ways.find? (fun w => !ls.any (fun l => l.way == w)) with
  | some w => (w, none)
  | none =>
    let inMask := ls.filter (fun l => mask.testBit l.way)
    let old := inMask.foldl (fun (m : Option L1Line) l => match m with
      | none => some l
      | some k => if l.stamp < k.stamp then some l else some k) none
    match old with
    | some l => (l.way, some l)
    | none => (0, none)

/-- The part that fetches the sectors of a line that are missing, for the allocation of the L1 with number `id`. -/
def fillPart (p : AccPart) (need0 need1 : Bool) (id : Nat) : AccPart :=
  let base := p.addr.toNat / 128 * 128 + (if need0 then 0 else 64)
  { p with acc := { p.acc with eng := 1 }, kind := match p.kind with
                                                   | .prefetch e => .prefetch e
                                                   | _ => .load,
           addr := BitVec.ofNat 64 base, place := .far (base % 2 ^ 52), size := if need0 && need1 then 128 else 64,
           pa := p.pa.map (fun a => a / 128 * 128 + (if need0 then 0 else 64)), off := 0, qual := .plain, data := [], attempt := 0, line := id, again := false }

/-- One fill miss of a tenant class is counted (R298). -/
def State.countMiss (s : State) (st c : Nat) : State := (s.countEvent st 0x03 1).countEvent st (0x10 + c) 1

/-- A lookup that found no way: the miss is counted, a way is allocated under WAYMASK with `waiters` waiting for it, or none
is when the mask is empty (R298). The result is the number of the allocation, or 0. -/
def State.l1Allocate (s : State) (p : AccPart) (waiters : List AccPart) (need0 need1 : Bool) : State × Nat :=
  let st := p.acc.who.st
  let s1 := s.countMiss st p.acc.tenant
  let x := s1.station st
  let m := x.mask p.acc.tenant
  if m = 0 then (s1, 0)
  else
    let va := p.addr.toNat % 2 ^ 52
    let (way, old) := l1Way x (l1SetOf x va) m
    let s2 := match old with
      | some l => s1.evict st l
      | none => s1
    let l : L1Line := { id := x.stamp + 1, set := l1SetOf x va, way := way, va := va / 128 * 128, asn := p.acc.asn,
                        exclusive := false, pa := 0, present0 := false, present1 := false, dirty0 := false, dirty1 := false,
                        data := 0, owner := p.acc.tenant, stamp := x.stamp + 1, fill0 := need0, fill1 := need1,
                        asking := false, waiters := waiters, patches := [] }
    (s2.modStation st (fun y => { y with l1 := l :: y.l1, stamp := x.stamp + 1 }), x.stamp + 1)

/-- Whether the L1 must not serve an access of a holder to a line (R337): an atomic or a reduction of the same holder to it
is on its way to the home, or a store of it is while the line is Exclusive, or an earlier load of it by itself. The access then
follows it to the home. -/
def State.ownAway (s : State) (p : AccPart) (excl : Bool) : Bool :=
  s.allParts.any (fun q => q.acc.who == p.acc.who && q.acc.eng == 0 && sameLine q p &&
    (match q.place with | .far _ => true | _ => false) &&
    (match q.kind with
     | .amo _ _ | .red _ _ => true
     | .store => excl
     | .load => decide (q.acc.op < p.acc.op)
     | _ => false))

/-- A part waits for a line of the L1 whose data or ownership is on its way (R297). -/
def State.joinLine (s : State) (l : L1Line) (p : AccPart) : State :=
  s.modStation p.acc.who.st (fun y => y.setLine { l with waiters := l.waiters ++ [p] })

/-- Sectors of a line are asked for on behalf of a part that waits for them. -/
def State.fillFor (s : State) (l : L1Line) (p : AccPart) (send : AccPart → Instr) : State :=
  let va := p.addr.toNat % 2 ^ 52
  let need0 := touches0 va p.size && !l.present0 && !l.fill0
  let need1 := touches1 va p.size && !l.present1 && !l.fill1
  let s1 := s.joinLine { l with fill0 := l.fill0 || need0, fill1 := l.fill1 || need1 } p
  if need0 || need1 then s1.later (send (fillPart p need0 need1 l.id)) else s1

/-- One line's part of a far load: the lookup of R297 and R298, performed at issue when it hits (R334). A load of a line
that is being asked for Exclusive waits for it. -/
def State.l1Load (s : State) (p : AccPart) : State :=
  let st := p.acc.who.st
  let x := s.station st
  let va := p.addr.toNat % 2 ^ 52
  if p.acc.who.core = .keeper || l1Sets x = 0 then s.later (.translate p)
  else
    match l1Find x va p.acc.asn with
    | some k =>
      let s1 := s.touchLine st k
      let l : L1Line := { k with stamp := x.stamp + 1 }
      if l.asking then s1.joinLine l p
      else if s.ownAway p l.exclusive then s1.later (.translate p)
      else if l1Holds l va p.size then s1.partBack p.acc.who p.acc.op p.off (l1Bytes l va p.size) none
      else s1.fillFor l p .translate
    | none =>
      let n0 := touches0 va p.size
      let n1 := touches1 va p.size
      match s.l1Allocate p [p] n0 n1 with
      | (s1, 0) => s1.later (.translate p)
      | (s1, id) => s1.later (.translate (fillPart p n0 n1 id))

/-- A write into an Exclusive line: the sectors become dirty (R310), and 128 bytes clear the mark of the line (R308). -/
def State.l1Write (s : State) (st : Nat) (l : L1Line) (va : Nat) (bs : List Byte) : State :=
  let s1 := s.modStation st (fun y => y.setLine { l1Put l va bs with
    dirty0 := l.dirty0 || touches0 va bs.length, dirty1 := l.dirty1 || touches1 va bs.length })
  if bs.length = 128 then { s1 with poison := setDel (Config.physAt l.pa / Config.lineSize) s1.poison } else s1

/-- One line's part of a far store: written into an Exclusive line, or into the Shared sectors present and through to
the home (R310). A store to a line that is being asked for Exclusive waits for it. DESIGN CHOICE: it leaves the recency of the line's
way (log entry 172). -/
def State.l1Store (s : State) (p : AccPart) : State :=
  let st := p.acc.who.st
  let va := p.addr.toNat % 2 ^ 52
  match l1Find (s.station st) va p.acc.asn with
  | some l =>
    if l.asking then s.joinLine l p
    else if l.exclusive then
      if s.ownAway p true then s.later (.translate p)
      else (s.l1Write st l va p.data).storeDone p.acc.who p.acc.op
    else (s.modStation st (fun y => y.setLine (l.patched va p.data))).later (.translate p)
  | none => s.later (.translate p)

/-- A request for Exclusive is sent for a line that the station has allocated (R310). -/
def State.ask (s : State) (p : AccPart) (send : AccPart → Instr) : State :=
  (s.modStation p.acc.who.st (fun y => match l1Any y p with
    | some l => y.setLine { l with asking := true }
    | none => y)).later (send p)

/-- Whether a part goes on waiting for a line: ownership is on its way, or data that a load needs (R297). -/
def L1Line.awaited (l : L1Line) (w : AccPart) : Bool :=
  l.asking || (w.kind == .load && !l1Holds l w.addr.toNat w.size &&
    (!touches0 w.addr.toNat w.size || l.present0 || l.fill0) && (!touches1 w.addr.toNat w.size || l.present1 || l.fill1))

/-- The parts that go on waiting for a line, and those that do not: among these a load behind an atomic or a reduction of its
holder (R337). -/
def L1Line.splitWaiters (l : L1Line) (ws : List AccPart) : List AccPart × List AccPart :=
  ws.foldl (fun e w =>
    if l.awaited w && !e.2.any (fun q => q.acc.who == w.acc.who && q.kind != .load && q.kind != .store) then (e.1 ++ [w], e.2)
    else (e.1, e.2 ++ [w])) ([], [])

/-- An access for a line's data or ownership comes to nothing: the parts that waited for what it asked for are no longer kept at
the line, and a line without data is Invalid again unless `keep`. The result lists those parts. -/
def State.fillEnds (s : State) (p : AccPart) (keep : Bool) : State × List AccPart :=
  let st := p.acc.who.st
  match l1Any (s.station st) p with
  | none => (s, [])
  | some k =>
    let l : L1Line :=
      if asks p then { k with asking := false }
      else { k with fill0 := k.fill0 && !touches0 p.addr.toNat p.size, fill1 := k.fill1 && !touches1 p.addr.toNat p.size }
    let (stay, go) := l.splitWaiters l.waiters
    let l' : L1Line := { l with waiters := stay }
    let gone := (l1Of (s.station st) p).isNone && !l'.busy
    (s.modStation st (fun x => if gone || (l'.idle && !keep) then x.dropLine l' else x.setLine l'), go ++ (if gone then stay else []))

/-- Parts that waited for a line go on by themselves. -/
def State.goAlone (s : State) (ws : List AccPart) : State :=
  ws.foldl (fun s w => match w.kind with
    | .store => s.l1Store w
    | _ => s.later (.translate w)) s

/-- A request for Exclusive comes to nothing (R312): the parts that wait for the line go to the home by themselves. -/
def State.grantFails (s : State) (p : AccPart) : State :=
  let (s1, ws) := s.fillEnds p false
  s1.goAlone ws

/-- An atomic performed in an Exclusive line (R310, R334): the bytes it found come back. -/
def State.amoInLine (s : State) (l : L1Line) (p : AccPart) (op : AmoOp) (wide : Bool) : State :=
  let va := p.addr.toNat % 2 ^ 52
  let old := l1Bytes l va p.size
  (s.l1Write p.acc.who.st l va (amoBytes op wide old p.data)).partBack p.acc.who p.acc.op p.off old none

/-- A reduction performed in an Exclusive line (R377). -/
def State.redInLine (s : State) (l : L1Line) (p : AccPart) (op : AmoOp) (wide : Bool) : State :=
  let va := p.addr.toNat % 2 ^ 52
  (s.l1Write p.acc.who.st l va (amoBytes op wide (l1Bytes l va p.size) p.data)).storeDone p.acc.who p.acc.op

/-- A returning atomic on far memory: performed in an Exclusive line, or after the line has been requested Exclusive
(R310, R339, R377), for which an atomic that finds the request on its way waits (R297); at the home when WAYMASK is 0
(R312), after a lookup that counts (R298). -/
def State.l1Amo (s : State) (p : AccPart) (op : AmoOp) (wide : Bool) : State :=
  let st := p.acc.who.st
  let x := s.station st
  let va := p.addr.toNat % 2 ^ 52
  if p.acc.who.core = .keeper || l1Sets x = 0 then s.later (.translate p)
  else
    match l1Find x va p.acc.asn with
    | some k =>
      let s1 := s.touchLine st k
      let l : L1Line := { k with stamp := x.stamp + 1 }
      if l.asking then s1.joinLine l p
      else if l.exclusive then
        if s.ownAway p true then s1.later (.translate p) else s1.amoInLine l p op wide
      else if x.mask p.acc.tenant = 0 then s1.later (.translate p)
      else s1.ask { p with line := l.id } .translate
    | none =>
      match s.l1Allocate p [] false false with
      | (s1, 0) => s1.later (.translate p)
      | (s1, id) => s1.ask { p with line := id } .translate

/-- A reduction on far memory: in the L1 if the station holds the line Exclusive, or has asked for it, else at the home (R377). -/
def State.l1Red (s : State) (p : AccPart) (op : AmoOp) (wide : Bool) : State :=
  let st := p.acc.who.st
  let va := p.addr.toNat % 2 ^ 52
  match l1Find (s.station st) va p.acc.asn with
  | some l =>
    if l.asking then s.joinLine l p
    else if l.exclusive && !s.ownAway p true then s.redInLine l p op wide
    else s.later (.translate p)
  | none => s.later (.translate p)

/-- A part that waited for a line, or was parked, looks its line up once more when it has been translated: it is served by
a line that has come meanwhile, waits for it, or asks for it on its own behalf. -/
def State.lookAgain (s : State) (p : AccPart) (pa : Nat) : State :=
  let q : AccPart := { p with pa := some pa, again := false }
  match l1Of (s.station p.acc.who.st) p with
  | none => s.later (.accessAtHome { q with line := 0 })
  | some l =>
    match p.kind with
    | .load =>
      if l.asking then s.joinLine l q
      else if l1Holds l (p.addr.toNat % 2 ^ 52) p.size && !s.ownAway p l.exclusive then
        s.partBack p.acc.who p.acc.op p.off (l1Bytes l (p.addr.toNat % 2 ^ 52) p.size) none
      else if l.exclusive then s.later (.accessAtHome { q with line := 0 })
      else s.fillFor l q .accessAtHome
    | .amo op wide =>
      if l.asking then s.joinLine l q
      else if l.exclusive then
        if s.ownAway p true then s.later (.accessAtHome { q with line := 0 }) else s.amoInLine l q op wide
      else s.ask q .accessAtHome
    | _ => s.later (.accessAtHome { q with line := 0 })

/-- An instruction's part starts out: a far one at the L1, a near one towards its home. -/
def State.startPart (s : State) (p : AccPart) : State :=
  match p.place with
  | .far _ =>
    match p.kind with
    | .load => s.l1Load p
    | .store => s.l1Store p
    | .amo op wide => s.l1Amo p op wide
    | .red op wide => s.l1Red p op wide
    | _ => s.later (.translate p)
  | _ => s.sendPart p

/-- Parts start out in ascending address order (R297). -/
def State.startParts (s : State) (ps : List AccPart) : State := ps.foldl (fun s p => s.startPart p) s

/-- Every Shared line of an L1 becomes Invalid (R338, R341), a line whose data is on its way as well: what was read at
the home before is not kept, and the parts that wait for it go to the home again. -/
def State.dropShared (s : State) (st : Nat) : State :=
  ((s.station st).l1.filter (fun l => !l.exclusive)).foldl (fun s l => s.evict st l) s

/-! ## Slices (R307, R314, R315) -/

/-- The home slice of a physical address (R307). -/
def homeSlice (pa : Nat) : Nat := bitsOf (mix (BitVec.ofNat 64 (pa / 128 % 2 ^ 45)) 0x5C 0) 8 0

/-- The translating slice of a page (R317). -/
def transSlice (va asn : Nat) : Nat := bitsOf (mix (BitVec.ofNat 64 (va / 65536 % 2 ^ 36)) (BitVec.ofNat 64 asn) 1) 8 0

/-- The LPDDR-6 channel that stores a line, and the compute die the channel lies on (R307). -/
def channelOf (pa : Nat) : Nat := bitsOf (mix (BitVec.ofNat 64 (pa / 256 % 2 ^ 44)) 0xC4 0) 7 0
def channelDie (n : Nat) : Nat := n / 32

/-- The die whose clock a slice runs by. PRESUMED: 64 slices to each die, in order. -/
def sliceDie (n : Nat) : Nat := n / 64

/-- Host memory (R306). -/
def isHostPa (pa : Nat) : Bool := decide (0x400000000000 ≤ pa)

/-- The populated parts of the physical map (R306): LPDDR-6, the CXL ports as far as they report, host memory. DESIGN
CHOICE: a leaf counts as populated where its frame's base is (log entry 174). -/
def State.populated (s : State) (pa : Nat) : Bool :=
  decide (pa < 0x18000000000) ||
  (decide (0x100000000000 ≤ pa) && decide (pa < 0x200000000000) &&
    decide ((pa - 0x100000000000) % 0x20000000000 < look 0 s.cxl ((pa - 0x100000000000) / 0x20000000000))) ||
  (decide (0x400000000000 ≤ pa) && decide (pa < 0x800000000000))

/-- A slice's tags after an access of class c to a line (R314): a hit anywhere, an allocation under SWAYS on a miss. -/
def State.sliceTouch (s : State) (pa c : Nat) : State :=
  if isHostPa pa then s
  else
    let sl := homeSlice pa
    let set := pa / 128 % 2048
    let line := pa / 128
    let ls := s.lines.filter (fun l => l.slice == sl && l.set == set)
    match ls.find? (fun l => l.line == line) with
    | some _ =>
      { s with stamp := s.stamp + 1,
               lines := s.lines.map (fun l => if l.slice == sl && l.line == line then { l with stamp := s.stamp + 1 } else l) }
    | none =>
      let ways := (List.range 16).filter (fun w => (s.sways c).testBit w)
      let fresh (w : Nat) : SliceLine :=
        { slice := sl, set := set, way := w, line := line, cls := c, stamp := s.stamp + 1 }
      match ways.find? (fun w => !ls.any (fun l => l.way == w)) with
      | some w => { s with stamp := s.stamp + 1, lines := fresh w :: s.lines }
      | none =>
        let old := (ls.filter (fun l => ways.contains l.way)).foldl (fun (m : Option SliceLine) l => match m with
          | none => some l
          | some k => if l.stamp < k.stamp then some l else some k) none
        match old with
        | none => s
        | some k => { s with stamp := s.stamp + 1,
                             lines := fresh k.way :: s.lines.filter (fun l => !(l.slice == sl && l.set == set && l.way == k.way)) }

/-! ## Ownership (R311) -/

/-- The recorded owner of a physical line is recalled: its dirty bytes are written, the line becomes Invalid there and
the record is cleared. None while a write-back or a grant of the line is still on its way, which answers the recall. -/
def State.recallOwner (s : State) (line : Nat) : Option State :=
  match find? s.owners line with
  | none => some s
  | some st =>
    match (s.station st).l1.find? (fun l => l.exclusive && l.pa / 128 == line) with
    | none => none
    | some l =>
      let s1 := (l1Dirty l).foldl (fun s e => { s with mem := memPut (Config.physAt (line * 128 + e.1)) e.2 s.mem }) s
      some ({ s1 with owners := del line s1.owners }.modStation st (fun x => x.dropLine l))

/-! ## Translation (R317 to R321) -/

/-- What a walk finds. -/
inductive Walk where
  | leaf (e : TlbEntry)
  | fault
  | blocked
  | silent
deriving DecidableEq, Repr, Inhabited

/-- The index bits of a level (R319). -/
def levelIndex (level va : Nat) : Nat :=
  match level with
  | 0 => va / 2 ^ 39 % 8192
  | 1 => va / 2 ^ 30 % 512
  | 2 => va / 2 ^ 21 % 512
  | _ => va / 2 ^ 16 % 32

/-- The bits of va below the page a leaf of a level maps. -/
def levelShift (level : Nat) : Nat :=
  match level with
  | 1 => 30 | 2 => 21 | _ => 16

/-- The size of the table of a level, to which its address is aligned. -/
def tableSize (level : Nat) : Nat :=
  match level with
  | 0 => 65536 | 1 | 2 => 4096 | _ => 256

/-- The CXL port or the Ranaeso link (8 + link) on which a physical address lies (R306). PRESUMED: a host line is reached
over the link that is striped over the die of its home slice. -/
def portOfPa (pa : Nat) : Option Nat :=
  if 0x100000000000 ≤ pa && pa < 0x200000000000 then some ((pa - 0x100000000000) / 0x20000000000)
  else if isHostPa pa then some (8 + sliceDie (homeSlice pa) / 4)
  else none

/-- Whether the port or link of a line answers (R321, R435). -/
def State.answers (s : State) (pa : Nat) : Bool :=
  match portOfPa pa with
  | some p => !s.silent.contains p
  | none => true

/-- Whether a line's home answers a walk with its contents (R321): the line is resident, and not in a frame that is frozen
for its migration (R333 step 3). -/
def State.readable (s : State) (pa : Nat) : Bool :=
  !s.absent.contains (pa / 128) && !s.migrations.any (fun m => m.stage == 1 && m.old == pa / 65536 * 65536)

/-- Whether an entry breaks the table of R319. -/
def State.malformed (s : State) (level : Nat) (e : Word) : Bool :=
  let leaf := e.getLsbD 1
  let addr := bitsOf e 51 8 * 256
  bitsOf e 59 52 != 0 || bitsOf e 7 5 != 0 ||
  (if leaf then
     level == 0 || addr % 2 ^ levelShift level != 0 || !s.populated addr
   else
     bitsOf e 4 2 != 0 || level == 3 || addr % tableSize (level + 1) != 0)

/-- The walk from a table (R319, R320): the leaf, a fault, a line that cannot be read at once, or one whose port does not
answer. The entries read below are at physical addresses whose owners the caller has recalled. -/
def State.walkFrom (s : State) (slice asn va : Nat) : Nat → Nat → Nat → Walk × List WalkEntry
  | 0, _, _ => (.fault, [])
  | fuel + 1, level, table =>
    let at_ := table + 8 * levelIndex level va
    if !s.answers at_ then (.silent, [])
    else if !s.readable at_ then (.blocked, [])
    else
      let e := s.wordAt (Config.physAt at_)
      if !e.getLsbD 0 || s.malformed level e then (.fault, [])
      else
        let addr := bitsOf e 51 8 * 256
        if e.getLsbD 1 then
          (.leaf { slice := slice, asn := asn, level := level, base := va / 2 ^ levelShift level * 2 ^ levelShift level,
                   frame := addr, r := e.getLsbD 2, w := e.getLsbD 3, x := e.getLsbD 4, stamp := 0 }, [])
        else
          let (r, ws) := s.walkFrom slice asn va fuel (level + 1) addr
          (r, { slice := slice, asn := asn, level := level + 1,
                pre := va / 2 ^ (if level = 0 then 39 else levelShift level), table := addr } :: ws)

/-- The addresses of the entries a walk reads. -/
def State.walkReads (s : State) (va : Nat) : Nat → Nat → Nat → List Nat
  | 0, _, _ => []
  | fuel + 1, level, table =>
    let at_ := table + 8 * levelIndex level va
    let e := s.wordAt (Config.physAt at_)
    if !e.getLsbD 0 || e.getLsbD 1 then [at_] else at_ :: s.walkReads va fuel (level + 1) (bitsOf e 51 8 * 256)

/-- The root table of an address space, if it is defined (R318). -/
def State.rootOf (s : State) (asn : Nat) : Option Nat :=
  let v := look 0#64 s.asroot asn
  if v.getLsbD 0 then some (bitsOf v 51 16 * 65536) else none

/-- The cached translation of a page at its slice. -/
def State.tlbFind (s : State) (slice asn va : Nat) : Option TlbEntry :=
  s.tlb.find? (fun e => e.slice == slice && e.asn == asn && e.base == va / 2 ^ levelShift e.level * 2 ^ levelShift e.level)

/-- A translation is cached, in place of the least recent when the slice's 8,192 entries are in use (R317). -/
def State.tlbPut (s : State) (e : TlbEntry) : State :=
  let mine := s.tlb.filter (fun k => k.slice == e.slice)
  let oldest := mine.foldl (fun m k => if k.stamp < m then k.stamp else m) (s.stamp + 1)
  let kept := if mine.length < Config.tlbEntries then s.tlb
    else s.tlb.filter (fun k => !(k.slice == e.slice && k.stamp == oldest))
  { s with stamp := s.stamp + 1, tlb := { e with stamp := s.stamp + 1 } :: kept }

/-- Where a walk begins: at a table of the slice's walk cache, or at the root (R317). `afresh` walks from the root whatever is
cached (R323). -/
def State.walkStart (s : State) (asn va root : Nat) (afresh : Bool) : Nat × Nat :=
  let sl := transSlice va asn
  let cached := if afresh then none else
    (s.walks.filter (fun w => w.slice == sl && w.asn == asn &&
      w.pre == va / 2 ^ (if w.level = 1 then 39 else levelShift (w.level - 1)))).foldl
        (fun (m : Option WalkEntry) w => match m with
          | none => some w
          | some k => if k.level < w.level then some w else some k) none
  match cached with
  | some w => (w.level, w.table)
  | none => (0, root)

/-- The owner of each table line is recalled before the walk reads it (R311, R320); none while one must be waited for. -/
def recallTables (va : Nat) : Nat → Nat → Nat → State → Option State
  | 0, _, _, s => some s
  | fuel + 1, level, table, s =>
    let at_ := table + 8 * levelIndex level va
    match s.recallOwner (at_ / 128) with
    | none => none
    | some t =>
      let e := t.wordAt (Config.physAt at_)
      if !e.getLsbD 0 || e.getLsbD 1 then some t else recallTables va fuel (level + 1) (bitsOf e 51 8 * 256) t

/-- The owners of the lines that a translation's walk reads are recalled; a translation that is cached reads none. -/
def State.recallWalk (s : State) (asn va : Nat) (afresh : Bool) : Option State :=
  match s.rootOf asn with
  | none => some s
  | some root =>
    if !afresh && (s.tlbFind (transSlice va asn) asn va).isSome then some s
    else
      let (level, table) := s.walkStart asn va root afresh
      recallTables va 4 level table s

/-- Whether a leaf permits an access (R320). -/
def permits (k : PartKind) (e : TlbEntry) : Bool :=
  match k with
  | .load | .prefetch false => e.r
  | .store => e.w
  | .amo _ _ | .red _ _ | .prefetch true => e.r && e.w
  | .fetch => e.x

/-- The physical address a leaf gives. -/
def leafPa (e : TlbEntry) (va : Nat) : Nat := e.frame + va % 2 ^ levelShift e.level

/-- A translation (R317): from the slice's cache, or by a walk. A leaf without the permission the access needs is a fault,
and is not cached (R320). -/
def State.translateAt (s : State) (k : PartKind) (asn va : Nat) (afresh : Bool) : Walk × State :=
  let sl := transSlice va asn
  match s.rootOf asn with
  | none => (.fault, s)
  | some root =>
    match (if afresh then none else s.tlbFind sl asn va) with
    | some e =>
      if permits k e then
        (.leaf e, { s with stamp := s.stamp + 1,
                           tlb := s.tlb.map (fun k => if k == e then { k with stamp := s.stamp + 1 } else k) })
      else (.fault, s)
    | none =>
      let (level, table) := s.walkStart asn va root afresh
      match s.walkFrom sl asn va 4 level table with
      | (.leaf e, ws) =>
        if permits k e then
          let s1 := s.tlbPut e
          (.leaf e, { s1 with walks := ws.filter (fun w => !s1.walks.contains w) ++ s1.walks })
        else (.fault, s)
      | (r, _) => (r, s)

/-- The PAGE code of an access (R350). -/
def pageKind (k : PartKind) : Nat :=
  match k with
  | .load | .prefetch _ => 0 | .store => 1 | .fetch => 2 | .amo _ _ | .red _ _ => 3

/-! ## Parking (R323 to R326) -/

/-- The holder of a part that has parked (R324, R325): PARKED, with CAUSE, EPC and FVA recording the fault. -/
def State.parkHolder (s : State) (p : AccPart) : State :=
  if parksHolder p && s.sameTask p.acc then
    s.modHolder p.acc.who (fun h =>
      let h1 := match h.state with
        | .run => { h with state := .parked }
        | .halted _ => { h with state := .halted true }
        | _ => h
      { h1 with cause := 0x05, epc := p.acc.pc, fva := p.addr,
                unsettled := h1.unsettled.map (fun u => if u.op == p.acc.op then { u with parked := u.parked + 1 } else u),
                stores := h1.stores.map (fun o => if o.op == p.acc.op then { o with parked := o.parked + 1 } else o) })
  else s

/-- A parked part goes on: its holder returns to RUN when none of its parts is parked any more (R324, R325). -/
def State.unparkHolder (s : State) (p : AccPart) : State :=
  if parksHolder p && s.sameTask p.acc then
    (s.modHolder p.acc.who (fun h =>
      { h with unsettled := h.unsettled.map (fun u => if u.op == p.acc.op then { u with parked := u.parked - 1 } else u),
               stores := h.stores.map (fun o => if o.op == p.acc.op then { o with parked := o.parked - 1 } else o) })).runsAgain
      p.acc.who
  else s

/-- Whether two notices are of one page. -/
def FaultNotice.samePage (n k : FaultNotice) : Bool := n.asn == k.asn && n.va / 65536 == k.va / 65536

/-- The count of a slice's clock (R5). -/
def State.sliceClock (s : State) (sl : Nat) : Nat := s.clock (sliceDie sl)

/-- A fault notice for the first fault of an access on a page (R327): at most one per page in 65,536 cycles of the slice's
clock, at most 64 unsent in a slice. -/
def State.faultNotice (s : State) (acc : Access) (kind : PartKind) (va : Nat) : State :=
  let slice := transSlice va acc.asn
  let now := s.sliceClock slice
  let n : FaultNotice := { asn := acc.asn, va := va, kind := kind, rank := rankOf acc.who.st, time := now }
  if s.faultNotices.any (fun k => n.samePage k && decide (now < k.time + 65536)) then s
  else if s.unsentNotices.any (fun k => n.samePage k) then s
  else if 64 ≤ (s.unsentNotices.filter (fun k => transSlice k.va k.asn == slice)).length then s
  else { s with unsentNotices := s.unsentNotices ++ [n] }

/-- Whether a host owns the module, and so can take notices (R428, R431). -/
def State.ownerHost (s : State) : Bool := !s.vacant && decide (s.master < 2)

/-- What a fault notice carries (R327): address space, virtual address, kind of access (the codes of R350), the requester's rank. -/
def FaultNotice.content (n : FaultNotice) : List Nat := [n.asn, n.va, pageKind n.kind, n.rank]

/-- What another notice carries (R431): the kind of work, and of an escalation the record it reports. -/
def DueNotice.content (n : DueNotice) : List Nat :=
  [n.bits, n.kind, n.subcode, n.addr.toNat, n.syndrome.toNat, n.context.toNat]

/-- One record goes into the owner host's notice area (R431): 64 bytes. -/
def State.writeNotice (s : State) (content : List Nat) : State :=
  let pa := s.notice.toNat % 2 ^ 52 + 64 * Config.noticeSlot s.noticesSent
  let t : State := { s with noticesSent := s.noticesSent + 1 }
  if isHostPa pa && s.populated (pa + 63) then
    t.writeAt (Config.physAt pa) ((List.range 64).map (Config.noticeByte s.noticesSent content))
  else t

/-- A notice that is due is sent (R431): to the owner host where FNMODE gives it the work at this moment, and else to the
innkeeper's firmware, which copies an escalated record. -/
def State.sendDue (s : State) (n : DueNotice) : State :=
  if s.fnmode.toNat &&& n.bits != 0 then s.writeNotice n.content
  else if n.bits = 2 ^ 4 then s.record (clusterBank 0) uncorrected n.kind n.subcode n.addr n.syndrome n.context
  else s

/-- The notices that can be sent are sent, to the service that FNMODE selects at that moment (R327, R431): a host's wait until a
host owns the module. -/
def State.sendNotices (s : State) : State :=
  let toHost := s.fnmode.getLsbD 0
  let out := if !toHost || s.ownerHost then s.unsentNotices else []
  let now := s.noticesDue.filter (fun n => s.ownerHost || s.fnmode.toNat &&& n.bits == 0)
  let s1 : State := { s with
    unsentNotices := s.unsentNotices.drop out.length,
    noticesDue := s.noticesDue.filter (fun n => !(s.ownerHost || s.fnmode.toNat &&& n.bits == 0)),
    faultNotices := out.map (fun n => { n with time := s.sliceClock (transSlice n.va n.asn) }) ++
      s.faultNotices.filter (fun k => !out.any (fun n => n.samePage k)) }
  now.foldl State.sendDue ((if toHost then out else []).foldl (fun t n => t.writeNotice n.content) s1)

/-- The interval before retry k (R323). -/
def retryAfter (k ceil : Nat) : Nat := Nat.min (256 * 2 ^ (k - 1)) ceil

/-- The loads that wait for an L1 line whose data cannot be had take its trap; what else waits goes to the home. -/
def State.fillFails (s : State) (p : AccPart) (t : AccPart → TrapInfo) : State :=
  let (s1, ws) := s.fillEnds p false
  ws.foldl (fun s w => match w.kind with
    | .load => s.partBack w.acc.who w.acc.op w.off [] (some (t w))
    | _ => s.later (.translate w)) s1

/-- A part is abandoned (R323): the trap PAGE, or a held failure with the record in the translating slice's bank. -/
def State.abandon (s : State) (p : AccPart) : State :=
  let bank := sliceBank (transSlice (p.addr.toNat % 2 ^ 52) p.acc.asn)
  (s.failPart p (pageTrap (pageKind p.kind) p.addr) bank).dropIdle p.acc.who.st

/-- The accesses of a holder that are parked (R326): instructions, and of a gather or scatter each element (R126). DESIGN CHOICE: the
parts of one access count once. -/
def State.parkedOps (s : State) (w : Who) : List (Nat × Nat) :=
  ((s.parkedParts.filter (fun q => q.acc.who == w && (q.acc.eng == 0 || q.acc.eng == 1))).map (fun q => (q.acc.op, q.elem))).foldl
    (fun l n => if l.contains n then l else l ++ [n]) []

/-- Whether a part must wait at its slice before it parks, as its holder has eight accesses parked (R326). -/
def State.parkFull (s : State) (p : AccPart) : Bool :=
  let ops := s.parkedOps p.acc.who
  p.attempt == 0 && !ops.contains (p.acc.op, p.elem) && decide (8 ≤ ops.length)

/-- A part parks for its next attempt, or is abandoned when its retries are used up (R323). -/
def State.parkPart (s : State) (p : AccPart) (walk : Bool) : State :=
  let va := p.addr.toNat % 2 ^ 52
  let sl := transSlice va p.acc.asn
  let s0 := if walk || p.faulted then s else s.faultNotice p.acc p.kind va
  if p.acc.tries ≤ p.attempt then ((s0.unparkHolder p).abandon p).releaseBehind
  else
    let q : AccPart := { p with attempt := p.attempt + 1, pa := none, held := true, again := p.line != 0,
                                faulted := p.faulted || !walk }
    let due := s.now + retryAfter q.attempt p.acc.ceil
    let s1 : State := { s0 with parked := s0.parked ++ [{ part := q, slice := sl, at_ := due, walk := walk }] }
    let s2 := s1.laterAt due (.pageRetry q)
    if p.attempt = 0 || p.pa.isSome then
      let s3 := if p.attempt = 0 && p.acc.who.st < 8192 then s2.countEvent p.acc.who.st 0x30 1 else s2
      s3.parkHolder p
    else s2

/-- What becomes of an access whose translation faults or is held up (R320, R323, R391): a prefetch is dropped; a fill of the
L1 gives way to the loads that wait for it, of which its own instruction's parks and the others are translated by
themselves; a request for Exclusive parks, and what waits for its line goes on by itself; any other access parks. -/
def State.park (s : State) (p : AccPart) (walk : Bool) : State :=
  match p.kind with
  | .prefetch _ => if p.acc.eng = 1 then s.grantFails p else s
  | _ =>
    if p.acc.eng = 1 then
      let (s1, ws) := s.fillEnds p true
      let mine (w : AccPart) : Bool := w.acc.who == p.acc.who && w.acc.op == p.acc.op
      let s2 := (ws.filter mine).foldl (fun s w => s.parkPart { w with line := p.line, faulted := p.faulted } walk) s1
      (s2.goAlone ((ws.filter (fun w => !mine w)).map (fun w => { w with line := p.line, again := true }))).dropIdle p.acc.who.st
    else if asks p && !p.again then
      let (s1, ws) := s.fillEnds p true
      (s1.goAlone (ws.map (fun w => { w with line := p.line, again := true }))).parkPart p walk
    else s.parkPart p walk

/-! ## Performance at a home (R88, R89, R334) -/

/-- Whether two parts touch a common granule. -/
def shareGranule (p q : AccPart) : Bool :=
  (blocks Config.granuleSize (partAt p) p.size).any (fun g =>
    (blocks Config.granuleSize (partAt q) q.size).contains g)

/-- A plane bank, if the place lies in one, with its cluster, number and the offset in it. -/
def State.bankOf (s : State) (p : Place) : Option (Nat × Nat × BankFmt × Nat) :=
  match p with
  | .spad cl off =>
    let b := off / Config.bankSize
    let f := s.bankFmt cl b
    if f.p = 0 then none else some (cl, b, f, off % Config.bankSize)
  | _ => none

/-- The place at whose bank R454 records a reduction that finds its line poisoned. -/
def poisonBank (p : AccPart) : Nat :=
  match p.place with
  | .pool st _ => stationBank st
  | .spad cl _ => clusterBank cl
  | .commons d _ => clusterBank (64 * d)
  | _ => sliceBank (homeSlice (p.pa.getD 0))

/-- A take empties its granules (R87); its record keeps what it has emptied, for an earlier load's trap (R91). -/
def State.takeAt (s : State) (p : AccPart) : State :=
  (s.drainAt (partAt p) p.size).modHolder p.acc.who (fun h =>
    { h with unsettled := h.unsettled.map (fun u => if u.op == p.acc.op then { u with took := u.took ++ [(partAt p, p.size)] } else u) })

/-- Whether an access is that of a typed VLD or VST (R125). -/
def State.typedAccess (s : State) (p : AccPart) : Bool :=
  match p.kind with
  | .load => (s.holder p.acc.who).unsettled.any (fun u => u.op == p.acc.op && (match u.kind with | .vector _ true => true | _ => false))
  | .store => p.data.length != p.size
  | _ => false

/-- Whether the format that a bank has now does not allow an access in the form in which it issued (R225, R226): a typed one where the
bank is not TYPED, any other where it is. DESIGN CHOICE (log entry 175). -/
def State.wrongForm (s : State) (p : AccPart) : Bool :=
  (match p.place with | .spad _ _ => true | _ => false) && p.acc.eng == 0 &&
  (match s.bankOf p.place with
   | some (_, _, f, o) =>
     s.typedAccess p != f.typed || (f.typed && (!typedFits f o p.size || (p.kind == .store && f.fmt == 0x16)))
   | none => s.typedAccess p)

/-- A near or host access is performed (R334): poison first (R36), then the access and its full/empty effect. -/
def State.performPlain (s : State) (p : AccPart) : State :=
  let a := partAt p
  match p.kind with
  | .load =>
    match s.bankOf p.place with
    | some (cl, b, f, o) =>
      if f.typed then
        if (List.range (p.size / 32)).any (fun j =>
            s.poisonedAt (planeAt cl b f (groupIx f (typedElem f o).1 ((typedElem f o).2 / 32 + j)) 0) (4 * f.p)) then
          s.failPart p (poisonTrap p.addr) 0
        else s.partBack p.acc.who p.acc.op p.off (s.typedRead cl b f o p.size) none
      else if s.poisonedAt a p.size then s.failPart p (poisonTrap p.addr) 0
      else s.partBack p.acc.who p.acc.op p.off (s.readAt a p.size) none
    | none =>
      if p.qual = .tryfDrain && !s.fullAt a p.size then s.failPart p (emptyAtHome p.addr) 0
      else if s.poisonedAt a p.size then s.failPart p (poisonTrap p.addr) 0
      else
        let s1 := s.partBack p.acc.who p.acc.op p.off (s.readAt a p.size) none
        if p.qual = .takeFillw then s1.takeAt p else s1
  | .store =>
    match s.bankOf p.place with
    | some (cl, b, f, o) =>
      if f.typed && p.data.length != p.size then (s.typedWrite cl b f o p.data).storeDone p.acc.who p.acc.op
      else
        let s1 := (s.writeAt a p.data).storeDone p.acc.who p.acc.op
        match p.qual with
        | .plain => s1
        | .tryfDrain => s1.drainAt a p.size
        | _ => s1.fillAt a p.size
    | none =>
      let s1 := (s.writeAt a p.data).storeDone p.acc.who p.acc.op
      match p.qual with
      | .plain => s1
      | .tryfDrain => s1.drainAt a p.size
      | _ => s1.fillAt a p.size
  | .amo op wide =>
    if s.poisonedAt a p.size then s.failPart p (poisonTrap p.addr) 0
    else
      let old := s.readAt a p.size
      (s.writeAt a (amoBytes op wide old p.data)).partBack p.acc.who p.acc.op p.off old none
  | .red op wide =>
    if s.poisonedAt a p.size then s.failPart p (poisonTrap p.addr) (poisonBank p)
    else (s.writeAt a (amoBytes op wide (s.readAt a p.size) p.data)).storeDone p.acc.who p.acc.op
  | .fetch => s
  | .prefetch _ => s

/-- An access to a bank whose format has changed since it issued is refused where the bank does not allow its form any more. A qualified
load of a plane bank that is not TYPED acts on its granules as one elsewhere does (R226); the test of tryf and the take are made here
for it. -/
def State.performRaw (s : State) (p : AccPart) : State :=
  let a := partAt p
  if s.wrongForm p then s.failPart p (accessTrap p.addr) (poisonBank p)
  else match s.bankOf p.place, p.kind with
  | some (_, _, f, _), .load =>
    if f.typed || p.qual = .plain then s.performPlain p
    else if p.qual = .tryfDrain && !s.fullAt a p.size then s.failPart p (emptyAtHome p.addr) 0
    else if s.poisonedAt a p.size || p.qual != .takeFillw then s.performPlain p
    else (s.performPlain p).takeAt p
  | _, _ => s.performPlain p

/-- Whether an access may be performed now (R89): its condition holds, and no earlier waiting access of its holder waits
on one of its granules. -/
def State.mayPerform (s : State) (earlier : List AccPart) (p : AccPart) : Bool :=
  s.condition p && !earlier.any (fun q => q.acc.who == p.acc.who && shareGranule p q)

/-- The first waiting access that may now be performed, with those before and after it. -/
def State.pickWaiting (s : State) : List AccPart → List AccPart → Option (AccPart × List AccPart)
  | _, [] => none
  | before, p :: r => if s.mayPerform before p then some (p, before ++ r) else s.pickWaiting (before ++ [p]) r

/-- After each performed access the home performs, from the oldest, the waiting accesses that may now be performed
(R89). Accesses on other granules have not become performable, so the whole list may be examined. -/
def State.serveWaiting : Nat → State → State
  | 0, s => s
  | n + 1, s =>
    match s.pickWaiting [] s.waiting with
    | none => s
    | some (p, rest) => State.serveWaiting n ({ s with waiting := rest }.performRaw p)

/-- An access arrives at a near home (R89): performed at once, or it waits. -/
def State.arriveNear (s : State) (p : AccPart) : State :=
  if s.mayPerform s.waiting p then
    let s1 := s.performRaw p
    State.serveWaiting s1.waiting.length s1
  else { s with waiting := s.waiting ++ [p] }

end Sys2Proof.Machine
end

