-- ==== Sys2Proof/Machine/Regs.lean ====
section
/-! DEFINITION. The control registers (R26, R384, R385): their values, who may read and write them, and what a write
does; the pool layout (R28 to R32), the bank formats (R225), thresholds (R174 to R176), and the masks (R293 to R300). -/
namespace Sys2Proof.Machine

/-! ## Values -/

/-- TSTATUS (R351). -/
def Holder.tstatus (h : Holder) : Word :=
  BitVec.ofNat 64 (h.sigsav.toNat * 2 ^ 48 + h.sigacc.toNat * 2 ^ 32 + h.nfail % 256 * 2 ^ 24 + h.loopsAt % 8 * 2 ^ 16 +
    h.source % 4 * 2 ^ 12 + (if h.failure.isSome then 256 else 0) + (if h.inh then 1 else 0))

/-- A write to TSTATUS changes SIGSAV and NFAIL, and a 0 in FPEND discards the held failure (R351). -/
def Holder.setTstatus (h : Holder) (v : Word) : Holder :=
  { h with sigsav := BitVec.ofNat 15 (bitsOf v 62 48), nfail := bitsOf v 31 24,
           failure := if v.getLsbD 8 then h.failure else none }

/-- A word address: bits [1:0] read as zero (R384). -/
def wordAddr (v : Word) : Word := v &&& 0xFFFFFFFFFFFFFFFC#64

/-- The records in use that record 0 counts (R153): those outside bound ranges. -/
def Station.recordsInUse (x : Station) : Nat :=
  (x.mail.filter (fun r => !x.bindings.any (fun b => decide (b.lo ≤ x.app3 * 8192 + 128 * r.idx)))).length

/-- The value of a gauge event of a station (R175): mailbox records in use, die temperature. -/
def State.gaugeOf (s : State) (st ev : Nat) : Option Nat :=
  if ev = 0x20 then some (s.station st).recordsInUse
  else if ev = 0x22 then some (Config.dieTemp (dieOf st) s.now)
  else none

/-- The threshold pair n of a station. -/
def Station.thr (x : Station) (n : Nat) : Threshold := look Threshold.reset x.thresholds n

/-- The live neighbours of a station on its die, and the votes needed to shutter it (R367); none for never. -/
def State.liveAround (s : State) (st : Nat) : Nat := ((neighboursOf st).filter (fun e => !(s.station e.2).shut)).length
/-- Whether a station is live in a period (R367): one that is shuttered by votes is until the next one starts. -/
def State.liveIn (s : State) (st k : Nat) : Bool := !(s.station st).shut || decide (k < (s.station st).shutFrom)
def voteNeed (l : Nat) : Option Nat := if l ≤ 1 then none else some (Nat.max 2 (l / 2 + 1))

/-- HBSTAT (R368). -/
def State.hbstat (s : State) (st : Nat) : Word :=
  let x := s.station st
  BitVec.ofNat 64 (x.epoch % 65536 * 2 ^ 48 + ((List.range 4).map (fun d =>
    let n := x.neighbour d
    let why := (n.judged.getD 0 (0, 0)).2
    let before := (n.judged.getD 1 (0, 0)).2
    if (neighbourOf st d).isSome then
      (128 + (if n.shut then 0 else 64) + (if why != 0 then 32 else 0) + (if why != 0 && before != 0 then 16 else 0) +
        why % 4 * 4) * 256 ^ d
    else 0)).sum)

/-- VOTES (R368). -/
def State.votesReg (s : State) (st : Nat) : Word :=
  let x := s.station st
  BitVec.ofNat 64 (((List.range 4).map (fun d =>
    let n := x.neighbour d
    let need := match neighbourOf st d with
      | some m => (voteNeed (s.liveAround m)).getD 15
      | none => 15
    (need * 65536 + n.v) * 16 ^ d)).sum)

/-- SHUT (R370). -/
def State.shutReg (s : State) (st : Nat) : Word :=
  let x := s.station st
  BitVec.ofNat 64 (x.shutPeriod % 65536 * 2 ^ 32 + Nat.min x.appeals.length 2 * 256 + x.shutWhy % 16 * 16 +
    (if x.testing then 4 else 0) + (if x.appealing then 2 else 0) + (if x.shut then 1 else 0))

/-- OCC of a tenant class (R296). -/
def Station.occ (x : Station) (c : Nat) : Nat := (x.l1.filter (fun l => l.owner == c)).length

/-- A station register by number, as it stands in force: 0x040 to 0x10F, and those two below that are no slot's own (R432).
For a register of the slots the window names no slot: it reads zero. -/
def State.stationReg (s : State) (st n : Nat) : Word :=
  let x := s.station st
  if n = 0x00E then BitVec.ofNat 64 (rankOf st)
  else if n = 0x00F then s.time
  else if n = 0x040 then BitVec.ofNat 64 (x.plb1 * 8192)
  else if n = 0x041 then BitVec.ofNat 64 (x.plb2 * 8192)
  else if n = 0x042 then BitVec.ofNat 64 (x.plb3 * 8192)
  else if n = 0x043 then (if x.pend then 2 else 0)
  else if n = 0x044 then x.tenant
  else if 0x050 ≤ n && n < 0x060 then look 0xFFFF#64 x.waymask (n - 0x050)
  else if 0x060 ≤ n && n < 0x070 then BitVec.ofNat 64 (x.occ (n - 0x060))
  else if n = 0x070 then BitVec.ofNat 64 s.hbper
  else if n = 0x071 then s.hbstat st
  else if n = 0x072 then s.votesReg st
  else if n = 0x073 then s.shutReg st
  else if n = 0x074 then s.fnmode
  else if 0x080 ≤ n && n < 0x0A0 then
    let t := x.thr (n - 0x080)
    match s.gaugeOf st (bitsOf t.sel 63 56) with
    | some g => BitVec.ofNat 64 g
    | none => t.count
  else if 0x0A0 ≤ n && n < 0x0C0 then (x.thr (n - 0x0A0)).sel
  else if 0x100 ≤ n && n < 0x110 then look 0#64 (s.cluster (clusterOf st)).bfmt (n - 0x100)
  else 0

/-- A slot control register by number (0x000 to 0x011). For an innkeeper RANK reads its cluster number (R432). -/
def State.slotReg (s : State) (w : Who) (n : Nat) : Word :=
  let h := s.holder w
  match n with
  | 0x000 => h.tstatus
  | 0x001 => h.epc
  | 0x002 => h.cause
  | 0x003 => h.fva
  | 0x004 => h.tval
  | 0x005 => h.tvec
  | 0x006 => h.fctl
  | 0x007 => h.fflags
  | 0x008 => h.vctl
  | 0x009 => h.vflags
  | 0x00A => h.taskid
  | 0x00B => h.tilec
  | 0x00C => BitVec.ofNat 64 h.cls
  | 0x00D => h.deadl
  | 0x00E => if w.core = .keeper then BitVec.ofNat 64 (clusterOf w.st) else BitVec.ofNat 64 (rankOf w.st)
  | 0x00F => s.time
  | 0x010 => BitVec.ofNat 64 h.pgceil
  | 0x011 => BitVec.ofNat 64 h.pgtries
  | _ => 0

/-- SOCC[c] of a slice (R315). -/
def State.socc (s : State) (slice c : Nat) : Nat := (s.lines.filter (fun l => l.slice == slice && l.cls == c)).length

/-- The doubleword at an offset of the management window, as every master reads it (R313, R315, R318, R428, R430). -/
def State.managementWord (s : State) (off : Nat) : Word :=
  if off = 0x0000 then (if s.boot = .failed then Config.bootReport else BitVec.ofNat 64 (if s.vacant then 8 else s.master % 4))
  else if 0x0008 ≤ off && off < 0x0028 then look 0#64 s.claims ((off - 0x0008) / 8)
  else if off = 0x0100 then s.fnmodeset
  else if off = 0x0180 then (if s.dbgctl then 1 else 0)
  else if 0x1000 ≤ off && off < 0x1080 then s.classCfg ((off - 0x1000) / 8)
  else if off = 0x1080 then s.status
  else if 0x2000 ≤ off && off < 0x2200 then look 0#64 s.asroot ((off - 0x2000) / 8)
  else if 0x8000 ≤ off && off < 0x28000 then
    let c := (off - 0x8000) % 0x100 / 8
    if c < 16 then BitVec.ofNat 64 (s.socc ((off - 0x8000) / 0x100) c) else 0
  else
    match Config.managementPlace off with
    | [1, d] => BitVec.ofNat 64 (Config.dieTemp d s.now)
    | [2] => Config.power s.now
    | [3, key, i, k] => ((s.bank key).getD i ErrRec.none).word k
    | _ => 0

/-- The value a CRR returns (R385). The urgent bank sees its staged writes (R300). -/
def State.crValue (s : State) (w : Who) (n : Nat) : Word :=
  if n < 0x040 then s.slotReg (s.worksFor w) n
  else if w.core = .keeper then s.fnmode
  else if w.core = .urgent then
    match find? (s.station w.st).staged n with
    | some v => v
    | none => s.stationReg w.st n
  else s.stationReg w.st n

/-! ## Rights (R384) -/

/-- Whether a core may read a register. -/
def crReadable (c : Core) (n : Nat) : Bool :=
  match c with
  | .loader | .storer => n == 0x00A || n == 0x00B || n == 0x00E || n == 0x00F
  | .keeper => decide (n ≤ 0x011) || n == 0x074
  | _ => true

/-- What a write by a core comes to: performed, ignored, or ACCESS. -/
inductive Right where
  | write | ignore | refuse
deriving DecidableEq, Repr, Inhabited

/-- The rights of R384 to write. -/
def crRight (c : Core) (n : Nat) : Right :=
  match c with
  | .loader | .storer => .refuse
  | .keeper =>
    if n ≤ 0x009 || n = 0x010 || n = 0x011 then .write
    else if n ≤ 0x00F then .ignore
    else .refuse
  | _ =>
    if n ≤ 0x009 || n = 0x010 || n = 0x011 then .write
    else if n ≤ 0x00F then .ignore
    else if n = 0x044 || (0x050 ≤ n && n < 0x060) then (if c = .urgent then .write else .refuse)
    else if (0x060 ≤ n && n < 0x070) || (0x070 ≤ n && n ≤ 0x072) then .ignore
    else if 0x080 ≤ n && n < 0x0C0 then .write
    else .refuse

/-! ## Writes -/

/-- FCTL and VCTL values that may stand (R77, R101). -/
def fctlLegal (v : Word) : Bool := bitsOf v 63 13 == 0 && bitsOf v 7 3 == 0 && decide (bitsOf v 2 0 ≤ 4)
def vctlLegal (v : Word) : Bool :=
  bitsOf v 63 19 == 0 && bitsOf v 16 13 == 0 && bitsOf v 7 3 == 0 && decide (bitsOf v 2 0 ≤ 4)

/-- A write to a slot control register under its own rules; none where it traps ACCESS. -/
def Holder.setReg (h : Holder) (n : Nat) (v : Word) : Option Holder :=
  match n with
  | 0x000 => some (h.setTstatus v)
  | 0x001 => some { h with epc := wordAddr v }
  | 0x002 => some { h with cause := v &&& 0xFF }
  | 0x003 => some { h with fva := v }
  | 0x004 => some { h with tval := v }
  | 0x005 => some { h with tvec := wordAddr v }
  | 0x006 => if fctlLegal v then some { h with fctl := v } else none
  | 0x007 => some { h with fflags := v &&& 0x1F }
  | 0x008 => if vctlLegal v then some { h with vctl := v } else none
  | 0x009 => some { h with vflags := v &&& 0x3F }
  | 0x010 => if bitsOf v 63 24 == 0 && decide (256 ≤ v.toNat) then some { h with pgceil := v.toNat } else none
  | 0x011 => if bitsOf v 63 8 == 0 then some { h with pgtries := v.toNat } else none
  | _ => some h

/-- The events THR may name (R175). -/
def eventLegal (e : Nat) : Bool :=
  decide (e ≤ 0x03) || (decide (0x10 ≤ e) && decide (e ≤ 0x1F)) || (decide (0x20 ≤ e) && decide (e ≤ 0x22)) || e == 0x30

/-- A write to PCNT[n] re-arms the threshold; a gauge takes its current value at once (R174, R176). -/
def State.writePcnt (s : State) (st n : Nat) (v : Word) : State :=
  let t := (s.station st).thr n
  let c := match s.gaugeOf st (bitsOf t.sel 63 56) with
    | some g => BitVec.ofNat 64 g
    | none => v
  s.modStation st (fun x => { x with thresholds := put n { t with count := c, fired := false } x.thresholds })

/-- A write to THR[n] (R175, R176); none where it traps ACCESS. -/
def State.writeThr (s : State) (st n : Nat) (v : Word) : Option State :=
  if !eventLegal (bitsOf v 63 56) || bitsOf v 55 48 != 0 then none
  else
    let t := (s.station st).thr n
    let c := match s.gaugeOf st (bitsOf v 63 56) with
      | some g => BitVec.ofNat 64 g
      | none => t.count
    some (s.modStation st (fun x => { x with thresholds := put n { t with sel := v, count := c, fired := false } x.thresholds }))

/-- Whether a TENANT or WAYMASK value breaks a must-be-zero bit (R293, R295). -/
def maskLegal (n : Nat) (v : Word) : Bool := if n = 0x044 then bitsOf v 63 20 == 0 else bitsOf v 63 16 == 0

/-- A write to TENANT or WAYMASK: staged in the urgent bank's open window (R300), else in force in the station's next cycle
(R5, R299). None where it traps ACCESS (R294). -/
def State.writeMask (s : State) (w : Who) (n : Nat) (v : Word) : Option State :=
  if !maskLegal n v then none
  else if w.core = .urgent && (s.holder w).window.isSome then
    some (s.modStation w.st (fun x => { x with staged := put n v x.staged }))
  else some (s.modStation w.st (fun x => { x with late := x.late ++ [(n, v, s.clock (dieOf w.st) + 1)] }))

/-- The late writes of a station whose cycle has come take effect together (R299, R300). -/
def Station.applyLate (x : Station) (now : Nat) : Station :=
  let due := x.late.filter (fun e => decide (e.2.2 ≤ now))
  if due.isEmpty then x
  else
    let y := due.foldl (fun (x : Station) e =>
      if e.1 = 0x044 then { x with tenant := e.2.1 } else { x with waymask := put (e.1 - 0x050) e.2.1 x.waymask }) x
    { y with late := x.late.filter (fun e => !decide (e.2.2 ≤ now)) }

/-! ## The pool layout (R30 to R32) -/

/-- Whether the pending layout is legal (R30). -/
def Station.layoutLegal (x : Station) : Bool :=
  decide (6 ≤ x.plb1) && decide (x.plb1 ≤ x.plb2) && decide (x.plb2 ≤ x.plb3) && decide (x.plb3 ≤ 46) &&
  (let d := x.plb3 - x.plb2; d == 0 || d == 8 || d == 16 || d == 32)

/-- Whether any part of a station's accesses is on its way, at a home, parked or held. -/
def State.outstanding (s : State) (st : Nat) : Bool :=
  s.allParts.any (fun p => p.acc.who.st == st) || ((s.station st).l1 ++ (s.station st).leaving).any L1Line.busy

/-- The station whose command, access or write-back an agenda step brings to its home. -/
def workOf : Instr → Option Nat
  | .phaserOpAtHome o => some o.who.st
  | .counterDecrement _ _ src _ | .garmAtHome _ _ _ _ _ src _ => some src
  | .ringPush r | .ringPop r | .ringRegistration r | .ringeosAtHome r => some r.who.st
  | .crossingDelivery d => some d.who.st
  | .stealAtVictim x => some x.thief
  | .migrationStart _ _ _ _ (some (w, _)) => some w.st
  | .l1FillArrives p => some p.acc.who.st
  | .writeBackArrives st _ _ _ => some st
  | .tsync w _ => some w.st
  | _ => none

/-- R31: no task, no engine command, a ring's push or end that waits at its home among them, no access outstanding or parked. -/
def State.quiescent (s : State) (st : Nat) : Bool :=
  let x := s.station st
  (taskCores ++ [Core.loader, .storer]).all (fun c => (s.holder { st := st, core := c }).state == .free &&
    (s.holder { st := st, core := c }).stores.isEmpty) &&
  x.copies.isEmpty && x.publishes.isEmpty && x.mtx0.isEmpty && x.mtx1.isEmpty && x.sigs.isEmpty && x.outq.isEmpty &&
  x.held.isEmpty && !s.agenda.any (fun t => workOf t.ev == some st) &&
  !s.dies.any (fun e => e.2.rings.any (fun r => r.2.pushes.any (fun q => q.who.st == st))) && !s.outstanding st

/-- Whether an 8 KiB unit lies in the TCM or the mailbox area of a layout (R27). -/
def inArea (p1 p2 p3 u : Nat) : Bool := (decide (p1 ≤ u) && decide (u < p2)) || decide (p3 ≤ u)

/-- The layout takes effect (R32): write-back, invalidation, bytes that enter the TCM or the mailbox area cleared. DESIGN
CHOICE: what takes effect is what PLB1 to PLB3 hold at that moment; a write made to them while PEND is set counts, and the
layout is not checked again (log entry 139). -/
def State.applyLayout (s : State) (st : Nat) : State :=
  let x := s.station st
  let s1 := x.l1.foldl (fun s l => s.evict st l) s
  let s2 := (List.range 48).foldl (fun s u =>
    if inArea x.plb1 x.plb2 x.plb3 u && !inArea x.app1 x.app2 x.app3 u then
      s.clearAt (Config.poolAt st + 8192 * u) 8192 else s) s1
  s2.modStation st (fun y => { y with app1 := x.plb1, app2 := x.plb2, app3 := x.plb3, pend := false })

/-- APPLY from the innkeeper (R30, R31): none where the pending layout is illegal. -/
def State.applyL1cfg (s : State) (st : Nat) : Option State :=
  if !(s.station st).layoutLegal then none
  else some ((s.modStation st (fun x => { x with pend := true })).later (.layoutTakesEffect st))

/-! ## Bank formats (R225) -/

/-- Whether a BFMT value is legal. -/
def bfmtLegal (v : Word) : Bool :=
  let p := bitsOf v 9 5
  let fmt := bitsOf v 4 0
  bitsOf v 63 13 == 0 && (if p = 0 then v == 0 else planesLegal fmt p)

/-- A bank with a new format: cleared, every granule full, no poison, no NaN group (R225). -/
def State.setBfmt (s : State) (cl bank : Nat) (v : Word) : State :=
  let s1 := s.clearAt (Config.spadAt cl + bank * Config.bankSize) Config.bankSize
  s1.modCluster cl (fun c => { c with bfmt := put bank v c.bfmt, side := c.side.filter (fun e => e.1 != bank),
                                      closing := del bank c.closing })

/-- Whether a range of a place meets a bank. -/
def placeInBank (cl bank : Nat) (p : Place) (n : Nat) : Bool :=
  match p with
  | .spad c off => c == cl && decide (off / Config.bankSize ≤ bank) && decide (bank ≤ (off + n - 1) / Config.bankSize)
  | _ => false

/-- Whether a range of addresses of a holder meets a bank. -/
def State.rangeInBank (s : State) (w : Who) (cl bank a n : Nat) : Bool := placeInBank cl bank (s.placeOf w a) n

/-- Whether some rows of a strided operand meet a bank; an operand that begins in a plane bank is that bank (R214). -/
def State.rowsInBank (s : State) (w : Who) (cl bank : Nat) (base stride : Word) (rows : List Nat) (len : Nat) : Bool :=
  s.rangeInBank w cl bank base.toNat 1 ||
  rows.any (fun i => s.rangeInBank w cl bank (base + BitVec.ofNat 64 i * stride).toNat len)

/-- Whether an accepted copy reads or writes a bank. -/
def State.copyInBank (s : State) (cl bank : Nat) (c : CopyCmd) : Bool :=
  let rows := List.range c.regs.rows
  s.rowsInBank c.who cl bank c.dst c.regs.dstr rows c.regs.len ||
  s.rowsInBank c.who cl bank c.src c.regs.sstr (if c.kind = .gather then c.idxs else rows) c.regs.len ||
  (c.kind == .gather && s.rangeInBank c.who cl bank (c.regs.idx.toNat / 4 * 4) (4 * c.regs.rows))

/-- Whether an accepted matrix command reads or writes a bank. -/
def State.mtxInBank (s : State) (cl bank : Nat) (c : MtxCmd) : Bool :=
  match c.kind with
  | .mul a b _ => s.rangeInBank c.who cl bank a.toNat 1 || s.rangeInBank c.who cl bank b.toNat 1
  | .drain dst stride _ => s.rowsInBank c.who cl bank dst stride (List.range 64) 512
  | _ => false

/-- Whether an accepted signature command may read or write a bank: one of a station of the cluster, or with an operand
there. -/
def State.sigInBank (s : State) (cl bank : Nat) (c : SigCmd) : Bool :=
  clusterOf c.who.st == cl || s.rangeInBank c.who cl bank c.a.toNat 1 || s.rangeInBank c.who cl bank c.b.toNat 1

/-- Whether an access or an engine command to a bank, with an issue number below `n`, is outstanding (R225). Each element of a stream
is an access of its own (R238). -/
def State.bankBusy (s : State) (cl bank n : Nat) : Bool :=
  let meets (p : AccPart) : Bool := decide (p.acc.op < n) && placeInBank cl bank p.place p.size
  s.allParts.any meets ||
  s.stations.any (fun e => e.2.cores.toList.any (fun h => h.stores.any (fun o => o.queued.any meets)) ||
    e.2.copies.any (fun c => decide (c.id < n) && s.copyInBank cl bank c) ||
    e.2.mtx0.any (fun c => decide (c.id < n) && s.mtxInBank cl bank c) ||
    e.2.mtx1.any (fun c => decide (c.id < n) && s.mtxInBank cl bank c) ||
    e.2.sigs.any (fun c => decide (c.id < n) && s.sigInBank cl bank c))

/-- The issue number from which on what reaches a bank waits behind a write of its format (R225). -/
def State.bankClosed (s : State) (cl bank : Nat) : Option Nat := find? (s.cluster cl).closing bank

/-- Whether an access waits behind a write of the format of a bank that it meets (R225). -/
def State.behindFormat (s : State) (p : AccPart) : Bool :=
  match p.place with
  | .spad cl _ => (s.cluster cl).closing.any (fun e => decide (e.2 ≤ p.acc.op) && placeInBank cl e.1 p.place p.size)
  | _ => false

/-- Whether an engine command with an issue number, and a test for the banks it meets, waits behind the write of a format. -/
def State.engBehind (s : State) (id : Nat) (meets : Nat → Nat → Bool) : Bool :=
  s.clusters.any (fun e => e.2.closing.any (fun k => decide (k.2 ≤ id) && meets e.1 k.1))

/-! ## Containment commands of SHUT (R370, R374) -/

/-- SHUT.TEST (R373, R374): a shuttered station starts its self-test and a new appeal, or is locked after two appeals. -/
def State.shutTest (s : State) (st : Nat) : State :=
  let x := s.station st
  if !x.shut || x.shutWhy = 5 then s
  else if 2 ≤ x.appeals.length then s.modStation st (fun y => { y with shutWhy := 5 })
  else
    let s1 : State := { s with agenda := s.agenda.filter (fun t => match t.ev with | .selfTestDone n _ => n != st | _ => true) }
    ((s1.modStation st (fun y =>
      { y with testing := true, appealing := false, appeals := y.appeals ++ [s.clock (dieOf st)] })).laterAt
      (s.now + 2 ^ 22) (.selfTestDone st true)).laterAt (s.now + 4320000000000) (.appealAgeing st)

/-! ## Writes from the innkeeper through the station control window (R6, R432) -/

/-- What a write of a station register comes to: performed, refused with ACCESS, or it waits, with what has become of it so
far. -/
inductive RegWrite where
  | ok (s : State)
  | refuse
  | held (s : State)
  | wait
deriving Repr, Inhabited

def RegWrite.of (o : Option State) : RegWrite :=
  match o with
  | some s => .ok s
  | none => .refuse

/-- A legal write of a bank's format (R225): what reaches the bank from now on waits behind it, and it waits for what is
outstanding. -/
def State.writeBfmt (s : State) (cl bank : Nat) (v : Word) : RegWrite :=
  match s.bankClosed cl bank with
  | none => .held (s.modCluster cl (fun c => { c with closing := put bank s.ops c.closing }))
  | some n => if s.bankBusy cl bank n then .wait else .ok (s.setBfmt cl bank v)

/-- A station register written by the innkeeper (R28 to R30, R225, R294, R370). -/
def State.writeStationReg (s : State) (st n : Nat) (v : Word) : RegWrite :=
  let bound := bitsOf v 18 13
  let plbOk := bitsOf v 63 19 == 0 && bitsOf v 12 0 == 0
  if n = 0x040 then (if plbOk then .ok (s.modStation st (fun x => { x with plb1 := bound })) else .refuse)
  else if n = 0x041 then (if plbOk then .ok (s.modStation st (fun x => { x with plb2 := bound })) else .refuse)
  else if n = 0x042 then (if plbOk then .ok (s.modStation st (fun x => { x with plb3 := bound })) else .refuse)
  else if n = 0x043 then
    if v.getLsbD 0 then .of (s.applyL1cfg st) else .ok s
  else if n = 0x044 || (0x050 ≤ n && n < 0x060) then .of (s.writeMask { st := st, core := .keeper } n v)
  else if n = 0x073 then
    let s1 := if v.getLsbD 3 then s.stationKill st 4 else s
    .ok (if v.getLsbD 2 then s1.shutTest st else s1)
  else if 0x080 ≤ n && n < 0x0A0 then .ok (s.writePcnt st (n - 0x080) v)
  else if 0x0A0 ≤ n && n < 0x0C0 then .of (s.writeThr st (n - 0x0A0) v)
  else if 0x100 ≤ n && n < 0x110 then
    if !bfmtLegal v then .refuse
    else s.writeBfmt (clusterOf st) (n - 0x100) v
  else .ok s

/-- CRW, CRS and CRC by a holder (R385): the new value under the register's own rules. -/
def State.crWrite (s : State) (w : Who) (n : Nat) (v : Word) : Res State :=
  let refused := accessTrap (BitVec.ofNat 64 n)
  match crRight w.core n with
  | .refuse => .trap refused
  | .ignore => .go s
  | .write =>
    if n < 0x040 then
      match (s.holder w).setReg n v with
      | some h => .go (s.setHolder w h)
      | none => .trap refused
    else if n = 0x044 || (0x050 ≤ n && n < 0x060) then
      match s.writeMask w n v with
      | some t => .go t
      | none => .trap refused
    else if n < 0x0A0 then .go (s.writePcnt w.st (n - 0x080) v)
    else
      match s.writeThr w.st (n - 0x0A0) v with
      | some t => .go t
      | none => .trap refused

end Sys2Proof.Machine
end

