-- ==== Sys2Proof/Machine/Homes.lean ====
section
/-! DEFINITION. The steps of accesses after issue: performance at the home, translation and retries, fills, recalls and
write-backs, the landing of loads, shoot-downs and migrations (rows ACCESS_AT_HOME to WRITE_BACK_ARRIVES, TINV to TSYNC,
MIGRATION_START, MIGRATION_COPY, CXL_REQUEST_TIMEOUT, REMOTE_ELEMENT_ACCESS). -/
namespace Sys2Proof.Machine

/-! ## Landing (R90, R91) -/

/-- The bytes that have come back, in order of their place in the instruction's data. -/
def bufBytes (b : List (Nat × List Byte)) : List Byte :=
  let sorted := b.foldl (fun (l : List (Nat × List Byte)) e =>
    l.takeWhile (fun x => decide (x.1 < e.1)) ++ e :: l.dropWhile (fun x => decide (x.1 < e.1))) []
  (sorted.map (·.2)).flatten

/-- A vector of elements of `w` bytes, with some replaced. -/
def putElems (old : VWord) (w : Nat) (es : List (Nat × List Byte)) : VWord :=
  let bytes := vecBytes old
  leVec (es.foldl (fun l e => l.take (e.1 * w) ++ e.2 ++ l.drop (e.1 * w + e.2.length)) bytes)

/-- The lanes a typed VLD delivers, with the flags of each (R125, R230). -/
def typedLanes (tw : Nat) (rm : Rm) (bytes : List Byte) : List (Nat × Nat) :=
  (List.range (twLanes tw)).map (fun i =>
    let v := fp64.decode (leNat ((bytes.drop (8 * i)).take 8))
    let v := if v.isNan then qNaN else v
    (twFmt tw).round rm v)

/-- Packs elements of `b` bits. -/
def packNat (b : Nat) (xs : List Nat) : Nat := (xs.zipIdx.map (fun e => e.1 % 2 ^ b * 2 ^ (b * e.2))).sum

/-- A register's value as it lands, in the registers and in every later snapshot (R91). -/
def landIn (n : RegName) (op : Nat) (sv : Word) (vv : VWord) (s : Vector SReg 32) (v : Vector VReg 32) :
    Vector SReg 32 × Vector VReg 32 :=
  match n with
  | .s r => (if r != 0 && s[r.toNat].avail = .pending op then s.set r.toNat { val := sv, avail := .full } else s, v)
  | .v r => (s, if v[r.toNat].avail = .pending op then v.set r.toNat { val := vv, avail := .full } else v)

/-- Lands one register: a bound output port takes the value as a push (R25). -/
def State.land (s : State) (who : Who) (op : Nat) (n : RegName) (sv : Word) (vv : VWord) : State :=
  let h := s.holder who
  match h.binding n with
  | some b => s.pushPort who b (match n with | .s _ => sv.setWidth 2048 | .v _ => vv)
      (match h.unsettled.find? (fun u => u.op == op) with | some u => u.pc | none => h.pc) op
  | none =>
    let (s1, v1) := landIn n op sv vv h.s h.v
    s.setHolder who { h with
      s := s1, v := v1,
      unsettled := h.unsettled.map (fun u =>
        let (a, b) := landIn n op sv vv u.snap.s u.snap.v
        { u with snap := { u.snap with s := a, v := b } }) }

/-- The value of an unsettled instruction, written to its destinations (R86, R123, R126, R376). -/
def State.landValue (s : State) (who : Who) (u : Unsettled) : State :=
  let bytes := bufBytes u.buf
  match u.kind with
  | .scalar d size signed =>
    s.land who u.op (.s d) (if signed then sext64 (leNat bytes) (8 * size) else BitVec.ofNat 64 (leNat bytes)) 0
  | .vector d typed =>
    if typed then
      let vctl := (s.holder who).vctl
      let ls := typedLanes (bitsOf vctl 18 17) (rmOfField (bitsOf vctl 2 0)) bytes
      let fl := allFlags (ls.map (·.2))
      let s1 := s.modHolder who (fun h =>
        { h with vflags := h.vflags ||| BitVec.ofNat 64 fl,
                 unsettled := h.unsettled.map (fun x => if u.op < x.op then
                   { x with snap := { x.snap with vflags := x.snap.vflags ||| BitVec.ofNat 64 fl } } else x) })
      s1.land who u.op (.v d) 0 (BitVec.ofNat 2048 (packNat (twFmt (bitsOf vctl 18 17)).width (ls.map (·.1))))
    else s.land who u.op (.v d) 0 (leVec bytes)
  | .gather d w _ => s.land who u.op (.v d) 0 (putElems u.snap.v[d.toNat].val w u.buf)
  | .amo d wide float _ =>
    let n := leNat bytes
    s.land who u.op (.s d) (if wide || float then BitVec.ofNat 64 n else sext64 n 32) 0
  | .engine d pair =>
    let s1 := s.land who u.op (.s d) (leWord (bytes.take 8)) 0
    if pair then s1.land who u.op (.s (d + 1)) (leWord ((bytes.drop 8).take 8)) 0 else s1
  | .phaser d => s.land who u.op (.s d) (leWord bytes) 0
  | .answer => s

/-- The trap a typed VLD takes when its data lands (R103, R125). -/
def State.typedTrap (s : State) (who : Who) (u : Unsettled) : Option TrapInfo :=
  match u.kind with
  | .vector _ true =>
    let vctl := (s.holder who).vctl
    laneTrap vctl ((typedLanes (bitsOf vctl 18 17) (rmOfField (bitsOf vctl 2 0)) (bufBytes u.buf)).map (·.2))
  | _ => none

/-- SIGCHKs that have become final (R396). -/
def State.runChecks (s : State) (who : Who) (cs : List (Word × BitVec 15 × BitVec 15)) : State :=
  match cs with
  | [] => s
  | c :: _ => s.sigMismatch who c.1 c.2.1 c.2.2

/-- An unsettled instruction settles without a trap: what issued after it becomes final as far as the next unsettled
one (R91), and is counted (R175). -/
def State.settle (s : State) (who : Who) (u : Unsettled) : State :=
  let h := s.holder who
  let before := h.unsettled.filter (fun x => decide (x.op < u.op))
  let after := h.unsettled.filter (fun x => decide (u.op < x.op))
  match before.getLast? with
  | none =>
    let s1 := (s.setHolder who { h with unsettled := after }).counted who (u.since + 1)
    let s2 := u.pops.foldl (fun t e => t.popFinal who e.1) s1
    (u.pushes.foldl (fun t e => t.pushFinal who e) s2).runChecks who u.checks
  | some b =>
    let b' := { b with since := b.since + u.since + 1, checks := b.checks ++ u.checks, took := b.took ++ u.took,
                       pops := b.pops ++ u.pops, pushes := b.pushes ++ u.pushes }
    s.setHolder who { h with unsettled := before.dropLast ++ [b'] ++ after }

/-- Once loads have settled: a trap held behind them is taken (R90), or the oldest load's own trap (R91). -/
def State.afterSettle (s : State) (who : Who) : State :=
  let h := s.holder who
  match h.unsettled with
  | [] =>
    match h.heldTrap with
    | some (pc, t) => (s.setHolder who { h with heldTrap := none }).takeTrap who pc t 0
    | none => s
  | u :: _ => if u.left = 0 && u.trap.isSome then s.later (.loadLands who u.op) else s

/-- LOAD_LANDS (R91): the value lands and the load settles, or its trap is taken once every earlier load has settled. -/
def execLoadLands (who : Who) (op : Nat) (s : State) : Out :=
  let h := s.holder who
  match h.unsettled.find? (fun u => u.op == op) with
  | none => .next s
  | some u =>
    if u.left != 0 then .next s
    else
      let trap := match u.trap with
        | some t => some t
        | none => s.typedTrap who u
      match trap with
      | some t =>
        if h.unsettled.any (fun x => decide (x.op < op)) then
          .next (s.setHolder who { h with unsettled := h.unsettled.map (fun x => if x.op == op then { x with trap := some t } else x) })
        else .next ((s.undoTo who u).takeTrap who u.pc t 0)
      | none =>
        if (destsOf u.kind).any (fun n => match h.binding n with
            | some b => (match s.roomFor who b with | .wait => true | _ => false)
            | none => false) then .next s.wait
        else
          let s1 := (s.landValue who u).settle who u
          let s2 := s1.modHolder who (fun x => { x with acquire := if x.acquire = some op then none else x.acquire })
          let s3 := match u.kind with
            | .amo _ _ _ true => s2.dropShared who.st
            | _ => s2
          .next (s3.afterSettle who)

/-! ## The innkeeper's windows (R328, R432) -/

/-- A handler-table entry with its must-be-zero fields zero (R151). DESIGN CHOICE: a write drops bits set in them. -/
def handlerMask (x : BitVec 256) : BitVec 256 :=
  let keep : Nat := 2 ^ 128 - 4 + (0x7F * 2 ^ 144 + 1 * 2 ^ 143 + 0x1F * 2 ^ 152 + 0xF * 2 ^ 159 + 2 ^ 163 +
    0xFFFFFF * 2 ^ 164 + 3 * 2 ^ 190)
  x &&& BitVec.ofNat 256 keep

/-- Entries of a handler table are written and the instruction cache is invalidated (R40, R151). A station whose entry 254 is
present has its automatic steals (R181) on the agenda. -/
def State.installHandlers (s : State) (st : Nat) (es : List (Nat × BitVec 256)) : State :=
  let had := entryCode ((s.station st).handler 254) != 0
  let s1 := s.modStation st (fun x =>
    let y : Station := { x with
      handlers := es.foldl (fun l e => if e.1 < 256 then put e.1 (handlerMask e.2) l else l) x.handlers, icache := [] }
    if had then y else { y with stealAt := s.clock (dieOf st) })
  let steals := s1.agenda.any (fun t => match t.ev with | .stealAttempt n => n == st | _ => false)
  if entryCode ((s1.station st).handler 254) != 0 && !steals then s1.later (.stealAttempt st) else s1

/-- The 8-byte word of the station control window at an offset that is a multiple of 8, above the pool (R432). -/
def State.windowWord (s : State) (st off : Nat) : Word :=
  let x := s.station st
  if 0x60000 ≤ off && off < 0x62000 then
    let i := (off - 0x60000) / 32
    BitVec.ofNat 64 ((x.handler i).toNat / 2 ^ (8 * ((off - 0x60000) % 32)))
  else if 0x62000 ≤ off && off < 0x66000 then s.wordAt (Config.istoreAt st false + (off - 0x62000))
  else if 0x66000 ≤ off && off < 0x6A000 then s.wordAt (Config.istoreAt st true + (off - 0x66000))
  else if 0x70000 ≤ off && off < 0x72000 then s.stationReg st ((off - 0x70000) / 8)
  else if 0x80000 ≤ off && off < 0x90000 then (x.rankEntry ((off - 0x80000) / 8)).setWidth 64
  else 0

/-- A write that a window ignores leaves a deferred record in the cluster's bank (R328, R432, R360). -/
def State.ignoredWrite (s : State) (cl : Nat) (a : Word) : State := s.record (clusterBank cl) deferred 0x0F 0 a 0 0

/-- A part goes to the station that a rank's entry names now. -/
def reroute (coord : Nat) (p : AccPart) : AccPart :=
  { p with place := match p.place with | .pool _ off => .pool coord off | q => q }

/-- Held traffic to a rank leaves, routed anew, ahead of later traffic (R199). -/
def State.releaseHeld (s : State) (st rank : Nat) : State :=
  let x := s.station st
  let go := x.held.filter (fun e => e.1 == rank)
  let shut := rankShut (x.rankEntry rank)
  let dst := if shut then 8192 else rankCoord (x.rankEntry rank)
  let s1 := s.modStation st (fun y => { y with held := y.held.filter (fun e => e.1 != rank) })
  go.foldl (fun s e =>
    match e.2 with
    | .accessAtHome p | .remoteElementAccess (p :: _) =>
      if shut then (partsIn e.2).foldl (fun t q => t.failPart q (undeliverable (BitVec.ofNat 64 rank)) (homeBank p.acc.who.st)) s
      else (match e.2 with
        | .remoteElementAccess ps => (s.headSent st dst).later (.remoteElementAccess (ps.map (reroute dst)))
        | _ => s.later (.accessAtHome (reroute dst p)))
    | .messageArrival m => s.later (.messageArrival { m with dst := dst })
    | .phaserOpAtHome o => s.later (.phaserOpAtHome { o with home := dst })
    | .stealAtVictim y => s.later (.stealAtVictim { y with victim := dst })
    | .crossingDelivery d => (s.headSent st dst).later (.crossingDelivery { d with dst := dst })
    | e => s.later e) s1

/-! ## Requests that are returned (R202, R369) -/

/-- The name of a phaser. -/
def phaserName (rank idx : Nat) : Word := BitVec.ofNat 64 (rank * 2 ^ 32 + idx)

/-- Whether the task of a phaser command still runs. -/
def State.phaserLive (s : State) (o : PhaserOp) : Bool :=
  let h := s.holder (workOfTask o.who o.task)
  h.taskid == o.task && h.state != .free

/-- A phaser command that is returned (R202): a command that returns a value traps at itself, any other before the next
instruction of its holder. -/
def State.phaserReturned (s : State) (o : PhaserOp) : State :=
  let t := undeliverable (phaserName o.rank o.idx)
  let later (s : State) : State :=
    if s.phaserLive o then s.modHolder o.who (fun h => { h with asyncTrap := h.asyncTrap ++ [(t, 0)] }) else s
  match o.cmd with
  | .join _ => later (s.partBack o.who o.op 0 [] none)
  | .leave | .sig => later s
  | _ => s.partBack o.who o.op 0 [] (some t)

/-- The answer UNDELIVERABLE to a returning request of a station still outstanding at the coordinate from which a rank has been
moved (R369): of a load, an atomic, a phaser command or a steal. -/
def goneFrom (st old rank : Nat) (s : State) : Instr → Bool
  | .accessAtHome p => goneAccess p
  | .remoteElementAccess ps => ps.any goneAccess
  | .phaserOpAtHome o => o.who.st == st && o.rank == rank && o.home == old &&
      (match o.cmd with | .wait | .sigw | .qry | .join _ => true | _ => false)
  | .stealAtVictim x => x.thief == st && x.rank == rank && x.victim == old
  | _ => false
where goneAccess (p : AccPart) : Bool := p.acc.who.st == st && p.acc.eng == 0 &&
    (match s.remoteRank p.acc.who p.addr.toNat with | some n => n == rank | none => false) &&
    (match p.place, p.kind with | .pool t _, .load => t == old | .pool t _, .amo _ _ => t == old | _, _ => false)

/-- One such request is answered. -/
def State.answerGone (s : State) (st rank : Nat) (e : Instr) : State :=
  let t := undeliverable (BitVec.ofNat 64 rank)
  match e with
  | .accessAtHome p => s.failPart p t (homeBank st)
  | .remoteElementAccess ps => ps.foldl (fun u p => u.failPart p t (homeBank st)) s
  | .phaserOpAtHome o => s.phaserReturned o
  | .stealAtVictim { who := some (w, op), .. } => s.partBack w op 0 [] (some t)
  | _ => s

/-- A rank-table entry is written (R198): TRANSIT cleared, held traffic released, and the station's own returning requests
still outstanding at the old coordinate answered UNDELIVERABLE (R369). DESIGN CHOICE: bits outside [14] and [12:0] of what is written
are dropped (log entry 171). -/
def State.writeRank (s : State) (st rank : Nat) (v : Word) : State :=
  let old := rankCoord ((s.station st).rankEntry rank)
  let e : BitVec 16 := BitVec.ofNat 16 (bitsOf v 12 0 + (if v.getLsbD 14 then 0x4000 else 0))
  let s1 := s.modStation st (fun x => { x with ranks := put rank e x.ranks })
  let gone := goneFrom st old rank s
  let s2 := if old = bitsOf v 12 0 then s1
    else
      let atHome := (s1.waiting.filter (fun p => gone (.accessAtHome p))).map Instr.accessAtHome
      let inPhasers := ((s1.station old).phasers.map (fun e => e.2.waiting.map (fun w => Instr.phaserOpAtHome w.op))).flatten.filter gone
      let back := (s1.agenda.map (fun t => t.ev)).filter gone ++ atHome ++ inPhasers
      let s3 : State := { s1 with agenda := s1.agenda.filter (fun t => !gone t.ev),
                                  waiting := s1.waiting.filter (fun p => !gone (.accessAtHome p)) }
      let s4 := s3.modStation old (fun x => { x with phasers := x.phasers.map (fun e =>
        (e.1, { e.2 with waiting := e.2.waiting.filter (fun w => !gone (.phaserOpAtHome w.op)) })) })
      back.foldl (fun t e => t.answerGone st rank e) s4
  s2.releaseHeld st rank

/-- The 8-byte word of a window written (R432). -/
def State.writeWindowWord (s : State) (st off : Nat) (v : Word) : RegWrite :=
  if 0x60000 ≤ off && off < 0x62000 then
    let i := (off - 0x60000) / 32
    let sh := 8 * ((off - 0x60000) % 32)
    let old := ((s.station st).handler i).toNat
    let new := old - old / 2 ^ sh % 2 ^ 64 * 2 ^ sh + v.toNat * 2 ^ sh
    .ok (s.installHandlers st [(i, BitVec.ofNat 256 new)])
  else if 0x62000 ≤ off && off < 0x6A000 then
    if s.quiescent st then
      let a := if off < 0x66000 then Config.istoreAt st false + (off - 0x62000) else Config.istoreAt st true + (off - 0x66000)
      .ok (s.writeAt a (leBytes v.toNat 8))
    else .refuse
  else if 0x70000 ≤ off && off < 0x72000 then s.writeStationReg st ((off - 0x70000) / 8) v
  else if 0x80000 ≤ off && off < 0x90000 then .ok (s.writeRank st ((off - 0x80000) / 8) v)
  else .ok (s.ignoredWrite (clusterOf st) (BitVec.ofNat 64 off))

/-- The doubleword of a window with the bytes of a smaller store put into it. -/
def State.windowMerge (s : State) (st off : Nat) (bs : List Byte) : Word :=
  let old := leBytes (s.windowWord st (off / 8 * 8)).toNat 8
  leWord (old.take (off % 8) ++ bs ++ old.drop (off % 8 + bs.length))

/-- Whether a TINV or FRCL value is legal (R328). -/
def tinvLegal (v : Word) : Bool := bitsOf v 63 62 != 3 && bitsOf v 61 58 == 0 && bitsOf v 15 0 == 0
def frclLegal (v : Word) : Bool :=
  let size := bitsOf v 63 62
  size != 3 && bitsOf v 61 52 == 0 && bitsOf v 15 0 == 0 &&
    bitsOf v 51 0 % (match size with | 0 => 65536 | 1 => 2 ^ 21 | _ => 2 ^ 30) == 0

/-- Whether a requester's shoot-downs are all complete (R328). -/
def State.shootdownsDone (s : State) (requester : Nat) : Bool :=
  !s.agenda.any (fun t => match t.ev with
    | .tinv r _ => r == requester
    | .frcl r _ => r == requester
    | _ => false)

/-- An innkeeper's access to a control window is performed. -/
def State.performWindow (s : State) (p : AccPart) : State :=
  let cl := clusterOf p.acc.who.st
  match p.place, p.kind with
  | .stationWindow st off, .load =>
    if off < 0x60000 then s.performPlain { p with place := .pool st off }
    else
      let w := leBytes (s.windowWord st (off / 8 * 8)).toNat 8
      s.partBack p.acc.who p.acc.op p.off ((w.drop (off % 8)).take p.size) none
  | .stationWindow st off, .store =>
    if off < 0x60000 then s.performPlain { p with place := .pool st off }
    else
      match s.writeWindowWord st (off / 8 * 8) (s.windowMerge st off p.data) with
      | .ok t => t.storeDone p.acc.who p.acc.op
      | .refuse => s.storeFailed p 0x04 (stationBank st)
      | .held t => t.again t.now (.accessAtHome p)
      | .wait => s.wait
  | .sliceWindow off, .load =>
    if off / 8 * 8 = 0x10 then s.later (.tsync p.acc.who p.acc.op)
    else s.partBack p.acc.who p.acc.op p.off (List.replicate p.size 0) none
  | .sliceWindow off, .store =>
    let v := leWord p.data
    let s1 := s.storeDone p.acc.who p.acc.op
    if off = 0 && p.size = 8 && tinvLegal v then s1.later (.tinv cl v)
    else if off = 8 && p.size = 8 && frclLegal v then s1.later (.frcl cl v)
    else s1.ignoredWrite cl p.addr
  | _, _ => s

/-! ## Performance at the home -/

/-- A near access arrives (R304, R221): the target's own checks, then R89. -/
def State.arrive (s : State) (p : AccPart) : State :=
  match p.place with
  | .stationWindow _ _ | .sliceWindow _ => s.performWindow p
  | .pool st off =>
    let x := s.station st
    let remote := match s.regionOf p.acc.who p.addr.toNat with
      | some (.remote n) => some n
      | _ => none
    if remote.isSome && (x.shut || remote != some (rankOf st)) then
      s.failPart p (undeliverable (BitVec.ofNat 64 (remote.getD 0))) (homeBank p.acc.who.st)
    else if remote.isSome && !(decide (x.app1 * 8192 ≤ off) && decide (off + p.size ≤ x.app2 * 8192)) then
      s.failPart p (accessTrap p.addr) (stationBank st)
    else if p.acc.eng = 5 || p.acc.eng = 2 then
      if x.hiddenFor p.acc.op off p.size true then s.failPart p (accessTrap p.addr) (stationBank st)
      else s.arriveNear { p with place := .pool st (x.shadowOf p.acc.op off) }
    else if x.hiddenHalf off p.size then s.failPart p (accessTrap p.addr) (stationBank st)
    else s.arriveNear p
  | _ => s.arriveNear p

/-- Parts that wait for a line receive the bytes of a range read without filling (R312); one behind an access of its holder to the
line that is on its way goes there by itself (R347). -/
def State.serveUncached (s : State) (p : AccPart) (base : Nat) (bytes : List Byte) : State :=
  let (s1, ws) := s.fillEnds p false
  ws.foldl (fun s w =>
    let o := w.addr.toNat - base
    match w.kind with
    | .load =>
      if base ≤ w.addr.toNat && o + w.size ≤ bytes.length && !s.ownAway w true then
        s.partBack w.acc.who w.acc.op w.off ((bytes.drop o).take w.size) none
      else s.later (.translate w)
    | _ => s.later (.translate w)) s1

/-- A fetched line enters the station's instruction cache (R40). -/
def State.icacheFill (s : State) (st line asn : Nat) (bytes : List Byte) : State :=
  s.modStation st (fun x =>
    let set := line / 128 % Config.icacheSets
    let ls := x.icache.filter (fun l => l.set == set)
    let way := match (List.range Config.icacheWays).find? (fun w => !ls.any (fun l => l.way == w)) with
      | some w => w
      | none => (ls.foldl (fun (m : Option ICacheLine) l => match m with
          | none => some l
          | some k => if l.stamp < k.stamp then some l else some k) none).elim 0 (·.way)
    let l : ICacheLine := { set := set, way := way, line := line, asn := asn, data := BitVec.ofNat 1024 (leNat bytes),
                            stamp := x.stamp + 1 }
    { x with icache := l :: x.icache.filter (fun k => !(k.set == set && k.way == way)), stamp := x.stamp + 1 })

/-- A part that is known to go to host memory is no longer outstanding. -/
def State.hostDone (s : State) (p : AccPart) : State :=
  s.modHolder p.acc.who (fun h =>
    { h with stores := h.stores.map (fun o => if o.op == p.acc.op then { o with host := o.host - 1 } else o) })

/-- A far access to host memory is performed by the host memory controller (R307, R312, R347, R377). -/
def State.performHost (s : State) (p : AccPart) (pa : Nat) : State :=
  match p.kind with
  | .load =>
    if p.acc.eng = 1 then
      if s.poisonedAt (Config.physAt pa) p.size then s.fillFails p (fun w => poisonTrap w.addr)
      else s.serveUncached p p.addr.toNat (s.readAt (Config.physAt pa) p.size)
    else s.performPlain p
  | .amo op _ =>
    let s1 := s.grantFails p
    if amoFloat op then s1.failPart p (accessTrap p.addr) 0 else s1.performPlain p
  | .red op _ =>
    if amoFloat op then (s.hostDone p).failPart p (accessTrap p.addr) (sliceBank (transSlice (p.addr.toNat % 2 ^ 52) p.acc.asn))
    else (s.hostDone p).performPlain p
  | .prefetch _ => if p.acc.eng = 1 then s.serveUncached p p.addr.toNat [] else s
  | .store => (s.hostDone p).performPlain p
  | .fetch =>
    let base := Config.physAt (pa / 128 * 128)
    if s.poisonedAt base 1 then s.failPart p (poisonTrap p.acc.pc) 0
    else s.icacheFill p.acc.who.st (p.addr.toNat / 128 * 128) p.acc.asn (s.readAt base 128)

/-- A part put into a list in issue order. -/
def insertByOp (p : AccPart) : List AccPart → List AccPart
  | [] => [p]
  | q :: r => if p.acc.op < q.acc.op then p :: q :: r else q :: insertByOp p r

/-- The bytes of a line as they are read for a fill, with those stores of the station to it put on top that are still on
their way to the home (R338): the copy then holds every store of the station. -/
def State.withOwnStores (s : State) (p : AccPart) (bytes : List Byte) : List Byte :=
  let lo := p.addr.toNat
  let mine := (s.allParts.filter (fun q => q.kind == .store && q.acc.eng == 0 && q.acc.who.st == p.acc.who.st &&
    sameLine q p)).foldl (fun l q => insertByOp q l) []
  mine.foldl (fun l q => q.data.zipIdx.foldl (fun l e =>
    let a := q.addr.toNat + e.2
    if lo ≤ a then l.set (a - lo) e.1 else l) l) bytes

/-- An atomic or a reduction performed at the home of a line of which its station holds a Shared copy. DESIGN CHOICE: the
copy takes the new value, as it takes a store's (R338), so that a later load of the slot sees it. -/
def State.patchShared (s : State) (p : AccPart) : State :=
  let va := p.addr.toNat % 2 ^ 52
  match l1Find (s.station p.acc.who.st) va p.acc.asn with
  | some l =>
    let new := s.readAt (Config.physAt (p.pa.getD 0)) p.size
    if l.exclusive || p.acc.eng != 0 then s
    else s.modStation p.acc.who.st (fun x => x.setLine (l.patched va new))
  | none => s

/-- The home has read sectors of a line for a fill: what the station stored to them before is in the data (R338). -/
def State.clearPatches (s : State) (p : AccPart) : State :=
  s.modStation p.acc.who.st (fun x => match l1Any x p with
    | some l => x.setLine { l with patches := l.patches.filter (fun e =>
        !(if e.1 < 64 then touches0 p.addr.toNat p.size else touches1 p.addr.toNat p.size)) }
    | none => x)

/-- The sectors of a line go from the home to the L1 that asked for them (R297). -/
def State.sendFill (s : State) (p : AccPart) (pa : Nat) : State :=
  (s.clearPatches p).later (.l1FillArrives { p with data := s.withOwnStores p (s.readAt (Config.physAt pa) p.size) })

/-- A line goes Exclusive from the home to the L1 that asked for it, which the home records as its owner (R310, R311); the
operands of an atomic follow the line's 128 bytes. -/
def State.sendGrant (s : State) (p : AccPart) (pa : Nat) : State :=
  ({ s with owners := put (pa / 128) p.acc.who.st s.owners } : State).later
    (.l1FillArrives { p with data := s.readAt (Config.physAt (pa / 128 * 128)) 128 ++ p.data })

/-- A far access to cached memory at its home slice (R307, R310 to R312, R314). The owner has been recalled. -/
def State.performSlice (s : State) (p : AccPart) (pa : Nat) : State :=
  let a := Config.physAt pa
  let t := s.sliceTouch pa p.acc.cls
  match p.kind with
  | .load =>
    if p.acc.eng = 1 then
      if s.poisonedAt a 1 then s.fillFails p (fun w => poisonTrap w.addr)
      else t.sendFill p pa
    else t.performPlain p
  | .store => t.performPlain p
  | .red _ _ => (t.performPlain p).patchShared p
  | .amo _ _ =>
    if !asks p then (t.performPlain p).patchShared p
    else if s.poisonedAt a 1 then (s.grantFails p).failPart p (poisonTrap p.addr) 0
    else t.sendGrant p pa
  | .prefetch excl =>
    if p.acc.eng = 6 then t
    else if s.poisonedAt a 1 then s.fillFails p (fun w => poisonTrap w.addr)
    else if excl then t.sendGrant p pa
    else t.sendFill p pa
  | .fetch =>
    if s.poisonedAt a 1 then s.failPart p (poisonTrap p.acc.pc) 0
    else t.icacheFill p.acc.who.st (p.addr.toNat / 128 * 128) p.acc.asn (s.readAt (Config.physAt (pa / 128 * 128)) 128)

/-- Whether an access of the same holder comes before another in issue order (R337), the elements of a gather or scatter in their
order (R127). -/
def issuedBefore (q p : AccPart) : Bool :=
  q.acc.who == p.acc.who && (decide (q.acc.op < p.acc.op) || (q.acc.op == p.acc.op && decide (q.elem < p.elem)))

/-- Whether two physical addresses have one home. -/
def sameHome (a b : Nat) : Bool := homeSlice a == homeSlice b && isHostPa a == isHostPa b

/-- Whether an earlier access of the same holder to the same home is still at its translating slice, or waits there for the answer of
a port (R92, R321, R337). -/
def State.awaitsEarlier (s : State) (p : AccPart) (pa : Nat) : Bool :=
  s.agenda.any (fun t => match t.ev with
    | .translate q =>
      let va := q.addr.toNat % 2 ^ 52
      issuedBefore q p && !s.heldBack q &&
      (match (s.translateAt q.kind q.acc.asn va false).1 with
       | .leaf e => sameHome (leafPa e va) pa
       | _ => false)
    | .cxlRequestTimeout q => issuedBefore q p && (match q.pa with | some a => sameHome a pa | none => false)
    | _ => false)

/-- Whether an earlier access of the holder to the page of one that is on its way to its home has parked meanwhile, or waits for the
answer of a port: the later one is held behind it (R326). -/
def State.stepsAside (s : State) (p : AccPart) : Bool :=
  (s.parkedParts ++ s.behind ++ s.agenda.filterMap (fun t => match t.ev with
    | .cxlRequestTimeout q => if q.pa.isNone then some q else none
    | _ => none)).any (fun q => issuedBefore q p && holdsBack q p)

/-- A part put among those held back, before the later ones of its holder. -/
def insertBehind (p : AccPart) (l : List AccPart) : List AccPart :=
  l.takeWhile (fun q => !issuedBefore p q) ++ p :: l.dropWhile (fun q => !issuedBefore p q)

/-- A part on its way to its home is held behind an earlier one (R326). -/
def State.stepAside (s : State) (p : AccPart) (pa : Nat) : State :=
  let t := if isHostPa pa then s.hostDone p else s
  { t with behind := insertBehind { p with pa := none } t.behind }

/-- ACCESS_AT_HOME (R88, R89, R223, R334): a near access arrives at its home, a copy engine's notification once the stores before its
command have been performed (R234); a far one, translated, is performed at its home slice after the line's owner has been recalled
(R311), or by the host. -/
def execAccessAtHome (p : AccPart) (s : State) : Out :=
  match p.place with
  | .far _ =>
    let pa := p.pa.getD 0
    if s.awaitsEarlier p pa then .next s.wait
    else if s.stepsAside p then .next (s.stepAside p pa)
    else if isHostPa pa then (if s.answers pa then .next (s.performHost p pa) else .next s.wait)
    else if !s.answers pa then .next (s.laterAt (s.now + 4096) (.cxlRequestTimeout p))
    else if p.acc.eng = 6 then .next (s.performSlice p pa)
    else
      match s.recallOwner (pa / 128) with
      | none => .next s.wait
      | some t => .next (t.performSlice p pa)
  | _ =>
    if p.acc.eng = 2 && !p.sent then
      if s.accDone p.acc p.acc.op then .next (s.later (.accessAtHome { p with sent := true })) else .next s.wait
    else if s.behindFormat p then
      .next (if p.acc.eng = 2 || p.sent then s.wait else s.again (s.now + 1) (.accessAtHome { p with sent := true }))
    else .next (s.arrive p)

/-- REMOTE_ELEMENT_ACCESS (R128): the owner's message unit performs the elements of one message in its TCM, in ascending
element order, one at a time. -/
def execRemoteElementAccess (ps : List AccPart) (s : State) : Out :=
  match ps with
  | [] => .next s
  | [p] => .next (s.arrive p)
  | p :: r => .next ((s.arrive p).again s.now (.remoteElementAccess r))

/-! ## Fills, recalls, write-backs -/

/-- A Shared line with what has arrived: its sectors, with the station's own stores since then on top (R338). An Exclusive
line holds its data already. -/
def fillLine (l : L1Line) (off : Nat) (bytes : List Byte) : L1Line :=
  if l.exclusive then l
  else
    let t0 := touches0 off bytes.length
    let t1 := touches1 off bytes.length
    let hit (e : Nat × List Byte) : Bool := if e.1 < 64 then t0 else t1
    { (l.patches.filter hit).foldl (fun k e => l1Put k e.1 e.2) (l1Put l off bytes) with
      present0 := l.present0 || t0, present1 := l.present1 || t1, fill0 := l.fill0 && !t0, fill1 := l.fill1 && !t1,
      patches := l.patches.filter (fun e => !hit e) }

/-- Whether a part that waits for a line can be served: its sectors are there; for what writes, the line is Exclusive. -/
def L1Line.serves (l : L1Line) (w : AccPart) : Bool :=
  match w.kind with
  | .load => l1Holds l w.addr.toNat w.size
  | _ => l.exclusive

/-- One part that waits for a line is served. -/
def State.serveOne (s : State) (l : L1Line) (w : AccPart) : State :=
  match w.kind with
  | .amo op wide => s.amoInLine l w op wide
  | .store => (s.l1Write w.acc.who.st l (w.addr.toNat % 2 ^ 52) w.data).storeDone w.acc.who w.acc.op
  | .red op wide => s.redInLine l w op wide
  | _ => s.partBack w.acc.who w.acc.op w.off (l1Bytes l w.addr.toNat w.size) none

/-- The parts that wait for a line and can be served are served in the order in which they came; the others go on waiting,
and while the line is asked for Exclusive a load stays behind an earlier part that writes. -/
def State.serveLine (s : State) (st id : Nat) (ws : List AccPart) : State :=
  let (s1, rest) := ws.foldl (fun (e : State × List AccPart) w =>
    match (e.1.station st).l1.find? (fun l => l.id == id) with
    | none => (e.1.later (.translate w), e.2)
    | some l =>
      if l.serves w && e.2.all (fun x => x.kind == .load) then (e.1.serveOne l w, e.2) else (e.1, e.2 ++ [w])) (s, [])
  s1.modStation st (fun x => { x with l1 := x.l1.map (fun l => if l.id == id then { l with waiters := rest } else l) })

/-- What arrives for a line of the L1: the sectors asked for, or the whole line Exclusive with its atomic. For an atomic the line's
128 bytes come first, then its operands. -/
def State.fillLands (s : State) (l : L1Line) (p : AccPart) : State :=
  let st := p.acc.who.st
  if asks p then
    let l1 : L1Line := { l1Put l 0 (p.data.take 128) with
      exclusive := true, pa := p.pa.getD 0 / 128 * 128, present0 := true, present1 := true, fill0 := false, fill1 := false,
      asking := false, patches := [] }
    let s1 := s.modStation st (fun x => x.setLine l1)
    let s2 := match p.kind with
      | .amo op wide => s1.amoInLine l1 { p with data := p.data.drop 128 } op wide
      | _ => s1
    s2.serveLine st l.id l.waiters
  else (s.modStation st (fun x => x.setLine (fillLine l (p.addr.toNat % 2 ^ 52) p.data))).serveLine st l.id l.waiters

/-- The same for a line that has left the L1 (R297): what waits for it is served, and it leaves again. -/
def State.fillPasses (s : State) (l : L1Line) (p : AccPart) : State :=
  let st := p.acc.who.st
  let t := (s.modStation st (fun x => let y := x.dropLine l; { y with l1 := l :: y.l1 })).fillLands l p
  match l1Of (t.station st) p with
  | some k => t.evict st k
  | none => t

/-- L1_FILL_ARRIVES (R297, R310): the sectors asked for arrive, or the whole line Exclusive. A line that has left the L1 serves what
waits for it; for one that nothing waits for, an Exclusive line is given back at once. -/
def execL1FillArrives (p : AccPart) (s : State) : Out :=
  let st := p.acc.who.st
  let va := p.addr.toNat % 2 ^ 52
  let line := p.pa.getD 0 / 128
  match l1Any (s.station st) p with
  | some l => .next (if (l1Of (s.station st) p).isSome then s.fillLands l p else s.fillPasses l p)
  | none =>
    match p.kind with
    | .amo op wide =>
      let old := ((p.data.take 128).drop (va % 128)).take p.size
      let new := amoBytes op wide old (p.data.drop 128)
      .next ((s.later (.writeBackArrives st line true (new.zipIdx.map (fun e => (va % 128 + e.2, e.1))))).partBack
        p.acc.who p.acc.op p.off old none)
    | .prefetch true => .next (s.later (.writeBackArrives st line true []))
    | _ => .next s

/-- RECALL (R311): the home recalls the owner of a line; it waits while a write-back or a grant is on its way. -/
def execRecall (line requester : Nat) (s : State) : Out :=
  if find? s.owners line = some requester then .next s
  else
    match s.recallOwner line with
    | none => .next s.wait
    | some t => .next t

/-- WRITE_BACK_ARRIVES (R311): the data is in place, and the owner's record is cleared when the line was given up. -/
def execWriteBackArrives (st line : Nat) (gives : Bool) (bytes : List (Nat × Byte)) (s : State) : Out :=
  let s1 := bytes.foldl (fun s e => { s with mem := memPut (Config.physAt (line * 128 + e.1)) e.2 s.mem }) s
  let s2 : State := if gives && find? s1.owners line == some st then { s1 with owners := del line s1.owners } else s1
  .next s2

/-! ## Translation -/

/-- Whether an access must stay behind a parked one (R326). -/
def State.mustStayBehind (s : State) (p : AccPart) : Bool := s.heldBack p || s.behind.any (fun q => holdsBack q p)

/-- Whether an access that was parked, or held behind such a one, is on its way to its home and must be performed first
(R326). -/
def State.heldAhead (s : State) (p : AccPart) : Bool :=
  s.agenda.any (fun t => match t.ev with | .accessAtHome q => q.held && holdsBack q p | _ => false)

/-- The migration that blocks a page (R333). -/
def State.blockedBy (s : State) (asn va : Nat) : Option Migration :=
  s.migrations.find? (fun m => m.asn == asn && m.va / 65536 == va / 65536)

/-- The migration of a page replaced. -/
def State.setMigration (s : State) (m : Migration) : State :=
  { s with migrations := s.migrations.map (fun k => if k.asn == m.asn && k.va == m.va then m else k) }

/-- A store or reduction with a part whose translation names host memory: a fence below system scope does not wait for that
part (R312, R341). -/
def State.markHost (s : State) (p : AccPart) (pa : Nat) : State :=
  if isHostPa pa then
    s.modHolder p.acc.who (fun h =>
      { h with stores := h.stores.map (fun o => if o.op == p.acc.op then { o with host := o.host + 1 } else o) })
  else s

/-- A translated part goes on to its home (R317); one that waited for a line of the L1 looks it up once more. -/
def State.translated (s : State) (p : AccPart) (pa : Nat) : State :=
  let s1 := s.markHost p pa
  if p.again && !isHostPa pa then s1.lookAgain p pa
  else s1.later (.accessAtHome { p with pa := some pa, line := if p.again then 0 else p.line, again := false })

/-- An access is translated (R317, R320, R321, R323): it goes on to its home, parks, or waits for an answer of 4,096 cycles;
a parked one walks afresh, and goes on from PARKED. -/
def State.translateStep (s : State) (p : AccPart) : State :=
  let va := p.addr.toNat % 2 ^ 52
  let afresh := p.attempt != 0
  match s.recallWalk p.acc.asn va afresh with
  | none => s.wait
  | some t =>
    match t.translateAt p.kind p.acc.asn va afresh with
    | (.leaf e, u) =>
      let v := u.translated p (leafPa e va)
      if afresh then (v.unparkHolder p).releaseBehind else v
    | (.silent, u) => u.laterAt (u.now + 4096) (.cxlRequestTimeout { p with pa := none })
    | (.fault, u) => if s.parkFull p then s.wait else u.park p false
    | (.blocked, u) => if s.parkFull p then s.wait else u.park p true

/-- TRANSLATE (R317, R320, R321, R323, R326, R333): held behind a parked access, queued at a blocked page, or translated. -/
def execTranslate (p : AccPart) (s : State) : Out :=
  if s.mustStayBehind p then .next { s with behind := s.behind ++ [p] }
  else if s.heldAhead p then .next s.wait
  else
    match s.blockedBy p.acc.asn (p.addr.toNat % 2 ^ 52) with
    | some m => if m.queue.length < 1024 then .next (s.setMigration { m with queue := m.queue ++ [p] }) else .next s.wait
    | none => .next (s.translateStep p)

/-- PAGE_RETRY (R323): a parked access walks afresh; it proceeds, parks again, or is abandoned. At a blocked page it joins
the queue (R333). -/
def execPageRetry (p : AccPart) (s : State) : Out :=
  match s.parked.find? (fun q => q.part == p) with
  | none => .next s
  | some q =>
    let s1 : State := { s with parked := s.parked.filter (fun x => x != q) }
    match s.blockedBy p.acc.asn (p.addr.toNat % 2 ^ 52) with
    | some m =>
      if m.queue.length < 1024 then .next (s1.setMigration { m with queue := m.queue ++ [p] }).releaseBehind
      else .next s.wait
    | none =>
      let t := s1.translateStep p
      if t.waits then .next s.wait else .next t

/-- CXL_REQUEST_TIMEOUT (R321, R435): 4,096 cycles of package time after a request to a CXL port or a Ranaeso link; one that
has not answered parks the access, flagged WALK, at its translating slice, and one that answers serves it. The request is
that of a walk, or of an access whose line lies on a CXL port. -/
def execCxlRequestTimeout (p : AccPart) (s : State) : Out :=
  match p.pa with
  | some pa =>
    if s.answers pa then .next ((s.again (s.now + 1) (.accessAtHome p)).releaseBehind)
    else if s.parkFull p then .next s.wait
    else .next (s.park p true)
  | none =>
    let va := p.addr.toNat % 2 ^ 52
    match s.recallWalk p.acc.asn va (p.attempt != 0) with
    | none => .next s.wait
    | some t =>
      match t.translateAt p.kind p.acc.asn va (p.attempt != 0) with
      | (.silent, u) => if s.parkFull p then .next s.wait else .next (u.park p true)
      | _ =>
        let u := s.translateStep p
        if u.waits then .next s.wait else .next u.releaseBehind

/-! ## Shoot-downs (R328 to R331) -/

/-- A shoot-down with a value that the slice control window ignores leaves its record (R328): in the cluster of the innkeeper
that wrote it. DESIGN CHOICE: a host's lies in cluster 0. Requesters are the clusters, then 512 + h for host h. -/
def State.ignoredShootdown (s : State) (requester off : Nat) : State :=
  s.ignoredWrite (if requester < 512 then requester else 0) (BitVec.ofNat 64 (0x18000000 + off))

/-- TINV (R328, R329): the named translations and walk-cache entries are dropped at every slice. -/
def execTinv (requester : Nat) (v : Word) (s : State) : Out :=
  if !tinvLegal v then .next (s.ignoredShootdown requester 0) else
  let kind := bitsOf v 63 62
  let asn := bitsOf v 57 52
  let page := bitsOf v 51 16 * 65536
  let dropT (e : TlbEntry) : Bool :=
    if kind = 2 then true else if kind = 1 then e.asn == asn
    else e.asn == asn && e.base == page / 2 ^ levelShift e.level * 2 ^ levelShift e.level
  let dropW (e : WalkEntry) : Bool :=
    if kind = 2 then true else if kind = 1 then e.asn == asn
    else e.asn == asn && e.pre == page / 2 ^ (if e.level = 1 then 39 else levelShift (e.level - 1))
  .next { s with tlb := s.tlb.filter (fun e => !dropT e), walks := s.walks.filter (fun e => !dropW e),
                 shootdowns := put requester (look 0 s.shootdowns requester + 1) s.shootdowns }

/-- The lines of a physical range that have a recorded owner. -/
def State.ownedIn (s : State) (lo n : Nat) : List Nat :=
  (s.owners.map (·.1)).filter (fun l => decide (lo ≤ l * 128) && decide (l * 128 < lo + n))

/-- Every owner of a range is recalled; none while one must be waited for (R330). -/
def State.recallRange (s : State) (lo n : Nat) : Option State :=
  (s.ownedIn lo n).foldl (fun r l => r.bind (fun t => t.recallOwner l)) (some s)

/-- FRCL (R328, R330): the homes of a frame's lines recall their owners. -/
def execFrcl (requester : Nat) (v : Word) (s : State) : Out :=
  if !frclLegal v then .next (s.ignoredShootdown requester 8) else
  let size := match bitsOf v 63 62 with | 0 => 65536 | 1 => 2 ^ 21 | _ => 2 ^ 30
  match s.recallRange (bitsOf v 51 16 * 65536) size with
  | none => .next s.wait
  | some t => .next { t with shootdowns := put requester (look 0 t.shootdowns requester + 1) t.shootdowns }

/-- TSYNC (R328, R331): the load is performed once the requester's shoot-downs are complete; it returns their count. Host h
reads as the holder of station number 8704 + h, which is no station's: the count goes to the host. -/
def execTsync (who : Who) (op : Nat) (s : State) : Out :=
  let cl := clusterOf who.st
  if s.shootdownsDone cl then
    .next (s.partBack who op 0 (leBytes (look 0 s.shootdowns cl % 2 ^ 64) 8) none)
  else .next s.wait

/-! ## Migration (R332, R333) -/

/-- MIGRATION_START (R332, R333 step 1): refused with a deferred record, or the page is blocked. `frame` is the new
physical frame. A walk that is held up (R321) is waited for. -/
def execMigrationStart (asn va frame requester : Nat) (after : Option (Who × Nat)) (s : State) : Out :=
  let page := va / 65536 * 65536
  let refused := s.record (sliceBank (transSlice va asn)) deferred 0x0F 0 (BitVec.ofNat 64 (0x800 * 2 ^ 52 + page)) 0 0
  if !s.storesDone after then .next s.wait
  else match s.recallWalk asn va true with
  | none => .next s.wait
  | some t =>
    match t.rootOf asn with
    | none => .next refused
    | some root =>
      match (t.walkFrom (transSlice va asn) asn va 4 0 root).1 with
      | .leaf e =>
        let leaf := (t.walkReads va 4 0 root).getLast?.getD 0
        if e.level != 3 || !t.populated frame || isHostPa frame || frame % 65536 != 0 || (t.blockedBy asn va).isSome then
          .next refused
        else
          let m : Migration := { asn := asn, va := page, old := e.frame, new := frame, leaf := leaf,
                                 requester := requester, stage := 0, queue := [] }
          .next ({ t with migrations := t.migrations ++ [m] }.later (.migrationCopy asn page))
      | .fault => .next refused
      | .blocked | .silent => .next s.wait

/-- Steps 2 and 3 of R333: once every access already translated to the old frame is performed, and the frame's owners are
recalled, the frame is frozen. -/
def State.migrationFreeze (s : State) (m : Migration) : State :=
  let draining := s.agenda.any (fun t => (partsIn t.ev).any (fun p =>
    match p.pa with | some pa => pa / 65536 * 65536 == m.old && p.acc.asn == m.asn | none => false))
  if draining then s.wait
  else
    match s.recallRange m.old 65536 with
    | none => s.wait
    | some t => (t.setMigration { m with stage := 1 }).later (.migrationCopy m.asn m.va)

/-- Steps 4 and 5 of R333: the lines move with their poison marks, the leaf is written and the cached translation
replaced. -/
def State.migrationMove (s : State) (m : Migration) : State :=
  match (s.recallOwner (m.leaf / 128)).bind (fun t => t.recallRange m.new 65536) with
  | none => s.wait
  | some u =>
    let src := Config.physAt m.old
    let dst := Config.physAt m.new
    let marks := (List.range 512).filter (fun i => u.poison.contains (src / 128 + i))
    let u1 := u.clearAt dst 65536
    let moved := u1.mem.filter (fun c => decide (src ≤ c.1) && decide (c.1 < src + 65536))
    let u2 : State := { u1 with
      mem := moved.foldl (fun mm c => memPut (dst + (c.1 - src)) c.2 mm) u1.mem,
      poison := marks.foldl (fun l i => setIns (dst / 128 + i) (setDel (src / 128 + i) l)) u1.poison,
      lines := u1.lines.filter (fun l => !(decide (m.old ≤ l.line * 128) && decide (l.line * 128 < m.old + 65536))) }
    let old := u2.wordAt (Config.physAt m.leaf)
    let new := BitVec.ofNat 64 (old.toNat - bitsOf old 51 8 * 256 + m.new)
    let u3 : State := { u2 with
      mem := memWrite u2.mem (Config.physAt m.leaf) (leBytes new.toNat 8),
      tlb := u2.tlb.map (fun e => if e.asn == m.asn && e.level == 3 && e.base == m.va then { e with frame := m.new } else e) }
    (u3.setMigration { m with stage := 2 }).later (.migrationCopy m.asn m.va)

/-- Step 6 of R333: the oldest queued access is translated and performed; the next one follows it, and when none is left
the page is no longer blocked. -/
def State.migrationReplay (s : State) (m : Migration) : State :=
  let onWay := s.agenda.any (fun t => match t.ev with
    | .accessAtHome p => p.acc.asn == m.asn && p.addr.toNat % 2 ^ 52 / 65536 == m.va / 65536
    | _ => false)
  if onWay then s.wait
  else
    match m.queue with
    | [] => { s with migrations := s.migrations.filter (fun k => !(k.asn == m.asn && k.va == m.va)) }
    | q :: r =>
      let t := (s.setMigration { m with queue := r }).later (.migrationCopy m.asn m.va)
      if t.mustStayBehind q then { t with behind := t.behind ++ [q] }
      else
        let u := t.translateStep q
        if u.waits then s.wait else u

/-- MIGRATION_COPY (R333 steps 2 to 6): the stages of a migration, one at a time. -/
def execMigrationCopy (asn va : Nat) (s : State) : Out :=
  match s.blockedBy asn va with
  | none => .next s
  | some m =>
    .next (match m.stage with
      | 0 => s.migrationFreeze m
      | 1 => s.migrationMove m
      | _ => s.migrationReplay m)

end Sys2Proof.Machine
end

