-- ==== Sys2Proof/Machine/Issue.lean ====
section
/-! DEFINITION. How memory instructions issue: the checks of an address (R27, R87, R221, R226, R302 to R304), what they
wait for (R89, R199, R326), and the records of loads and stores on their way (R90, R92). -/
namespace Sys2Proof.Machine

/-- Qualified accesses of a holder that are neither performed nor withdrawn (R89). -/
def Holder.qualified (h : Holder) : Nat :=
  (h.unsettled.filter (fun u => u.qual && u.left != 0)).length + (h.stores.filter (fun o => o.qual)).length

/-- Why an access of `n` bytes traps at issue, beyond its alignment (R27, R87, R221, R226, R302, R303). -/
def State.accessFault (s : State) (w : Who) (a : Word) (n : Nat) (q : Qual) (typed : Bool) : Option TrapInfo :=
  match s.regionOfAll w a.toNat n with
  | none => some (accessTrap a)
  | some r =>
    let p := s.placeOf w a.toNat
    let remote := match r with | .remote _ => true | _ => false
    if q != .plain && !r.hasBits then some (accessTrap a)
    else if !typed && s.typedAt p n then some (accessTrap a)
    else if !remote && s.hidden p n then some (accessTrap a)
    else none

/-- Whether an access must wait at issue: a ninth qualified access (R89), a far access beside eight parked ones (R326),
traffic beside a full hold queue (R199). -/
def State.accessWaits (s : State) (w : Who) (a : Word) (q : Qual) : Bool :=
  (q != .plain && decide (8 ≤ (s.holder w).qualified)) ||
  (s.regionOf w a.toNat == some .far && decide (8 ≤ (s.parkedOps w).length)) || s.holdFull w a.toNat

/-- The checks of one access: it is aligned, may be made, and need not wait. -/
def State.checkAccess (s : State) (w : Who) (a : Word) (n align : Nat) (q : Qual) (typed : Bool) : Res Unit :=
  if a.toNat % align != 0 then .trap (alignOf a)
  else
    match s.accessFault w a n q typed with
    | some t => .trap t
    | none => await (!s.accessWaits w a q)

/-- The registers a load's trap gives back (R91): as they stand, with its own destinations empty. -/
def Holder.snapshot (h : Holder) (dests : List RegName) : Snapshot :=
  let e := dests.foldl (fun (k : Holder) n => k.setAvail n .empty) h
  { s := e.s, v := e.v, m := h.m, loops := h.loops, fflags := h.fflags, vflags := h.vflags, sigacc := h.sigacc }

/-- A producer becomes unsettled (R90): its record, its destinations empty with it outstanding. A destination bound to a
port takes the value as a push when it lands. -/
def State.addUnsettled (s : State) (w : Who) (kind : LoadKind) (a : Word) (qual : Bool) (parts : Nat) : State :=
  let h := s.holder w
  let dests := (destsOf kind).filter (fun n => (h.binding n).isNone)
  let u : Unsettled :=
    { op := s.ops, pc := h.pc, addr := a, kind := kind, qual := qual, left := parts, buf := [], trap := none, parked := 0,
      snap := h.snapshot dests, since := 0, checks := [] }
  let h1 := dests.foldl (fun (k : Holder) n => k.setAvail n (.pending s.ops)) h
  s.setHolder w { h1 with unsettled := h.unsettled ++ [u] }

/-- A store or reduction is on its way (R92). -/
def State.addStore (s : State) (w : Who) (a : Word) (reduction qual : Bool) (parts : Nat) : State :=
  s.modHolder w (fun h => { h with stores := h.stores ++
    [{ op := s.ops, task := (s.holder (s.worksFor w)).taskid, pc := h.pc, addr := a, reduction := reduction, host := 0, qual := qual,
       left := parts, parked := 0, port := none }] })

/-- A load issues with its parts (R90). -/
def State.startLoad (s : State) (w : Who) (kind : LoadKind) (a : Word) (q : Qual) (ps : List AccPart) : State :=
  ((s.addUnsettled w kind a (q != .plain) ps.length).bump).startParts ps

/-- A store issues with its parts (R92). -/
def State.startStore (s : State) (w : Who) (a : Word) (reduction : Bool) (q : Qual) (ps : List AccPart) : State :=
  ((s.addStore w a reduction (q != .plain) ps.length).bump).startParts ps

/-- What an access of the holder that issues carries. -/
def State.ownAccess (s : State) (w : Who) : Access := s.accessOf w s.ops (s.holder w).pc 0

end Sys2Proof.Machine
end

