-- ==== Sys2Proof/Machine/LoadStore.lean ====
section
/-! DEFINITION. Scalar loads and stores (R85 to R92). -/
namespace Sys2Proof.Machine

/-- The address of the MEM format (R52). -/
def State.memAddr (s : State) (a : Reg) (o : BitVec 13) : Word := s.valS s.cur a + o.signExtend 64

/-- A scalar load of `size` bytes (R85 to R91). -/
def State.scalarLoad (s : State) (d a : Reg) (k : Bool) (q : Qual) (o : BitVec 13) (size : Nat) (signed : Bool) : Out :=
  let addr := s.memAddr a o
  s.issue .load ⟨[(.s a, k)], [.s d]⟩ (fun t =>
    (t.checkAccess s.cur addr size size q false).bind (fun _ =>
      .go (t.startLoad s.cur (.scalar d size signed) addr q (t.partsOf (t.ownAccess s.cur) .load addr size q []), .load)))

/-- What an innkeeper's store to a station's control registers or instruction stores traps with at issue (R6, R37,
R432): a register its rights or the value do not allow, or a store while the station is not quiescent. -/
def State.windowRefuses (s : State) (p : Place) (bs : List Byte) : Option TrapInfo :=
  match p with
  | .stationWindow st off =>
    if 0x70000 ≤ off && off < 0x72000 then
      match s.writeStationReg st ((off - 0x70000) / 8) (s.windowMerge st off bs) with
      | .refuse => some (accessTrap (BitVec.ofNat 64 ((off - 0x70000) / 8)))
      | _ => none
    else if 0x62000 ≤ off && off < 0x6A000 && !s.quiescent st then
      some (accessTrap (BitVec.ofNat 64 (0x10000000 + placeInCluster st * 0x100000 + off)))
    else none
  | _ => none

/-- Whether an innkeeper's store to a control window waits at issue: its checks are made on what its earlier stores to the windows
have written (R30). -/
def State.windowWaits (s : State) (w : Who) (p : Place) : Bool :=
  match p with
  | .stationWindow _ off => decide (0x60000 ≤ off) && s.allParts.any (fun q =>
      q.acc.who == w && q.kind == .store && (match q.place with | .stationWindow _ _ => true | _ => false))
  | _ => false

/-- A scalar store of `size` bytes (R85 to R92). -/
def State.scalarStore (s : State) (d a : Reg) (k : Bool) (q : Qual) (o : BitVec 13) (size : Nat) : Out :=
  let addr := s.memAddr a o
  let data := leBytes (s.valS s.cur d).toNat size
  s.issue .store ⟨[(.s a, k), (.s d, k)], []⟩ (fun t =>
    (t.checkAccess s.cur addr size size q false).bind (fun _ =>
    (await (!t.windowWaits s.cur (t.placeOf s.cur addr.toNat))).bind (fun _ =>
      match t.windowRefuses (t.placeOf s.cur addr.toNat) data with
      | some e => .trap e
      | none => .go (t.startStore s.cur addr false q (t.partsOf (t.ownAccess s.cur) .store addr size q data), .next))))

/-- LB (R86). -/
def execLb (d a : Reg) (k : Bool) (q : Qual) (o : BitVec 13) (s : State) : Out :=
  s.scalarLoad d a k q o 1 true
/-- LBU (R86). -/
def execLbu (d a : Reg) (k : Bool) (q : Qual) (o : BitVec 13) (s : State) : Out :=
  s.scalarLoad d a k q o 1 false
/-- LH (R86). -/
def execLh (d a : Reg) (k : Bool) (q : Qual) (o : BitVec 13) (s : State) : Out :=
  s.scalarLoad d a k q o 2 true
/-- LHU (R86). -/
def execLhu (d a : Reg) (k : Bool) (q : Qual) (o : BitVec 13) (s : State) : Out :=
  s.scalarLoad d a k q o 2 false
/-- LW (R86). -/
def execLw (d a : Reg) (k : Bool) (q : Qual) (o : BitVec 13) (s : State) : Out :=
  s.scalarLoad d a k q o 4 true
/-- LWU (R86). -/
def execLwu (d a : Reg) (k : Bool) (q : Qual) (o : BitVec 13) (s : State) : Out :=
  s.scalarLoad d a k q o 4 false
/-- LD (R86). -/
def execLd (d a : Reg) (k : Bool) (q : Qual) (o : BitVec 13) (s : State) : Out :=
  s.scalarLoad d a k q o 8 false
/-- SB (R86). -/
def execSb (d a : Reg) (k : Bool) (q : Qual) (o : BitVec 13) (s : State) : Out := s.scalarStore d a k q o 1
/-- SH (R86). -/
def execSh (d a : Reg) (k : Bool) (q : Qual) (o : BitVec 13) (s : State) : Out := s.scalarStore d a k q o 2
/-- SW (R86). -/
def execSw (d a : Reg) (k : Bool) (q : Qual) (o : BitVec 13) (s : State) : Out := s.scalarStore d a k q o 4
/-- SD (R86). -/
def execSd (d a : Reg) (k : Bool) (q : Qual) (o : BitVec 13) (s : State) : Out := s.scalarStore d a k q o 8

end Sys2Proof.Machine
end

