-- ==== Sys2Proof/Machine/Atomics.lean ====
section
/-! DEFINITION. Atomics and reductions (R67, R376 to R380, R340). -/
namespace Sys2Proof.Machine

/-- Whether a far address now translates to host memory, which makes an atomic's scope system (R340). DEDUCED: the scope
is judged by the translation as it stands at issue. -/
def State.namesHost (s : State) (w : Who) (a : Word) : Bool :=
  match s.placeOf w a.toNat with
  | .far va =>
    match (s.translateAt (.amo .add true) (s.ownAccess w).asn va false).1 with
    | .leaf e => isHostPa (leafPa e va)
    | _ => false
  | _ => false

/-- Whether the release of an atomic with rl holds (R340): its fence's conditions for every earlier access. -/
def State.atomReleased (s : State) (w : Who) (a : Word) : Bool :=
  (s.holder w).released (s.ops, if s.namesHost w a then .system else .module)

/-- Whether a region takes atomics (R377): the innkeeper's windows do not. -/
def takesAtomics : Option Region → Bool
  | some .control | some .slices => false
  | _ => true

/-- The checks of an atomic's address (R377, R378): alignment, then whether an atomic may reach it. -/
def State.checkAtom (s : State) (w : Who) (a : Word) (n : Nat) : Res Unit :=
  (s.checkAccess w a n n .plain false).bind (fun _ =>
    need (takesAtomics (s.regionOf w a.toNat)) (accessTrap a))

/-- Bytes of an atomic. -/
def atomSize (wide : Bool) : Nat := if wide then 8 else 4

/-- The part of an atomic with its operands: the operand y, then the expected value e. -/
def State.atomParts (s : State) (kind : PartKind) (a : Word) (n : Nat) (y e : Word) : List AccPart :=
  (s.partsOf (s.ownAccess s.cur) kind a n .plain []).map (fun p =>
    { p with data := leBytes y.toNat 8 ++ leBytes e.toNat 8 })

/-- A returning atomic (R378). AMCAS reads d, and always waits for it (R50). -/
def State.atomic (s : State) (op : AmoOp) (d a b : Reg) (ka kb wide aq rl : Bool) : Out :=
  let addr := s.valS s.cur a
  let n := atomSize wide
  s.issue .vstore ⟨[(.s a, ka), (.s b, kb)] ++ (if op = .cas then [(.s d, false)] else []), [.s d]⟩ (fun t =>
    (t.checkAtom s.cur addr n).bind (fun _ =>
      (await (!rl || t.atomReleased s.cur addr)).bind (fun _ =>
        let u := t.startLoad s.cur (.amo d wide (amoFloat op) aq) addr .plain
          (t.atomParts (.amo op wide) addr n (s.valS s.cur b) (s.valS s.cur d))
        .go (if aq then u.modHolder s.cur (fun h => { h with acquire := some t.ops }) else u, .load))))

/-- A reduction (R379). -/
def State.reduction (s : State) (op : AmoOp) (a b : Reg) (ka kb wide rl : Bool) : Out :=
  let addr := s.valS s.cur a
  let n := atomSize wide
  s.issue .vstore ⟨[(.s a, ka), (.s b, kb)], []⟩ (fun t =>
    (t.checkAtom s.cur addr n).bind (fun _ =>
      (await (!rl || t.atomReleased s.cur addr)).bind (fun _ =>
        .go (t.startStore s.cur addr true .plain (t.atomParts (.red op wide) addr n (s.valS s.cur b) 0), .next))))

/-- AMADD (R376, R378). -/
def execAmadd (d a b : Reg) (ka kb w aq rl : Bool) (s : State) : Out := s.atomic .add d a b ka kb w aq rl
/-- AMAND (R376, R378). -/
def execAmand (d a b : Reg) (ka kb w aq rl : Bool) (s : State) : Out := s.atomic .and d a b ka kb w aq rl
/-- AMOR (R376, R378). -/
def execAmor (d a b : Reg) (ka kb w aq rl : Bool) (s : State) : Out := s.atomic .or d a b ka kb w aq rl
/-- AMXOR (R376, R378). -/
def execAmxor (d a b : Reg) (ka kb w aq rl : Bool) (s : State) : Out := s.atomic .xor d a b ka kb w aq rl
/-- AMMIN (R376, R378). -/
def execAmmin (d a b : Reg) (ka kb w aq rl : Bool) (s : State) : Out := s.atomic .min d a b ka kb w aq rl
/-- AMMAX (R376, R378). -/
def execAmmax (d a b : Reg) (ka kb w aq rl : Bool) (s : State) : Out := s.atomic .max d a b ka kb w aq rl
/-- AMMINN (R376, R378). -/
def execAmminn (d a b : Reg) (ka kb w aq rl : Bool) (s : State) : Out := s.atomic .minn d a b ka kb w aq rl
/-- AMMAXN (R376, R378). -/
def execAmmaxn (d a b : Reg) (ka kb w aq rl : Bool) (s : State) : Out := s.atomic .maxn d a b ka kb w aq rl
/-- AMSWP (R376, R378). -/
def execAmswp (d a b : Reg) (ka kb w aq rl : Bool) (s : State) : Out := s.atomic .swp d a b ka kb w aq rl
/-- AMCAS (R376, R378). -/
def execAmcas (d a b : Reg) (ka kb w aq rl : Bool) (s : State) : Out := s.atomic .cas d a b ka kb w aq rl
/-- AMFADD (R376, R378). -/
def execAmfadd (d a b : Reg) (ka kb w aq rl : Bool) (s : State) : Out := s.atomic .fadd d a b ka kb w aq rl
/-- AMFMIN (R376, R378). -/
def execAmfmin (d a b : Reg) (ka kb w aq rl : Bool) (s : State) : Out := s.atomic .fmin d a b ka kb w aq rl
/-- AMFMAX (R376, R378). -/
def execAmfmax (d a b : Reg) (ka kb w aq rl : Bool) (s : State) : Out := s.atomic .fmax d a b ka kb w aq rl
/-- REDADD (R376, R379). -/
def execRedadd (a b : Reg) (ka kb w rl : Bool) (s : State) : Out := s.reduction .add a b ka kb w rl
/-- REDAND (R376, R379). -/
def execRedand (a b : Reg) (ka kb w rl : Bool) (s : State) : Out := s.reduction .and a b ka kb w rl
/-- REDOR (R376, R379). -/
def execRedor (a b : Reg) (ka kb w rl : Bool) (s : State) : Out := s.reduction .or a b ka kb w rl
/-- REDXOR (R376, R379). -/
def execRedxor (a b : Reg) (ka kb w rl : Bool) (s : State) : Out := s.reduction .xor a b ka kb w rl
/-- REDMIN (R376, R379). -/
def execRedmin (a b : Reg) (ka kb w rl : Bool) (s : State) : Out := s.reduction .min a b ka kb w rl
/-- REDMAX (R376, R379). -/
def execRedmax (a b : Reg) (ka kb w rl : Bool) (s : State) : Out := s.reduction .max a b ka kb w rl
/-- REDMINN (R376, R379). -/
def execRedminn (a b : Reg) (ka kb w rl : Bool) (s : State) : Out := s.reduction .minn a b ka kb w rl
/-- REDMAXN (R376, R379). -/
def execRedmaxn (a b : Reg) (ka kb w rl : Bool) (s : State) : Out := s.reduction .maxn a b ka kb w rl
/-- REDFADD (R376, R379). -/
def execRedfadd (a b : Reg) (ka kb w rl : Bool) (s : State) : Out := s.reduction .fadd a b ka kb w rl
/-- REDFMIN (R376, R379). -/
def execRedfmin (a b : Reg) (ka kb w rl : Bool) (s : State) : Out := s.reduction .fmin a b ka kb w rl
/-- REDFMAX (R376, R379). -/
def execRedfmax (a b : Reg) (ka kb w rl : Bool) (s : State) : Out := s.reduction .fmax a b ka kb w rl

end Sys2Proof.Machine
end

