-- ==== Sys2Proof/Machine/Fetch.lean ====
section
/-! DEFINITION. Fetching an instruction (R37, R40, R42, R43 step 1). -/
namespace Sys2Proof.Machine

/-- What a fetch comes to: the word, a trap, a request sent on its way, or a request that is on its way. -/
inductive Fetched where
  | word (w : BitVec 32) (s : State)
  | trap (t : TrapInfo)
  | sent (s : State)
  | wait
deriving Repr, Inhabited

/-- The instruction word of four bytes (R42). -/
def leWord32 (bs : List Byte) : BitVec 32 := BitVec.ofNat 32 (leNat bs)

/-- The word at a line's offset. -/
def lineWord (data : BitVec 1024) (a : Nat) : BitVec 32 := BitVec.ofNat 32 (data.toNat / 2 ^ (8 * (a % 128)))

/-- The fetch request of a far line (R40). -/
def State.fetchPart (s : State) (w : Who) (pc : Word) : AccPart :=
  { acc := s.accessOf w s.ops pc 0, kind := .fetch, addr := pc, place := .far (pc.toNat % 2 ^ 52), size := 4, off := 0,
    qual := .plain, data := [], attempt := 0, pa := none }

/-- Why a near line cannot be fetched: the checks a near access meets at its home (R221, R226, R304), then poison (R36). -/
def State.nearFetchTrap (s : State) (w : Who) (pc : Word) (p : Place) : Option TrapInfo :=
  let a := pc.toNat
  let remote := s.remoteRank w a
  match p with
  | .pool st off =>
    let x := s.station st
    if remote.isSome && (x.shut || rankShut ((s.station w.st).rankEntry (remote.getD 0)) || remote != some (rankOf st)) then
      some (undeliverable (BitVec.ofNat 64 (remote.getD 0)))
    else if remote.isSome && !(decide (x.app1 * 8192 ≤ off) && decide (off + 4 ≤ x.app2 * 8192)) then some (accessTrap pc)
    else if x.hiddenHalf off 4 then some (accessTrap pc)
    else if s.poisonedAt (placeAt p 0) 4 then some (poisonTrap pc)
    else none
  | _ => if s.typedAt p 4 then some (accessTrap pc) else if s.poisonedAt (placeAt p 0) 4 then some (poisonTrap pc) else none

/-- The place a near fetch reads; the innkeeper reaches pools through its control window (R432). -/
def State.fetchPlace (s : State) (w : Who) (a : Nat) : Option Place :=
  match s.regionOf w a with
  | none | some .slices => none
  | some .control =>
    match s.placeOf w a with
    | .stationWindow st off => if off < 0x60000 then some (.pool st off) else none
    | p => some p
  | some _ => some (s.placeOf w a)

/-- The address space by which the instruction cache knows a line: a far address is one of an address space, and a near one
is the same for every slot (R40). 64 stands for none. -/
def lineSpace (a asn : Nat) : Nat := if 0x800 * 2 ^ 52 ≤ a then asn else 64

/-- The instruction-cache line that holds an address. -/
def icacheFind (x : Station) (a asn : Nat) : Option ICacheLine :=
  x.icache.find? (fun l => l.line == a / 128 * 128 && l.asn == lineSpace a asn)

/-- Whether a near fetch waits: for a rank in transit (R199), or behind the write of a bank's format (R225). -/
def State.fetchWaits (s : State) (w : Who) (a : Nat) (p : Place) : Bool :=
  s.inTransit w a || (match p with
    | .spad cl _ => (s.cluster cl).closing.any (fun e => placeInBank cl e.1 p 4)
    | _ => false)

/-- Fetches the word at a holder's pc (R37, R40). A near line that misses is filled from its home at once; a far one is
requested. -/
def State.fetch (s : State) (w : Who) : Fetched :=
  let pc := (s.holder w).pc
  let a := pc.toNat
  match w.core with
  | .loader | .storer =>
    if Config.istoreSize ≤ a then .trap (accessTrap pc)
    else .word (leWord32 (s.readAt (Config.istoreAt w.st (w.core == .storer) + a) 4)) s
  | _ =>
    let asn := s.asnOf (s.classOf w)
    match icacheFind (s.station w.st) a asn with
    | some l =>
      .word (lineWord l.data a) (s.modStation w.st (fun x =>
        { x with icache := x.icache.map (fun k => if k == l then { k with stamp := x.stamp + 1 } else k),
                 stamp := x.stamp + 1 }))
    | none =>
      match s.fetchPlace w a with
      | none => .trap (accessTrap pc)
      | some (.far _) =>
        if s.allParts.any (fun p => p.kind == .fetch && p.acc.who == w) then .wait
        else if 8 ≤ (s.parkedOps w).length then .wait
        else .sent ((s.later (.translate (s.fetchPart w pc))).bump)
      | some p =>
        if s.fetchWaits w a p then .wait
        else match s.nearFetchTrap w pc p with
        | some t => .trap t
        | none =>
          let bytes := s.readAt (placeAt p 0 / 128 * 128) 128
          .word (leWord32 ((bytes.drop (a % 128)).take 4)) (s.icacheFill w.st (a / 128 * 128) (lineSpace a asn) bytes)

end Sys2Proof.Machine
end

