-- ==== Sys2Proof/Machine/Messages.lean ====
section
/-! DEFINITION. Messages (R150 to R163, R172, R187 to R199, R371, R424 to R426): the sending commands, mailbox records,
returns, the choice of launches and the launch of a task; MBIND, MSEAL and the rank table; steals of an idle station and
threshold launches. -/
namespace Sys2Proof.Machine

/-! ## Headers and records -/

/-- A word with one field replaced. -/
def setField (x : Word) (h l v : Nat) : Word :=
  BitVec.ofNat 64 (x.toNat - bitsOf x h l * 2 ^ l + v % 2 ^ (h + 1 - l) * 2 ^ l)

/-- The fields of a header (R150). -/
def hdrDest (h : Word) : Nat := bitsOf h 63 51
def hdrHandler (h : Word) : Nat := bitsOf h 47 40
def hdrLen (h : Word) : Nat := bitsOf h 39 36
def hdrUrg (h : Word) : Bool := h.getLsbD 35
def hdrClass (h : Word) : Nat := bitsOf h 34 31
def hdrSrc (h : Word) : Nat := bitsOf h 30 18

/-- A header of the station itself (R155): destination and source are its own rank. -/
def selfHeader (st handler len cls : Nat) (urg : Bool) : Word :=
  BitVec.ofNat 64 (rankOf st * 2 ^ 51 + handler * 2 ^ 40 + len * 2 ^ 36 + (if urg then 2 ^ 35 else 0) + cls * 2 ^ 31 +
    rankOf st * 2 ^ 18)

/-- No deadline. -/
def noDeadline : Word := 0xFFFF_FFFF_FFFF_FFFF#64

/-- Words in memory order. -/
def wordBytes (ws : List Word) : List Byte := (ws.map (fun w => leBytes w.toNat 8)).flatten

/-- Where a record lies in the model's memory (R153). -/
def State.recordAt (s : State) (st i : Nat) : Nat := Config.poolAt st + (s.station st).app3 * 8192 + 128 * i

/-- The sixteen doublewords of a record. -/
def State.recordWords (s : State) (st i : Nat) : List Word := (List.range 16).map (fun k => s.wordAt (s.recordAt st i + 8 * k))

/-- A doubleword of a record. -/
def wordOf (ws : List Word) (k : Nat) : Word := ws.getD k 0

/-- The record of a message, doublewords 14 and 15 apart (R153). -/
def msgWords (m : Msg) (now : Word) : List Word :=
  [m.header] ++ (List.range 8).map (fun k => m.payload.getD k 0) ++
    [m.tilec, m.deadline,
     BitVec.ofNat 64 (m.ep % 8 * 2 ^ 61 + (if m.cv then 2 ^ 60 else 0) + m.cctr % 2 ^ 17 * 2 ^ 43), m.jseq, now]

/-- The number of records, and the lowest record of a bound range (R153, R195). -/
def Station.recordCount (x : Station) : Nat := (48 - x.app3) * 64
def Station.lowBound (x : Station) : Nat := x.bindings.foldl (fun m b => Nat.min m b.lo) Config.poolSize
def Station.firstBound (x : Station) : Nat := (x.lowBound - x.app3 * 8192) / 128

/-- Which records a message may take first (R153). -/
inductive RecKind where
  | urgent | own | general
deriving DecidableEq, Repr, Inhabited

/-- The record an arriving message enters (R153): the lowest free one of its own records, else the lowest free general
record. -/
def Station.freeRecord (x : Station) (k : RecKind) : Option Nat :=
  let free (i : Nat) : Bool := decide (i < x.recordCount) && !x.mail.any (fun r => r.idx == i)
  let own := match k with | .urgent => span 1 8 | .own => span 9 8 | .general => []
  match own.find? free with
  | some i => some i
  | none => (span 17 (x.firstBound - 17)).find? free

/-- Record 0 and the gauge of mailbox records after a change (R153, R175). -/
def State.mailStatus (s : State) (st : Nat) : State :=
  let x := s.station st
  let n := x.recordsInUse
  let normal := (x.mail.filter (fun r => !r.ret && !r.urg)).length
  let urgent := (x.mail.filter (fun r => !r.ret && r.urg)).length
  (s.writeAt (s.recordAt st 0) (leBytes (n % 65536 + normal % 65536 * 2 ^ 16 + urgent % 65536 * 2 ^ 32) 8)).gauge st 0x20 n

/-- Bound ranges whose last message has gone take effect (R195). -/
def Station.settleBindings (x : Station) : Station :=
  { x with bindings := x.bindings.map (fun b =>
      if x.mail.any (fun r => decide (b.lo ≤ x.app3 * 8192 + 128 * r.idx) && decide (x.app3 * 8192 + 128 * r.idx < b.lo + 128 * b.n))
      then b else { b with active := true }) }

/-- A record becomes free. -/
def State.freeRecord (s : State) (st i : Nat) : State :=
  (s.modStation st (fun x => ({ x with mail := x.mail.filter (fun r => r.idx != i) } :
    Station).settleBindings)).mailStatus st

/-! ## Routing, returns, arrival (R191 to R199, R371) -/

/-- A message is routed through the rank table of station `st` (R197): held while the rank is in transit. -/
def State.routeMsg (s : State) (st rank : Nat) (m : Msg) : State :=
  let e := (s.station st).rankEntry rank
  if rankTransit e then s.modStation st (fun x => { x with held := x.held ++ [(rank, .messageArrival m)] })
  else s.later (.messageArrival { m with dst := if rankShut e then 8192 else rankCoord e })

/-- A message goes back to the return mailbox of its source (R152, R194), from the station that refuses it. -/
def State.returnMsg (s : State) (from_ : Nat) (m : Msg) (why : Nat) : State :=
  let r : Msg := { m with why := why, left := true }
  match m.source with
  | .task w _ => (s.messageSent from_ w.st (hdrUrg m.header) m.payload.length).later (.messageArrival { r with dst := w.st })
  | _ => (s.messageSent from_ (rankCoord ((s.station from_).rankEntry (hdrSrc m.header))) (hdrUrg m.header) m.payload.length).routeMsg from_ (hdrSrc m.header) r

/-- A return enters a record of its station (R371), and its innkeeper is told. One whose station is shuttered is lost with
the task that sent it. -/
def State.placeReturn (s : State) (m : Msg) : State :=
  let x := s.station m.dst
  if 8192 ≤ m.dst || x.shut then s
  else if x.pend then s.wait
  else
    match x.freeRecord .own with
    | none => s.wait
    | some i =>
      let s1 := s.writeAt (s.recordAt m.dst i) (wordBytes (msgWords m s.time ++ [BitVec.ofNat 64 m.why, s.time]))
      let r : MailRec := { idx := i, urg := false, ret := true, order := x.arrivals, own := m.source == .self,
                           reply := m.reply, gang := none, sender := m.sender }
      let s2 := s1.modStation m.dst (fun y => { y with mail := y.mail ++ [r], arrivals := y.arrivals + 1, returns := y.returns + 1 })
      (s2.mailStatus m.dst).later (.returnServe m.dst i)

/-- The refusals of R152, at arrival and at launch. -/
def Station.refuses (x : Station) (handler : Nat) (member : Bool) : Bool :=
  let e := x.handler handler
  entryCode e == 0 || (member != entryGang e) || (entryPark e && decide (x.app1 < 23))

/-- A slot reserved for a member of a gang is free again (R159), and the member is no more of the gang. -/
def State.cancelReserved (s : State) (w : Who) (g : Nat × Nat) : State :=
  let h := s.holder w
  if h.state == .reserved && (match h.task with | some t => t.gang == some (g.1, g.2, 0) | none => false) then
    let without (q : Gang) : Gang :=
      if q.index = g.2 then { q with members := q.members.filter (fun m => m != (w.st, slotNumber w.core)) } else q
    let s1 := s.modDie g.1 (fun d => { d with running := (d.running.map without).filter (fun q => q.members.length != 0) })
    (s1.modHolder w (fun k => { k with state := .free, task := none })).slotFreed w
      (match h.task with | some t => t.tcmn | none => 0) (match h.task with | some t => t.phn | none => 0)
  else s

/-- The reservation of a member that a station refuses or kills at launch. -/
def State.cancelMember (s : State) (m : Msg) : State :=
  match m.gang with
  | none => s
  | some g =>
    match (List.range 4).find? (fun n =>
        let h := s.holder { st := m.dst, core := slotOf n }
        h.state == .reserved && (match h.task with | some t => t.gang == some (g.1, g.2, 0) | none => false)) with
    | some n => s.cancelReserved { st := m.dst, core := slotOf n } g
    | none => s

/-- Whether a station holds a launch of a journal sequence, waiting or running (R427). -/
def State.holdsSeq (s : State) (st : Nat) (seq : Word) : Bool :=
  seq != 0 &&
  ((s.station st).mail.any (fun r => !r.ret && wordOf (s.recordWords st r.idx) 12 == seq) ||
   taskCores.any (fun c => match (s.holder { st := st, core := c }).task with | some t => t.jseq == seq | none => false))

/-- Whether a message of the launch journal is of a launch whose entry has retired: the task has ended meanwhile (R427). -/
def State.ended (s : State) (m : Msg) : Bool :=
  (m.replay || (match m.source with | .host _ => true | _ => false)) && m.jseq != 0 && !s.journal.any (fun j => j.seq == m.jseq)

/-- Whether a die has still to replay its journal, and accepts no launch before (R427). -/
def State.replays (s : State) (die : Nat) : Bool :=
  s.agenda.any (fun t => match t.ev with | .journalReplay d => d == die | _ => false)

/-- The lowest free journal entry of a die (R426). -/
def State.freeEntry (s : State) (die : Nat) : Option Nat :=
  (List.range Config.journalEntries).find? (fun i => !s.journal.any (fun j => j.die == die && j.idx == i))

/-- What both copies of a journal entry say of its launch changes (R426): its state, and the station that runs it. -/
def State.markEntry (s : State) (die idx state station : Nat) : State :=
  let bytes := wordBytes [BitVec.ofNat 64 state, BitVec.ofNat 64 station]
  (s.writeAt (Config.commonsAt die + Config.journalBase + 128 * idx + 112) bytes).writeAt
    (Config.commonsAt (die ^^^ 1) + Config.mirrorBase + 128 * idx + 112) bytes

/-- Both copies of a journal entry are written (R426). -/
def State.writeEntry (s : State) (die idx : Nat) (ws : List Word) (state station : Nat) : State :=
  let bytes := wordBytes (ws.take 14 ++ [BitVec.ofNat 64 state, BitVec.ofNat 64 station])
  (s.writeAt (Config.commonsAt die + Config.journalBase + 128 * idx) bytes).writeAt
    (Config.commonsAt (die ^^^ 1) + Config.mirrorBase + 128 * idx) bytes

/-- A launch is accepted into the journal of a die; none while the journal is full (R426) or is to be replayed (R427). -/
def State.journalAccept (s : State) (die : Nat) (m : Msg) : Option State :=
  if s.replays die && !m.replay then none
  else if s.journal.any (fun j => j.seq == m.jseq) then some s
  else
    match s.freeEntry die with
    | none => none
    | some i =>
      let s1 := s.writeEntry die i (msgWords m s.time) 1 0
      some { s1 with journal := s1.journal ++
        [{ die := die, idx := i, seq := m.jseq, launched := false, station := 0, stops := 0, msg := m }] }

/-- A launch enters a record (R153), and may be chosen from then on. -/
def State.placeLaunch (s : State) (m : Msg) (i : Nat) (gang : Option (Nat × Nat × Nat)) : State :=
  let urg := hdrUrg m.header
  let x := s.station m.dst
  let s1 := s.writeAt (s.recordAt m.dst i) (wordBytes (msgWords m s.time ++ [0, 0]))
  let r : MailRec := { idx := i, urg := urg, ret := false, order := x.arrivals, own := m.source == .self,
                       reply := m.reply, gang := gang, sender := m.sender }
  let s2 := s1.modStation m.dst (fun y =>
    { y with mail := y.mail ++ [r], arrivals := y.arrivals + 1 })
  (s2.mailStatus m.dst).later (if urg then .urgentLaunch m.dst else .launch m.dst)

/-- A reply record is written to host memory (R424). -/
def State.hostReply (s : State) (m : Msg) (a : Word) : State :=
  s.writeAt (Config.physAt a.toNat) (wordBytes ([m.header] ++ (List.range 8).map (fun k => m.payload.getD k 0) ++
    [m.jseq, 0, 0, 0, 0, 0, 0]))

/-- MESSAGE_ARRIVAL (R152 to R154, R191 to R196, R369, R371, R424, R426): a message leaves its station's outbound queue
once the stores before it are performed, in issue order; it then arrives: it is refused and returned, waits for a record
or for the journal, or enters a record. -/
def execMessageArrival (m : Msg) (s : State) : Out :=
  match m.left, m.source with
  | false, .task w op =>
    if !s.storesDone (some (workOfTask w m.sender, op)) then .next s.wait
    else .next (((s.modStation w.st (fun x => { x with outq := x.outq.filter (· != op) })).messageSent w.st m.dst
      (hdrUrg m.header) m.payload.length).later (.messageArrival { m with left := true }))
  | _, _ =>
    if m.why != 0 then .next (s.placeReturn m)
    else if m.dst = 8193 then .next (s.hostReply m (m.reply.getD 0))
    else if m.dst = 8192 then .next (s.returnMsg (hdrSrc m.header) m 1)
    else
      let x := s.station m.dst
      let h := hdrHandler m.header
      if x.shut || x.sealed then .next ((s.cancelMember m).returnMsg m.dst m 2)
      else if x.pend then .next s.wait
      else if s.holdsSeq m.dst m.jseq || s.ended m then .next s
      else if x.refuses h m.gang.isSome then .next ((s.cancelMember m).returnMsg m.dst m 3)
      else if x.seals.contains h then .next ((s.cancelMember m).returnMsg m.dst m 4)
      else
        let kind : RecKind := if hdrUrg m.header then .urgent else if m.source == .self then .own else .general
        match x.freeRecord kind with
        | none => .next s.wait
        | some i =>
          let gang := m.gang.map (fun g => (g.1, g.2, (m.payload.getD 2 0).toNat))
          if m.jseq != 0 then
            match s.journalAccept (dieOf m.dst) m with
            | none => .next s.wait
            | some t => .next (t.placeLaunch m i gang)
          else .next (s.placeLaunch m i gang)

/-! ## SEND, SENDR, SENDV, REPLY (R191, R193, R424) -/

/-- The four sending commands. -/
inductive SendKind where
  | send | sendr | sendv | reply
deriving DecidableEq, Repr, Inhabited

/-- The registers a sending command reads after its header: the deadline and the payload. -/
def sendRegs (k : SendKind) (b : Reg) (n : Nat) : List Reg :=
  match k with
  | .send | .reply => (List.range n).map (fun i => b + BitVec.ofNat 5 i)
  | .sendr => (List.range (n + 1)).map (fun i => b + BitVec.ofNat 5 i)
  | .sendv => []

/-- The last register read lies within s0 to s31. -/
def sendFits (k : SendKind) (b : Reg) (n : Nat) : Bool :=
  match k with
  | .send | .reply => n == 0 || decide (b.toNat + n - 1 ≤ 31)
  | .sendr => decide (b.toNat + n ≤ 31)
  | .sendv => true

/-- Whether traffic to a rank must wait for a place in the hold queue (R199). -/
def State.rankFull (s : State) (st rank : Nat) : Bool :=
  let x := s.station st
  rankTransit (x.rankEntry rank) && decide (64 ≤ x.held.length)

/-- The next journal sequence of a die (R425). -/
def State.nextSeq (s : State) (die : Nat) : Word × State :=
  let n := (s.die die).jseq + 1
  (BitVec.ofNat 64 (die % 16 * 2 ^ 60 + n % 2 ^ 60), s.modDie die (fun d => { d with jseq := n }))

/-- A message of the holder that issues is placed in the outbound queue (R191). A REPLY of a task from the aperture goes to
the host (R424). -/
def State.postMsg (s : State) (k : SendKind) (h : Word) (payload : List Word) (deadline : Word) : State :=
  let w := s.cur
  let task := s.me.task
  let src := match task with | some t => t.srcRank | none => 0
  let h1 := if k = .reply then setField h 63 51 src else h
  let hdr := setField h1 30 18 (rankOf w.st)
  let host := if k = .reply then task.bind (·.reply) else none
  let m : Msg :=
    { source := .task w s.ops, sender := s.me.taskid, why := 0, left := false, dst := 0, header := hdr, payload := payload,
      tilec := s.me.tilec, deadline := deadline, ep := s.prio (hdrClass h), cv := false, cctr := 0, jseq := 0, reply := none,
      gang := none }
  let queued (t : State) : State := t.modStation w.st (fun x => { x with outq := x.outq ++ [s.ops] })
  match host with
  | some a =>
    let jseq := match task with | some t => t.jseq | none => 0
    (queued s.bump).later (.messageArrival
      (if a = 0 then { m with why := 5, dst := w.st, jseq := jseq } else { m with dst := 8193, reply := some a, jseq := jseq }))
  | none =>
    let (q, s1) := s.nextSeq (dieOf w.st)
    let s2 := if rankTransit ((s.station w.st).rankEntry (hdrDest hdr)) then s1.bump else queued s1.bump
    s2.routeMsg w.st (hdrDest hdr) { m with jseq := q }

/-- SEND, SENDR, SENDV and REPLY (R191). -/
def State.sending (s : State) (k : SendKind) (a b : Reg) (ka kb : Bool) : Out :=
  let h := s.valS s.cur a
  let n := hdrLen h
  s.issue .vstore ⟨[(.s a, ka)], []⟩ (fun t =>
    (need (bitsOf h 50 48 == 0) (engineTrap 0 0x01)).bind (fun _ =>
    (need (decide (n ≤ 8)) (engineTrap 0 0x02)).bind (fun _ =>
    (need (hdrHandler h != 255) (engineTrap 0 0x04)).bind (fun _ =>
    (need (sendFits k b n) (engineTrap 0 0x03)).bind (fun _ =>
      let srcs := if k = .sendv then (if n = 0 then [] else [(RegName.v b, kb)])
                  else ((sendRegs k b n).filter (· != a)).map (fun r => (RegName.s r, kb))
      (t.checkSrcs s.cur srcs).bind (fun _ =>
        let regs := (sendRegs k b n).map (fun r => s.valS s.cur r)
        let payload := match k with
          | .send | .reply => regs
          | .sendr => regs.drop 1
          | .sendv => (List.range n).map (fun i => BitVec.ofNat 64 ((s.valV s.cur b).toNat / 2 ^ (64 * i)))
        let deadline := if k = .sendr then regs.headD 0 else noDeadline
        let dest := if k = .reply then (match s.me.task with | some x => x.srcRank | none => 0) else hdrDest h
        (await (decide ((t.station s.cur.st).outq.length < 16) && !t.rankFull s.cur.st dest)).bind (fun _ =>
          .go ((t.popAll s.cur srcs).postMsg k h payload deadline, .next))))))))

/-- SEND (R191). -/
def execSend (a b : Reg) (ka kb : Bool) (s : State) : Out := s.sending .send a b ka kb
/-- SENDR (R191). -/
def execSendr (a b : Reg) (ka kb : Bool) (s : State) : Out := s.sending .sendr a b ka kb
/-- SENDV (R191). -/
def execSendv (a b : Reg) (ka kb : Bool) (s : State) : Out := s.sending .sendv a b ka kb
/-- REPLY (R129, R191, R193, R424). -/
def execReply (a b : Reg) (ka kb : Bool) (s : State) : Out := s.sending .reply a b ka kb

/-! ## MBIND and MSEAL (R195, R196) -/

/-- MBIND (R195). -/
def execMbind (a b : Reg) (ka kb : Bool) (s : State) : Out :=
  let v := s.valS s.cur a
  let n := bitsOf v 22 16
  s.issue .vstore ⟨[(.s a, ka)], []⟩ (fun t =>
    let x := t.station s.cur.st
    (need (bitsOf v 63 23 == 0 && bitsOf v 15 13 == 0 && decide (n ≤ 64) && bitsOf v 7 0 != 255) (engineTrap 0 0x05)).bind (fun _ =>
      if n = 0 then
        match x.bindings.getLast? with
        | none => .trap (engineTrap 0 0x07)
        | some _ =>
          .go ((t.modStation s.cur.st (fun y => { y with bindings := y.bindings.dropLast })).mailStatus s.cur.st, .next)
      else
        let srcs := if a = b then [] else [(RegName.s b, kb)]
        (t.checkSrcs s.cur srcs).bind (fun _ =>
          let lo := s.valS s.cur b
          (need (decide (lo.toNat + 128 * n = x.lowBound) && decide (x.app3 * 8192 + 25 * 128 ≤ lo.toNat)) (engineTrap 0 0x06)).bind (fun _ =>
            (need (decide (x.bindings.length < 8)) (engineTrap 0 0x07)).bind (fun _ =>
              let bd : MailBinding := { lo := lo.toNat, n := n, urg := v.getLsbD 12, cls := bitsOf v 11 8,
                                        handler := bitsOf v 7 0, active := false, who := t.worksFor s.cur }
              let t1 := (t.popAll s.cur srcs).modStation s.cur.st (fun y =>
                ({ y with bindings := y.bindings ++ [bd] } : Station).settleBindings)
              .go (t1.mailStatus s.cur.st, .next))))))

/-- MSEAL (R196). -/
def execMseal (a b : Reg) (ka kb : Bool) (s : State) : Out :=
  let h := s.valS s.cur a
  let mode := s.valS s.cur b
  s.issue .vstore ⟨[(.s a, ka), (.s b, kb)], []⟩ (fun t =>
    (need (decide (h.toNat < 255) && decide (mode.toNat ≤ 1)) (engineTrap 0 0x08)).bind (fun _ =>
      .go (t.modStation s.cur.st (fun x =>
        { x with seals := if mode = 1 then setIns h.toNat x.seals else setDel h.toNat x.seals }), .next)))

/-! ## The rank table (R197 to R199) -/

/-- A returning command of the message or synchronisation engine has its answer at once. -/
def State.answerNow (s : State) (w : Who) (kind : LoadKind) (a : Word) (bytes : List Byte) : State :=
  ((s.addUnsettled w kind a false 1).bump).partBack w s.ops 0 bytes none

/-- RANKRD (R198). -/
def execRankrd (a b : Reg) (ka : Bool) (s : State) : Out :=
  let r := s.valS s.cur a
  s.issue .vstore ⟨[(.s a, ka)], [.s b]⟩ (fun t =>
    (need (decide (r.toNat < 8192)) (engineTrap 0 0x09)).bind (fun _ =>
      .go (t.answerNow s.cur (.engine b false) r (leBytes ((t.station s.cur.st).rankEntry r.toNat).toNat 8), .load)))

/-- RANKWR (R198). -/
def execRankwr (a b : Reg) (ka kb : Bool) (s : State) : Out :=
  let r := s.valS s.cur a
  let v := s.valS s.cur b
  s.issue .vstore ⟨[(.s a, ka), (.s b, kb)], []⟩ (fun t =>
    (need (decide (r.toNat < 8192) && bitsOf v 63 15 == 0 && bitsOf v 13 13 == 0) (engineTrap 0 0x09)).bind (fun _ =>
      .go (t.writeRank s.cur.st r.toNat v, .next)))

/-- RANKMV (R198, R199). -/
def execRankmv (a : Reg) (ka : Bool) (s : State) : Out :=
  let r := s.valS s.cur a
  s.issue .vstore ⟨[(.s a, ka)], []⟩ (fun t =>
    (need (decide (r.toNat < 8192)) (engineTrap 0 0x09)).bind (fun _ =>
      .go (t.modStation s.cur.st (fun x =>
        { x with ranks := put r.toNat (x.rankEntry r.toNat ||| 0x8000#16) x.ranks }), .next)))

/-! ## Launches (R15, R26, R38, R157 to R159, R172) -/

/-- Counts of a weighted round robin (R157): effective priority, class, launches in the round. -/
def roundOf (rs : List (Nat × Nat × Nat)) (ep c : Nat) : Nat :=
  match rs.find? (fun r => r.1 == ep && r.2.1 == c) with
  | some r => r.2.2
  | none => 0

/-- The class whose turn it is at a level among those that have qualifying launches, and the counts after it (R157). -/
def chooseClass (rs : List (Nat × Nat × Nat)) (weight : Nat → Nat) (ep : Nat) (classes : List Nat) :
    Nat × List (Nat × Nat × Nat) :=
  let lowest (l : List Nat) : Option Nat := l.foldl (fun m c => match m with
    | none => some c
    | some k => if c < k then some c else some k) none
  match lowest (classes.filter (fun c => decide (roundOf rs ep c < weight c))) with
  | some c => (c, (ep, c, roundOf rs ep c + 1) :: rs.filter (fun r => !(r.1 == ep && r.2.1 == c)))
  | none =>
    let c := (lowest classes).getD 0
    (c, (ep, c, 1) :: rs.filter (fun r => r.1 != ep))

/-- The slot of a station that is reserved for a member of a gang (R165). -/
def State.reservedFor (s : State) (st : Nat) (die g : Nat) : Option Core :=
  ((List.range 4).map slotOf).find? (fun c =>
    let h := s.holder { st := st, core := c }
    h.state == .reserved && (match h.task with | some t => t.gang == some (die, g, 0) | none => false))

/-- The lowest FREE slot, or the slot reserved for a gang member (R157, R159, R165). A member that containment has moved to
another station (R372) takes the lowest FREE slot there. -/
def State.slotFor (s : State) (st : Nat) (gang : Option (Nat × Nat × Nat)) : Option Core :=
  let free := ((List.range 4).map slotOf).find? (fun c => (s.holder { st := st, core := c }).state == .free)
  match gang with
  | none => free
  | some (die, g, _) => (s.reservedFor st die g).or free

/-- A gang's members once one of them runs at a place: a member moved there (its slot number raised by 8) is that one. -/
def seatMember (me : Nat × Nat) (l : List (Nat × Nat)) : List (Nat × Nat) :=
  if l.contains me then l
  else
    match l.findIdx? (fun m => m.1 == me.1 && decide (8 ≤ m.2)) with
    | some i => l.set i me
    | none => l

/-- Whether the cores an entry names are free (R38). -/
def State.coresFree (s : State) (st : Nat) (e : BitVec 256) : Bool :=
  (!entryLd e || (s.holder { st := st, core := .loader }).state == .free) &&
  (!entrySt e || (s.holder { st := st, core := .storer }).state == .free)

/-- Whether a waiting normal message qualifies (R157): what a reserved slot of a gang keeps is the member's already (R165). -/
def State.qualifies (s : State) (st : Nat) (r : MailRec) : Bool :=
  let x := s.station st
  let e := x.handler (hdrHandler (wordOf (s.recordWords st r.idx) 0))
  (s.slotFor st r.gang).isSome && s.coresFree st e &&
    ((match r.gang with | some (die, g, _) => (s.reservedFor st die g).isSome | none => false) || (decide (entryTcmn e ≤ x.tcmLeft) && decide (entryPhn e ≤ x.phLeft)))

/-- The next normal launch, and the round-robin counts after it (R157). -/
def State.chooseLaunch (s : State) (st : Nat) : Option (MailRec × List (Nat × Nat × Nat)) :=
  let x := s.station st
  let ws (r : MailRec) := s.recordWords st r.idx
  let q := x.mail.filter (fun r => !r.ret && !r.urg && s.qualifies st r)
  if q.isEmpty then none
  else
    let epOf (r : MailRec) : Nat := bitsOf (wordOf (ws r) 11) 63 61
    let top := q.foldl (fun m r => Nat.max m (epOf r)) 0
    let level := q.filter (fun r => epOf r == top)
    let (c, rs) := chooseClass x.rounds s.weight top (level.map (fun r => hdrClass (wordOf (ws r) 0)))
    let mine := level.filter (fun r => hdrClass (wordOf (ws r) 0) == c)
    let first := mine.foldl (fun (m : Option MailRec) r => match m with
      | none => some r
      | some k => if r.order < k.order then some r else some k) none
    first.map (fun r => (r, rs))

/-- The message of a record, for a return or a restart (R154, R371). -/
def State.recordMsg (s : State) (st : Nat) (r : MailRec) : Msg :=
  let w := s.recordWords st r.idx
  { source := if r.own then .self else .keeper, sender := r.sender, why := 0, left := true, dst := st, header := wordOf w 0,
    payload := (w.drop 1).take 8, tilec := wordOf w 9, deadline := wordOf w 10, ep := bitsOf (wordOf w 11) 63 61,
    cv := (wordOf w 11).getLsbD 60, cctr := bitsOf (wordOf w 11) 59 43, jseq := wordOf w 12, reply := r.reply,
    gang := r.gang.map (fun g => (g.1, g.2.1)) }

/-- A launch that is never started (R172): steps 5 to 7 of R173. DESIGN CHOICE: the DEADLINE record carries the cause of
R350 as its subcode, and zero where no task has run. -/
def State.killAtLaunch (s : State) (st : Nat) (m : Msg) : State :=
  let s1 := if m.cv then s.decrement m.cctr true (rankOf st) else s
  let s2 := if m.jseq = 0 then s1 else s1.journalRetire m.jseq
  s2.record (stationBank st) deferred 0x03 0x0B 0 0 0

/-- The launch state of a core's registers (R15): s7 holds the header and s8 to s15 the payload. -/
def launchRegs (header : Word) (payload : List Word) : Vector SReg 32 :=
  Vector.ofFn (fun i : Fin 32 =>
    { val := if i.val = 7 then header else if 8 ≤ i.val ∧ i.val ≤ 15 then payload.getD (i.val - 8) 0 else 0, avail := .full })

/-- A core as a launch leaves it (R15, R26); stores of the task before may still be on their way. -/
def Holder.launched (old : Holder) (header : Word) (payload : List Word) (pc : Word) : Holder :=
  { Holder.reset with state := .run, s := launchRegs header payload, pc := pc, stores := old.stores }

/-- A task starts in a core from its record (R15, R26, R129, R157), with its loader and storer in a slot (R38). `state` is
RUN, or PENDING for the urgent bank (R158). -/
def State.startTask (s : State) (st : Nat) (core : Core) (r : MailRec) (state : HolderState) : State :=
  let m := s.recordMsg st r
  let w : Who := { st := st, core := core }
  let s0 := s.modStation st (fun x => { x with launches := x.launches + 1, gated := false })
  let x := s0.station st
  let e := x.handler (hdrHandler m.header)
  let slot := core != .urgent
  let cls := hdrClass m.header
  let info : TaskInfo :=
    { header := m.header, payload := m.payload, srcRank := hdrSrc m.header, reply := r.reply,
      tcmn := entryTcmn e, phn := entryPhn e, loader := slot && entryLd e,
      storer := slot && entrySt e, cctr := if m.cv then some m.cctr else none, jseq := m.jseq, gang := r.gang }
  let taskid := BitVec.ofNat 64 (rankOf st * 2 ^ 51 + slotNumber core * 2 ^ 48 + x.launches % 2 ^ 48)
  let h := (s0.holder w).launched m.header m.payload (entryCode e)
  let s1 := s0.setHolder w { h with
    state := state, tvec := wordAddr (entryTvec e), taskid := taskid, tilec := m.tilec, cls := cls, deadl := m.deadline,
    ep := Nat.max m.ep (s.prio cls), task := some info }
  let start (t : State) (c : Core) (off : Nat) : State :=
    let lw : Who := { st := st, core := c }
    t.setHolder lw { (t.holder lw).launched m.header m.payload (BitVec.ofNat 64 (4 * off)) with serves := slotNumber core }
  let s2 := if info.loader then start s1 .loader (entryLdoff e) else s1
  let s3 := if info.storer then start s2 .storer (entryStoff e) else s2
  let s4 := match s3.journal.find? (fun j => j.seq == m.jseq && m.jseq != 0) with
    | some j =>
      let t := s3.markEntry j.die j.idx 2 (rankOf st)
      { t with journal := t.journal.map (fun k => if k.seq == j.seq then { k with launched := true, station := rankOf st } else k) }
    | none => s3
  let s5 := match r.gang with
    | some (die, g, _) => s4.modDie die (fun d => { d with running := d.running.map (fun q : Gang =>
        if q.index = g then { q with members := seatMember (st, slotNumber core) q.members } else q) })
    | none => s4
  if m.deadline = noDeadline then s5 else s5.laterAt m.deadline.toNat (.deadlineExpiry w taskid)

/-- LAUNCH (R152, R154, R157, R172): the message unit chooses a waiting normal message and launches it. -/
def execLaunch (st : Nat) (s : State) : Out :=
  let x := s.station st
  if x.shut || !x.mail.any (fun r => !r.ret && !r.urg) then .next s
  else if x.pend then .next s.wait
  else
    match s.chooseLaunch st with
    | none => .next s.wait
    | some (r, rs) =>
      let m := s.recordMsg st r
      let s1 := s.modStation st (fun y => { y with rounds := rs })
      if x.refuses (hdrHandler m.header) r.gang.isSome then
        let s2 := if m.jseq = 0 then s1 else s1.journalRetire m.jseq
        .next (((s2.freeRecord st r.idx).cancelMember m).returnMsg st m 3)
      else if m.deadline.toNat ≤ s.now then .next (((s1.freeRecord st r.idx).cancelMember m).killAtLaunch st m)
      else
        match s.slotFor st r.gang with
        | none => .next s.wait
        | some c => .next ((s1.startTask st c r .run).freeRecord st r.idx)

/-- A member of a gang whose message is urgent starts in the urgent bank: the slot reserved for it is free, and the bank is its place.
DESIGN CHOICE (log entry 168). -/
def State.leaveReserved (s : State) (st : Nat) (gang : Option (Nat × Nat × Nat)) : State :=
  match gang with
  | none => s
  | some (die, g, _) =>
    match s.reservedFor st die g with
    | none => s
    | some c =>
      let w : Who := { st := st, core := c }
      let t := (s.holder w).task
      let seat (m : Nat × Nat) : Nat × Nat := if m == (st, slotNumber c) then (st, 4) else m
      let s1 := s.modDie die (fun d => { d with running := d.running.map (fun q : Gang =>
        if q.index = g then { q with members := q.members.map seat } else q) })
      (s1.modHolder w (fun k => { k with state := .free, task := none })).slotFreed w
        (match t with | some i => i.tcmn | none => 0) (match t with | some i => i.phn | none => 0)

/-- URGENT_LAUNCH (R158, R159): the oldest urgent message is chosen when the urgent bank is FREE, which becomes
PENDING. DESIGN CHOICE: a member of a gang leaves the slot reserved for it (log entry 168). -/
def execUrgentLaunch (st : Nat) (s : State) : Out :=
  let x := s.station st
  let w : Who := { st := st, core := .urgent }
  let first := (x.mail.filter (fun r => !r.ret && r.urg)).foldl (fun (m : Option MailRec) r => match m with
    | none => some r
    | some k => if r.order < k.order then some r else some k) none
  match first with
  | none => .next s
  | some r =>
    if x.shut then .next s
    else if x.pend || (s.holder w).state != .free then .next s.wait
    else
      let m := s.recordMsg st r
      if x.refuses (hdrHandler m.header) r.gang.isSome then
        let s1 := if m.jseq = 0 then s else s.journalRetire m.jseq
        .next ((s1.freeRecord st r.idx).returnMsg st m 3)
      else if m.deadline.toNat ≤ s.now then .next ((s.freeRecord st r.idx).killAtLaunch st m)
      else .next ((((s.leaveReserved st r.gang).startTask st .urgent r .pending).freeRecord st r.idx).later (.urgentRun st))

/-- The deadline record of a task that is killed (R173 step 7). -/
def State.deadlineKill (s : State) (w : Who) : State :=
  let h := s.holder w
  (s.record (homeBank w.st) deferred 0x03 0x0B h.pc 0 h.taskid).kill w false

/-- URGENT_RUN (R158 to R160): a PENDING bank enters RUN when no slot has a masked window open. -/
def execUrgentRun (st : Nat) (s : State) : Out :=
  let w : Who := { st := st, core := .urgent }
  let h := s.holder w
  if h.state != .pending then .next s
  else if (List.range 4).any (fun n => (s.holder { st := st, core := slotOf n }).window.isSome) then .next s.wait
  else if h.deadl.toNat ≤ s.now then .next (s.deadlineKill w)
  else .next (s.modHolder w (fun k => { k with state := .run }))

/-- DEADLINE_EXPIRY (R172, R173): the task whose deadline has come is killed; a halted one once it is resumed. -/
def execDeadlineExpiry (who : Who) (task : Word) (s : State) : Out :=
  let h := s.holder who
  if h.taskid != task || h.state = .free || h.state = .reserved || s.now < h.deadl.toNat then .next s
  else
    match h.state with
    | .halted _ => .next s.wait
    | _ => .next (s.deadlineKill who)

/-- MASKWIN_EXPIRY (R160, R300): a window that is still open after its 512th cycle closes, and its holder traps MASKWIN
before its next instruction. -/
def execMaskwinExpiry (who : Who) (opened : Nat) (s : State) : Out :=
  if (s.holder who).window != some opened then .next s
  else if s.clock (dieOf who.st) < opened + 512 then .next s.wait
  else .next ((s.closeWindow who).modHolder who (fun h => { h with asyncTrap := h.asyncTrap ++ [(maskwinTrap, 0)] }))

/-! ## Launches a station makes for itself (R155, R176, R180, R181) -/

/-- A launch under source 2, 4 or 5 of R155. -/
def State.selfLaunch (s : State) (st : Nat) (header : Word) (payload : List Word) (tilec : Word) : State :=
  s.later (.messageArrival
    { source := .self, sender := 0, why := 0, left := true, dst := st, header := header, payload := payload, tilec := tilec,
      deadline := noDeadline, ep := s.prio (hdrClass header), cv := false, cctr := 0, jseq := 0, reply := none, gang := none })

/-- THRESHOLD_FIRE (R155, R176, R210): the handler bound at the crossing is launched with n, and COUNT and TIME of the
crossing. -/
def execThresholdFire (st n : Nat) (count : Word) (f : Firing) (s : State) : Out :=
  .next (s.selfLaunch st (selfHeader st f.handler 3 f.cls f.urg) [BitVec.ofNat 64 n, count, f.time] 0)

/-- The larger-half rule of R180: what the thief takes of an entry, and what the owner keeps. -/
def splitEntry (e : Word × Nat) : (Word × Nat) × Option (Word × Nat) :=
  let low := e.2 / 2
  if low = 0 then (e, none)
  else ((setField e.1 23 0 (bitsOf e.1 23 0 + low), e.2 - low), some (e.1, low))

/-- Whether an operation of a deque must let the cycle pass, as one that comes after it in the order of one cycle has been
performed in it (R205): the station's own have key 0, a steal of rank r has r + 1. -/
def State.dequeLate (s : State) (st key : Nat) : Bool :=
  let l := (s.station st).dqLast
  l.1 == s.clock (dieOf st) && decide (key < l.2)

/-- The place of a steal in the order of one cycle (R205). -/
def stealKey (x : Steal) : Nat := if x.victim = x.thief then 0 else rankOf x.thief + 1

/-- The top entry of a deque is split for a steal (R180): what the thief takes, and the state after it. -/
def State.takeTop (s : State) (x : Steal) : (Word × Nat) × State :=
  let v := s.station x.victim
  let (got, rest) := match v.deque.getLast? with
    | none => ((0#64, 0), v.deque)
    | some e =>
      match splitEntry e with
      | (g, none) => (g, v.deque.dropLast)
      | (g, some k) => (g, v.deque.dropLast ++ [k])
  (got, s.modStation x.victim (fun y => { y with deque := rest, dqLast := (s.clock (dieOf x.victim), stealKey x) }))

/-- STEAL_AT_VICTIM (R180, R204, R205, R372): the top entry of the victim's deque is split; an automatic steal that takes
something launches handler 254 on the thief. -/
def execStealAtVictim (x : Steal) (s : State) : Out :=
  let v := s.station x.victim
  if 8192 ≤ x.victim || v.shut || x.rank != rankOf x.victim then
    match x.who with
    | none => .next s
    | some (w, op) => .next (s.partBack w op 0 [] (some (undeliverable (BitVec.ofNat 64 x.rank))))
  else if s.dequeLate x.victim (stealKey x) then .next s.wait
  else
    let (got, s1) := s.takeTop x
    match x.who with
    | some (w, op) => .next (s1.partBack w op 0 (leBytes got.1.toNat 8 ++ leBytes got.2 8) none)
    | none =>
      if got.2 = 0 then .next s1
      else
        let e := (s1.station x.thief).handler 254
        .next (s1.selfLaunch x.thief (selfHeader x.thief 254 3 (entryDclass e) false)
          [got.1, BitVec.ofNat 64 got.2, BitVec.ofNat 64 x.rank] got.1)

/-- What a station needs to steal by itself (R181), the time apart. -/
def State.idle (s : State) (st : Nat) : Bool :=
  let x := s.station st
  (List.range 4).all (fun n => (s.holder { st := st, core := slotOf n }).state == .free) &&
    !x.mail.any (fun r => !r.ret && !r.urg) && x.deque.isEmpty && !x.shut

/-- Since when a station has been idle (R181): while it is not, the time moves on with the clock. -/
def State.idleSince (s : State) (st clock : Nat) : State :=
  if entryCode ((s.station st).handler 254) != 0 && !s.idle st then s.modStation st (fun x => { x with stealAt := clock }) else s

/-- A steal is sent to the deque of a rank (R197, R199); to a SHUT rank it is answered at once. -/
def State.sendSteal (s : State) (y : Steal) : State :=
  let e := (s.station y.thief).rankEntry y.rank
  if rankTransit e then s.modStation y.thief (fun x => { x with held := x.held ++ [(y.rank, .stealAtVictim y)] })
  else s.later (.stealAtVictim { y with victim := if rankShut e then 8192 else rankCoord e })

/-- STEAL_ATTEMPT (R181): after 1,024 idle cycles the station asks the other stations of its cluster in turn, one request
every 1,024 cycles. The attempts end while entry 254 is absent. -/
def execStealAttempt (st : Nat) (s : State) : Out :=
  let x := s.station st
  if entryCode (x.handler 254) == 0 then .next s
  else if !s.idle st || s.clock (dieOf st) < x.stealAt + 1024 then .next s.wait
  else
    let cl := clusterStations (clusterOf st)
    let me := (cl.findIdx? (· == st)).getD 0
    let v := cl.getD ((me + 1 + x.stealNext) % 16) st
    let s1 := s.modStation st (fun y => { y with stealNext := (y.stealNext + 1) % 15, stealAt := s.clock (dieOf st) })
    .next ((s1.sendSteal { thief := st, rank := rankOf v, victim := v, who := none }).laterAt (s.now + 1024) (.stealAttempt st))

/-- A crossing delivery as a return record carries it: destination and source variable and sequence, time, slope change.
DESIGN CHOICE; its header names handler 255, which no SEND can. -/
def deliveryWords (d : Delivery) : List Word :=
  [BitVec.ofNat 64 (d.seq % 2 ^ 32 * 2 ^ 32 + d.srcVar % 2 ^ 16 * 2 ^ 16 + d.var % 2 ^ 16), BitVec.ofNat 64 d.t, d.d]
def deliveryOf (st rank dst : Nat) (ws : List Word) : Delivery :=
  let a := (ws.getD 0 0).toNat
  { who := { st := st, core := .keeper }, rank := rank, dst := dst, var := a % 2 ^ 16, t := (ws.getD 1 0).toNat, d := ws.getD 2 0,
    srcRank := st, srcVar := a / 2 ^ 16 % 2 ^ 16, seq := a / 2 ^ 32 }

/-- RETURN_SERVE (R371): the innkeeper frees the record; an orphan whose rank has been re-pointed under R372 since its return is sent
again, any other orphan is dropped with a record. -/
def execReturnServe (st rec_ : Nat) (s : State) : Out :=
  match (s.station st).mail.find? (fun r => r.idx == rec_ && r.ret) with
  | none => .next s
  | some r =>
    let m := s.recordMsg st r
    let rank := hdrDest m.header
    let ended := !(taskCores.any (fun c =>
      let h := s.holder { st := st, core := c }
      h.state != .free && h.state != .reserved && h.taskid == r.sender))
    let e := (s.station st).rankEntry rank
    let s1 := s.modStation st (fun x => { x with returns := x.returns - 1 })
    let s2 := s1.freeRecord st rec_
    if ended then
      if (find? s.repointed rank).any (fun t => decide ((wordOf (s.recordWords st r.idx) 15).toNat ≤ t)) then
        .next (if hdrHandler m.header = 255 && m.jseq = 0 then s2.later (.crossingDelivery { deliveryOf st rank (if rankShut e then 8192 else rankCoord e) m.payload with cls := hdrClass m.header })
               else s2.routeMsg st rank m)
      else .next (s2.record (clusterBank (clusterOf st)) deferred 0x10 0 (BitVec.ofNat 64 rank) 0 0)
    else .next s2

end Sys2Proof.Machine
end

