-- ==== Sys2Proof/Machine/Context.lean ====
section
/-! DEFINITION. Context saves and restores (R33, R34, R99): the register frame of a slot or of the urgent bank. DESIGN
CHOICE: where R33 names a part of the frame without its layout (port bindings, masked-window state, reissue records) the
bytes are the model's own, and what a restore needs of them stays in the holder. -/
namespace Sys2Proof.Machine

/-- Where a holder's frame lies in the model's memory (R33). -/
def frameAt (w : Who) : Nat := Config.poolAt w.st + 0x2400 * slotNumber w.core

/-- A loop-stack entry as a frame holds it (R99). -/
def loopWords (l : LoopEntry) : List Byte :=
  leBytes (l.start.toNat / 4 * 4 + (if l.frozen then 2 else 0) + 1) 8 ++ leBytes (l.count % 2 ^ 32 + l.len % 1024 * 2 ^ 32) 8

/-- The loop stack from its bytes; none where a valid entry has LEN or COUNT 0 (R99). -/
def loopsOf (bs : List Byte) : Option (List LoopEntry) :=
  let entries := (List.range 4).filterMap (fun i =>
    let lo := leWord ((bs.drop (16 * i)).take 8)
    let hi := leWord ((bs.drop (16 * i + 8)).take 8)
    if lo.getLsbD 0 then
      some ({ start := wordAddr lo, len := bitsOf hi 41 32, count := bitsOf hi 31 0, frozen := lo.getLsbD 1 } : LoopEntry)
    else none)
  if entries.any (fun l => l.len == 0 || l.count == 0) then none else some entries

/-- A port binding as a frame shows it: its selector (R237) and a mark that it is bound. -/
def bindingBytes (b : PortBinding) : List Byte :=
  let (kind, queue, idx) := match b.target with
    | .queue q => (1, q, 0)
    | .ring _ _ i => (0, 0, i)
    | .stream _ _ _ _ _ _ _ => (0, 0, 0)
  leBytes (2 ^ 31 + idx * 2 ^ 16 + queue * 2 ^ 8 + kind * 32 + (if b.out then 16 else 0) + b.port) 4

/-- The full/empty bits of a holder, full as 1 (R33); that of a bound register is its port's (R25). -/
def State.fullBits (s : State) (w : Who) : Nat :=
  ((List.range 32).map (fun i =>
    (if s.testFull w (.s (BitVec.ofNat 5 i)) then 2 ^ i else 0) +
    (if s.testFull w (.v (BitVec.ofNat 5 i)) then 2 ^ (32 + i) else 0))).sum

/-- A reissue record as a frame shows it: the instruction's address, its operand address, its issue number. -/
def reissueBytes (u : Unsettled) : List Byte := wordBytes [u.pc, u.addr, BitVec.ofNat 64 u.op, 0]

/-- A frame's bytes (R33). -/
def State.frameBytes (s : State) (w : Who) : List Byte :=
  let h := s.holder w
  let ports := (List.range 8).map (fun p => match h.ports.find? (fun b => b.port == p) with
    | some b => bindingBytes b
    | none => leBytes 0 4)
  let loops := h.loops.take 4
  let records := (h.reissue.map (fun e => reissueBytes e.1)).take 8
  let failure := match h.failure with
    | some f => wordBytes [BitVec.ofNat 64 (256 + f.cause % 256), f.pc, f.addr]
    | none => wordBytes [0, 0, 0]
  (h.s.toList.map (fun r => leBytes r.val.toNat 8)).flatten ++ (h.v.toList.map (fun r => vecBytes r.val)).flatten ++
  ports.flatten ++ ((h.m.toList.drop 1).map (fun m => leBytes m.toNat 32)).flatten ++ leBytes (s.fullBits w) 8 ++
  leBytes h.pc.toNat 8 ++ (loops.map loopWords).flatten ++ List.replicate (16 * (4 - loops.length)) (0 : Byte) ++
  leBytes (match h.window with | some c => c + 1 | none => 0) 8 ++
  ((List.range 18).map (fun n => leBytes (s.slotReg w n).toNat 8)).flatten ++ failure ++
  records.flatten ++ List.replicate (32 * (8 - records.length)) (0 : Byte)

/-! ## Producers that are outstanding (R34) -/

/-- The parts of one instruction of a holder that are not performed, those that wait for an L1 line among them. -/
def State.partsOfOp (s : State) (w : Who) (op : Nat) : List AccPart :=
  (s.allParts ++ (((s.station w.st).l1 ++ (s.station w.st).leaving).map (fun l => l.waiters)).flatten).filter
    (fun p => p.acc.who == w && p.acc.op == op && p.acc.eng == 0)

/-- Whether a producer waits at its home on a full/empty condition or is parked, so that a save withdraws it. -/
def State.withdrawable (s : State) (w : Who) (op : Nat) : Bool :=
  s.waiting.any (fun p => p.acc.who == w && p.acc.op == op && s.feWaits p) ||
  s.parkedParts.any (fun q => q.acc.who == w && q.acc.op == op && parksHolder q)

/-- Whether a producer has come back with a trap that waits behind an earlier producer (R91). -/
def Holder.trapsBehind (h : Holder) (u : Unsettled) : Bool :=
  u.left == 0 && u.trap.isSome && h.unsettled.any (fun x => decide (x.op < u.op))

/-- Whether a holder's context may be saved: no producer of it is performable (R34). -/
def State.saveReady (s : State) (w : Who) : Bool :=
  (s.holder w).unsettled.all (fun u => s.withdrawable w u.op || (s.holder w).trapsBehind u)

/-- Whether a producer of a holder whose station is shuttered can still come back: it is on its way, or it lands. -/
def State.comesBack (s : State) (w : Who) (u : Unsettled) : Bool :=
  (u.left == 0 && !(s.holder w).trapsBehind u) ||
  (s.partsOfOp w u.op).any (fun p => !(s.waiting.contains p && s.feWaits p) && !s.parkedParts.contains p) ||
  s.agenda.any (fun t => match t.ev with
    | .phaserOpAtHome o => o.who == w && o.op == u.op
    | .stealAtVictim x => x.who == some (w, u.op)
    | _ => false)

/-- Whether the context of a holder whose station is shuttered may be saved (R34): what has been lost with the station is not
waited for. -/
def State.lostReady (s : State) (w : Who) : Bool :=
  (s.holder w).unsettled.all (fun u => s.withdrawable w u.op || !s.comesBack w u)

/-- CONTEXT_SAVE (R33, R34): what is outstanding is withdrawn and recorded for reissue, its destinations empty; the frame
is written. What has been popped and pushed past it has been, and a trap held behind it comes again at its instruction. -/
def State.saveContext (s : State) (w : Who) : State :=
  let us := (s.holder w).unsettled
  let recs := us.map (fun u => ({ u with pops := [], pushes := [] }, s.partsOfOp w u.op))
  let s1 := (s.withdraw w.st (fun p => p.acc.who == w && p.acc.eng == 0 && us.any (fun u => u.op == p.acc.op))).runsAgain w
  let s2 := s1.modHolder w (fun h =>
    let h1 := us.foldl (fun (k : Holder) u => (destsOf u.kind).foldl (fun k n =>
      if k.avail n = .pending u.op then k.setAvail n .empty else k) k) h
    { h1 with unsettled := [], heldTrap := none, reissue := h.reissue ++ recs })
  let s3 := us.foldl (fun t u => u.pushes.foldl (fun t e => t.pushFinal w e) (u.pops.foldl (fun t e => t.popFinal w e.1) t)) s2
  s3.writeAt (frameAt w) (s3.frameBytes w)

/-- A register as a frame gives it back. -/
def availOf (bits i : Nat) : Avail := if bits.testBit i then .full else .empty

/-- CONTEXT RESTORE (R33, R34, R99): the registers with their full/empty bits, the masks, the PC, the loop stack, the
control registers a slot may write with TSTATUS whole, and the held failure, from the frame. -/
def State.restoreContext (s : State) (w : Who) : State :=
  let a := frameAt w
  let word (off : Nat) : Word := s.wordAt (a + off)
  let cr (n : Nat) : Word := word (0x2258 + 8 * n)
  let bits := (word 0x2200).toNat
  s.modHolder w (fun h =>
    let ts := cr 0
    let h1 : Holder := { h with
      s := Vector.ofFn (fun i : Fin 32 => { val := word (8 * i.val), avail := if i.val = 0 then .full else availOf bits i.val }),
      v := Vector.ofFn (fun i : Fin 32 => { val := leVec (s.readAt (a + 0x100 + 256 * i.val) 256), avail := availOf bits (32 + i.val) }),
      m := Vector.ofFn (fun i : Fin 8 => if i.val = 0 then 0 else BitVec.ofNat 256 (leNat (s.readAt (a + 0x2100 + 32 * i.val) 32))),
      pc := wordAddr (word 0x2208),
      sigsav := BitVec.ofNat 15 (bitsOf ts 62 48), sigacc := BitVec.ofNat 15 (bitsOf ts 46 32), nfail := bitsOf ts 31 24,
      loopsAt := bitsOf ts 18 16, source := bitsOf ts 13 12, inh := ts.getLsbD 0,
      failure := if (word 0x22E8).getLsbD 8 then
        some { cause := bitsOf (word 0x22E8) 7 0, pc := word 0x22F0, addr := word 0x22F8 } else none,
      epc := wordAddr (cr 1), cause := cr 2 &&& 0xFF, fva := cr 3, tval := cr 4, tvec := wordAddr (cr 5) }
    let h2 := [0x006, 0x007, 0x008, 0x009, 0x010, 0x011].foldl (fun (k : Holder) n => (k.setReg n (cr n)).getD k) h1
    match loopsOf (s.readAt (a + 0x2210) 64) with
    | some ls => { h2 with loops := ls }
    | none => { h2 with loops := [], badRestore := true })

end Sys2Proof.Machine
end

