-- ==== Sys2Proof/Machine/Containment.lean ====
section
/-! DEFINITION. Errors and containment (R308, R360 to R374): uncorrectable errors, the roll call, shuttering a station and
restarting its work, appeals, the debugger's halt (R159, R34), power gating (R311). -/
namespace Sys2Proof.Machine

/-! ## Errors in memory and core state -/

/-- UNCORRECTABLE_ERROR (R36, R308, R360, R363, R436): the line is poisoned, and the error recorded where the storage lies; an error
that the storage's check code has corrected is recorded only. ADDR is the pool offset, the module-wide address of a scratchpad or commons line, or the physical address. DESIGN CHOICE: a pool line outside
the TCM and the mailbox area has no poison bit; an error of commons is recorded in cluster 0 of the die. -/
def execUncorrectableError (at_ : LineError) (s : State) : Out :=
  let (base, bank, addr, marks) := match at_.line with
    | .pool st line =>
      let x := s.station st
      (Config.poolAt st + line, stationBank st, line, inArea x.app1 x.app2 x.app3 (line / 8192))
    | .spad cl line => (Config.spadAt cl + line, clusterBank cl, 0x40000000 + cl * 0x400000 + line, true)
    | .commons die line => (Config.commonsAt die + line, clusterBank (64 * die), 0x20000000 + die * 0x4000000 + line, true)
    | .phys line => (Config.physAt line, sliceBank (homeSlice line), line, true)
  let where_ := BitVec.ofNat 64 (addr / 128 * 128)
  if at_.fixed then .next (s.record bank corrected 0x07 0 where_ 0 0)
  else
  let s1 := s.recordUncorrected bank 0x07 0 where_ 0 0
  .next (if marks then s1.poisonAt (base / 128 * 128) 1 else s1)

/-- CORE_STATE_ERROR (R360, R363, R364): a corrupt entry of core state is read, and the station kills itself. -/
def execCoreStateError (st : Nat) (s : State) : Out :=
  .next ((s.recordUncorrected (stationBank st) 0x08 0 0 0 0).stationKill st 2)

/-! ## Shuttering (R368, R369) -/

/-- Whether a part is a reduction. -/
def isReduction (p : AccPart) : Bool := match p.kind with | .red _ _ => true | _ => false

/-- Whether held traffic is not a station's own: a message of a host link or a dispatcher that its rank table routes. -/
def ofOthers (e : Instr) : Bool :=
  match e with
  | .messageArrival m => (match m.source with | .host _ | .dispatcher _ => true | _ => false)
  | _ => false

/-- What is lost with a shuttered station (R369, R421): phasers, deque, TCM, crossing records, board and pool, what its engines and its outbound
queue hold, with what has not left it; its Exclusive lines are poisoned at their homes (R311), and its parked accesses withdrawn, reductions apart.
Requests that wait in it are answered. A lost byte is a free value. DESIGN CHOICE: a lost granule is full. -/
def State.loseStation (s : State) (st : Nat) : State :=
  let x := s.station st
  let here (p : AccPart) : Bool := match p.place with | .pool t _ => t == st && p.acc.who.st != st | _ => false
  let waits := (x.phasers.map (fun q => q.2.waiting.map (fun w => w.op))).flatten
  let s1 := s.withdraw st (fun p => p.acc.who.st == st && !isReduction p && s.parkedParts.contains p)
  let lines := (s1.owners.filter (fun e => e.2 == st)).map (·.1)
  let s2 : State := { s1 with
    owners := s1.owners.filter (fun e => e.2 != st),
    poison := lines.foldl (fun l n => setIns (Config.physAt (n * 128) / 128) l) s1.poison,
    waiting := s1.waiting.filter (fun p => !here p),
    agenda := s1.agenda.filter (fun t => match t.ev with
        | .messageArrival m => m.left || (match m.source with | .task w _ => w.st != st | _ => true)
        | .phaserOpAtHome o => o.sent || o.who.st != st
        | .counterDecrement _ _ _ (some i) | .garmAtHome _ _ _ _ _ _ (some i) => i.sent || i.who.st != st
        | .accessAtHome p => p.acc.eng != 2 || p.sent || p.acc.who.st != st
        | .ringeosAtHome r | .ringRegistration r => r.sent || r.who.st != st
        | _ => true) ++
      (s1.waiting.filter here).map (fun p => { due := s.now + 1, ev := .accessAtHome p }) ++
      waits.map (fun o => { due := s.now + 1, ev := .phaserOpAtHome o }) }
  let lo := Config.poolAt st + 8192 * x.app1
  let n := 8192 * (x.app2 - x.app1)
  let s3 := s2.clearAt lo n
  let s4 : State := { s3 with mem := memWrite s3.mem lo ((List.range n).map (fun i => Config.lostByte s.now (lo + i))) }
  s4.modStation st (fun y => { y with
    phasers := [], deque := [], xing := { y.xing with vars := [], pool := [] }, copies := [], publishes := [], notifies := [], mtx0 := [], mtx1 := [],
    sigs := [], outq := [], held := y.held.filter (fun e => ofOthers e.2), l1 := [], leaving := [] })

/-- A station is shuttered (R368, R369): by a vote (`sub` 1) or after its own report (`sub` 2). Where the host re-places or
restarts its work, a notice to it is due (R372, R431). -/
def State.shutter (s : State) (st sub syn period : Nat) : State :=
  let s1 := s.modStation st (fun x => { x with
    shut := true, sealed := true, shutWhy := if x.shut then x.shutWhy else 1,
    shutPeriod := if x.shut then x.shutPeriod else period % 65536, shutFrom := if x.shut then x.shutFrom else period })
  let why := (s1.station st).shutWhy
  let s2 := s1.recordUncorrected (clusterBank (clusterOf st)) 0x0A sub (BitVec.ofNat 64 (rankOf st))
    (BitVec.ofNat 64 (why % 16 * 16 + syn % 4)) 0
  let s3 : State := if s2.fnmode.getLsbD 2 || s2.fnmode.getLsbD 3 then
      { s2 with noticesDue := s2.noticesDue ++ [{ bits := 2 ^ 2 + 2 ^ 3, kind := 0x0A, subcode := sub, addr := 0, syndrome := 0,
                                                  context := 0 }] }
    else s2
  (s3.loseStation st).later (.shutterRestart st)

/-- Whether some neighbour already treats a station as shuttered. -/
def State.seenShut (s : State) (n : Nat) : Bool :=
  (neighboursOf n).any (fun e => ((s.station e.2).neighbour (opposite e.1)).shut)

/-- A station shutters its neighbour in a direction. -/
def State.shutNeighbour (s : State) (st dir sub syn period : Nat) : State :=
  match neighbourOf st dir with
  | none => s
  | some n =>
    let s1 := if s.seenShut n then s else s.shutter n sub syn period
    s1.modStation st (fun x => x.modNeighbour dir (fun k => { k with shut := true, appeal := false, appealOk := 0 }))

/-! ## Roll call (R365 to R367) -/

/-- HEARTBEAT_SEND (R365): a heartbeat to every live neighbour of the die. -/
def execHeartbeatSend (st : Nat) (s : State) : Out :=
  .next ((neighboursOf st).foldl (fun s e =>
    if ((s.station st).neighbour e.1).shut then s
    else s.later (.heartbeatReceived e.2 (opposite e.1) (s.heartbeat st e.1 false))) s)

/-- HEARTBEAT_RECEIVED (R364 to R366, R373): a valid heartbeat is noted; one with SHUTNOTE shutters its sender at once. -/
def execHeartbeatReceived (st dir : Nat) (h : Heartbeat) (s : State) : Out :=
  let k := (s.station st).epoch
  let note (n : Neighbour) : Neighbour :=
    if !h.valid then { n with malformed := some k, flits := n.flits + 1 }
    else { n with heard := k :: n.heard.take 2, counts := (h.seq, h.count) :: n.counts.take 3, flits := n.flits + 1,
                  chkBad := if h.chk = 15 then n.chkBad else some k, appeal := h.appeal }
  let s1 := s.modStation st (fun x => x.modNeighbour dir note)
  .next (if h.valid && h.shutNote then s1.shutNeighbour st dir 2 0 k else s1)

/-- VOTE_RECEIVED (R366, R367): a vote flit, which has come on a way around the station it is about, counts only from the station
it names as its source. -/
def execVoteReceived (st dir voter named : Nat) (v : Vote) (s : State) : Out :=
  let about := match neighbourOf st dir with | some n => [n] | none => []
  let s1 := s.flitsAlong voter 1 (s.way about voter st)
  if voter != named || (s.station voter).shut then .next s1
  else .next (s1.modStation st (fun x =>
    { x with votes := (v.period, dir, voter, v.sus) ::
        x.votes.filter (fun e => !(e.1 == v.period && e.2.1 == dir && e.2.2.1 == voter)) }))

/-- The flits of a period's broadcasts (R171) that reached a station from one direction. -/
def State.epFlits (s : State) (st dir k : Nat) : Nat :=
  ((s.broadcasts.filter (fun b => b.1 == k)).map (fun b => Config.broadcastFlits b.2 st dir)).sum

/-- WHY of the suspicion held against a neighbour for period k (R366, R368), 0 for none. DEDUCED: nothing is judged for the
periods before period 0. -/
def suspicion (per k : Nat) (n : Neighbour) : Nat :=
  let silent := decide (1 ≤ k) && !n.heard.contains k && !n.heard.contains (k - 1)
  let heads := decide (2 ≤ k) && (match n.counts.find? (fun e => e.1 == (k - 1) % 65536) with
    | some e => e.2 != Nat.min (look 0 n.arrived (k - 2)) 65535
    | none => false)
  if silent then 1
  else if n.chkBad = some k then 3
  else if decide (per / 32 < n.flits) || n.malformed = some k || heads then 2
  else 0

/-- The suspicion judged for a period. -/
def Neighbour.whyAt (n : Neighbour) (k : Nat) : Nat :=
  match n.judged.find? (fun e => e.1 == k) with
  | some e => e.2
  | none => 0

/-- The votes against the neighbour in a direction for period k (R367): those of its neighbours that are live in the period after it,
this station's own among them. -/
def State.votesAgainst (s : State) (st dir k : Nat) : Nat :=
  let x := s.station st
  let own := if (x.neighbour dir).whyAt k = 0 then 0 else 1
  match neighbourOf st dir with
  | none => 0
  | some n =>
    own + ((neighboursOf n).filter (fun e => e.2 != st && s.liveIn e.2 (k + 1) &&
      x.votes.contains (k, dir, e.2, true))).length

/-- The highest-ranking WHY among the suspicions of two periods against a station (R368). -/
def State.whyShut (s : State) (n k : Nat) : Nat :=
  let all := ((neighboursOf n).map (fun e =>
    let y := (s.station e.2).neighbour (opposite e.1)
    [y.whyAt k, y.whyAt (k - 1)])).flatten
  if all.contains 1 then 1 else if all.contains 3 then 3 else if all.contains 2 then 2 else 0

/-- The count at the end of period k + 1 for one neighbour (R367): shuttered after two majorities in a row. -/
def State.countVotes (s : State) (st dir : Nat) : State :=
  let j := (s.station st).epoch
  if j = 0 then s
  else
    match neighbourOf st dir with
    | none => s
    | some n =>
      let k := j - 1
      let v := s.votesAgainst st dir k
      let s1 := s.modStation st (fun x => x.modNeighbour dir (fun y => { y with vPrev := y.v, v := v }))
      let y := (s1.station st).neighbour dir
      match voteNeed (((neighboursOf n).filter (fun e => s.liveIn e.2 j)).length) with
      | none => s1
      | some need =>
        if !y.shut && decide (need ≤ y.v) && decide (need ≤ y.vPrev) then s1.shutNeighbour st dir 1 (s1.whyShut n k) (j + 1)
        else s1

/-- The judgement at the end of a period for one neighbour (R366), the votes it sends (R367) and the count of an appeal
(R373). -/
def State.judge (s : State) (st dir : Nat) : State :=
  match neighbourOf st dir with
  | none => s
  | some n =>
    let j := (s.station st).epoch
    let near := (s.station st).neighbour dir
    let why := suspicion s.hbper j { near with flits := near.flits + s.epFlits st dir j }
    let s1 := s.modStation st (fun x => x.modNeighbour dir (fun y =>
      { y with judged := (j, why) :: y.judged.take 2,
               appealOk := if y.shut && y.appeal && why = 0 then y.appealOk + 1 else 0 }))
    (neighboursOf n).foldl (fun s e =>
      if e.2 = st || (s.station e.2).shut then s
      else s.later (.voteReceived e.2 (opposite e.1) st st { period := j, sus := why != 0 })) s1

/-- A station is readmitted (R373): SHUT is cleared, the mailboxes are unsealed, and its neighbours treat it as live. -/
def State.readmit (s : State) (n : Nat) : State :=
  let s1 := s.modStation n (fun x => { x with
    shut := false, sealed := false, appealing := false, shutWhy := 0,
    neighbours := x.neighbours.map (fun k => { Neighbour.reset with shut := k.shut, heard := [x.epoch] }) })
  (neighboursOf n).foldl (fun s e => s.modStation e.2 (fun y => y.modNeighbour (opposite e.1)
    (fun k => { k with shut := false, appeal := false, appealOk := 0 }))) s1

/-- Whether every live neighbour of a station has held no suspicion for four periods of its appeal (R373); one that is locked until
reset is not readmitted (R374). -/
def State.appealWon (s : State) (n : Nat) : Bool :=
  let live := (neighboursOf n).filter (fun e => !(s.station e.2).shut)
  (s.station n).appealing && (s.station n).shutWhy != 5 && !live.isEmpty &&
    live.all (fun e => decide (4 ≤ ((s.station e.2).neighbour (opposite e.1)).appealOk))

/-- A new period begins for a station: votes about the period that has ended are still to be counted (R367). -/
def Station.nextPeriod (x : Station) : Station :=
  { x with epoch := x.epoch + 1, votes := x.votes.filter (fun v => decide (x.epoch ≤ v.1)),
           neighbours := x.neighbours.map (fun n => { n with
             flits := 0, sentPrev := n.sent, sent := 0, arrived := n.arrived.filter (fun e => decide (x.epoch ≤ e.1 + 1)) }) }

/-- PERIOD_END (R366 to R369, R373): votes for the period before are counted, the period is judged, votes are sent; a
neighbour whose appeal has lasted is readmitted. A shuttered station judges no one. -/
def execPeriodEnd (st : Nat) (s : State) : Out :=
  let x := s.station st
  let j := x.epoch
  if s.now < (j + 1) * s.hbper then .next s.wait
  else
    let dirs := List.range 4
    let s1 := if !s.liveIn st j then s else dirs.foldl (fun s d => s.judge st d) (dirs.foldl (fun s d => s.countVotes st d) s)
    let s2 := s1.modStation st Station.nextPeriod
    let s3 := (neighboursOf st).foldl (fun s e => if s.appealWon e.2 then s.readmit e.2 else s) s2
    .next ((s3.laterAt ((j + 1) * s.hbper) (.heartbeatSend st)).laterAt ((j + 2) * s.hbper) (.periodEnd st))

/-! ## Restart of a shuttered station's work (R372, R427) -/

/-- The message of a journal entry (R426), from the primary copy. -/
def State.journalMsg (s : State) (j : JEntry) : Msg :=
  let w := (List.range 16).map (fun k => s.wordAt (Config.commonsAt j.die + Config.journalBase + 128 * j.idx + 8 * k))
  { j.msg with why := 0, left := true, replay := true, header := wordOf w 0, payload := (w.drop 1).take 8, tilec := wordOf w 9,
               deadline := wordOf w 10, ep := bitsOf (wordOf w 11) 63 61, cv := (wordOf w 11).getLsbD 60,
               cctr := bitsOf (wordOf w 11) 59 43, jseq := j.seq }

/-- The replacement of a station (R372 step 2): the first of its cluster after it, wrapping, that is not shuttered. -/
def State.replacement (s : State) (st : Nat) : Option Nat :=
  let cl := clusterStations (clusterOf st)
  (cl.filter (fun t => decide (st < t)) ++ cl.filter (fun t => decide (t < st))).find? (fun t => !(s.station t).shut)

/-- A member of a gang moves to another station (R372). -/
def State.moveMember (s : State) (gang : Option (Nat × Nat × Nat)) (from_ : Nat × Nat) (to_ : Nat) : State :=
  match gang with
  | none => s
  | some (die, g, _) => s.modDie die (fun d => { d with running := d.running.map (fun q : Gang =>
      if q.index = g then { q with members := q.members.map (fun m => if m = from_ then (to_, from_.2 + 8) else m) } else q) })

/-- A task that containment stops (R372): its context is saved (R34), it is killed, and its launch is sent to the
replacement, unless it has no journal entry (R427) or is stopped for the third time. -/
def State.restartTask (s : State) (w : Who) (to_ : Option Nat) : State :=
  let h := s.holder w
  let s1 := s.saveContext w
  let entry := h.task.bind (fun t => if t.jseq = 0 then none else s.journal.find? (fun j => j.seq == t.jseq))
  match entry, to_ with
  | some j, some t =>
    if 2 ≤ j.stops then (s1.record (stationBank w.st) deferred 0x03 0x0A h.pc 0 h.taskid).kill w false
    else
      let s2 := (s1.moveMember (h.task.bind (·.gang)) (w.st, slotNumber w.core) t).kill w true
      let s3 : State := { s2 with journal := s2.journal.map (fun k =>
        if k.seq == j.seq then { k with launched := false, stops := k.stops + 1 } else k) }
      s3.later (.messageArrival { s3.journalMsg j with dst := t })
  | _, _ => s1.kill w false

/-- A waiting launch of a shuttered station is sent to the replacement (R372 step 5). -/
def State.moveRecord (s : State) (st t : Nat) (r : MailRec) : State :=
  let m := s.recordMsg st r
  let slot := (List.range 4).find? (fun n =>
    let h := s.holder { st := st, core := slotOf n }
    h.state == .reserved && (match h.task, m.gang with | some i, some g => i.gang == some (g.1, g.2, 0) | _, _ => false))
  let s1 := match slot with
    | some n => (s.moveMember (m.gang.map (fun (g : Nat × Nat) => (g.1, g.2, 0))) (st, n) t).modHolder { st := st, core := slotOf n }
        (fun h => { h with state := .free, task := none })
    | none => s
  s1.later (.messageArrival { m with dst := t })

/-- TRANSIT is set for a rank in every rank table (R372 step 1). -/
def State.transitAll (s : State) (rank : Nat) : State :=
  (List.range Config.stations).foldl (fun s t => s.modStation t (fun x =>
    { x with ranks := put rank (x.rankEntry rank ||| 0x8000#16) x.ranks })) s

/-- A rank is re-pointed in every rank table (R372 step 4). -/
def State.pointAll (s : State) (rank : Nat) (v : Word) : State :=
  (List.range Config.stations).foldl (fun s t => s.writeRank t rank v) { s with repointed := put rank s.now s.repointed }

/-- SHUTTER_RESTART (R34, R173, R372): the innkeeper holds the rank's traffic, waits until no producer of the station's tasks can
still perform, then re-points the rank, and saves, kills and relaunches the work: so it moves a task. DESIGN CHOICE: where the cluster has no station left, the rank is marked SHUT and nothing is restarted. -/
def execShutterRestart (st : Nat) (s : State) : Out :=
  let x := s.station st
  let rank := rankOf st
  if !x.shut then .next s
  else if !(List.range Config.stations).all (fun t => rankTransit ((s.station t).rankEntry rank)) then
    .next ((s.transitAll rank).later (.shutterRestart st))
  else
    let to_ := s.replacement st
    let waits := x.mail.filter (fun r => !r.ret)
    let runs := taskCores.filter (fun c =>
      let h := s.holder { st := st, core := c }
      h.state != .free && h.state != .reserved)
    if !(runs.all (fun c => s.lostReady { st := st, core := c })) then .next s.wait
    else
    let s1 := s.pointAll rank (match to_ with | some t => BitVec.ofNat 64 t | none => BitVec.ofNat 64 (0x4000 + st))
    let s2 := runs.foldl (fun s c => s.restartTask { st := st, core := c } to_) s1
    let s3 := match to_ with
      | some t => waits.foldl (fun (s : State) r => s.moveRecord st t r) s2
      | none => s2
    .next ((s3.modStation st (fun y => { y with mail := y.mail.filter (fun r => r.ret) })).mailStatus st)

/-! ## Appeals (R370, R373, R374) -/

/-- A station whose self-test has passed: core state, handler table and L1 are clear (R363, R373). DESIGN CHOICE: the
registers of the station that a slot may write are cleared with the core state; layout and rank table stay. -/
def Station.cleared (x : Station) : Station :=
  { x with cores := Vector.replicate 8 Holder.reset, handlers := [], l1 := [], leaving := [], icache := [], acc := [], batch0 := none,
           batch1 := false, mopenq := [], parkedBy := none, parking := none, closing0 := false, restoring := false, copies := [], publishes := [], windows := [],
           notifies := [], mtx0 := [], mtx1 := [], sigs := [], thresholds := [], tenant := 0, waymask := [], staged := [],
           late := [], testing := false, appealing := true }

/-- SELF_TEST_DONE (R373): 2^22 station cycles after its start the self-test ends; a pass begins the appeal. -/
def execSelfTestDone (st : Nat) (pass : Bool) (s : State) : Out :=
  let x := s.station st
  if !x.testing then .next s
  else if s.clock (dieOf st) < x.appeals.getLastD 0 + 2 ^ 22 then .next s.wait
  else
    let s1 := s.record (clusterBank (clusterOf st)) deferred 0x0B (if pass then 1 else 2) (BitVec.ofNat 64 (rankOf st)) 0 0
    if pass then .next ((s1.clearAt (Config.poolAt st) (8192 * x.app1)).modStation st Station.cleared)
    else .next (s1.modStation st (fun y => { y with testing := false }))

/-- APPEAL_AGEING (R370): an appeal older than 4.32 × 10^12 cycles is no longer counted. -/
def execAppealAgeing (st : Nat) (s : State) : Out :=
  let x := s.station st
  let c := s.clock (dieOf st)
  if x.appeals.any (fun a => decide (a + 4320000000000 < c)) then
    .next (s.modStation st (fun y => { y with appeals := y.appeals.filter (fun a => !decide (a + 4320000000000 < c)) }))
  else if x.appeals.isEmpty then .next s
  else .next s.wait

/-- SHUT_FORCE (R363, R364, R370): the innkeeper orders the station to kill itself. -/
def execShutForce (st : Nat) (s : State) : Out := .next (s.stationKill st 4)

/-- SHUT_TEST (R370, R373, R374). -/
def execShutTest (st : Nat) (s : State) : Out := .next (s.shutTest st)

/-! ## Debugger and power (R34, R159, R311, R382) -/

/-- The holders of a station that a halt stops, or a resume starts. -/
def State.holdersIn (s : State) (st : Nat) (p : HolderState → Bool) : List Who :=
  (taskCores.map (fun c => ({ st := st, core := c } : Who))).filter (fun w => p (s.holder w).state)

/-- DEBUG_HALT (R34, R159, R355): issue stops; once every holder may be saved, the contexts are saved and the holders are
HALTED. -/
def execDebugHalt (st : Nat) (s : State) : Out :=
  let ws := s.holdersIn st (fun x => x == .run || x == .parked)
  if !(s.station st).halted then
    .next ((s.modStation st (fun x => { x with halted := true })).later (.debugHalt st))
  else if !ws.all s.saveReady then .next s.wait
  else .next (ws.foldl (fun t w => (t.saveContext w).modHolder w (fun h => { h with state := .halted ((s.holder w).state == .parked) })) s)

/-- DEBUG_RESUME (R99, R159): the contexts are restored, and every holder is in its state before the halt. -/
def execDebugResume (st : Nat) (s : State) : Out :=
  let ws := s.holdersIn st (fun x => match x with | .halted _ => true | _ => false)
  let s1 := ws.foldl (fun s w => (s.restoreContext w).modHolder w (fun h =>
    { h with state := match h.state with | .halted true => .parked | _ => .run })) s
  .next (s1.modStation st (fun x => { x with halted := false }))

/-- POWER_GATING (R311): a quiescent station's L1 gives up every line, and it is gated once the homes have cleared their
records. DESIGN CHOICE: a launch ends the gating. -/
def execPowerGating (st : Nat) (s : State) : Out :=
  if !s.quiescent st then .next s.wait
  else
    let s1 := (s.station st).l1.foldl (fun s l => s.evict st l) s
    if s1.owners.any (fun e => e.2 == st) then
      if (s.station st).l1.isEmpty then .next s.wait else .next (s1.later (.powerGating st))
    else .next (s1.modStation st (fun x => { x with gated := true }))

end Sys2Proof.Machine
end

