-- ==== Sys2Proof/Machine/Sync.lean ====
section
/-! DEFINITION. The synchronisation engine (R130, R171, R177 to R181, R187 to R190, R200 to R210): phasers at the issuing
station and at their home, the deque, graph-counter commands, task controls, thresholds, and effective priorities. -/
namespace Sys2Proof.Machine

/-! ## Effective priority (R171) -/

/-- Where a counter record lies in the model's memory (R166): bits [16:14] of the id name the die. -/
def counterAt (id : Nat) : Nat := Config.commonsAt (id / 16384 % 8) + Config.counterBase + 16 * (id % 16384)

/-- CPRI of a counter. -/
def State.cpri (s : State) (id : Nat) : Nat := bitsOf (s.wordAt (counterAt id + 8)) 58 56

/-- Whether a waiting phaser operation waits for its phase (R171). -/
def phWaits (w : PhWait) : Bool :=
  match w.op.cmd with
  | .wait => true
  | .sigw => w.signalled
  | _ => false

/-- The EP a holder's task takes from those that wait on phases it has not signalled (R171). -/
def State.phaserEp (s : State) (w : Who) (task : Word) : Nat :=
  (s.stations.map (fun e => (e.2.phasers.map (fun q =>
    if q.2.members.any (fun m => m.task == task && m.who == w && m.mode != 1 && m.cnt == q.2.phase) then
      (q.2.waiting.filter (fun x => phWaits x && x.op.task != task)).foldl (fun m x => Nat.max m (s.holder (s.worksFor x.op.who)).ep) 0
    else 0)).foldl Nat.max 0)).foldl Nat.max 0

/-- The EP of a holder's task: its class, its completion counter, the phases it holds up (R171). -/
def State.formEp (s : State) (w : Who) : Nat :=
  let h := s.holder w
  let c := match h.task.bind (·.cctr) with
    | some id => s.cpri id
    | none => 0
  Nat.max (Nat.max (s.prio h.cls) c) (s.phaserEp w h.taskid)

/-- The holders named are told to form their EP again, where it has changed. -/
def State.noticeEp (s : State) (ws : List Who) : State :=
  ws.foldl (fun s w => if (s.holder w).state != .free && s.formEp w != (s.holder w).ep then s.later (.epRaise (.holder w)) else s) s

/-- The signalling members of the phasers a task waits at. -/
def State.signallersFor (s : State) (task : Word) : List Who :=
  (s.stations.map (fun e => ((e.2.phasers.filter (fun q => q.2.waiting.any (fun x => x.op.task == task))).map (fun q =>
    (q.2.members.filter (fun m => m.mode != 1)).map (·.who))).flatten)).flatten

/-- EP_RAISE (R171): the records, slots and dispatchers that wait on a counter whose CPRI has risen, or one holder. -/
def execEpRaise (c : EpCause) (s : State) : Out :=
  match c with
  | .holder w =>
    let h := s.holder w
    let ep := s.formEp w
    if h.state = .free || ep = h.ep then .next s
    else .next ((s.setHolder w { h with ep := ep }).noticeEp (s.signallersFor h.taskid))
  | .counter id cpri =>
    let s1 := s.stations.foldl (fun s e =>
      let st := e.1
      let s2 := (e.2.mail.filter (fun r => !r.ret)).foldl (fun s r =>
        let w := wordOf (s.recordWords st r.idx) 11
        if w.getLsbD 60 && bitsOf w 59 43 == id then
          let ep := Nat.max (s.prio (hdrClass (wordOf (s.recordWords st r.idx) 0))) cpri
          s.writeAt (s.recordAt st r.idx + 88) (leBytes (setField w 63 61 ep).toNat 8)
        else s) s
      s2.noticeEp (taskCores.map (fun k => ({ st := st, core := k } : Who)))) s
    let raise (r : Ready) : Ready :=
      if r.cctr = some id then { r with ep := Nat.max (s.prio (hdrClass r.header)) cpri } else r
    .next { s1 with dies := s1.dies.map (fun d => (d.1, { d.2 with ready := d.2.ready.map raise, gangs := d.2.gangs.map raise })) }

/-! ## Phasers at the issuing station (R190, R200, R202) -/

/-- The fields of a phaser name (R200). -/
def nameRank (v : Word) : Nat := bitsOf v 44 32
def nameIdx (v : Word) : Nat := bitsOf v 5 0
def nameLegal (v : Word) : Bool := bitsOf v 63 45 == 0 && bitsOf v 31 6 == 0

/-- Whether a core may issue a SYNC command (R190), by its op8. -/
def syncAllowed (c : Core) (op : Nat) : Bool :=
  match c with
  | .loader | .storer => decide (op ≤ 11)
  | .keeper => op == 5 || op == 10 || op == 11
  | _ => true

/-- A SYNC command's issue: its sources, its destinations, whether the core may issue it (R190), then its own checks. -/
def State.sync (s : State) (op : Nat) (u : Uses) (body : State → Res (State × PcFlow)) : Out :=
  s.issue .store u (fun t => (need (syncAllowed s.cur.core op) (accessTrap (s.me.ir.setWidth 64))).bind (fun _ => body t))

/-- The membership of the holder's task in a phaser. -/
def State.membership (s : State) (w : Who) (v : Word) : Option Joined :=
  (s.holder (s.worksFor w)).phasers.find? (fun m => m.rank == nameRank v && m.idx == nameIdx v)

/-- A phaser command as it is sent. -/
def State.phaserOp (s : State) (w : Who) (cmd : PhaserCmd) (v : Word) : PhaserOp :=
  { cmd := cmd, who := w, task := (s.holder (s.worksFor w)).taskid, op := s.ops, home := 0, rank := nameRank v, idx := nameIdx v }

/-- Whether a phaser command must wait at issue: for a place in the hold queue (R199), or while 64 operations of the station
are queued in the phaser engine (R186). -/
def State.phaserMustWait (s : State) (st rank : Nat) : Bool :=
  s.rankFull st rank ||
  decide (64 ≤ (s.agenda.filter (fun t => match t.ev with | .phaserOpAtHome o => o.who.st == st | _ => false)).length)

/-- The checks that every phaser command of a member makes (R200), and what it waits for (R186, R199). -/
def State.checkPhaser (s : State) (w : Who) (v : Word) (member : Bool) (modes : List Nat) : Res Unit :=
  (need (nameLegal v) (engineTrap 1 0x20)).bind (fun _ =>
    (if member then
      match s.membership w v with
      | none => Res.trap (engineTrap 1 0x21)
      | some m => need (modes.contains m.mode) (engineTrap 1 0x23)
     else .go ()).bind (fun _ => await (!s.phaserMustWait w.st (nameRank v))))

/-- PJOIN (R190, R200 to R202): the slot issues nothing until its answer. -/
def execPjoin (a b : Reg) (ka kb : Bool) (s : State) : Out :=
  let v := s.valS s.cur a
  let mode := s.valS s.cur b
  s.sync 0 ⟨[(.s a, ka), (.s b, kb)], []⟩ (fun t =>
    (need (nameLegal v) (engineTrap 1 0x20)).bind (fun _ =>
      let h := t.holder (t.worksFor s.cur)
      let free := match h.task with | some i => decide (h.phasers.length < i.phn) | none => false
      (need ((t.membership s.cur v).isNone && decide (mode.toNat ≤ 2) && free && s.cur.core != .urgent) (engineTrap 1 0x22)).bind (fun _ =>
        (await (!t.phaserMustWait s.cur.st (nameRank v))).bind (fun _ =>
          let o := t.phaserOp s.cur (.join mode.toNat) v
          let t1 := t.addUnsettled s.cur .answer v false 1
          let t2 := t1.modHolder s.cur (fun k => { k with acquire := some t.ops })
          .go (t2.bump.sendPhaser o, .load)))))

/-- PLEAVE (R200, R202). The task is no member any more from its issue. -/
def execPleave (a : Reg) (ka : Bool) (s : State) : Out :=
  let v := s.valS s.cur a
  s.sync 1 ⟨[(.s a, ka)], []⟩ (fun t =>
    (t.checkPhaser s.cur v true [0, 1, 2]).bind (fun _ =>
      let o := t.phaserOp s.cur .leave v
      let t1 := t.modHolder (t.worksFor s.cur) (fun h =>
        { h with phasers := h.phasers.filter (fun m => !(m.rank == nameRank v && m.idx == nameIdx v)) })
      .go (t1.bump.sendPhaser o, .next)))

/-- PSIG (R200 to R202). -/
def execPsig (a : Reg) (ka : Bool) (s : State) : Out :=
  let v := s.valS s.cur a
  s.sync 2 ⟨[(.s a, ka)], []⟩ (fun t =>
    (t.checkPhaser s.cur v true [0, 2]).bind (fun _ => .go (t.bump.sendPhaser (t.phaserOp s.cur .sig v), .next)))

/-- A phaser command that returns a value (R189). -/
def State.phaserLoad (s : State) (op : Nat) (cmd : PhaserCmd) (a b : Reg) (ka member : Bool) (modes : List Nat) (k : LoadKind) : Out :=
  let v := s.valS s.cur a
  s.sync op ⟨[(.s a, ka)], [.s b]⟩ (fun t =>
    (t.checkPhaser s.cur v member modes).bind (fun _ =>
      .go ((t.addUnsettled s.cur k v false 1).bump.sendPhaser (t.phaserOp s.cur cmd v), .load)))

/-- PWAIT (R200 to R202). -/
def execPwait (a b : Reg) (ka : Bool) (s : State) : Out := s.phaserLoad 3 .wait a b ka true [1, 2] (.phaser b)
/-- PSIGW (R200 to R202). -/
def execPsigw (a b : Reg) (ka : Bool) (s : State) : Out := s.phaserLoad 4 .sigw a b ka true [0, 2] (.phaser b)
/-- PQRY (R200, R203). -/
def execPqry (a b : Reg) (ka : Bool) (s : State) : Out := s.phaserLoad 5 .qry a b ka false [] (.engine b false)

/-! ## Phasers at their home (R177 to R179, R201, R203) -/

def Phaser.reset : Phaser := { phase := 0, members := [], waiting := [] }

/-- A phaser of a station. -/
def Station.phaser (x : Station) (i : Nat) : Phaser := look Phaser.reset x.phasers i

/-- PHASE ≥ x as a signed 32-bit difference (R177). -/
def phaseGe (p x : BitVec 32) : Bool := decide (0 ≤ (p - x).toInt)

/-- A member is known by its task (R200). -/
def Phaser.member (p : Phaser) (task : Word) : Option PhMember := p.members.find? (fun m => m.task == task)
def Phaser.setMember (p : Phaser) (m : PhMember) : Phaser :=
  { p with members := p.members.map (fun k => if k.task == m.task then m else k) }

/-- The advance rule (R178). -/
def Phaser.advance (p : Phaser) : Phaser :=
  let sig := p.members.filter (fun m => m.mode != 1)
  if !sig.isEmpty && sig.all (fun m => m.cnt == p.phase + 1) then { p with phase := p.phase + 1 } else p

/-- What a phaser command's turn comes to. -/
inductive PhTurn where
  | waits
  | signalled (p : Phaser)
  | silent (p : Phaser)
  | value (p : Phaser) (v : Word)
  | refused
deriving Repr, Inhabited

/-- The snapshot of R203. -/
def Phaser.snapshot (p : Phaser) (task : Word) : Word :=
  let mode := match p.member task with | some m => m.mode | none => 3
  let done := (p.members.filter (fun m => m.mode != 1 && m.cnt == p.phase + 1)).length
  BitVec.ofNat 64 (mode * 2 ^ 48 + done * 2 ^ 40 + p.members.length * 2 ^ 32 + p.phase.toNat)

/-- One command's turn at its home (R201). `owner` is the holder of its task. -/
def Phaser.turn (p : Phaser) (w : PhWait) (owner : Who) : PhTurn :=
  let task := w.op.task
  let phase := p.phase.setWidth 64
  match w.op.cmd with
  | .join mode =>
    if 64 ≤ p.members.length then .refused
    else .silent { p with members := p.members ++ [{ who := owner, task := task, mode := mode, cnt := p.phase }] }
  | .qry => .value p (p.snapshot task)
  | cmd =>
    match p.member task with
    | none => .silent p
    | some m =>
      match cmd with
      | .leave =>
        let m1 := if m.mode != 1 && m.cnt == p.phase then { m with cnt := p.phase + 1 } else m
        let p1 := (p.setMember m1).advance
        .silent { p1 with members := p1.members.filter (fun k => k.task != task) }
      | .sig => if m.cnt = p.phase + 1 then .waits else .silent (p.setMember { m with cnt := m.cnt + 1 })
      | .sigw =>
        if w.signalled then (if phaseGe p.phase m.cnt then .value p phase else .waits)
        else if m.cnt = p.phase + 1 then .waits else .signalled (p.setMember { m with cnt := m.cnt + 1 })
      | _ =>
        if m.mode = 1 then
          (if phaseGe p.phase (m.cnt + 1) then .value (p.setMember { m with cnt := m.cnt + 1 }) phase else .waits)
        else if phaseGe p.phase m.cnt then .value p phase else .waits

/-- Whether a command that waits holds back the later ones of its member (R201): a signal not yet given. -/
def phaserHolds (w : PhWait) : Bool :=
  match w.op.cmd with
  | .sig => true
  | .sigw => !w.signalled
  | _ => false

/-- Replaces a phaser. -/
def State.setPhaser (s : State) (home idx : Nat) (p : Phaser) : State :=
  s.modStation home (fun x => { x with phasers := put idx p x.phasers })

/-- The waiting commands of a phaser are tried, oldest first, until one has its turn; `before` are those that wait. -/
def State.phaserStep (s : State) (home idx : Nat) (p : Phaser) (before : List PhWait) : List PhWait → Option State
  | [] => none
  | w :: r =>
    let o := w.op
    let rest := before ++ r
    if before.any (fun q => q.op.task == o.task && phaserHolds q) then s.phaserStep home idx p (before ++ [w]) r
    else
      match p.turn w (workOfTask o.who o.task) with
      | .waits => s.phaserStep home idx p (before ++ [w]) r
      | .signalled q =>
        some (s.setPhaser home idx { q.advance with waiting := before ++ [{ w with signalled := true }] ++ r })
      | .silent q =>
        let s1 := s.setPhaser home idx { q.advance with waiting := rest }
        match o.cmd with
        | .join mode =>
          some ((s1.modHolder (workOfTask o.who o.task) (fun h =>
            { h with phasers := h.phasers ++ [{ rank := o.rank, idx := o.idx, mode := mode }] })).partBack o.who o.op 0 [] none)
        | .sig | .leave => some s1
        | _ => some (s1.partBack o.who o.op 0 (leBytes p.phase.toNat 8) none)
      | .value q v => some ((s.setPhaser home idx { q.advance with waiting := rest }).partBack o.who o.op 0 (leBytes v.toNat 8) none)
      | .refused => some ((s.setPhaser home idx { p with waiting := rest }).partBack o.who o.op 0 [] (some (engineTrap 1 0x22)))

/-- The home retries until no waiting command can proceed (R201). -/
def State.phaserRun (home idx : Nat) : Nat → State → State
  | 0, s => s
  | n + 1, s =>
    let p := (s.station home).phaser idx
    match s.phaserStep home idx p [] p.waiting with
    | none => s
    | some t => State.phaserRun home idx n t

/-- The place of a phaser operation among those that arrive in one cycle (R201): source rank, then slot, the urgent bank last. -/
def phaserKey (o : PhaserOp) : Nat := 8 * rankOf o.who.st + (coreIx (workOfTask o.who o.task).core).val

/-- PHASER_OP_AT_HOME (R177 to R179, R201 to R203, R372): the command is sent once the stores before it are performed if
it is a release; it takes its turn at the home, or waits there. A join of a task that has ended joins nothing, and the leave of one withdraws
what of the task still waits there. -/
def execPhaserOpAtHome (o : PhaserOp) (s : State) : Out :=
  let release := match o.cmd with | .leave | .sig | .sigw => true | _ => false
  let join := match o.cmd with | .join _ => true | _ => false
  let key := phaserKey o
  let now := s.clock (dieOf o.home)
  let last := (s.station o.home).phLast
  if !o.sent then
    (if release && !s.storesDone (some (workOfTask o.who o.task, o.op)) then .next s.wait
     else .next (s.later (.phaserOpAtHome { o with sent := true })))
  else if 8192 ≤ o.home || (s.station o.home).shut || o.rank != rankOf o.home then .next (s.phaserReturned o)
  else if join && !s.phaserLive o then .next s
  else if last.1 == now && decide (key < last.2) then .next s.wait
  else
    let p0 := (s.station o.home).phaser o.idx
    let ended := (match o.cmd with | .leave => true | _ => false) && !s.phaserLive o
    let p : Phaser := if ended then { p0 with waiting := p0.waiting.filter (fun w => w.op.task != o.task) } else p0
    let s0 := s.modStation o.home (fun x => { x with phLast := (now, key) })
    let s1 := s0.setPhaser o.home o.idx { p with waiting := p.waiting ++ [{ op := o, signalled := false }] }
    let s2 := State.phaserRun o.home o.idx (2 * p.waiting.length + 2) s1
    .next (s2.noticeEp (p.members.map (·.who) ++ ((s2.station o.home).phaser o.idx).members.map (·.who)))

/-! ## The deque (R180, R204, R205) -/

/-- DQPUSH (R204): an entry at the bottom, which is the head of the list. -/
def execDqpush (a b : Reg) (ka kb : Bool) (s : State) : Out :=
  let start := s.valS s.cur a
  let n := s.valS s.cur b
  s.sync 6 ⟨[(.s a, ka), (.s b, kb)], []⟩ (fun t => (await (!t.dequeLate s.cur.st 0)).bind (fun _ =>
    (need (decide (1 ≤ n.toNat) && decide (n.toNat ≤ 2 ^ 24) && decide (bitsOf start 23 0 + n.toNat ≤ 2 ^ 24)) (engineTrap 1 0x24)).bind (fun _ =>
      (need (decide ((t.station s.cur.st).deque.length < 64)) (queueTrap 0)).bind (fun _ =>
        .go (t.modStation s.cur.st (fun x => { x with deque := (start, n.toNat) :: x.deque }), .next)))))

/-- DQPOP (R204). -/
def execDqpop (b : Reg) (s : State) : Out :=
  s.sync 7 ⟨[], [.s b, .s (b + 1)]⟩ (fun t => (await (!t.dequeLate s.cur.st 0)).bind (fun _ =>
    let d := (t.station s.cur.st).deque
    let e := d.headD (0#64, 0)
    let t1 := t.modStation s.cur.st (fun x => { x with deque := d.tail })
    .go (t1.answerNow s.cur (.engine b true) 0 (leBytes e.1.toNat 8 ++ leBytes e.2 8), .load)))

/-- DQSPLIT (R204). -/
def execDqsplit (a : Reg) (ka : Bool) (s : State) : Out :=
  let grain := s.valS s.cur a
  s.sync 8 ⟨[(.s a, ka)], []⟩ (fun t => (await (!t.dequeLate s.cur.st 0)).bind (fun _ =>
    .go (match (t.station s.cur.st).deque with
         | (j, n) :: r =>
           if 2 ≤ n && grain.toNat ≤ n / 2 && r.length + 1 < 64 then
             t.modStation s.cur.st (fun x =>
               { x with deque := (j, n / 2) :: (setField j 23 0 (bitsOf j 23 0 + n / 2), n - n / 2) :: r })
           else t
         | [] => t, .next)))

/-- DQSTEAL (R204, R205): of the station's own deque it is performed at once, in issue order. -/
def execDqsteal (a b : Reg) (ka : Bool) (s : State) : Out :=
  let r := s.valS s.cur a
  s.sync 9 ⟨[(.s a, ka)], [.s b, .s (b + 1)]⟩ (fun t =>
    (need (decide (r.toNat < 8192)) (engineTrap 1 0x09)).bind (fun _ =>
      let own := r.toNat = rankOf s.cur.st && (t.station s.cur.st).rankEntry r.toNat == BitVec.ofNat 16 s.cur.st
      (await (!t.rankFull s.cur.st r.toNat && !(own && t.dequeLate s.cur.st 0))).bind (fun _ =>
        let y : Steal := { thief := s.cur.st, rank := r.toNat, victim := s.cur.st, who := some (s.cur, t.ops),
                           task := (t.holder (t.worksFor s.cur)).taskid }
        if own then
          let (got, t1) := t.takeTop y
          .go (t1.answerNow s.cur (.engine b true) r (leBytes got.1.toNat 8 ++ leBytes got.2 8), .load)
        else .go ((t.addUnsettled s.cur (.engine b true) r false 1).bump.sendSteal y, .load))))

/-! ## Graph counters (R130, R206, R207) -/

/-- The rank that a decrement carries (R163). DESIGN CHOICE: an innkeeper's is the first station of its cluster. -/
def srcRankOf (w : Who) : Nat := if w.core = .keeper then rankOf (stationOfCluster (clusterOf w.st) 0) else rankOf w.st

/-- GDEC (R130, R206). -/
def execGdec (a : Reg) (ka : Bool) (s : State) : Out :=
  let v := s.valS s.cur a
  s.sync 10 ⟨[(.s a, ka)], []⟩ (fun t =>
    (need (bitsOf v 63 17 == 0) (engineTrap 1 0x25)).bind (fun _ =>
      .go ((t.later (.counterDecrement (bitsOf v 16 0) false (srcRankOf s.cur)
        (some { who := t.worksFor s.cur, op := t.ops }))).bump, .next)))

/-- GARM (R207). -/
def execGarm (a b : Reg) (ka kb : Bool) (s : State) : Out :=
  let v := s.valS s.cur a
  let c := s.valS s.cur b
  s.sync 11 ⟨[(.s a, ka), (.s b, kb)], []⟩ (fun t =>
    (need (bitsOf v 63 45 == 0 && bitsOf v 30 17 != 0 && bitsOf c 31 0 != 0) (engineTrap 1 0x25)).bind (fun _ =>
      .go ((t.later (.garmAtHome (bitsOf v 16 0) (bitsOf c 31 0) (bitsOf c 63 32) (bitsOf v 30 17) (bitsOf v 44 31) (srcRankOf s.cur)
        (some { who := t.worksFor s.cur, op := t.ops }))).bump, .next)))

/-! ## Task controls and thresholds (R208 to R210) -/

/-- TDEAD (R208, R172). -/
def execTdead (a : Reg) (ka : Bool) (s : State) : Out :=
  let v := s.valS s.cur a
  s.sync 12 ⟨[(.s a, ka)], []⟩ (fun t =>
    let d := if v.toNat < t.me.deadl.toNat then v else t.me.deadl
    let t1 := t.modHolder s.cur (fun h => { h with deadl := d })
    if d.toNat ≤ t.now then .go (t1.deadlineKill s.cur, .stay)
    else if d = noDeadline then .go (t1, .next)
    else .go (t1.laterAt d.toNat (.deadlineExpiry s.cur t.me.taskid), .next))

/-- TCLASS (R171, R209): the new EP goes to the signalling members of the phases that the task's loader or storer waits on. -/
def execTclass (a : Reg) (ka : Bool) (s : State) : Out :=
  let v := s.valS s.cur a
  s.sync 13 ⟨[(.s a, ka)], []⟩ (fun t =>
    (need (decide (v.toNat < 16)) (engineTrap 1 0x26)).bind (fun _ =>
      let t1 := t.modHolder s.cur (fun h => { h with cls := v.toNat })
      let t2 := t1.modHolder s.cur (fun h => { h with ep := t1.formEp s.cur })
      .go (t2.noticeEp (t2.signallersFor t2.me.taskid), .next)))

/-- THRBIND (R210). -/
def execThrbind (a b : Reg) (ka kb : Bool) (s : State) : Out :=
  let n := s.valS s.cur a
  let v := s.valS s.cur b
  s.sync 14 ⟨[(.s a, ka), (.s b, kb)], []⟩ (fun t =>
    (need (decide (n.toNat < 32) && bitsOf v 63 14 == 0 && bitsOf v 7 0 != 255) (engineTrap 1 0x27)).bind (fun _ =>
      let b := if v.getLsbD 13 then some (v.getLsbD 12, bitsOf v 11 8, bitsOf v 7 0) else none
      .go (t.modStation s.cur.st (fun x =>
        { x with thresholds := put n.toNat { x.thr n.toNat with bound := b } x.thresholds }), .next)))

end Sys2Proof.Machine
end

