-- ==== Sys2Proof/Machine/Engines.lean ====
section
/-! DEFINITION. What the engines share: how a command reads and writes memory line by line (R213, R221, R236, R241, R267),
its retries (R323), its record where a write fails (R267), and the checks and the wait at issue (R266). -/
namespace Sys2Proof.Machine

/-- Where one line's part of an engine access lies: in the model's memory, in a control window; or why it cannot be
performed: its translation faults, or is held up, or a port has not answered it (R321, R435), or its target refuses it with a cause
of R350. -/
inductive Ref where
  | mem (a : Nat)
  | window (st off : Nat)
  | fault
  | heldUp
  | silent
  | refused (cause : Nat)
deriving DecidableEq, Repr, Inhabited

/-- One line's part of an engine access: where it lies, its address, its length, its place in the data, whether it writes. -/
structure Piece where
  ref : Ref
  addr : Nat
  len : Nat
  off : Nat
  write : Bool
deriving DecidableEq, Repr, Inhabited

/-- Whether a part cannot be performed yet: it parks at its slice, or a port's answer is outstanding. -/
def Piece.parks (p : Piece) : Bool := p.ref == .fault || p.ref == .heldUp || p.ref == .silent

/-! ## Places (R221, R303) -/

/-- A place of a pool as an engine reaches it. -/
def State.poolRef (s : State) (st op off n : Nat) (write : Bool) : Ref :=
  let x := s.station st
  if x.hiddenFor op off n write then .refused 0x04
  else .mem (Config.poolAt st + (if write then x.shadowOf op off else off))

/-! ## Lines (R236, R317, R323) -/

/-- A far line as an engine reaches it; none while something must be waited for: a page under migration, a recall on its
way, a host that does not answer. -/
def State.farRef (s : State) (acc : Access) (k : PartKind) (afresh : Bool) (a : Nat) : Option (Ref × State) :=
  let va := a % 2 ^ 52
  match s.blockedBy acc.asn va with
  | some _ => none
  | none =>
    match s.recallWalk acc.asn va afresh with
    | none => none
    | some t =>
      match t.translateAt k acc.asn va afresh with
      | (.leaf e, u) =>
        let pa := leafPa e va
        if isHostPa pa then (if u.answers pa then some (.mem (Config.physAt pa), u) else none)
        else if !u.answers pa then some (.silent, u)
        else (u.recallOwner (pa / 128)).map (fun v => (.mem (Config.physAt pa), v.sliceTouch pa acc.cls))
      | (.fault, u) => some (.fault, u)
      | (.silent, u) => some (.silent, u)
      | (.blocked, u) => some (.heldUp, u)

/-- One line's part of an engine access (R221, R303, R304). -/
def State.engRef (s : State) (acc : Access) (k : PartKind) (afresh : Bool) (a n : Nat) : Option (Ref × State) :=
  let write := match k with | .store => true | _ => false
  match s.regionOf acc.who a with
  | none | some .slices => some (.refused 0x04, s)
  | some .far => s.farRef acc k afresh a
  | some .control =>
    match s.placeOf acc.who a with
    | .stationWindow st off =>
      if off < 0x60000 then some (.mem (Config.poolAt st + off), s)
      else if write && (span 0x100 16).any (fun r => decide (off < 0x70000 + 8 * r + 8) && decide (0x70000 + 8 * r < off + n) &&
          s.bankBusy (clusterOf st) (r - 0x100) acc.op) then none
      else some (.window st off, s)
    | _ => some (.refused 0x04, s)
  | some (.remote rank) =>
    let e := (s.station acc.who.st).rankEntry rank
    let away := (s.remoteRank acc.who a).isSome
    match s.placeOf acc.who a with
    | .pool st off =>
      let x := s.station st
      if away && rankTransit e then none
      else if away && (rankShut e || x.shut || rank != rankOf st) then some (.refused 0x0F, s)
      else if !(decide (x.app1 * 8192 ≤ off) && decide (off + n ≤ x.app2 * 8192)) then some (.refused 0x04, s)
      else some (s.poolRef st acc.op off n write, s)
    | _ => some (.refused 0x04, s)
  | some _ =>
    match s.placeOf acc.who a with
    | .pool st off => some (s.poolRef st acc.op off n write, s)
    | p => some (.mem (placeAt p 0), s)

/-- Parts of an engine access, each with its address, length and place; none while one of them must be waited for. -/
def State.engLines (s : State) (acc : Access) (k : PartKind) (afresh : Bool) (ls : List (Nat × Nat × Nat)) : Option (List Piece × State) :=
  ls.foldl (fun r e => r.bind (fun (l, t) =>
    (t.engRef acc k afresh e.1 e.2.1).map (fun (q, u) =>
      (l ++ [{ ref := q, addr := e.1, len := e.2.1, off := e.2.2, write := k == .store }], u)))) (some ([], s))

/-- The parts of an engine access, line by line. -/
def State.engPieces (s : State) (acc : Access) (k : PartKind) (afresh : Bool) (a n : Nat) : Option (List Piece × State) :=
  s.engLines acc k afresh (linePieces a n)

/-- The bytes of a control window's register range. -/
def State.windowBytes (s : State) (st off n : Nat) : List Byte :=
  (List.range n).map (fun i => BitVec.ofNat 8 ((s.windowWord st ((off + i) / 8 * 8)).toNat / 2 ^ (8 * ((off + i) % 8))))

/-- What an engine reads. -/
def State.engBytes (s : State) (ps : List Piece) : List EByte :=
  (ps.map (fun p => match p.ref with
    | .mem a =>
      let bad := s.poisonedAt a 1
      (s.readAt a p.len).map (fun b => ({ b := b, poison := bad, arrived := true } : EByte))
    | .window st off => (s.windowBytes st off p.len).map (fun b => ({ b := b, poison := false, arrived := true } : EByte))
    | _ => List.replicate p.len { b := 0, poison := true, arrived := false })).flatten

/-- The addresses of the lines a read could not take: poisoned, unreadable or refused. -/
def State.badLines (s : State) (ps : List Piece) : List Nat :=
  ps.filterMap (fun p =>
    let bad := match p.ref with
      | .mem a => s.poisonedAt a 1
      | .window _ _ => false
      | _ => true
    if bad then some (p.addr / 128 * 128) else none)

/-- The record of an engine's write that is not performed, or of a copy's source line that cannot be read (R236, R267).
DESIGN CHOICE: a copy's record has SUBCODE 0, and the cause of R350 in SYNDROME. -/
def State.engRecord (s : State) (acc : Access) (addr cause : Nat) : State :=
  s.record (homeBank acc.who.st) deferred (if acc.eng = 2 then 0x05 else 0x04)
    (match acc.eng with | 3 => 0x6E | 4 => 0x8E | 5 => 0xCE | _ => 0) (BitVec.ofNat 64 addr) (BitVec.ofNat 64 cause) acc.task

/-- A control window's range written, a doubleword at a time. -/
def State.writeWindowBytes (s : State) (acc : Access) (st off : Nat) (bs : List Byte) : State :=
  (blocks 8 off bs.length).foldl (fun t w =>
    let lo := Nat.max off (8 * w)
    let hi := Nat.min (off + bs.length) (8 * w + 8)
    let v := t.windowMerge st lo ((bs.drop (lo - off)).take (hi - lo))
    match t.writeWindowWord st (8 * w) v with
    | .ok u => u
    | .held u => u.setBfmt (clusterOf st) (w - 0xE100) v
    | _ => t.engRecord acc lo 0x04) s

/-- A write of an engine other than a copy's of which a part is not performed leaves one record, with the address where
it fails first (R267). -/
def State.engWriteFailed (s : State) (acc : Access) (ps : List Piece) : State :=
  match ps.find? (fun p => match p.ref with | .fault | .heldUp | .silent | .refused _ => true | _ => false) with
  | some p => s.engRecord acc p.addr (match p.ref with | .refused c => c | _ => 0x05)
  | none => s

/-- What an engine writes: the bytes that arrived; a line that was to receive a poisoned byte is poisoned, and any other
is cleared of poison where `whole` tells that all its bytes are written (R36, R236). The model's lines that were poisoned
come with it. -/
def State.engPut (s : State) (acc : Access) (ps : List Piece) (data : List EByte) (whole : Nat → Nat → Bool) : State × List Nat :=
  ps.foldl (fun (t, ghosts) p =>
    let d := (data.drop p.off).take p.len
    match p.ref with
    | .mem a =>
      let m := (d.zipIdx).foldl (fun m e => if e.1.arrived then memPut (a + e.2) e.1.b m else m) t.mem
      let u : State := { t with mem := m }
      let l := a / Config.lineSize
      if d.any (fun e => e.poison) then ({ u with poison := setIns l u.poison }, ghosts ++ [l])
      else if p.len = 128 || whole (p.addr / 128) l then ({ u with poison := setDel l u.poison }, ghosts)
      else (u, ghosts)
    | .window st off => (t.writeWindowBytes acc st off (d.map (fun e => e.b)), ghosts)
    | .fault | .heldUp | .silent => (if acc.eng = 2 then t.engRecord acc (p.addr / 128 * 128) 0x05 else t, ghosts)
    | .refused c => (if acc.eng = 2 then t.engRecord acc (p.addr / 128 * 128) c else t, ghosts))
    (if acc.eng = 2 then s else s.engWriteFailed acc ps, [])

/-- A line is never written whole beside the piece itself. -/
def notWhole (_ _ : Nat) : Bool := false

/-- Bytes that arrived clean. -/
def cleanBytes (bs : List Byte) : List EByte := bs.map (fun b => { b := b, poison := false, arrived := true })

/-- The same, all marked as derived from poison where `bad` holds. -/
def markBytes (bad : Bool) (bs : List Byte) : List EByte := bs.map (fun b => { b := b, poison := bad, arrived := true })

/-- Whether a command's next attempt is still ahead. -/
def retryAhead (now : Nat) (retry : Option LineRetry) : Bool := match retry with | some r => decide (now < r.at_) | none => false

/-- Since when a part's port or link has owed its answer. -/
def LineRetry.askedAt (r : LineRetry) (now : Nat) (p : Piece) : Nat := (r.asked.find? (fun e => e.1 == p.addr)).elim now (·.2)

/-- Whether the answer of a port or link to a part is still awaited: 4,096 cycles have not passed (R321, R435). -/
def LineRetry.awaits (r : LineRetry) (now : Nat) (p : Piece) : Bool := p.ref == .silent && decide (now < r.askedAt now p + 4096)

/-- Parts of a command that cannot be performed: each sends a notice at its first fault (R327), and those that park are counted once
(R175); those whose port has not answered park when 4,096 cycles have passed. With the state comes the next attempt; none where
nothing parks or waits, or no retry is left. DESIGN CHOICE: the parts of a command are tried again together (log entry 150). -/
def State.engFault (s : State) (acc : Access) (ps : List Piece) (retry : Option LineRetry) : State × Option LineRetry :=
  let bad := ps.filter Piece.parks
  let r := retry.getD { attempt := 0, at_ := 0, lines := [] }
  let open_ := bad.filter (r.awaits s.now)
  let parked := bad.filter (fun p => !r.awaits s.now p)
  let fresh := (parked.map (fun p => p.addr)).filter (fun a => !r.lines.contains a)
  let faults := parked.filter (fun p => p.ref == .fault && !r.faulted.contains p.addr)
  let s1 := faults.foldl (fun t p => t.faultNotice acc (if p.write then .store else .load) (p.addr % 2 ^ 52)) s
  let left := decide (r.attempt < acc.tries)
  let s2 := if left && !fresh.isEmpty && acc.who.st < 8192 then s1.countEvent acc.who.st 0x30 fresh.length else s1
  let next : LineRetry := { r with
    lines := r.lines ++ fresh, faulted := r.faulted ++ faults.map (fun p => p.addr), asked := open_.map (fun p => (p.addr, r.askedAt s.now p)) }
  if !parked.isEmpty && left then
    (s2, some { next with attempt := r.attempt + 1, at_ := s.now + retryAfter (r.attempt + 1) acc.ceil })
  else if open_.isEmpty then (s2, none)
  else (s2, some { next with at_ := open_.foldl (fun m p => Nat.min m (r.askedAt s.now p + 4096)) (s.now + 4096) })

/-! ## Issue (R266) -/

/-- The access an engine command makes. -/
def State.engAccess (s : State) (w : Who) (eng : Nat) : Access := s.accessOf w s.ops (s.holder w).pc eng

/-- Whether what a core issued for a task is the work of the slot that a holder works for (R37, R213). -/
def State.sameWork (s : State) (who : Who) (task : Word) (w : Who) : Bool := workOfTask who task == s.worksFor w

/-- A check with an ENGINE subcode that must not fail. -/
def noFault (eng : Nat) (sub : Option Nat) : Res Unit :=
  match sub with
  | some n => .trap (engineTrap eng n)
  | none => .go ()

/-! ## Plane banks as operands of engines (R214, R305) -/

/-- A plane bank named by an address in it: cluster, bank, format, offset in the bank. -/
def State.planeEnd (s : State) (w : Who) (a : Nat) : Option (Nat × Nat × BankFmt × Nat) :=
  match s.regionOf w a with
  | some (.spad _) => s.bankOf (s.placeOf w a)
  | _ => none

/-- Whether a range touches a plane bank. -/
def State.touchesPlane (s : State) (w : Who) (a n : Nat) : Bool :=
  (s.planeEnd w a).isSome || (s.planeEnd w (a + n - 1)).isSome

/-- Whether a bank's copies move along K: an A bank, or a B bank in column mode (R271). -/
def alongK (f : BankFmt) : Bool := !f.b || codeScaled f.fmt

/-- Whether the lines that hold a group's planes are poisoned (R453). -/
def State.groupPoisoned (s : State) (cl bank : Nat) (f : BankFmt) (ix : Nat) : Bool :=
  s.poisonedAt (planeAt cl bank f ix 0) (4 * f.p)

/-- The group an engine reads: a NaN group where its lines are poisoned (R453). -/
def State.engGroup (s : State) (cl bank : Nat) (f : BankFmt) (ix : Nat) : PlaneGroup × Bool :=
  let g := s.groupAt cl bank f ix
  if s.groupPoisoned cl bank f ix then ({ g with nan := true }, true) else (g, false)

/-- The near address of a scratchpad's line, as records give it (R303). -/
def spadLineAddr (l : Nat) : Nat := 0x40000000 + (l * Config.lineSize - Config.spadAt 0)

/-- A group whose data is lost (R236): a NaN group, and the lines of its planes are poisoned. -/
def State.loseGroup (s : State) (cl bank : Nat) (f : BankFmt) (ix : Nat) : State × List Nat :=
  let g : PlaneGroup := { q := List.replicate 32 0, e := groupLo f.fmt 127, nan := true, flags := 0 }
  let a := planeAt cl bank f ix 0
  ((s.putGroup cl bank f ix g).poisonAt a (4 * f.p), blocks Config.lineSize a (4 * f.p))

/-- A group placed where its data is whole; its lines are cleared of poison where `covered` tells that the command has
written every group of the line. -/
def State.placeClean (s : State) (cl bank : Nat) (f : BankFmt) (ix : Nat) (g : PlaneGroup) (covered : Nat → Bool) : State :=
  let s1 := s.putGroup cl bank f ix g
  { s1 with poison := s1.poison.filter (fun l =>
      !((blocks Config.lineSize (planeAt cl bank f ix 0) (4 * f.p)).contains l && covered l)) }

/-- The groups whose planes share a line of a bank. -/
def groupsOfLine (cl bank : Nat) (f : BankFmt) (l : Nat) : List Nat :=
  let base := planeAt cl bank f 0 0
  let lo := l * Config.lineSize - base
  let hi := (l + 1) * Config.lineSize - base
  span (lo / (4 * f.p)) ((hi + 4 * f.p - 1) / (4 * f.p) - lo / (4 * f.p))

/-- Bits of packed elements as bytes. -/
def packBytes (b : Nat) (xs : List Nat) : List Byte := leBytes (packNat b xs) (ceilDiv (xs.length * b) 8)

/-- Values packed in a format (R119, R121, R232): the elements, then one scale byte for each 32 in a block-scaled
format. -/
def packRow (fmt : Nat) (xs : List Value) : List Byte :=
  let b := codeBits fmt
  if codeScaled fmt then
    let blocks := (List.range (xs.length / 32)).map (fun j => encodeBlock fmt .rne ((xs.drop (32 * j)).take 32))
    packBytes b (blocks.map (fun e => e.1)).flatten ++ blocks.map (fun e => BitVec.ofNat 8 e.2.1)
  else packBytes b (xs.map (fun x => (encodeElem fmt .rne x).1))

/-- Which bytes of a packed row of a format come from its elements that are marked. -/
def packMarks (fmt : Nat) (marks : List Bool) : List Bool :=
  let b := codeBits fmt
  let n := ceilDiv (marks.length * b) 8
  let data := (List.range n).map (fun i => (List.range marks.length).any (fun k =>
    marks.getD k false && decide (k * b < 8 * i + 8) && decide (8 * i < k * b + b)))
  if codeScaled fmt then data ++ (List.range (marks.length / 32)).map (fun j => ((marks.drop (32 * j)).take 32).any id) else data

/-- A group of 32 values rounded to a bank's format and placed (R142, R231): the values and the scale byte go through the
format's packed form. -/
def placeValues (f : BankFmt) (xs : List Value) : PlaneGroup :=
  if codeScaled f.fmt then
    let (es, x, _) := encodeBlock f.fmt .rne xs
    place f.fmt f.p x (es.map (fun e => withScale x (decodeElem f.fmt e)))
  else place f.fmt f.p 127 (xs.map (fun v => decodeElem f.fmt (encodeElem f.fmt .rne v).1))

end Sys2Proof.Machine
end

