-- ==== Sys2Proof/Machine/Relay.lean ====
section
/-! DEFINITION. Relay collectives (R146, R375, R433, R434): their start when a descriptor's copy completes, step frames,
acknowledgements, retries and failure. DESIGN CHOICE: the spec leaves the schedule of steps to the relay protocol; in the model a
module sends its own contribution in one step, and receives one frame from every other member (of a broadcast, from the
sender). What the other modules do arrives as steps of the agenda. -/
namespace Sys2Proof.Machine

/-- The fields of a descriptor (R434). -/
def Collective.op (c : Collective) : Nat := bitsOf (c.words.getD 0 0) 63 60
def Collective.fmt (c : Collective) : Nat := bitsOf (c.words.getD 0 0) 59 55
def Collective.retries (c : Collective) : Nat := bitsOf (c.words.getD 0 0) 39 32
def Collective.members (c : Collective) : Nat := bitsOf (c.words.getD 0 0) 31 0
def Collective.source (c : Collective) : Nat := (c.words.getD 1 0).toNat
def Collective.dest (c : Collective) : Nat := (c.words.getD 2 0).toNat
def Collective.bytes (c : Collective) : Nat := (c.words.getD 3 0).toNat
def Collective.counter (c : Collective) : Nat := bitsOf (c.words.getD 6 0) 16 0

/-- The link a step uses: the lowest of the primary route, or of the alternate one from the second retry on (R375). -/
def Collective.link (c : Collective) : Nat :=
  let alt := c.words.getD 5 0
  let route := if 2 ≤ c.tries && alt != 0 then alt else c.words.getD 4 0
  ((List.range 16).find? (fun i => route.getLsbD i)).getD 0

/-- How many bytes a collective writes. -/
def Collective.span (c : Collective) : Nat := if c.op = 2 then c.members * c.bytes else c.bytes

/-- Whether `n` bytes from an address lie in the addressable half of a buffer window (R221, R241). -/
def State.inWindow (s : State) (w : Who) (a n : Nat) : Bool :=
  match s.placeOf w a with
  | .pool st off => (s.station st).windows.any (fun b => b.live && decide (b.base ≤ off) && decide (off + n ≤ b.base + b.len))
  | _ => false

/-- Whether a descriptor names a collective (R434). -/
def State.collectiveLegal (s : State) (c : Collective) : Bool :=
  decide (c.op ≤ 2) && bitsOf (c.words.getD 0 0) 54 40 == 0 && decide (2 ≤ c.members) && decide (c.members ≤ 16384) &&
  decide (c.retries ≤ 15) && (c.words.drop 7).all (· == 0) && s.inWindow c.acc.who c.dest c.span

def State.collective (s : State) (die desc : Nat) : Option Collective := (s.die die).collectives.find? (fun c => c.desc == desc)

def State.setCollective (s : State) (die : Nat) (c : Collective) : State :=
  s.modDie die (fun d => { d with collectives := d.collectives.map (fun k => if k.desc == c.desc then c else k) })

def State.endCollective (s : State) (die desc : Nat) : State :=
  s.modDie die (fun d => { d with collectives := d.collectives.filter (fun k => k.desc != desc) })

/-- Whether a commons offset lies in the relay area. -/
def inRelayArea (off : Nat) : Bool := decide (Config.relayBase ≤ off) && decide (off < Config.relayEnd)

/-- RELAY_COLLECTIVE_START (R434): the descriptor at an offset of a die's commons is captured, and the source bytes are
kept. None while the source must be waited for. -/
def State.startCollective (s : State) (die off : Nat) (acc : Access) : Option State :=
  let words := (List.range 16).map (fun k => s.wordAt (Config.commonsAt die + off + 8 * k))
  let c : Collective := { desc := off, words := words, acked := false, sentAt := s.now, tries := 0, kept := [],
                          acc := { acc with who := { st := 1024 * die, core := .slot0 }, eng := 8 }, got := [] }
  if !s.collectiveLegal c then some s
  else
    (s.engPieces c.acc .load false c.source c.bytes).map (fun (ps, t) =>
      let kept := (t.engBytes ps).map (fun e => e.b)
      let u := t.endCollective die off
      (u.modDie die (fun d => { d with collectives := d.collectives ++ [{ c with kept := kept }] })).laterAt (s.now + 65536)
        (.relayAckTimeout die off 0))

/-- The elements of a packed buffer in a format (R119). -/
def relayValues (fmt : Nat) (bs : List Byte) : List Value :=
  if codeScaled fmt then
    let n := bs.length / (4 * codeBits fmt + 1)
    let data := bs.take (4 * codeBits fmt * n)
    unpack fmt 0 (leNat data) (fun j => ((bs.drop (4 * codeBits fmt * n)).getD j 0).toNat) (32 * n)
  else unpack fmt 0 (leNat bs) (fun _ => 127) (bs.length * 8 / codeBits fmt)

/-- Two contributions added in the collective's format, with one rounding (R146). -/
def relayAdd (fmt : Nat) (x y : List Byte) : List Byte :=
  packRow fmt (((relayValues fmt x).zip (relayValues fmt y)).map (fun e => (fAdd .rne e.1 e.2).1))

/-- The contributions in ascending member index; this module's stands at the one index that no frame names. -/
def Collective.inOrder (c : Collective) : List (List Byte) :=
  (List.range c.members).map (fun i => match c.got.find? (fun f => f.member == i) with
    | some f => f.data
    | none => c.kept)

/-- Writes of the relay unit reach a window's shadow half (R241). -/
def State.relayWrite (s : State) (c : Collective) (a : Nat) (bs : List Byte) : Option State :=
  (s.engPieces c.acc .store false a bs.length).map (fun (ps, t) => (t.engPut c.acc ps (cleanBytes bs) notWhole).1)

/-- Whether everything has arrived and been acknowledged. -/
def Collective.done (c : Collective) : Bool :=
  if c.op = 0 then c.acked || !c.got.isEmpty else c.acked && decide (c.members ≤ c.got.length + 1)

/-- A collective that is done writes what is left to write and decrements its completion counter (R166, R434). -/
def State.finishCollective (s : State) (die : Nat) (c : Collective) : Option State :=
  if !c.done then some s
  else
    let last := match c.op with
      | 1 =>
        let all := c.inOrder
        s.relayWrite c c.dest ((all.drop 1).foldl (relayAdd c.fmt) (all.headD []))
      | 2 =>
        let mine := ((List.range c.members).find? (fun i => !c.got.any (fun f => f.member == i))).getD 0
        s.relayWrite c (c.dest + mine * c.bytes) c.kept
      | _ => some s
    last.map (fun t => (t.endCollective die c.desc).decrement c.counter false (rankOf (1024 * die)))

/-- RELAY_STEP_RECEIVED (R146, R375, R434): a frame is received whole; a repeated one is dropped. -/
def execRelayStepReceived (f : RelayFrame) (s : State) : Out :=
  match s.collective f.die f.desc with
  | none => .next s.wait
  | some c =>
    if c.got.any (fun g => g.member == f.member) then .next s
    else
      let c1 := { c with got := c.got ++ [f] }
      let landed := match c.op with
        | 0 => s.relayWrite c c.dest f.data
        | 2 => s.relayWrite c (c.dest + f.member * c.bytes) f.data
        | _ => some s
      match landed.bind (fun t => (t.setCollective f.die c1).finishCollective f.die c1) with
      | some u => .next u
      | none => .next s.wait

/-- A failed step (R375): it is sent again from the kept buffers, or the collective fails. -/
def State.relayFails (s : State) (die : Nat) (c : Collective) : State :=
  if c.tries < c.retries then
    let c1 := { c with tries := c.tries + 1, sentAt := s.now }
    ((s.record (linkBank c1.link) corrected 0x0D 0 0 0 0).setCollective die c1).laterAt (s.now + 65536)
      (.relayAckTimeout die c.desc 0)
  else
    ((s.record (linkBank c.link) deferred 0x0E 0 0 0 0).endCollective die c.desc).decrement c.counter true (rankOf (1024 * die))

/-- RELAY_STEP_FAIL (R375): the receiver reports a check failure, or the link reports itself down. -/
def execRelayStepFail (die desc _step : Nat) (s : State) : Out :=
  match s.collective die desc with
  | some c => .next (if c.acked then s else s.relayFails die c)
  | none => .next s

/-- RELAY_ACK_TIMEOUT (R375): no acknowledgement within 65,536 cycles of the last sending. -/
def execRelayAckTimeout (die desc _step : Nat) (s : State) : Out :=
  match s.collective die desc with
  | some c => .next (if c.acked || decide (s.now < c.sentAt + 65536) then s else s.relayFails die c)
  | none => .next s

/-- RELAY_STEP_ACKNOWLEDGED (R375): the kept buffers of the step are released once nothing needs them. -/
def execRelayStepAcknowledged (die desc _step : Nat) (s : State) : Out :=
  match s.collective die desc with
  | none => .next s
  | some c =>
    let c1 := { c with acked := true }
    match (s.setCollective die c1).finishCollective die c1 with
    | some u => .next u
    | none => .next s.wait

/-- LINK_FLIT_RESEND (R433): a flit that fails its check is sent again at the link, with a corrected record. -/
def execLinkFlitResend (link : Nat) (s : State) : Out := .next (s.record (linkBank link) corrected 0x0D 0 0 0 0)

end Sys2Proof.Machine
end

