-- ==== Sys2Proof/Machine/Copies.lean ====
section
/-! DEFINITION. The COPY engine (R212 to R215, R221, R230 to R236, R241, R242, R265 to R278): copies, their performance unit by
unit, completion and notifications, buffer windows and PUBLISH. -/
namespace Sys2Proof.Machine

/-! ## Geometry -/

/-- The elements of a packed row of a format, if its length holds whole ones (R232, R270). -/
def rowElems (fmt len : Nat) : Option Nat :=
  let b := codeBits fmt
  if codeScaled fmt then (if len % (4 * b + 1) = 0 then some (32 * (len / (4 * b + 1))) else none)
  else if 8 * len % b = 0 then some (8 * len / b) else none

/-- The address of a row. -/
def rowAt (base : Word) (stride : Word) (i : Nat) : Nat := (base + BitVec.ofNat 64 i * stride).toNat

/-- The format that LEN counts bytes of (R231): the source's, else the destination's. -/
def lenFmt (src dst : Option (Nat × Nat × BankFmt × Nat)) : Option Nat :=
  match src, dst with
  | some (_, _, f, _), _ => some f.fmt
  | none, some (_, _, f, _) => some f.fmt
  | none, none => none

/-- Whether a copy between two banks moves planes, exponents and NaN marks unchanged (R231). DEDUCED: only where a row means
the same groups at both ends. -/
def verbatim (f g : BankFmt) : Bool := f.fmt == g.fmt && f.p == g.p && alongK f == alongK g

/-- Whether ROWS fits a plane end (R270 0x43). -/
def rowsFit (f : BankFmt) (rows : Nat) : Bool :=
  if !f.b then decide (rows ≤ 64)
  else if codeScaled f.fmt then rows % 32 == 0 && decide (rows ≤ 128) && decide (rows ≤ kmax f)
  else rows % 32 == 0 && decide (rows ≤ kmax f)

/-- Whether a row's elements fit a plane end (R270 0x44). -/
def elemsFit (f : BankFmt) (m : Nat) : Bool := if alongK f then decide (m ≤ kmax f) else decide (m ≤ 128)

/-- The range bound by MBIND that a pool address of the station lies in (R195). -/
def State.boundRange (s : State) (w : Who) (a : Nat) : Option MailBinding :=
  match s.regionOf w a, s.placeOf w a with
  | some .mailbox, .pool _ off => (s.station w.st).bindings.find? (fun b => decide (b.lo ≤ off) && decide (off < b.lo + 128 * b.n))
  | _, _ => none

/-- Whether a copy's destination begins in a range bound by MBIND and ends outside it (R233): a row leaves the range. -/
def State.leavesRange (s : State) (w : Who) (r : CopySet) (dst : Word) : Bool :=
  match s.boundRange w dst.toNat with
  | none => false
  | some b => (List.range r.rows).any (fun i =>
      match s.placeOf w (rowAt dst r.dstr i) with
      | .pool st o => st != w.st || !(decide (b.lo ≤ o) && decide (o + r.len ≤ b.lo + 128 * b.n))
      | _ => true)

/-- The first check of R270 that fails, in the order of its table. -/
def State.copyFault (s : State) (w : Who) (k : CopyKind) (r : CopySet) (src dst : Word) : Option Nat :=
  let sp := s.planeEnd w src.toNat
  let dp := s.planeEnd w dst.toNat
  let rows := List.range r.rows
  let plainSrc := sp.isNone && k != .gather
  let off4 (e : Option (Nat × Nat × BankFmt × Nat)) : Nat := match e with | some (_, _, _, o) => o | none => 0
  let m := match lenFmt sp dp with | some c => (rowElems c r.len).getD (8 * r.len / codeBits c) | none => 0
  let ends := [sp, dp].filterMap (fun e => e.map (fun x => x.2.2.1))
  if r.len = 0 then some 0x40
  else if (plainSrc && rows.any (fun i => !s.mayName w (rowAt src r.sstr i) r.len)) ||
      (dp.isNone && rows.any (fun i => !s.mayName w (rowAt dst r.dstr i) r.len)) then some 0x41
  else if off4 sp != 0 || off4 dp != 0 || (k == .gather && sp.isSome) ||
      (plainSrc && rows.any (fun i => s.touchesPlane w (rowAt src r.sstr i) r.len)) ||
      (dp.isNone && rows.any (fun i => s.touchesPlane w (rowAt dst r.dstr i) r.len)) then some 0x42
  else if ends.any (fun f => !rowsFit f r.rows) then some 0x43
  else if ends.any (fun f => !elemsFit f m) then some 0x44
  else if (match lenFmt sp dp with | some c => (rowElems c r.len).isNone | none => false) ||
      (ends.any (fun f => codeScaled f.fmt) && m % 32 != 0) then some 0x45
  else if (match sp, dp with
      | some (_, _, f, _), some (_, _, g, _) => g.fmt == 0x16 && !verbatim f g
      | some (_, _, f, _), none => f.fmt == 0x16
      | _, _ => false) then some 0x46
  else if s.leavesRange w r dst then some 0x47
  else none

/-- The check of CPYG's index list (R269): it lies in one region of the TCM, the scratchpad or the commons. -/
def State.listFault (s : State) (w : Who) (r : CopySet) : Bool :=
  let a := r.idx.toNat / 4 * 4
  let n := r.rows * 2 ^ bitsOf r.idx 1 0
  bitsOf r.idx 1 0 == 3 || !s.mayName w a n ||
  (match s.regionOf w a with
   | some .tcm | some (.spad _) | some (.commons _) => false
   | some (.remote k) => k != rankOf w.st
   | _ => true)

/-! ## The matrix side of CPYM (R215, R216, R235, R253) -/

/-- The context of a holder, and its first tile and number of tiles (R216). -/
def isCtx1 (w : Who) : Bool := w.core == .urgent

/-- Whether a holder has its context's batch open (R250). -/
def Station.holdsBatch (x : Station) (w : Who) : Bool := 
  if isCtx1 w then x.batch1 else x.batch0 == some (slotNumber w.core) && !x.closing0

/-- Whether a tile lies in a holder's context. -/
def tileFits (w : Who) (t : Nat) : Bool := if isCtx1 w then t == 4 || t == 5 else decide (t < 4)

/-- Whether a slot in a trap handler is refused its MTX commands (R253). -/
def State.parkRefuses (s : State) (w : Who) : Bool :=
  !isCtx1 w && (s.holder w).inh && (s.station w.st).parker != some (slotNumber w.core)

/-- A bank of the station's own cluster named by its first byte. -/
def State.ownBank (s : State) (w : Who) (a : Nat) : Option (Nat × BankFmt) :=
  match s.planeEnd w a with
  | some (cl, b, f, 0) => if cl = clusterOf w.st then some (b, f) else none
  | _ => none

/-- The first check of R216, R253 and R281 that an MMUL or a follow-on fails. -/
def State.mmulFault (s : State) (w : Who) (mx : MxRegs) (a b : Nat) (t : Nat) : Option Nat :=
  let x := s.station w.st
  if s.parkRefuses w then some 0x6D
  else if !x.holdsBatch w then some 0x60
  else if !tileFits w t then some 0x61
  else
    match s.ownBank w a, s.ownBank w b with
    | some (_, f), some (_, g) =>
      if f.b || !g.b then some 0x62
      else if f.p != mx.pa || g.p != mx.pb then some 0x63
      else if kmax f < 32 * mx.kg || kmax g < 32 * mx.kg then some 0x64
      else none
    | _, _ => some 0x62

/-- A context's queue. -/
def Station.mtx (x : Station) (c1 : Bool) : List MtxCmd := if c1 then x.mtx1 else x.mtx0
def Station.setMtx (x : Station) (c1 : Bool) (q : List MtxCmd) : Station := if c1 then { x with mtx1 := q } else { x with mtx0 := q }

/-- A context number of an agenda step. -/
def ctxNat (c1 : Bool) : Nat := if c1 then 1 else 0

/-- A matrix command takes its place (R213). -/
def State.acceptMtx (s : State) (w : Who) (k : MtxKind) (ready : Bool) : State :=
  let c1 := isCtx1 w
  let cmd : MtxCmd := { id := s.ops, kind := k, who := w, acc := s.engAccess w 3, regs := (s.station w.st).mx, ready := ready,
                        step := 0, retry := none }
  let s1 := s.modStation w.st (fun x => x.setMtx c1 (x.mtx c1 ++ [cmd]))
  if (s.station w.st).mtx c1 = [] then s1.later (.mtxCommandPerform w.st (ctxNat c1)) else s1

/-- Context-0 commands of other slots wait at issue while one slot parks or has parked it, or while a restore is on its way
(R254, R255). -/
def State.mtxHeld (s : State) (w : Who) : Bool :=
  let x := s.station w.st
  !isCtx1 w &&
  ((match x.parking with | some n => n != slotNumber w.core | none => false) ||
   (x.parkedBy.isSome && x.parker != some (slotNumber w.core)) ||
   x.mtx0.any (fun c => match c.kind with | .unpark _ => true | _ => false))

/-! ## CPY, CPYM, CPYG at issue (R266, R268, R270) -/

/-- The descriptor set a tag names. -/
def tagSet (t : BitVec 3) : Fin 8 := ⟨t.toNat, by have := t.isLt; omega⟩

/-- Whether the COPY engine of a station accepts a command (R266): 16 of the station may be accepted and not complete. DEDUCED:
input streams, PREL, BUFDEF, CPOLL and the QBIND of a queue are complete once they are accepted. -/
def State.copyRoom (s : State) (st : Nat) : Bool :=
  let x := s.station st
  decide (x.copies.length + x.publishes.length + (s.ringCommands st).length +
    (copyCores.map (fun c => (s.outStreams { st := st, core := c }).length)).sum < 16)

/-- A copy is accepted (R212, R266). -/
def State.acceptCopy (s : State) (k : CopyKind) (set : Fin 8) (src dst : Word) : State :=
  let w := s.cur
  let x := s.station w.st
  let c : CopyCmd :=
    { id := s.ops, kind := k, who := w, acc := s.engAccess w 2, set := set.val, src := src, dst := dst, regs := x.sets[set],
      table := x.cbt, row := 0, idxs := [], faulted := false, retry := none, ghosts := [], got := [], placed := [],
      data := none, put := [], noted := [], landed := false,
      tilec := (s.holder (s.worksFor w)).tilec }
  (s.modStation w.st (fun y => { y with copies := y.copies ++ [c] })).later (.copyPerform w.st s.ops)

/-- CPY and CPYG (R268). -/
def State.copying (s : State) (k : CopyKind) (a b : Reg) (ka kb : Bool) (t : BitVec 3) : Out :=
  let src := s.valS s.cur a
  let dst := s.valS s.cur b
  s.issue .store ⟨[(.s a, ka), (.s b, kb)], []⟩ (fun u =>
    let r := (u.station s.cur.st).sets[tagSet t]
    (noFault 2 (u.copyFault s.cur k r src dst)).bind (fun _ =>
    (need (!(k == .gather && u.listFault s.cur r)) (engineTrap 2 0x49)).bind (fun _ =>
    (await (u.copyRoom s.cur.st)).bind (fun _ =>
      .go ((u.acceptCopy k (tagSet t) src dst).bump, .next)))))

/-- CPY (R214, R268). -/
def execCpy (a b : Reg) (ka kb : Bool) (t : BitVec 3) (s : State) : Out := s.copying .plain a b ka kb t
/-- CPYG (R214, R268, R269). -/
def execCpyg (a b : Reg) (ka kb : Bool) (t : BitVec 3) (s : State) : Out := s.copying .gather a b ka kb t

/-- CPYM (R215, R235, R268): the follow-on takes its place in the matrix engine's order at once. That of a loader or storer is
the work of the slot it serves (R37, R265), whose batch it needs; a batch that is parked is waited for (R254). -/
def execCpym (a b : Reg) (ka kb : Bool) (t : BitVec 3) (s : State) : Out :=
  let src := s.valS s.cur a
  let dst := s.valS s.cur b
  s.issue .store ⟨[(.s a, ka), (.s b, kb)], []⟩ (fun u =>
    let w := s.cur
    let m := u.worksFor w
    let x := u.station w.st
    let r := x.sets[tagSet t]
    (noFault 2 (u.copyFault w .follow r src dst)).bind (fun _ =>
      let follow := (match u.ownBank w dst.toNat with | some (_, f) => !f.b | none => false) &&
        (match u.ownBank w r.fb.toNat with | some (_, f) => f.b | none => false)
      (need follow (engineTrap 2 0x48)).bind (fun _ =>
      (await (!u.mtxHeld m)).bind (fun _ =>
      (noFault 2 (u.mmulFault m x.mx dst.toNat r.fb.toNat r.ft)).bind (fun _ =>
      (await (u.copyRoom w.st && decide ((x.mtx (isCtx1 w)).length < 8))).bind (fun _ =>
        .go (((u.acceptCopy .follow (tagSet t) src dst).acceptMtx w (.mul dst r.fb r.ft) false).bump, .next)))))))

/-! ## Performance (R231, R232, R236, R268, R269) -/

/-- A row as it is read: bytes, or elements with the mark of poison and, in a block-scaled format, the scale bytes. -/
inductive SrcRow where
  | bytes (bs : List EByte)
  | elems (xs : List (Value × Bool))
deriving Repr, Inhabited

/-- The index that stands for one read from a poisoned line. -/
def lostIndex : Nat := 2 ^ 40

/-- The source address of a row, if it has one. -/
def CopyCmd.rowSource (c : CopyCmd) (i : Nat) : Option Nat :=
  match c.kind with
  | .gather =>
    let k := c.idxs.getD i 0
    if k = lostIndex then none else some (rowAt c.src c.regs.sstr k)
  | _ => some (rowAt c.src c.regs.sstr i)

/-- The elements of row `i` of a bank, in its own meaning of a row (R231). -/
def State.bankRow (s : State) (cl bank : Nat) (f : BankFmt) (i m : Nat) : List (Value × Bool) :=
  if alongK f then
    ((List.range (ceilDiv m 32)).map (fun g =>
      let (gr, bad) := s.engGroup cl bank f (groupIx f i g)
      (List.range (Nat.min 32 (m - 32 * g))).map (fun k => (groupValue f.fmt gr k, bad)))).flatten
  else
    (List.range m).map (fun col =>
      let (gr, bad) := s.engGroup cl bank f (groupIx f col (i / 32))
      (groupValue f.fmt gr (i % 32), bad))

/-- The bank lines of a row that are poisoned, as near addresses. -/
def State.bankRowBad (s : State) (cl bank : Nat) (f : BankFmt) (i m : Nat) : List Nat :=
  let ixs := if alongK f then (List.range (ceilDiv m 32)).map (fun g => groupIx f i g)
    else (List.range m).map (fun c => groupIx f c (i / 32))
  ((ixs.map (fun ix => (blocks Config.lineSize (planeAt cl bank f ix 0) (4 * f.p)).filter s.poison.contains)).flatten.map
    spadLineAddr).eraseDups

/-- The elements of a packed row, with the marks of the bytes they come from. -/
def CopyCmd.unpackRow (c : CopyCmd) (fmt m : Nat) (bs : List EByte) : List (Value × Bool × Nat) :=
  let b := codeBits fmt
  let data := ceilDiv (m * b) 8
  let raw := bs.map (fun e => e.b)
  let scale (j : Nat) : Nat := (raw.getD (data + j) 0).toNat
  let vals := unpack fmt (cbtNat c.table) (leNat (raw.take data)) scale m
  let bad (i : Nat) : Bool := match bs[i]? with | some e => e.poison | none => false
  (vals.zipIdx).map (fun e =>
    let k := e.2
    let (lo, hi) := if fmt = 0x16 then (2 * (k / 8), 2 * (k / 8) + 1) else (k * b / 8, (k * b + b - 1) / 8)
    let p := (span lo (hi + 1 - lo)).any bad || (codeScaled fmt && bad (data + k / 32))
    (e.1, p, if codeScaled fmt then scale (k / 32) else 127))

/-- Whether a plain destination line is written whole by the rows of a copy up to row `i` (R36): none of its parts was lost. -/
def CopyCmd.covers (c : CopyCmd) (i line model : Nat) : Bool :=
  !c.ghosts.contains model && !c.missed.contains line && (List.range 128).all (fun b => (List.range (i + 1)).any (fun j =>
    let d := rowAt c.dst c.regs.dstr j
    decide (d ≤ 128 * line + b) && decide (128 * line + b < d + c.regs.len)))

/-- Whether a bank line's groups have all been placed by a copy up to the rows or K-groups given (R36). -/
def CopyCmd.coversBank (c : CopyCmd) (cl bank : Nat) (f : BankFmt) (rows groups : Nat) (l : Nat) : Bool :=
  !c.ghosts.contains l && (groupsOfLine cl bank f l).all (fun ix =>
    decide (ix % lines f < rows) && decide (ix / lines f < groups))

/-- What the reads of a row come to: its bytes or elements, the lines that could not be taken, the parts that are parked, the
source row outside its regions, and what has been read so far. -/
structure RowRead where
  row : SrcRow
  bad : List Nat
  parked : List Piece
  outside : Option Nat
  got : List (Nat × Nat × List EByte)
deriving Repr, Inhabited

/-- Bytes that do not come. -/
def lostBytes (n : Nat) : List EByte := List.replicate n { b := 0, poison := true, arrived := false }

/-- Reads the lines of row `i` of a plain source; what has been read before stays (R236). -/
def State.readLines (s : State) (c : CopyCmd) (i : Nat) (afresh : Bool) : List (Nat × Nat × Nat) → Option (List Piece × RowRead × State)
  | [] => some ([], { row := .bytes [], bad := [], parked := [], outside := none, got := [] }, s)
  | (a, n, off) :: r =>
    match c.got.find? (fun e => e.1 == i && e.2.1 == off) with
    | some e =>
      (s.readLines c i afresh r).map (fun (ps, x, t) =>
        let bs := match x.row with | .bytes bs => bs | .elems _ => []
        (ps, { x with row := .bytes (e.2.2 ++ bs), got := e :: x.got,
                      bad := (if e.2.2.any (fun b => b.poison) then [a / 128 * 128] else []) ++ x.bad }, t))
    | none =>
      match s.engRef c.acc .load afresh a n with
      | none => none
      | some (q, t) =>
        let p : Piece := { ref := q, addr := a, len := n, off := off, write := false }
        let bytes := (t.engBytes [p]).map (fun e => { e with arrived := e.arrived && !e.poison })
        (t.readLines c i afresh r).map (fun (ps, x, u) =>
          let bs := match x.row with | .bytes bs => bs | .elems _ => []
          (p :: ps, { x with row := .bytes (bytes ++ bs), bad := t.badLines [p] ++ x.bad,
                             parked := if p.parks then p :: x.parked else x.parked,
                             got := if p.parks then x.got else (i, off, bytes) :: x.got }, u))

/-- Reads row `i` of a copy's source; none while something must be waited for. -/
def State.readRow (s : State) (c : CopyCmd) (i m : Nat) (afresh : Bool) : Option (RowRead × State) :=
  match (if c.kind = .gather then none else s.planeEnd c.who c.src.toNat) with
  | some (cl, bank, f, _) =>
    some ({ row := .elems (s.bankRow cl bank f i m), bad := s.bankRowBad cl bank f i m, parked := [], outside := none, got := [] }, s)
  | none =>
    let lost (bad : List Nat) (out : Option Nat) : RowRead :=
      { row := .bytes (lostBytes c.regs.len), bad := bad, parked := [], outside := out, got := [] }
    match c.rowSource i with
    | none => some (lost [c.regs.idx.toNat / 128 * 128] none, s)
    | some a =>
      if (c.kind == .gather && !s.mayName c.who a c.regs.len) || !s.reachable c.who a c.regs.len ||
          s.touchesPlane c.who a c.regs.len then some (lost [] (some a), s)
      else (s.readLines c i afresh (linePieces a c.regs.len)).map (fun (_, x, t) => (x, t))

/-- Reads the rows of a unit in ascending order. -/
def State.readRows (s : State) (c : CopyCmd) (m : Nat) (afresh : Bool) : List Nat → Option (List RowRead × State)
  | [] => some ([], s)
  | i :: r =>
    match s.readRow c i m afresh with
    | none => none
    | some (x, t) => (t.readRows c m afresh r).map (fun (xs, u) => (x :: xs, u))

/-- The records of source lines that could not be taken (R236), one for each line of the copy, and of rows outside a region
(R267, R269). With the state come the lines that have one. -/
def State.rowRecords (s : State) (c : CopyCmd) (rs : List RowRead) : State × List Nat :=
  rs.foldl (fun e r =>
    let t1 := match r.outside with
      | some a => e.1.record (homeBank c.who.st) deferred 0x04 0x5F (BitVec.ofNat 64 a) 0 c.acc.task
      | none => e.1
    r.bad.foldl (fun e a =>
      if e.2.contains a then e
      else (e.1.record (homeBank c.who.st) deferred 0x05 0 (BitVec.ofNat 64 a) 0 c.acc.task, e.2 ++ [a])) (t1, e.2)) (s, c.noted)

/-- A K-group's values from elements: those beyond the row read zero. -/
def groupOf {α : Type} (dflt : α) (xs : List α) (g : Nat) : List α := (List.range 32).map (fun k => xs.getD (32 * g + k) dflt)

/-- The K-groups of a row of m elements: up to the end of its last 64-element group (R214). -/
def rowGroups (m : Nat) : Nat := 2 * ceilDiv m 64

/-- The groups `gs` of one row placed along K in a bank (R214, R231, R236). `exact_` are the source's own groups where they go
unchanged. -/
def State.placeRow (s : State) (c : CopyCmd) (cl bank : Nat) (f : BankFmt) (i m : Nat) (gs : List Nat) (xs : List (Value × Bool × Nat))
    (fromBank : Bool) (exact_ : Option (Nat → PlaneGroup × Bool)) : State × List Nat :=
  gs.foldl (fun (t, ghosts) g =>
    let ix := groupIx f i g
    let es := groupOf (Value.fin false 0 0, false, 127) xs g
    let lost := es.any (fun e => e.2.1)
    if lost then
      let (u, ls) := t.loseGroup cl bank f ix
      (u, ghosts ++ ls)
    else
      let x := if 32 * g < m then (es.headD (Value.fin false 0 0, false, 127)).2.2 else 127
      let gr : PlaneGroup := match exact_ with
        | some q => if 32 * g < m then
            let o := (q g).1
            { o with q := o.q.zipIdx.map (fun e => if 32 * g + e.2 < m then e.1 else 0) }
          else { q := List.replicate 32 0, e := groupLo f.fmt 127, nan := false, flags := 0 }
        | none => if fromBank then placeValues f (es.map (fun e => e.1)) else place f.fmt f.p x (es.map (fun e => e.1))
      (t.placeClean cl bank f ix gr (c.coversBank cl bank f (i + 1) (rowGroups m)), ghosts)) (s, [])

/-- K-group `g` of all 128 columns placed from 32 K rows (R214, R236). -/
def State.placeColumns (s : State) (c : CopyCmd) (cl bank : Nat) (f : BankFmt) (g m : Nat) (rows : List (List (Value × Bool × Nat)))
    (fromBank : Bool) (exact_ : Option (Nat → PlaneGroup × Bool)) : State × List Nat :=
  (List.range 128).foldl (fun (t, ghosts) col =>
    let ix := groupIx f col g
    let es := rows.map (fun r => r.getD col (Value.fin false 0 0, false, 127))
    if es.any (fun e => e.2.1) then
      let (u, ls) := t.loseGroup cl bank f ix
      (u, ghosts ++ ls)
    else
      let gr : PlaneGroup := match exact_ with
        | some q => if col < m then (q col).1 else { q := List.replicate 32 0, e := groupLo f.fmt 127, nan := false, flags := 0 }
        | none => if fromBank then placeValues f (es.map (fun e => e.1)) else place f.fmt f.p 127 (es.map (fun e => e.1))
      (t.placeClean cl bank f ix gr (c.coversBank cl bank f 128 (g + 1)), ghosts)) (s, [])

/-- The elements of a row as a plane destination takes them. -/
def CopyCmd.rowElements (c : CopyCmd) (fmt m : Nat) (r : SrcRow) : List (Value × Bool × Nat) :=
  match r with
  | .bytes bs => c.unpackRow fmt m bs
  | .elems xs => xs.map (fun e => (e.1, e.2, 127))

/-- The bytes of a row as a plain destination takes them (R231, R453). -/
def rowBytes (fmt : Nat) (r : SrcRow) : List EByte :=
  match r with
  | .bytes bs => bs
  | .elems xs =>
    let marks := packMarks fmt (xs.map (fun e => e.2))
    ((packRow fmt (xs.map (fun e => e.1))).zipIdx).map (fun e => { b := e.1, poison := marks.getD e.2 false, arrived := true })

/-- The rows performed in one step: 32 K rows for a B bank filled by K rows, else one (R214). -/
def copyUnit (dp : Option (Nat × Nat × BankFmt × Nat)) : Nat :=
  match dp with
  | some (_, _, f, _) => if alongK f then 1 else 32
  | none => 1

/-- A copy's place in its station. -/
def State.setCopy (s : State) (c : CopyCmd) : State :=
  s.modStation c.who.st (fun x => { x with copies := x.copies.map (fun k => if k.id == c.id then c else k) })

/-- The groups of a row whose elements have landed while others of the row are parked (R214, R236). -/
def CopyCmd.landedGroups (c : CopyCmd) (fmt m : Nat) (r : RowRead) : List Nat :=
  let waits (k : Nat) : Bool := r.parked.any (fun p => decide (p.off ≤ k) && decide (k < p.off + p.len))
  let marks : List EByte := (List.range c.regs.len).map (fun k => { b := 0, poison := waits k, arrived := true })
  let pend := (c.unpackRow fmt m marks).map (fun e => e.2.1)
  (List.range (rowGroups m)).filter (fun g => !c.placed.contains g && !(groupOf false pend g).any (fun b => b))

/-- The rows under way are done. -/
def CopyCmd.nextUnit (c : CopyCmd) (n : Nat) : CopyCmd :=
  { c with row := c.row + n, retry := none, got := [], placed := [], data := none, put := [] }

/-- Lines of the rows under way are parked: what has been read stays, and in A orientation the groups that have landed are
placed (R214, R236). -/
def State.copyParks (s : State) (c : CopyCmd) (m : Nat) (rs : List RowRead) (dp : Option (Nat × Nat × BankFmt × Nat)) (fmt : Nat)
    (r : LineRetry) : State :=
  let c1 := { c with retry := some r, got := (rs.map (fun (x : RowRead) => x.got)).flatten }
  let (t, c2) := match dp, rs with
    | some (cl, bank, f, _), [x] =>
      if f.b then (s, c1)
      else
        let gs := c.landedGroups fmt m x
        let (t, ghosts) := s.placeRow c cl bank f c.row m gs (c.rowElements fmt m x.row) false none
        (t, { c1 with placed := c.placed ++ gs, ghosts := c.ghosts ++ ghosts })
    | _, _ => (s, c1)
  (t.setCopy c2).laterAt r.at_ (.copyPerform c.who.st c.id)

/-- A row that has been read goes to its plain destination; a line that is parked waits for its retry while the others are
written (R232, R236). -/
def State.writeRow (s : State) (c : CopyCmd) (data : List EByte) : Option State :=
  let d := rowAt c.dst c.regs.dstr c.row
  let lines := (linePieces d data.length).filter (fun e => !c.put.contains e.1)
  (s.engLines c.acc .store c.retry.isSome lines).map (fun (ps, t) =>
    match t.engFault c.acc ps c.retry with
    | (u, some r) =>
      let ok := ps.filter (fun p => !p.parks)
      let (v, ghosts) := u.engPut c.acc ok data (c.covers c.row)
      let c1 := { c with data := some data, put := c.put ++ ok.map (fun p => p.addr), retry := some r, ghosts := c.ghosts ++ ghosts }
      (v.setCopy c1).laterAt r.at_ (.copyPerform c.who.st c.id)
    | (u, none) =>
      let (v, ghosts) := u.engPut c.acc ps data (c.covers c.row)
      let lost := ps.filter (fun p => p.parks || (match p.ref with | .refused _ => true | _ => false))
      (v.setCopy { c.nextUnit 1 with ghosts := c.ghosts ++ ghosts, faulted := c.faulted || !lost.isEmpty,
                                     missed := c.missed ++ lost.map (fun p => p.addr / 128) }).later (.copyPerform c.who.st c.id))

/-- The rows of a unit that have been read are placed in a bank (R214, R231, R236). -/
def State.placeUnit (s : State) (c : CopyCmd) (m fmt : Nat) (rs : List RowRead) (sp : Option (Nat × Nat × BankFmt × Nat))
    (cl bank : Nat) (f : BankFmt) : State × List Nat :=
  let es := rs.map (fun r => c.rowElements fmt m r.row)
  let exact_ (key : Nat → Nat) : Option (Nat → PlaneGroup × Bool) := match sp with
    | some (scl, sb, g, _) => if verbatim g f then some (fun k => s.engGroup scl sb g (key k)) else none
    | none => none
  let gs := (List.range (rowGroups m)).filter (fun g => !c.placed.contains g)
  match sp with
  | some (_, _, g, _) =>
    if alongK f then s.placeRow c cl bank f c.row m gs (es.headD []) true (exact_ (groupIx g c.row))
    else s.placeColumns c cl bank f (c.row / 32) m es true (exact_ (fun col => groupIx g col (c.row / 32)))
  | none =>
    if alongK f then s.placeRow c cl bank f c.row m gs (es.headD []) false none
    else s.placeColumns c cl bank f (c.row / 32) m es false none

/-- One unit of a copy goes on: its rows are read whole, then written (R232). -/
def State.copyRows (s : State) (c : CopyCmd) : Option State :=
  match c.data with
  | some data => s.writeRow c data
  | none =>
    let sp := if c.kind = .gather then none else s.planeEnd c.who c.src.toNat
    let dp := s.planeEnd c.who c.dst.toNat
    let fmt := (lenFmt sp dp).getD 0
    let m := match lenFmt sp dp with | some f => (rowElems f c.regs.len).getD 0 | none => 0
    let n := copyUnit dp
    match s.readRows c m c.retry.isSome (span c.row n) with
    | none => none
    | some (rs, t) =>
      match t.engFault c.acc (rs.map (fun r => r.parked)).flatten c.retry with
      | (u, some r) => some (u.copyParks c m rs dp fmt r)
      | (u, none) =>
        let (v, noted) := u.rowRecords c rs
        let c1 := { c with noted := noted, retry := none, faulted := c.faulted || rs.any (fun r => !r.bad.isEmpty || r.outside.isSome) }
        match dp with
        | none => v.writeRow c1 (rowBytes fmt (rs.headD { row := .bytes [], bad := [], parked := [], outside := none, got := [] }).row)
        | some (cl, bank, f, _) =>
          let (x, ghosts) := v.placeUnit c1 m fmt rs sp cl bank f
          some ((x.setCopy { c1.nextUnit n with ghosts := c1.ghosts ++ ghosts }).later (.copyPerform c.who.st c.id))

/-- CPYG's index list is read (R269). -/
def State.readList (s : State) (c : CopyCmd) : Option State :=
  let wd := 2 ^ bitsOf c.regs.idx 1 0
  (s.engPieces c.acc .load c.retry.isSome (c.regs.idx.toNat / 4 * 4) (c.regs.rows * wd)).map (fun (ps, t) =>
    let bs := t.engBytes ps
    let idxs := (List.range c.regs.rows).map (fun i =>
      let e := (bs.drop (i * wd)).take wd
      if e.any (fun b => b.poison) then lostIndex else leNat (e.map (fun b => b.b)))
    (t.setCopy { c with idxs := idxs }).later (.copyPerform c.who.st c.id))

/-- Whether the slot's earlier stores and its earlier COPY commands are done (R213). -/
def State.copyReleased (s : State) (w : Who) (id : Nat) : Bool := s.storesDone (some (w, id)) && s.copyTurn w id

/-- COPY_PERFORM (R232, R236, R268): one unit of an accepted copy, after its release and the slot's earlier copies. -/
def execCopyPerform (st id : Nat) (s : State) : Out :=
  match (s.station st).copies.find? (fun c => c.id == id) with
  | none => .next s
  | some c =>
    if c.landed || retryAhead s.now c.retry then .next s
    else if !s.copyReleased (workOfTask c.who c.acc.task) id || s.engBehind id (fun cl b => s.copyInBank cl b c) then .next s.wait
    else if c.regs.rows ≤ c.row then .next ((s.setCopy { c with landed := true }).later (.copyComplete st id))
    else
      match (if c.kind = .gather && c.idxs.isEmpty then s.readList c else s.copyRows c) with
      | none => .next s.wait
      | some t => .next t

/-! ## Completion (R233, R234) -/

/-- A notification fires (R234): the copy engine writes CP.DONE at its address and fills the granule, as a fill store does. -/
def State.notifyFire (s : State) (n : Notify) : State :=
  let done := (s.station n.acc.who.st).sets[n.set]?.map (fun r => r.done)
  let p : AccPart :=
    { acc := n.acc, kind := .store, addr := n.addr, place := s.placeOf n.acc.who n.addr.toNat, size := 8, off := 0, qual := .waitfFill,
      data := leBytes (done.getD 0).toNat 8, attempt := 0, pa := none }
  s.sendNear p (.accessAtHome p)

/-- The pending notifications of a station whose condition holds fire. -/
def State.testNotifies (s : State) (st : Nat) : State :=
  let x := s.station st
  let due (n : Notify) : Bool := match x.sets[n.set]? with | some r => decide (n.target.toNat ≤ r.done.toNat) | none => false
  let fire := x.notifies.filter due
  let s1 := s.modStation st (fun y => { y with notifies := y.notifies.filter (fun n => !due n) })
  fire.foldl State.notifyFire s1

/-- A descriptor set of a station changed. -/
def Station.modSet (x : Station) (n : Nat) (f : CopySet → CopySet) : Station :=
  match x.sets[n]? with
  | some r => { x with sets := x.sets.setIfInBounds n (f r) }
  | none => x

/-- The follow-on of a CPYM may be performed from now on (R215). -/
def State.releaseFollow (s : State) (c : CopyCmd) : State :=
  if c.kind = .follow then
    let c1 := isCtx1 c.who
    s.modStation c.who.st (fun x => x.setMtx c1 ((x.mtx c1).map (fun k => if k.id == c.id then { k with ready := true } else k)))
  else s

/-- COPY_COMPLETE (R155, R195, R215, R233, R234, R434): the steps of R233 in order. DESIGN CHOICE: in a range released and bound again
meanwhile it launches the handler bound now (log entry 170). -/
def execCopyComplete (st id : Nat) (s : State) : Out :=
  match (s.station st).copies.find? (fun c => c.id == id) with
  | none => .next s
  | some c =>
    let relay := match s.regionOf c.who c.dst.toNat, s.placeOf c.who c.dst.toNat with
      | some (.commons _), .commons d off => if inRelayArea off then some (d, off) else none
      | _, _ => none
    let started := match relay with
      | some (d, off) => s.startCollective d off c.acc
      | none => some s
    match started with
    | none => .next s.wait
    | some s0 =>
      let s1 := s0.modStation st (fun x =>
        ({ x with copies := x.copies.filter (fun k => k.id != id) } : Station).modSet c.set (fun r => { r with done := r.done + 1 }))
      let s2 := if c.regs.cmp.getLsbD 17 then s1.decrement (bitsOf c.regs.cmp 16 0) false (srcRankOf c.who) else s1
      let s3 := match s.boundRange c.who c.dst.toNat with
        | some b =>
          if b.active then
            s2.selfLaunch st (selfHeader st b.handler 3 b.cls b.urg)
              [c.dst, BitVec.ofNat 64 (c.regs.len * c.regs.rows), BitVec.ofNat 64 (c.set + (if c.faulted then 2 ^ 63 else 0))] c.tilec
          else s2
        | none => s2
      .next ((s3.testNotifies st).releaseFollow c)

/-! ## Windows (R221, R241, R242, R276, R277) -/

/-- The pool offset of an address of the station's own pool under either of its names (R221). -/
def State.ownPool (s : State) (w : Who) (a : Nat) : Option Nat :=
  match s.regionOf w a with
  | some .tcm | some .mailbox => some a
  | some (.remote n) => if n = rankOf w.st then some ((a - 0x100000000) % 0x100000) else none
  | _ => none

/-- Whether `n` bytes from an address, as a holder names them, meet the visible half of a window of a station. -/
def State.meetsWindow (s : State) (w : Who) (st : Nat) (win : BufWindow) (a n : Nat) : Bool :=
  match s.placeOf w a with
  | .pool t o => t == st && decide (o < win.base + win.len) && decide (win.base < o + n)
  | _ => false

/-- Bytes of a row of the lead block (R219). -/
def leadBytes (fmt kg : Nat) : Nat := 4 * kg * codeBits fmt + (if codeScaled fmt then kg else 0)

/-- What a signature command writes (R217 to R220, R260 to R264): ranges of bytes. -/
def State.sigWrites (s : State) (c : SigCmd) : List (Nat × Nat) :=
  let q := c.regs
  let b := c.b.toNat
  match c.kind with
  | .hash => [(b, 8 * q.rows)]
  | .room => [(q.rl.toNat, 392)]
  | .lead =>
    let fmt := match s.ownBank c.who c.a.toNat with | some (_, f) => f.fmt | none => 0
    (b, q.rows * leadBytes fmt q.kg) :: (if q.rule = 2 then [(q.rl.toNat + 136, 256)] else [])
  | .scat | .sum => [(b, q.rows * q.slen)]
  | .sel => [(b, 8 * ((q.nk + 63) / 64) * q.nq)]

/-- Whether an engine command accepted while a dissolved window stood may still write into it (R221, R276): a copy, a drain, a
signature command or a relay collective that writes there, a sample of the crossing unit wherever it is, or a PUBLISH. -/
def State.lateWrites (s : State) (st : Nat) (win : BufWindow) : Bool :=
  let hit (id : Nat) : Bool := decide (win.born < id) && decide (id < win.died)
  let drains (c : MtxCmd) : Bool := match c.kind with
    | .drain dst stride _ => (List.range 64).any (fun i => s.meetsWindow c.who st win (rowAt dst stride i) 512)
    | _ => false
  let sample (p : AccPart) : Bool := (p.acc.eng == 5 || p.acc.eng == 2) && hit p.acc.op && s.meetsWindow p.acc.who st win p.addr.toNat p.size
  s.stations.any (fun e =>
    e.2.copies.any (fun c => hit c.id &&
      (List.range c.regs.rows).any (fun i => s.meetsWindow c.who st win (rowAt c.dst c.regs.dstr i) c.regs.len)) ||
    e.2.mtx0.any (fun c => hit c.id && drains c) || e.2.mtx1.any (fun c => hit c.id && drains c) ||
    e.2.sigs.any (fun c => hit c.id && (s.sigWrites c).any (fun r => s.meetsWindow c.who st win r.1 r.2)) || e.2.held.any (fun h => (partsIn h.2).any sample)) ||
  (s.station st).publishes.any (fun c => hit c.id && c.base == win.base) ||
  s.dies.any (fun e => e.2.collectives.any (fun c => hit c.acc.op && s.meetsWindow c.acc.who st win c.dest c.span)) || s.allParts.any sample

/-- BUFDEF (R221, R241, R276). -/
def execBufdef (a b : Reg) (ka kb : Bool) (s : State) : Out :=
  let base := s.valS s.cur a
  let len := (s.valS s.cur b).toNat
  s.issue .store ⟨[(.s a, ka), (.s b, kb)], []⟩ (fun t =>
    let w := s.cur
    let x := t.station w.st
    let task := (t.holder (t.worksFor w)).taskid
    let off := t.ownPool w base.toNat
    let o := off.getD 0
    let meets (v : BufWindow) : Bool := decide (v.base < o + 2 * len) && decide (o < v.base + 2 * v.len)
    let ok := base.toNat % 128 == 0 && len % 128 == 0 && decide (128 ≤ len) && decide (len ≤ 65536) && off.isSome &&
      decide (x.app1 * 8192 ≤ o) && decide (o + 2 * len ≤ x.app2 * 8192) && !x.windows.any (fun v => v.live && meets v) &&
      decide ((x.windows.filter (fun v => v.live && v.task == task)).length < 4)
    (need ok (engineTrap 2 0x57)).bind (fun _ =>
    (await (t.storesDone (some (t.worksFor w, t.ops)) && !x.windows.any (fun v => !v.live && meets v && t.lateWrites w.st v) &&
      t.copyRoom w.st)).bind (fun _ =>
      let win : BufWindow := { base := o, len := len, owner := (t.worksFor w).core, task := task, live := true, born := t.ops, died := 0 }
      .go ((t.modStation w.st (fun y =>
        { y with windows := y.windows.filter (fun v => v.live || !meets v) ++ [win] })).bump, .next))))

/-- The two halves of a window exchanged: bytes, full/empty bits and poison. -/
def State.exchange (s : State) (st : Nat) (win : BufWindow) : State :=
  let a := Config.poolAt st + win.base
  let b := a + win.len
  let lo := s.readAt a win.len
  let hi := s.readAt b win.len
  let inA (u n : Nat) : Bool := decide (a ≤ u * n) && decide (u * n < b)
  let inB (u n : Nat) : Bool := decide (b ≤ u * n) && decide (u * n < b + win.len)
  let swap (n u : Nat) : Nat := if inA u n then u + win.len / n else if inB u n then u - win.len / n else u
  let swapped (n : Nat) (l : List Nat) : List Nat := (l.map (swap n)).foldl (fun r u => setIns u r) []
  { s with mem := memWrite (memWrite s.mem a hi) b lo, empties := swapped Config.granuleSize s.empties,
           poison := swapped Config.lineSize s.poison }

/-- The window of a task that an address names. -/
def State.windowOf (s : State) (w : Who) (a : Nat) : Option BufWindow :=
  let task := (s.holder (s.worksFor w)).taskid
  match s.ownPool w a with
  | some o => (s.station w.st).windows.find? (fun v => v.live && v.base == o && v.task == task)
  | none => none

/-- PUBLISH (R242, R277). -/
def execPublish (a : Reg) (ka : Bool) (s : State) : Out :=
  let addr := s.valS s.cur a
  s.issue .store ⟨[(.s a, ka)], []⟩ (fun t =>
    let w := s.cur
    match t.windowOf w addr.toNat with
    | none => .trap (engineTrap 2 0x58)
    | some win =>
      (await (t.copyRoom w.st)).bind (fun _ =>
        let c : PublishCmd := { id := t.ops, who := w, task := win.task, op := t.ops, base := win.base }
        .go (((t.modStation w.st (fun x => { x with publishes := x.publishes ++ [c] })).later (.publishExchange w.st t.ops)).bump, .next)))

/-- Whether a slot's engine commands before an id are complete, samples of the crossing unit among them (R221, R277). DESIGN CHOICE:
a relay collective that an earlier copy has started (R434) is not waited for (log entry 46). -/
def State.enginesBefore (s : State) (w : Who) (id : Nat) : Bool :=
  let x := s.station w.st
  let mine (a : Access) (k : Nat) : Bool := decide (k < id) && workOfTask a.who a.task == w
  s.copyTurn w id && !x.mtx0.any (fun c => mine c.acc c.id) && !x.mtx1.any (fun c => mine c.acc c.id) &&
  !x.sigs.any (fun c => mine c.acc c.id) &&
  !s.allParts.any (fun p => p.acc.eng == 5 && mine p.acc p.acc.op)

/-- Whether a PUBLISH that a slot issued before an engine command is still to be exchanged: the command's writes reach the
half that is the shadow afterwards (R242). -/
def State.publishBefore (s : State) (w : Who) (id : Nat) : Bool :=
  (s.station w.st).publishes.any (fun c => decide (c.id < id) && workOfTask c.who c.task == w)

/-- PUBLISH_EXCHANGE (R213, R221, R242, R277): the halves are exchanged at the window's home in one step, after the slot's
earlier stores and its earlier engine writes. A PUBLISH of a task that has ended is performed all the same (R41). -/
def execPublishExchange (st id : Nat) (s : State) : Out :=
  match (s.station st).publishes.find? (fun c => c.id == id) with
  | none => .next s
  | some c =>
    let w := workOfTask c.who c.task
    if !s.storesDone (some (w, id)) || !s.enginesBefore w id then .next s.wait
    else
      let s1 := s.modStation st (fun x => { x with publishes := x.publishes.filter (fun k => k.id != id) })
      match (s.station st).windows.find? (fun v => v.base == c.base && v.task == c.task && decide (v.born < id) &&
          (v.live || decide (id < v.died))) with
      | some win => .next (s1.exchange st win)
      | none => .next s1

/-- CPOLL (R234, R278). -/
def execCpoll (a b : Reg) (ka kb : Bool) (t : BitVec 3) (s : State) : Out :=
  let addr := s.valS s.cur a
  let target := s.valS s.cur b
  s.issue .store ⟨[(.s a, ka), (.s b, kb)], []⟩ (fun u =>
    (need (addr.toNat % 8 == 0) (alignOf addr)).bind (fun _ =>
    (match u.accessFault s.cur addr 8 .waitfFill false with | some e => Res.trap e | none => .go ()).bind (fun _ =>
    (await (decide ((u.station s.cur.st).notifies.length < 8) && u.copyRoom s.cur.st)).bind (fun _ =>
      let n : Notify := { set := t.toNat, addr := addr, target := target, acc := u.engAccess s.cur 2 }
      .go (((u.modStation s.cur.st (fun x => { x with notifies := x.notifies ++ [n] })).testNotifies s.cur.st).bump, .next)))))

end Sys2Proof.Machine
end

