-- ==== Sys2Proof/Machine/Crossing.lean ====
section
/-! DEFINITION. The crossing unit (R397 to R421): the record and the departure board, XDEF to XBUDG, deliveries and the pool, the
budget. Each command is one step of the unit, performed at its issue (R410). -/
namespace Sys2Proof.Machine

/-! ## Arithmetic on FP64 records -/

def f64 (w : Word) : Value := fp64.decode w.toNat
def r64 (rm : Rm) (x : Value) : Word := BitVec.ofNat 64 (fp64.round rm x).1

/-- Whether an FP64 word is finite, and whether it is positive, finite and normal. -/
def finite64 (w : Word) : Bool := bitsOf w 62 52 != 2047
def posNormal (w : Word) : Bool := !w.getLsbD 63 && bitsOf w 62 52 != 0 && finite64 w

/-- Round(x + s × dt × 2^−32, FP64, RNE) (R402, R403). -/
def extrapolate (x s : Word) (dt : Int) : Word :=
  r64 .rne (fAdd .rne (f64 x) (fMul (f64 s) ((numOfInt dt).scale (-32))).1).1

/-- Round(s + d, FP64, RNE). -/
def addSlope (s d : Word) : Word := r64 .rne (fAdd .rne (f64 s) (f64 d)).1

/-- The larger and the smaller of two positive values order as their bits do. -/
def minPos (x y : Word) : Word := if x.toNat ≤ y.toNat then x else y

/-- 256 × D and 2 × D, the first no larger than the largest finite value (R405, R414). -/
def timesPow (d : Word) (k : Int) : Word := r64 .rne ((f64 d).scale k)
def ceiling64 (d : Word) : Word :=
  let c := timesPow d 8
  if finite64 c then c else 0x7FEFFFFFFFFFFFFF

/-- The ticks of a time span that is rounded up, at least one; absent where there is no such time. -/
def ticksUp (r : Value) : Option Nat :=
  match r with
  | .fin n m e =>
    let k := (roundInt .rup n m (e + 32)).1
    if 2 ^ 64 ≤ k then none else some (Nat.max 1 k.toNat)
  | .inf n => if n then some 1 else none
  | .nan _ _ _ => none

/-- XNEXT's time for a record, and whether the record of subcode 0xCD is written (R400, R418). All ones is never (R397). -/
def XVar.nextTime (v : XVar) (dtmin : Nat) : Option Nat × Bool :=
  if !finite64 v.x || !finite64 v.q || !finite64 v.s then (none, true)
  else if (f64 v.s).isZero then (none, false)
  else
    let up := numLt (.fin false 0 0) (f64 v.s)
    let edge := (if up then fAdd .rne (f64 v.q) (f64 v.d) else fSub .rne (f64 v.q) (f64 v.d)).1
    let u := (fSub .rne edge (f64 v.x)).1
    let r := f64 (r64 .rup (fDiv u (f64 v.s)).1)
    if r.isNan then (none, true)
    else
      match ticksUp r with
      | none => (none, false)
      | some k =>
        let tn := Nat.max (v.tl + k) (v.last + dtmin)
        (if 2 ^ 64 ≤ tn + 1 then none else some tn, false)

/-! ## The unit -/

/-- The unit of a station as a step leaves it: the records it writes (subcode, ADDR, SYNDROME), and the deliveries it sends. -/
structure XStep where
  u : Crossing
  recs : List (Nat × Nat × Word)
  out : List Delivery
deriving Repr, Inhabited

def Crossing.start (u : Crossing) : XStep := { u := u, recs := [], out := [] }

/-- A variable's record. -/
def Crossing.var? (u : Crossing) (v : Nat) : Option XVar := find? u.vars v
def XStep.setVar (x : XStep) (v : Nat) (r : XVar) : XStep := { x with u := { x.u with vars := put v r x.u.vars } }
def XStep.note (x : XStep) (sub addr : Nat) (syn : Word) : XStep := { x with recs := x.recs ++ [(sub, addr, syn)] }

/-- The order of deliveries (R406). -/
def deliveryBefore (a b : Delivery) : Bool :=
  decide (a.t < b.t) || (a.t == b.t && (decide (a.srcRank < b.srcRank) || (a.srcRank == b.srcRank &&
    (decide (a.srcVar < b.srcVar) || (a.srcVar == b.srcVar && decide (a.seq < b.seq))))))

/-- A delivery in its place in a list in key order. -/
def insertDelivery (d : Delivery) : List Delivery → List Delivery
  | [] => [d]
  | e :: l => if deliveryBefore d e then d :: e :: l else e :: insertDelivery d l

/-- XNEXT (R400). -/
def XStep.next (x : XStep) (v : Nat) (r : XVar) : XStep :=
  let (tn, bad) := r.nextTime x.u.dtmin
  let y := x.setVar v { r with tn := tn }
  if bad then y.note 0xCD v 0 else y

/-- A delivery is applied to a record, XNEXT included (R402, R412). -/
def XStep.apply (x : XStep) (v : Nat) (r : XVar) (d : Delivery) : XStep :=
  if d.t < r.tl then (x.note 0xC8 v 0).next v { r with s := addSlope r.s d.d }
  else if d.t = r.tl && 8 ≤ r.same.length then (x.note 0xCA v 0).next v { r with s := addSlope r.s d.d }
  else
    let r1 := if r.tl < d.t then { r with x := extrapolate r.x r.s (d.t - r.tl : Nat), tl := d.t, same := [] } else r
    let base := if r1.same.isEmpty then r1.s else r1.sbase
    let same := insertDelivery d r1.same
    x.next v { r1 with same := same, sbase := base, s := same.foldl (fun s e => addSlope s e.d) base }

/-- The held delivery that a variable's posting releases, the first in key order (R411). -/
def Crossing.released (u : Crossing) (v : Nat) (posted : Option Nat) : Option Delivery :=
  (u.pool.filter (fun d => d.var == v && (match posted with | some t => decide (d.t < t) | none => true))).foldl
    (fun (m : Option Delivery) d => match m with
      | none => some d
      | some e => if deliveryBefore d e then some d else some e) none

/-- XPOST (R400), with the held deliveries that it releases (R411). -/
def XStep.post (v : Nat) : Nat → XStep → XStep
  | fuel, x =>
    match x.u.var? v with
    | none => x
    | some r =>
      let y := x.setVar v { r with posted := r.tn }
      match fuel with
      | 0 => y
      | n + 1 =>
        match y.u.released v r.tn with
        | none => y
        | some d =>
          let z : XStep := { y with u := { y.u with pool := y.u.pool.erase d } }
          XStep.post v n (z.apply v { r with posted := r.tn } d)

/-- XPOST with turns enough for every held delivery. -/
def XStep.postAll (x : XStep) (v : Nat) : XStep := XStep.post v x.u.pool.length x

/-- Whether a delivery must wait for a place in the pool (R411, R413). -/
def Crossing.mustHold (u : Crossing) (d : Delivery) : Bool :=
  match u.var? d.var with
  | some r => (match r.posted with | some t => decide (t ≤ d.t) | none => false)
  | none => false

/-- A delivery arrives at the unit (R402, R411): dropped, held, or applied. -/
def XStep.deliver (x : XStep) (d : Delivery) : XStep :=
  match x.u.var? d.var with
  | none => x.note 0xC9 d.var 0
  | some r =>
    if x.u.mustHold d then { x with u := { x.u with pool := x.u.pool ++ [d] } }
    else (x.apply d.var r d).postAll d.var

/-- The first event of the departure board (R401). -/
def Crossing.head (u : Crossing) : Option (Nat × Nat) :=
  u.vars.foldl (fun (m : Option (Nat × Nat)) e => match e.2.posted, m with
    | some t, none => some (t, e.1)
    | some t, some k => if t < k.1 then some (t, e.1) else m
    | none, _ => m) none

/-- The budget step of a pop (R414). -/
def XStep.budget (x : XStep) (v now : Nat) (r : XVar) : XStep × XVar :=
  let w := now / 1024
  let pops := if x.u.window = w then x.u.pops + 1 else 1
  let u := { x.u with window := w, pops := pops }
  if u.budg = 0 || pops ≤ u.budg then ({ x with u := u }, r)
  else
    let u1 := { u with overs := u.overs + 1 }
    if r.d.toNat < r.dmax.toNat then
      let d := minPos (timesPow r.d 1) r.dmax
      (({ x with u := { u1 with dbl := u1.dbl + 1 } } : XStep).note 0xCB v d, { r with d := d })
    else ({ x with u := u1 }, r)

/-- The pop of variable `v` at time `t` by a task of a service class (R401, R402, R410, R414). A delivery of the station to itself that finds the pool full is sent as
one to another would be. -/
def XStep.pop (x : XStep) (who : Who) (cls v t now : Nat) (r : XVar) : XStep :=
  let old := r.q
  let up := numLt (.fin false 0 0) (f64 r.s)
  let q := r64 .rne (if up then fAdd .rne (f64 old) (f64 r.d) else fSub .rne (f64 old) (f64 r.d)).1
  let r1 := { r with x := q, q := q, tl := t, last := t, same := [], posted := none }
  let (x1, r2) := x.budget v now r1
  let x2 := x1.setVar v r2
  let deps := x2.u.deps.filter (fun e => e.svar == v)
  let x3 := deps.foldl (fun (y : XStep) e =>
    let d : Delivery :=
      { who := who, rank := e.drank, dst := who.st, var := e.dvar, t := t,
        d := r64 .rne (fMul (f64 e.coef) (fSub .rne (f64 q) (f64 old)).1).1, srcRank := rankOf who.st, srcVar := v, seq := e.seq, cls := cls }
    if e.drank = rankOf who.st && !(y.u.mustHold d && 1024 ≤ y.u.pool.length) then y.deliver d
    else { y with out := y.out ++ [d] }) x2
  match x3.u.var? v with
  | some r3 => (x3.next v r3).postAll v
  | none => x3

/-! ## Steps in the state -/

/-- A delivery is sent to its rank (R199, R365, R402). -/
def State.sendDelivery (s : State) (d : Delivery) : State :=
  let st := d.who.st
  let e := (s.station st).rankEntry d.rank
  if d.rank = rankOf st then s.later (.crossingDelivery { d with dst := st })
  else if rankTransit e then s.modStation st (fun x => { x with held := x.held ++ [(d.rank, .crossingDelivery d)] })
  else
    let dst := if rankShut e then 8192 else rankCoord e
    (s.headSent st dst).later (.crossingDelivery { d with dst := dst })

/-- Whether the hold queue has a place for what the pop of a variable sends to ranks in transit (R199). -/
def State.popRoom (s : State) (st v : Nat) : Bool :=
  let x := s.station st
  let n := (x.xing.deps.filter (fun e => e.svar == v && e.drank != rankOf st && rankTransit (x.rankEntry e.drank))).length
  n == 0 || decide (x.held.length + n ≤ 64)

/-- A step of a station's unit takes effect. DESIGN CHOICE: ADDR of its records is the variable index, CONTEXT zero. -/
def State.xstep (s : State) (st : Nat) (x : XStep) : State :=
  let s1 := s.modStation st (fun y => { y with xing := x.u })
  let s2 := x.recs.foldl (fun (t : State) r => t.record (stationBank st) deferred 0x04 r.1 (BitVec.ofNat 64 r.2.1) r.2.2 0) s1
  x.out.foldl State.sendDelivery s2

/-- A delivery that comes to a shuttered station or a SHUT rank goes back to the return mailbox of its source (R194, R421). -/
def State.returnDelivery (s : State) (d : Delivery) : State :=
  let header := BitVec.ofNat 64 (d.rank * 2 ^ 51 + 255 * 2 ^ 40 + 3 * 2 ^ 36 + d.cls % 16 * 2 ^ 31 + d.srcRank * 2 ^ 18)
  (s.headSent d.dst d.srcRank).later (.messageArrival
    { source := .self, sender := 0, why := if d.dst = 8192 then 1 else 2, left := true, dst := d.srcRank, header := header,
      payload := deliveryWords d, tilec := 0, deadline := noDeadline, ep := 0, cv := false, cctr := 0, jseq := 0, reply := none,
      gang := none })

/-- CROSSING_DELIVERY (R402, R410 to R413). -/
def execCrossingDelivery (d : Delivery) (s : State) : Out :=
  if 8192 ≤ d.dst || (s.station d.dst).shut then .next (s.returnDelivery d)
  else
    let u := (s.station d.dst).xing
    if u.mustHold d && 1024 ≤ u.pool.length then .next s.wait
    else .next (s.xstep d.dst (u.start.deliver d))

/-! ## Commands (R398 to R403, R418, R419) -/

def xTrap (sub : Nat) : TrapInfo := engineTrap 5 sub

/-- A crossing command issues (R398); the innkeeper, the loader and the storer have none (R47). -/
def State.xing (s : State) (u : Uses) (body : State → Res (State × PcFlow)) : Out := s.issue .vstore u body

/-- The variable a register names, which must be defined. -/
def Crossing.named (u : Crossing) (a : Word) : Res (Nat × XVar) :=
  if bitsOf a 63 12 != 0 then .trap (xTrap 0xC0)
  else
    match u.var? a.toNat with
    | some r => .go (a.toNat, r)
    | none => .trap (xTrap 0xC0)

/-- XDEF (R398, R399, R405). -/
def execXdef (a b : Reg) (ka kb : Bool) (s : State) : Out :=
  let va := s.valS s.cur a
  let d := s.valS s.cur b
  s.xing ⟨[(.s a, ka), (.s b, kb)], []⟩ (fun t =>
    (need (bitsOf va 63 12 == 0) (xTrap 0xC0)).bind (fun _ =>
    (need (posNormal d) (xTrap 0xC1)).bind (fun _ =>
      let u := (t.station s.cur.st).xing
      let v := va.toNat
      let r : XVar := { x := 0, q := 0, s := 0, d := d, tl := 0, last := 0, tn := none, d0 := d, dmax := ceiling64 d, same := [],
                        sbase := 0, posted := none }
      let held := u.pool.any (fun e => e.var == v)
      let x := ({ u with pool := u.pool.filter (fun e => e.var != v) } : Crossing).start.setVar v r
      .go (t.xstep s.cur.st (if held then x.note 0xCC v 0 else x), .next))))

/-- XSET (R398, R399, R412). -/
def execXset (a b : Reg) (ka kb : Bool) (s : State) : Out :=
  let va := s.valS s.cur a
  let x := s.valS s.cur b
  s.xing ⟨[(.s a, ka), (.s b, kb)], []⟩ (fun t =>
    let f := bitsOf va 13 12
    (need (bitsOf va 63 14 == 0 && f != 3) (xTrap 0xC2)).bind (fun _ =>
      let u := (t.station s.cur.st).xing
      (u.named (BitVec.ofNat 64 (bitsOf va 11 0))).bind (fun (v, r) =>
      (need (f == 2 || finite64 x) (xTrap 0xC1)).bind (fun _ =>
        let r1 := match f with
          | 0 => { r with x := x, q := x }
          | 1 => { r with s := x }
          | _ => { r with tl := x.toNat }
        .go (t.xstep s.cur.st (u.start.setVar v { r1 with same := [] }), .next)))))

/-- XNEXT (R400, R418). -/
def execXnext (a : Reg) (ka : Bool) (s : State) : Out :=
  let va := s.valS s.cur a
  s.xing ⟨[(.s a, ka)], []⟩ (fun t =>
    let u := (t.station s.cur.st).xing
    (u.named va).bind (fun (v, r) => .go (t.xstep s.cur.st (u.start.next v r), .next)))

/-- XPOST (R400, R411). -/
def execXpost (a : Reg) (ka : Bool) (s : State) : Out :=
  let va := s.valS s.cur a
  s.xing ⟨[(.s a, ka)], []⟩ (fun t =>
    let u := (t.station s.cur.st).xing
    (u.named va).bind (fun (v, _) => .go (t.xstep s.cur.st (u.start.postAll v), .next)))

/-- XPOP (R199, R398, R401, R410, R414). -/
def execXpop (b : Reg) (s : State) : Out :=
  s.xing ⟨[], [.s b, .s (b + 1)]⟩ (fun t =>
    let w := s.cur
    let u := (t.station w.st).xing
    let answer (t : State) (x y : Word) : Res (State × PcFlow) :=
      .go (t.answerNow w (.engine b true) 0 (leBytes x.toNat 8 ++ leBytes y.toNat 8), .load)
    match u.head with
    | none => answer t 0x8000000000000000 0xFFFFFFFFFFFFFFFF
    | some (time, v) =>
      if u.curfew < time then answer t 0x8000000000000000 (BitVec.ofNat 64 time)
      else
        match u.var? v with
        | some r => (await (t.popRoom w.st v)).bind (fun _ => answer (t.xstep w.st (u.start.pop w (t.holder w).cls v time t.now r)) (BitVec.ofNat 64 v) (BitVec.ofNat 64 time))
        | none => answer t 0x8000000000000000 0xFFFFFFFFFFFFFFFF)

/-- XCURF (R403, R418). -/
def execXcurf (a : Reg) (ka : Bool) (s : State) : Out :=
  let va := s.valS s.cur a
  s.xing ⟨[(.s a, ka)], []⟩ (fun t =>
    .go (t.modStation s.cur.st (fun y => { y with xing := { y.xing with curfew := va.toNat } }), .next))

/-- The dependence entries after an XDEP, or none where the table is full (R402, R406). -/
def Crossing.setDep (u : Crossing) (sv dr dv : Nat) (coef : Word) : Option Crossing :=
  let same (e : XDep) : Bool := e.svar == sv && e.drank == dr && e.dvar == dv
  if u.deps.any same then some { u with deps := u.deps.map (fun e => if same e then { e with coef := coef } else e) }
  else if 16384 ≤ u.deps.length then none
  else some { u with deps := u.deps ++ [{ svar := sv, drank := dr, dvar := dv, coef := coef, seq := u.seq }], seq := (u.seq + 1) % 2 ^ 32 }

/-- XDEP (R398, R402, R406, R418). -/
def execXdep (a b : Reg) (ka kb : Bool) (s : State) : Out :=
  let va := s.valS s.cur a
  let coef := s.valS s.cur b
  s.xing ⟨[(.s a, ka), (.s b, kb)], []⟩ (fun t =>
    let u := (t.station s.cur.st).xing
    let sv := bitsOf va 11 0
    let dr := bitsOf va 24 12
    let dv := bitsOf va 36 25
    (need (bitsOf va 63 38 == 0) (xTrap 0xC2)).bind (fun _ =>
    (u.named (BitVec.ofNat 64 sv)).bind (fun _ =>
      if va.getLsbD 37 then
        let u1 := { u with deps := u.deps.filter (fun e => !(e.svar == sv && e.drank == dr && e.dvar == dv)) }
        .go (t.xstep s.cur.st u1.start, .next)
      else
        (need (finite64 coef) (xTrap 0xC1)).bind (fun _ =>
          match u.setDep sv dr dv coef with
          | none => .trap (xTrap 0xC3)
          | some u1 => .go (t.xstep s.cur.st u1.start, .next)))))

/-- A sample's write (R403): at once where no translation, no other station and no write of a bank's format (R225) lies between. -/
def State.sampleWrite (s : State) (w : Who) (a : Nat) (data : List Byte) : State :=
  let acc := s.engAccess w 5
  let part : AccPart := { acc := acc, kind := .store, addr := BitVec.ofNat 64 a, place := s.placeOf w a, size := 8, off := 0,
                          qual := .plain, data := data, attempt := 0, pa := none }
  match s.regionOf w a, s.behindFormat part with
  | some .far, _ | some (.remote _), _ | _, true => s.sendPart part
  | _, _ =>
    match s.engPieces acc .store false a 8 with
    | some (ps, t) => (t.engPut acc ps (cleanBytes data) notWhole).1
    | none => s.sendPart part

/-- XSAMP (R199, R221, R398, R403, R410, R418). -/
def execXsamp (a b : Reg) (ka kb : Bool) (s : State) : Out :=
  let va := s.valS s.cur a
  let addr := s.valS s.cur b
  s.xing ⟨[(.s a, ka), (.s b, kb)], []⟩ (fun t =>
    let w := s.cur
    let u := (t.station w.st).xing
    (u.named va).bind (fun (_, r) =>
    (need (addr.toNat % 8 == 0 && t.mayName w addr.toNat 8) (xTrap 0xC4)).bind (fun _ =>
    (await (t.holdRoom w [addr.toNat])).bind (fun _ =>
      let x := extrapolate r.x r.s ((u.curfew : Int) - (r.tl : Int))
      .go ((t.sampleWrite w addr.toNat (leBytes x.toNat 8)).bump, .next)))))

/-- XBUDG (R419). -/
def execXbudg (a b : Reg) (ka kb : Bool) (s : State) : Out :=
  let va := s.valS s.cur a
  let c := s.valS s.cur b
  s.xing ⟨[(.s a, ka), (.s b, kb)], []⟩ (fun t =>
    let u := (t.station s.cur.st).xing
    (need (bitsOf va 63 12 == 0) (xTrap 0xC2)).bind (fun _ =>
    (u.named va).bind (fun (v, r) =>
    (need (posNormal c && decide (r.d0.toNat ≤ c.toNat)) (xTrap 0xC5)).bind (fun _ =>
      .go (t.xstep s.cur.st (u.start.setVar v { r with dmax := c, d := minPos r.d c }), .next)))))

end Sys2Proof.Machine
end

