-- ==== Sys2Proof/Machine/Fpu.lean ====
section
/-! DEFINITION. The floating-point unit (R60, R77 to R84). -/
namespace Sys2Proof.Machine

/-- The format the D bit selects (R60). -/
def fmtOf (p : Bool) : FFmt := if p then fp64 else fp32

/-- A result rounded to a format, with every flag raised (R79, R80). -/
def FFmt.finish (f : FFmt) (rm : Rm) (r : FRes) : Nat × Nat := ((f.round rm r.1).1, r.2 ||| (f.round rm r.1).2)

/-- × b − d with one rounding to come (R80, R82): NaN operands keep their sign. -/
def fFms (rm : Rm) (x y z : Value) : FRes := fFma rm x y z.negate

/-- An FPU instruction: its sources, its result bits and the flags they raise (R79, R81). -/
def State.fpu (s : State) (d : Reg) (srcs : List (RegName × Bool)) (r : Nat × Nat) : Out :=
  s.issue .compute ⟨srcs, [.s d]⟩ (fun t =>
    (t.raiseF s.cur r.2).bind (fun u => .go (u.writeS s.cur d (BitVec.ofNat 64 r.1), .next)))

/-- The operand a register holds in a format (R81). -/
def State.fval (s : State) (f : FFmt) (a : Reg) : Value := f.decode ((s.valS s.cur a).toNat % 2 ^ f.width)

/-- An arithmetic instruction of two operands. -/
def State.fpu2 (s : State) (d a b : Reg) (ka kb p : Bool) (rm : Rm) (f : Rm → Value → Value → FRes) : Out :=
  let m := s.me.fpuMode rm
  s.fpu d [(.s a, ka), (.s b, kb)] ((fmtOf p).finish m (f m (s.fval (fmtOf p) a) (s.fval (fmtOf p) b)))

/-- A fused instruction: d is read too, and always waits (R50). -/
def State.fpu3 (s : State) (d a b : Reg) (ka kb p : Bool) (rm : Rm) (f : Rm → Value → Value → Value → FRes) : Out :=
  let m := s.me.fpuMode rm
  s.fpu d [(.s a, ka), (.s b, kb), (.s d, false)]
    ((fmtOf p).finish m (f m (s.fval (fmtOf p) a) (s.fval (fmtOf p) b) (s.fval (fmtOf p) d)))

/-- A comparison: an integer result (R82). -/
def State.fcmp (s : State) (d a b : Reg) (ka kb p : Bool) (f : Value → Value → Bool × Nat) : Out :=
  let r := f (s.fval (fmtOf p) a) (s.fval (fmtOf p) b)
  s.fpu d [(.s a, ka), (.s b, kb)] (if r.1 then 1 else 0, r.2)

/-- A conversion of one operand. -/
def State.fconv (s : State) (d a : Reg) (ka : Bool) (r : Nat × Nat) : Out := s.fpu d [(.s a, ka)] r

/-- A float converted to an integer of 32 or 64 bits, laid out in 64 (R83). -/
def toInteger (signed wide : Bool) (rm : Rm) (x : Value) : Nat × Nat :=
  let b := if wide then 64 else 32
  let (lo, hi) : Int × Int := if signed then (-(2 : Int) ^ (b - 1), 2 ^ (b - 1) - 1) else (0, 2 ^ b - 1)
  let r := toIntRange rm lo hi x
  ((BitVec.ofInt 64 r.1).toNat, r.2)

/-- The integer of 32 or 64 bits in a register (R82). -/
def ofInteger (signed wide : Bool) (x : Word) : Value :=
  let b := if wide then 64 else 32
  numOfInt (if signed then twos b x.toNat else ((x.toNat % 2 ^ b : Nat) : Int))

/-- FADD (R82). -/
def execFadd (d a b : Reg) (ka kb p : Bool) (rm : Rm) (s : State) : Out := s.fpu2 d a b ka kb p rm fAdd
/-- FSUB (R82). -/
def execFsub (d a b : Reg) (ka kb p : Bool) (rm : Rm) (s : State) : Out := s.fpu2 d a b ka kb p rm fSub
/-- FMUL (R82). -/
def execFmul (d a b : Reg) (ka kb p : Bool) (rm : Rm) (s : State) : Out := s.fpu2 d a b ka kb p rm (fun _ => fMul)
/-- FDIV (R82). -/
def execFdiv (d a b : Reg) (ka kb p : Bool) (rm : Rm) (s : State) : Out := s.fpu2 d a b ka kb p rm (fun _ => fDiv)
/-- FSQRT (R82). -/
def execFsqrt (d a : Reg) (ka p : Bool) (rm : Rm) (s : State) : Out :=
  let m := s.me.fpuMode rm
  s.fconv d a ka ((fmtOf p).finish m (fSqrt (s.fval (fmtOf p) a)))
/-- FFMA (R82). -/
def execFfma (d a b : Reg) (ka kb p : Bool) (rm : Rm) (s : State) : Out := s.fpu3 d a b ka kb p rm fFma
/-- FFMS (R82). -/
def execFfms (d a b : Reg) (ka kb p : Bool) (rm : Rm) (s : State) : Out := s.fpu3 d a b ka kb p rm fFms
/-- FMIN (R82). -/
def execFmin (d a b : Reg) (ka kb p : Bool) (s : State) : Out := s.fpu2 d a b ka kb p .rne (fun _ => fMinMax false)
/-- FMAX (R82). -/
def execFmax (d a b : Reg) (ka kb p : Bool) (s : State) : Out := s.fpu2 d a b ka kb p .rne (fun _ => fMinMax true)
/-- FEQ (R82). -/
def execFeq (d a b : Reg) (ka kb p : Bool) (s : State) : Out := s.fcmp d a b ka kb p fEq
/-- FLT (R82). -/
def execFlt (d a b : Reg) (ka kb p : Bool) (s : State) : Out := s.fcmp d a b ka kb p fLt
/-- FLE (R82). -/
def execFle (d a b : Reg) (ka kb p : Bool) (s : State) : Out := s.fcmp d a b ka kb p fLe
/-- FCLASS (R82): one bit set. -/
def execFclass (d a : Reg) (ka p : Bool) (s : State) : Out :=
  s.fconv d a ka (2 ^ (fmtOf p).classOf ((s.valS s.cur a).toNat % 2 ^ (fmtOf p).width), 0)
/-- FCVTIS (R82, R83). -/
def execFcvtis (d a : Reg) (t ka p : Bool) (rm : Rm) (s : State) : Out :=
  s.fconv d a ka (toInteger true t (s.me.fpuMode rm) (s.fval (fmtOf p) a))
/-- FCVTIN (R82, R83). -/
def execFcvtin (d a : Reg) (t ka p : Bool) (rm : Rm) (s : State) : Out :=
  s.fconv d a ka (toInteger false t (s.me.fpuMode rm) (s.fval (fmtOf p) a))
/-- FCVTFS (R82). -/
def execFcvtfs (d a : Reg) (t ka p : Bool) (rm : Rm) (s : State) : Out :=
  s.fconv d a ka ((fmtOf p).round (s.me.fpuMode rm) (ofInteger true t (s.valS s.cur a)))
/-- FCVTFN (R82). -/
def execFcvtfn (d a : Reg) (t ka p : Bool) (rm : Rm) (s : State) : Out :=
  s.fconv d a ka ((fmtOf p).round (s.me.fpuMode rm) (ofInteger false t (s.valS s.cur a)))
/-- FCVTW (R82, R84): the source format is the code of the b field. -/
def execFcvtw (d a : Reg) (f : BitVec 5) (ka p : Bool) (rm : Rm) (s : State) : Out :=
  s.fconv d a ka ((fmtOf p).round (s.me.fpuMode rm) (s.fval ((codeFloat f.toNat).getD fp32) a))

end Sys2Proof.Machine
end

