-- ==== Sys2Proof/Machine/Matrix.lean ====
section
/-! DEFINITION. The matrix engine (R144, R145, R213, R216, R243 to R258, R279 to R284): batches, the matrix commands at issue
and as they are performed, parking and restoring context 0. -/
namespace Sys2Proof.Machine

/-! ## Tiles (R249) -/

/-- An element of a tile, as FP32 bits. -/
def Station.accAt (x : Station) (t i : Nat) : BitVec 32 := look 0#32 x.acc (8192 * t + i)

/-- A whole tile written. Elements that are +0 are not listed. -/
def Station.setTile (x : Station) (t : Nat) (f : Nat → BitVec 32) : Station :=
  let new := (List.range 8192).filterMap (fun i => if f i = 0 then none else some (8192 * t + i, f i))
  { x with acc := x.acc.filter (fun e => decide (e.1 < 8192 * t)) ++ new ++ x.acc.filter (fun e => decide (8192 * t + 8192 ≤ e.1)) }

/-! ## The matrix sum (R144) -/

/-- The significand of an element as the array takes it (R141, R243). -/
def groupQ (fmt : Nat) (g : PlaneGroup) (k : Nat) : Int := if fmt = 0 then 1 - 2 * g.q.getD k 0 else g.q.getD k 0

/-- The canonical NaN of FP32. -/
def nan32 : BitVec 32 := 0x7FC00000

/-- One group's product sum for one row and one column, as an FP32 value; none for NaN. -/
def groupSum (fa fb : Nat) (a b : PlaneGroup) : Option (BitVec 32) :=
  if a.nan || b.nan then none
  else
    let s := ((List.range 32).map (fun k => groupQ fa a k * groupQ fb b k)).sum
    some (BitVec.ofNat 32 (fp32.round .rne ((numOfInt s).scale (a.e + b.e))).1)

/-- An accumulator element with a group's sum added. -/
def macStep (acc : BitVec 32) (t : Option (BitVec 32)) : BitVec 32 :=
  match t with
  | none => nan32
  | some t =>
    let x := fp32.decode acc.toNat
    let y := fp32.decode t.toNat
    if x.isNan || y.isNan then nan32
    else
      let z := (fAdd .rne x y).1
      if z.isNan then nan32 else BitVec.ofNat 32 (fp32.round .rne z).1

/-- K-group `g` of an A bank and a B bank is added into a tile (R144, R244). A group that the engine skips (R245) is all zero and
has the same effect. -/
def State.addGroup (s : State) (st t cl ba bb : Nat) (fa fb : BankFmt) (g : Nat) : State :=
  let as := (List.range 64).map (fun r => (s.engGroup cl ba fa (groupIx fa r g)).1)
  let bs := (List.range 128).map (fun c => (s.engGroup cl bb fb (groupIx fb c g)).1)
  let none_ : PlaneGroup := { q := [], e := 0, nan := false, flags := 0 }
  s.modStation st (fun x => x.setTile t (fun i =>
    macStep (x.accAt t i) (groupSum fa.fmt fb.fmt (as.getD (i / 128) none_) (bs.getD (i % 128) none_))))

/-! ## Performance -/

/-- The command at the head of a context's queue changes. -/
def State.setMtxHead (s : State) (st : Nat) (c1 : Bool) (c : MtxCmd) : State :=
  s.modStation st (fun x => x.setMtx c1 (match x.mtx c1 with | _ :: r => c :: r | [] => []))

/-- The engine goes on with a context. -/
def State.mtxLater (s : State) (st : Nat) (c1 : Bool) : State := s.later (.mtxCommandPerform st (ctxNat c1))

/-- Once the commands of context 0 that wait to be completed are, a batch that waits to close is closed (R252), and a context that
waits to be restored is restored (R256). -/
def State.mtxSettle (s : State) (st : Nat) : State :=
  let x := s.station st
  let held := x.mtx0.any (fun c => some (slotNumber (workOfTask c.who c.acc.task).core) == x.batch0)
  let s1 := if x.closing0 && !held then s.modStation st (fun y => { y with batch0 := none, closing0 := false }) else s
  if x.restoring && x.mtx0.isEmpty then s1.unparkNow st else s1

/-- The command at the head is complete. -/
def State.mtxDone (s : State) (st : Nat) (c1 : Bool) : State :=
  let s1 := (s.modStation st (fun x => x.setMtx c1 (x.mtx c1).tail)).mtxSettle st
  if ((s1.station st).mtx c1).isEmpty then s1 else s1.mtxLater st c1

/-- The 128 values of a tile's row. -/
def Station.tileRow (x : Station) (t r : Nat) : List Value :=
  (List.range 128).map (fun c => fp32.decode (x.accAt t (128 * r + c)).toNat)

/-- Whether a drain's rows up to `r` have written every group of a bank line (R36). -/
def drainedLine (cl bank : Nat) (f : BankFmt) (r l : Nat) : Bool :=
  (groupsOfLine cl bank f l).all (fun ix => decide (ix % lines f ≤ r) && decide (ix / lines f < 4))

/-- A row placed in an A bank (R258): K positions 0 to 127 from the columns. -/
def State.drainToBank (s : State) (cl bank : Nat) (f : BankFmt) (r : Nat) (xs : List Value) : State :=
  (List.range 4).foldl (fun t g =>
    t.placeClean cl bank f (groupIx f r g) (placeValues f ((xs.drop (32 * g)).take 32)) (drainedLine cl bank f r)) s

/-- One row of a drain (R213, R242, R257, R258). -/
def State.drainRow (s : State) (st : Nat) (c1 : Bool) (c : MtxCmd) (dst stride : Word) (t : Nat) : Option State :=
  let r := c.step
  let xs := (s.station st).tileRow t r
  let next (u : State) : State := (u.setMtxHead st c1 { c with step := r + 1, retry := none }).mtxLater st c1
  match s.planeEnd c.who dst.toNat with
  | some (cl, bank, f, _) => some (next (s.drainToBank cl bank f r xs))
  | none =>
    let data := cleanBytes (packRow c.regs.dfmt xs)
    match s.engPieces c.acc .store c.retry.isSome (rowAt dst stride r) data.length with
    | none => none
    | some (ps, u) =>
      match u.engFault c.acc ps c.retry with
      | (v, some e) => some ((v.setMtxHead st c1 { c with retry := some e }).laterAt e.at_ (.mtxCommandPerform st (ctxNat c1)))
      | (v, none) => some (next (v.engPut c.acc ps data notWhole).1)

/-- The park area is written and the batch state cleared (R254). -/
def State.parkNow (s : State) (st n : Nat) : State :=
  let x := s.station st
  let a := parkAt st
  let tiles := ((List.range 32768).map (fun i => leBytes (look 0#32 x.acc i).toNat 4)).flatten
  let op0 := match x.batch0 with | some k => 1 + 2 * k | none => 0
  let words := wordBytes ([op0, x.mx.pa, x.mx.pb, x.mx.kg, x.mx.dfmt].map (BitVec.ofNat 64))
  let s1 := s.writeAt a (tiles ++ words ++ List.replicate (8192 - 40) (0 : Byte))
  s1.modStation st (fun x => { x with batch0 := none, parkedBy := some n, parking := none })

/-- The slot that MPARK or MUNPARK holds goes on. -/
def State.mtxRelease (s : State) (w : Who) (id : Nat) : State :=
  s.modHolder w (fun h => { h with acquire := if h.acquire = some id then none else h.acquire })

/-- Whether the command at the head of a context can go on now (R213, R215, R225, R242). -/
def State.mtxGoes (s : State) (c : MtxCmd) : Bool :=
  let drains : Bool := match c.kind with | .drain _ _ _ => true | _ => false
  let w := workOfTask c.who c.acc.task
  c.ready && !retryAhead s.now c.retry && s.storesDone (some (w, c.id)) && !s.engBehind c.id (fun cl b => s.mtxInBank cl b c) &&
  !(drains && s.publishBefore w c.id)

/-- Whether context 0 makes way for context 1 (R246): between its groups and rows, while context 1 has a command that can go on. -/
def State.yields (s : State) (st : Nat) (c1 : Bool) : Bool :=
  !c1 && (match (s.station st).mtx1 with | c :: _ => s.mtxGoes c | [] => false)

/-- MTX_COMMAND_PERFORM (R144, R145, R213, R243 to R245, R250, R254 to R258, R280 to R282): one K-group, one drain row, or one
short command of a context, in the context's order. -/
def execMtxCommandPerform (st ctx : Nat) (s : State) : Out :=
  let c1 := ctx != 0
  match (s.station st).mtx c1 with
  | [] => .next s
  | c :: _ =>
    if !s.mtxGoes c || s.yields st c1 then .next s.wait
    else
      match c.kind with
      | .zero t => .next ((s.modStation st (fun x => x.setTile t (fun _ => 0))).mtxDone st c1)
      | .mul a b t =>
        if c.regs.kg ≤ c.step then .next (s.mtxDone st c1)
        else
          match s.ownBank c.who a.toNat, s.ownBank c.who b.toNat with
          | some (ba, fa), some (bb, fb) =>
            let u := s.addGroup st t (clusterOf st) ba bb fa fb c.step
            .next ((u.setMtxHead st c1 { c with step := c.step + 1 }).mtxLater st c1)
          | _, _ => .next (s.mtxDone st c1)
      | .drain dst stride t =>
        if 64 ≤ c.step then .next (s.mtxDone st c1)
        else
          match s.drainRow st c1 c dst stride t with
          | none => .next s.wait
          | some u => .next u
      | .park n =>
        if (s.holder c.who).acquire != some c.id then .next (s.mtxDone st c1)
        else .next (((s.parkNow st n).mtxRelease c.who c.id).mtxDone st c1)
      | .unpark _ => .next (((s.unparkNow st).mtxRelease c.who c.id).mtxDone st c1)

/-! ## Commands at issue (R250, R251, R253 to R255, R279 to R284) -/

/-- The check of R253 and the wait of R254, then a command's own checks. -/
def State.mtxIssue (s : State) (u : Uses) (body : State → Res (State × PcFlow)) : Out :=
  s.issue .vstore u (fun t =>
    (need (!t.parkRefuses s.cur) (engineTrap 3 0x6D)).bind (fun _ =>
    (await (!t.mtxHeld s.cur)).bind (fun _ => body t)))

/-- Whether a context's queue has room (R250). -/
def Station.mtxRoom (x : Station) (w : Who) : Bool := decide ((x.mtx (isCtx1 w)).length < 8)

/-- The checks a tile command makes (R280). -/
def State.tileCheck (s : State) (w : Who) (t : BitVec 3) : Res Unit :=
  (need ((s.station w.st).holdsBatch w) (engineTrap 3 0x60)).bind (fun _ => need (tileFits w t.toNat) (engineTrap 3 0x61))

/-- MMUL (R216, R281). -/
def execMmul (a b : Reg) (ka kb : Bool) (t : BitVec 3) (s : State) : Out :=
  let va := s.valS s.cur a
  let vb := s.valS s.cur b
  s.mtxIssue ⟨[(.s a, ka), (.s b, kb)], []⟩ (fun u =>
    let x := u.station s.cur.st
    (noFault 3 (u.mmulFault s.cur x.mx va.toNat vb.toNat t.toNat)).bind (fun _ =>
    (await (x.mtxRoom s.cur)).bind (fun _ => .go ((u.acceptMtx s.cur (.mul va vb t.toNat) true).bump, .next))))

/-- MZERO (R216, R280). -/
def execMzero (t : BitVec 3) (s : State) : Out :=
  s.mtxIssue ⟨[], []⟩ (fun u =>
    (u.tileCheck s.cur t).bind (fun _ =>
    (await ((u.station s.cur.st).mtxRoom s.cur)).bind (fun _ => .go ((u.acceptMtx s.cur (.zero t.toNat) true).bump, .next))))

/-- The first check of R282 that fails. -/
def State.drainFault (s : State) (w : Who) (dfmt : Nat) (dst stride : Word) : Option Nat :=
  let rb := 16 * codeBits dfmt + (if codeScaled dfmt then 4 else 0)
  let rows := List.range 64
  match s.planeEnd w dst.toNat with
  | some (_, _, f, off) => if off != 0 || f.b || f.fmt == 0x16 then some 0x6C else none
  | none =>
    if rows.any (fun r => !s.mayName w (rowAt dst stride r) rb) then some 0x6B
    else if rows.any (fun r => s.touchesPlane w (rowAt dst stride r) rb) then some 0x6C
    else none

/-- MDRAIN (R216, R257, R258, R282). A plane bank as destination takes no stride: s[b] is not read. -/
def execMdrain (a b : Reg) (ka kb : Bool) (t : BitVec 3) (s : State) : Out :=
  let dst := s.valS s.cur a
  let stride := s.valS s.cur b
  let srcs : List (RegName × Bool) := if (s.planeEnd s.cur dst.toNat).isSome then [(.s a, ka)] else [(.s a, ka), (.s b, kb)]
  s.mtxIssue ⟨srcs, []⟩ (fun u =>
    let x := u.station s.cur.st
    (u.tileCheck s.cur t).bind (fun _ =>
    (noFault 3 (u.drainFault s.cur x.mx.dfmt dst stride)).bind (fun _ =>
    (await (x.mtxRoom s.cur)).bind (fun _ => .go ((u.acceptMtx s.cur (.drain dst stride t.toNat) true).bump, .next)))))

/-- Whether a slot's MOPEN is the next to be granted: the first waiting one that context 0 is open to (R250). -/
def State.mopenTurn (s : State) (w : Who) : Bool :=
  let first := (s.station w.st).mopenq.find? (fun n =>
    let v : Who := { st := w.st, core := slotOf n }
    (s.holder v).waiting && !s.mtxHeld v)
  match first with
  | some n => n == slotNumber w.core
  | none => true

/-- MOPEN (R250, R279): it opens the batch, or takes its place among those that wait. -/
def execMopen (s : State) : Out :=
  s.mtxIssue ⟨[], []⟩ (fun t =>
    let w := s.cur
    let x := t.station w.st
    let n := slotNumber w.core
    (need (!x.holdsBatch w) (engineTrap 3 0x65)).bind (fun _ =>
    (await (x.mtxRoom w)).bind (fun _ =>
      if isCtx1 w then .go (t.modStation w.st (fun y => { y with batch1 := true }), .next)
      else if x.batch0.isNone && t.mopenTurn w then
        .go (t.modStation w.st (fun y => { y with batch0 := some n, mopenq := y.mopenq.filter (· != n) }), .next)
      else if (t.holder w).waiting && x.mopenq.contains n then .wait
      else
        let t1 := t.modStation w.st (fun y => { y with mopenq := if y.mopenq.contains n then y.mopenq else y.mopenq ++ [n] })
        .go (t1.modHolder w (fun h => { h with waiting := true }), .stay))))

/-- MCLOSE (R250, R279). -/
def execMclose (s : State) : Out :=
  s.mtxIssue ⟨[], []⟩ (fun t =>
    (need ((t.station s.cur.st).holdsBatch s.cur) (engineTrap 3 0x66)).bind (fun _ =>
    (await ((t.station s.cur.st).mtxRoom s.cur)).bind (fun _ =>
      .go (t.modStation s.cur.st (fun y => if isCtx1 s.cur then { y with batch1 := false } else { y with batch0 := none }), .next))))

/-- MCTX (R251, R283). -/
def execMctx (a : Reg) (ka : Bool) (s : State) : Out :=
  let v := s.valS s.cur a
  s.mtxIssue ⟨[(.s a, ka)], []⟩ (fun t =>
    let w := s.cur
    let n := bitsOf v 1 0
    let target := t.holder { st := w.st, core := slotOf n }
    let ok := !isCtx1 w && (t.station w.st).holdsBatch w && bitsOf v 63 2 == 0 && n != slotNumber w.core &&
      target.state != .free && target.state != .reserved
    (need ok (engineTrap 3 0x67)).bind (fun _ =>
    (await ((t.station w.st).mtxRoom w)).bind (fun _ => .go (t.modStation w.st (fun y => { y with batch0 := some n }), .next))))

/-- MPARK (R253, R254, R284): the slot issues nothing further until the park area is written. -/
def execMpark (s : State) : Out :=
  s.issue .vstore ⟨[], []⟩ (fun t =>
    let w := s.cur
    let x := t.station w.st
    (need (!isCtx1 w && (t.holder w).inh && decide (23 ≤ x.app1)) (engineTrap 3 0x68)).bind (fun _ =>
    (await (x.parkedBy.isNone && x.parking.isNone && x.mtxRoom w && !t.mtxHeld w)).bind (fun _ =>
      let t1 := t.modStation w.st (fun y => { y with parking := some (slotNumber w.core) })
      let t2 := t1.modHolder w (fun h => { h with acquire := some t.ops })
      .go ((t2.acceptMtx w (.park (slotNumber w.core)) true).bump, .next))))

/-- MUNPARK (R253, R255, R284): the slot issues nothing further until context 0 is restored. -/
def execMunpark (s : State) : Out :=
  s.mtxIssue ⟨[], []⟩ (fun t =>
    let w := s.cur
    let x := t.station w.st
    (need (!isCtx1 w && x.parker == some (slotNumber w.core) && !x.holdsBatch w) (engineTrap 3 0x69)).bind (fun _ =>
    (await (x.mtxRoom w)).bind (fun _ =>
      let t1 := t.modHolder w (fun h => { h with acquire := some t.ops })
      .go ((t1.acceptMtx w (.unpark (slotNumber w.core)) true).bump, .next))))

end Sys2Proof.Machine
end

