-- ==== Sys2Proof/Machine/Streams.lean ====
section
/-! DEFINITION. Streams, station queues and rings (R25, R182 to R184, R237 to R240, R272 to R275): binding and releasing a
port, the fetches of an input stream, and the ring at its commons home. -/
namespace Sys2Proof.Machine

/-! ## The port selector (R237) -/

def selPort (v : Word) : Nat := bitsOf v 2 0
def selOut (v : Word) : Bool := v.getLsbD 4
def selKind (v : Word) : Bool := v.getLsbD 5
def selQueue (v : Word) : Nat := bitsOf v 11 8
def selIdx (v : Word) : Nat := bitsOf v 19 16

/-- The bits that must be zero, whatever is bound. -/
def selReserved (v : Word) : Bool := bitsOf v 63 20 != 0 || bitsOf v 15 12 != 0 || bitsOf v 7 6 != 0 || v.getLsbD 3

/-- The selector of an STRM, and of a QBIND, as R237 allows it. -/
def strmSelector (v : Word) : Bool := !selReserved v && !selKind v && selQueue v == 0 && selIdx v == 0
def qbindSelector (v : Word) : Bool :=
  !selReserved v && (if selKind v then selIdx v == 0 && decide (selQueue v < 8) else selQueue v == 0)

/-- Whether a port is free to be bound by a core (R237). -/
def Holder.mayBind (h : Holder) (c : Core) (p : Nat) : Bool :=
  !h.ports.any (fun b => b.port == p) && !(decide (4 ≤ p) && (c == .loader || c == .storer))

/-- A port is bound: its register holds zero until its first element moves (R274). -/
def Holder.bind (h : Holder) (b : PortBinding) : Holder := { h.setPortReg b.port 0 with ports := h.ports ++ [b] }

/-- A new binding. -/
def newBinding (p : Nat) (out : Bool) (t : PortTarget) : PortBinding :=
  { port := p, out := out, target := t, next := 0, pending := 0, held := [], ended := false, retry := none }

/-! ## STRM (R238, R272) -/

/-- The first check of R272 that fails. -/
def State.strmFault (s : State) (w : Who) (v : Word) (base : Word) (r : CopySet) : Option Nat :=
  let p := selPort v
  let rows := List.range r.rows
  if !strmSelector v then some 0x50
  else if !(s.holder w).mayBind w.core p then some 0x51
  else if r.rows * r.len % portBytes p != 0 then some 0x52
  else if r.len = 0 then some 0x40
  else if rows.any (fun i => !s.mayName w (rowAt base r.sstr i) r.len) then some 0x41
  else if rows.any (fun i => s.touchesPlane w (rowAt base r.sstr i) r.len) then some 0x42
  else none

/-- STRM (R238, R272). -/
def execStrm (a b : Reg) (ka kb : Bool) (t : BitVec 3) (s : State) : Out :=
  let base := s.valS s.cur a
  let v := s.valS s.cur b
  s.issue .store ⟨[(.s a, ka), (.s b, kb)], []⟩ (fun u =>
    let w := s.cur
    let r := (u.station w.st).sets[tagSet t]
    (noFault 2 (u.strmFault w v base r)).bind (fun _ =>
    (await (u.copyRoom w.st)).bind (fun _ =>
      let h := u.holder (u.worksFor w)
      let p := selPort v
      let b0 := newBinding p (selOut v) (.stream base r.len r.rows r.sstr u.ops h.pgceil h.pgtries)
      let fetches := !selOut v && decide (0 < streamTotal p r.len r.rows)
      let b1 := { b0 with pending := if fetches then 1 else 0, ended := !selOut v && !fetches }
      let u1 := u.modHolder w (fun k => k.bind b1)
      let u2 := if fetches then u1.later (.streamFetch w p) else u1
      .go (u2.bump, .next))))

/-- What a piece of a stream's element comes to where it cannot be read. DEDUCED: a refused piece traps with its cause. -/
def State.pieceTrap (s : State) (w : Who) (p : Piece) : Option TrapInfo :=
  let a := BitVec.ofNat 64 p.addr
  match p.ref with
  | .mem m => if s.poisonedAt m p.len then some (poisonTrap a) else none
  | .window _ _ => none
  | .fault | .heldUp | .silent => some (pageTrap 0 a)
  | .refused 0x0F => some (undeliverable (BitVec.ofNat 64 ((s.remoteRank w p.addr).getD 0)))
  | .refused c => some (trapOf c a)

/-- The parts of a stream's element, each with its place in it. -/
def State.streamRefs (s : State) (acc : Access) (afresh : Bool) : List (Nat × Nat × Nat) → Option (List Piece × State)
  | [] => some ([], s)
  | (a, n, off) :: r =>
    match s.engPieces acc .load afresh a n with
    | none => none
    | some (ps, t) => (t.streamRefs acc afresh r).map (fun (qs, u) => (ps.map (fun p => { p with off := p.off + off }) ++ qs, u))

/-- The elements of an input port that have been popped past a load which has not settled (R90): they keep their places. -/
def Holder.popped (h : Holder) (port : Nat) : Nat :=
  ((h.unsettled.map (fun u => u.pops)).flatten.filter (fun e => e.1 == port)).length

/-- Whether an element of a stream lies in a bank whose format is being written: every fetch that has not been made waits (R225). -/
def State.streamBehind (s : State) (w : Who) (ps : List (Nat × Nat × Nat)) : Bool :=
  s.clusters.any (fun e => e.2.closing.any (fun k => ps.any (fun p => s.rangeInBank w e.1 k.1 p.1 p.2.1)))

/-- STREAM_FETCH (R213, R238): the copy engine fetches the next element of an input stream while it holds fewer than four. -/
def execStreamFetch (who : Who) (port : Nat) (s : State) : Out :=
  let h := s.holder who
  match h.ports.find? (fun b => b.port == port) with
  | none => .next s
  | some b =>
    match b.target with
    | .stream base len rows stride op ceil tries =>
      let total := streamTotal port len rows
      let holds := b.held.length + h.popped port
      if b.out || total ≤ b.next || 4 ≤ holds then .next (s.setHolder who (h.setBinding { b with pending := 0 }))
      else
        let ps := streamPieces base len stride (portBytes port) b.next
        let work := s.worksFor who
        if retryAhead s.now b.retry || !s.storesDone (some (work, op)) || s.copiesBefore work op || s.streamBehind who ps then .next s.wait
        else
          let acc := { s.accessOf who op h.pc 2 with ceil := ceil, tries := tries }
          match s.streamRefs acc b.retry.isSome ps with
          | none => .next s.wait
          | some (ps, t) =>
            match t.engFault acc ps b.retry with
            | (v, some r) =>
              .next ((v.modHolder who (fun k => k.setBinding { b with retry := some r })).laterAt r.at_ (.streamFetch who port))
            | (v, none) =>
              let bytes := (v.engBytes ps).map (fun e => e.b)
              let e : PortElem := { idx := b.next, val := leVec bytes, trap := ps.findSome? (v.pieceTrap who) }
              let more := decide (b.next + 1 < total)
              let again := more && decide (holds + 1 < 4)
              let b1 := { b with next := b.next + 1, held := b.held ++ [e], ended := !more, retry := none, pending := if again then 1 else 0 }
              let u := v.modHolder who (fun k => k.setBinding b1)
              .next (if again then u.later (.streamFetch who port) else u)
    | _ => .next s

/-! ## Rings at their home (R182 to R184, R240) -/

/-- A doubleword of a ring's descriptor. -/
def ringAt (die desc k : Nat) : Nat := Config.commonsAt die + desc + 8 * k
def State.ringWord (s : State) (die desc k : Nat) : Word := s.wordAt (ringAt die desc k)
def State.setRingWord (s : State) (die desc k : Nat) (v : Word) : State := s.writeAt (ringAt die desc k) (leBytes v.toNat 8)

/-- An address of a commons, under either of its names, as a die sees it (R303). -/
def commonsRef (die : Nat) (a : Nat) : Option Nat :=
  if 0x4000000 ≤ a && a < 0x8000000 then some (Config.commonsAt die + (a - 0x4000000))
  else if 0x20000000 ≤ a && a < 0x40000000 then some (Config.commonsAt ((a - 0x20000000) / 0x4000000) + (a - 0x20000000) % 0x4000000)
  else none

def State.ringEsize (s : State) (die desc : Nat) : Nat := bitsOf (s.ringWord die desc 1) 63 48
def State.ringNent (s : State) (die desc : Nat) : Nat := bitsOf (s.ringWord die desc 1) 31 0
def State.ringHead (s : State) (die desc : Nat) : Nat := (s.ringWord die desc 2).toNat
def State.ringTail (s : State) (die desc : Nat) : Nat := (s.ringWord die desc 3).toNat
def State.ringClosed (s : State) (die desc : Nat) : Bool := (s.ringWord die desc 7).getLsbD 0

/-- The address of a ring's entry, as its descriptor names it. -/
def State.entryAddr (s : State) (die desc i : Nat) : Nat :=
  (s.ringWord die desc 0).toNat + (i % s.ringNent die desc) * s.ringEsize die desc

/-- Whether a descriptor is as R182 gives it. DESIGN CHOICE: BASE must be an address of a commons. -/
def State.ringLegal (s : State) (die desc : Nat) : Bool :=
  let e := s.ringEsize die desc
  let n := s.ringNent die desc
  decide (8 ≤ e) && decide (e ≤ 256) && e % 8 == 0 && bitsOf (s.ringWord die desc 1) 47 32 == 0 &&
  decide (2 ≤ n) && decide (n ≤ 65536) && 2 ^ Nat.log2 n == n && bitsOf (s.ringWord die desc 7) 63 1 == 0 &&
  (commonsRef die (s.ringWord die desc 0).toNat).isSome

/-- The checkpoint record (R184). DESIGN CHOICE: a CKPT that names no commons takes no record. -/
def State.checkpoint (s : State) (die desc : Nat) : State :=
  match commonsRef die (s.ringWord die desc 6).toNat with
  | none => s
  | some a =>
    s.writeAt a (wordBytes [s.ringWord die desc 5, s.ringWord die desc 2, s.ringWord die desc 3,
      BitVec.ofNat 64 (bitsOf (s.ringWord die desc 4) 47 32), s.time, 0, 0, 0])

/-- HEAD advances by one popped entry, LAPS with every NENT of them, and the checkpoint is written (R182, R184, R240). -/
def State.ringAdvance (s : State) (die desc : Nat) : State :=
  let head := s.ringHead die desc + 1
  let s1 := (s.setRingWord die desc 2 (BitVec.ofNat 64 head)).modDie die (fun d =>
    let r := d.ring desc
    d.setRing desc { r with handed := r.handed - 1 })
  if head % s.ringNent die desc = 0 then
    let laps := (s.ringWord die desc 5).toNat + 1
    let s2 := s1.setRingWord die desc 5 (BitVec.ofNat 64 laps)
    let nlap := bitsOf (s.ringWord die desc 4) 15 0
    if nlap != 0 && laps % nlap == 0 then s2.checkpoint die desc else s2
  else s1

/-- A binding of a holder changed, if the port is still bound to the ring. -/
def State.modRingPort (s : State) (r : RingOp) (f : PortBinding → PortBinding) : State :=
  s.modHolder r.who (fun h => { h with ports := h.ports.map (fun b =>
    if b.port == r.port && b.target == .ring r.die r.desc r.idx then f b else b) })

/-- An entry read for a consumer: a poisoned one traps POISON where it is popped (R36, R238). -/
def State.ringEntry (s : State) (die desc i : Nat) : PortElem :=
  let addr := s.entryAddr die desc i
  let n := s.ringEsize die desc
  match commonsRef die addr with
  | some a => { idx := i, val := leVec (s.readAt a n), trap := if s.poisonedAt a n then some (poisonTrap (BitVec.ofNat 64 addr)) else none }
  | none => { idx := i, val := 0, trap := some (accessTrap (BitVec.ofNat 64 addr)) }

/-- The oldest consumer request is answered, if an entry is there for it: one that was given back, else the next one at
HEAD; or it learns that the ring is closed and empty (R183, R240). -/
def State.ringServe1 (s : State) (die desc : Nat) : Option State :=
  let r := (s.die die).ring desc
  match r.requests with
  | [] => none
  | q :: rest =>
    let give (e : PortElem) (back : List PortElem) : State :=
      (s.modDie die (fun d => d.setRing desc { r with handed := r.handed + 1, returned := back, requests := rest })).modRingPort q
        (fun b => { b with held := b.held ++ [e] })
    match r.returned with
    | e :: back => some (give e back)
    | [] =>
      let i := s.ringHead die desc + r.handed
      if i < s.ringTail die desc then some (give (s.ringEntry die desc i) [])
      else if s.ringClosed die desc && r.handed == 0 then
        some ((s.modDie die (fun d => d.setRing desc { r with requests := rest })).modRingPort q (fun b => { b with ended := true }))
      else none

/-- The oldest push or RINGEOS that waits is performed, if there is room (R25, R183, R275). A RINGEOS carries no data. -/
def State.ringPush1 (s : State) (die desc : Nat) : Option State :=
  let r := (s.die die).ring desc
  match r.pushes with
  | [] => none
  | q :: rest =>
    let s1 := s.modDie die (fun d => d.setRing desc { r with pushes := rest })
    if q.data.isEmpty then
      let m := (s.ringWord die desc 4).toNat
      let eos := m / 2 ^ 32 % 2 ^ 16 ||| 2 ^ q.idx
      let prod := m / 2 ^ 48
      let s2 := s1.setRingWord die desc 4 (BitVec.ofNat 64 (m - m / 2 ^ 32 % 2 ^ 16 * 2 ^ 32 + eos * 2 ^ 32))
      some (if eos = prod then s2.setRingWord die desc 7 (s.ringWord die desc 7 ||| 1) else s2)
    else if s.ringTail die desc < s.ringHead die desc + s.ringNent die desc then
      let i := s.ringTail die desc
      let s2 := match commonsRef die (s.entryAddr die desc i) with
        | some a => s1.writeAt a (q.data.take (s.ringEsize die desc))
        | none => s1
      some ((s2.setRingWord die desc 3 (BitVec.ofNat 64 (i + 1))).modRingPort q (fun b => { b with pending := b.pending - 1 }))
    else none

/-- A ring serves what waits at it until nothing more can go on. -/
def State.ringRun (die desc : Nat) : Nat → State → State
  | 0, s => s
  | n + 1, s =>
    match s.ringServe1 die desc with
    | some t => State.ringRun die desc n t
    | none =>
      match s.ringPush1 die desc with
      | some t => State.ringRun die desc n t
      | none => s

/-- Enough turns for everything that waits. -/
def State.ringSettle (s : State) (die desc : Nat) : State :=
  let r := (s.die die).ring desc
  State.ringRun die desc (r.requests.length + r.pushes.length) s

/-- RING_PUSH (R182, R183): a push reaches its home, and waits there while the ring is full. -/
def execRingPush (r : RingOp) (s : State) : Out :=
  .next ((s.modDie r.die (fun d => let q := d.ring r.desc; d.setRing r.desc { q with pushes := q.pushes ++ [r] })).ringSettle r.die r.desc)

/-- RING_POP (R182 to R184, R240): a pop advances HEAD, and the port asks for the next entry. -/
def execRingPop (r : RingOp) (s : State) : Out :=
  let s1 := if r.data = [1] || r.data = [2] then s.ringAdvance r.die r.desc else s
  let s2 := if r.data = [2] || r.data = [3] then s1
    else s1.modDie r.die (fun d => let q := d.ring r.desc; d.setRing r.desc { q with requests := q.requests ++ [r] })
  .next (s2.ringSettle r.die r.desc)

/-- Whether a RINGEOS or a registration may leave its station: the slot's earlier stores and COPY commands are done (R213, R265). -/
def State.ringGoes (s : State) (r : RingOp) : Bool := s.copyReleased (workOfTask r.who r.task) r.op

/-- RINGEOS_AT_HOME (R183, R213, R275): it leaves in its order, and is performed at the commons home behind the port's pushes. -/
def execRingeosAtHome (r : RingOp) (s : State) : Out :=
  if !r.sent then .next (if s.ringGoes r then s.later (.ringeosAtHome { r with sent := true }) else s.wait)
  else .next ((s.modDie r.die (fun d => let q := d.ring r.desc; d.setRing r.desc { q with pushes := q.pushes ++ [{ r with data := [] }] })).ringSettle
    r.die r.desc)

/-- RING_REGISTRATION (R213, R240, R273): the home answers a ring QBIND; `data` is [1] for output and [0] for input. -/
def execRingRegistration (r : RingOp) (s : State) : Out :=
  let refuse (sub : Nat) : Out := .next (s.partBack r.who r.op 0 [] (some (engineTrap 2 sub)))
  if !r.sent then .next (if s.ringGoes r then s.later (.ringRegistration { r with sent := true }) else s.wait)
  else if s.ringEsize r.die r.desc != portBytes r.port then refuse 0x53
  else if !s.ringLegal r.die r.desc then refuse 0x54
  else
    let out := r.data == [1]
    let bit := 2 ^ (r.idx + if out then 48 else 16)
    let s1 := s.setRingWord r.die r.desc 4 (s.ringWord r.die r.desc 4 ||| BitVec.ofNat 64 bit)
    if (s.holder r.who).unsettled.any (fun u => u.op == r.op) then
      let s2 := s1.modHolder r.who (fun h => h.bind (newBinding r.port out (.ring r.die r.desc r.idx)))
      let s3 := if out then s2 else s2.later (.ringPop { r with data := [0] })
      .next (s3.partBack r.who r.op 0 [] none)
    else .next s1

/-! ## QBIND, PREL, RINGEOS (R237, R239, R240, R273 to R275) -/

/-- The die and the offset of a ring descriptor (R240). -/
def State.ringPlace (s : State) (w : Who) (a : Nat) : Option (Nat × Nat) :=
  if a % 64 != 0 then none
  else
    match s.regionOf w a, s.placeOf w a with
    | some (.commons _), .commons d off => some (d, off)
    | _, _ => none

/-- QBIND (R237, R239, R240, R273): a queue is bound at issue; of a ring the home decides. -/
def execQbind (a b : Reg) (ka kb : Bool) (s : State) : Out :=
  let desc := s.valS s.cur a
  let v := s.valS s.cur b
  s.issue .store ⟨[(.s a, ka), (.s b, kb)], []⟩ (fun t =>
    let w := s.cur
    let p := selPort v
    (need (qbindSelector v) (engineTrap 2 0x50)).bind (fun _ =>
    (need ((t.holder w).mayBind w.core p && !(selKind v && decide (4 ≤ p))) (engineTrap 2 0x51)).bind (fun _ =>
      if selKind v then
        (await (t.copyRoom w.st)).bind (fun _ =>
          .go ((t.modHolder w (fun h => h.bind (newBinding p (selOut v) (.queue (selQueue v))))).bump, .next))
      else
        match t.ringPlace w desc.toNat with
        | none => .trap (accessTrap desc)
        | some (d, off) =>
          (await (t.copyRoom w.st)).bind (fun _ =>
          let r : RingOp := { who := w, op := t.ops, port := p, die := d, desc := off, idx := selIdx v,
                              data := if selOut v then [1] else [0], task := (t.holder (t.worksFor w)).taskid }
          let t1 := (t.addUnsettled w .answer desc false 1).modHolder w (fun k => { k with acquire := some t.ops })
          .go (t1.bump.later (.ringRegistration r), .load)))))

/-- PREL (R240, R274). -/
def execPrel (a : Reg) (ka : Bool) (s : State) : Out :=
  let v := s.valS s.cur a
  s.issue .store ⟨[(.s a, ka)], []⟩ (fun t =>
    let w := s.cur
    match (t.holder w).ports.find? (fun b => b.port == selPort v), bitsOf v 63 3 with
    | some b, 0 =>
      let t1 := (t.unbind w b).dropPortSteps w (fun p => p == b.port)
      let t2 := t1.modHolder w (fun h => { h with ports := h.ports.filter (fun x => x.port != b.port) })
      (await (t.copyRoom w.st)).bind (fun _ => .go (t2.bump, .next))
    | _, _ => .trap (engineTrap 2 0x55))

/-- RINGEOS (R183, R275). -/
def execRingeos (a : Reg) (ka : Bool) (s : State) : Out :=
  let v := s.valS s.cur a
  s.issue .store ⟨[(.s a, ka)], []⟩ (fun t =>
    let w := s.cur
    match (t.holder w).ports.find? (fun b => b.port == selPort v), bitsOf v 63 3 with
    | some b, 0 =>
      match b.target, b.out with
      | .ring d off idx, true =>
        let r : RingOp := { who := w, op := t.ops, port := b.port, die := d, desc := off, idx := idx, data := [],
                            task := (t.holder (t.worksFor w)).taskid }
        let t1 := t.modHolder w (fun h => h.setBinding { b with ended := true })
        (await (t.copyRoom w.st)).bind (fun _ => .go ((if b.ended then t else t1.later (.ringeosAtHome r)).bump, .next))
      | _, _ => .trap (engineTrap 2 0x56)
    | _, _ => .trap (engineTrap 2 0x56))

end Sys2Proof.Machine
end

