-- ==== Sys2Proof/Machine/Gen.lean ====
section
/-! DEFINITION. Engine registers: ECFG, ERD and EDRAIN (R212, R233, R247, R248, R259, R287 to R290, R404, R407 to R409). -/
namespace Sys2Proof.Machine

/-! ## Registers -/

/-- What writing an engine register comes to. -/
inductive EngWrite where
  | ok (x : Station)
  | unused
  | range
  | readOnly
deriving Repr, Inhabited

/-- A write within a range, or not. -/
def ranged (c : Bool) (x : Station) : EngWrite := if c then .ok x else .range

/-- A value lies between two bounds. -/
def within (v : Word) (lo hi : Nat) : Bool := decide (lo ≤ v.toNat) && decide (v.toNat ≤ hi)

/-- A register of a copy descriptor set written (R212, R233). -/
def Station.setCopyReg (x : Station) (set : Fin 8) (i : Nat) (v : Word) : EngWrite :=
  let r := x.sets[set]
  let w (r : CopySet) : Station := { x with sets := x.sets.set set.val r }
  let n := v.toNat
  match i with
  | 0 => ranged (within v 1 65536) (w { r with len := n })
  | 1 => ranged (within v 1 4096) (w { r with rows := n })
  | 2 => .ok (w { r with sstr := v })
  | 3 => .ok (w { r with dstr := v })
  | 4 => ranged (bitsOf v 1 0 != 3) (w { r with idx := v })
  | 5 => .ok (w { r with fb := v })
  | 6 => ranged (within v 0 5) (w { r with ft := n })
  | 7 => .ok (w { r with done := v })
  | 8 => ranged (bitsOf v 63 18 == 0) (w { r with cmp := v })
  | _ => .unused

/-- A register of the matrix engine written (R247). -/
def Station.setMxReg (x : Station) (i : Nat) (v : Word) : EngWrite :=
  let n := v.toNat
  match i with
  | 0 => ranged (within v 1 24) { x with mx := { x.mx with pa := n } }
  | 1 => ranged (within v 1 24) { x with mx := { x.mx with pb := n } }
  | 2 => ranged (within v 1 256) { x with mx := { x.mx with kg := n } }
  | 3 => ranged (within v 0 0x1B && n != 0x16) { x with mx := { x.mx with dfmt := n } }
  | 4 => .readOnly
  | i => if 0x100 ≤ i && i < 0x160 then .ok { x with cbt := Machine.put (i - 0x100) v x.cbt } else .unused

/-- A register of the signature unit written (R212, R259). -/
def Station.setSgReg (x : Station) (i : Nat) (v : Word) : EngWrite :=
  let n := v.toNat
  let w (q : SgRegs) : Station := { x with sg := q }
  match i with
  | 0 => ranged (within v 4 32) (w { x.sg with w := n })
  | 1 => .ok (w { x.sg with seed := v })
  | 2 => ranged (within v 0 2) (w { x.sg with rule := n })
  | 3 => ranged (within v 1 64) (w { x.sg with rows := n })
  | 4 => ranged (within v 1 256) (w { x.sg with kg := n })
  | 5 => ranged (n % 8 == 0) (w { x.sg with rl := v })
  | 6 => ranged (n % 8 == 0) (w { x.sg with slen := n })
  | 7 => ranged (within v 0 1) (w { x.sg with smode := n })
  | 8 => ranged (n % 8 == 0) (w { x.sg with keys := v })
  | 9 => ranged (within v 1 4096) (w { x.sg with nq := n })
  | 10 => ranged (within v 1 1024) (w { x.sg with nk := n })
  | 11 => ranged (within v 1 32) (w { x.sg with topk := n })
  | _ => .unused

/-- A register of the crossing unit written (R407). -/
def Station.setXgReg (x : Station) (i : Nat) (v : Word) : EngWrite :=
  let n := v.toNat
  match i with
  | 0 => ranged (within v 1 (2 ^ 32)) { x with xing := { x.xing with dtmin := n } }
  | 1 => ranged (within v 0 65535) { x with xing := { x.xing with budg := n } }
  | 6 => ranged (within v 0 4095) { x with xing := { x.xing with vsel := n } }
  | 2 | 3 | 4 | 5 => .readOnly
  | i => if 0x10 ≤ i && i ≤ 0x19 then .readOnly else .unused

/-- A copy register's number: its set. -/
def copySetOf (i : Nat) : Fin 8 := ⟨i / 16 % 8, by omega⟩

/-- An engine register written (R287, R288). -/
def Station.setEngReg (x : Station) (n : Nat) (v : Word) : EngWrite :=
  let i := n % 4096
  match n / 4096 with
  | 2 => if i < 128 then x.setCopyReg (copySetOf i) (i % 16) v else .unused
  | 3 => x.setMxReg i v
  | 4 => x.setSgReg i v
  | 5 => x.setXgReg i v
  | _ => .unused

/-- MX.STAT (R248). -/
def Station.mxStat (x : Station) : Word :=
  let b (c : Bool) (k : Nat) : Nat := if c then 2 ^ k else 0
  BitVec.ofNat 64 (x.mtx1.length % 16 * 2 ^ 16 + x.mtx0.length % 16 * 2 ^ 12 + b x.parkedBy.isSome 10 + x.parkedBy.getD 0 % 4 * 2 ^ 8 +
    b x.batch1 6 + b x.batch0.isSome 5 + x.batch0.getD 0 % 4)

/-- XG.STAT (R408). -/
def Crossing.stat (u : Crossing) : Word :=
  let posted := (u.vars.filter (fun e => e.2.posted.isSome)).length
  BitVec.ofNat 64 (posted * 2 ^ 48 + u.vars.length * 2 ^ 32 + u.pool.length * 2 ^ 16)

/-- XG.VREC (R409). -/
def Crossing.vrec (u : Crossing) (i : Nat) : Word :=
  match u.var? u.vsel with
  | none => 0
  | some r =>
    match i with
    | 0 => r.x
    | 1 => r.q
    | 2 => r.s
    | 3 => r.d
    | 4 => BitVec.ofNat 64 r.tl
    | 5 => BitVec.ofNat 64 r.last
    | 6 => match r.tn with | some t => BitVec.ofNat 64 t | none => 0xFFFFFFFFFFFFFFFF
    | 7 => r.d0
    | 8 => r.dmax
    | _ => BitVec.ofNat 64 ((u.pool.filter (fun d => d.var == u.vsel)).length * 2 ^ 16 + r.same.length * 2 ^ 8 +
        (if r.posted.isSome then 2 else 0) + 1)

/-- An engine register read (R287, R289). -/
def Station.engReg (x : Station) (n : Nat) : Option Word :=
  let i := n % 4096
  match n / 4096 with
  | 2 =>
    if i < 128 then
      let r := x.sets[copySetOf i]
      match i % 16 with
      | 0 => some (BitVec.ofNat 64 r.len)
      | 1 => some (BitVec.ofNat 64 r.rows)
      | 2 => some r.sstr
      | 3 => some r.dstr
      | 4 => some r.idx
      | 5 => some r.fb
      | 6 => some (BitVec.ofNat 64 r.ft)
      | 7 => some r.done
      | 8 => some r.cmp
      | _ => none
    else none
  | 3 =>
    match i with
    | 0 => some (BitVec.ofNat 64 x.mx.pa)
    | 1 => some (BitVec.ofNat 64 x.mx.pb)
    | 2 => some (BitVec.ofNat 64 x.mx.kg)
    | 3 => some (BitVec.ofNat 64 x.mx.dfmt)
    | 4 => some x.mxStat
    | i => if 0x100 ≤ i && i < 0x160 then some (look 0#64 x.cbt (i - 0x100)) else none
  | 4 =>
    match i with
    | 0 => some (BitVec.ofNat 64 x.sg.w)
    | 1 => some x.sg.seed
    | 2 => some (BitVec.ofNat 64 x.sg.rule)
    | 3 => some (BitVec.ofNat 64 x.sg.rows)
    | 4 => some (BitVec.ofNat 64 x.sg.kg)
    | 5 => some x.sg.rl
    | 6 => some (BitVec.ofNat 64 x.sg.slen)
    | 7 => some (BitVec.ofNat 64 x.sg.smode)
    | 8 => some x.sg.keys
    | 9 => some (BitVec.ofNat 64 x.sg.nq)
    | 10 => some (BitVec.ofNat 64 x.sg.nk)
    | 11 => some (BitVec.ofNat 64 x.sg.topk)
    | _ => none
  | 5 =>
    match i with
    | 0 => some (BitVec.ofNat 64 x.xing.dtmin)
    | 1 => some (BitVec.ofNat 64 x.xing.budg)
    | 2 => some (BitVec.ofNat 64 x.xing.curfew)
    | 3 => some x.xing.stat
    | 4 => some x.xing.dbl
    | 5 => some x.xing.overs
    | 6 => some (BitVec.ofNat 64 x.xing.vsel)
    | i => if 0x10 ≤ i && i ≤ 0x19 then some (x.xing.vrec (i - 0x10)) else none
  | _ => none

/-! ## ECFG and ERD (R265, R288, R289) -/

/-- A number that a core may name: the innkeeper those of its copy engine alone (R265). -/
def engNumberOk (w : Who) (v : Word) : Bool := bitsOf v 63 16 == 0 && (w.core != .keeper || bitsOf v 15 12 == 2)

/-- ECFG (R288). A write of CP.DONE tests the pending notifications of its set (R234). -/
def execEcfg (a b : Reg) (ka kb : Bool) (s : State) : Out :=
  let v := s.valS s.cur a
  let x := s.valS s.cur b
  s.issue .store ⟨[(.s a, ka), (.s b, kb)], []⟩ (fun t =>
    let st := s.cur.st
    let n := bitsOf v 15 0
    (need (engNumberOk s.cur v) (engineRegTrap 7 0xA0 n)).bind (fun _ =>
      match (t.station st).setEngReg n x with
      | .unused => .trap (engineRegTrap 7 0xA0 n)
      | .range => .trap (engineRegTrap 7 0xA1 n)
      | .readOnly => .trap (engineRegTrap 7 0xA2 n)
      | .ok y => .go (((t.setStation st y).testNotifies st).bump, .next)))

/-- ERD (R289). -/
def execErd (a b : Reg) (ka : Bool) (s : State) : Out :=
  let v := s.valS s.cur a
  s.issue .store ⟨[(.s a, ka)], [.s b]⟩ (fun t =>
    let n := bitsOf v 15 0
    (need (engNumberOk s.cur v) (engineRegTrap 7 0xA0 n)).bind (fun _ =>
      match (t.station s.cur.st).engReg n with
      | none => .trap (engineRegTrap 7 0xA0 n)
      | some x => .go (t.answerNow s.cur (.engine b false) v (leBytes x.toNat 8), .load)))

/-! ## EDRAIN (R290, R404) -/

/-- Traffic on its way or held for a rank in transit. -/
def State.underWay (s : State) (p : Instr → Bool) : Bool :=
  s.agenda.any (fun t => p t.ev) || s.stations.any (fun e => e.2.held.any (fun x => p x.2))

/-- Whether a slot's messages are still on their way (engine 0). -/
def State.msgWork (s : State) (w : Who) : Bool :=
  s.underWay (fun e => match e with
    | .messageArrival m => (match m.source with | .task v _ => s.sameWork v m.sender w | _ => false)
    | _ => false) ||
  (s.station w.st).bindings.any (fun b => !b.active && b.who == s.worksFor w)

/-- Whether a slot's SYNC commands are still on their way (engine 1). -/
def State.syncWork (s : State) (w : Who) : Bool :=
  s.underWay (fun e => match e with
    | .phaserOpAtHome o => s.sameWork o.who o.task w
    | .counterDecrement _ _ _ (some i) | .garmAtHome _ _ _ _ _ _ (some i) => i.who == s.worksFor w
    | .stealAtVictim x => (match x.who with | some (v, _) => s.sameWork v x.task w | none => false)
    | _ => false) ||
  s.stations.any (fun e => e.2.phasers.any (fun q => q.2.waiting.any (fun x => s.sameWork x.op.who x.op.task w)))

/-- Whether a slot's COPY work is not complete (engine 2). -/
def State.copyWork (s : State) (w : Who) : Bool :=
  let x := s.station w.st
  x.copies.any (fun c => s.sameWork c.who c.acc.task w) || x.publishes.any (fun c => s.sameWork c.who c.task w) ||
  copyCores.any (fun c => (s.holder { st := w.st, core := c }).stores.any (fun o =>
    o.port.isSome && s.sameWork { st := w.st, core := c } o.task w)) ||
  (s.ringCommands w.st).any (fun r => s.sameWork r.who r.task w)

/-- Whether a slot's crossing work is not complete (engine 5). -/
def State.xingWork (s : State) (w : Who) : Bool :=
  s.allParts.any (fun p => p.acc.eng == 5 && s.sameWork p.acc.who p.acc.task w) ||
  s.underWay (fun e => match e with
    | .crossingDelivery d => d.who == s.worksFor w
    | .messageArrival m => m.why != 0 && m.dst == w.st && hdrHandler m.header == 255
    | _ => false) ||
  s.stations.any (fun e => e.2.xing.pool.any (fun d => d.who == s.worksFor w && d.rank != rankOf w.st))

/-- Whether the work that a slot has given an engine is done (R290). -/
def State.drained (s : State) (w : Who) (eng : Nat) : Bool :=
  let x := s.station w.st
  match eng with
  | 0 => !s.msgWork w
  | 1 => !s.syncWork w
  | 2 => !s.copyWork w
  | 3 => !x.mtx0.any (fun c => s.sameWork c.who c.acc.task w) && !x.mtx1.any (fun c => s.sameWork c.who c.acc.task w)
  | 4 => !x.sigs.any (fun c => s.sameWork c.who c.acc.task w)
  | 5 => !s.xingWork w
  | _ => true

/-- EDRAIN (R265, R290, R404). -/
def execEdrain (a : Reg) (ka : Bool) (s : State) : Out :=
  let v := s.valS s.cur a
  s.issue .store ⟨[(.s a, ka)], []⟩ (fun t =>
    let n := v.toNat
    (need (decide (n < 8) && n != 6 && (s.cur.core != .keeper || n == 2 || n == 7)) (engineTrap 7 0xA3)).bind (fun _ =>
    (await (t.drained s.cur n)).bind (fun _ => .go (t, .next))))

end Sys2Proof.Machine
end

