-- ==== Sys2Proof/Machine/Graph.lean ====
section
/-! DEFINITION. Task graphs (R130, R131, R162 to R173, R184, R185, R206, R207): counters, nodes, node faults, inherited
priority, the die's dispatcher, gangs and their pre-emption. -/
namespace Sys2Proof.Machine

/-! ## Counters and nodes (R166, R167) -/

/-- The die of a counter, and the fields of its record. -/
def ctrDie (id : Nat) : Nat := id / 16384 % 8
def ctrCount (lo : Word) : Nat := bitsOf lo 31 0
def ctrReload (lo : Word) : Nat := bitsOf lo 63 32
def ctrNode (hi : Word) : Nat := bitsOf hi 13 0
def ctrFailNode (hi : Word) : Nat := bitsOf hi 27 14
def ctrFailed (hi : Word) : Bool := hi.getLsbD 63

/-- A doubleword of a node. -/
def nodeAt (die n k : Nat) : Nat := Config.commonsAt die + Config.nodeBase + 32 * n + 8 * k
def State.nodeWord (s : State) (die n k : Nat) : Word := s.wordAt (nodeAt die n k)

/-- A doubleword of the model's memory written. -/
def State.setWord (s : State) (a : Nat) (v : Word) : State := s.writeAt a (leBytes v.toNat 8)

/-- The record of a node fault (R169): the record concerned by its commons offset, the subcode, SYNDROME. -/
def State.nodeFault (s : State) (die off sub : Nat) (syndrome : Word) : State :=
  s.record (clusterBank (64 * die)) deferred 0x06 sub (BitVec.ofNat 64 (0x20000000 + die * 0x4000000 + off)) syndrome 0

/-- The same for a node. -/
def State.nodeFaultAt (s : State) (die n sub : Nat) (syndrome : Word) : State := s.nodeFault die (Config.nodeBase + 32 * n) sub syndrome

/-! ## Inherited priority (R171) -/

/-- The nodes a node can evaluate directly. -/
def State.successors (s : State) (die n : Nat) : List Nat :=
  let w := s.nodeWord die n 0
  match bitsOf w 63 60 with
  | 1 => [bitsOf w 27 14, bitsOf w 13 0]
  | 2 => [bitsOf w 27 14, bitsOf w 13 0]
  | 3 => (span (bitsOf w 13 0) (Nat.min 16383 (s.nodeWord die n 2).toNat)).filter (fun k => decide (k ≤ 16383)) ++
      [bitsOf (s.nodeWord die n 3) 13 0]
  | _ => []

/-- The nodes that may be evaluated after those of `edge`, with those seen before: one level of the graph after the other. -/
def State.nodesFrom (s : State) (die : Nat) : Nat → List Nat → List Nat → List Nat
  | 0, _, seen => seen
  | f + 1, edge, seen =>
    let next := ((edge.map (s.successors die)).flatten.filter (fun k => k != 0 && !seen.contains k)).eraseDups
    if next.isEmpty then seen else s.nodesFrom die f next (seen ++ next)

/-- The priority of a TASK node: PRIO of its header class, and with CV set CPRI of its CCTR (R171). -/
def State.taskPriority (s : State) (die n : Nat) : Nat :=
  let w := s.nodeWord die n 0
  if bitsOf w 63 60 = 0 then
    Nat.max (s.prio (hdrClass (s.nodeWord die n 1))) (if w.getLsbD 51 then s.cpri (bitsOf w 50 34) else 0)
  else 0

/-- NP of a node (R171): the largest of the TASK nodes that may be evaluated from it. A die has 16,384 nodes. -/
def State.nodePriority (s : State) (die n : Nat) : Nat :=
  if n = 0 then 0 else ((s.nodesFrom die 16384 [n] [n]).map (s.taskPriority die)).foldl Nat.max 0

/-- The counters whose records hold a byte that is not zero. -/
def State.counterIds (s : State) : List Nat :=
  ((List.range 8).map (fun d =>
    let base := Config.commonsAt d + Config.counterBase
    ((s.mem.filter (fun c => decide (base ≤ c.1) && decide (c.1 < base + 16 * 16384))).map
      (fun c => d * 16384 + (c.1 - base) / 16)).eraseDups)).flatten

/-- One pass over the armed counters: each CPRI is raised to the NP of the node its counter arms. -/
def State.raiseOnce (s : State) (ids : List Nat) : State :=
  ids.foldl (fun t id =>
    let lo := t.wordAt (counterAt id)
    let hi := t.wordAt (counterAt id + 8)
    let np := t.nodePriority (ctrDie id) (ctrNode hi)
    if ctrCount lo != 0 && ctrNode hi != 0 && decide (t.cpri id < np) then t.setWord (counterAt id + 8) (setField hi 58 56 np) else t) s

/-- The passes, until nothing changes any more. -/
def raisePasses (ids : List Nat) : Nat → State → State
  | 0, s => s
  | n + 1, s => raisePasses ids n (s.raiseOnce ids)

/-- A counter's new CPRI is broadcast (R171): its flits are counted in the heartbeat period under way (R366), the latest two of which
are kept. -/
def State.broadcast (s : State) (id cpri : Nat) : State :=
  let k := s.now / s.hbper
  { s.later (.epRaise (.counter id cpri)) with
    broadcasts := s.broadcasts.filter (fun b => decide (k < b.1 + 3)) ++ [(k, (s.now * 131072 + id) * 8 + cpri)] }

/-- A counter has been armed or a CPRI has changed: raises pass from counter to counter, and each counter whose CPRI is not
what `old` gives is broadcast (R171). -/
def State.sweep (s : State) (old : State) : State :=
  let ids := s.counterIds
  let t := raisePasses ids (ids.length + 1) s
  ids.foldl (fun u id => if t.cpri id != old.cpri id then u.broadcast id (t.cpri id) else u) t

/-- The cells of the memory that lie in counter records. -/
def counterCells (m : List Host.Cell) : List Host.Cell :=
  m.filter (fun c => (List.range 8).any (fun d =>
    let base := Config.commonsAt d + Config.counterBase
    decide (base ≤ c.1) && decide (c.1 < base + 16 * 16384)))

/-- Whether a counter that `old` did not have so is armed, or its CPRI has changed (R171). -/
def State.counterRaised (s old : State) (id : Nat) : Bool :=
  let node (t : State) : Nat := if ctrCount (t.wordAt (counterAt id)) = 0 then 0 else ctrNode (t.wordAt (counterAt id + 8))
  s.cpri id != old.cpri id || (node s != 0 && node s != node old)

/-- Whatever wrote to a counter record in a step, a plain store of a core or of an engine among it: when a counter is armed or a
CPRI has changed, the raises of R171 follow, with the broadcasts that are not on their way already. -/
def State.watchCounters (s old : State) : State :=
  if counterCells s.mem == counterCells old.mem then s
  else
    let ids := (s.counterIds ++ old.counterIds).eraseDups
    if ids.any (s.counterRaised old) then
      let t := raisePasses ids (ids.length + 1) s
      ids.foldl (fun u id =>
        if t.cpri id != old.cpri id && !t.agenda.any (fun e => e.ev == .epRaise (.counter id (t.cpri id))) then
          u.broadcast id (t.cpri id)
        else u) t
    else s

/-! ## Evaluation (R131, R163 to R168) -/

/-- The view a dispatcher reads memory in (R167): a station of its die, class 0. -/
def dispatcherWho (die : Nat) : Who := { st := die * 1024, core := .slot0 }

/-- Reads a condition word or a selector at its home. The inner value is absent where the address is not allowed or the
read traps; nothing is answered while something must be waited for. -/
def State.nodeRead (s : State) (die a : Nat) : Option (Option Word × State) :=
  let w := dispatcherWho die
  let allowed := a % 8 == 0 && (match s.regionOfAll w a 8 with
    | some (.commons _) | some (.remote _) | some .far => true
    | some (.spad _) => decide (0x40000000 ≤ a)
    | _ => false)
  if !allowed || s.typedAt (s.placeOf w a) 8 then some (none, s)
  else
    let acc : Access := { op := s.ops, who := w, task := 0, pc := 0, cls := 0, tenant := 0, asn := s.asnOf 0, ep := 0, ceil := 0,
                          tries := 0, eng := 2 }
    (s.engRef acc .load false a 8).map (fun (r, t) =>
      match r with
      | .mem m => (if t.poisonedAt m 8 then none else some (t.wordAt m), t)
      | _ => (none, t))

/-- The tests of a COND node. -/
def nodeTest (k : Nat) (x y : Word) : Bool :=
  match k with
  | 0 => x == y
  | 1 => x != y
  | 2 => x.slt y
  | 3 => !x.slt y
  | 4 => x.ult y
  | _ => !x.ult y

/-- The station of rank `r` as a die's dispatcher sees it, through the rank table of the die's first station. DESIGN CHOICE. -/
def State.rankStation (s : State) (die r : Nat) : Option Nat :=
  let e := (s.station (die * 1024)).rankEntry r
  if rankShut e || rankTransit e || (s.station (rankCoord e)).shut then none else some (rankCoord e)

/-- The members that a station of an empty die has room for (R164, R165). -/
def Station.memberRoom (x : Station) (e : BitVec 256) : Nat :=
  if entryPark e && decide (x.app1 < 23) then 0
  else Nat.min 4 (Nat.min (if entryTcmn e = 0 then 4 else (x.app2 - x.app1) / entryTcmn e) (if entryPhn e = 0 then 4 else 64 / entryPhn e))

/-- Whether a gang could be placed on the die if the die were empty. -/
def State.gangFits (s : State) (die handler size : Nat) : Bool :=
  decide (size ≤ ((List.range 1024).map (fun r => match s.rankStation die (die * 1024 + r) with
    | some st => (s.station st).memberRoom ((s.station st).handler handler)
    | none => 0)).sum)

/-- The rank a HASHED launch goes to (R162). -/
def hashedRank (die : Nat) (tilec : Word) : Nat :=
  let h := mix tilec 0 0
  let k := bitsOf h 5 0
  die * 1024 + 32 * (4 * (k % 8) + bitsOf h 7 6) + (4 * (k / 8) + bitsOf h 9 8)

/-- The launch of a TASK node (R163). -/
def State.readyOf (s : State) (die n src : Nat) : Ready :=
  let w := s.nodeWord die n 0
  let hdr := s.nodeWord die n 1
  let p0 := s.nodeWord die n 2
  let p1 := s.nodeWord die n 3
  let dl := w.getLsbD 52
  let placement := bitsOf w 59 58
  let cctr := if w.getLsbD 51 then some (bitsOf w 50 34) else none
  let h1 := setField hdr 30 18 src
  { header := if placement = 1 then setField h1 63 51 (hashedRank die p0) else h1,
    payload := if placement = 2 then [p0, if dl then 0 else p1] else [p0, if dl then 0 else p1].take (hdrLen hdr),
    tilec := if placement = 1 then p0 else 0, deadline := if dl then p1 else noDeadline, cctr := cctr,
    ep := Nat.max (s.prio (hdrClass hdr)) (match cctr with | some id => s.cpri id | none => 0),
    order := (s.die die).orders, src := src,
    gang := if placement = 2 then some ((s.die die).gangIndex, bitsOf w 33 22 + 1) else none,
    pipe := w.getLsbD 53, lap := 0 }

/-- The node fault of a TASK node, if it has one (R163, R165, R169). -/
def State.taskFault (s : State) (die n : Nat) : Option Nat :=
  let w := s.nodeWord die n 0
  let hdr := s.nodeWord die n 1
  let gang := bitsOf w 59 58 == 2
  if bitsOf w 59 58 = 3 then some 2
  else if bitsOf w 57 54 != 0 || bitsOf w 21 0 != 0 || bitsOf hdr 50 48 != 0 then some 5
  else if !gang && bitsOf w 33 22 != 0 then some 3
  else if (if w.getLsbD 52 then 1 else 2) < hdrLen hdr then some 4
  else if gang && !s.gangFits die (hdrHandler hdr) (bitsOf w 33 22 + 1) then some 8
  else none

/-- One node is evaluated: the state after it, and the node it leads to (0 for none); nothing while a read must wait.
DESIGN CHOICE: of several faults of a COND, LOOP or SWITCH node 6 comes before 5, and 5 before 7 (log entry 167). -/
def State.evalNode (s : State) (die n src : Nat) : Option (State × Nat) :=
  let w := s.nodeWord die n 0
  let w1 := s.nodeWord die n 1
  let w2 := s.nodeWord die n 2
  let w3 := s.nodeWord die n 3
  let bad (sub : Nat) : Option (State × Nat) := some (s.nodeFaultAt die n sub 0, 0)
  match bitsOf w 63 60 with
  | 0 =>
    match s.taskFault die n with
    | some sub => bad sub
    | none =>
      let r := s.readyOf die n src
      let s1 := s.modDie die (fun d =>
        { d with ready := d.ready ++ [r], orders := d.orders + 1, gangIndex := if r.gang.isSome then d.gangIndex + 1 else d.gangIndex })
      some (s1.later (.dispatcherLaunch die), 0)
  | 1 =>
    if 5 < bitsOf w 59 56 then bad 6
    else if bitsOf w 55 28 != 0 || w3 != 0 then bad 5
    else
      match s.nodeRead die w1.toNat with
      | none => none
      | some (none, t) => some (t.nodeFaultAt die n 7 w1, 0)
      | some (some x, t) => some (t, if nodeTest (bitsOf w 59 56) x w2 then bitsOf w 27 14 else bitsOf w 13 0)
  | 2 =>
    if bitsOf w 59 28 != 0 || bitsOf w1 63 32 != 0 || w3 != 0 then bad 5
    else if w2 = 0 then some (s.setWord (nodeAt die n 2) w1, bitsOf w 13 0)
    else some (s.setWord (nodeAt die n 2) (w2 - 1), bitsOf w 27 14)
  | 3 =>
    if bitsOf w 59 14 != 0 || w2 == 0 || decide (16383 < w2.toNat) || decide (16383 < w3.toNat) then bad 5
    else
      match s.nodeRead die w1.toNat with
      | none => none
      | some (none, t) => some (t.nodeFaultAt die n 7 w1, 0)
      | some (some v, t) =>
        if v.toNat < w2.toNat then
          let k := bitsOf w 13 0 + v.toNat
          if 16383 < k then some (t.nodeFaultAt die n 11 (BitVec.ofNat 64 k), 0) else some (t, k)
        else some (t, w3.toNat)
  | _ => bad 1

/-- A zero crossing evaluates at most 16 nodes (R168). -/
def State.evalChain (s : State) (die src : Nat) : Nat → Nat → Option State
  | fuel, n =>
    if n = 0 then some s
    else
      match fuel with
      | 0 => some (s.nodeFaultAt die n 10 0)
      | f + 1 =>
        match s.evalNode die n src with
        | none => none
        | some (t, k) => t.evalChain die src f k

/-- Whether a command that waits for its work's earlier stores has still to leave its station (R130, R207). -/
def unsentOf (after : Option Issuer) : Option Issuer := after.filter (fun i => !i.sent)

/-- COUNTER_DECREMENT (R130, R131, R166 to R169, R173, R206): it reaches the counter after the stores before it; it may
bring COUNT to zero, which evaluates a node and restores the count. -/
def execCounterDecrement (id : Nat) (failed : Bool) (src : Nat) (after : Option Issuer) (s : State) : Out :=
  match unsentOf after with
  | some i =>
    .next (if s.storesDone (some (i.who, i.op)) then s.later (.counterDecrement id failed src (some { i with sent := true })) else s.wait)
  | none =>
    let a := counterAt id
    let die := ctrDie id
    let lo := s.wordAt a
    let hi := if failed then setField (s.wordAt (a + 8)) 63 63 1 else s.wordAt (a + 8)
    let s1 := s.setWord (a + 8) hi
    if ctrCount lo = 0 then .next (s1.nodeFault die (Config.counterBase + 16 * (id % 16384)) 9 0)
    else
      let s2 := s1.setWord a (setField lo 31 0 (ctrCount lo - 1))
      if ctrCount lo != 1 then .next s2
      else
        match s2.evalChain die src 16 (if ctrFailed hi then ctrFailNode hi else ctrNode hi) with
        | none => .next s.wait
        | some t =>
          if ctrReload lo = 0 then .next t
          else
            let t1 := (t.setWord a (setField lo 31 0 (ctrReload lo))).setWord (a + 8) (setField (t.wordAt (a + 8)) 63 63 0)
            .next (t1.sweep s)

/-- GARM_AT_HOME (R171, R207). -/
def execGarmAtHome (id count reload node failNode src : Nat) (after : Option Issuer) (s : State) : Out :=
  match unsentOf after with
  | some i =>
    .next (if s.storesDone (some (i.who, i.op)) then s.later (.garmAtHome id count reload node failNode src (some { i with sent := true }))
      else s.wait)
  | none =>
    let a := counterAt id
    let s1 := (s.setWord a (BitVec.ofNat 64 (reload % 2 ^ 32 * 2 ^ 32 + count % 2 ^ 32))).setWord (a + 8)
      (BitVec.ofNat 64 (failNode % 2 ^ 14 * 2 ^ 14 + node % 2 ^ 14))
    .next (s1.sweep s)

/-! ## The dispatcher (R162, R165, R170, R425) -/

/-- A launch is sent through the rank table (R162). -/
def State.sendLaunch (s : State) (die : Nat) (r : Ready) (header : Word) (payload : List Word) (tilec : Word) (gang : Option (Nat × Nat)) :
    State :=
  let (q, s1) := s.nextSeq die
  s1.routeMsg (die * 1024) (hdrDest header)
    { source := .dispatcher die, sender := 0, why := 0, left := true, dst := 0, header := header, payload := payload, tilec := tilec,
      deadline := r.deadline, ep := r.ep, cv := r.cctr.isSome, cctr := r.cctr.getD 0, jseq := q, reply := none, gang := gang }

/-- The group index of a launch. -/
def Ready.index (r : Ready) : Nat := match r.gang with | some (g, _) => g | none => 0

/-- A gang in its place among those that wait, by group index (R165). -/
def insertGang (r : Ready) : List Ready → List Ready
  | [] => [r]
  | g :: l => if r.index < g.index then r :: g :: l else g :: insertGang r l

/-- A gang waits for its placement. -/
def State.gangWaits (s : State) (die : Nat) (r : Ready) : State :=
  let s1 := (s.modDie die (fun d => { d with gangs := insertGang r d.gangs })).later (.gangPlace die)
  if s.agenda.any (fun t => t.ev == .pipePreempt die) then s1 else s1.later (.pipePreempt die)

/-- DISPATCHER_LAUNCH (R170): the ready launch whose turn it is is started; a gang comes to wait for its placement. -/
def execDispatcherLaunch (die : Nat) (s : State) : Out :=
  let d := s.die die
  if d.ready.isEmpty then .next s
  else
    let top := d.ready.foldl (fun m r => Nat.max m r.ep) 0
    let level := d.ready.filter (fun r => r.ep == top)
    let (c, rs) := chooseClass d.rounds s.weight top (level.map (fun r => hdrClass r.header))
    let first := (level.filter (fun r => hdrClass r.header == c)).foldl (fun (m : Option Ready) r => match m with
      | none => some r
      | some k => if r.order < k.order then some r else some k) none
    match first with
    | none => .next s
    | some r =>
      let s1 := s.modDie die (fun d => { d with ready := d.ready.filter (fun k => k.order != r.order), rounds := rs })
      if r.gang.isSome then .next (s1.gangWaits die r) else .next (s1.sendLaunch die r r.header r.payload r.tilec none)

/-! ## Gangs (R164, R165, R172) -/

/-- What is kept for a die's oldest waiting gang is free again. -/
def State.releaseSlots (s : State) (die : Nat) : State :=
  { s with stations := s.stations.map (fun e =>
      if e.1 < 8192 && dieOf e.1 = die && (!e.2.keptSlots.isEmpty || e.2.gangTcm != 0 || e.2.gangPh != 0) then
        (e.1, { e.2 with cores := e.2.cores.map (fun h => if h.kept then { h with state := .free, task := none } else h),
                         gangTcm := 0, gangPh := 0 })
      else e) }

/-- The k-th place after the cursor for a member of a gang (R164): rank, station and slot, where it meets the member's needs. -/
def State.memberPlace (s : State) (die handler cursor k : Nat) : Option (Nat × Nat × Core) :=
  let r := (cursor + k) % 1024
  match s.rankStation die (die * 1024 + r) with
  | none => none
  | some st => if (s.station st).meets ((s.station st).handler handler) then (s.slotFor st none).map (fun c => (r, st, c)) else none

/-- The ranks of a die, from its lowest. Kept folded, since a full scan of them is long. -/
@[irreducible] def dieRanks : List Nat := List.range 1024
theorem mem_dieRanks (k : Nat) : k ∈ dieRanks ↔ k < 1024 := by unfold dieRanks; exact List.mem_range

/-- The first such place of a full scan. -/
def State.memberNext (s : State) (die handler cursor : Nat) : Option (Nat × Nat × Core) :=
  dieRanks.findSome? (s.memberPlace die handler cursor)

/-- The members of a gang take their slots one after the other (R164): for each its rank, station and slot, and the cursor
after the last. -/
def State.placeMembers (s : State) (die handler g : Nat) : Nat → Nat → Option (State × Nat × List (Nat × Nat × Nat))
  | 0, cursor => some (s, cursor, [])
  | n + 1, cursor =>
    match s.memberNext die handler cursor with
    | none => none
    | some (r, st, c) =>
      let info : TaskInfo := let e := (s.station st).handler handler
        { TaskInfo.held (entryTcmn e) (entryPhn e) with gang := some (die, g, 0) }
      let t := s.modHolder { st := st, core := c } (fun h => { h with state := .reserved, task := some info })
      (t.placeMembers die handler g n ((r + 1) % 1024)).map (fun e => (e.1, e.2.1, (die * 1024 + r, st, slotNumber c) :: e.2.2))

/-- A gang is placed whole: its slots are reserved and its member messages sent; none where it is not placeable. -/
def State.placeGang (s : State) (die : Nat) (r : Ready) : Option State :=
  let g := r.index
  let size := match r.gang with | some (_, n) => n | none => 1
  ((s.releaseSlots die).placeMembers die (hdrHandler r.header) g size (s.die die).cursor).map (fun (t, cursor, ms) =>
    let t1 := t.modDie die (fun d =>
      { d with gangs := d.gangs.filter (fun k => k.index != g), cursor := cursor,
               running := d.running ++ [{ index := g, ready := r, members := ms.map (fun m => (m.2.1, m.2.2)) }] })
    (ms.zipIdx).foldl (fun u e =>
      let header := setField (setField r.header 63 51 e.1.1) 39 36 5
      let payload := r.payload ++ [BitVec.ofNat 64 e.2, BitVec.ofNat 64 size, BitVec.ofNat 64 r.lap]
      u.sendLaunch die r header payload (BitVec.ofNat 64 (g % 2 ^ 24 * 2 ^ 24 + e.2)) (some (die, g))) t1)

/-- Whether a waiting gang is the oldest of its die, those among the ready launches counted. -/
def Die.oldestGang (d : Die) : Option Ready :=
  match d.gangs with
  | [] => none
  | g :: _ => if d.ready.any (fun r => r.gang.isSome && decide (r.index < g.index)) then none else some g

/-- GANG_PLACE (R164, R165, R172): the oldest waiting gang is placed whole, or killed at launch once its deadline has passed.
DESIGN CHOICE: one DEADLINE record, in the bank of cluster 0 of the die. -/
def execGangPlace (die : Nat) (s : State) : Out :=
  let d := s.die die
  if d.gangs.isEmpty then .next s
  else
    match d.oldestGang with
    | none => .next s.wait
    | some r =>
      if r.deadline.toNat ≤ s.now then
        let size := match r.gang with | some (_, n) => n | none => 1
        let s1 := (s.releaseSlots die).modDie die (fun d => { d with gangs := d.gangs.filter (fun k => k.index != r.index) })
        let s2 := match r.cctr with
          | some id => (List.range size).foldl (fun (t : State) _ => t.decrement id true r.src) s1
          | none => s1
        .next (s2.record (clusterBank (64 * die)) deferred 0x03 0x0B 0 0 0)
      else
        match s.placeGang die r with
        | none => .next s.wait
        | some t => .next t

/-! ## Pre-emption of a pipeline gang (R185) -/

/-- A gang's effective priority now. -/
def State.gangEp (s : State) (r : Ready) : Nat :=
  Nat.max (s.prio (hdrClass r.header)) (match r.cctr with | some id => s.cpri id | none => 0)

/-- The gang that is pre-empted for one of priority `ep`: the lowest EP, the highest index among equals. -/
def State.victimGang (s : State) (die ep : Nat) : Option Gang :=
  ((s.die die).running.filter (fun q => q.ready.pipe && decide (s.gangEp q.ready < ep))).foldl (fun (m : Option Gang) q =>
    match m with
    | none => some q
    | some k =>
      if s.gangEp q.ready < s.gangEp k.ready || (s.gangEp q.ready == s.gangEp k.ready && decide (k.index < q.index)) then some q else m) none

/-- The holder of a member: a slot, or the urgent bank (R165); none while the member is on its way to another station (R372). -/
def memberHolder (m : Nat × Nat) : Option Who :=
  if m.2 < 4 then some { st := m.1, core := slotOf m.2 } else if m.2 = 4 then some { st := m.1, core := .urgent } else none

/-- The rings that holders have bound. -/
def State.ringsOf (s : State) (ws : List Who) : List (Nat × Nat) :=
  ((ws.map (fun w => (s.holder w).ports.filterMap (fun b => match b.target with
    | .ring d desc _ => some (d, desc)
    | _ => none))).flatten).eraseDups

/-- The ring operation a step carries. -/
def ringOpOf : Instr → Option RingOp
  | .ringPush r | .ringPop r | .ringRegistration r | .ringeosAtHome r => some r
  | _ => none

/-- A ring is restored from its checkpoint (R185): what its members had on the way is dropped, HEAD, TAIL, EOSMASK and LAPS are
as the record gives them, or as a new descriptor's where it has none. -/
def State.restoreRing (s : State) (ws : List Who) (die desc : Nat) : State :=
  let drop (q : RingOp) : Bool := q.die == die && q.desc == desc && ws.contains q.who
  let s1 : State := { s with agenda := s.agenda.filter (fun t => ((ringOpOf t.ev).map (fun q => !drop q)).getD true) }
  let s2 := s1.modDie die (fun d =>
    let r := d.ring desc
    d.setRing desc { handed := 0, returned := [], requests := r.requests.filter (fun q => !drop q), pushes := r.pushes.filter (fun q => !drop q) })
  let nlap := bitsOf (s.ringWord die desc 4) 15 0
  let taken := nlap != 0 && decide (nlap ≤ (s.ringWord die desc 5).toNat)
  let rec_ (k : Nat) : Word := match commonsRef die (s.ringWord die desc 6).toNat with
    | some a => if taken then s.wordAt (a + 8 * k) else 0
    | none => 0
  let s3 := ((s2.setRingWord die desc 5 (rec_ 0)).setRingWord die desc 2 (rec_ 1)).setRingWord die desc 3 (rec_ 2)
  let s4 := s3.setRingWord die desc 4 (setField (s.ringWord die desc 4) 47 32 (bitsOf (rec_ 3) 15 0))
  (s4.setRingWord die desc 7 (setField (s.ringWord die desc 7) 0 0 0)).ringSettle die desc

/-- A gang's messages that have not become tasks, and the slots they were to take, are gone (R159, R185). -/
def State.cancelMembers (s : State) (die g : Nat) : State :=
  let mine (m : Msg) : Bool := m.gang == some (die, g)
  let ofGang (e : Instr) : Bool := match e with | .messageArrival m => mine m | _ => false
  let seqs := s.agenda.filterMap (fun t => match t.ev with | .messageArrival m => if mine m then some m.jseq else none | _ => none)
  let s1 : State := { s with
    agenda := s.agenda.filter (fun t => !ofGang t.ev),
    stations := s.stations.map (fun e => (e.1, { e.2 with held := e.2.held.filter (fun x => !ofGang x.2) })) }
  let s2 := seqs.foldl State.journalRetire s1
  s2.stations.foldl (fun t e =>
    let recs := e.2.mail.filter (fun r => !r.ret && (match r.gang with | some (d, k, _) => d == die && k == g | none => false))
    let t1 := recs.foldl (fun u r => (u.journalRetire (wordOf (u.recordWords e.1 r.idx) 12)).freeRecord e.1 r.idx) t
    (List.range 4).foldl (fun u n => u.cancelReserved { st := e.1, core := slotOf n } (die, g)) t1) s2

/-- PIPE_PREEMPT (R159, R185): a running pipeline gang makes room for a waiting gang of strictly higher priority that cannot be
placed otherwise. DESIGN CHOICE: the journal entries of its members retire, as they are relaunched under new ones. -/
def execPipePreempt (die : Nat) (s : State) : Out :=
  let d := s.die die
  if d.gangs.isEmpty then .next s
  else
    match d.oldestGang with
    | none => .next s.wait
    | some r =>
      match s.victimGang die r.ep with
      | none => .next s.wait
      | some q =>
        let launched := (q.members.filterMap memberHolder).filter (fun w => (s.holder w).state != .reserved)
        let ready (w : Who) : Bool := ((s.holder w).state == .run || (s.holder w).state == .parked) && s.saveReady w
        if (s.placeGang die r).isSome || !launched.all ready then .next s.wait
        else
          let cores := (launched.map s.team).flatten
          let rings := s.ringsOf cores
          let s1 := s.modDie die (fun d => { d with running := d.running.filter (fun k => k.index != q.index) })
          let s2 := launched.foldl (fun t w =>
            let seq := match (t.holder w).task with | some i => i.jseq | none => 0
            let u := ((t.saveContext w).closeLater w).kill w true
            if seq = 0 then u else u.journalRetire seq) s1
          let s3 := s2.cancelMembers die q.index
          let s4 := rings.foldl (fun t e => t.restoreRing cores e.1 e.2) s3
          let lap := rings.foldl (fun m e => Nat.max m (s4.ringWord e.1 e.2 5).toNat) 0
          .next (s4.gangWaits die { q.ready with lap := lap })

end Sys2Proof.Machine
end

