-- ==== Sys2Proof/Machine/Module.lean ====
section
/-! DEFINITION. The module's edges (R161, R311, R313, R318, R422 to R438): the inbound apertures, the launch journal after a
reset, masters and ownership, function modes, bring-up, throttling and resets, and the writes of registers that have rows of
their own (R6). -/
namespace Sys2Proof.Machine

/-! ## Inbound records (R422, R423) -/

/-- Whether a reply address is legal (R422). -/
def replyLegal (a : Word) : Bool :=
  a == 0 || (decide (0x4000_0000_0000 ≤ a.toNat) && decide (a.toNat < 0x8000_0000_0000) && a.toNat % 128 == 0)

/-- The checks of R423 step 2: R150 and the zero fields. -/
def inboundLegal (w : List Word) : Bool :=
  let h := wordOf w 0
  bitsOf h 50 48 == 0 && decide (hdrLen h ≤ 8) && replyLegal (wordOf w 11) &&
    bitsOf (wordOf w 12) 63 60 == 0 && (w.drop 13).all (· == 0)

/-- The message of an inbound record (R423, R424). -/
def State.inboundMsg (s : State) (link : Nat) (w : List Word) : Msg :=
  let h := wordOf w 0
  let n := hdrLen h
  { source := .host link, sender := 0, why := 0, left := true, dst := 0, header := setField h 30 18 (hdrDest h),
    payload := (List.range 8).map (fun k => if k < n then wordOf w (k + 1) else 0), tilec := wordOf w 9,
    deadline := wordOf w 10, ep := s.prio (hdrClass h), cv := false, cctr := 0,
    jseq := BitVec.ofNat 64 ((8 + link) % 16 * 2 ^ 60 + bitsOf (wordOf w 12) 59 0), reply := some (wordOf w 11),
    gang := none }

/-- The station by whose rank table a message of the journal or of a link is routed. DESIGN CHOICE: a host's by that of the first
station of its link's first die, a task's by its own station's, any other by the first of the die. -/
def routerOf (die : Nat) (m : MsgSource) : Nat :=
  match m with
  | .host l => 4096 * l
  | .task w _ => w.st
  | _ => 1024 * die

/-- INBOUND_RECORD (R422, R423, R426): what reaches a link's aperture at an offset: a read, or a write of some doublewords. An
aligned write of 128 bytes is a record: it is dropped where its sequence has been accepted, recorded where it is malformed, else
journalled and delivered. Anything else is refused and recorded. -/
def execInboundRecord (link : Nat) (a : LinkAccess) (s : State) : Out :=
  let refused := s.record (clusterBank 0) deferred 0x0F 0 0 0 0
  if s.boot != .running then .next s.wait
  else if !a.write || a.words.length != 16 || a.off % 128 != 0 || 65536 ≤ a.off || 2 ≤ link then .next refused
  else
    let last := look 0 s.lastSeq link
    if (wordOf a.words 12).toNat ≤ last then .next s
    else
      let accepted (t : State) : State := { t with lastSeq := put link (Nat.max last (bitsOf (wordOf a.words 12) 59 0)) t.lastSeq }
      if !inboundLegal a.words then .next (accepted refused)
      else
        let m := s.inboundMsg link a.words
        let router := routerOf 0 m.source
        let e := (s.station router).rankEntry (hdrDest m.header)
        match s.journalAccept (rankCoord e / 1024) m with
        | none => .next s.wait
        | some t => .next ((accepted t).routeMsg router (hdrDest m.header) m)

/-! ## Resets of a part (R427, R438) -/

/-- Journal entries in ascending sequence. -/
def insertEntry (j : JEntry) : List JEntry → List JEntry
  | [] => [j]
  | k :: r => if j.seq.toNat ≤ k.seq.toNat then j :: k :: r else k :: insertEntry j r

/-- JOURNAL_REPLAY (R427): every unretired entry of a die's journal is delivered again, in ascending sequence, before the die accepts
another launch; a station that holds its sequence drops it, as it does where the task has ended since. -/
def execJournalReplay (die : Nat) (s : State) : Out :=
  let es := ((s.journal.filter (fun j => j.die == die)).foldr insertEntry [])
  .next (es.foldl (fun s j =>
    let m := s.journalMsg j
    s.routeMsg (routerOf die m.source) (hdrDest m.header) m) s)

/-- A station after a reset (R374, R427). DESIGN CHOICE: what the innkeepers install at bring-up (handler table, layout,
rank table) is installed again as it was; the launch counter, the roll call and the messages of others that it holds go on. -/
def Station.afterReset (x : Station) (clock : Nat) : Station :=
  { Station.reset with
    plb1 := x.app1, plb2 := x.app2, plb3 := x.app3, app1 := x.app1, app2 := x.app2, app3 := x.app3, handlers := x.handlers,
    ranks := x.ranks, launches := x.launches, epoch := x.epoch, stealAt := clock, held := x.held,
    neighbours := x.neighbours.map (fun k => { Neighbour.reset with shut := k.shut, heard := [x.epoch] }) }

/-- A station resets: its tasks are killed, with steps 5 and 6 of R173 for those without a journal entry (R427); its Exclusive
lines are poisoned; its pool reads zero, and every part of it is as after reset. -/
def State.resetStation (s : State) (st : Nat) : State :=
  let runs := taskCores.filter (fun c =>
    let h := s.holder { st := st, core := c }
    h.state != .free && h.state != .reserved)
  let s1 := runs.foldl (fun (s : State) c =>
    let w : Who := { st := st, core := c }
    s.kill w (match (s.holder w).task with | some t => t.jseq != 0 | none => true)) s
  let s2 := (s1.loseStation st).clearAt (Config.poolAt st) Config.poolSize
  let s3 := s2.modStation st (fun x => x.afterReset (s.clock (dieOf st)))
  (s3.readmit st).mailStatus st

/-- A range of memory copied to another. -/
def State.copyRange (s : State) (src dst n : Nat) : State :=
  let cells := s.mem.filter (fun c => decide (src ≤ c.1) && decide (c.1 < src + n))
  let s1 := s.clearAt dst n
  { s1 with mem := cells.foldl (fun m c => memPut (dst + (c.1 - src)) c.2 m) s1.mem }

/-- Both journal copies that a die holds are rebuilt from its partner's (R427). -/
def State.rebuildJournal (s : State) (die : Nat) : State :=
  let n := 128 * Config.journalEntries
  let p := die ^^^ 1
  (s.copyRange (Config.commonsAt p + Config.mirrorBase) (Config.commonsAt die + Config.journalBase) n).copyRange
    (Config.commonsAt p + Config.journalBase) (Config.commonsAt die + Config.mirrorBase) n

/-- A compute die resets: its stations, scratchpads, commons, dispatcher and relay unit; then both journal copies it holds are
rebuilt (R427). DESIGN CHOICE: bank formats are installed again; the journal's sequence counter and the innkeepers go on. -/
def State.resetDie (s : State) (die : Nat) : State :=
  let s1 := (List.range 1024).foldl (fun (s : State) i => s.resetStation (1024 * die + i)) s
  let s2 := (List.range 64).foldl (fun (s : State) i =>
    let cl := 64 * die + i
    (s.clearAt (Config.spadAt cl) Config.spadSize).modCluster cl (fun c => { c with side := [] })) s1
  let s3 := (s2.clearAt (Config.commonsAt die) Config.commonsSize).rebuildJournal die
  s3.modDie die (fun d => { Die.reset with jseq := d.jseq, clock := s.clock die * 64, clockAt := s.now })

/-- A cache die resets: its slices' translations, lines and walks are gone, the accesses parked there start again, and the
owners of lines at home there have given them up. DESIGN CHOICE. -/
def State.resetSlices (s : State) (die : Nat) : State :=
  let here (n : Nat) : Bool := n / 64 == die
  let owned := (s.owners.map (·.1)).filter (fun l => here (homeSlice (l * 128)))
  let s1 := owned.foldl (fun (s : State) l => (s.recallOwner l).getD s) s
  let back := s1.parked.filter (fun q => here q.slice)
  { s1 with
    tlb := s1.tlb.filter (fun e => !here e.slice), walks := s1.walks.filter (fun e => !here e.slice),
    lines := s1.lines.filter (fun l => !here l.slice),
    parked := s1.parked.map (fun q => if here q.slice then { q with at_ := s.now + 1 } else q),
    agenda := s1.agenda ++ back.map (fun q => { due := s.now + 1, ev := .pageRetry q.part }) }

/-- The launches on their way to a part that resets, whose entries have not retired, are not delivered beside their replay (R427). -/
def State.dropReplayed (s : State) (here : Nat → Bool) : State :=
  { s with agenda := s.agenda.filter (fun t => match t.ev with
    | .messageArrival m => !(m.left && m.why == 0 && here m.dst && s.journal.any (fun j => j.seq == m.jseq))
    | _ => true) }

/-- A compute die resets, and its journal is replayed (R427). -/
def State.resetAndReplay (s : State) (die : Nat) : State :=
  ((s.dropReplayed (fun st => dieOf st == die)).resetDie die).later (.journalReplay die)

/-- PART_RESET (R427): one compute die, cache die or station resets; unretired entries of the die's journal are replayed. -/
def execPartReset (p : ModulePart) (s : State) : Out :=
  match p with
  | .computeDie d => .next (s.resetAndReplay d)
  | .cacheDie d => .next ((s.resetSlices d).later (.journalReplay d))
  | .station st => .next (((s.dropReplayed (· == st)).resetStation st).later (.journalReplay (dieOf st)))

/-- 105 °C and 115 °C in eighths (R438). -/
def throttleTemp : Nat := 840
def resetTemp : Nat := 920

/-- THROTTLE (R5, R438): from 105 °C on the die's station clock runs at `rate` sixty-fourths of the reference clock, less than all of
them and at least half; below, at its full rate. -/
def execThrottle (die rate : Nat) (s : State) : Out :=
  let r := if throttleTemp ≤ Config.dieTemp die s.now then Nat.max 32 (Nat.min 63 rate) else 64
  .next (s.modDie die (fun d => { d with clock := d.clock + (s.now - d.clockAt) * d.rate, clockAt := s.now, rate := r }))

/-- THERMAL_RESET (R427, R438): at 115 °C the die resets; below that temperature nothing does. -/
def execThermalReset (die : Nat) (s : State) : Out :=
  if resetTemp ≤ Config.dieTemp die s.now then .next (s.resetAndReplay die) else .next s

/-! ## The management window (R313, R318, R428 to R431) -/

/-- Whether a master owns the module. -/
def State.owns (s : State) (m : Nat) : Bool := !s.vacant && s.master == m

/-- The owner's write, or a write that is ignored and sets bit 1 of the status doubleword (R430). -/
def State.asOwner (s : State) (m : Nat) (f : State → State) : State :=
  if s.owns m then f s else { s with status := s.status ||| 2 }

/-- Whether a class record is legal by itself (R313). -/
def classLegal (v : Word) : Bool :=
  bitsOf v 63 62 == 0 && bitsOf v 40 40 == 0 && bitsOf v 33 32 == 0 && bitsOf v 15 13 == 0 && bitsOf v 9 7 == 0 &&
    decide (1 ≤ bitsOf v 6 0) && decide (bitsOf v 6 0 ≤ 64) && decide (bitsOf v 61 55 ≤ 64) && decide (bitsOf v 54 48 ≤ 64) &&
    decide (bitsOf v 47 41 ≤ 64)

/-- Whether the reservations of the sixteen classes fit with one record replaced (R313). -/
def State.classFits (s : State) (c : Nat) (v : Word) : Bool :=
  let all := (List.range 16).map (fun k => if k = c then v else s.classCfg k)
  decide ((all.map (fun w => bitsOf w 61 55)).sum ≤ 64) && decide ((all.map (fun w => bitsOf w 54 48)).sum ≤ 64) &&
    decide ((all.map (fun w => bitsOf w 47 41)).sum ≤ 64)

/-- CLASSCFG_WRITE (R161, R313): accepted, or refused with bit 0 of the status doubleword. DESIGN CHOICE: a
change of PRIO leaves the EPs that stand (log entry 169). -/
def execClasscfgWrite (master c : Nat) (v : Word) (s : State) : Out :=
  .next (s.asOwner master (fun s =>
    if decide (c < 16) && classLegal v && s.classFits c v then { s with classcfg := put c v s.classcfg }
    else { s with status := s.status ||| 1 }))

/-- An election opens while no owner stands and some claim does (R429). -/
def State.openElection (s : State) : State :=
  if s.vacant && s.election.isNone && s.claims.any (fun e => e.2 != 0) then
    { s with election := some (s.now + 65536) }.laterAt (s.now + 65536) .electionEnd
  else s

/-- A claim is written; the first nonzero one opens an election (R428, R429). -/
def State.setClaim (s : State) (m : Nat) (v : Word) : State :=
  { s with claims := put m (v &&& 0xFFFFFFFF#64) s.claims }.openElection

/-- CLAIM (R428 to R430): each master writes its own claim. -/
def execClaim (master : Nat) (v : Word) (s : State) : Out := .next (if 4 ≤ master then s else s.setClaim master v)

/-- A write of a place of the management window that has no step of its own (R428, R430): each master may write its own claim, the
owner every claim; the rest is read only, or holds nothing. -/
def State.writeManagement (s : State) (master off : Nat) (v : Word) : State :=
  let m := (off - 0x0008) / 8
  let claim := decide (0x0008 ≤ off) && decide (off < 0x0028) && off % 8 == 0
  if claim && m == master then s.setClaim m v
  else s.asOwner master (fun s => if claim then s.setClaim m v else s)

/-- The winner of an election (R429): the lowest nonzero claim, the lower index of a tie. -/
def State.winner (s : State) : Option Nat :=
  ((List.range 4).foldl (fun (m : Option (Nat × Nat)) i =>
    let v := (look 0 s.claims i).toNat
    if v = 0 then m
    else match m with
      | none => some (i, v)
      | some (k, u) => if v < u then some (i, v) else some (k, u)) none).map (·.1)

/-- ELECTION_END (R429). An election in which every claim is withdrawn elects no one. -/
def execElectionEnd (s : State) : Out :=
  match s.election with
  | none => .next s
  | some t =>
    if s.now < t then .next s.wait
    else
      match s.winner with
      | some m => .next { s with vacant := false, master := m, election := none }
      | none => .next { s with election := none }

/-- HANDOVER_GIVE (R429). -/
def execHandoverGive (master to_ : Nat) (s : State) : Out :=
  .next (s.asOwner master (fun s => { s with master := to_ % 4 }))

/-- The owner is gone (R429): the claims still standing open a new election. -/
def State.vacate (s : State) : State := { s with vacant := true }.openElection

/-- HANDOVER_RELEASE (R429). -/
def execHandoverRelease (master : Nat) (s : State) : Out := .next (s.asOwner master State.vacate)

/-- MASTER_PATH_DOWN (R429). -/
def execMasterPathDown (master : Nat) (s : State) : Out := .next (if s.owns master then s.vacate else s)

/-- FNMODESET (R431): the owner's value is copied to every station and innkeeper. -/
def execFnmodeset (master : Nat) (v : Word) (s : State) : Out :=
  .next (s.asOwner master (fun s => { s with fnmodeset := v, fnmode := v &&& 0x1F }))

/-! ## Bring-up (R35, R437) -/

/-- The stations of an image as the innkeepers set them up (R437 step 3). -/
def State.installImage (s : State) (b : BootImage) : State :=
  let s1 := b.layouts.foldl (fun (s : State) e => s.modStation e.1 (fun x =>
    { x with plb1 := e.2.1, plb2 := e.2.2.1, plb3 := e.2.2.2, app1 := e.2.1, app2 := e.2.2.1, app3 := e.2.2.2 })) s
  let s2 := b.formats.foldl (fun (s : State) e => s.setBfmt e.1 e.2.1 e.2.2) s1
  let s3 : State := { s2 with mem := b.bytes.foldl (fun m e => memPut e.1 e.2 m) s2.mem }
  let s4 := b.handlers.foldl (fun (s : State) e => s.installHandlers e.1 [(e.2.1, e.2.2)]) s3
  b.keepers.foldl (fun (s : State) e =>
    s.modHolder { st := 8192 + e.1, core := .keeper } (fun h => { h with state := .run, pc := wordAddr e.2 })) s4

/-- Whether HBPER may take a value (R365). -/
def periodLegal (n : Nat) : Bool := (List.range 11).any (fun i => n == 2 ^ (10 + i))

/-- Bytes of configuration SRAM, 16 MiB (R437). -/
def imageBytes : Nat := 2 ^ 24

/-- POWER_ON (R365, R437): the image is placed in configuration SRAM. One whose signature fails, or that is too long, leaves the module
held in reset, which OWNER reports; a valid one runs bring-up, and
package time and the roll call start at 0. DESIGN CHOICE: a period that R365 does not allow leaves HBPER at its reset value. -/
def execPowerOn (b : BootImage) (s : State) : Out :=
  if s.boot == .running then .next s
  else if !b.signed || imageBytes < b.size then .next { s with boot := .failed, sram := some b }
  else
    let s1 : State := { s with
      boot := .running, sram := some b, hbper := if periodLegal b.hbper then b.hbper else 8192, classcfg := b.classes.zipIdx.map (fun e => (e.2, e.1)),
      asroot := b.roots.zipIdx.map (fun e => (e.2, e.1)), fnmode := b.fnmode &&& 0x1F, notice := b.notice,
      cxl := b.cxlBytes.zipIdx.map (fun e => (e.2, e.1)), mem := [], empties := [], poison := [], now := 0 }
    let s2 := s1.installImage b
    let beat := ((List.range Config.stations).map (fun st => [({ due := 0, ev := .heartbeatSend st } : Timed),
      { due := s1.hbper, ev := .periodEnd st }])).flatten
    .next { s2 with agenda := s2.agenda ++ beat }

/-! ## Register writes with rows of their own (R6) -/

/-- What a window's write leaves: a refused write changes nothing, and one that has begun and waits comes again. -/
def RegWrite.out (r : RegWrite) (again : Instr) (s : State) : Out :=
  match r with
  | .ok t => .next t
  | .refuse => .next s
  | .held t => .next (t.later again)
  | .wait => .next s.wait

/-- A holder's own write of a control register, refused with ACCESS (R384). -/
def State.crWriteBy (s : State) (w : Who) (n : Nat) (v : Word) : Out :=
  match s.crWrite w n v with
  | .go t => .next t
  | .wait => .next s.wait
  | .trap t => .next ({ s with cur := w }.trapNow t)

/-- L1CFG_APPLY (R29 to R31): APPLY by the innkeeper; an illegal layout changes nothing. -/
def execL1cfgApply (st : Nat) (s : State) : Out := (RegWrite.of (s.applyL1cfg st)).out (.l1cfgApply st) s

/-- LAYOUT_TAKES_EFFECT (R31, R32): once the station is quiescent and its mailbox queues are empty. -/
def execLayoutTakesEffect (st : Nat) (s : State) : Out :=
  let x := s.station st
  if !x.pend then .next s
  else if !s.quiescent st || !x.mail.isEmpty then .next s.wait
  else .next ((s.applyLayout st).mailStatus st)

/-- BFMT_WRITE (R224, R225): what reaches the bank from now on waits; once nothing that has reached it before is outstanding, the bank
is cleared and has its new format. -/
def execBfmtWrite (cl bank : Nat) (v : Word) (s : State) : Out :=
  if !bfmtLegal v || 16 ≤ bank then .next s
  else (s.writeBfmt cl bank v).out (.bfmtWrite cl bank v) s

/-- PCNT_WRITE (R174, R176). -/
def execPcntWrite (st n : Nat) (v : Word) (s : State) : Out := .next (if n < 32 then s.writePcnt st n v else s)

/-- THR_WRITE (R175, R176); a value that breaks R175 changes nothing. -/
def execThrWrite (st n : Nat) (v : Word) (s : State) : Out := .next (if n < 32 then (s.writeThr st n v).getD s else s)

/-- WAYMASK_WRITE (R294, R295, R299, R300): by the urgent bank, or by the innkeeper (`who` is then the core `keeper` of the
station written). -/
def execWaymaskWrite (who : Who) (c : Nat) (v : Word) (s : State) : Out :=
  if 16 ≤ c then .next s
  else if who.core = .keeper then .next ((s.writeMask who (0x050 + c) v).getD s)
  else s.crWriteBy who (0x050 + c) v

/-- TENANT_WRITE (R293, R294, R299, R300). -/
def execTenantWrite (who : Who) (v : Word) (s : State) : Out :=
  if who.core = .keeper then .next ((s.writeMask who 0x044 v).getD s) else s.crWriteBy who 0x044 v

/-- FPEND_DISCARD (R351): a held store failure is discarded. -/
def execFpendDiscard (who : Who) (s : State) : Out := .next (s.modHolder who (fun h => { h with failure := none }))

/-- HANDLER_TABLE_INSTALL (R37, R40, R151). -/
def execHandlerTableInstall (st : Nat) (entries : List (Nat × BitVec 256)) (s : State) : Out :=
  .next (s.installHandlers st entries)

/-- REGISTER_WRITE (R6, R197, R318, R430, R432): a register, a rank-table entry, an address space root, halt-on-break, a byte
or word of a pool or an instruction store, or a place that holds nothing. -/
def execRegisterWrite (t : RegTarget) (v : Word) (s : State) : Out :=
  match t with
  | .stationControl st n => (s.writeStationReg st n v).out (.registerWrite t v) s
  | .rankTable st rank => .next (s.writeRank st rank v)
  | .asRoot master a => .next (s.asOwner master (fun s =>
      if a < 64 then { s with asroot := put a (v &&& 0x000FFFFFFFFF0001#64) s.asroot } else s))
  | .dbgCtl master => .next (s.asOwner master (fun s => { s with dbgctl := v.getLsbD 0 }))
  | .poolByte st off size => .next (s.writeAt (Config.poolAt st + off) (leBytes v.toNat (Nat.min size 8)))
  | .instrStore st storer off size =>
    .next (if s.quiescent st then s.writeAt (Config.istoreAt st storer + off) (leBytes v.toNat (Nat.min size 8)) else s)
  | .otherWindow st off => .next (s.ignoredWrite (clusterOf st) (BitVec.ofNat 64 off))
  | .managementOther master off => .next (s.writeManagement master off v)

end Sys2Proof.Machine
end

