-- ==== Sys2Proof/Machine/Scalar.lean ====
section
/-! DEFINITION. The scalar instructions of every core (R72 to R76, R93 to R98): operations between registers and with an
immediate, LUI and ADDPC, branches, jumps and hardware loops. -/
namespace Sys2Proof.Machine

/-! ## Operations between registers (R72, R73) -/

/-- A shift or rotate amount of an operation of width n (R72). -/
def shiftOf {n : Nat} (y : BitVec n) : Nat := y.toNat % n

/-- A truth value as a number of n bits. -/
def bit1 (n : Nat) (b : Bool) : BitVec n := if b then 1 else 0

/-- An ALU operation of either width (R72): W = 1 takes the low 32 bits and sign-extends its result. -/
def alu (f : (n : Nat) → BitVec n → BitVec n → BitVec n) (w : Bool) (x y : Word) : Word :=
  if w then (f 32 (x.setWidth 32) (y.setWidth 32)).signExtend 64 else f 64 x y

/-- ADD (R72): x + y modulo 2^w. -/
def addOp (n : Nat) (x y : BitVec n) : BitVec n := x + y
/-- SUB (R72): x − y modulo 2^w. -/
def subOp (n : Nat) (x y : BitVec n) : BitVec n := x - y
/-- AND (R72). -/
def andOp (n : Nat) (x y : BitVec n) : BitVec n := x &&& y
/-- OR (R72). -/
def orOp (n : Nat) (x y : BitVec n) : BitVec n := x ||| y
/-- XOR (R72). -/
def xorOp (n : Nat) (x y : BitVec n) : BitVec n := x ^^^ y
/-- ANDN (R72): x AND NOT y. -/
def andnOp (n : Nat) (x y : BitVec n) : BitVec n := x &&& ~~~y
/-- ORN (R72): x OR NOT y. -/
def ornOp (n : Nat) (x y : BitVec n) : BitVec n := x ||| ~~~y
/-- SLL (R72). -/
def sllOp (n : Nat) (x y : BitVec n) : BitVec n := x <<< shiftOf y
/-- SRL (R72). -/
def srlOp (n : Nat) (x y : BitVec n) : BitVec n := x >>> shiftOf y
/-- SRA (R72). -/
def sraOp (n : Nat) (x y : BitVec n) : BitVec n := x.sshiftRight (shiftOf y)
/-- ROL (R72). -/
def rolOp (n : Nat) (x y : BitVec n) : BitVec n := x.rotateLeft (shiftOf y)
/-- ROR (R72). -/
def rorOp (n : Nat) (x y : BitVec n) : BitVec n := x.rotateRight (shiftOf y)
/-- SLT (R72): signed. -/
def sltOp (n : Nat) (x y : BitVec n) : BitVec n := bit1 n (x.slt y)
/-- SLTU (R72): unsigned. -/
def sltuOp (n : Nat) (x y : BitVec n) : BitVec n := bit1 n (x.ult y)
/-- SEQ (R72). -/
def seqOp (n : Nat) (x y : BitVec n) : BitVec n := bit1 n (x == y)
/-- MIN (R72): the lesser, signed. -/
def minOp (n : Nat) (x y : BitVec n) : BitVec n := if x.slt y then x else y
/-- MAX (R72): the greater, signed. -/
def maxOp (n : Nat) (x y : BitVec n) : BitVec n := if x.slt y then y else x
/-- MINU (R72): the lesser, unsigned. -/
def minuOp (n : Nat) (x y : BitVec n) : BitVec n := if x.ult y then x else y
/-- MAXU (R72): the greater, unsigned. -/
def maxuOp (n : Nat) (x y : BitVec n) : BitVec n := if x.ult y then y else x
/-- MUL (R72): the low w bits of the product. -/
def mulOp (n : Nat) (x y : BitVec n) : BitVec n := x * y
/-- MULH (R72): the high half of the signed product. -/
def mulhOp (n : Nat) (x y : BitVec n) : BitVec n := BitVec.ofInt n (x.toInt * y.toInt / 2 ^ n)
/-- MULHU (R72): the high half of the unsigned product. -/
def mulhuOp (n : Nat) (x y : BitVec n) : BitVec n := BitVec.ofNat n (x.toNat * y.toNat / 2 ^ n)
/-- DIV (R72, R73): rounded toward zero; all ones for y = 0. -/
def divOp (n : Nat) (x y : BitVec n) : BitVec n := if y = 0 then BitVec.allOnes n else x.sdiv y
/-- DIVU (R72, R73): all ones for y = 0. -/
def divuOp (n : Nat) (x y : BitVec n) : BitVec n := if y = 0 then BitVec.allOnes n else x / y
/-- REM (R72, R73): the sign of x; x for y = 0. -/
def remOp (n : Nat) (x y : BitVec n) : BitVec n := if y = 0 then x else x.srem y
/-- REMU (R72, R73): x for y = 0. -/
def remuOp (n : Nat) (x y : BitVec n) : BitVec n := if y = 0 then x else x % y

/-- An ALU instruction with two sources. -/
def State.rr (s : State) (d a b : Reg) (ka kb : Bool) (f : Word → Word → Word) : Out :=
  s.compS .plain [(.s a, ka), (.s b, kb)] d (f (s.valS s.cur a) (s.valS s.cur b))

/-- An instruction with one source register and one result. -/
def State.r1 (s : State) (d a : Reg) (ka : Bool) (f : Word → Word) : Out :=
  s.compS .plain [(.s a, ka)] d (f (s.valS s.cur a))

/-- ADD (R72). -/
def execAdd (d a b : Reg) (ka kb w : Bool) (s : State) : Out := s.rr d a b ka kb (alu addOp w)
/-- SUB (R72). -/
def execSub (d a b : Reg) (ka kb w : Bool) (s : State) : Out := s.rr d a b ka kb (alu subOp w)
/-- AND (R72). -/
def execAnd (d a b : Reg) (ka kb w : Bool) (s : State) : Out := s.rr d a b ka kb (alu andOp w)
/-- OR (R72). -/
def execOr (d a b : Reg) (ka kb w : Bool) (s : State) : Out := s.rr d a b ka kb (alu orOp w)
/-- XOR (R72). -/
def execXor (d a b : Reg) (ka kb w : Bool) (s : State) : Out := s.rr d a b ka kb (alu xorOp w)
/-- ANDN (R72). -/
def execAndn (d a b : Reg) (ka kb w : Bool) (s : State) : Out := s.rr d a b ka kb (alu andnOp w)
/-- ORN (R72). -/
def execOrn (d a b : Reg) (ka kb w : Bool) (s : State) : Out := s.rr d a b ka kb (alu ornOp w)
/-- SLL (R72). -/
def execSll (d a b : Reg) (ka kb w : Bool) (s : State) : Out := s.rr d a b ka kb (alu sllOp w)
/-- SRL (R72). -/
def execSrl (d a b : Reg) (ka kb w : Bool) (s : State) : Out := s.rr d a b ka kb (alu srlOp w)
/-- SRA (R72). -/
def execSra (d a b : Reg) (ka kb w : Bool) (s : State) : Out := s.rr d a b ka kb (alu sraOp w)
/-- ROL (R72). -/
def execRol (d a b : Reg) (ka kb w : Bool) (s : State) : Out := s.rr d a b ka kb (alu rolOp w)
/-- ROR (R72). -/
def execRor (d a b : Reg) (ka kb w : Bool) (s : State) : Out := s.rr d a b ka kb (alu rorOp w)
/-- SLT (R72). -/
def execSlt (d a b : Reg) (ka kb w : Bool) (s : State) : Out := s.rr d a b ka kb (alu sltOp w)
/-- SLTU (R72). -/
def execSltu (d a b : Reg) (ka kb w : Bool) (s : State) : Out := s.rr d a b ka kb (alu sltuOp w)
/-- SEQ (R72). -/
def execSeq (d a b : Reg) (ka kb w : Bool) (s : State) : Out := s.rr d a b ka kb (alu seqOp w)
/-- MIN (R72). -/
def execMin (d a b : Reg) (ka kb w : Bool) (s : State) : Out := s.rr d a b ka kb (alu minOp w)
/-- MAX (R72). -/
def execMax (d a b : Reg) (ka kb w : Bool) (s : State) : Out := s.rr d a b ka kb (alu maxOp w)
/-- MINU (R72). -/
def execMinu (d a b : Reg) (ka kb w : Bool) (s : State) : Out := s.rr d a b ka kb (alu minuOp w)
/-- MAXU (R72). -/
def execMaxu (d a b : Reg) (ka kb w : Bool) (s : State) : Out := s.rr d a b ka kb (alu maxuOp w)
/-- MUL (R72). -/
def execMul (d a b : Reg) (ka kb w : Bool) (s : State) : Out := s.rr d a b ka kb (alu mulOp w)
/-- MULH (R72). -/
def execMulh (d a b : Reg) (ka kb w : Bool) (s : State) : Out := s.rr d a b ka kb (alu mulhOp w)
/-- MULHU (R72). -/
def execMulhu (d a b : Reg) (ka kb w : Bool) (s : State) : Out := s.rr d a b ka kb (alu mulhuOp w)
/-- DIV (R72, R73). -/
def execDiv (d a b : Reg) (ka kb w : Bool) (s : State) : Out := s.rr d a b ka kb (alu divOp w)
/-- DIVU (R72, R73). -/
def execDivu (d a b : Reg) (ka kb w : Bool) (s : State) : Out := s.rr d a b ka kb (alu divuOp w)
/-- REM (R72, R73). -/
def execRem (d a b : Reg) (ka kb w : Bool) (s : State) : Out := s.rr d a b ka kb (alu remOp w)
/-- REMU (R72, R73). -/
def execRemu (d a b : Reg) (ka kb w : Bool) (s : State) : Out := s.rr d a b ka kb (alu remuOp w)

/-- The numbers of leading and trailing zero bits, of ones, the reversal of bits and of bytes (R72). -/
def clz64 (x : Word) : Nat := if x = 0 then 64 else 63 - Nat.log2 x.toNat
def ctz64 (x : Word) : Nat := ((List.range 64).find? (fun i => x.getLsbD i)).getD 64
def popc64 (x : Word) : Nat := ((List.range 64).filter (fun i => x.getLsbD i)).length
def brev64 (x : Word) : Word := x.reverse
def bswap64 (x : Word) : Word := BitVec.ofNat 64 (leNat (leBytes x.toNat 8).reverse)

/-- The low n bits of x, sign-extended or zero-extended, for a width from a register (R72). -/
def extWidth (signed : Bool) (x y : Word) : Word :=
  let n := bitsOf y 6 0
  if n = 0 then 0 else if 64 ≤ n then x else if signed then sext64 x.toNat n else zext64 x.toNat n

/-- CLZ (R72). -/
def execClz (d a : Reg) (ka : Bool) (s : State) : Out := s.r1 d a ka (fun x => BitVec.ofNat 64 (clz64 x))
/-- CTZ (R72). -/
def execCtz (d a : Reg) (ka : Bool) (s : State) : Out := s.r1 d a ka (fun x => BitVec.ofNat 64 (ctz64 x))
/-- POPC (R72). -/
def execPopc (d a : Reg) (ka : Bool) (s : State) : Out := s.r1 d a ka (fun x => BitVec.ofNat 64 (popc64 x))
/-- BREV (R72). -/
def execBrev (d a : Reg) (ka : Bool) (s : State) : Out := s.r1 d a ka brev64
/-- BSWAP (R72). -/
def execBswap (d a : Reg) (ka : Bool) (s : State) : Out := s.r1 d a ka bswap64
/-- EXTS (R72). -/
def execExts (d a b : Reg) (ka kb : Bool) (s : State) : Out := s.rr d a b ka kb (extWidth true)
/-- EXTZ (R72). -/
def execExtz (d a b : Reg) (ka kb : Bool) (s : State) : Out := s.rr d a b ka kb (extWidth false)

/-! ## Operations with an immediate (R74 to R76) -/

/-- The immediate of the RI format (R52). -/
def imm15 (i : BitVec 15) : Word := i.signExtend 64

/-- ADDI (R74). -/
def execAddi (d a : Reg) (ka : Bool) (i : BitVec 15) (s : State) : Out := s.r1 d a ka (fun x => x + imm15 i)
/-- ANDI (R74). -/
def execAndi (d a : Reg) (ka : Bool) (i : BitVec 15) (s : State) : Out := s.r1 d a ka (fun x => x &&& imm15 i)
/-- ORI (R74). -/
def execOri (d a : Reg) (ka : Bool) (i : BitVec 15) (s : State) : Out := s.r1 d a ka (fun x => x ||| imm15 i)
/-- XORI (R74). -/
def execXori (d a : Reg) (ka : Bool) (i : BitVec 15) (s : State) : Out := s.r1 d a ka (fun x => x ^^^ imm15 i)
/-- SLTI: signed (R74). -/
def execSlti (d a : Reg) (ka : Bool) (i : BitVec 15) (s : State) : Out := s.r1 d a ka (fun x => bit1 64 (x.slt (imm15 i)))
/-- SLTIU: unsigned (R74). -/
def execSltiu (d a : Reg) (ka : Bool) (i : BitVec 15) (s : State) : Out := s.r1 d a ka (fun x => bit1 64 (x.ult (imm15 i)))
/-- SLLI (R75): the operation of R72 with the amount of the word. -/
def execSlli (d a : Reg) (ka w : Bool) (n : BitVec 6) (s : State) : Out :=
  s.r1 d a ka (fun x => alu sllOp w x (n.setWidth 64))
/-- SRLI (R75): the operation of R72 with the amount of the word. -/
def execSrli (d a : Reg) (ka w : Bool) (n : BitVec 6) (s : State) : Out :=
  s.r1 d a ka (fun x => alu srlOp w x (n.setWidth 64))
/-- SRAI (R75): the operation of R72 with the amount of the word. -/
def execSrai (d a : Reg) (ka w : Bool) (n : BitVec 6) (s : State) : Out :=
  s.r1 d a ka (fun x => alu sraOp w x (n.setWidth 64))
/-- ROLI (R75): the operation of R72 with the amount of the word. -/
def execRoli (d a : Reg) (ka w : Bool) (n : BitVec 6) (s : State) : Out :=
  s.r1 d a ka (fun x => alu rolOp w x (n.setWidth 64))
/-- LUI (R76). -/
def execLui (d : Reg) (i : BitVec 21) (s : State) : Out := s.compS .plain [] d (i.signExtend 64 <<< 15)
/-- ADDPC (R76). -/
def execAddpc (d : Reg) (i : BitVec 21) (s : State) : Out := s.compS .plain [] d (s.me.pc + (i.signExtend 64 <<< 2))

/-! ## Branches and jumps (R93, R94) -/

/-- A word offset in bytes. -/
def wordOffset {n : Nat} (o : BitVec n) : Word := o.signExtend 64 <<< 2

/-- A conditional branch (R93). -/
def State.branch (s : State) (a b : Reg) (ka kb : Bool) (o : BitVec 11) (c : Word → Word → Bool) : Out :=
  s.issue .plain ⟨[(.s a, ka), (.s b, kb)], []⟩ (fun t =>
    .go (t, if c (s.valS s.cur a) (s.valS s.cur b) then .taken (s.me.pc + wordOffset o) else .next))

/-- BEQ (R54, R93). -/
def execBeq (a b : Reg) (ka kb : Bool) (o : BitVec 11) (s : State) : Out :=
  s.branch a b ka kb o (fun x y => x == y)
/-- BNE (R54, R93). -/
def execBne (a b : Reg) (ka kb : Bool) (o : BitVec 11) (s : State) : Out :=
  s.branch a b ka kb o (fun x y => x != y)
/-- BLT (R54, R93). -/
def execBlt (a b : Reg) (ka kb : Bool) (o : BitVec 11) (s : State) : Out :=
  s.branch a b ka kb o (fun x y => x.slt y)
/-- BGE (R54, R93). -/
def execBge (a b : Reg) (ka kb : Bool) (o : BitVec 11) (s : State) : Out :=
  s.branch a b ka kb o (fun x y => !x.slt y)
/-- BLTU (R54, R93). -/
def execBltu (a b : Reg) (ka kb : Bool) (o : BitVec 11) (s : State) : Out :=
  s.branch a b ka kb o (fun x y => x.ult y)
/-- BGEU (R54, R93). -/
def execBgeu (a b : Reg) (ka kb : Bool) (o : BitVec 11) (s : State) : Out :=
  s.branch a b ka kb o (fun x y => !x.ult y)

/-- BF (R54, R93): it tests register a and neither reads nor pops it. -/
def execBf (a : Reg) (o : BitVec 11) (s : State) : Out :=
  s.issue .plain ⟨[], []⟩ (fun t =>
    .go (t, if s.testFull s.cur (.s a) then .taken (s.me.pc + wordOffset o) else .next))

/-- JAL (R52, R94). -/
def execJal (d : Reg) (o : BitVec 21) (s : State) : Out :=
  s.issue .plain ⟨[], [.s d]⟩ (fun t => .go (t.writeS s.cur d (s.me.pc + 4), .taken (s.me.pc + wordOffset o)))

/-- JALR (R42, R52, R94): a target that is no word address traps ALIGN. -/
def execJalr (d a : Reg) (ka : Bool) (i : BitVec 15) (s : State) : Out :=
  let target := s.valS s.cur a + imm15 i
  s.issue .plain ⟨[(.s a, ka)], [.s d]⟩ (fun t =>
    (need (bitsOf target 1 0 == 0) (alignOf target)).bind (fun _ =>
      .go (t.writeS s.cur d (s.me.pc + 4), .taken target)))

/-! ## Hardware loops (R95, R96) -/

/-- The innermost loop that is not frozen: handler loops lie above the frozen ones (R98). -/
def innermost (l : List LoopEntry) : Option LoopEntry :=
  match l with
  | e :: _ => if e.frozen then none else some e
  | [] => none

/-- The loop-stack checks of LOOP and LOOPI (R96), made with the encoding checks (R43). -/
def Holder.loopRefused (h : Holder) (l : BitVec 10) : Bool :=
  decide (4 ≤ h.loops.length) ||
  (match innermost h.loops with
   | some e => decide ((lastOf e).toNat < (h.pc + 4 + BitVec.ofNat 64 (4 * (l.toNat - 1))).toNat)
   | none => false)

/-- A loop of `n` iterations begins, or its body is skipped (R96). -/
def State.beginLoop (t : State) (w : Who) (l : BitVec 10) (n : Nat) : State × PcFlow :=
  let pc := (t.holder w).pc
  if n = 0 then (t, .skip (pc + 4 + BitVec.ofNat 64 (4 * l.toNat)))
  else
    (t.modHolder w (fun h => { h with loops := { start := pc + 4, len := l.toNat, count := n, frozen := false } :: h.loops }),
     .enter)

/-- LOOP (R96): the count is the low 32 bits of register a. -/
def execLoop (a : Reg) (ka : Bool) (l : BitVec 10) (s : State) : Out :=
  s.issueIf .plain (s.me.loopRefused l) ⟨[(.s a, ka)], []⟩ (fun t =>
    .go (t.beginLoop s.cur l (bitsOf (s.valS s.cur a) 31 0)))

/-- LOOPI (R96): the count is an immediate. -/
def execLoopi (l n : BitVec 10) (s : State) : Out :=
  s.issueIf .plain (s.me.loopRefused l) ⟨[], []⟩ (fun t => .go (t.beginLoop s.cur l n.toNat))

end Sys2Proof.Machine
end

