-- ==== Sys2Proof/Machine/Signature.lean ====
section
/-! DEFINITION. The signature unit (R217 to R220, R259 to R264, R285, R286, R453, R455). A command is performed in one step, after
the earlier ones of its station. -/
namespace Sys2Proof.Machine

/-! ## Reading and writing of a command -/

/-- A command as it runs: the state so far, and its lines that park. -/
structure SigRun where
  cmd : SigCmd
  s : State
  faults : List Piece
deriving Repr, Inhabited

/-- Reads bytes. A line that cannot be read leaves its record (R236). -/
def SigRun.load (r : SigRun) (a n : Nat) : Option (List EByte × SigRun) :=
  (r.s.engPieces r.cmd.acc .load r.cmd.retry.isSome a n).map (fun (ps, t) =>
    let t1 := ps.foldl (fun (u : State) p => match p.ref with
      | .fault | .heldUp | .silent => u.engRecord r.cmd.acc (p.addr / 128 * 128) 0x05
      | .refused c => u.engRecord r.cmd.acc (p.addr / 128 * 128) c
      | _ => u) t
    (t.engBytes ps, { r with s := t1, faults := r.faults ++ ps.filter Piece.parks }))

/-- Writes bytes as plain engine writes. -/
def SigRun.store (r : SigRun) (a : Nat) (data : List EByte) : Option SigRun :=
  (r.s.engPieces r.cmd.acc .store r.cmd.retry.isSome a data.length).map (fun (ps, t) =>
    { r with s := (t.engPut r.cmd.acc ps data notWhole).1, faults := r.faults ++ ps.filter Piece.parks })

/-- The values of bytes, and whether any of them is poisoned. -/
def eBytes (bs : List EByte) : List Byte := bs.map (fun e => e.b)
def ePoison (bs : List EByte) : Bool := bs.any (fun e => e.poison)

/-- Little-endian 8-byte words with the mark of poison. -/
def eWords (bs : List EByte) (n : Nat) : List (Word × Bool) :=
  (List.range n).map (fun i => let w := (bs.drop (8 * i)).take 8; (leWord (eBytes w), ePoison w))

/-! ## SGHASH (R217, R260) -/

/-- The groups of a bank's row that a command reads, each with the mark of poison. -/
def State.rowGroups (s : State) (cl bank : Nat) (f : BankFmt) (r kg : Nat) : List (PlaneGroup × Bool) :=
  (List.range kg).map (fun g => s.engGroup cl bank f (groupIx f r g))

/-- The entry of a row. -/
def State.hashEntry (s : State) (cl bank : Nat) (f : BankFmt) (r : Nat) (q : SgRegs) : Word × Bool :=
  let gs := s.rowGroups cl bank f r q.kg
  let bad := gs.any (fun g => g.2)
  if gs.any (fun g => g.1.nan) then (0x200000000, bad)
  else if (List.range ((q.kg + 1) / 2)).all (fun j => s.zeroSummary cl bank f r j) then (0x100000000, bad)
  else
    let emin := gs.foldl (fun (m : Int) g => if g.1.e < m then g.1.e else m) ((gs.head?.map (fun g => g.1.e)).getD 0)
    let vals := (gs.map (fun g => (List.range 32).map (fun k => groupQ f.fmt g.1 k * (2 : Int) ^ (g.1.e - emin).toNat))).flatten
    let mixes := (List.range (32 * q.kg)).map (fun k => (mix q.seed (BitVec.ofNat 64 k) 0).toNat)
    let sum (j : Nat) : Int := ((vals.zip mixes).map (fun e => if e.2.testBit j then -e.1 else e.1)).sum
    (BitVec.ofNat 64 (((List.range q.w).map (fun j => if 0 ≤ sum j then 2 ^ j else 0)).sum), bad)

/-- SGHASH: each row is read when its entry is formed (R286). -/
def sigHash (r : SigRun) (cl bank : Nat) (f : BankFmt) : Option SigRun :=
  (List.range r.cmd.regs.rows).foldlM (fun (u : SigRun) row =>
    let e := u.s.hashEntry cl bank f row r.cmd.regs
    u.store (r.cmd.b.toNat + 8 * row) (markBytes e.2 (leBytes e.1.toNat 8))) r

/-! ## Room lists (R218, R285) -/

/-- A room list as it is read. -/
structure RoomList where
  nroom : Nat
  nrow : Nat
  nzero : Nat
  room : List Nat
  lead : List Nat
  count : List Nat
deriving DecidableEq, Repr, Inhabited

/-- The room list of 392 bytes. -/
def roomList (bs : List Byte) : RoomList :=
  let h (o n : Nat) : Nat := leNat ((bs.drop o).take n)
  { nroom := h 0 2, nrow := h 2 2, nzero := h 4 2, room := (List.range 64).map (fun r => h (8 + 2 * r) 2),
    lead := (List.range 64).map (fun m => h (136 + 4 * m) 2), count := (List.range 64).map (fun m => h (138 + 4 * m) 2) }

/-- Whether a room list is valid (R285). -/
def RoomList.valid (l : RoomList) (rows : Nat) : Bool :=
  decide (l.nroom ≤ 64) && l.nrow == rows &&
  (List.range rows).all (fun r => decide (l.room.getD r 0 < l.nroom) || l.room.getD r 0 == 0xFFFF) &&
  (List.range l.nroom).all (fun m => decide (l.lead.getD m 0 < l.nrow) && l.room.getD (l.lead.getD m 0) 0 == m) &&
  (l.count.take l.nroom).sum + l.nzero == l.nrow

/-- The members of a room, in ascending order. -/
def RoomList.members (l : RoomList) (m : Nat) : List Nat := (List.range l.nrow).filter (fun r => l.room.getD r 0 == m)

/-- The rooms of rows in order: for each row its room, and for each room its entry, its lead and its members' number. -/
def assignRooms : List Word → Nat → List Nat → List (Word × Nat × Nat) → List Nat × List (Word × Nat × Nat)
  | [], _, rows, rooms => (rows, rooms)
  | e :: rest, r, rows, rooms =>
    if e.getLsbD 32 then assignRooms rest (r + 1) (rows ++ [0xFFFF]) rooms
    else
      match rooms.findIdx? (fun x => x.1 == e) with
      | some m => assignRooms rest (r + 1) (rows ++ [m]) (rooms.mapIdx (fun i x => if i = m then (x.1, x.2.1, x.2.2 + 1) else x))
      | none => assignRooms rest (r + 1) (rows ++ [rooms.length]) (rooms ++ [(e, r, 1)])

/-- SGROOM (R218, R286). -/
def sigRoom (r : SigRun) : Option SigRun :=
  let n := r.cmd.regs.rows
  (r.load r.cmd.a.toNat (8 * n)).bind (fun (bs, u) =>
    let es := eWords bs n
    let (rows, rooms) := assignRooms (es.map (fun e => e.1)) 0 [] []
    let zeros := (rows.filter (fun m => m == 0xFFFF)).length
    let out := leBytes (rooms.length + n * 2 ^ 16 + zeros * 2 ^ 32) 8 ++
      ((List.range 64).map (fun i => leBytes (rows.getD i 0) 2)).flatten ++
      ((List.range 64).map (fun m => leBytes (let x := rooms.getD m (0, 0, 0); x.2.1 + x.2.2 * 2 ^ 16) 4)).flatten
    u.store r.cmd.regs.rl.toNat (markBytes (es.any (fun e => e.2)) out))

/-- Reads the room list; a poisoned or invalid one is absent. -/
def SigRun.rooms (r : SigRun) : Option (Option RoomList × SigRun) :=
  (r.load r.cmd.regs.rl.toNat 392).map (fun (bs, u) =>
    let l := roomList (eBytes bs)
    (if ePoison bs || !l.valid r.cmd.regs.rows then none else some l, u))

/-- The lines of a range poisoned, nothing written. -/
def SigRun.lose (r : SigRun) (a n : Nat) : Option SigRun :=
  r.store a (List.replicate n { b := 0, poison := true, arrived := false })

/-- The record of an invalid room list (R267, R285). -/
def SigRun.invalid (r : SigRun) : SigRun :=
  { r with s := r.s.record (homeBank r.cmd.who.st) deferred 0x04 0x8F r.cmd.regs.rl 0 r.cmd.acc.task }

/-! ## SGLEAD (R219, R261) -/

/-- The values of a row's groups. -/
def rowValues (fmt : Nat) (gs : List (PlaneGroup × Bool)) : List Value :=
  (gs.map (fun g => (List.range 32).map (groupValue fmt g.1))).flatten

/-- The L1 norm of a row in units of 2^−160; absent for a NaN row, whose norm is infinite. -/
def rowNorm (fmt : Nat) (gs : List (PlaneGroup × Bool)) : Option Nat :=
  if gs.any (fun g => g.1.nan) then none
  else some ((gs.map (fun g => ((List.range 32).map (fun k => (groupQ fmt g.1 k).natAbs)).sum * 2 ^ (g.1.e + 160).toNat)).sum)

/-- Whether a norm is greater than another. -/
def normLt (x y : Option Nat) : Bool :=
  match x, y with
  | some a, some b => decide (a < b)
  | some _, none => true
  | none, _ => false

/-- The member with the largest norm, the lower row on ties. -/
def maxNorm (norm : Nat → Option Nat) (ms : List Nat) : Nat :=
  ms.tail.foldl (fun m r => if normLt (norm m) (norm r) then r else m) (ms.headD 0)

/-- The lead of a room: its values, the mark of poison, and the lead row its record then names. -/
def State.leadOf (s : State) (cl bank : Nat) (f : BankFmt) (q : SgRegs) (l : RoomList) (m : Nat) : List Value × Bool × Nat :=
  let rows (r : Nat) := s.rowGroups cl bank f r q.kg
  let ms := l.members m
  let bad (rs : List Nat) : Bool := rs.any (fun r => (rows r).any (fun g => g.2))
  let low := ms.headD 0
  match q.rule with
  | 0 => (rowValues f.fmt (rows low), bad [low], l.lead.getD m 0)
  | 1 =>
    let vals := ms.map (fun r => rowValues f.fmt (rows r))
    let n := numOfInt ms.length
    let mean := (List.range (32 * q.kg)).map (fun k =>
      (fDiv (vals.foldl (fun x v => (fAdd .rne x (v.getD k qNaN)).1) (.fin false 0 0)) n).1)
    (mean, bad ms, l.lead.getD m 0)
  | _ =>
    let best := maxNorm (fun r => rowNorm f.fmt (rows r)) ms
    (rowValues f.fmt (rows best), bad ms, best)

/-- SGLEAD: a room's rows are read when its lead is formed (R286). -/
def sigLead (r : SigRun) (cl bank : Nat) (f : BankFmt) : Option SigRun :=
  let q := r.cmd.regs
  let rb := leadBytes f.fmt q.kg
  let b := r.cmd.b.toNat
  r.rooms.bind (fun (l, u) =>
    match l with
    | none => (u.invalid.lose b (q.rows * rb)).bind (fun v => if q.rule = 2 then v.lose (q.rl.toNat + 136) 256 else some v)
    | some l =>
      ((List.range q.rows).foldlM (fun (e : SigRun × List Nat) m =>
        if m < l.nroom then
          let x := e.1.s.leadOf cl bank f q l m
          (e.1.store (b + m * rb) (markBytes x.2.1 (packRow f.fmt x.1))).map (fun v => (v, e.2 ++ [x.2.2]))
        else (e.1.store (b + m * rb) (cleanBytes (List.replicate rb 0))).map (fun v => (v, e.2))) (u, [])).bind (fun (v, leads) =>
          if q.rule = 2 then (leads.zipIdx).foldlM (fun (w : SigRun) (e : Nat × Nat) =>
            w.store (q.rl.toNat + 136 + 4 * e.2) (cleanBytes (leBytes e.1 2))) v
          else some v))

/-! ## SGSCAT and SGSUM (R220, R262, R263) -/

/-- The FP32 elements of bytes, and back. -/
def floats (bs : List Byte) : List Value := (List.range (bs.length / 4)).map (fun i => fp32.decode (leNat ((bs.drop (4 * i)).take 4)))
def floatBytes (xs : List Value) : List Byte := (xs.map (fun x => leBytes (fp32.round .rne x).1 4)).flatten

/-- SGSCAT. -/
def sigScat (r : SigRun) : Option SigRun :=
  let q := r.cmd.regs
  let b := r.cmd.b.toNat
  r.rooms.bind (fun (l, u) =>
    match l with
    | none => u.invalid.lose b (q.rows * q.slen)
    | some l =>
      (List.range q.rows).foldlM (fun (v : SigRun) row =>
        let m := l.room.getD row 0xFFFF
        if m = 0xFFFF then v.store (b + row * q.slen) (cleanBytes (List.replicate q.slen 0))
        else
          (v.load (r.cmd.a.toNat + m * q.slen) q.slen).bind (fun (bs, w) =>
            let n := numOfInt (l.count.getD m 0)
            let out := if q.smode = 1 then floatBytes ((floats (eBytes bs)).map (fun x => (fDiv x n).1)) else eBytes bs
            w.store (b + row * q.slen) (markBytes (ePoison bs) out))) u)

/-- A room's member rows summed in ascending order (R262): the first exactly, each further one added and rounded. -/
def sumRows (rows : List (List Byte)) : List Byte :=
  match rows with
  | [] => []
  | x :: rest => rest.foldl (fun acc y => floatBytes ((floats acc).zipWith (fun p q => (fAdd .rne p q).1) (floats y))) x

/-- SGSUM. -/
def sigSum (r : SigRun) : Option SigRun :=
  let q := r.cmd.regs
  let b := r.cmd.b.toNat
  r.rooms.bind (fun (l, u) =>
    match l with
    | none => u.invalid.lose b (q.rows * q.slen)
    | some l =>
      (List.range q.rows).foldlM (fun (v : SigRun) m =>
        if l.nroom ≤ m then v.store (b + m * q.slen) (cleanBytes (List.replicate q.slen 0))
        else
          ((l.members m).foldlM (fun (e : List (List EByte) × SigRun) row =>
            (e.2.load (r.cmd.a.toNat + row * q.slen) q.slen).map (fun (bs, w) => (e.1 ++ [bs], w))) ([], v)).bind (fun (rows, w) =>
              w.store (b + m * q.slen) (markBytes (rows.any ePoison) (sumRows (rows.map eBytes))))) u)

/-! ## SGSEL (R264) -/

/-- The bits set in the low `w` bits. -/
def popcount (w x : Nat) : Nat := ((List.range w).map (fun i => if x.testBit i then 1 else 0)).sum

/-- The best key left: the largest similarity, the lower index on ties. -/
def bestKey (l : List (Nat × Nat)) : Option (Nat × Nat) :=
  l.foldl (fun (m : Option (Nat × Nat)) e => match m with
    | none => some e
    | some k => if k.2 < e.2 then some e else some k) none

/-- The keys kept for a query. -/
def keepKeys : Nat → List (Nat × Nat) → List Nat
  | 0, _ => []
  | n + 1, l =>
    match bestKey l with
    | none => []
    | some e => e.1 :: keepKeys n (l.filter (fun x => x.1 != e.1))

/-- The mask row of a query. -/
def selectRow (w topk : Nat) (q : Word) (keys : List Word) : Nat :=
  if q.getLsbD 32 then 0
  else
    let cands := (keys.zipIdx.filter (fun e => !e.1.getLsbD 32)).map (fun e => (e.2, w - popcount w (q ^^^ e.1).toNat))
    ((keepKeys topk cands).map (2 ^ ·)).sum

/-- SGSEL: the query and the keys of a mask row are read before it is written (R264, R286). -/
def sigSel (r : SigRun) : Option SigRun :=
  let q := r.cmd.regs
  let mr := 8 * ((q.nk + 63) / 64)
  (List.range q.nq).foldlM (fun (w : SigRun) i =>
    (w.load (r.cmd.a.toNat + 8 * i) 8).bind (fun (qs, u) =>
      (u.load q.keys.toNat (8 * q.nk)).bind (fun (ks, v) =>
        let keys := eWords ks q.nk
        let query := (eWords qs 1).headD (0, false)
        let lost := query.2 || keys.any (fun e => e.2)
        v.store (r.cmd.b.toNat + i * mr) (markBytes lost (leBytes (selectRow q.w q.topk query.1 (keys.map (fun k => k.1))) mr))))) r

/-! ## Performance -/

/-- The whole of a command; absent while something must be waited for. -/
def SigRun.run (r : SigRun) : Option SigRun :=
  match r.cmd.kind with
  | .room => sigRoom r
  | .scat => sigScat r
  | .sum => sigSum r
  | .sel => sigSel r
  | .hash =>
    match r.s.ownBank r.cmd.who r.cmd.a.toNat with
    | some (bank, f) => sigHash r (clusterOf r.cmd.who.st) bank f
    | none => some r
  | .lead =>
    match r.s.ownBank r.cmd.who r.cmd.a.toNat with
    | some (bank, f) => sigLead r (clusterOf r.cmd.who.st) bank f
    | none => some r

/-- SIG_COMMAND_PERFORM (R213, R217 to R220, R236, R259 to R264, R267, R285, R286, R455): the unit's oldest command. A command whose
lines fault is tried again whole. -/
def execSigCommandPerform (st : Nat) (s : State) : Out :=
  match (s.station st).sigs with
  | [] => .next s
  | c :: rest =>
    let w := workOfTask c.who c.acc.task
    if retryAhead s.now c.retry || !s.storesDone (some (w, c.id)) || s.publishBefore w c.id ||
        s.engBehind c.id (fun cl b => s.sigInBank cl b c) then .next s.wait
    else
      match ({ cmd := c, s := s, faults := [] } : SigRun).run with
      | none => .next s.wait
      | some r =>
        match s.engFault c.acc r.faults.eraseDups c.retry with
        | (u, some e) =>
          .next ((u.modStation st (fun x => { x with sigs := { c with retry := some e } :: rest })).laterAt e.at_ (.sigCommandPerform st))
        | (_, none) =>
          let t := r.s.modStation st (fun x => { x with sigs := rest })
          .next (if rest.isEmpty then t else t.later (.sigCommandPerform st))

/-! ## Commands at issue (R266, R285, R286) -/

/-- Whether every one of a number of ranges may be reached. -/
def State.rangesOk (s : State) (w : Who) (rs : List (Nat × Nat)) : Bool := rs.all (fun e => s.mayName w e.1 e.2)

/-- Rows as ranges. -/
def rowRanges (a n rows : Nat) : List (Nat × Nat) := (List.range rows).map (fun i => (a + i * n, n))

/-- The ranges a command reads or writes. -/
def sigRanges (k : SigKind) (q : SgRegs) (a b : Nat) (fmt : Nat) : List (Nat × Nat) :=
  match k with
  | .hash => [(b, 8 * q.rows)]
  | .room => [(a, 8 * q.rows), (q.rl.toNat, 392)]
  | .lead => (q.rl.toNat, 392) :: rowRanges b (leadBytes fmt q.kg) q.rows
  | .scat | .sum => (q.rl.toNat, 392) :: (rowRanges a q.slen q.rows ++ rowRanges b q.slen q.rows)
  | .sel => [(a, 8 * q.nq), (q.keys.toNat, 8 * q.nk), (b, 8 * ((q.nk + 63) / 64) * q.nq)]

/-- The first check of R286 that fails. -/
def State.sigFault (s : State) (w : Who) (k : SigKind) (q : SgRegs) (a b : Nat) : Option Nat :=
  let bank := match s.ownBank w a with | some (_, f) => if f.b then none else some f | none => none
  let banked := match k with
    | .hash | .lead =>
      match bank with
      | none => some 0x80
      | some f =>
        if k == .lead && f.fmt == 0x16 then some 0x81
        else if kmax f < 32 * q.kg then some 0x82
        else none
    | .scat | .sum => if q.slen = 0 then some 0x83 else none
    | _ => none
  match banked with
  | some sub => some sub
  | none => if s.rangesOk w (sigRanges k q a b (match bank with | some f => f.fmt | none => 0)) then none else some 0x84

/-- A signature command issues (R266). -/
def State.sigIssue (s : State) (k : SigKind) (a b : Reg) (ka kb : Bool) (two : Bool) : Out :=
  let va := s.valS s.cur a
  let vb := s.valS s.cur b
  s.issue .vstore ⟨if two then [(.s a, ka), (.s b, kb)] else [(.s a, ka)], []⟩ (fun t =>
    let w := s.cur
    let x := t.station w.st
    (noFault 4 (t.sigFault w k x.sg va.toNat vb.toNat)).bind (fun _ =>
    (await (decide (x.sigs.length < 8))).bind (fun _ =>
      let c : SigCmd := { id := t.ops, kind := k, who := w, acc := t.engAccess w 4, a := va, b := vb, regs := x.sg, retry := none }
      let t1 := t.modStation w.st (fun y => { y with sigs := y.sigs ++ [c] })
      .go ((if x.sigs.isEmpty then t1.later (.sigCommandPerform w.st) else t1).bump, .next))))

/-- SGHASH (R217, R260, R286). -/
def execSghash (a b : Reg) (ka kb : Bool) (s : State) : Out := s.sigIssue .hash a b ka kb true
/-- SGROOM (R218, R286). -/
def execSgroom (a : Reg) (ka : Bool) (s : State) : Out := s.sigIssue .room a 0 ka false false
/-- SGLEAD (R219, R261, R286). -/
def execSglead (a b : Reg) (ka kb : Bool) (s : State) : Out := s.sigIssue .lead a b ka kb true
/-- SGSCAT (R220, R263, R286). -/
def execSgscat (a b : Reg) (ka kb : Bool) (s : State) : Out := s.sigIssue .scat a b ka kb true
/-- SGSUM (R262, R286). -/
def execSgsum (a b : Reg) (ka kb : Bool) (s : State) : Out := s.sigIssue .sum a b ka kb true
/-- SGSEL (R264, R286). -/
def execSgsel (a b : Reg) (ka kb : Bool) (s : State) : Out := s.sigIssue .sel a b ka kb true

end Sys2Proof.Machine
end

