-- ==== Sys2Proof/Machine/System.lean ====
section
/-! DEFINITION. The system instructions (R41, R68, R341, R381 to R396): FENCE, TEND, TRET, TRAP, BREAK, control
registers, SETE and TSTF, the masked window, cache control, MIGR, error records, NOP and SIGCHK. -/
namespace Sys2Proof.Machine

/-! ## FENCE (R341, R381) -/

/-- The trap that reports a held store failure (R325, R350). -/
def Holder.failureTrap (h : Holder) : Option TrapInfo :=
  h.failure.map (fun f => { cause := f.cause, tval := f.pc, fva := some f.addr, held := true })

/-- Whether a scope makes a fence invalidate Shared lines (R341). -/
def invalidates : Scope → Bool
  | .cluster | .die | .module | .system => true
  | _ => false

/-- FENCE (R341, R381). A rel fence issues at once, past unsettled loads as well. DESIGN CHOICE (log entry 164): R90 has every FENCE
wait for them at issue, where R341 has a rel fence issue at once; the model follows R341. An acq or full fence reports a failure that is held when it would issue; else
it waits until what it covers has settled and been performed, invalidates, and then reports a failure that was held while it
waited. -/
def execFence (kind : FenceKind) (scope : Scope) (s : State) : Out :=
  s.issue .plain ⟨[], []⟩ (fun t =>
    let h := t.me
    match (if h.waiting then none else h.failureTrap) with
    | some e => .trap e
    | none =>
      match kind with
      | .rel =>
        .go ((t.modHolder s.cur (fun h =>
          { h with releases := h.releases.filter (fun f => !h.released f) ++
                               (if scope = .slot then [] else [(t.ops, scope)]) })).bump, .next)
      | _ =>
        if !h.unsettled.isEmpty || (kind = .full && !h.released (t.ops, scope)) then
          if h.waiting then .wait else .go (t.modHolder s.cur (fun h => { h with waiting := true }), .stay)
        else
          let t1 := if invalidates scope then t.dropShared s.cur.st else t
          match h.failureTrap with
          | some e => .go (t1.takeTrap s.cur h.pc e 0, .stay)
          | none => .go (t1, .next))

/-! ## TEND (R41) -/

/-- A producer is withdrawn without effect (R41): its destination is empty with nothing outstanding, and it is settled. -/
def State.dropProducer (s : State) (w : Who) (op : Nat) : State :=
  match (s.holder w).unsettled.find? (fun u => u.op == op) with
  | none => s
  | some u =>
    let s1 := (destsOf u.kind).foldl (fun s n =>
      let h := s.holder w
      let emptied (k : Holder) : Holder := if k.avail n = .pending op then k.setAvail n .empty else k
      s.setHolder w { emptied h with unsettled := h.unsettled.map (fun x =>
        let k := emptied { h with s := x.snap.s, v := x.snap.v }
        { x with snap := { x.snap with s := k.s, v := k.v } }) }) s
    ((s1.settle w u).modHolder w (fun h => { h with acquire := if h.acquire = some op then none else h.acquire })).afterSettle w

/-- Whether an access of the task, whichever of its cores issued it, waits at its home on a full/empty condition. -/
def State.taskWaits (s : State) (w : Who) (p : AccPart) : Bool :=
  p.acc.who.st == w.st && p.acc.task == (s.holder w).taskid && p.acc.eng == 0 && s.feWaits p

/-- The phaser operations of a task that wait at their homes. -/
def State.phaserWaits (s : State) (w : Who) (task : Word) : List PhWait :=
  (s.stations.map (fun e => (e.2.phasers.map (fun q =>
    q.2.waiting.filter (fun x => isPhaserOf w task x.op))).flatten)).flatten

/-- The task's accesses that wait at their homes on a full/empty condition, and its phaser operations that wait at
theirs, are withdrawn without effect (R41, R202). -/
def State.withdrawWaiting (s : State) (w : Who) : State :=
  let mine := s.taskWaits w
  let gone := s.waiting.filter mine
  let task := (s.holder w).taskid
  let ops := s.phaserWaits w task
  let s1 := (s.withdraw w.st mine).phaserWithdraw w task
  let s2 := gone.foldl (fun s p => match p.kind with
    | .store => s
    | _ => s.dropProducer p.acc.who p.acc.op) s1
  ops.foldl (fun s x => s.dropProducer x.op.who x.op.op) s2

/-- Whether every other load, store and returning atomic of the task has been performed, and no command that a parked
context 0 waits for is left (R41, R256). -/
def State.taskDone (s : State) (w : Who) : Bool :=
  (s.team w).all (fun c => (s.holder c).unsettled.isEmpty) &&
  (s.storesOf w).all (fun o => o.reduction || o.task != (s.holder w).taskid) &&
  !((s.station w.st).parker == some (slotNumber w.core) && w.core != .urgent &&
    (s.station w.st).mtx0.any (fun m => workOfTask m.who m.acc.task == w))

/-- Whether the hold queue has a place for the PLEAVEs of a task's end to ranks in transit (R179, R199). -/
def State.leaveRoom (s : State) (w : Who) : Bool :=
  let x := s.station w.st
  let n := ((s.holder w).phasers.filter (fun m => rankTransit (x.rankEntry m.rank))).length
  n == 0 || decide (x.held.length + n ≤ 64)

/-- The loader and the storer of a task that executes TEND issue no more (R16); what they have issued is still performed.
DESIGN CHOICE: they stay so when the TEND traps. -/
def State.haltTeam (s : State) (w : Who) : State :=
  (s.team w).foldl (fun t c =>
    if c.core == .loader || c.core == .storer then
      t.modHolder c (fun h => if h.state == .free then h else { h with state := .stopping, heldTrap := none, waiting := false })
    else t) s

/-- TEND (R16, R41, R199, R256, R325): the task's loader and storer issue no more, then what waits is withdrawn. A loader or storer stops once its loads are settled, its TEND being provisional until then
(R90). The first attempt reports a held failure; a failure that comes while it waits is reported
once nothing is outstanding. -/
def execTend (s : State) : Out :=
  s.issue .plain ⟨[], []⟩ (fun t =>
    let h := t.me
    match s.cur.core with
    | .loader | .storer =>
      match h.failureTrap with
      | some e => .trap e
      | none => (await h.unsettled.isEmpty).bind (fun _ => .go (t.restCore s.cur, .stay))
    | _ =>
      match (if h.waiting then none else h.failureTrap) with
      | some e => .trap e
      | none =>
        let t1 := (t.haltTeam s.cur).withdrawWaiting s.cur
        if !t1.taskDone s.cur || !t1.leaveRoom s.cur then
          if h.waiting && !t.waiting.any (t.taskWaits s.cur) && (t.phaserWaits s.cur h.taskid).isEmpty then .wait
          else .go (t1.modHolder s.cur (fun k => { k with waiting := true }), .stay)
        else
          match (t1.holder s.cur).failureTrap with
          | some e => .go (t1.takeTrap s.cur h.pc e 0, .stay)
          | none => .go ((t1.freeHolder s.cur false).complete s.cur h false, .stay))

/-! ## TRET, TRAP and BREAK (R354, R382, R383) -/

/-- TRET (R354, R383, R256): ILLEGAL outside a handler, ENGINE while the slot has context 0 parked. -/
def execTret (s : State) : Out :=
  s.issue .held ⟨[], []⟩ (fun t =>
    (need t.me.inh (illegalOf t.me)).bind (fun _ =>
      (need (!((t.station s.cur.st).parker == some (slotNumber s.cur.core) && taskCores.contains s.cur.core))
        (engineTrap 3 0x6A)).bind (fun _ => .go (t.modHolder s.cur Holder.leaveTrap, .done))))

/-- TRAP (R382): SOFTWARE with the code. -/
def execTrap (c : BitVec 10) (s : State) : Out :=
  s.issue .held ⟨[], []⟩ (fun _ => .trap (trapOf 0x0D (c.setWidth 64)))

/-- BREAK (R382, R159): the trap BREAK, or with halt-on-break set a halt of the station before the next instruction. -/
def execBrk (c : BitVec 10) (s : State) : Out :=
  s.issue .held ⟨[], []⟩ (fun t =>
    if t.dbgctl && s.cur.st < 8192 then
      .go ((t.modStation s.cur.st (fun x => { x with halted := true })).later (.debugHalt s.cur.st), .next)
    else .trap (trapOf 0x0E (c.setWidth 64)))

/-! ## Control registers (R384, R385) -/

/-- CRR (R385). -/
def execCrr (d : Reg) (c : BitVec 10) (s : State) : Out :=
  s.issue .plain ⟨[], []⟩ (fun t =>
    (need (crReadable s.cur.core c.toNat) (accessTrap (c.setWidth 64))).bind (fun _ =>
      (t.checkDst s.cur (.s d)).bind (fun _ => .go (t.writeS s.cur d (t.crValue s.cur c.toNat), .next))))

/-- CRW, CRS and CRC (R385): `f` forms the new value from the old value and the operand. -/
def State.crModify (s : State) (d : Reg) (c : BitVec 10) (f : Word → Word → Word) : Out :=
  s.issue .held ⟨[], []⟩ (fun t =>
    (need (crRight s.cur.core c.toNat != .refuse) (accessTrap (c.setWidth 64))).bind (fun _ =>
      (t.checkSrc s.cur (.s d) false).bind (fun _ =>
        let v := t.valS s.cur d
        let t1 := t.popAll s.cur [(.s d, false)]
        (t1.crWrite s.cur c.toNat (f (t1.crValue s.cur c.toNat) v)).bind (fun t2 => .go (t2, .next)))))

/-- CRW (R385). -/
def execCrw (d : Reg) (c : BitVec 10) (s : State) : Out := s.crModify d c (fun _ v => v)
/-- CRS (R385). -/
def execCrs (d : Reg) (c : BitVec 10) (s : State) : Out := s.crModify d c (fun old v => old ||| v)
/-- CRC (R385). -/
def execCrc (d : Reg) (c : BitVec 10) (s : State) : Out := s.crModify d c (fun old v => old &&& ~~~v)

/-! ## Register full/empty (R386, R387) -/

/-- SETE (R386). -/
def execSete (d : Reg) (s : State) : Out :=
  s.issue .plain ⟨[], []⟩ (fun t =>
    match t.me.binding (.s d) with
    | some b => .trap (queueTrap b.port)
    | none =>
      match t.me.avail (.s d) with
      | .pending _ => .wait
      | _ => .go (t.modHolder s.cur (fun h => h.setAvail (.s d) .empty), .next))

/-- TSTF (R387). -/
def execTstf (d a : Reg) (s : State) : Out :=
  let v := !(s.cur.core == .loader || s.cur.core == .storer) && s.testFull s.cur (.v a)
  s.compS .plain [] d (BitVec.ofNat 64 ((if s.testFull s.cur (.s a) then 1 else 0) + (if v then 2 else 0)))

/-! ## The masked window (R160, R300, R388) -/

/-- WINBEG (R160, R300, R388). -/
def execWinbeg (s : State) : Out :=
  s.issue .vheld ⟨[], []⟩ (fun t =>
    if t.me.window.isSome then .go (t, .next)
    else if s.cur.core != .urgent && (t.holder { s.cur with core := .urgent }).state == .pending then .wait
    else
      let c := t.clock (dieOf s.cur.st)
      .go ((t.modHolder s.cur (fun h => { h with window := some c })).laterAt (t.now + 512) (.maskwinExpiry s.cur c), .next))

/-- WINEND (R300, R388). -/
def execWinend (s : State) : Out :=
  s.issue .compute ⟨[], []⟩ (fun t => .go (if t.me.window.isSome then t.closeWindow s.cur else t, .next))

/-! ## Cache control (R389 to R391) -/

/-- What holds a cache command back: the release fences before it, as its write-backs count as stores (R389, R390). -/
def IssueClass.cache : IssueClass := { base := true, hold := false, rel := true, mem := false }

/-- The line of the holder's L1 that an address names (R297, R389). -/
def State.cacheLine (s : State) (w : Who) (a : Word) : Option L1Line :=
  if s.regionOf w a.toNat == some .far && w.core != .keeper then
    l1Find (s.station w.st) (a.toNat % 2 ^ 52) (s.ownAccess w).asn
  else none

/-- The dirty sectors of a line are written back; the line stays, clean (R389). -/
def State.cleanLine (s : State) (st : Nat) (l : L1Line) : State :=
  let s1 := (l1Dirty l).foldl (fun s e => { s with mem := memPut (Config.physAt (l.pa + e.1)) e.2 s.mem }) s
  s1.modStation st (fun x => x.setLine { l with dirty0 := false, dirty1 := false })

/-- A line becomes Invalid (R390): an Exclusive one is written back first and its ownership given up. -/
def State.invalidateLine (s : State) (st : Nat) (l : L1Line) : State :=
  if l.exclusive && find? s.owners (l.pa / 128) == some st then (s.recallOwner (l.pa / 128)).getD (s.evict st l)
  else s.evict st l

/-- CFLUSH (R389). The model performs the write-back at issue. -/
def execCflush (a : Reg) (ka : Bool) (s : State) : Out :=
  let addr := s.valS s.cur a
  s.issue .cache ⟨[(.s a, ka)], []⟩ (fun t =>
    .go (match t.cacheLine s.cur addr with
         | some l => if l.exclusive then t.cleanLine s.cur.st l else t
         | none => t, .next))

/-- CINV of one line (R390). -/
def execCinvLine (a : Reg) (ka : Bool) (s : State) : Out :=
  let addr := s.valS s.cur a
  s.issue .cache ⟨[(.s a, ka)], []⟩ (fun t =>
    .go (match t.cacheLine s.cur addr with
         | some l => t.invalidateLine s.cur.st l
         | none => t, .next))

/-- CINV of the whole L1 (R390). -/
def execCinvL1 (s : State) : Out :=
  s.issue .cache ⟨[], []⟩ (fun t =>
    .go ((t.station s.cur.st).l1.foldl (fun s l => s.invalidateLine t.cur.st l) t, .next))

/-- CINV of the instruction cache (R390, R40): after every earlier store of the holder itself. -/
def execCinvIcache (s : State) : Out :=
  s.issue .cache ⟨[], []⟩ (fun t =>
    (await (t.me.stores.all (fun o => o.reduction))).bind (fun _ =>
      .go (t.modStation s.cur.st (fun x => { x with icache := [] }), .next)))

/-- The request of a prefetch of a whole line. -/
def State.prefetchPart (s : State) (w : Who) (a : Word) (excl : Bool) (eng : Nat) : AccPart :=
  let base := a.toNat / 128 * 128
  { acc := { s.ownAccess w with eng := eng }, kind := .prefetch excl, addr := BitVec.ofNat 64 base,
    place := .far (base % 2 ^ 52), size := 128, off := 0, qual := .plain, data := [], attempt := 0, pa := none }

/-- A prefetch Shared into the L1 (R391 hint 0): the sectors that are missing and not on their way are asked for. -/
def State.prefetchShared (s : State) (w : Who) (a : Word) : State :=
  let p := s.prefetchPart w a false 1
  match s.cacheLine w a with
  | some l =>
    let n0 := !l.present0 && !l.fill0
    let n1 := !l.present1 && !l.fill1
    let s1 := s.touchLine w.st l
    if (n0 || n1) && !l.asking then
      (s1.modStation w.st (fun x => match x.l1.find? (fun k => k.id == l.id) with
        | some k => x.setLine { k with fill0 := k.fill0 || n0, fill1 := k.fill1 || n1 }
        | none => x)).later (.translate (fillPart p n0 n1 l.id))
    else s1
  | none =>
    match s.l1Allocate p [] true true with
    | (s1, 0) => s1
    | (s1, id) => s1.later (.translate (fillPart p true true id))

/-- A prefetch Exclusive into the L1 (R391 hint 1), as an atomic would take it: not while WAYMASK is 0 (R312). -/
def State.prefetchExclusive (s : State) (w : Who) (a : Word) : State :=
  let p := s.prefetchPart w a true 1
  match s.cacheLine w a with
  | some l =>
    let s1 := s.touchLine w.st l
    if l.exclusive || l.asking || (s.station w.st).mask p.acc.tenant == 0 then s1 else s1.ask { p with line := l.id } .translate
  | none =>
    match s.l1Allocate p [] false false with
    | (s1, 0) => s1
    | (s1, id) => s1.ask { p with line := id } .translate

/-- PREF (R391). An address outside far memory, and an innkeeper's hint for an L1 it does not have, have no effect. -/
def execPref (a : Reg) (hint : Hint) (ka : Bool) (s : State) : Out :=
  let addr := s.valS s.cur a
  s.issue .plain ⟨[(.s a, ka)], []⟩ (fun t =>
    let l1 := s.cur.core != .keeper && l1Sets (t.station s.cur.st) != 0
    .go (if t.regionOf s.cur addr.toNat != some .far then t
         else match hint with
           | .shared => if l1 then (t.prefetchShared s.cur addr).bump else t
           | .exclusive => if l1 then (t.prefetchExclusive s.cur addr).bump else t
           | .slice => (t.later (.translate (t.prefetchPart s.cur addr false 6))).bump, .next))

/-! ## Migration (R392) -/

/-- MIGR (R392, R332): the urgent bank and the innkeeper only. -/
def execMigr (a b : Reg) (ka kb : Bool) (s : State) : Out :=
  let addr := s.valS s.cur a
  let v := s.valS s.cur b
  s.issue .plain ⟨[(.s a, ka), (.s b, kb)], []⟩ (fun t =>
    let word := accessTrap (s.me.ir.setWidth 64)
    (need (s.cur.core == .urgent || s.cur.core == .keeper) word).bind (fun _ =>
      (need (bitsOf v 63 58 == 0 && bitsOf v 15 0 == 0) word).bind (fun _ =>
        (need (t.regionOf s.cur addr.toNat == some .far) (accessTrap addr)).bind (fun _ =>
          .go ((t.later (.migrationStart (bitsOf v 57 52) (addr.toNat % 2 ^ 52) (bitsOf v 51 16 * 65536) s.cur.st
            (some (s.cur, t.ops)))).bump, .next)))))

/-! ## Error records (R360, R362, R393, R394) -/

/-- The bank and the record a selector names (R362), if it is well formed. -/
def selectBank (v : Word) : Option (Nat × Nat) :=
  let level := bitsOf v 23 22
  let unit := bitsOf v 21 8
  let rec_ := bitsOf v 2 0
  let (limit, key) := match level with
    | 0 => (8192, stationBank unit)
    | 1 => (512, clusterBank unit)
    | 2 => (512, sliceBank unit)
    | _ => (26, linkBank unit)
  if bitsOf v 63 24 == 0 && bitsOf v 7 3 == 0 && decide (unit < limit) && decide (rec_ < bankSize key) then some (key, rec_)
  else none

/-- Whether a core may read, or with `clear` clear, a bank (R393, R394). -/
def mayRecord (w : Who) (key : Nat) (clear : Bool) : Bool :=
  match w.core with
  | .keeper => true
  | .urgent => key == stationBank (rankOf w.st)
  | .slot0 | .slot1 | .slot2 | .slot3 => !clear && key == stationBank (rankOf w.st)
  | .loader | .storer => false

/-- ERRRD (R393). -/
def execErrrd (d a : Reg) (ka : Bool) (s : State) : Out :=
  let v := s.valS s.cur a
  s.issue .plain ⟨[(.s a, ka)], []⟩ (fun t =>
    match selectBank v with
    | none => .trap (accessTrap v)
    | some (key, i) =>
      (need (mayRecord s.cur key false) (accessTrap v)).bind (fun _ =>
        (t.checkDsts s.cur [.s d, .s (d + 1), .s (d + 2), .s (d + 3)]).bind (fun _ =>
          let r := (t.bank key).getD i ErrRec.none
          .go ((((t.writeS s.cur d r.statusWord).writeS s.cur (d + 1) r.addr).writeS s.cur (d + 2) r.syndrome).writeS
            s.cur (d + 3) r.context, .next))))

/-- ERRCLR (R394). -/
def execErrclr (a : Reg) (ka : Bool) (s : State) : Out :=
  let v := s.valS s.cur a
  s.issue .plain ⟨[(.s a, ka)], []⟩ (fun t =>
    match selectBank v with
    | none => .trap (accessTrap v)
    | some (key, i) =>
      (need (mayRecord s.cur key true) (accessTrap v)).bind (fun _ =>
        .go ({ t with banks := put key ((t.bank key).set i ErrRec.none) t.banks }, .next)))

/-! ## NOP and SIGCHK (R395, R396) -/

/-- NOP (R395). -/
def execNop (s : State) : Out := s.issue .plain ⟨[], []⟩ (fun t => .go (t, .next))

/-- One more SIGCHK that becomes final with the youngest unsettled load. -/
def addCheck (c : Word × BitVec 15 × BitVec 15) : List Unsettled → List Unsettled
  | [] => []
  | [u] => [{ u with checks := u.checks ++ [c] }]
  | u :: r => u :: addCheck c r

/-- SIGCHK (R396, R357, R359): it is not folded; a mismatch past an unsettled load acts once it is final. -/
def execSigchk (e : BitVec 15) (s : State) : Out :=
  s.issue .plain ⟨[], []⟩ (fun t =>
    let h := t.me
    let passed (k : Holder) : Holder := { k.advance .next with sigacc := 0 }
    if h.sigacc = e then .go (t.modHolder s.cur passed, .done)
    else if h.unsettled.isEmpty then .go (t.sigMismatch s.cur h.pc e h.sigacc, .stay)
    else .go (t.modHolder s.cur (fun k => passed { k with unsettled := addCheck (h.pc, e, h.sigacc) k.unsettled }), .done))

end Sys2Proof.Machine
end

