-- ==== Sys2Proof/Machine/Vector.lean ====
section
/-! DEFINITION. Vector registers as lanes (R57, R58, R100, R104, R105) and the integer operations of VI and VIS (R61, R106
to R108). -/
namespace Sys2Proof.Machine

/-! ## Lanes and masks -/

/-- The element width of the integer sense (R57). -/
def ewBits (e : Ew) : Nat :=
  match e with
  | .b8 => 8 | .b16 => 16 | .b32 => 32 | .b64 => 64

/-- Element i of a vector register at a width (R100). -/
def elem (w : Nat) (v : VWord) (i : Nat) : BitVec w := v.extractLsb' (i * w) w

/-- A vector register from its elements, lowest first. -/
def buildV (w : Nat) (f : Nat → BitVec w) : VWord :=
  BitVec.ofNat 2048 (packNat w ((List.range (2048 / w)).map (fun i => (f i).toNat)))

/-- Whether an element is enabled: the mask bit of its lowest byte (R58). -/
def enabled (m : MWord) (w i : Nat) : Bool := m.getLsbD (i * w / 8)

/-- Elements replaced where they are enabled (R58). -/
def mergeV (w : Nat) (m : MWord) (old : VWord) (f : Nat → BitVec w) : VWord :=
  buildV w (fun i => if enabled m w i then f i else elem w old i)

/-- A mask register from its bits. -/
def buildM (f : Nat → Bool) : MWord :=
  BitVec.ofNat 256 (((List.range 256).map (fun i => if f i then 2 ^ i else 0)).sum)

/-- A mask result: every bit of an enabled element takes its truth value (R106). -/
def mergeM (w : Nat) (m old : MWord) (f : Nat → Bool) : MWord :=
  buildM (fun i => let j := 8 * i / w; if enabled m w j then f j else old.getLsbD i)

/-- The lane of the b operand: an element of a vector register, or the scalar of a scalar form. -/
def State.lane (s : State) (n : RegName) (w i : Nat) : BitVec w :=
  match n with
  | .v r => elem w (s.valV s.cur r) i
  | .s r => (s.valS s.cur r).setWidth w

/-- vd as a source: a merge under a nonzero mask field reads it (R104). -/
def mergeSrc (d : Reg) (m : MReg) (k : Bool) : List (RegName × Bool) := if m = 0 then [] else [(.v d, k)]

/-- A vector instruction with one vector result at element width w: the lane function answers each enabled element and
the flags it raises (R102, R103); the others keep their values. -/
def State.vmap (s : State) (d : Reg) (srcs : List (RegName × Bool)) (w : Nat) (m : MReg) (k : Bool)
    (f : Nat → BitVec w × Nat) : Out :=
  let mask := s.me.rdm m
  let old := s.valV s.cur d
  s.issue .compute ⟨srcs ++ mergeSrc d m k, [.v d]⟩ (fun t =>
    (t.raiseV s.cur ((List.range (2048 / w)).map (fun i => if enabled mask w i then (f i).2 else 0))).bind (fun u =>
      .go (u.writeV s.cur d (mergeV w mask old (fun i => (f i).1)), .next)))

/-- A vector comparison into a mask register. -/
def State.vmaskOp (s : State) (d : MReg) (srcs : List (RegName × Bool)) (w : Nat) (m : MReg)
    (f : Nat → Bool × Nat) : Out :=
  let mask := s.me.rdm m
  let old := s.me.rdm d
  s.issue .compute ⟨srcs, []⟩ (fun t =>
    (t.raiseV s.cur ((List.range (2048 / w)).map (fun i => if enabled mask w i then (f i).2 else 0))).bind (fun u =>
      .go (u.writeM s.cur d (mergeM w mask old (fun i => (f i).1)), .next)))

/-! ## VI and VIS (R106 to R108) -/

/-- An integer operation of two operands, lane by lane. -/
def State.vint (s : State) (d a : Reg) (n : RegName) (e : Ew) (m : MReg) (k : Bool)
    (f : (w : Nat) → BitVec w → BitVec w → BitVec w × Nat) : Out :=
  s.vmap d [(.v a, k), (n, k)] (ewBits e) m k (fun i =>
    f (ewBits e) (elem (ewBits e) (s.valV s.cur a) i) (s.lane n (ewBits e) i))

/-- An operation that raises no flag. -/
def pureOp (f : (w : Nat) → BitVec w → BitVec w → BitVec w) (w : Nat) (x y : BitVec w) : BitVec w × Nat := (f w x y, 0)

/-- An integer comparison into a mask register. -/
def State.vicmp (s : State) (d : MReg) (a : Reg) (n : RegName) (e : Ew) (m : MReg) (k : Bool)
    (f : (w : Nat) → BitVec w → BitVec w → Bool) : Out :=
  s.vmaskOp d [(.v a, k), (n, k)] (ewBits e) m (fun i =>
    (f (ewBits e) (elem (ewBits e) (s.valV s.cur a) i) (s.lane n (ewBits e) i), 0))

/-- VSEL (R61, R106): va where enabled, else the b operand; vd is not read. -/
def State.vselect (s : State) (d a : Reg) (n : RegName) (e : Ew) (m : MReg) (k : Bool) : Out :=
  let mask := s.me.rdm m
  let x := s.valV s.cur a
  s.issue .compute ⟨[(.v a, k), (n, k)], [.v d]⟩ (fun t =>
    .go (t.writeV s.cur d (buildV (ewBits e) (fun i =>
      if enabled mask (ewBits e) i then elem (ewBits e) x i else s.lane n (ewBits e) i)), .next))

/-- A value clamped to a range, with SAT when the clamp changes it (R106). -/
def clampTo (w : Nat) (lo hi v : Int) : BitVec w × Nat :=
  if v < lo then (BitVec.ofInt w lo, flSAT) else if hi < v then (BitVec.ofInt w hi, flSAT) else (BitVec.ofInt w v, 0)

/-- VADDS, VSUBS and VADDSN (R106). -/
def addsOp (w : Nat) (x y : BitVec w) : BitVec w × Nat := clampTo w (-(2 : Int) ^ (w - 1)) (2 ^ (w - 1) - 1) (x.toInt + y.toInt)
def subsOp (w : Nat) (x y : BitVec w) : BitVec w × Nat := clampTo w (-(2 : Int) ^ (w - 1)) (2 ^ (w - 1) - 1) (x.toInt - y.toInt)
def addsnOp (w : Nat) (x y : BitVec w) : BitVec w × Nat := clampTo w 0 (2 ^ w - 1) ((x.toNat : Int) + y.toNat)

/-- A unary integer operation. -/
def State.vint1 (s : State) (d a : Reg) (e : Ew) (m : MReg) (k : Bool) (f : (w : Nat) → BitVec w → BitVec w) : Out :=
  s.vmap d [(.v a, k)] (ewBits e) m k (fun i => (f (ewBits e) (elem (ewBits e) (s.valV s.cur a) i), 0))

/-- |x| modulo 2^w (R106). -/
def absOp (w : Nat) (x : BitVec w) : BitVec w := if x.toInt < 0 then -x else x
/-- The number of 1 bits (R106). -/
def popcNat (w x : Nat) : Nat := ((List.range w).filter (fun i => x.testBit i)).length
/-- Leading zero bits (R106). -/
def clzOp (w : Nat) (x : BitVec w) : BitVec w := BitVec.ofNat w (if x = 0 then w else w - 1 - Nat.log2 x.toNat)

/-- VDOT4 and VDOT4N (R107): four products of narrow elements summed into an element four times as wide. -/
def State.vdot (s : State) (d a : Reg) (n : RegName) (e : Bool) (m : MReg) (k signed : Bool) : Out :=
  let w := if e then 16 else 8
  let num (x : BitVec w) : Int := if signed then x.toInt else x.toNat
  let b (j t : Nat) : BitVec w :=
    match n with
    | .v r => elem w (s.valV s.cur r) (4 * j + t)
    | .s r => (s.valS s.cur r).extractLsb' (t * w) w
  s.vmap d [(.v a, k), (n, k)] (4 * w) m k (fun j =>
    (BitVec.ofInt (4 * w) (((List.range 4).map (fun t => num (elem w (s.valV s.cur a) (4 * j + t)) * num (b j t))).sum), 0))

/-- The register after one (a pair of VWIDEN, VNARROW and VSORT). -/
def nextReg (r : Reg) : Reg := r + 1

/-- VWIDEN (R108): the n elements of va at twice their width, into vd and vd + 1. -/
def execVwiden (d a : Reg) (u : Bool) (e : Ew) (m : MReg) (k : Bool) (s : State) : Out :=
  let w := ewBits e
  let n := 2048 / w
  let mask := s.me.rdm m
  let x := s.valV s.cur a
  let wide (i : Nat) : BitVec (2 * w) := if u then (elem w x i).setWidth (2 * w) else (elem w x i).signExtend (2 * w)
  let half (old : VWord) (base : Nat) : VWord :=
    buildV (2 * w) (fun i => if enabled mask w (base + i) then wide (base + i) else elem (2 * w) old i)
  s.issue .compute ⟨(.v a, k) :: (if m = 0 then [] else [(.v d, k), (.v (nextReg d), k)]), [.v d, .v (nextReg d)]⟩ (fun t =>
    .go ((t.writeV s.cur d (half (s.valV s.cur d) 0)).writeV s.cur (nextReg d) (half (s.valV s.cur (nextReg d)) (n / 2)), .next))

/-- One element of VNARROW (R108), with SAT when it is clamped. -/
def narrowOp (u : BitVec 2) (w : Nat) (x : BitVec w) : BitVec (w / 2) × Nat :=
  if u = 0 then clampTo (w / 2) (-(2 : Int) ^ (w / 2 - 1)) (2 ^ (w / 2 - 1) - 1) x.toInt
  else if u = 1 then clampTo (w / 2) 0 (2 ^ (w / 2) - 1) x.toNat
  else (x.setWidth (w / 2), 0)

/-- VNARROW (R108): the elements of va and va + 1 at half their width, into vd. -/
def execVnarrow (d a : Reg) (u : BitVec 2) (e : Ew) (m : MReg) (k : Bool) (s : State) : Out :=
  let w := ewBits e
  let n := 2048 / w
  s.vmap d [(.v a, k), (.v (nextReg a), k)] (w / 2) m k (fun i =>
    narrowOp u w (if i < n then elem w (s.valV s.cur a) i else elem w (s.valV s.cur (nextReg a)) (i - n)))

/-- VADD (R106). -/
def execVadd (d a b : Reg) (e : Ew) (m : MReg) (k : Bool) (s : State) : Out := s.vint d a (.v b) e m k (pureOp addOp)
/-- VADD, scalar form (R106). -/
def execVaddS (d a b : Reg) (e : Ew) (m : MReg) (k : Bool) (s : State) : Out := s.vint d a (.s b) e m k (pureOp addOp)
/-- VSUB (R106). -/
def execVsub (d a b : Reg) (e : Ew) (m : MReg) (k : Bool) (s : State) : Out := s.vint d a (.v b) e m k (pureOp subOp)
/-- VSUB, scalar form (R106). -/
def execVsubS (d a b : Reg) (e : Ew) (m : MReg) (k : Bool) (s : State) : Out := s.vint d a (.s b) e m k (pureOp subOp)
/-- VMUL (R106). -/
def execVmul (d a b : Reg) (e : Ew) (m : MReg) (k : Bool) (s : State) : Out := s.vint d a (.v b) e m k (pureOp mulOp)
/-- VMUL, scalar form (R106). -/
def execVmulS (d a b : Reg) (e : Ew) (m : MReg) (k : Bool) (s : State) : Out := s.vint d a (.s b) e m k (pureOp mulOp)
/-- VMULH (R106). -/
def execVmulh (d a b : Reg) (e : Ew) (m : MReg) (k : Bool) (s : State) : Out := s.vint d a (.v b) e m k (pureOp mulhOp)
/-- VMULH, scalar form (R106). -/
def execVmulhS (d a b : Reg) (e : Ew) (m : MReg) (k : Bool) (s : State) : Out := s.vint d a (.s b) e m k (pureOp mulhOp)
/-- VMULHN (R106). -/
def execVmulhn (d a b : Reg) (e : Ew) (m : MReg) (k : Bool) (s : State) : Out := s.vint d a (.v b) e m k (pureOp mulhuOp)
/-- VMULHN, scalar form (R106). -/
def execVmulhnS (d a b : Reg) (e : Ew) (m : MReg) (k : Bool) (s : State) : Out := s.vint d a (.s b) e m k (pureOp mulhuOp)
/-- VMIN (R106). -/
def execVmin (d a b : Reg) (e : Ew) (m : MReg) (k : Bool) (s : State) : Out := s.vint d a (.v b) e m k (pureOp minOp)
/-- VMIN, scalar form (R106). -/
def execVminS (d a b : Reg) (e : Ew) (m : MReg) (k : Bool) (s : State) : Out := s.vint d a (.s b) e m k (pureOp minOp)
/-- VMAX (R106). -/
def execVmax (d a b : Reg) (e : Ew) (m : MReg) (k : Bool) (s : State) : Out := s.vint d a (.v b) e m k (pureOp maxOp)
/-- VMAX, scalar form (R106). -/
def execVmaxS (d a b : Reg) (e : Ew) (m : MReg) (k : Bool) (s : State) : Out := s.vint d a (.s b) e m k (pureOp maxOp)
/-- VMINN (R106). -/
def execVminn (d a b : Reg) (e : Ew) (m : MReg) (k : Bool) (s : State) : Out := s.vint d a (.v b) e m k (pureOp minuOp)
/-- VMINN, scalar form (R106). -/
def execVminnS (d a b : Reg) (e : Ew) (m : MReg) (k : Bool) (s : State) : Out := s.vint d a (.s b) e m k (pureOp minuOp)
/-- VMAXN (R106). -/
def execVmaxn (d a b : Reg) (e : Ew) (m : MReg) (k : Bool) (s : State) : Out := s.vint d a (.v b) e m k (pureOp maxuOp)
/-- VMAXN, scalar form (R106). -/
def execVmaxnS (d a b : Reg) (e : Ew) (m : MReg) (k : Bool) (s : State) : Out := s.vint d a (.s b) e m k (pureOp maxuOp)
/-- VAND (R106). -/
def execVand (d a b : Reg) (e : Ew) (m : MReg) (k : Bool) (s : State) : Out := s.vint d a (.v b) e m k (pureOp andOp)
/-- VAND, scalar form (R106). -/
def execVandS (d a b : Reg) (e : Ew) (m : MReg) (k : Bool) (s : State) : Out := s.vint d a (.s b) e m k (pureOp andOp)
/-- VOR (R106). -/
def execVor (d a b : Reg) (e : Ew) (m : MReg) (k : Bool) (s : State) : Out := s.vint d a (.v b) e m k (pureOp orOp)
/-- VOR, scalar form (R106). -/
def execVorS (d a b : Reg) (e : Ew) (m : MReg) (k : Bool) (s : State) : Out := s.vint d a (.s b) e m k (pureOp orOp)
/-- VXOR (R106). -/
def execVxor (d a b : Reg) (e : Ew) (m : MReg) (k : Bool) (s : State) : Out := s.vint d a (.v b) e m k (pureOp xorOp)
/-- VXOR, scalar form (R106). -/
def execVxorS (d a b : Reg) (e : Ew) (m : MReg) (k : Bool) (s : State) : Out := s.vint d a (.s b) e m k (pureOp xorOp)
/-- VANDN (R106). -/
def execVandn (d a b : Reg) (e : Ew) (m : MReg) (k : Bool) (s : State) : Out := s.vint d a (.v b) e m k (pureOp andnOp)
/-- VANDN, scalar form (R106). -/
def execVandnS (d a b : Reg) (e : Ew) (m : MReg) (k : Bool) (s : State) : Out := s.vint d a (.s b) e m k (pureOp andnOp)
/-- VSLL (R106). -/
def execVsll (d a b : Reg) (e : Ew) (m : MReg) (k : Bool) (s : State) : Out := s.vint d a (.v b) e m k (pureOp sllOp)
/-- VSLL, scalar form (R106). -/
def execVsllS (d a b : Reg) (e : Ew) (m : MReg) (k : Bool) (s : State) : Out := s.vint d a (.s b) e m k (pureOp sllOp)
/-- VSRL (R106). -/
def execVsrl (d a b : Reg) (e : Ew) (m : MReg) (k : Bool) (s : State) : Out := s.vint d a (.v b) e m k (pureOp srlOp)
/-- VSRL, scalar form (R106). -/
def execVsrlS (d a b : Reg) (e : Ew) (m : MReg) (k : Bool) (s : State) : Out := s.vint d a (.s b) e m k (pureOp srlOp)
/-- VSRA (R106). -/
def execVsra (d a b : Reg) (e : Ew) (m : MReg) (k : Bool) (s : State) : Out := s.vint d a (.v b) e m k (pureOp sraOp)
/-- VSRA, scalar form (R106). -/
def execVsraS (d a b : Reg) (e : Ew) (m : MReg) (k : Bool) (s : State) : Out := s.vint d a (.s b) e m k (pureOp sraOp)
/-- VSEQ (R106). -/
def execVseq (d : MReg) (a b : Reg) (e : Ew) (m : MReg) (k : Bool) (s : State) : Out := s.vicmp d a (.v b) e m k (fun _ x y => x == y)
/-- VSEQ, scalar form (R106). -/
def execVseqS (d : MReg) (a b : Reg) (e : Ew) (m : MReg) (k : Bool) (s : State) : Out := s.vicmp d a (.s b) e m k (fun _ x y => x == y)
/-- VSLT (R106). -/
def execVslt (d : MReg) (a b : Reg) (e : Ew) (m : MReg) (k : Bool) (s : State) : Out := s.vicmp d a (.v b) e m k (fun _ x y => x.slt y)
/-- VSLT, scalar form (R106). -/
def execVsltS (d : MReg) (a b : Reg) (e : Ew) (m : MReg) (k : Bool) (s : State) : Out := s.vicmp d a (.s b) e m k (fun _ x y => x.slt y)
/-- VSLTN (R106). -/
def execVsltn (d : MReg) (a b : Reg) (e : Ew) (m : MReg) (k : Bool) (s : State) : Out := s.vicmp d a (.v b) e m k (fun _ x y => x.ult y)
/-- VSLTN, scalar form (R106). -/
def execVsltnS (d : MReg) (a b : Reg) (e : Ew) (m : MReg) (k : Bool) (s : State) : Out := s.vicmp d a (.s b) e m k (fun _ x y => x.ult y)
/-- VSEL (R106). -/
def execVsel (d a b : Reg) (e : Ew) (m : MReg) (k : Bool) (s : State) : Out := s.vselect d a (.v b) e m k
/-- VSEL, scalar form (R106). -/
def execVselS (d a b : Reg) (e : Ew) (m : MReg) (k : Bool) (s : State) : Out := s.vselect d a (.s b) e m k
/-- VADDS (R106). -/
def execVadds (d a b : Reg) (e : Ew) (m : MReg) (k : Bool) (s : State) : Out := s.vint d a (.v b) e m k addsOp
/-- VADDS, scalar form (R106). -/
def execVaddsS (d a b : Reg) (e : Ew) (m : MReg) (k : Bool) (s : State) : Out := s.vint d a (.s b) e m k addsOp
/-- VSUBS (R106). -/
def execVsubs (d a b : Reg) (e : Ew) (m : MReg) (k : Bool) (s : State) : Out := s.vint d a (.v b) e m k subsOp
/-- VSUBS, scalar form (R106). -/
def execVsubsS (d a b : Reg) (e : Ew) (m : MReg) (k : Bool) (s : State) : Out := s.vint d a (.s b) e m k subsOp
/-- VADDSN (R106). -/
def execVaddsn (d a b : Reg) (e : Ew) (m : MReg) (k : Bool) (s : State) : Out := s.vint d a (.v b) e m k addsnOp
/-- VADDSN, scalar form (R106). -/
def execVaddsnS (d a b : Reg) (e : Ew) (m : MReg) (k : Bool) (s : State) : Out := s.vint d a (.s b) e m k addsnOp
/-- VDOT4 (R107). -/
def execVdot4 (d a b : Reg) (e : Bool) (m : MReg) (k : Bool) (s : State) : Out := s.vdot d a (.v b) e m k true
/-- VDOT4, scalar form (R107). -/
def execVdot4S (d a b : Reg) (e : Bool) (m : MReg) (k : Bool) (s : State) : Out := s.vdot d a (.s b) e m k true
/-- VDOT4N (R107). -/
def execVdot4n (d a b : Reg) (e : Bool) (m : MReg) (k : Bool) (s : State) : Out := s.vdot d a (.v b) e m k false
/-- VDOT4N, scalar form (R107). -/
def execVdot4nS (d a b : Reg) (e : Bool) (m : MReg) (k : Bool) (s : State) : Out := s.vdot d a (.s b) e m k false
/-- VABS (R106). -/
def execVabs (d a : Reg) (e : Ew) (m : MReg) (k : Bool) (s : State) : Out := s.vint1 d a e m k (absOp)
/-- VPOPC (R106). -/
def execVpopc (d a : Reg) (e : Ew) (m : MReg) (k : Bool) (s : State) : Out := s.vint1 d a e m k (fun w x => BitVec.ofNat w (popcNat w x.toNat))
/-- VCLZ (R106). -/
def execVclz (d a : Reg) (e : Ew) (m : MReg) (k : Bool) (s : State) : Out := s.vint1 d a e m k (clzOp)

end Sys2Proof.Machine
end

