-- ==== Sys2Proof/Machine/VectorFloat.lean ====
section
/-! DEFINITION. Vector floating operations of VF and VFS (R57, R62, R109 to R111). -/
namespace Sys2Proof.Machine

/-- The lane format of the float sense (R57). -/
def ewFmt (e : Ew) : FFmt :=
  match e with
  | .b8 => bf16 | .b16 => fp16 | .b32 => fp32 | .b64 => fp64

/-- The rounding mode of every vector floating operation (R101). -/
def Holder.vecMode (h : Holder) : Rm := rmOfField (bitsOf h.vctl 2 0)

/-- A lane's bits as a value of the lane format. -/
def laneNum (f : FFmt) (x : BitVec f.width) : Value := f.decode x.toNat

/-- A result's bits and flags as a lane. -/
def laneOf (w : Nat) (r : Nat × Nat) : BitVec w × Nat := (BitVec.ofNat w r.1, r.2)

/-- A floating operation of two operands, lane by lane (R109, R110). -/
def State.vfloat (s : State) (d a : Reg) (n : RegName) (e : Ew) (m : MReg) (k : Bool) (f : Rm → Value → Value → FRes) : Out :=
  let g := ewFmt e
  let rm := s.me.vecMode
  s.vmap d [(.v a, k), (n, k)] g.width m k (fun i =>
    laneOf g.width (g.finish rm (f rm (laneNum g (elem g.width (s.valV s.cur a) i)) (laneNum g (s.lane n g.width i)))))

/-- A fused operation (R110): vd is read under every mask, as a source of its own. -/
def State.vfused (s : State) (d a : Reg) (n : RegName) (e : Ew) (m : MReg) (k : Bool)
    (f : Rm → Value → Value → Value → FRes) : Out :=
  let g := ewFmt e
  let rm := s.me.vecMode
  s.vmap d [(.v a, k), (n, k), (.v d, k)] g.width m k (fun i =>
    laneOf g.width (g.finish rm (f rm (laneNum g (elem g.width (s.valV s.cur a) i)) (laneNum g (s.lane n g.width i))
      (laneNum g (elem g.width (s.valV s.cur d) i)))))

/-- A floating comparison into a mask register (R110). -/
def State.vfcmp (s : State) (d : MReg) (a : Reg) (n : RegName) (e : Ew) (m : MReg) (k : Bool)
    (f : Value → Value → Bool × Nat) : Out :=
  let g := ewFmt e
  s.vmaskOp d [(.v a, k), (n, k)] g.width m (fun i =>
    f (laneNum g (elem g.width (s.valV s.cur a) i)) (laneNum g (s.lane n g.width i)))

/-- A floating operation of one operand: result bits and flags from the lane format, the mode and the lane's bits. -/
def State.vfloat1 (s : State) (d a : Reg) (e : Ew) (m : MReg) (k : Bool) (f : FFmt → Rm → Nat → Nat × Nat) : Out :=
  let g := ewFmt e
  let rm := s.me.vecMode
  s.vmap d [(.v a, k)] g.width m k (fun i => laneOf g.width (f g rm (elem g.width (s.valV s.cur a) i).toNat))

/-- VFSQRT and VFRCP of one lane (R110, R111). -/
def vfSqrt (g : FFmt) (rm : Rm) (x : Nat) : Nat × Nat := g.finish rm (fSqrt (g.decode x))
def vfRcp (g : FFmt) (rm : Rm) (x : Nat) : Nat × Nat := g.finish rm (fDiv (numOfInt 1) (g.decode x))
/-- VFABS and VFNEG of one lane: the sign bit alone (R110). -/
def vfAbs (g : FFmt) (_ : Rm) (x : Nat) : Nat × Nat := (x % 2 ^ (g.width - 1), 0)
def vfNeg (g : FFmt) (_ : Rm) (x : Nat) : Nat × Nat := (x ^^^ 2 ^ (g.width - 1), 0)
/-- VFCLASS of one lane (R82, R110). -/
def vfClass (g : FFmt) (_ : Rm) (x : Nat) : Nat × Nat := (2 ^ g.classOf x, 0)

/-- VFADD (R109, R110). -/
def execVfadd (d a b : Reg) (e : Ew) (m : MReg) (k : Bool) (s : State) : Out :=
  s.vfloat d a (.v b) e m k fAdd
/-- VFADD, scalar form (R109, R110). -/
def execVfaddS (d a b : Reg) (e : Ew) (m : MReg) (k : Bool) (s : State) : Out :=
  s.vfloat d a (.s b) e m k fAdd
/-- VFSUB (R109, R110). -/
def execVfsub (d a b : Reg) (e : Ew) (m : MReg) (k : Bool) (s : State) : Out :=
  s.vfloat d a (.v b) e m k fSub
/-- VFSUB, scalar form (R109, R110). -/
def execVfsubS (d a b : Reg) (e : Ew) (m : MReg) (k : Bool) (s : State) : Out :=
  s.vfloat d a (.s b) e m k fSub
/-- VFMUL (R109, R110). -/
def execVfmul (d a b : Reg) (e : Ew) (m : MReg) (k : Bool) (s : State) : Out :=
  s.vfloat d a (.v b) e m k (fun _ => fMul)
/-- VFMUL, scalar form (R109, R110). -/
def execVfmulS (d a b : Reg) (e : Ew) (m : MReg) (k : Bool) (s : State) : Out :=
  s.vfloat d a (.s b) e m k (fun _ => fMul)
/-- VFDIV (R109, R110). -/
def execVfdiv (d a b : Reg) (e : Ew) (m : MReg) (k : Bool) (s : State) : Out :=
  s.vfloat d a (.v b) e m k (fun _ => fDiv)
/-- VFDIV, scalar form (R109, R110). -/
def execVfdivS (d a b : Reg) (e : Ew) (m : MReg) (k : Bool) (s : State) : Out :=
  s.vfloat d a (.s b) e m k (fun _ => fDiv)
/-- VFMIN (R109, R110). -/
def execVfmin (d a b : Reg) (e : Ew) (m : MReg) (k : Bool) (s : State) : Out :=
  s.vfloat d a (.v b) e m k (fun _ => fMinMax false)
/-- VFMIN, scalar form (R109, R110). -/
def execVfminS (d a b : Reg) (e : Ew) (m : MReg) (k : Bool) (s : State) : Out :=
  s.vfloat d a (.s b) e m k (fun _ => fMinMax false)
/-- VFMAX (R109, R110). -/
def execVfmax (d a b : Reg) (e : Ew) (m : MReg) (k : Bool) (s : State) : Out :=
  s.vfloat d a (.v b) e m k (fun _ => fMinMax true)
/-- VFMAX, scalar form (R109, R110). -/
def execVfmaxS (d a b : Reg) (e : Ew) (m : MReg) (k : Bool) (s : State) : Out :=
  s.vfloat d a (.s b) e m k (fun _ => fMinMax true)
/-- VFMA (R109, R110). -/
def execVfma (d a b : Reg) (e : Ew) (m : MReg) (k : Bool) (s : State) : Out :=
  s.vfused d a (.v b) e m k fFma
/-- VFMA, scalar form (R109, R110). -/
def execVfmaS (d a b : Reg) (e : Ew) (m : MReg) (k : Bool) (s : State) : Out :=
  s.vfused d a (.s b) e m k fFma
/-- VFMS (R109, R110). -/
def execVfms (d a b : Reg) (e : Ew) (m : MReg) (k : Bool) (s : State) : Out :=
  s.vfused d a (.v b) e m k fFms
/-- VFMS, scalar form (R109, R110). -/
def execVfmsS (d a b : Reg) (e : Ew) (m : MReg) (k : Bool) (s : State) : Out :=
  s.vfused d a (.s b) e m k fFms
/-- VFEQ (R109, R110). -/
def execVfeq (d : MReg) (a b : Reg) (e : Ew) (m : MReg) (k : Bool) (s : State) : Out :=
  s.vfcmp d a (.v b) e m k fEq
/-- VFEQ, scalar form (R109, R110). -/
def execVfeqS (d : MReg) (a b : Reg) (e : Ew) (m : MReg) (k : Bool) (s : State) : Out :=
  s.vfcmp d a (.s b) e m k fEq
/-- VFLT (R109, R110). -/
def execVflt (d : MReg) (a b : Reg) (e : Ew) (m : MReg) (k : Bool) (s : State) : Out :=
  s.vfcmp d a (.v b) e m k fLt
/-- VFLT, scalar form (R109, R110). -/
def execVfltS (d : MReg) (a b : Reg) (e : Ew) (m : MReg) (k : Bool) (s : State) : Out :=
  s.vfcmp d a (.s b) e m k fLt
/-- VFLE (R109, R110). -/
def execVfle (d : MReg) (a b : Reg) (e : Ew) (m : MReg) (k : Bool) (s : State) : Out :=
  s.vfcmp d a (.v b) e m k fLe
/-- VFLE, scalar form (R109, R110). -/
def execVfleS (d : MReg) (a b : Reg) (e : Ew) (m : MReg) (k : Bool) (s : State) : Out :=
  s.vfcmp d a (.s b) e m k fLe
/-- VFSQRT (R110, R111). -/
def execVfsqrt (d a : Reg) (e : Ew) (m : MReg) (k : Bool) (s : State) : Out :=
  s.vfloat1 d a e m k vfSqrt
/-- VFRCP (R110, R111). -/
def execVfrcp (d a : Reg) (e : Ew) (m : MReg) (k : Bool) (s : State) : Out :=
  s.vfloat1 d a e m k vfRcp
/-- VFEXP2 (R110, R111). -/
def execVfexp2 (d a : Reg) (e : Ew) (m : MReg) (k : Bool) (s : State) : Out :=
  s.vfloat1 d a e m k (fun g rm x => fExp2 g rm (g.decode x))
/-- VFLOG2 (R110, R111). -/
def execVflog2 (d a : Reg) (e : Ew) (m : MReg) (k : Bool) (s : State) : Out :=
  s.vfloat1 d a e m k (fun g rm x => fLog2 g rm (g.decode x))
/-- VFABS (R110, R111). -/
def execVfabs (d a : Reg) (e : Ew) (m : MReg) (k : Bool) (s : State) : Out :=
  s.vfloat1 d a e m k vfAbs
/-- VFNEG (R110, R111). -/
def execVfneg (d a : Reg) (e : Ew) (m : MReg) (k : Bool) (s : State) : Out :=
  s.vfloat1 d a e m k vfNeg
/-- VFCLASS (R110, R111). -/
def execVfclass (d a : Reg) (e : Ew) (m : MReg) (k : Bool) (s : State) : Out :=
  s.vfloat1 d a e m k vfClass

end Sys2Proof.Machine
end

