-- ==== Sys2Proof/Machine/VectorMove.lean ====
section
/-! DEFINITION. VX and VM: reductions, scans, sorting, element moves, bitmaps, random bits, format conversion (R63, R64,
R112 to R121) and the mask operations (R65, R122). -/
namespace Sys2Proof.Machine

/-! ## Reductions and scans (R112 to R114) -/

/-- The element width of an operation: floating ones read ew in the float sense (R112). -/
def redWidth (o : RedOp) (e : Ew) : Nat :=
  match o with
  | .fadd | .fmin | .fmax => (ewFmt e).width
  | _ => ewBits e

/-- One node of two present values: its bits and flags (R112). -/
def redNode (o : RedOp) (e : Ew) (rm : Rm) (w : Nat) (x y : BitVec w) : BitVec w × Nat :=
  let g := ewFmt e
  let fl (r : FRes) : BitVec w × Nat := laneOf w (g.finish rm r)
  match o with
  | .add => (x + y, 0)
  | .min => (minOp w x y, 0)
  | .max => (maxOp w x y, 0)
  | .minn => (minuOp w x y, 0)
  | .maxn => (maxuOp w x y, 0)
  | .fadd => fl (fAdd rm (g.decode x.toNat) (g.decode y.toNat))
  | .fmin => fl (fMinMax false (g.decode x.toNat) (g.decode y.toNat))
  | .fmax => fl (fMinMax true (g.decode x.toNat) (g.decode y.toNat))

/-- The identity of R112. -/
def redIdentity (o : RedOp) (e : Ew) (w : Nat) : BitVec w :=
  let g := ewFmt e
  let inf : Nat := (2 ^ g.eb - 1) * 2 ^ g.mb
  match o with
  | .add | .maxn | .fadd => 0
  | .min => BitVec.ofNat w (2 ^ (w - 1) - 1)
  | .max => BitVec.ofNat w (2 ^ (w - 1))
  | .minn => BitVec.allOnes w
  | .fmin => BitVec.ofNat w inf
  | .fmax => BitVec.ofNat w (g.signed true inf)

/-- Two values of which either may be absent (R112): the node and its flags. -/
def redCombine {w : Nat} (f : BitVec w → BitVec w → BitVec w × Nat) (x y : Option (BitVec w)) : Option (BitVec w) × Nat :=
  match x, y with
  | some a, some b => (some (f a b).1, (f a b).2)
  | some a, none => (some a, 0)
  | none, y => (y, 0)

/-- One level of the tree of pairs (R113). -/
def redLevel {w : Nat} (f : BitVec w → BitVec w → BitVec w × Nat) : List (Option (BitVec w)) → List (Option (BitVec w)) × Nat
  | x :: y :: r =>
    let (c, fl) := redCombine f x y
    let (l, fl') := redLevel f r
    (c :: l, fl ||| fl')
  | l => (l, 0)

/-- The tree of pairs, level by level (R113): its last node, and the flags of all its nodes. -/
def redTree {w : Nat} (f : BitVec w → BitVec w → BitVec w × Nat) : Nat → List (Option (BitVec w)) → Option (BitVec w) × Nat
  | 0, l => (l.head?.getD none, 0)
  | k + 1, l =>
    let (l', fl) := redLevel f l
    let (r, fl') := redTree f k l'
    (r, fl ||| fl')

/-- The elements of a register, absent where disabled (R112). -/
def presentElems (w : Nat) (mask : MWord) (x : VWord) : List (Option (BitVec w)) :=
  (List.range (2048 / w)).map (fun i => if enabled mask w i then some (elem w x i) else none)

/-- VRED (R113). -/
def execVred (d a : Reg) (o : RedOp) (e : Ew) (m : MReg) (k : Bool) (s : State) : Out :=
  let w := redWidth o e
  let (r, fl) := redTree (redNode o e s.me.vecMode w) (Nat.log2 (2048 / w)) (presentElems w (s.me.rdm m) (s.valV s.cur a))
  let x := r.getD (redIdentity o e w)
  s.issue .compute ⟨[(.v a, k)], [.v d]⟩ (fun t =>
    (t.raiseV s.cur [fl]).bind (fun u => .go (u.writeV s.cur d (x.setWidth 2048), .next)))

/-- One stage of the doubling network (R114): every i ≥ d combines with i − d at once. -/
def scanStage {w : Nat} (f : BitVec w → BitVec w → BitVec w × Nat) (d : Nat) (l : List (Option (BitVec w))) :
    List (Option (BitVec w)) × Nat :=
  let rs := (l.drop d).zipWith (fun y x => redCombine f x y) l
  (l.take d ++ rs.map (·.1), allFlags (rs.map (·.2)))

/-- The stages d := 1, 2, 4, … (R114). -/
def scanAll {w : Nat} (f : BitVec w → BitVec w → BitVec w × Nat) : Nat → Nat → List (Option (BitVec w)) →
    List (Option (BitVec w)) × Nat
  | 0, _, l => (l, 0)
  | k + 1, d, l =>
    let (l', fl) := scanStage f d l
    let (r, fl') := scanAll f k (2 * d) l'
    (r, fl ||| fl')

/-- VSCAN (R114). -/
def execVscan (d a : Reg) (o : RedOp) (e : Ew) (m : MReg) (k : Bool) (s : State) : Out :=
  let w := redWidth o e
  let mask := s.me.rdm m
  let old := s.valV s.cur d
  let (ys, fl) := scanAll (redNode o e s.me.vecMode w) (Nat.log2 (2048 / w)) 1 (presentElems w mask (s.valV s.cur a))
  s.issue .compute ⟨(.v a, k) :: mergeSrc d m k, [.v d]⟩ (fun t =>
    (t.raiseV s.cur [fl]).bind (fun u =>
      .go (u.writeV s.cur d (mergeV w mask old (fun i => ((ys[i]?).getD none).getD 0)), .next)))

/-! ## Sorting and moving (R115, R116) -/

/-- The place of a key in totalOrder (R115). -/
def totalKey (w : Nat) (x : BitVec w) : Nat := if x.msb then 2 ^ w - 1 - x.toNat else x.toNat + 2 ^ (w - 1)

/-- Puts a lane after every lane whose key is not below its own. -/
def sortInsert (key : Nat → Nat) (l : List Nat) (i : Nat) : List Nat :=
  l.takeWhile (fun j => decide (key i ≤ key j)) ++ i :: l.dropWhile (fun j => decide (key i ≤ key j))

/-- Lanes in descending order of their keys, ties in ascending lane order. -/
def sortLanes (key : Nat → Nat) (l : List Nat) : List Nat := l.foldl (sortInsert key) []

/-- VSORT (R115). -/
def execVsort (d a : Reg) (e : Ew) (m : MReg) (k : Bool) (s : State) : Out :=
  let w := (ewFmt e).width
  let mask := s.me.rdm m
  let x := s.valV s.cur a
  let lanes := List.range (2048 / w)
  let order := sortLanes (fun i => totalKey w (elem w x i)) (lanes.filter (fun i => enabled mask w i)) ++
    lanes.filter (fun i => !enabled mask w i)
  s.issue .compute ⟨[(.v a, k)], [.v d, .v (nextReg d)]⟩ (fun t =>
    .go ((t.writeV s.cur d (buildV w (fun i => elem w x (order.getD i 0)))).writeV s.cur (nextReg d)
      (buildV w (fun i => BitVec.ofNat w (order.getD i 0))), .next))

/-- An element move of one result (R116): enabled elements take f, others keep theirs. -/
def State.vmove (s : State) (d : Reg) (srcs : List (RegName × Bool)) (w : Nat) (m : MReg) (k : Bool)
    (f : Nat → BitVec w) : Out := s.vmap d srcs w m k (fun i => (f i, 0))

/-- VPERM (R116). -/
def execVperm (d a b : Reg) (e : Ew) (m : MReg) (k : Bool) (s : State) : Out :=
  let w := ewBits e
  s.vmove d [(.v a, k), (.v b, k)] w m k (fun i =>
    let j := (elem w (s.valV s.cur b) i).toNat
    if 2048 / w ≤ j then 0 else elem w (s.valV s.cur a) j)

/-- VBCAST (R116). -/
def execVbcast (d a : Reg) (e : Ew) (m : MReg) (k : Bool) (s : State) : Out :=
  s.vmove d [(.s a, k)] (ewBits e) m k (fun _ => (s.valS s.cur a).setWidth (ewBits e))

/-- VEXT (R116). -/
def execVext (d a b : Reg) (e : Ew) (m : MReg) (k : Bool) (s : State) : Out :=
  let w := ewBits e
  let j := (s.valS s.cur b).toNat
  s.compS .compute [(.v a, k), (.s b, k)] d
    (if decide (j < 2048 / w) && enabled (s.me.rdm m) w j then (elem w (s.valV s.cur a) j).signExtend 64 else 0)

/-- VINS (R116): one element replaced; vd is read under every mask. -/
def execVins (d a b : Reg) (e : Ew) (m : MReg) (k : Bool) (s : State) : Out :=
  let w := ewBits e
  let j := (s.valS s.cur b).toNat
  let old := s.valV s.cur d
  let mask := s.me.rdm m
  s.issue .compute ⟨[(.s a, k), (.s b, k), (.v d, k)], [.v d]⟩ (fun t =>
    .go (t.writeV s.cur d (buildV w (fun i =>
      if i = j && enabled mask w i then (s.valS s.cur a).setWidth w else elem w old i)), .next))

/-- The enabled lanes in ascending order. -/
def enabledLanes (w : Nat) (mask : MWord) : List Nat := (List.range (2048 / w)).filter (fun i => enabled mask w i)

/-- VCMPR (R116). -/
def execVcmpr (d a : Reg) (e : Ew) (m : MReg) (k : Bool) (s : State) : Out :=
  let w := ewBits e
  let x := s.valV s.cur a
  let on := enabledLanes w (s.me.rdm m)
  s.issue .compute ⟨[(.v a, k)], [.v d]⟩ (fun t =>
    .go (t.writeV s.cur d (buildV w (fun i => match on[i]? with
      | some j => elem w x j
      | none => 0)), .next))

/-- VEXPD (R116). -/
def execVexpd (d a : Reg) (e : Ew) (m : MReg) (k : Bool) (s : State) : Out :=
  let w := ewBits e
  let mask := s.me.rdm m
  s.vmove d [(.v a, k)] w m k (fun i =>
    elem w (s.valV s.cur a) ((List.range i).filter (fun j => enabled mask w j)).length)

/-- VSLIDE (R116). -/
def execVslide (d a b : Reg) (e : Ew) (m : MReg) (k : Bool) (s : State) : Out :=
  let w := ewBits e
  let by_ := (s.valS s.cur b).toInt
  s.vmove d [(.v a, k), (.s b, k)] w m k (fun i =>
    let j := (i : Int) - by_
    if 0 ≤ j && decide (j < 2048 / w) then elem w (s.valV s.cur a) j.toNat else 0)

/-- VIDX (R116). -/
def execVidx (d : Reg) (e : Ew) (m : MReg) (k : Bool) (s : State) : Out :=
  s.vmove d [] (ewBits e) m k (fun i => BitVec.ofNat (ewBits e) i)

/-! ## Bitmaps and random bits (R117, R118) -/

/-- VBMASK (R117). -/
def execVbmask (d : MReg) (a : Reg) (m : MReg) (k : Bool) (s : State) : Out :=
  s.vmaskOp d [(.v a, k)] 8 m (fun i => ((s.valV s.cur a).getLsbD i, 0))

/-- VBRANK (R117). -/
def execVbrank (d : Reg) (a : MReg) (e : Ew) (m : MReg) (k : Bool) (s : State) : Out :=
  let w := ewBits e
  let x := s.me.rdm a
  s.vmove d [] w m k (fun i => BitVec.ofNat w ((List.range i).filter (fun j => x.getLsbD (j * w / 8))).length)

/-- VBPFX (R117). -/
def execVbpfx (d a : Reg) (e : Ew) (m : MReg) (k : Bool) (s : State) : Out :=
  let w := ewBits e
  let x := s.valV s.cur a
  s.vmove d [(.v a, k)] w m k (fun i => BitVec.ofNat w (popcNat (i * w) x.toNat))

/-- VNZ (R117). -/
def execVnz (d : MReg) (a : Reg) (e : Ew) (m : MReg) (k : Bool) (s : State) : Out :=
  s.vmaskOp d [(.v a, k)] (ewBits e) m (fun i => (elem (ewBits e) (s.valV s.cur a) i != 0, 0))

/-- VRAND (R118). -/
def execVrand (d a b : Reg) (e : Ew) (m : MReg) (k : Bool) (s : State) : Out :=
  s.vmove d [(.s a, k), (.s b, k)] (ewBits e) m k (fun i =>
    (mix (s.valS s.cur a) (s.valS s.cur b) (BitVec.ofNat 64 i)).setWidth (ewBits e))

/-! ## VCVT (R119 to R121) -/

/-- Bits of an element of F as VCVT packs it, CB2 at 2 bits a weight (R119). -/
def packBits (f : Nat) : Nat := codeBits f

/-- Elements converted (R119). -/
def cvtCount (f : Nat) (g : FFmt) : Nat := Nat.min (2048 / g.width) (2048 / packBits f)

/-- The byte offset of the first block scale (R119). -/
def scaleAt (f m : Nat) : Nat := (m * packBits f + 7) / 8

/-- Direction 0 (R120): the lanes and their flags. -/
def cvtIn (f : Nat) (g : FFmt) (rm : Rm) (cbt : Nat) (x : VWord) : List (Nat × Nat) :=
  let m := cvtCount f g
  (unpack f cbt x.toNat (fun j => (elem 8 x (scaleAt f m + j)).toNat) m).map (fun v => g.round rm v)

/-- Direction 1 (R121): the register and the flags of each lane. -/
def cvtOut (f : Nat) (g : FFmt) (rm : Rm) (x : VWord) : VWord × List Nat :=
  let m := cvtCount f g
  let vs := (List.range m).map (fun i => g.decode (elem g.width x i).toNat)
  if codeScaled f then
    let bs := (List.range (m / 32)).map (fun j => encodeBlock f rm ((vs.drop (32 * j)).take 32))
    let elems := packNat (packBits f) (bs.map (·.1)).flatten
    let scales := packNat 8 (bs.map (·.2.1))
    (BitVec.ofNat 2048 (elems + scales * 2 ^ (8 * scaleAt f m)), (bs.map (·.2.2)).flatten)
  else
    let es := vs.map (encodeElem f rm)
    (BitVec.ofNat 2048 (packNat (packBits f) (es.map (·.1))), es.map (·.2))

/-- VCVT (R119 to R121). Direction 1 to CB2 traps ILLEGAL. -/
def execVcvt (d a : Reg) (f : BitVec 5) (e : Ew) (dir k : Bool) (s : State) : Out :=
  let g := ewFmt e
  let rm := s.me.vecMode
  let x := s.valV s.cur a
  s.issueIf .compute (dir && f == 0x16) ⟨[(.v a, k)], [.v d]⟩ (fun t =>
    if dir then
      let (y, fl) := cvtOut f.toNat g rm x
      (t.raiseV s.cur fl).bind (fun u => .go (u.writeV s.cur d y, .next))
    else
      let ls := cvtIn f.toNat g rm (cbtNat (s.station s.cur.st).cbt) x
      (t.raiseV s.cur (ls.map (·.2))).bind (fun u =>
        .go (u.writeV s.cur d (BitVec.ofNat 2048 (packNat g.width (ls.map (·.1)))), .next)))

/-! ## Mask operations (R122) -/

/-- A mask operation of one mask result, bit by bit (R122). -/
def State.vm (s : State) (d : MReg) (srcs : List (RegName × Bool)) (m : MReg) (x : MWord) : Out :=
  let mask := s.me.rdm m
  let old := s.me.rdm d
  s.issue .compute ⟨srcs, []⟩ (fun t => .go (t.writeM s.cur d ((x &&& mask) ||| (old &&& ~~~mask)), .next))

/-- MAND (R122). -/
def execMand (d a b m : MReg) (_k : Bool) (s : State) : Out := s.vm d [] m (s.me.rdm a &&& s.me.rdm b)
/-- MOR (R122). -/
def execMor (d a b m : MReg) (_k : Bool) (s : State) : Out := s.vm d [] m (s.me.rdm a ||| s.me.rdm b)
/-- MXOR (R122). -/
def execMxor (d a b m : MReg) (_k : Bool) (s : State) : Out := s.vm d [] m (s.me.rdm a ^^^ s.me.rdm b)
/-- MANDN (R122). -/
def execMandn (d a b m : MReg) (_k : Bool) (s : State) : Out := s.vm d [] m (s.me.rdm a &&& ~~~(s.me.rdm b))
/-- MNOT (R122). -/
def execMnot (d a m : MReg) (_k : Bool) (s : State) : Out := s.vm d [] m (~~~(s.me.rdm a))
/-- MPOPC (R122). -/
def execMpopc (d : Reg) (a : MReg) (_k : Bool) (s : State) : Out :=
  s.compS .compute [] d (BitVec.ofNat 64 (popcNat 256 (s.me.rdm a).toNat))
/-- MFIRST (R122). -/
def execMfirst (d : Reg) (a : MReg) (_k : Bool) (s : State) : Out :=
  s.compS .compute [] d (BitVec.ofNat 64 (((List.range 256).find? (fun i => (s.me.rdm a).getLsbD i)).getD 256))
/-- MFROMS (R122): one quarter replaced. -/
def execMfroms (d : MReg) (a b : Reg) (m : MReg) (k : Bool) (s : State) : Out :=
  let q := bitsOf (s.valS s.cur b) 1 0
  let field : MWord := (BitVec.ofNat 256 (2 ^ 64 - 1)) <<< (64 * q)
  s.vm d [(.s a, k), (.s b, k)] m (((s.me.rdm d) &&& ~~~field) ||| (((s.valS s.cur a).setWidth 256) <<< (64 * q)))
/-- MTOS (R122): one quarter read. -/
def execMtos (d : Reg) (a : MReg) (b : Reg) (k : Bool) (s : State) : Out :=
  s.compS .compute [(.s b, k)] d (((s.me.rdm a) >>> (64 * bitsOf (s.valS s.cur b) 1 0)).setWidth 64)
/-- MSETN (R122): as many low bits as the count says. -/
def execMsetn (d : MReg) (a : Reg) (m : MReg) (k : Bool) (s : State) : Out :=
  s.vm d [(.s a, k)] m (buildM (fun i => decide (i < (s.valS s.cur a).toNat)))

end Sys2Proof.Machine
end

