-- ==== Sys2Proof/Machine/VectorMem.lean ====
section
/-! DEFINITION. Vector loads and stores, gathers and scatters (R123 to R128, R142, R230). -/
namespace Sys2Proof.Machine

/-- The address of the VMEM format (R123). -/
def State.vmemAddr (s : State) (a : Reg) (o : BitVec 13) : Word := s.valS s.cur a + o.signExtend 64 * 32

/-- The TYPED bank an address lies in, with the offset there (R125). -/
def State.typedBank (s : State) (w : Who) (a : Word) : Option (BankFmt × Nat) :=
  match s.bankOf (s.placeOf w a.toNat) with
  | some (_, _, f, o) => if f.typed then some (f, o) else none
  | none => none

/-- The checks a typed access of n elements adds (R125, R230); a store to a CB2 bank is refused. -/
def typedRefuses (f : BankFmt) (o n : Nat) (q : Qual) (store : Bool) : Bool :=
  q != .plain || !typedFits f o n || (store && f.fmt == 0x16)

/-- VLD (R123 to R125). -/
def execVld (d a : Reg) (k : Bool) (q : Qual) (o : BitVec 13) (s : State) : Out :=
  let addr := s.vmemAddr a o
  s.issue .vload ⟨[(.s a, k)], [.v d]⟩ (fun t =>
    match t.typedBank s.cur addr with
    | none =>
      (t.checkAccess s.cur addr 256 32 q false).bind (fun _ =>
        .go (t.startLoad s.cur (.vector d false) addr q (t.partsOf (t.ownAccess s.cur) .load addr 256 q []), .load))
    | some (f, off) =>
      let n := twLanes (bitsOf t.me.vctl 18 17)
      (need (addr.toNat % 32 == 0) (alignOf addr)).bind (fun _ =>
        (need (!typedRefuses f off n q false) (accessTrap addr)).bind (fun _ =>
          (t.checkAccess s.cur addr n 32 q true).bind (fun _ =>
            .go (t.startLoad s.cur (.vector d true) addr q (t.partsOf (t.ownAccess s.cur) .load addr n q []), .load)))))

/-- The flags placement raises for each element of a group (R142): NV for an element that makes the group a NaN group,
OF, of the whole group, at its first element, NX where the placed value differs. -/
def placeFlags (fmt p x : Nat) (xs : List Value) : List Nat :=
  if fmt ≤ 1 then xs.map (fun _ => 0)
  else
    let g := placeGroup fmt p x xs
    xs.zipIdx.map (fun e =>
      (match e.1 with
       | .fin _ _ _ =>
         if g.nan then (if codeScaled fmt && x == 0xFF then flNV else 0)
         else if numEq (groupValue fmt g e.2) e.1 then 0 else flNX
       | _ => flNV) ||| (if e.2 = 0 then g.flags &&& flOF else 0))

/-- What a typed VST sends, and the flags of each lane: conversion to the bank's format, then placement (R142, R230). -/
def typedStore (f : BankFmt) (tw : Nat) (rm : Rm) (x : VWord) : List Byte × List Nat :=
  let g := twFmt tw
  let xs := (List.range (twLanes tw)).map (fun i => g.decode (elem g.width x i).toNat)
  let gs := typedGroups f.fmt rm xs
  (typedBytes rm xs,
   (gs.map (fun e => (e.2.2.zip (placeFlags f.fmt f.p e.2.1 e.1)).map (fun fl => fl.1 ||| fl.2))).flatten)

/-- VST (R123 to R125). -/
def execVst (d a : Reg) (k : Bool) (q : Qual) (o : BitVec 13) (s : State) : Out :=
  let addr := s.vmemAddr a o
  let x := s.valV s.cur d
  s.issue .vstore ⟨[(.v d, k), (.s a, k)], []⟩ (fun t =>
    match t.typedBank s.cur addr with
    | none =>
      (t.checkAccess s.cur addr 256 32 q false).bind (fun _ =>
        .go (t.startStore s.cur addr false q (t.partsOf (t.ownAccess s.cur) .store addr 256 q (leBytes x.toNat 256)), .next))
    | some (f, off) =>
      let tw := bitsOf t.me.vctl 18 17
      let n := twLanes tw
      (need (addr.toNat % 32 == 0) (alignOf addr)).bind (fun _ =>
        (need (!typedRefuses f off n q true) (accessTrap addr)).bind (fun _ =>
          (t.checkAccess s.cur addr n 32 q true).bind (fun _ =>
            let (bytes, fl) := typedStore f tw (rmOfField (bitsOf t.me.vctl 2 0)) x
            (t.raiseV s.cur fl).bind (fun u =>
              .go (u.startStore s.cur addr false q
                ((u.partsOf (u.ownAccess s.cur) .store addr n q []).map (fun p => { p with data := bytes })), .next))))))

/-! ## Gathers and scatters (R126 to R128) -/

/-- The address of an element (R126). -/
def State.elemAddr (s : State) (a b : Reg) (w i : Nat) : Word :=
  s.valS s.cur b + (elem w (s.valV s.cur a) i).setWidth 64 * BitVec.ofNat 64 (w / 8)

/-- Every enabled element may be accessed (R126). DESIGN CHOICE: of several refused ones the lowest-numbered traps (log entry 165). -/
def State.checkElems (s : State) (who : Who) (n : Nat) : List Word → Res Unit
  | [] => .go ()
  | a :: r =>
    match s.accessFault who a n .plain false with
    | some t => .trap t
    | none => s.checkElems who n r

/-- The ranks of other stations in whose TCM elements lie, in the order of the elements (R128). -/
def State.elemRanks (s : State) (who : Who) (as : List Nat) : List Nat := (as.filterMap (s.remoteRank who)).eraseDups

/-- Whether the hold queue has a place for each message of a gather or scatter whose rank is in transit (R128, R199). -/
def State.elemRoom (s : State) (who : Who) (as : List Nat) : Bool :=
  s.holdRoom who ((s.elemRanks who as).filterMap (fun k => as.find? (fun a => s.remoteRank who a == some k)))

/-- A part put into a list in ascending order of line, after those of its line. -/
def insertByAddr (p : AccPart) : List AccPart → List AccPart
  | [] => [p]
  | q :: r => if p.addr.toNat / 128 < q.addr.toNat / 128 then p :: q :: r else q :: insertByAddr p r

/-- One message of a gather or scatter (R128). To a rank that is SHUT none of its elements is delivered (R194). -/
def State.sendElems (s : State) (ps : List AccPart) (rank : Nat) : State :=
  match ps with
  | [] => s
  | p :: _ =>
    let e := (s.station p.acc.who.st).rankEntry rank
    if rankShut e && !rankTransit e then
      ps.foldl (fun t q => t.failPart q (undeliverable (BitVec.ofNat 64 rank)) (homeBank p.acc.who.st)) s
    else if rankTransit e then s.sendNear p (.remoteElementAccess ps)
    else (s.headSent p.acc.who.st (rankCoord e)).sendNear p (.remoteElementAccess ps)

/-- A part put into a list in ascending element order. -/
def insertByElem (p : AccPart) : List AccPart → List AccPart
  | [] => [p]
  | q :: r => if p.elem < q.elem then p :: q :: r else q :: insertByElem p r

/-- The requests that looking up lines has added to an agenda go out in ascending element order (R127). -/
def State.inElemOrder (s : State) (before : Nat) : State :=
  let new := s.agenda.drop before
  let reqs := new.filterMap (fun t => match t.ev with | .translate p => some p | _ => none)
  let rest := new.filter (fun t => match t.ev with | .translate _ => false | _ => true)
  let sorted := reqs.foldl (fun l p => insertByElem p l) []
  { s with agenda := s.agenda.take before ++ rest ++ sorted.map (fun p => ({ due := s.now + 1, ev := .translate p } : Timed)) }

/-- The elements of a gather or scatter start out (R127, R128, R297): those in far memory look their lines up by ascending address
where they are loaded, and go out in element order; those in another station's TCM in one message for each station, the others one by one. DESIGN CHOICE: each element
looks its line up by itself (log entry 173). -/
def State.startElems (s : State) (who : Who) (ps : List AccPart) : State :=
  let rankOf (p : AccPart) : Option Nat := s.remoteRank who p.addr.toNat
  let own := ps.filter (fun p => (rankOf p).isNone)
  let far (p : AccPart) : Bool := match p.place, p.kind with | .far _, .load => true | _, _ => false
  let s1 := s.startParts (own.filter (fun p => !far p))
  let s2 := (s1.startParts ((own.filter far).foldl (fun l p => insertByAddr p l) [])).inElemOrder s1.agenda.length
  (s.elemRanks who (ps.map (fun p => p.addr.toNat))).foldl (fun t k => t.sendElems (ps.filter (fun p => rankOf p == some k)) k) s2

/-- The parts of the elements, each at its place in the register. -/
def State.elemParts (s : State) (kind : PartKind) (n : Nat) (es : List (Nat × Word × List Byte)) : List AccPart :=
  (es.map (fun e => (s.partsOf (s.ownAccess s.cur) kind e.2.1 n .plain e.2.2).map (fun p => { p with off := e.1, elem := e.1 }))).flatten

/-- VLDX (R126 to R128). -/
def execVldx (d a b : Reg) (e : Ew) (m : MReg) (k : Bool) (s : State) : Out :=
  let w := ewBits e
  let n := w / 8
  let on := enabledLanes w (s.me.rdm m)
  let addrs := on.map (fun i => s.elemAddr a b w i)
  let base := s.valS s.cur b
  s.issue .vload ⟨[(.v a, k), (.s b, k)] ++ mergeSrc d m k, [.v d]⟩ (fun t =>
    (need (base.toNat % n == 0) (alignOf base)).bind (fun _ =>
      (t.checkElems s.cur n addrs).bind (fun _ =>
        (await (addrs.all (fun x => !t.accessWaits s.cur x .plain) && t.elemRoom s.cur (addrs.map BitVec.toNat))).bind (fun _ =>
          if on.isEmpty then .go (t.writeV s.cur d (s.valV s.cur d), .next)
          else
            let ps := t.elemParts .load n (on.map (fun i => (i, s.elemAddr a b w i, [])))
            .go (((t.addUnsettled s.cur (.gather d n on) base false ps.length).bump).startElems s.cur ps, .load)))))

/-- VSTX (R126 to R128). -/
def execVstx (d a b : Reg) (e : Ew) (m : MReg) (k : Bool) (s : State) : Out :=
  let w := ewBits e
  let n := w / 8
  let on := enabledLanes w (s.me.rdm m)
  let addrs := on.map (fun i => s.elemAddr a b w i)
  let base := s.valS s.cur b
  let x := s.valV s.cur d
  s.issue .vstore ⟨[(.v d, k), (.v a, k), (.s b, k)], []⟩ (fun t =>
    (need (base.toNat % n == 0) (alignOf base)).bind (fun _ =>
      (t.checkElems s.cur n addrs).bind (fun _ =>
        (await (addrs.all (fun y => !t.accessWaits s.cur y .plain) && t.elemRoom s.cur (addrs.map BitVec.toNat))).bind (fun _ =>
          if on.isEmpty then .go (t, .next)
          else
            let ps := t.elemParts .store n (on.map (fun i => (i, s.elemAddr a b w i, leBytes (elem w x i).toNat n)))
            .go (((t.addStore s.cur base false false ps.length).bump).startElems s.cur ps, .next)))))

end Sys2Proof.Machine
end

