-- ==== Sys2Proof/Machine/Dispatch.lean ====
section
/-! DEFINITION. Which meaning each instruction has. -/
namespace Sys2Proof.Machine

def exec (i : Instr) (s : State) : Host.Outcome State Fault Refusal :=
  match i with
  | .accessAtHome p => Sys2Proof.Machine.execAccessAtHome p s
  | .loadLands who op => Sys2Proof.Machine.execLoadLands who op s
  | .l1FillArrives p => Sys2Proof.Machine.execL1FillArrives p s
  | .translate p => Sys2Proof.Machine.execTranslate p s
  | .pageRetry p => Sys2Proof.Machine.execPageRetry p s
  | .cxlRequestTimeout p => Sys2Proof.Machine.execCxlRequestTimeout p s
  | .recall line requester => Sys2Proof.Machine.execRecall line requester s
  | .writeBackArrives st line gives bytes => Sys2Proof.Machine.execWriteBackArrives st line gives bytes s
  | .uncorrectableError at_ => Sys2Proof.Machine.execUncorrectableError at_ s
  | .coreStateError st => Sys2Proof.Machine.execCoreStateError st s
  | .messageArrival m => Sys2Proof.Machine.execMessageArrival m s
  | .launch st => Sys2Proof.Machine.execLaunch st s
  | .urgentLaunch st => Sys2Proof.Machine.execUrgentLaunch st s
  | .urgentRun st => Sys2Proof.Machine.execUrgentRun st s
  | .maskwinExpiry who opened => Sys2Proof.Machine.execMaskwinExpiry who opened s
  | .deadlineExpiry who task => Sys2Proof.Machine.execDeadlineExpiry who task s
  | .layoutTakesEffect st => Sys2Proof.Machine.execLayoutTakesEffect st s
  | .thresholdFire st n count f => Sys2Proof.Machine.execThresholdFire st n count f s
  | .phaserOpAtHome o => Sys2Proof.Machine.execPhaserOpAtHome o s
  | .epRaise c => Sys2Proof.Machine.execEpRaise c s
  | .stealAtVictim x => Sys2Proof.Machine.execStealAtVictim x s
  | .stealAttempt st => Sys2Proof.Machine.execStealAttempt st s
  | .counterDecrement id failed src after => Sys2Proof.Machine.execCounterDecrement id failed src after s
  | .garmAtHome id count reload node failNode src after => Sys2Proof.Machine.execGarmAtHome id count reload node failNode src after s
  | .dispatcherLaunch die => Sys2Proof.Machine.execDispatcherLaunch die s
  | .gangPlace die => Sys2Proof.Machine.execGangPlace die s
  | .pipePreempt die => Sys2Proof.Machine.execPipePreempt die s
  | .ringPush r => Sys2Proof.Machine.execRingPush r s
  | .ringPop r => Sys2Proof.Machine.execRingPop r s
  | .streamFetch who port => Sys2Proof.Machine.execStreamFetch who port s
  | .copyPerform st id => Sys2Proof.Machine.execCopyPerform st id s
  | .copyComplete st id => Sys2Proof.Machine.execCopyComplete st id s
  | .publishExchange st id => Sys2Proof.Machine.execPublishExchange st id s
  | .mtxCommandPerform st ctx => Sys2Proof.Machine.execMtxCommandPerform st ctx s
  | .sigCommandPerform st => Sys2Proof.Machine.execSigCommandPerform st s
  | .remoteElementAccess ps => Sys2Proof.Machine.execRemoteElementAccess ps s
  | .crossingDelivery d => Sys2Proof.Machine.execCrossingDelivery d s
  | .migrationStart asn va frame requester after => Sys2Proof.Machine.execMigrationStart asn va frame requester after s
  | .migrationCopy asn va => Sys2Proof.Machine.execMigrationCopy asn va s
  | .tinv requester v => Sys2Proof.Machine.execTinv requester v s
  | .frcl requester v => Sys2Proof.Machine.execFrcl requester v s
  | .tsync who op => Sys2Proof.Machine.execTsync who op s
  | .classcfgWrite master c v => Sys2Proof.Machine.execClasscfgWrite master c v s
  | .heartbeatSend st => Sys2Proof.Machine.execHeartbeatSend st s
  | .heartbeatReceived st dir h => Sys2Proof.Machine.execHeartbeatReceived st dir h s
  | .voteReceived st dir voter named v => Sys2Proof.Machine.execVoteReceived st dir voter named v s
  | .periodEnd st => Sys2Proof.Machine.execPeriodEnd st s
  | .shutterRestart st => Sys2Proof.Machine.execShutterRestart st s
  | .returnServe st rec => Sys2Proof.Machine.execReturnServe st rec s
  | .selfTestDone st pass => Sys2Proof.Machine.execSelfTestDone st pass s
  | .relayStepReceived f => Sys2Proof.Machine.execRelayStepReceived f s
  | .relayStepFail die desc step => Sys2Proof.Machine.execRelayStepFail die desc step s
  | .relayAckTimeout die desc step => Sys2Proof.Machine.execRelayAckTimeout die desc step s
  | .inboundRecord link a => Sys2Proof.Machine.execInboundRecord link a s
  | .journalReplay die => Sys2Proof.Machine.execJournalReplay die s
  | .partReset p => Sys2Proof.Machine.execPartReset p s
  | .throttle die rate => Sys2Proof.Machine.execThrottle die rate s
  | .thermalReset die => Sys2Proof.Machine.execThermalReset die s
  | .claim master v => Sys2Proof.Machine.execClaim master v s
  | .electionEnd => Sys2Proof.Machine.execElectionEnd s
  | .handoverGive master to_ => Sys2Proof.Machine.execHandoverGive master to_ s
  | .handoverRelease master => Sys2Proof.Machine.execHandoverRelease master s
  | .masterPathDown master => Sys2Proof.Machine.execMasterPathDown master s
  | .fnmodeset master v => Sys2Proof.Machine.execFnmodeset master v s
  | .powerOn image => Sys2Proof.Machine.execPowerOn image s
  | .debugHalt st => Sys2Proof.Machine.execDebugHalt st s
  | .debugResume st => Sys2Proof.Machine.execDebugResume st s
  | .l1cfgApply st => Sys2Proof.Machine.execL1cfgApply st s
  | .bfmtWrite cl bank v => Sys2Proof.Machine.execBfmtWrite cl bank v s
  | .pcntWrite st n v => Sys2Proof.Machine.execPcntWrite st n v s
  | .thrWrite st n v => Sys2Proof.Machine.execThrWrite st n v s
  | .waymaskWrite who c v => Sys2Proof.Machine.execWaymaskWrite who c v s
  | .tenantWrite who v => Sys2Proof.Machine.execTenantWrite who v s
  | .fpendDiscard who => Sys2Proof.Machine.execFpendDiscard who s
  | .shutForce st => Sys2Proof.Machine.execShutForce st s
  | .shutTest st => Sys2Proof.Machine.execShutTest st s
  | .handlerTableInstall st entries => Sys2Proof.Machine.execHandlerTableInstall st entries s
  | .registerWrite t v => Sys2Proof.Machine.execRegisterWrite t v s
  | .powerGating st => Sys2Proof.Machine.execPowerGating st s
  | .appealAgeing st => Sys2Proof.Machine.execAppealAgeing st s
  | .relayStepAcknowledged die desc step => Sys2Proof.Machine.execRelayStepAcknowledged die desc step s
  | .linkFlitResend link => Sys2Proof.Machine.execLinkFlitResend link s
  | .ringRegistration r => Sys2Proof.Machine.execRingRegistration r s
  | .ringeosAtHome r => Sys2Proof.Machine.execRingeosAtHome r s
  | .add d a b ka kb w => Sys2Proof.Machine.execAdd d a b ka kb w s
  | .sub d a b ka kb w => Sys2Proof.Machine.execSub d a b ka kb w s
  | .and d a b ka kb w => Sys2Proof.Machine.execAnd d a b ka kb w s
  | .or d a b ka kb w => Sys2Proof.Machine.execOr d a b ka kb w s
  | .xor d a b ka kb w => Sys2Proof.Machine.execXor d a b ka kb w s
  | .andn d a b ka kb w => Sys2Proof.Machine.execAndn d a b ka kb w s
  | .orn d a b ka kb w => Sys2Proof.Machine.execOrn d a b ka kb w s
  | .sll d a b ka kb w => Sys2Proof.Machine.execSll d a b ka kb w s
  | .srl d a b ka kb w => Sys2Proof.Machine.execSrl d a b ka kb w s
  | .sra d a b ka kb w => Sys2Proof.Machine.execSra d a b ka kb w s
  | .rol d a b ka kb w => Sys2Proof.Machine.execRol d a b ka kb w s
  | .ror d a b ka kb w => Sys2Proof.Machine.execRor d a b ka kb w s
  | .slt d a b ka kb w => Sys2Proof.Machine.execSlt d a b ka kb w s
  | .sltu d a b ka kb w => Sys2Proof.Machine.execSltu d a b ka kb w s
  | .seq d a b ka kb w => Sys2Proof.Machine.execSeq d a b ka kb w s
  | .min d a b ka kb w => Sys2Proof.Machine.execMin d a b ka kb w s
  | .max d a b ka kb w => Sys2Proof.Machine.execMax d a b ka kb w s
  | .minu d a b ka kb w => Sys2Proof.Machine.execMinu d a b ka kb w s
  | .maxu d a b ka kb w => Sys2Proof.Machine.execMaxu d a b ka kb w s
  | .mul d a b ka kb w => Sys2Proof.Machine.execMul d a b ka kb w s
  | .mulh d a b ka kb w => Sys2Proof.Machine.execMulh d a b ka kb w s
  | .mulhu d a b ka kb w => Sys2Proof.Machine.execMulhu d a b ka kb w s
  | .div d a b ka kb w => Sys2Proof.Machine.execDiv d a b ka kb w s
  | .divu d a b ka kb w => Sys2Proof.Machine.execDivu d a b ka kb w s
  | .rem d a b ka kb w => Sys2Proof.Machine.execRem d a b ka kb w s
  | .remu d a b ka kb w => Sys2Proof.Machine.execRemu d a b ka kb w s
  | .clz d a ka => Sys2Proof.Machine.execClz d a ka s
  | .ctz d a ka => Sys2Proof.Machine.execCtz d a ka s
  | .popc d a ka => Sys2Proof.Machine.execPopc d a ka s
  | .brev d a ka => Sys2Proof.Machine.execBrev d a ka s
  | .bswap d a ka => Sys2Proof.Machine.execBswap d a ka s
  | .exts d a b ka kb => Sys2Proof.Machine.execExts d a b ka kb s
  | .extz d a b ka kb => Sys2Proof.Machine.execExtz d a b ka kb s
  | .fadd d a b ka kb p rm => Sys2Proof.Machine.execFadd d a b ka kb p rm s
  | .fsub d a b ka kb p rm => Sys2Proof.Machine.execFsub d a b ka kb p rm s
  | .fmul d a b ka kb p rm => Sys2Proof.Machine.execFmul d a b ka kb p rm s
  | .fdiv d a b ka kb p rm => Sys2Proof.Machine.execFdiv d a b ka kb p rm s
  | .fsqrt d a ka p rm => Sys2Proof.Machine.execFsqrt d a ka p rm s
  | .ffma d a b ka kb p rm => Sys2Proof.Machine.execFfma d a b ka kb p rm s
  | .ffms d a b ka kb p rm => Sys2Proof.Machine.execFfms d a b ka kb p rm s
  | .fmin d a b ka kb p => Sys2Proof.Machine.execFmin d a b ka kb p s
  | .fmax d a b ka kb p => Sys2Proof.Machine.execFmax d a b ka kb p s
  | .feq d a b ka kb p => Sys2Proof.Machine.execFeq d a b ka kb p s
  | .flt d a b ka kb p => Sys2Proof.Machine.execFlt d a b ka kb p s
  | .fle d a b ka kb p => Sys2Proof.Machine.execFle d a b ka kb p s
  | .fclass d a ka p => Sys2Proof.Machine.execFclass d a ka p s
  | .fcvtis d a t ka p rm => Sys2Proof.Machine.execFcvtis d a t ka p rm s
  | .fcvtin d a t ka p rm => Sys2Proof.Machine.execFcvtin d a t ka p rm s
  | .fcvtfs d a t ka p rm => Sys2Proof.Machine.execFcvtfs d a t ka p rm s
  | .fcvtfn d a t ka p rm => Sys2Proof.Machine.execFcvtfn d a t ka p rm s
  | .fcvtw d a f ka p rm => Sys2Proof.Machine.execFcvtw d a f ka p rm s
  | .addi d a ka imm => Sys2Proof.Machine.execAddi d a ka imm s
  | .andi d a ka imm => Sys2Proof.Machine.execAndi d a ka imm s
  | .ori d a ka imm => Sys2Proof.Machine.execOri d a ka imm s
  | .xori d a ka imm => Sys2Proof.Machine.execXori d a ka imm s
  | .slti d a ka imm => Sys2Proof.Machine.execSlti d a ka imm s
  | .sltiu d a ka imm => Sys2Proof.Machine.execSltiu d a ka imm s
  | .slli d a ka w n => Sys2Proof.Machine.execSlli d a ka w n s
  | .srli d a ka w n => Sys2Proof.Machine.execSrli d a ka w n s
  | .srai d a ka w n => Sys2Proof.Machine.execSrai d a ka w n s
  | .roli d a ka w n => Sys2Proof.Machine.execRoli d a ka w n s
  | .lui d imm => Sys2Proof.Machine.execLui d imm s
  | .addpc d imm => Sys2Proof.Machine.execAddpc d imm s
  | .lb d a k q o => Sys2Proof.Machine.execLb d a k q o s
  | .lbu d a k q o => Sys2Proof.Machine.execLbu d a k q o s
  | .lh d a k q o => Sys2Proof.Machine.execLh d a k q o s
  | .lhu d a k q o => Sys2Proof.Machine.execLhu d a k q o s
  | .lw d a k q o => Sys2Proof.Machine.execLw d a k q o s
  | .lwu d a k q o => Sys2Proof.Machine.execLwu d a k q o s
  | .ld d a k q o => Sys2Proof.Machine.execLd d a k q o s
  | .sb d a k q o => Sys2Proof.Machine.execSb d a k q o s
  | .sh d a k q o => Sys2Proof.Machine.execSh d a k q o s
  | .sw d a k q o => Sys2Proof.Machine.execSw d a k q o s
  | .sd d a k q o => Sys2Proof.Machine.execSd d a k q o s
  | .beq a b ka kb o => Sys2Proof.Machine.execBeq a b ka kb o s
  | .bne a b ka kb o => Sys2Proof.Machine.execBne a b ka kb o s
  | .blt a b ka kb o => Sys2Proof.Machine.execBlt a b ka kb o s
  | .bge a b ka kb o => Sys2Proof.Machine.execBge a b ka kb o s
  | .bltu a b ka kb o => Sys2Proof.Machine.execBltu a b ka kb o s
  | .bgeu a b ka kb o => Sys2Proof.Machine.execBgeu a b ka kb o s
  | .bf a o => Sys2Proof.Machine.execBf a o s
  | .jal d o => Sys2Proof.Machine.execJal d o s
  | .jalr d a ka imm => Sys2Proof.Machine.execJalr d a ka imm s
  | .loop a ka l => Sys2Proof.Machine.execLoop a ka l s
  | .loopi l n => Sys2Proof.Machine.execLoopi l n s
  | .vadd d a b e m k => Sys2Proof.Machine.execVadd d a b e m k s
  | .vsub d a b e m k => Sys2Proof.Machine.execVsub d a b e m k s
  | .vmul d a b e m k => Sys2Proof.Machine.execVmul d a b e m k s
  | .vmulh d a b e m k => Sys2Proof.Machine.execVmulh d a b e m k s
  | .vmulhn d a b e m k => Sys2Proof.Machine.execVmulhn d a b e m k s
  | .vmin d a b e m k => Sys2Proof.Machine.execVmin d a b e m k s
  | .vmax d a b e m k => Sys2Proof.Machine.execVmax d a b e m k s
  | .vminn d a b e m k => Sys2Proof.Machine.execVminn d a b e m k s
  | .vmaxn d a b e m k => Sys2Proof.Machine.execVmaxn d a b e m k s
  | .vand d a b e m k => Sys2Proof.Machine.execVand d a b e m k s
  | .vor d a b e m k => Sys2Proof.Machine.execVor d a b e m k s
  | .vxor d a b e m k => Sys2Proof.Machine.execVxor d a b e m k s
  | .vandn d a b e m k => Sys2Proof.Machine.execVandn d a b e m k s
  | .vsll d a b e m k => Sys2Proof.Machine.execVsll d a b e m k s
  | .vsrl d a b e m k => Sys2Proof.Machine.execVsrl d a b e m k s
  | .vsra d a b e m k => Sys2Proof.Machine.execVsra d a b e m k s
  | .vseq d a b e m k => Sys2Proof.Machine.execVseq d a b e m k s
  | .vslt d a b e m k => Sys2Proof.Machine.execVslt d a b e m k s
  | .vsltn d a b e m k => Sys2Proof.Machine.execVsltn d a b e m k s
  | .vsel d a b e m k => Sys2Proof.Machine.execVsel d a b e m k s
  | .vabs d a e m k => Sys2Proof.Machine.execVabs d a e m k s
  | .vadds d a b e m k => Sys2Proof.Machine.execVadds d a b e m k s
  | .vsubs d a b e m k => Sys2Proof.Machine.execVsubs d a b e m k s
  | .vaddsn d a b e m k => Sys2Proof.Machine.execVaddsn d a b e m k s
  | .vdot4 d a b e m k => Sys2Proof.Machine.execVdot4 d a b e m k s
  | .vdot4n d a b e m k => Sys2Proof.Machine.execVdot4n d a b e m k s
  | .vpopc d a e m k => Sys2Proof.Machine.execVpopc d a e m k s
  | .vclz d a e m k => Sys2Proof.Machine.execVclz d a e m k s
  | .vwiden d a u e m k => Sys2Proof.Machine.execVwiden d a u e m k s
  | .vnarrow d a u e m k => Sys2Proof.Machine.execVnarrow d a u e m k s
  | .vaddS d a b e m k => Sys2Proof.Machine.execVaddS d a b e m k s
  | .vsubS d a b e m k => Sys2Proof.Machine.execVsubS d a b e m k s
  | .vmulS d a b e m k => Sys2Proof.Machine.execVmulS d a b e m k s
  | .vmulhS d a b e m k => Sys2Proof.Machine.execVmulhS d a b e m k s
  | .vmulhnS d a b e m k => Sys2Proof.Machine.execVmulhnS d a b e m k s
  | .vminS d a b e m k => Sys2Proof.Machine.execVminS d a b e m k s
  | .vmaxS d a b e m k => Sys2Proof.Machine.execVmaxS d a b e m k s
  | .vminnS d a b e m k => Sys2Proof.Machine.execVminnS d a b e m k s
  | .vmaxnS d a b e m k => Sys2Proof.Machine.execVmaxnS d a b e m k s
  | .vandS d a b e m k => Sys2Proof.Machine.execVandS d a b e m k s
  | .vorS d a b e m k => Sys2Proof.Machine.execVorS d a b e m k s
  | .vxorS d a b e m k => Sys2Proof.Machine.execVxorS d a b e m k s
  | .vandnS d a b e m k => Sys2Proof.Machine.execVandnS d a b e m k s
  | .vsllS d a b e m k => Sys2Proof.Machine.execVsllS d a b e m k s
  | .vsrlS d a b e m k => Sys2Proof.Machine.execVsrlS d a b e m k s
  | .vsraS d a b e m k => Sys2Proof.Machine.execVsraS d a b e m k s
  | .vseqS d a b e m k => Sys2Proof.Machine.execVseqS d a b e m k s
  | .vsltS d a b e m k => Sys2Proof.Machine.execVsltS d a b e m k s
  | .vsltnS d a b e m k => Sys2Proof.Machine.execVsltnS d a b e m k s
  | .vselS d a b e m k => Sys2Proof.Machine.execVselS d a b e m k s
  | .vaddsS d a b e m k => Sys2Proof.Machine.execVaddsS d a b e m k s
  | .vsubsS d a b e m k => Sys2Proof.Machine.execVsubsS d a b e m k s
  | .vaddsnS d a b e m k => Sys2Proof.Machine.execVaddsnS d a b e m k s
  | .vdot4S d a b e m k => Sys2Proof.Machine.execVdot4S d a b e m k s
  | .vdot4nS d a b e m k => Sys2Proof.Machine.execVdot4nS d a b e m k s
  | .vfadd d a b e m k => Sys2Proof.Machine.execVfadd d a b e m k s
  | .vfsub d a b e m k => Sys2Proof.Machine.execVfsub d a b e m k s
  | .vfmul d a b e m k => Sys2Proof.Machine.execVfmul d a b e m k s
  | .vfdiv d a b e m k => Sys2Proof.Machine.execVfdiv d a b e m k s
  | .vfma d a b e m k => Sys2Proof.Machine.execVfma d a b e m k s
  | .vfms d a b e m k => Sys2Proof.Machine.execVfms d a b e m k s
  | .vfmin d a b e m k => Sys2Proof.Machine.execVfmin d a b e m k s
  | .vfmax d a b e m k => Sys2Proof.Machine.execVfmax d a b e m k s
  | .vfeq d a b e m k => Sys2Proof.Machine.execVfeq d a b e m k s
  | .vflt d a b e m k => Sys2Proof.Machine.execVflt d a b e m k s
  | .vfle d a b e m k => Sys2Proof.Machine.execVfle d a b e m k s
  | .vfsqrt d a e m k => Sys2Proof.Machine.execVfsqrt d a e m k s
  | .vfrcp d a e m k => Sys2Proof.Machine.execVfrcp d a e m k s
  | .vfexp2 d a e m k => Sys2Proof.Machine.execVfexp2 d a e m k s
  | .vflog2 d a e m k => Sys2Proof.Machine.execVflog2 d a e m k s
  | .vfabs d a e m k => Sys2Proof.Machine.execVfabs d a e m k s
  | .vfneg d a e m k => Sys2Proof.Machine.execVfneg d a e m k s
  | .vfclass d a e m k => Sys2Proof.Machine.execVfclass d a e m k s
  | .vfaddS d a b e m k => Sys2Proof.Machine.execVfaddS d a b e m k s
  | .vfsubS d a b e m k => Sys2Proof.Machine.execVfsubS d a b e m k s
  | .vfmulS d a b e m k => Sys2Proof.Machine.execVfmulS d a b e m k s
  | .vfdivS d a b e m k => Sys2Proof.Machine.execVfdivS d a b e m k s
  | .vfmaS d a b e m k => Sys2Proof.Machine.execVfmaS d a b e m k s
  | .vfmsS d a b e m k => Sys2Proof.Machine.execVfmsS d a b e m k s
  | .vfminS d a b e m k => Sys2Proof.Machine.execVfminS d a b e m k s
  | .vfmaxS d a b e m k => Sys2Proof.Machine.execVfmaxS d a b e m k s
  | .vfeqS d a b e m k => Sys2Proof.Machine.execVfeqS d a b e m k s
  | .vfltS d a b e m k => Sys2Proof.Machine.execVfltS d a b e m k s
  | .vfleS d a b e m k => Sys2Proof.Machine.execVfleS d a b e m k s
  | .vred d a o e m k => Sys2Proof.Machine.execVred d a o e m k s
  | .vscan d a o e m k => Sys2Proof.Machine.execVscan d a o e m k s
  | .vsort d a e m k => Sys2Proof.Machine.execVsort d a e m k s
  | .vperm d a b e m k => Sys2Proof.Machine.execVperm d a b e m k s
  | .vbcast d a e m k => Sys2Proof.Machine.execVbcast d a e m k s
  | .vext d a b e m k => Sys2Proof.Machine.execVext d a b e m k s
  | .vins d a b e m k => Sys2Proof.Machine.execVins d a b e m k s
  | .vcmpr d a e m k => Sys2Proof.Machine.execVcmpr d a e m k s
  | .vexpd d a e m k => Sys2Proof.Machine.execVexpd d a e m k s
  | .vbmask d a m k => Sys2Proof.Machine.execVbmask d a m k s
  | .vbrank d a e m k => Sys2Proof.Machine.execVbrank d a e m k s
  | .vbpfx d a e m k => Sys2Proof.Machine.execVbpfx d a e m k s
  | .vnz d a e m k => Sys2Proof.Machine.execVnz d a e m k s
  | .vrand d a b e m k => Sys2Proof.Machine.execVrand d a b e m k s
  | .vcvt d a f e dir k => Sys2Proof.Machine.execVcvt d a f e dir k s
  | .vidx d e m k => Sys2Proof.Machine.execVidx d e m k s
  | .vslide d a b e m k => Sys2Proof.Machine.execVslide d a b e m k s
  | .mand d a b m k => Sys2Proof.Machine.execMand d a b m k s
  | .mor d a b m k => Sys2Proof.Machine.execMor d a b m k s
  | .mxor d a b m k => Sys2Proof.Machine.execMxor d a b m k s
  | .mandn d a b m k => Sys2Proof.Machine.execMandn d a b m k s
  | .mnot d a m k => Sys2Proof.Machine.execMnot d a m k s
  | .mpopc d a k => Sys2Proof.Machine.execMpopc d a k s
  | .mfirst d a k => Sys2Proof.Machine.execMfirst d a k s
  | .mfroms d a b m k => Sys2Proof.Machine.execMfroms d a b m k s
  | .mtos d a b k => Sys2Proof.Machine.execMtos d a b k s
  | .msetn d a m k => Sys2Proof.Machine.execMsetn d a m k s
  | .vld d a k q o => Sys2Proof.Machine.execVld d a k q o s
  | .vst d a k q o => Sys2Proof.Machine.execVst d a k q o s
  | .vldx d a b e m k => Sys2Proof.Machine.execVldx d a b e m k s
  | .vstx d a b e m k => Sys2Proof.Machine.execVstx d a b e m k s
  | .send a b ka kb => Sys2Proof.Machine.execSend a b ka kb s
  | .sendr a b ka kb => Sys2Proof.Machine.execSendr a b ka kb s
  | .sendv a b ka kb => Sys2Proof.Machine.execSendv a b ka kb s
  | .reply a b ka kb => Sys2Proof.Machine.execReply a b ka kb s
  | .mbind a b ka kb => Sys2Proof.Machine.execMbind a b ka kb s
  | .mseal a b ka kb => Sys2Proof.Machine.execMseal a b ka kb s
  | .rankrd a b ka => Sys2Proof.Machine.execRankrd a b ka s
  | .rankwr a b ka kb => Sys2Proof.Machine.execRankwr a b ka kb s
  | .rankmv a ka => Sys2Proof.Machine.execRankmv a ka s
  | .pjoin a b ka kb => Sys2Proof.Machine.execPjoin a b ka kb s
  | .pleave a ka => Sys2Proof.Machine.execPleave a ka s
  | .psig a ka => Sys2Proof.Machine.execPsig a ka s
  | .pwait a b ka => Sys2Proof.Machine.execPwait a b ka s
  | .psigw a b ka => Sys2Proof.Machine.execPsigw a b ka s
  | .pqry a b ka => Sys2Proof.Machine.execPqry a b ka s
  | .dqpush a b ka kb => Sys2Proof.Machine.execDqpush a b ka kb s
  | .dqpop b => Sys2Proof.Machine.execDqpop b s
  | .dqsplit a ka => Sys2Proof.Machine.execDqsplit a ka s
  | .dqsteal a b ka => Sys2Proof.Machine.execDqsteal a b ka s
  | .gdec a ka => Sys2Proof.Machine.execGdec a ka s
  | .garm a b ka kb => Sys2Proof.Machine.execGarm a b ka kb s
  | .tdead a ka => Sys2Proof.Machine.execTdead a ka s
  | .tclass a ka => Sys2Proof.Machine.execTclass a ka s
  | .thrbind a b ka kb => Sys2Proof.Machine.execThrbind a b ka kb s
  | .cpy a b ka kb t => Sys2Proof.Machine.execCpy a b ka kb t s
  | .cpym a b ka kb t => Sys2Proof.Machine.execCpym a b ka kb t s
  | .cpyg a b ka kb t => Sys2Proof.Machine.execCpyg a b ka kb t s
  | .strm a b ka kb t => Sys2Proof.Machine.execStrm a b ka kb t s
  | .qbind a b ka kb => Sys2Proof.Machine.execQbind a b ka kb s
  | .prel a ka => Sys2Proof.Machine.execPrel a ka s
  | .bufdef a b ka kb => Sys2Proof.Machine.execBufdef a b ka kb s
  | .publish a ka => Sys2Proof.Machine.execPublish a ka s
  | .cpoll a b ka kb t => Sys2Proof.Machine.execCpoll a b ka kb t s
  | .ringeos a ka => Sys2Proof.Machine.execRingeos a ka s
  | .mmul a b ka kb t => Sys2Proof.Machine.execMmul a b ka kb t s
  | .mzero t => Sys2Proof.Machine.execMzero t s
  | .mdrain a b ka kb t => Sys2Proof.Machine.execMdrain a b ka kb t s
  | .mopen => Sys2Proof.Machine.execMopen s
  | .mclose => Sys2Proof.Machine.execMclose s
  | .mctx a ka => Sys2Proof.Machine.execMctx a ka s
  | .mpark => Sys2Proof.Machine.execMpark s
  | .munpark => Sys2Proof.Machine.execMunpark s
  | .sghash a b ka kb => Sys2Proof.Machine.execSghash a b ka kb s
  | .sgroom a ka => Sys2Proof.Machine.execSgroom a ka s
  | .sglead a b ka kb => Sys2Proof.Machine.execSglead a b ka kb s
  | .sgscat a b ka kb => Sys2Proof.Machine.execSgscat a b ka kb s
  | .sgsum a b ka kb => Sys2Proof.Machine.execSgsum a b ka kb s
  | .sgsel a b ka kb => Sys2Proof.Machine.execSgsel a b ka kb s
  | .xdef a b ka kb => Sys2Proof.Machine.execXdef a b ka kb s
  | .xset a b ka kb => Sys2Proof.Machine.execXset a b ka kb s
  | .xnext a ka => Sys2Proof.Machine.execXnext a ka s
  | .xpost a ka => Sys2Proof.Machine.execXpost a ka s
  | .xpop b => Sys2Proof.Machine.execXpop b s
  | .xcurf a ka => Sys2Proof.Machine.execXcurf a ka s
  | .xdep a b ka kb => Sys2Proof.Machine.execXdep a b ka kb s
  | .xsamp a b ka kb => Sys2Proof.Machine.execXsamp a b ka kb s
  | .xbudg a b ka kb => Sys2Proof.Machine.execXbudg a b ka kb s
  | .ecfg a b ka kb => Sys2Proof.Machine.execEcfg a b ka kb s
  | .erd a b ka => Sys2Proof.Machine.execErd a b ka s
  | .edrain a ka => Sys2Proof.Machine.execEdrain a ka s
  | .amadd d a b ka kb w aq rl => Sys2Proof.Machine.execAmadd d a b ka kb w aq rl s
  | .amand d a b ka kb w aq rl => Sys2Proof.Machine.execAmand d a b ka kb w aq rl s
  | .amor d a b ka kb w aq rl => Sys2Proof.Machine.execAmor d a b ka kb w aq rl s
  | .amxor d a b ka kb w aq rl => Sys2Proof.Machine.execAmxor d a b ka kb w aq rl s
  | .ammin d a b ka kb w aq rl => Sys2Proof.Machine.execAmmin d a b ka kb w aq rl s
  | .ammax d a b ka kb w aq rl => Sys2Proof.Machine.execAmmax d a b ka kb w aq rl s
  | .amminn d a b ka kb w aq rl => Sys2Proof.Machine.execAmminn d a b ka kb w aq rl s
  | .ammaxn d a b ka kb w aq rl => Sys2Proof.Machine.execAmmaxn d a b ka kb w aq rl s
  | .amswp d a b ka kb w aq rl => Sys2Proof.Machine.execAmswp d a b ka kb w aq rl s
  | .amcas d a b ka kb w aq rl => Sys2Proof.Machine.execAmcas d a b ka kb w aq rl s
  | .amfadd d a b ka kb w aq rl => Sys2Proof.Machine.execAmfadd d a b ka kb w aq rl s
  | .amfmin d a b ka kb w aq rl => Sys2Proof.Machine.execAmfmin d a b ka kb w aq rl s
  | .amfmax d a b ka kb w aq rl => Sys2Proof.Machine.execAmfmax d a b ka kb w aq rl s
  | .redadd a b ka kb w rl => Sys2Proof.Machine.execRedadd a b ka kb w rl s
  | .redand a b ka kb w rl => Sys2Proof.Machine.execRedand a b ka kb w rl s
  | .redor a b ka kb w rl => Sys2Proof.Machine.execRedor a b ka kb w rl s
  | .redxor a b ka kb w rl => Sys2Proof.Machine.execRedxor a b ka kb w rl s
  | .redmin a b ka kb w rl => Sys2Proof.Machine.execRedmin a b ka kb w rl s
  | .redmax a b ka kb w rl => Sys2Proof.Machine.execRedmax a b ka kb w rl s
  | .redminn a b ka kb w rl => Sys2Proof.Machine.execRedminn a b ka kb w rl s
  | .redmaxn a b ka kb w rl => Sys2Proof.Machine.execRedmaxn a b ka kb w rl s
  | .redfadd a b ka kb w rl => Sys2Proof.Machine.execRedfadd a b ka kb w rl s
  | .redfmin a b ka kb w rl => Sys2Proof.Machine.execRedfmin a b ka kb w rl s
  | .redfmax a b ka kb w rl => Sys2Proof.Machine.execRedfmax a b ka kb w rl s
  | .fence kind scope => Sys2Proof.Machine.execFence kind scope s
  | .tend => Sys2Proof.Machine.execTend s
  | .tret => Sys2Proof.Machine.execTret s
  | .trap c => Sys2Proof.Machine.execTrap c s
  | .crr d c => Sys2Proof.Machine.execCrr d c s
  | .crw d c => Sys2Proof.Machine.execCrw d c s
  | .crs d c => Sys2Proof.Machine.execCrs d c s
  | .crc d c => Sys2Proof.Machine.execCrc d c s
  | .sete d => Sys2Proof.Machine.execSete d s
  | .tstf d a => Sys2Proof.Machine.execTstf d a s
  | .winbeg => Sys2Proof.Machine.execWinbeg s
  | .winend => Sys2Proof.Machine.execWinend s
  | .brk c => Sys2Proof.Machine.execBrk c s
  | .cflush a ka => Sys2Proof.Machine.execCflush a ka s
  | .cinvLine a ka => Sys2Proof.Machine.execCinvLine a ka s
  | .cinvL1 => Sys2Proof.Machine.execCinvL1 s
  | .cinvIcache => Sys2Proof.Machine.execCinvIcache s
  | .pref a hint ka => Sys2Proof.Machine.execPref a hint ka s
  | .migr a b ka kb => Sys2Proof.Machine.execMigr a b ka kb s
  | .errrd d a ka => Sys2Proof.Machine.execErrrd d a ka s
  | .errclr a ka => Sys2Proof.Machine.execErrclr a ka s
  | .nop => Sys2Proof.Machine.execNop s
  | .sigchk sc => Sys2Proof.Machine.execSigchk sc s

end Sys2Proof.Machine
end

