-- ==== Sys2Proof/WellFormed.lean ====
section
/-! DEFINITION. Which instructions are words of the machine: the values a field may hold beyond its width (R45, R48,
R49, R55, R56, R60 to R71, R187, R384, R393, R398). A word whose fields break one of these traps ILLEGAL. The rows
without a word are steps of the module, not instructions, and are not well-formed instructions. -/
namespace Sys2Proof

/-- The 10-bit control-register numbers of R384. -/
def crListed (c : BitVec 10) : Bool :=
  let n := c.toNat
  n ≤ 0x011 || (0x040 ≤ n && n ≤ 0x044) || (0x050 ≤ n && n ≤ 0x06F) || (0x070 ≤ n && n ≤ 0x074) ||
    (0x080 ≤ n && n ≤ 0x0BF) || (0x100 ≤ n && n ≤ 0x10F)

/-- A destination pair s[b], s[b + 1] needs b in 1 to 30 (R187, R398). -/
def pairDest (b : Reg) : Bool := b != 0 && b != 31

/-- The field rules of every instruction word. -/
def Instr.wf : Instr → Bool
  | .add _ _ _ _ _ _ => true
  | .sub _ _ _ _ _ _ => true
  | .and _ _ _ _ _ _ => true
  | .or _ _ _ _ _ _ => true
  | .xor _ _ _ _ _ _ => true
  | .andn _ _ _ _ _ _ => true
  | .orn _ _ _ _ _ _ => true
  | .sll _ _ _ _ _ _ => true
  | .srl _ _ _ _ _ _ => true
  | .sra _ _ _ _ _ _ => true
  | .rol _ _ _ _ _ _ => true
  | .ror _ _ _ _ _ _ => true
  | .slt _ _ _ _ _ _ => true
  | .sltu _ _ _ _ _ _ => true
  | .seq _ _ _ _ _ _ => true
  | .min _ _ _ _ _ _ => true
  | .max _ _ _ _ _ _ => true
  | .minu _ _ _ _ _ _ => true
  | .maxu _ _ _ _ _ _ => true
  | .mul _ _ _ _ _ _ => true
  | .mulh _ _ _ _ _ _ => true
  | .mulhu _ _ _ _ _ _ => true
  | .div _ _ _ _ _ _ => true
  | .divu _ _ _ _ _ _ => true
  | .rem _ _ _ _ _ _ => true
  | .remu _ _ _ _ _ _ => true
  | .clz _ _ _ => true
  | .ctz _ _ _ => true
  | .popc _ _ _ => true
  | .brev _ _ _ => true
  | .bswap _ _ _ => true
  | .exts _ _ _ _ _ => true
  | .extz _ _ _ _ _ => true
  | .fadd _ _ _ _ _ _ _ => true
  | .fsub _ _ _ _ _ _ _ => true
  | .fmul _ _ _ _ _ _ _ => true
  | .fdiv _ _ _ _ _ _ _ => true
  | .fsqrt _ _ _ _ _ => true
  | .ffma _ _ _ _ _ _ _ => true
  | .ffms _ _ _ _ _ _ _ => true
  | .fmin _ _ _ _ _ _ => true
  | .fmax _ _ _ _ _ _ => true
  | .feq _ _ _ _ _ _ => true
  | .flt _ _ _ _ _ _ => true
  | .fle _ _ _ _ _ _ => true
  | .fclass _ _ _ _ => true
  | .fcvtis _ _ _ _ _ _ => true
  | .fcvtin _ _ _ _ _ _ => true
  | .fcvtfs _ _ _ _ _ _ => true
  | .fcvtfn _ _ _ _ _ _ => true
  | .fcvtw _ _ f _ _ _ => f == 0x0E || f == 0x0F || f == 0x17 || f == 0x1B
  | .addi _ _ _ _ => true
  | .andi _ _ _ _ => true
  | .ori _ _ _ _ => true
  | .xori _ _ _ _ => true
  | .slti _ _ _ _ => true
  | .sltiu _ _ _ _ => true
  | .slli _ _ _ w n => !w || decide (n.toNat < 32)
  | .srli _ _ _ w n => !w || decide (n.toNat < 32)
  | .srai _ _ _ w n => !w || decide (n.toNat < 32)
  | .roli _ _ _ w n => !w || decide (n.toNat < 32)
  | .lui _ _ => true
  | .addpc _ _ => true
  | .lb _ _ _ _ _ => true
  | .lbu _ _ _ _ _ => true
  | .lh _ _ _ _ _ => true
  | .lhu _ _ _ _ _ => true
  | .lw _ _ _ _ _ => true
  | .lwu _ _ _ _ _ => true
  | .ld _ _ _ _ _ => true
  | .sb _ _ _ _ _ => true
  | .sh _ _ _ _ _ => true
  | .sw _ _ _ _ _ => true
  | .sd _ _ _ _ _ => true
  | .beq _ _ _ _ _ => true
  | .bne _ _ _ _ _ => true
  | .blt _ _ _ _ _ => true
  | .bge _ _ _ _ _ => true
  | .bltu _ _ _ _ _ => true
  | .bgeu _ _ _ _ _ => true
  | .bf _ _ => true
  | .jal _ _ => true
  | .jalr _ _ _ _ => true
  | .loop a _ l => a != 0 && l != 0
  | .loopi l _ => l != 0
  | .vadd _ _ _ _ _ _ => true
  | .vsub _ _ _ _ _ _ => true
  | .vmul _ _ _ _ _ _ => true
  | .vmulh _ _ _ _ _ _ => true
  | .vmulhn _ _ _ _ _ _ => true
  | .vmin _ _ _ _ _ _ => true
  | .vmax _ _ _ _ _ _ => true
  | .vminn _ _ _ _ _ _ => true
  | .vmaxn _ _ _ _ _ _ => true
  | .vand _ _ _ _ _ _ => true
  | .vor _ _ _ _ _ _ => true
  | .vxor _ _ _ _ _ _ => true
  | .vandn _ _ _ _ _ _ => true
  | .vsll _ _ _ _ _ _ => true
  | .vsrl _ _ _ _ _ _ => true
  | .vsra _ _ _ _ _ _ => true
  | .vseq _ _ _ _ _ _ => true
  | .vslt _ _ _ _ _ _ => true
  | .vsltn _ _ _ _ _ _ => true
  | .vsel _ _ _ _ _ _ => true
  | .vabs _ _ _ _ _ => true
  | .vadds _ _ _ _ _ _ => true
  | .vsubs _ _ _ _ _ _ => true
  | .vaddsn _ _ _ _ _ _ => true
  | .vdot4 _ _ _ _ _ _ => true
  | .vdot4n _ _ _ _ _ _ => true
  | .vpopc _ _ _ _ _ => true
  | .vclz _ _ _ _ _ => true
  | .vwiden d _ _ e _ _ => e != .b64 && !d.getLsbD 0
  | .vnarrow _ a u e _ _ => e != .b8 && !a.getLsbD 0 && u != 3
  | .vaddS _ _ _ _ _ _ => true
  | .vsubS _ _ _ _ _ _ => true
  | .vmulS _ _ _ _ _ _ => true
  | .vmulhS _ _ _ _ _ _ => true
  | .vmulhnS _ _ _ _ _ _ => true
  | .vminS _ _ _ _ _ _ => true
  | .vmaxS _ _ _ _ _ _ => true
  | .vminnS _ _ _ _ _ _ => true
  | .vmaxnS _ _ _ _ _ _ => true
  | .vandS _ _ _ _ _ _ => true
  | .vorS _ _ _ _ _ _ => true
  | .vxorS _ _ _ _ _ _ => true
  | .vandnS _ _ _ _ _ _ => true
  | .vsllS _ _ _ _ _ _ => true
  | .vsrlS _ _ _ _ _ _ => true
  | .vsraS _ _ _ _ _ _ => true
  | .vseqS _ _ _ _ _ _ => true
  | .vsltS _ _ _ _ _ _ => true
  | .vsltnS _ _ _ _ _ _ => true
  | .vselS _ _ _ _ _ _ => true
  | .vaddsS _ _ _ _ _ _ => true
  | .vsubsS _ _ _ _ _ _ => true
  | .vaddsnS _ _ _ _ _ _ => true
  | .vdot4S _ _ _ _ _ _ => true
  | .vdot4nS _ _ _ _ _ _ => true
  | .vfadd _ _ _ _ _ _ => true
  | .vfsub _ _ _ _ _ _ => true
  | .vfmul _ _ _ _ _ _ => true
  | .vfdiv _ _ _ _ _ _ => true
  | .vfma _ _ _ _ _ _ => true
  | .vfms _ _ _ _ _ _ => true
  | .vfmin _ _ _ _ _ _ => true
  | .vfmax _ _ _ _ _ _ => true
  | .vfeq _ _ _ _ _ _ => true
  | .vflt _ _ _ _ _ _ => true
  | .vfle _ _ _ _ _ _ => true
  | .vfsqrt _ _ _ _ _ => true
  | .vfrcp _ _ _ _ _ => true
  | .vfexp2 _ _ _ _ _ => true
  | .vflog2 _ _ _ _ _ => true
  | .vfabs _ _ _ _ _ => true
  | .vfneg _ _ _ _ _ => true
  | .vfclass _ _ _ _ _ => true
  | .vfaddS _ _ _ _ _ _ => true
  | .vfsubS _ _ _ _ _ _ => true
  | .vfmulS _ _ _ _ _ _ => true
  | .vfdivS _ _ _ _ _ _ => true
  | .vfmaS _ _ _ _ _ _ => true
  | .vfmsS _ _ _ _ _ _ => true
  | .vfminS _ _ _ _ _ _ => true
  | .vfmaxS _ _ _ _ _ _ => true
  | .vfeqS _ _ _ _ _ _ => true
  | .vfltS _ _ _ _ _ _ => true
  | .vfleS _ _ _ _ _ _ => true
  | .vred _ _ _ _ _ _ => true
  | .vscan _ _ _ _ _ _ => true
  | .vsort d _ _ _ _ => d != 31
  | .vperm _ _ _ _ _ _ => true
  | .vbcast _ _ _ _ _ => true
  | .vext _ _ _ _ _ _ => true
  | .vins _ _ _ _ _ _ => true
  | .vcmpr _ _ _ _ _ => true
  | .vexpd _ _ _ _ _ => true
  | .vbmask _ _ _ _ => true
  | .vbrank _ _ _ m k => !k || m != 0
  | .vbpfx _ _ _ _ _ => true
  | .vnz _ _ _ _ _ => true
  | .vrand _ _ _ _ _ _ => true
  | .vcvt _ _ f _ dir _ => decide (f.toNat ≤ 0x1B) && !(dir && f == 0x16)
  | .vidx _ _ m k => !k || m != 0
  | .vslide _ _ _ _ _ _ => true
  | .mand _ _ _ _ k => !k
  | .mor _ _ _ _ k => !k
  | .mxor _ _ _ _ k => !k
  | .mandn _ _ _ _ k => !k
  | .mnot _ _ _ k => !k
  | .mpopc _ _ k => !k
  | .mfirst _ _ k => !k
  | .mfroms _ _ _ _ _ => true
  | .mtos _ _ _ _ => true
  | .msetn _ _ _ _ => true
  | .vld _ _ _ _ _ => true
  | .vst _ _ _ _ _ => true
  | .vldx _ _ _ _ _ _ => true
  | .vstx _ _ _ _ _ _ => true
  | .send _ _ _ _ => true
  | .sendr _ _ _ _ => true
  | .sendv _ _ _ _ => true
  | .reply _ _ _ _ => true
  | .mbind _ _ _ _ => true
  | .mseal _ _ _ _ => true
  | .rankrd _ _ _ => true
  | .rankwr _ _ _ _ => true
  | .rankmv _ _ => true
  | .pjoin _ _ _ _ => true
  | .pleave _ _ => true
  | .psig _ _ => true
  | .pwait _ _ _ => true
  | .psigw _ _ _ => true
  | .pqry _ _ _ => true
  | .dqpush _ _ _ _ => true
  | .dqpop b => pairDest b
  | .dqsplit _ _ => true
  | .dqsteal _ b _ => pairDest b
  | .gdec _ _ => true
  | .garm _ _ _ _ => true
  | .tdead _ _ => true
  | .tclass _ _ => true
  | .thrbind _ _ _ _ => true
  | .cpy _ _ _ _ _ => true
  | .cpym _ _ _ _ _ => true
  | .cpyg _ _ _ _ _ => true
  | .strm _ _ _ _ _ => true
  | .qbind _ _ _ _ => true
  | .prel _ _ => true
  | .bufdef _ _ _ _ => true
  | .publish _ _ => true
  | .cpoll _ _ _ _ _ => true
  | .ringeos _ _ => true
  | .mmul _ _ _ _ t => decide (t.toNat ≤ 5)
  | .mzero t => decide (t.toNat ≤ 5)
  | .mdrain _ _ _ _ t => decide (t.toNat ≤ 5)
  | .mopen => true
  | .mclose => true
  | .mctx _ _ => true
  | .mpark => true
  | .munpark => true
  | .sghash _ _ _ _ => true
  | .sgroom _ _ => true
  | .sglead _ _ _ _ => true
  | .sgscat _ _ _ _ => true
  | .sgsum _ _ _ _ => true
  | .sgsel _ _ _ _ => true
  | .xdef _ _ _ _ => true
  | .xset _ _ _ _ => true
  | .xnext _ _ => true
  | .xpost _ _ => true
  | .xpop b => pairDest b
  | .xcurf _ _ => true
  | .xdep _ _ _ _ => true
  | .xsamp _ _ _ _ => true
  | .xbudg _ _ _ _ => true
  | .ecfg _ _ _ _ => true
  | .erd _ _ _ => true
  | .edrain _ _ => true
  | .amadd _ _ _ _ _ _ _ _ => true
  | .amand _ _ _ _ _ _ _ _ => true
  | .amor _ _ _ _ _ _ _ _ => true
  | .amxor _ _ _ _ _ _ _ _ => true
  | .ammin _ _ _ _ _ _ _ _ => true
  | .ammax _ _ _ _ _ _ _ _ => true
  | .amminn _ _ _ _ _ _ _ _ => true
  | .ammaxn _ _ _ _ _ _ _ _ => true
  | .amswp _ _ _ _ _ _ _ _ => true
  | .amcas _ _ _ _ _ _ _ _ => true
  | .amfadd _ _ _ _ _ _ _ _ => true
  | .amfmin _ _ _ _ _ _ _ _ => true
  | .amfmax _ _ _ _ _ _ _ _ => true
  | .redadd _ _ _ _ _ _ => true
  | .redand _ _ _ _ _ _ => true
  | .redor _ _ _ _ _ _ => true
  | .redxor _ _ _ _ _ _ => true
  | .redmin _ _ _ _ _ _ => true
  | .redmax _ _ _ _ _ _ => true
  | .redminn _ _ _ _ _ _ => true
  | .redmaxn _ _ _ _ _ _ => true
  | .redfadd _ _ _ _ _ _ => true
  | .redfmin _ _ _ _ _ _ => true
  | .redfmax _ _ _ _ _ _ => true
  | .fence _ _ => true
  | .tend => true
  | .tret => true
  | .trap _ => true
  | .crr _ c => crListed c
  | .crw _ c => crListed c
  | .crs _ c => crListed c
  | .crc _ c => crListed c
  | .sete _ => true
  | .tstf _ _ => true
  | .winbeg => true
  | .winend => true
  | .brk _ => true
  | .cflush _ _ => true
  | .cinvLine _ _ => true
  | .cinvL1 => true
  | .cinvIcache => true
  | .pref _ _ _ => true
  | .migr _ _ _ _ => true
  | .errrd d _ _ => decide (1 ≤ d.toNat) && decide (d.toNat ≤ 28)
  | .errclr _ _ => true
  | .nop => true
  | .sigchk _ => true
  | .accessAtHome _ => false
  | .loadLands _ _ => false
  | .l1FillArrives _ => false
  | .translate _ => false
  | .pageRetry _ => false
  | .cxlRequestTimeout _ => false
  | .recall _ _ => false
  | .writeBackArrives _ _ _ _ => false
  | .uncorrectableError _ => false
  | .coreStateError _ => false
  | .messageArrival _ => false
  | .launch _ => false
  | .urgentLaunch _ => false
  | .urgentRun _ => false
  | .maskwinExpiry _ _ => false
  | .deadlineExpiry _ _ => false
  | .layoutTakesEffect _ => false
  | .thresholdFire _ _ _ _ => false
  | .phaserOpAtHome _ => false
  | .epRaise _ => false
  | .stealAtVictim _ => false
  | .stealAttempt _ => false
  | .counterDecrement _ _ _ _ => false
  | .garmAtHome _ _ _ _ _ _ _ => false
  | .dispatcherLaunch _ => false
  | .gangPlace _ => false
  | .pipePreempt _ => false
  | .ringPush _ => false
  | .ringPop _ => false
  | .streamFetch _ _ => false
  | .copyPerform _ _ => false
  | .copyComplete _ _ => false
  | .publishExchange _ _ => false
  | .mtxCommandPerform _ _ => false
  | .sigCommandPerform _ => false
  | .remoteElementAccess _ => false
  | .crossingDelivery _ => false
  | .migrationStart _ _ _ _ _ => false
  | .migrationCopy _ _ => false
  | .tinv _ _ => false
  | .frcl _ _ => false
  | .tsync _ _ => false
  | .classcfgWrite _ _ _ => false
  | .heartbeatSend _ => false
  | .heartbeatReceived _ _ _ => false
  | .voteReceived _ _ _ _ _ => false
  | .periodEnd _ => false
  | .shutterRestart _ => false
  | .returnServe _ _ => false
  | .selfTestDone _ _ => false
  | .relayStepReceived _ => false
  | .relayStepFail _ _ _ => false
  | .relayAckTimeout _ _ _ => false
  | .inboundRecord _ _ => false
  | .journalReplay _ => false
  | .partReset _ => false
  | .throttle _ _ => false
  | .thermalReset _ => false
  | .claim _ _ => false
  | .electionEnd => false
  | .handoverGive _ _ => false
  | .handoverRelease _ => false
  | .masterPathDown _ => false
  | .fnmodeset _ _ => false
  | .powerOn _ => false
  | .debugHalt _ => false
  | .debugResume _ => false
  | .l1cfgApply _ => false
  | .bfmtWrite _ _ _ => false
  | .pcntWrite _ _ _ => false
  | .thrWrite _ _ _ => false
  | .waymaskWrite _ _ _ => false
  | .tenantWrite _ _ => false
  | .fpendDiscard _ => false
  | .shutForce _ => false
  | .shutTest _ => false
  | .handlerTableInstall _ _ => false
  | .registerWrite _ _ => false
  | .powerGating _ => false
  | .appealAgeing _ => false
  | .relayStepAcknowledged _ _ _ => false
  | .linkFlitResend _ => false
  | .ringRegistration _ => false
  | .ringeosAtHome _ => false

end Sys2Proof
end

