-- ==== Sys2Proof/Decode.lean ====
section
/-! DEFINITION. Reading an instruction word and writing it: the opcode map of spec/04_encoding.md (R46 to R71) as a
total function that refuses every other word, then the encoder. -/
namespace Sys2Proof

/-- A field this format marks zero holds zero (R45). -/
def isZero (w : BitVec 32) (lo n : Nat) : Bool := w.extractLsb' lo n == 0

/-- The q field (R53). -/
def qualOf (x : BitVec 2) : Qual :=
  match x.toNat with
  | 0 => .plain | 1 => .waitfFill | 2 => .takeFillw | _ => .tryfDrain

/-- The ew field (R57). -/
def ewOf (x : BitVec 2) : Ew :=
  match x.toNat with
  | 0 => .b8 | 1 => .b16 | 2 => .b32 | _ => .b64

/-- The rm field (R60): 101 and 110 are refused. -/
def rmOf (x : BitVec 3) : Option Rm :=
  match x.toNat with
  | 0 => some .rne | 1 => some .rtz | 2 => some .rdn | 3 => some .rup | 4 => some .rma | 7 => some .dyn
  | _ => none

/-- The operation of VRED and VSCAN, the low three bits of the vb field (R63, R112). -/
def redOf (x : BitVec 3) : RedOp :=
  match x.toNat with
  | 0 => .add | 1 => .min | 2 => .max | 3 => .minn | 4 => .maxn | 5 => .fadd | 6 => .fmin | _ => .fmax

/-- The kind of a FENCE (R68). -/
def kindOf (x : BitVec 2) : Option FenceKind :=
  match x.toNat with
  | 0 => some .acq | 1 => some .rel | 2 => some .full | _ => none

/-- The scope of a FENCE (R8, R68). -/
def scopeOf (x : BitVec 3) : Option Scope :=
  match x.toNat with
  | 0 => some .slot | 1 => some .station | 2 => some .cluster | 3 => some .die | 4 => some .module | 5 => some .system
  | _ => none

/-- The hint of a PREF (R68). -/
def hintOf (x : BitVec 2) : Option Hint :=
  match x.toNat with
  | 0 => some .shared | 1 => some .exclusive | 2 => some .slice | _ => none

/- `Instr` has more constructors than Lean's run-time object tags, so the functions that build its later constructors
have no compiled code; the kernel evaluates them. -/
noncomputable section

/-- Major 0x01 ALU. -/
def decodeAlu (w : BitVec 32) : Option Instr :=
  match (w.extractLsb' 0 8).toNat with
  | 0 => some (.add (w.extractLsb' 21 5) (w.extractLsb' 16 5) (w.extractLsb' 11 5) (w.getLsbD 10) (w.getLsbD 9) (w.getLsbD 8))
  | 1 => some (.sub (w.extractLsb' 21 5) (w.extractLsb' 16 5) (w.extractLsb' 11 5) (w.getLsbD 10) (w.getLsbD 9) (w.getLsbD 8))
  | 2 => some (.and (w.extractLsb' 21 5) (w.extractLsb' 16 5) (w.extractLsb' 11 5) (w.getLsbD 10) (w.getLsbD 9) (w.getLsbD 8))
  | 3 => some (.or (w.extractLsb' 21 5) (w.extractLsb' 16 5) (w.extractLsb' 11 5) (w.getLsbD 10) (w.getLsbD 9) (w.getLsbD 8))
  | 4 => some (.xor (w.extractLsb' 21 5) (w.extractLsb' 16 5) (w.extractLsb' 11 5) (w.getLsbD 10) (w.getLsbD 9) (w.getLsbD 8))
  | 5 => some (.andn (w.extractLsb' 21 5) (w.extractLsb' 16 5) (w.extractLsb' 11 5) (w.getLsbD 10) (w.getLsbD 9) (w.getLsbD 8))
  | 6 => some (.orn (w.extractLsb' 21 5) (w.extractLsb' 16 5) (w.extractLsb' 11 5) (w.getLsbD 10) (w.getLsbD 9) (w.getLsbD 8))
  | 7 => some (.sll (w.extractLsb' 21 5) (w.extractLsb' 16 5) (w.extractLsb' 11 5) (w.getLsbD 10) (w.getLsbD 9) (w.getLsbD 8))
  | 8 => some (.srl (w.extractLsb' 21 5) (w.extractLsb' 16 5) (w.extractLsb' 11 5) (w.getLsbD 10) (w.getLsbD 9) (w.getLsbD 8))
  | 9 => some (.sra (w.extractLsb' 21 5) (w.extractLsb' 16 5) (w.extractLsb' 11 5) (w.getLsbD 10) (w.getLsbD 9) (w.getLsbD 8))
  | 10 => some (.rol (w.extractLsb' 21 5) (w.extractLsb' 16 5) (w.extractLsb' 11 5) (w.getLsbD 10) (w.getLsbD 9) (w.getLsbD 8))
  | 11 => some (.ror (w.extractLsb' 21 5) (w.extractLsb' 16 5) (w.extractLsb' 11 5) (w.getLsbD 10) (w.getLsbD 9) (w.getLsbD 8))
  | 12 => some (.slt (w.extractLsb' 21 5) (w.extractLsb' 16 5) (w.extractLsb' 11 5) (w.getLsbD 10) (w.getLsbD 9) (w.getLsbD 8))
  | 13 => some (.sltu (w.extractLsb' 21 5) (w.extractLsb' 16 5) (w.extractLsb' 11 5) (w.getLsbD 10) (w.getLsbD 9) (w.getLsbD 8))
  | 14 => some (.seq (w.extractLsb' 21 5) (w.extractLsb' 16 5) (w.extractLsb' 11 5) (w.getLsbD 10) (w.getLsbD 9) (w.getLsbD 8))
  | 15 => some (.min (w.extractLsb' 21 5) (w.extractLsb' 16 5) (w.extractLsb' 11 5) (w.getLsbD 10) (w.getLsbD 9) (w.getLsbD 8))
  | 16 => some (.max (w.extractLsb' 21 5) (w.extractLsb' 16 5) (w.extractLsb' 11 5) (w.getLsbD 10) (w.getLsbD 9) (w.getLsbD 8))
  | 17 => some (.minu (w.extractLsb' 21 5) (w.extractLsb' 16 5) (w.extractLsb' 11 5) (w.getLsbD 10) (w.getLsbD 9) (w.getLsbD 8))
  | 18 => some (.maxu (w.extractLsb' 21 5) (w.extractLsb' 16 5) (w.extractLsb' 11 5) (w.getLsbD 10) (w.getLsbD 9) (w.getLsbD 8))
  | 19 => some (.mul (w.extractLsb' 21 5) (w.extractLsb' 16 5) (w.extractLsb' 11 5) (w.getLsbD 10) (w.getLsbD 9) (w.getLsbD 8))
  | 20 => some (.mulh (w.extractLsb' 21 5) (w.extractLsb' 16 5) (w.extractLsb' 11 5) (w.getLsbD 10) (w.getLsbD 9) (w.getLsbD 8))
  | 21 => some (.mulhu (w.extractLsb' 21 5) (w.extractLsb' 16 5) (w.extractLsb' 11 5) (w.getLsbD 10) (w.getLsbD 9) (w.getLsbD 8))
  | 22 => some (.div (w.extractLsb' 21 5) (w.extractLsb' 16 5) (w.extractLsb' 11 5) (w.getLsbD 10) (w.getLsbD 9) (w.getLsbD 8))
  | 23 => some (.divu (w.extractLsb' 21 5) (w.extractLsb' 16 5) (w.extractLsb' 11 5) (w.getLsbD 10) (w.getLsbD 9) (w.getLsbD 8))
  | 24 => some (.rem (w.extractLsb' 21 5) (w.extractLsb' 16 5) (w.extractLsb' 11 5) (w.getLsbD 10) (w.getLsbD 9) (w.getLsbD 8))
  | 25 => some (.remu (w.extractLsb' 21 5) (w.extractLsb' 16 5) (w.extractLsb' 11 5) (w.getLsbD 10) (w.getLsbD 9) (w.getLsbD 8))
  | 26 => if isZero w 11 5 && isZero w 8 2 then some (.clz (w.extractLsb' 21 5) (w.extractLsb' 16 5) (w.getLsbD 10)) else none
  | 27 => if isZero w 11 5 && isZero w 8 2 then some (.ctz (w.extractLsb' 21 5) (w.extractLsb' 16 5) (w.getLsbD 10)) else none
  | 28 => if isZero w 11 5 && isZero w 8 2 then some (.popc (w.extractLsb' 21 5) (w.extractLsb' 16 5) (w.getLsbD 10)) else none
  | 29 => if isZero w 11 5 && isZero w 8 2 then some (.brev (w.extractLsb' 21 5) (w.extractLsb' 16 5) (w.getLsbD 10)) else none
  | 30 => if isZero w 11 5 && isZero w 8 2 then some (.bswap (w.extractLsb' 21 5) (w.extractLsb' 16 5) (w.getLsbD 10)) else none
  | 31 => if isZero w 8 1 then some (.exts (w.extractLsb' 21 5) (w.extractLsb' 16 5) (w.extractLsb' 11 5) (w.getLsbD 10) (w.getLsbD 9)) else none
  | 32 => if isZero w 8 1 then some (.extz (w.extractLsb' 21 5) (w.extractLsb' 16 5) (w.extractLsb' 11 5) (w.getLsbD 10) (w.getLsbD 9)) else none
  | _ => none

/-- Major 0x02 FPU. -/
def decodeFpu (w : BitVec 32) : Option Instr :=
  match (w.extractLsb' 0 5).toNat with
  | 0 => (rmOf (w.extractLsb' 5 3)).map fun rm => (.fadd (w.extractLsb' 21 5) (w.extractLsb' 16 5) (w.extractLsb' 11 5) (w.getLsbD 10) (w.getLsbD 9) (w.getLsbD 8) rm)
  | 1 => (rmOf (w.extractLsb' 5 3)).map fun rm => (.fsub (w.extractLsb' 21 5) (w.extractLsb' 16 5) (w.extractLsb' 11 5) (w.getLsbD 10) (w.getLsbD 9) (w.getLsbD 8) rm)
  | 2 => (rmOf (w.extractLsb' 5 3)).map fun rm => (.fmul (w.extractLsb' 21 5) (w.extractLsb' 16 5) (w.extractLsb' 11 5) (w.getLsbD 10) (w.getLsbD 9) (w.getLsbD 8) rm)
  | 3 => (rmOf (w.extractLsb' 5 3)).map fun rm => (.fdiv (w.extractLsb' 21 5) (w.extractLsb' 16 5) (w.extractLsb' 11 5) (w.getLsbD 10) (w.getLsbD 9) (w.getLsbD 8) rm)
  | 4 => if isZero w 11 5 && isZero w 9 1 then (rmOf (w.extractLsb' 5 3)).map fun rm => (.fsqrt (w.extractLsb' 21 5) (w.extractLsb' 16 5) (w.getLsbD 10) (w.getLsbD 8) rm) else none
  | 5 => (rmOf (w.extractLsb' 5 3)).map fun rm => (.ffma (w.extractLsb' 21 5) (w.extractLsb' 16 5) (w.extractLsb' 11 5) (w.getLsbD 10) (w.getLsbD 9) (w.getLsbD 8) rm)
  | 6 => (rmOf (w.extractLsb' 5 3)).map fun rm => (.ffms (w.extractLsb' 21 5) (w.extractLsb' 16 5) (w.extractLsb' 11 5) (w.getLsbD 10) (w.getLsbD 9) (w.getLsbD 8) rm)
  | 7 => if isZero w 5 3 then some (.fmin (w.extractLsb' 21 5) (w.extractLsb' 16 5) (w.extractLsb' 11 5) (w.getLsbD 10) (w.getLsbD 9) (w.getLsbD 8)) else none
  | 8 => if isZero w 5 3 then some (.fmax (w.extractLsb' 21 5) (w.extractLsb' 16 5) (w.extractLsb' 11 5) (w.getLsbD 10) (w.getLsbD 9) (w.getLsbD 8)) else none
  | 9 => if isZero w 5 3 then some (.feq (w.extractLsb' 21 5) (w.extractLsb' 16 5) (w.extractLsb' 11 5) (w.getLsbD 10) (w.getLsbD 9) (w.getLsbD 8)) else none
  | 10 => if isZero w 5 3 then some (.flt (w.extractLsb' 21 5) (w.extractLsb' 16 5) (w.extractLsb' 11 5) (w.getLsbD 10) (w.getLsbD 9) (w.getLsbD 8)) else none
  | 11 => if isZero w 5 3 then some (.fle (w.extractLsb' 21 5) (w.extractLsb' 16 5) (w.extractLsb' 11 5) (w.getLsbD 10) (w.getLsbD 9) (w.getLsbD 8)) else none
  | 12 => if isZero w 11 5 && isZero w 9 1 && isZero w 5 3 then some (.fclass (w.extractLsb' 21 5) (w.extractLsb' 16 5) (w.getLsbD 10) (w.getLsbD 8)) else none
  | 13 => if isZero w 12 4 && isZero w 9 1 then (rmOf (w.extractLsb' 5 3)).map fun rm => (.fcvtis (w.extractLsb' 21 5) (w.extractLsb' 16 5) (w.getLsbD 11) (w.getLsbD 10) (w.getLsbD 8) rm) else none
  | 14 => if isZero w 12 4 && isZero w 9 1 then (rmOf (w.extractLsb' 5 3)).map fun rm => (.fcvtin (w.extractLsb' 21 5) (w.extractLsb' 16 5) (w.getLsbD 11) (w.getLsbD 10) (w.getLsbD 8) rm) else none
  | 15 => if isZero w 12 4 && isZero w 9 1 then (rmOf (w.extractLsb' 5 3)).map fun rm => (.fcvtfs (w.extractLsb' 21 5) (w.extractLsb' 16 5) (w.getLsbD 11) (w.getLsbD 10) (w.getLsbD 8) rm) else none
  | 16 => if isZero w 12 4 && isZero w 9 1 then (rmOf (w.extractLsb' 5 3)).map fun rm => (.fcvtfn (w.extractLsb' 21 5) (w.extractLsb' 16 5) (w.getLsbD 11) (w.getLsbD 10) (w.getLsbD 8) rm) else none
  | 17 => if isZero w 9 1 then (rmOf (w.extractLsb' 5 3)).map fun rm => (.fcvtw (w.extractLsb' 21 5) (w.extractLsb' 16 5) (w.extractLsb' 11 5) (w.getLsbD 10) (w.getLsbD 8) rm) else none
  | _ => none

/-- Major 0x09 SHI. -/
def decodeShi (w : BitVec 32) : Option Instr :=
  match (w.extractLsb' 13 2).toNat with
  | 0 => if isZero w 7 6 then some (.slli (w.extractLsb' 21 5) (w.extractLsb' 16 5) (w.getLsbD 15) (w.getLsbD 6) (w.extractLsb' 0 6)) else none
  | 1 => if isZero w 7 6 then some (.srli (w.extractLsb' 21 5) (w.extractLsb' 16 5) (w.getLsbD 15) (w.getLsbD 6) (w.extractLsb' 0 6)) else none
  | 2 => if isZero w 7 6 then some (.srai (w.extractLsb' 21 5) (w.extractLsb' 16 5) (w.getLsbD 15) (w.getLsbD 6) (w.extractLsb' 0 6)) else none
  | 3 => if isZero w 7 6 then some (.roli (w.extractLsb' 21 5) (w.extractLsb' 16 5) (w.getLsbD 15) (w.getLsbD 6) (w.extractLsb' 0 6)) else none
  | _ => none

/-- Major 0x1C BR. -/
def decodeBr (w : BitVec 32) : Option Instr :=
  match (w.extractLsb' 23 3).toNat with
  | 0 => some (.beq (w.extractLsb' 18 5) (w.extractLsb' 13 5) (w.getLsbD 12) (w.getLsbD 11) (w.extractLsb' 0 11))
  | 1 => some (.bne (w.extractLsb' 18 5) (w.extractLsb' 13 5) (w.getLsbD 12) (w.getLsbD 11) (w.extractLsb' 0 11))
  | 2 => some (.blt (w.extractLsb' 18 5) (w.extractLsb' 13 5) (w.getLsbD 12) (w.getLsbD 11) (w.extractLsb' 0 11))
  | 3 => some (.bge (w.extractLsb' 18 5) (w.extractLsb' 13 5) (w.getLsbD 12) (w.getLsbD 11) (w.extractLsb' 0 11))
  | 4 => some (.bltu (w.extractLsb' 18 5) (w.extractLsb' 13 5) (w.getLsbD 12) (w.getLsbD 11) (w.extractLsb' 0 11))
  | 5 => some (.bgeu (w.extractLsb' 18 5) (w.extractLsb' 13 5) (w.getLsbD 12) (w.getLsbD 11) (w.extractLsb' 0 11))
  | 6 => if isZero w 11 7 then some (.bf (w.extractLsb' 18 5) (w.extractLsb' 0 11)) else none
  | _ => none

/-- LP (R55): with a = s0 the word is LOOPI. -/
def decodeLp (w : BitVec 32) : Option Instr :=
  if isZero w 21 5 then
    (if isZero w 20 1 then some (.loopi (w.extractLsb' 10 10) (w.extractLsb' 0 10)) else none)
  else (if isZero w 0 10 then some (.loop (w.extractLsb' 21 5) (w.getLsbD 20) (w.extractLsb' 10 10)) else none)

/-- Major 0x20 VI. -/
def decodeVi (w : BitVec 32) : Option Instr :=
  match (w.extractLsb' 0 5).toNat with
  | 0 => some (.vadd (w.extractLsb' 21 5) (w.extractLsb' 16 5) (w.extractLsb' 11 5) (ewOf (w.extractLsb' 9 2)) (w.extractLsb' 6 3) (w.getLsbD 5))
  | 1 => some (.vsub (w.extractLsb' 21 5) (w.extractLsb' 16 5) (w.extractLsb' 11 5) (ewOf (w.extractLsb' 9 2)) (w.extractLsb' 6 3) (w.getLsbD 5))
  | 2 => some (.vmul (w.extractLsb' 21 5) (w.extractLsb' 16 5) (w.extractLsb' 11 5) (ewOf (w.extractLsb' 9 2)) (w.extractLsb' 6 3) (w.getLsbD 5))
  | 3 => some (.vmulh (w.extractLsb' 21 5) (w.extractLsb' 16 5) (w.extractLsb' 11 5) (ewOf (w.extractLsb' 9 2)) (w.extractLsb' 6 3) (w.getLsbD 5))
  | 4 => some (.vmulhn (w.extractLsb' 21 5) (w.extractLsb' 16 5) (w.extractLsb' 11 5) (ewOf (w.extractLsb' 9 2)) (w.extractLsb' 6 3) (w.getLsbD 5))
  | 5 => some (.vmin (w.extractLsb' 21 5) (w.extractLsb' 16 5) (w.extractLsb' 11 5) (ewOf (w.extractLsb' 9 2)) (w.extractLsb' 6 3) (w.getLsbD 5))
  | 6 => some (.vmax (w.extractLsb' 21 5) (w.extractLsb' 16 5) (w.extractLsb' 11 5) (ewOf (w.extractLsb' 9 2)) (w.extractLsb' 6 3) (w.getLsbD 5))
  | 7 => some (.vminn (w.extractLsb' 21 5) (w.extractLsb' 16 5) (w.extractLsb' 11 5) (ewOf (w.extractLsb' 9 2)) (w.extractLsb' 6 3) (w.getLsbD 5))
  | 8 => some (.vmaxn (w.extractLsb' 21 5) (w.extractLsb' 16 5) (w.extractLsb' 11 5) (ewOf (w.extractLsb' 9 2)) (w.extractLsb' 6 3) (w.getLsbD 5))
  | 9 => some (.vand (w.extractLsb' 21 5) (w.extractLsb' 16 5) (w.extractLsb' 11 5) (ewOf (w.extractLsb' 9 2)) (w.extractLsb' 6 3) (w.getLsbD 5))
  | 10 => some (.vor (w.extractLsb' 21 5) (w.extractLsb' 16 5) (w.extractLsb' 11 5) (ewOf (w.extractLsb' 9 2)) (w.extractLsb' 6 3) (w.getLsbD 5))
  | 11 => some (.vxor (w.extractLsb' 21 5) (w.extractLsb' 16 5) (w.extractLsb' 11 5) (ewOf (w.extractLsb' 9 2)) (w.extractLsb' 6 3) (w.getLsbD 5))
  | 12 => some (.vandn (w.extractLsb' 21 5) (w.extractLsb' 16 5) (w.extractLsb' 11 5) (ewOf (w.extractLsb' 9 2)) (w.extractLsb' 6 3) (w.getLsbD 5))
  | 13 => some (.vsll (w.extractLsb' 21 5) (w.extractLsb' 16 5) (w.extractLsb' 11 5) (ewOf (w.extractLsb' 9 2)) (w.extractLsb' 6 3) (w.getLsbD 5))
  | 14 => some (.vsrl (w.extractLsb' 21 5) (w.extractLsb' 16 5) (w.extractLsb' 11 5) (ewOf (w.extractLsb' 9 2)) (w.extractLsb' 6 3) (w.getLsbD 5))
  | 15 => some (.vsra (w.extractLsb' 21 5) (w.extractLsb' 16 5) (w.extractLsb' 11 5) (ewOf (w.extractLsb' 9 2)) (w.extractLsb' 6 3) (w.getLsbD 5))
  | 16 => if isZero w 24 2 then some (.vseq (w.extractLsb' 21 3) (w.extractLsb' 16 5) (w.extractLsb' 11 5) (ewOf (w.extractLsb' 9 2)) (w.extractLsb' 6 3) (w.getLsbD 5)) else none
  | 17 => if isZero w 24 2 then some (.vslt (w.extractLsb' 21 3) (w.extractLsb' 16 5) (w.extractLsb' 11 5) (ewOf (w.extractLsb' 9 2)) (w.extractLsb' 6 3) (w.getLsbD 5)) else none
  | 18 => if isZero w 24 2 then some (.vsltn (w.extractLsb' 21 3) (w.extractLsb' 16 5) (w.extractLsb' 11 5) (ewOf (w.extractLsb' 9 2)) (w.extractLsb' 6 3) (w.getLsbD 5)) else none
  | 19 => some (.vsel (w.extractLsb' 21 5) (w.extractLsb' 16 5) (w.extractLsb' 11 5) (ewOf (w.extractLsb' 9 2)) (w.extractLsb' 6 3) (w.getLsbD 5))
  | 20 => if isZero w 11 5 then some (.vabs (w.extractLsb' 21 5) (w.extractLsb' 16 5) (ewOf (w.extractLsb' 9 2)) (w.extractLsb' 6 3) (w.getLsbD 5)) else none
  | 21 => some (.vadds (w.extractLsb' 21 5) (w.extractLsb' 16 5) (w.extractLsb' 11 5) (ewOf (w.extractLsb' 9 2)) (w.extractLsb' 6 3) (w.getLsbD 5))
  | 22 => some (.vsubs (w.extractLsb' 21 5) (w.extractLsb' 16 5) (w.extractLsb' 11 5) (ewOf (w.extractLsb' 9 2)) (w.extractLsb' 6 3) (w.getLsbD 5))
  | 23 => some (.vaddsn (w.extractLsb' 21 5) (w.extractLsb' 16 5) (w.extractLsb' 11 5) (ewOf (w.extractLsb' 9 2)) (w.extractLsb' 6 3) (w.getLsbD 5))
  | 24 => if isZero w 10 1 then some (.vdot4 (w.extractLsb' 21 5) (w.extractLsb' 16 5) (w.extractLsb' 11 5) (w.getLsbD 9) (w.extractLsb' 6 3) (w.getLsbD 5)) else none
  | 25 => if isZero w 10 1 then some (.vdot4n (w.extractLsb' 21 5) (w.extractLsb' 16 5) (w.extractLsb' 11 5) (w.getLsbD 9) (w.extractLsb' 6 3) (w.getLsbD 5)) else none
  | 26 => if isZero w 11 5 then some (.vpopc (w.extractLsb' 21 5) (w.extractLsb' 16 5) (ewOf (w.extractLsb' 9 2)) (w.extractLsb' 6 3) (w.getLsbD 5)) else none
  | 27 => if isZero w 11 5 then some (.vclz (w.extractLsb' 21 5) (w.extractLsb' 16 5) (ewOf (w.extractLsb' 9 2)) (w.extractLsb' 6 3) (w.getLsbD 5)) else none
  | 28 => if isZero w 12 4 then some (.vwiden (w.extractLsb' 21 5) (w.extractLsb' 16 5) (w.getLsbD 11) (ewOf (w.extractLsb' 9 2)) (w.extractLsb' 6 3) (w.getLsbD 5)) else none
  | 29 => if isZero w 13 3 then some (.vnarrow (w.extractLsb' 21 5) (w.extractLsb' 16 5) (w.extractLsb' 11 2) (ewOf (w.extractLsb' 9 2)) (w.extractLsb' 6 3) (w.getLsbD 5)) else none
  | _ => none

/-- Major 0x21 VIS. -/
def decodeVis (w : BitVec 32) : Option Instr :=
  match (w.extractLsb' 0 5).toNat with
  | 0 => some (.vaddS (w.extractLsb' 21 5) (w.extractLsb' 16 5) (w.extractLsb' 11 5) (ewOf (w.extractLsb' 9 2)) (w.extractLsb' 6 3) (w.getLsbD 5))
  | 1 => some (.vsubS (w.extractLsb' 21 5) (w.extractLsb' 16 5) (w.extractLsb' 11 5) (ewOf (w.extractLsb' 9 2)) (w.extractLsb' 6 3) (w.getLsbD 5))
  | 2 => some (.vmulS (w.extractLsb' 21 5) (w.extractLsb' 16 5) (w.extractLsb' 11 5) (ewOf (w.extractLsb' 9 2)) (w.extractLsb' 6 3) (w.getLsbD 5))
  | 3 => some (.vmulhS (w.extractLsb' 21 5) (w.extractLsb' 16 5) (w.extractLsb' 11 5) (ewOf (w.extractLsb' 9 2)) (w.extractLsb' 6 3) (w.getLsbD 5))
  | 4 => some (.vmulhnS (w.extractLsb' 21 5) (w.extractLsb' 16 5) (w.extractLsb' 11 5) (ewOf (w.extractLsb' 9 2)) (w.extractLsb' 6 3) (w.getLsbD 5))
  | 5 => some (.vminS (w.extractLsb' 21 5) (w.extractLsb' 16 5) (w.extractLsb' 11 5) (ewOf (w.extractLsb' 9 2)) (w.extractLsb' 6 3) (w.getLsbD 5))
  | 6 => some (.vmaxS (w.extractLsb' 21 5) (w.extractLsb' 16 5) (w.extractLsb' 11 5) (ewOf (w.extractLsb' 9 2)) (w.extractLsb' 6 3) (w.getLsbD 5))
  | 7 => some (.vminnS (w.extractLsb' 21 5) (w.extractLsb' 16 5) (w.extractLsb' 11 5) (ewOf (w.extractLsb' 9 2)) (w.extractLsb' 6 3) (w.getLsbD 5))
  | 8 => some (.vmaxnS (w.extractLsb' 21 5) (w.extractLsb' 16 5) (w.extractLsb' 11 5) (ewOf (w.extractLsb' 9 2)) (w.extractLsb' 6 3) (w.getLsbD 5))
  | 9 => some (.vandS (w.extractLsb' 21 5) (w.extractLsb' 16 5) (w.extractLsb' 11 5) (ewOf (w.extractLsb' 9 2)) (w.extractLsb' 6 3) (w.getLsbD 5))
  | 10 => some (.vorS (w.extractLsb' 21 5) (w.extractLsb' 16 5) (w.extractLsb' 11 5) (ewOf (w.extractLsb' 9 2)) (w.extractLsb' 6 3) (w.getLsbD 5))
  | 11 => some (.vxorS (w.extractLsb' 21 5) (w.extractLsb' 16 5) (w.extractLsb' 11 5) (ewOf (w.extractLsb' 9 2)) (w.extractLsb' 6 3) (w.getLsbD 5))
  | 12 => some (.vandnS (w.extractLsb' 21 5) (w.extractLsb' 16 5) (w.extractLsb' 11 5) (ewOf (w.extractLsb' 9 2)) (w.extractLsb' 6 3) (w.getLsbD 5))
  | 13 => some (.vsllS (w.extractLsb' 21 5) (w.extractLsb' 16 5) (w.extractLsb' 11 5) (ewOf (w.extractLsb' 9 2)) (w.extractLsb' 6 3) (w.getLsbD 5))
  | 14 => some (.vsrlS (w.extractLsb' 21 5) (w.extractLsb' 16 5) (w.extractLsb' 11 5) (ewOf (w.extractLsb' 9 2)) (w.extractLsb' 6 3) (w.getLsbD 5))
  | 15 => some (.vsraS (w.extractLsb' 21 5) (w.extractLsb' 16 5) (w.extractLsb' 11 5) (ewOf (w.extractLsb' 9 2)) (w.extractLsb' 6 3) (w.getLsbD 5))
  | 16 => if isZero w 24 2 then some (.vseqS (w.extractLsb' 21 3) (w.extractLsb' 16 5) (w.extractLsb' 11 5) (ewOf (w.extractLsb' 9 2)) (w.extractLsb' 6 3) (w.getLsbD 5)) else none
  | 17 => if isZero w 24 2 then some (.vsltS (w.extractLsb' 21 3) (w.extractLsb' 16 5) (w.extractLsb' 11 5) (ewOf (w.extractLsb' 9 2)) (w.extractLsb' 6 3) (w.getLsbD 5)) else none
  | 18 => if isZero w 24 2 then some (.vsltnS (w.extractLsb' 21 3) (w.extractLsb' 16 5) (w.extractLsb' 11 5) (ewOf (w.extractLsb' 9 2)) (w.extractLsb' 6 3) (w.getLsbD 5)) else none
  | 19 => some (.vselS (w.extractLsb' 21 5) (w.extractLsb' 16 5) (w.extractLsb' 11 5) (ewOf (w.extractLsb' 9 2)) (w.extractLsb' 6 3) (w.getLsbD 5))
  | 21 => some (.vaddsS (w.extractLsb' 21 5) (w.extractLsb' 16 5) (w.extractLsb' 11 5) (ewOf (w.extractLsb' 9 2)) (w.extractLsb' 6 3) (w.getLsbD 5))
  | 22 => some (.vsubsS (w.extractLsb' 21 5) (w.extractLsb' 16 5) (w.extractLsb' 11 5) (ewOf (w.extractLsb' 9 2)) (w.extractLsb' 6 3) (w.getLsbD 5))
  | 23 => some (.vaddsnS (w.extractLsb' 21 5) (w.extractLsb' 16 5) (w.extractLsb' 11 5) (ewOf (w.extractLsb' 9 2)) (w.extractLsb' 6 3) (w.getLsbD 5))
  | 24 => if isZero w 10 1 then some (.vdot4S (w.extractLsb' 21 5) (w.extractLsb' 16 5) (w.extractLsb' 11 5) (w.getLsbD 9) (w.extractLsb' 6 3) (w.getLsbD 5)) else none
  | 25 => if isZero w 10 1 then some (.vdot4nS (w.extractLsb' 21 5) (w.extractLsb' 16 5) (w.extractLsb' 11 5) (w.getLsbD 9) (w.extractLsb' 6 3) (w.getLsbD 5)) else none
  | _ => none

/-- Major 0x22 VF. -/
def decodeVf (w : BitVec 32) : Option Instr :=
  match (w.extractLsb' 0 5).toNat with
  | 0 => some (.vfadd (w.extractLsb' 21 5) (w.extractLsb' 16 5) (w.extractLsb' 11 5) (ewOf (w.extractLsb' 9 2)) (w.extractLsb' 6 3) (w.getLsbD 5))
  | 1 => some (.vfsub (w.extractLsb' 21 5) (w.extractLsb' 16 5) (w.extractLsb' 11 5) (ewOf (w.extractLsb' 9 2)) (w.extractLsb' 6 3) (w.getLsbD 5))
  | 2 => some (.vfmul (w.extractLsb' 21 5) (w.extractLsb' 16 5) (w.extractLsb' 11 5) (ewOf (w.extractLsb' 9 2)) (w.extractLsb' 6 3) (w.getLsbD 5))
  | 3 => some (.vfdiv (w.extractLsb' 21 5) (w.extractLsb' 16 5) (w.extractLsb' 11 5) (ewOf (w.extractLsb' 9 2)) (w.extractLsb' 6 3) (w.getLsbD 5))
  | 4 => some (.vfma (w.extractLsb' 21 5) (w.extractLsb' 16 5) (w.extractLsb' 11 5) (ewOf (w.extractLsb' 9 2)) (w.extractLsb' 6 3) (w.getLsbD 5))
  | 5 => some (.vfms (w.extractLsb' 21 5) (w.extractLsb' 16 5) (w.extractLsb' 11 5) (ewOf (w.extractLsb' 9 2)) (w.extractLsb' 6 3) (w.getLsbD 5))
  | 6 => some (.vfmin (w.extractLsb' 21 5) (w.extractLsb' 16 5) (w.extractLsb' 11 5) (ewOf (w.extractLsb' 9 2)) (w.extractLsb' 6 3) (w.getLsbD 5))
  | 7 => some (.vfmax (w.extractLsb' 21 5) (w.extractLsb' 16 5) (w.extractLsb' 11 5) (ewOf (w.extractLsb' 9 2)) (w.extractLsb' 6 3) (w.getLsbD 5))
  | 8 => if isZero w 24 2 then some (.vfeq (w.extractLsb' 21 3) (w.extractLsb' 16 5) (w.extractLsb' 11 5) (ewOf (w.extractLsb' 9 2)) (w.extractLsb' 6 3) (w.getLsbD 5)) else none
  | 9 => if isZero w 24 2 then some (.vflt (w.extractLsb' 21 3) (w.extractLsb' 16 5) (w.extractLsb' 11 5) (ewOf (w.extractLsb' 9 2)) (w.extractLsb' 6 3) (w.getLsbD 5)) else none
  | 10 => if isZero w 24 2 then some (.vfle (w.extractLsb' 21 3) (w.extractLsb' 16 5) (w.extractLsb' 11 5) (ewOf (w.extractLsb' 9 2)) (w.extractLsb' 6 3) (w.getLsbD 5)) else none
  | 11 => if isZero w 11 5 then some (.vfsqrt (w.extractLsb' 21 5) (w.extractLsb' 16 5) (ewOf (w.extractLsb' 9 2)) (w.extractLsb' 6 3) (w.getLsbD 5)) else none
  | 12 => if isZero w 11 5 then some (.vfrcp (w.extractLsb' 21 5) (w.extractLsb' 16 5) (ewOf (w.extractLsb' 9 2)) (w.extractLsb' 6 3) (w.getLsbD 5)) else none
  | 13 => if isZero w 11 5 then some (.vfexp2 (w.extractLsb' 21 5) (w.extractLsb' 16 5) (ewOf (w.extractLsb' 9 2)) (w.extractLsb' 6 3) (w.getLsbD 5)) else none
  | 14 => if isZero w 11 5 then some (.vflog2 (w.extractLsb' 21 5) (w.extractLsb' 16 5) (ewOf (w.extractLsb' 9 2)) (w.extractLsb' 6 3) (w.getLsbD 5)) else none
  | 15 => if isZero w 11 5 then some (.vfabs (w.extractLsb' 21 5) (w.extractLsb' 16 5) (ewOf (w.extractLsb' 9 2)) (w.extractLsb' 6 3) (w.getLsbD 5)) else none
  | 16 => if isZero w 11 5 then some (.vfneg (w.extractLsb' 21 5) (w.extractLsb' 16 5) (ewOf (w.extractLsb' 9 2)) (w.extractLsb' 6 3) (w.getLsbD 5)) else none
  | 17 => if isZero w 11 5 then some (.vfclass (w.extractLsb' 21 5) (w.extractLsb' 16 5) (ewOf (w.extractLsb' 9 2)) (w.extractLsb' 6 3) (w.getLsbD 5)) else none
  | _ => none

/-- Major 0x23 VFS. -/
def decodeVfs (w : BitVec 32) : Option Instr :=
  match (w.extractLsb' 0 5).toNat with
  | 0 => some (.vfaddS (w.extractLsb' 21 5) (w.extractLsb' 16 5) (w.extractLsb' 11 5) (ewOf (w.extractLsb' 9 2)) (w.extractLsb' 6 3) (w.getLsbD 5))
  | 1 => some (.vfsubS (w.extractLsb' 21 5) (w.extractLsb' 16 5) (w.extractLsb' 11 5) (ewOf (w.extractLsb' 9 2)) (w.extractLsb' 6 3) (w.getLsbD 5))
  | 2 => some (.vfmulS (w.extractLsb' 21 5) (w.extractLsb' 16 5) (w.extractLsb' 11 5) (ewOf (w.extractLsb' 9 2)) (w.extractLsb' 6 3) (w.getLsbD 5))
  | 3 => some (.vfdivS (w.extractLsb' 21 5) (w.extractLsb' 16 5) (w.extractLsb' 11 5) (ewOf (w.extractLsb' 9 2)) (w.extractLsb' 6 3) (w.getLsbD 5))
  | 4 => some (.vfmaS (w.extractLsb' 21 5) (w.extractLsb' 16 5) (w.extractLsb' 11 5) (ewOf (w.extractLsb' 9 2)) (w.extractLsb' 6 3) (w.getLsbD 5))
  | 5 => some (.vfmsS (w.extractLsb' 21 5) (w.extractLsb' 16 5) (w.extractLsb' 11 5) (ewOf (w.extractLsb' 9 2)) (w.extractLsb' 6 3) (w.getLsbD 5))
  | 6 => some (.vfminS (w.extractLsb' 21 5) (w.extractLsb' 16 5) (w.extractLsb' 11 5) (ewOf (w.extractLsb' 9 2)) (w.extractLsb' 6 3) (w.getLsbD 5))
  | 7 => some (.vfmaxS (w.extractLsb' 21 5) (w.extractLsb' 16 5) (w.extractLsb' 11 5) (ewOf (w.extractLsb' 9 2)) (w.extractLsb' 6 3) (w.getLsbD 5))
  | 8 => if isZero w 24 2 then some (.vfeqS (w.extractLsb' 21 3) (w.extractLsb' 16 5) (w.extractLsb' 11 5) (ewOf (w.extractLsb' 9 2)) (w.extractLsb' 6 3) (w.getLsbD 5)) else none
  | 9 => if isZero w 24 2 then some (.vfltS (w.extractLsb' 21 3) (w.extractLsb' 16 5) (w.extractLsb' 11 5) (ewOf (w.extractLsb' 9 2)) (w.extractLsb' 6 3) (w.getLsbD 5)) else none
  | 10 => if isZero w 24 2 then some (.vfleS (w.extractLsb' 21 3) (w.extractLsb' 16 5) (w.extractLsb' 11 5) (ewOf (w.extractLsb' 9 2)) (w.extractLsb' 6 3) (w.getLsbD 5)) else none
  | _ => none

/-- Major 0x24 VX. -/
def decodeVx (w : BitVec 32) : Option Instr :=
  match (w.extractLsb' 0 5).toNat with
  | 0 => if isZero w 14 2 then some (.vred (w.extractLsb' 21 5) (w.extractLsb' 16 5) (redOf (w.extractLsb' 11 3)) (ewOf (w.extractLsb' 9 2)) (w.extractLsb' 6 3) (w.getLsbD 5)) else none
  | 1 => if isZero w 14 2 then some (.vscan (w.extractLsb' 21 5) (w.extractLsb' 16 5) (redOf (w.extractLsb' 11 3)) (ewOf (w.extractLsb' 9 2)) (w.extractLsb' 6 3) (w.getLsbD 5)) else none
  | 2 => if isZero w 11 5 then some (.vsort (w.extractLsb' 21 5) (w.extractLsb' 16 5) (ewOf (w.extractLsb' 9 2)) (w.extractLsb' 6 3) (w.getLsbD 5)) else none
  | 3 => some (.vperm (w.extractLsb' 21 5) (w.extractLsb' 16 5) (w.extractLsb' 11 5) (ewOf (w.extractLsb' 9 2)) (w.extractLsb' 6 3) (w.getLsbD 5))
  | 4 => if isZero w 11 5 then some (.vbcast (w.extractLsb' 21 5) (w.extractLsb' 16 5) (ewOf (w.extractLsb' 9 2)) (w.extractLsb' 6 3) (w.getLsbD 5)) else none
  | 5 => some (.vext (w.extractLsb' 21 5) (w.extractLsb' 16 5) (w.extractLsb' 11 5) (ewOf (w.extractLsb' 9 2)) (w.extractLsb' 6 3) (w.getLsbD 5))
  | 6 => some (.vins (w.extractLsb' 21 5) (w.extractLsb' 16 5) (w.extractLsb' 11 5) (ewOf (w.extractLsb' 9 2)) (w.extractLsb' 6 3) (w.getLsbD 5))
  | 7 => if isZero w 11 5 then some (.vcmpr (w.extractLsb' 21 5) (w.extractLsb' 16 5) (ewOf (w.extractLsb' 9 2)) (w.extractLsb' 6 3) (w.getLsbD 5)) else none
  | 8 => if isZero w 11 5 then some (.vexpd (w.extractLsb' 21 5) (w.extractLsb' 16 5) (ewOf (w.extractLsb' 9 2)) (w.extractLsb' 6 3) (w.getLsbD 5)) else none
  | 9 => if isZero w 24 2 && isZero w 9 7 then some (.vbmask (w.extractLsb' 21 3) (w.extractLsb' 16 5) (w.extractLsb' 6 3) (w.getLsbD 5)) else none
  | 10 => if isZero w 19 2 && isZero w 11 5 then some (.vbrank (w.extractLsb' 21 5) (w.extractLsb' 16 3) (ewOf (w.extractLsb' 9 2)) (w.extractLsb' 6 3) (w.getLsbD 5)) else none
  | 11 => if isZero w 11 5 then some (.vbpfx (w.extractLsb' 21 5) (w.extractLsb' 16 5) (ewOf (w.extractLsb' 9 2)) (w.extractLsb' 6 3) (w.getLsbD 5)) else none
  | 12 => if isZero w 24 2 && isZero w 11 5 then some (.vnz (w.extractLsb' 21 3) (w.extractLsb' 16 5) (ewOf (w.extractLsb' 9 2)) (w.extractLsb' 6 3) (w.getLsbD 5)) else none
  | 13 => some (.vrand (w.extractLsb' 21 5) (w.extractLsb' 16 5) (w.extractLsb' 11 5) (ewOf (w.extractLsb' 9 2)) (w.extractLsb' 6 3) (w.getLsbD 5))
  | 14 => if isZero w 6 2 then some (.vcvt (w.extractLsb' 21 5) (w.extractLsb' 16 5) (w.extractLsb' 11 5) (ewOf (w.extractLsb' 9 2)) (w.getLsbD 8) (w.getLsbD 5)) else none
  | 15 => if isZero w 11 10 then some (.vidx (w.extractLsb' 21 5) (ewOf (w.extractLsb' 9 2)) (w.extractLsb' 6 3) (w.getLsbD 5)) else none
  | 16 => some (.vslide (w.extractLsb' 21 5) (w.extractLsb' 16 5) (w.extractLsb' 11 5) (ewOf (w.extractLsb' 9 2)) (w.extractLsb' 6 3) (w.getLsbD 5))
  | _ => none

/-- Major 0x25 VM. -/
def decodeVm (w : BitVec 32) : Option Instr :=
  match (w.extractLsb' 0 5).toNat with
  | 0 => if isZero w 24 2 && isZero w 19 2 && isZero w 14 2 && isZero w 9 2 then some (.mand (w.extractLsb' 21 3) (w.extractLsb' 16 3) (w.extractLsb' 11 3) (w.extractLsb' 6 3) (w.getLsbD 5)) else none
  | 1 => if isZero w 24 2 && isZero w 19 2 && isZero w 14 2 && isZero w 9 2 then some (.mor (w.extractLsb' 21 3) (w.extractLsb' 16 3) (w.extractLsb' 11 3) (w.extractLsb' 6 3) (w.getLsbD 5)) else none
  | 2 => if isZero w 24 2 && isZero w 19 2 && isZero w 14 2 && isZero w 9 2 then some (.mxor (w.extractLsb' 21 3) (w.extractLsb' 16 3) (w.extractLsb' 11 3) (w.extractLsb' 6 3) (w.getLsbD 5)) else none
  | 3 => if isZero w 24 2 && isZero w 19 2 && isZero w 14 2 && isZero w 9 2 then some (.mandn (w.extractLsb' 21 3) (w.extractLsb' 16 3) (w.extractLsb' 11 3) (w.extractLsb' 6 3) (w.getLsbD 5)) else none
  | 4 => if isZero w 24 2 && isZero w 19 2 && isZero w 9 7 then some (.mnot (w.extractLsb' 21 3) (w.extractLsb' 16 3) (w.extractLsb' 6 3) (w.getLsbD 5)) else none
  | 5 => if isZero w 19 2 && isZero w 6 10 then some (.mpopc (w.extractLsb' 21 5) (w.extractLsb' 16 3) (w.getLsbD 5)) else none
  | 6 => if isZero w 19 2 && isZero w 6 10 then some (.mfirst (w.extractLsb' 21 5) (w.extractLsb' 16 3) (w.getLsbD 5)) else none
  | 7 => if isZero w 24 2 && isZero w 9 2 then some (.mfroms (w.extractLsb' 21 3) (w.extractLsb' 16 5) (w.extractLsb' 11 5) (w.extractLsb' 6 3) (w.getLsbD 5)) else none
  | 8 => if isZero w 19 2 && isZero w 6 5 then some (.mtos (w.extractLsb' 21 5) (w.extractLsb' 16 3) (w.extractLsb' 11 5) (w.getLsbD 5)) else none
  | 9 => if isZero w 24 2 && isZero w 9 7 then some (.msetn (w.extractLsb' 21 3) (w.extractLsb' 16 5) (w.extractLsb' 6 3) (w.getLsbD 5)) else none
  | _ => none

/-- Major 0x28 VGS. -/
def decodeVgs (w : BitVec 32) : Option Instr :=
  match (w.extractLsb' 0 5).toNat with
  | 0 => some (.vldx (w.extractLsb' 21 5) (w.extractLsb' 16 5) (w.extractLsb' 11 5) (ewOf (w.extractLsb' 9 2)) (w.extractLsb' 6 3) (w.getLsbD 5))
  | 1 => some (.vstx (w.extractLsb' 21 5) (w.extractLsb' 16 5) (w.extractLsb' 11 5) (ewOf (w.extractLsb' 9 2)) (w.extractLsb' 6 3) (w.getLsbD 5))
  | _ => none

/-- Engine 0 MSG (R69, R70, R71). -/
def decodeEngMsg (w : BitVec 32) : Option Instr :=
  match (w.extractLsb' 15 8).toNat with
  | 0 => if isZero w 0 3 then some (.send (w.extractLsb' 10 5) (w.extractLsb' 5 5) (w.getLsbD 4) (w.getLsbD 3)) else none
  | 1 => if isZero w 0 3 then some (.sendr (w.extractLsb' 10 5) (w.extractLsb' 5 5) (w.getLsbD 4) (w.getLsbD 3)) else none
  | 2 => if isZero w 0 3 then some (.sendv (w.extractLsb' 10 5) (w.extractLsb' 5 5) (w.getLsbD 4) (w.getLsbD 3)) else none
  | 3 => if isZero w 0 3 then some (.reply (w.extractLsb' 10 5) (w.extractLsb' 5 5) (w.getLsbD 4) (w.getLsbD 3)) else none
  | 4 => if isZero w 0 3 then some (.mbind (w.extractLsb' 10 5) (w.extractLsb' 5 5) (w.getLsbD 4) (w.getLsbD 3)) else none
  | 5 => if isZero w 0 3 then some (.mseal (w.extractLsb' 10 5) (w.extractLsb' 5 5) (w.getLsbD 4) (w.getLsbD 3)) else none
  | 6 => if isZero w 0 4 then some (.rankrd (w.extractLsb' 10 5) (w.extractLsb' 5 5) (w.getLsbD 4)) else none
  | 7 => if isZero w 0 3 then some (.rankwr (w.extractLsb' 10 5) (w.extractLsb' 5 5) (w.getLsbD 4) (w.getLsbD 3)) else none
  | 8 => if isZero w 5 5 && isZero w 0 4 then some (.rankmv (w.extractLsb' 10 5) (w.getLsbD 4)) else none
  | _ => none

/-- Engine 1 SYNC (R69, R70, R71). -/
def decodeEngSync (w : BitVec 32) : Option Instr :=
  match (w.extractLsb' 15 8).toNat with
  | 0 => if isZero w 0 3 then some (.pjoin (w.extractLsb' 10 5) (w.extractLsb' 5 5) (w.getLsbD 4) (w.getLsbD 3)) else none
  | 1 => if isZero w 5 5 && isZero w 0 4 then some (.pleave (w.extractLsb' 10 5) (w.getLsbD 4)) else none
  | 2 => if isZero w 5 5 && isZero w 0 4 then some (.psig (w.extractLsb' 10 5) (w.getLsbD 4)) else none
  | 3 => if isZero w 0 4 then some (.pwait (w.extractLsb' 10 5) (w.extractLsb' 5 5) (w.getLsbD 4)) else none
  | 4 => if isZero w 0 4 then some (.psigw (w.extractLsb' 10 5) (w.extractLsb' 5 5) (w.getLsbD 4)) else none
  | 5 => if isZero w 0 4 then some (.pqry (w.extractLsb' 10 5) (w.extractLsb' 5 5) (w.getLsbD 4)) else none
  | 6 => if isZero w 0 3 then some (.dqpush (w.extractLsb' 10 5) (w.extractLsb' 5 5) (w.getLsbD 4) (w.getLsbD 3)) else none
  | 7 => if isZero w 10 5 && isZero w 0 5 then some (.dqpop (w.extractLsb' 5 5)) else none
  | 8 => if isZero w 5 5 && isZero w 0 4 then some (.dqsplit (w.extractLsb' 10 5) (w.getLsbD 4)) else none
  | 9 => if isZero w 0 4 then some (.dqsteal (w.extractLsb' 10 5) (w.extractLsb' 5 5) (w.getLsbD 4)) else none
  | 10 => if isZero w 5 5 && isZero w 0 4 then some (.gdec (w.extractLsb' 10 5) (w.getLsbD 4)) else none
  | 11 => if isZero w 0 3 then some (.garm (w.extractLsb' 10 5) (w.extractLsb' 5 5) (w.getLsbD 4) (w.getLsbD 3)) else none
  | 12 => if isZero w 5 5 && isZero w 0 4 then some (.tdead (w.extractLsb' 10 5) (w.getLsbD 4)) else none
  | 13 => if isZero w 5 5 && isZero w 0 4 then some (.tclass (w.extractLsb' 10 5) (w.getLsbD 4)) else none
  | 14 => if isZero w 0 3 then some (.thrbind (w.extractLsb' 10 5) (w.extractLsb' 5 5) (w.getLsbD 4) (w.getLsbD 3)) else none
  | _ => none

/-- Engine 2 COPY (R69, R70, R71). -/
def decodeEngCopy (w : BitVec 32) : Option Instr :=
  match (w.extractLsb' 15 8).toNat with
  | 0 => some (.cpy (w.extractLsb' 10 5) (w.extractLsb' 5 5) (w.getLsbD 4) (w.getLsbD 3) (w.extractLsb' 0 3))
  | 1 => some (.cpym (w.extractLsb' 10 5) (w.extractLsb' 5 5) (w.getLsbD 4) (w.getLsbD 3) (w.extractLsb' 0 3))
  | 2 => some (.cpyg (w.extractLsb' 10 5) (w.extractLsb' 5 5) (w.getLsbD 4) (w.getLsbD 3) (w.extractLsb' 0 3))
  | 3 => some (.strm (w.extractLsb' 10 5) (w.extractLsb' 5 5) (w.getLsbD 4) (w.getLsbD 3) (w.extractLsb' 0 3))
  | 4 => if isZero w 0 3 then some (.qbind (w.extractLsb' 10 5) (w.extractLsb' 5 5) (w.getLsbD 4) (w.getLsbD 3)) else none
  | 5 => if isZero w 5 5 && isZero w 0 4 then some (.prel (w.extractLsb' 10 5) (w.getLsbD 4)) else none
  | 6 => if isZero w 0 3 then some (.bufdef (w.extractLsb' 10 5) (w.extractLsb' 5 5) (w.getLsbD 4) (w.getLsbD 3)) else none
  | 7 => if isZero w 5 5 && isZero w 0 4 then some (.publish (w.extractLsb' 10 5) (w.getLsbD 4)) else none
  | 8 => some (.cpoll (w.extractLsb' 10 5) (w.extractLsb' 5 5) (w.getLsbD 4) (w.getLsbD 3) (w.extractLsb' 0 3))
  | 9 => if isZero w 5 5 && isZero w 0 4 then some (.ringeos (w.extractLsb' 10 5) (w.getLsbD 4)) else none
  | _ => none

/-- Engine 3 MTX (R69, R70, R71). -/
def decodeEngMtx (w : BitVec 32) : Option Instr :=
  match (w.extractLsb' 15 8).toNat with
  | 0 => some (.mmul (w.extractLsb' 10 5) (w.extractLsb' 5 5) (w.getLsbD 4) (w.getLsbD 3) (w.extractLsb' 0 3))
  | 1 => if isZero w 3 12 then some (.mzero (w.extractLsb' 0 3)) else none
  | 2 => some (.mdrain (w.extractLsb' 10 5) (w.extractLsb' 5 5) (w.getLsbD 4) (w.getLsbD 3) (w.extractLsb' 0 3))
  | 3 => if isZero w 0 15 then some .mopen else none
  | 4 => if isZero w 0 15 then some .mclose else none
  | 5 => if isZero w 5 5 && isZero w 0 4 then some (.mctx (w.extractLsb' 10 5) (w.getLsbD 4)) else none
  | 6 => if isZero w 0 15 then some .mpark else none
  | 7 => if isZero w 0 15 then some .munpark else none
  | _ => none

/-- Engine 4 SIG (R69, R70, R71). -/
def decodeEngSig (w : BitVec 32) : Option Instr :=
  match (w.extractLsb' 15 8).toNat with
  | 0 => if isZero w 0 3 then some (.sghash (w.extractLsb' 10 5) (w.extractLsb' 5 5) (w.getLsbD 4) (w.getLsbD 3)) else none
  | 1 => if isZero w 5 5 && isZero w 0 4 then some (.sgroom (w.extractLsb' 10 5) (w.getLsbD 4)) else none
  | 2 => if isZero w 0 3 then some (.sglead (w.extractLsb' 10 5) (w.extractLsb' 5 5) (w.getLsbD 4) (w.getLsbD 3)) else none
  | 3 => if isZero w 0 3 then some (.sgscat (w.extractLsb' 10 5) (w.extractLsb' 5 5) (w.getLsbD 4) (w.getLsbD 3)) else none
  | 4 => if isZero w 0 3 then some (.sgsum (w.extractLsb' 10 5) (w.extractLsb' 5 5) (w.getLsbD 4) (w.getLsbD 3)) else none
  | 5 => if isZero w 0 3 then some (.sgsel (w.extractLsb' 10 5) (w.extractLsb' 5 5) (w.getLsbD 4) (w.getLsbD 3)) else none
  | _ => none

/-- Engine 5 XING (R69, R70, R71). -/
def decodeEngXing (w : BitVec 32) : Option Instr :=
  match (w.extractLsb' 15 8).toNat with
  | 0 => if isZero w 0 3 then some (.xdef (w.extractLsb' 10 5) (w.extractLsb' 5 5) (w.getLsbD 4) (w.getLsbD 3)) else none
  | 1 => if isZero w 0 3 then some (.xset (w.extractLsb' 10 5) (w.extractLsb' 5 5) (w.getLsbD 4) (w.getLsbD 3)) else none
  | 2 => if isZero w 5 5 && isZero w 0 4 then some (.xnext (w.extractLsb' 10 5) (w.getLsbD 4)) else none
  | 3 => if isZero w 5 5 && isZero w 0 4 then some (.xpost (w.extractLsb' 10 5) (w.getLsbD 4)) else none
  | 4 => if isZero w 10 5 && isZero w 0 5 then some (.xpop (w.extractLsb' 5 5)) else none
  | 5 => if isZero w 5 5 && isZero w 0 4 then some (.xcurf (w.extractLsb' 10 5) (w.getLsbD 4)) else none
  | 6 => if isZero w 0 3 then some (.xdep (w.extractLsb' 10 5) (w.extractLsb' 5 5) (w.getLsbD 4) (w.getLsbD 3)) else none
  | 7 => if isZero w 0 3 then some (.xsamp (w.extractLsb' 10 5) (w.extractLsb' 5 5) (w.getLsbD 4) (w.getLsbD 3)) else none
  | 8 => if isZero w 0 3 then some (.xbudg (w.extractLsb' 10 5) (w.extractLsb' 5 5) (w.getLsbD 4) (w.getLsbD 3)) else none
  | _ => none

/-- Engine 7 GEN (R69, R70, R71). -/
def decodeEngGen (w : BitVec 32) : Option Instr :=
  match (w.extractLsb' 15 8).toNat with
  | 0 => if isZero w 0 3 then some (.ecfg (w.extractLsb' 10 5) (w.extractLsb' 5 5) (w.getLsbD 4) (w.getLsbD 3)) else none
  | 1 => if isZero w 0 4 then some (.erd (w.extractLsb' 10 5) (w.extractLsb' 5 5) (w.getLsbD 4)) else none
  | 2 => if isZero w 5 5 && isZero w 0 4 then some (.edrain (w.extractLsb' 10 5) (w.getLsbD 4)) else none
  | _ => none

/-- EC words (R51): the engine field. Engine 6 is refused. -/
def decodeEng (w : BitVec 32) : Option Instr :=
  match (w.extractLsb' 23 3).toNat with
  | 0 => decodeEngMsg w
  | 1 => decodeEngSync w
  | 2 => decodeEngCopy w
  | 3 => decodeEngMtx w
  | 4 => decodeEngSig w
  | 5 => decodeEngXing w
  | 7 => decodeEngGen w
  | _ => none

/-- Major 0x31 AMO. -/
def decodeAmo (w : BitVec 32) : Option Instr :=
  match (w.extractLsb' 0 5).toNat with
  | 0 => if isZero w 8 1 then some (.amadd (w.extractLsb' 21 5) (w.extractLsb' 16 5) (w.extractLsb' 11 5) (w.getLsbD 10) (w.getLsbD 9) (w.getLsbD 7) (w.getLsbD 6) (w.getLsbD 5)) else none
  | 1 => if isZero w 8 1 then some (.amand (w.extractLsb' 21 5) (w.extractLsb' 16 5) (w.extractLsb' 11 5) (w.getLsbD 10) (w.getLsbD 9) (w.getLsbD 7) (w.getLsbD 6) (w.getLsbD 5)) else none
  | 2 => if isZero w 8 1 then some (.amor (w.extractLsb' 21 5) (w.extractLsb' 16 5) (w.extractLsb' 11 5) (w.getLsbD 10) (w.getLsbD 9) (w.getLsbD 7) (w.getLsbD 6) (w.getLsbD 5)) else none
  | 3 => if isZero w 8 1 then some (.amxor (w.extractLsb' 21 5) (w.extractLsb' 16 5) (w.extractLsb' 11 5) (w.getLsbD 10) (w.getLsbD 9) (w.getLsbD 7) (w.getLsbD 6) (w.getLsbD 5)) else none
  | 4 => if isZero w 8 1 then some (.ammin (w.extractLsb' 21 5) (w.extractLsb' 16 5) (w.extractLsb' 11 5) (w.getLsbD 10) (w.getLsbD 9) (w.getLsbD 7) (w.getLsbD 6) (w.getLsbD 5)) else none
  | 5 => if isZero w 8 1 then some (.ammax (w.extractLsb' 21 5) (w.extractLsb' 16 5) (w.extractLsb' 11 5) (w.getLsbD 10) (w.getLsbD 9) (w.getLsbD 7) (w.getLsbD 6) (w.getLsbD 5)) else none
  | 6 => if isZero w 8 1 then some (.amminn (w.extractLsb' 21 5) (w.extractLsb' 16 5) (w.extractLsb' 11 5) (w.getLsbD 10) (w.getLsbD 9) (w.getLsbD 7) (w.getLsbD 6) (w.getLsbD 5)) else none
  | 7 => if isZero w 8 1 then some (.ammaxn (w.extractLsb' 21 5) (w.extractLsb' 16 5) (w.extractLsb' 11 5) (w.getLsbD 10) (w.getLsbD 9) (w.getLsbD 7) (w.getLsbD 6) (w.getLsbD 5)) else none
  | 8 => if isZero w 8 1 then some (.amswp (w.extractLsb' 21 5) (w.extractLsb' 16 5) (w.extractLsb' 11 5) (w.getLsbD 10) (w.getLsbD 9) (w.getLsbD 7) (w.getLsbD 6) (w.getLsbD 5)) else none
  | 9 => if isZero w 8 1 then some (.amcas (w.extractLsb' 21 5) (w.extractLsb' 16 5) (w.extractLsb' 11 5) (w.getLsbD 10) (w.getLsbD 9) (w.getLsbD 7) (w.getLsbD 6) (w.getLsbD 5)) else none
  | 10 => if isZero w 8 1 then some (.amfadd (w.extractLsb' 21 5) (w.extractLsb' 16 5) (w.extractLsb' 11 5) (w.getLsbD 10) (w.getLsbD 9) (w.getLsbD 7) (w.getLsbD 6) (w.getLsbD 5)) else none
  | 11 => if isZero w 8 1 then some (.amfmin (w.extractLsb' 21 5) (w.extractLsb' 16 5) (w.extractLsb' 11 5) (w.getLsbD 10) (w.getLsbD 9) (w.getLsbD 7) (w.getLsbD 6) (w.getLsbD 5)) else none
  | 12 => if isZero w 8 1 then some (.amfmax (w.extractLsb' 21 5) (w.extractLsb' 16 5) (w.extractLsb' 11 5) (w.getLsbD 10) (w.getLsbD 9) (w.getLsbD 7) (w.getLsbD 6) (w.getLsbD 5)) else none
  | 16 => if isZero w 21 5 && isZero w 8 1 && isZero w 6 1 then some (.redadd (w.extractLsb' 16 5) (w.extractLsb' 11 5) (w.getLsbD 10) (w.getLsbD 9) (w.getLsbD 7) (w.getLsbD 5)) else none
  | 17 => if isZero w 21 5 && isZero w 8 1 && isZero w 6 1 then some (.redand (w.extractLsb' 16 5) (w.extractLsb' 11 5) (w.getLsbD 10) (w.getLsbD 9) (w.getLsbD 7) (w.getLsbD 5)) else none
  | 18 => if isZero w 21 5 && isZero w 8 1 && isZero w 6 1 then some (.redor (w.extractLsb' 16 5) (w.extractLsb' 11 5) (w.getLsbD 10) (w.getLsbD 9) (w.getLsbD 7) (w.getLsbD 5)) else none
  | 19 => if isZero w 21 5 && isZero w 8 1 && isZero w 6 1 then some (.redxor (w.extractLsb' 16 5) (w.extractLsb' 11 5) (w.getLsbD 10) (w.getLsbD 9) (w.getLsbD 7) (w.getLsbD 5)) else none
  | 20 => if isZero w 21 5 && isZero w 8 1 && isZero w 6 1 then some (.redmin (w.extractLsb' 16 5) (w.extractLsb' 11 5) (w.getLsbD 10) (w.getLsbD 9) (w.getLsbD 7) (w.getLsbD 5)) else none
  | 21 => if isZero w 21 5 && isZero w 8 1 && isZero w 6 1 then some (.redmax (w.extractLsb' 16 5) (w.extractLsb' 11 5) (w.getLsbD 10) (w.getLsbD 9) (w.getLsbD 7) (w.getLsbD 5)) else none
  | 22 => if isZero w 21 5 && isZero w 8 1 && isZero w 6 1 then some (.redminn (w.extractLsb' 16 5) (w.extractLsb' 11 5) (w.getLsbD 10) (w.getLsbD 9) (w.getLsbD 7) (w.getLsbD 5)) else none
  | 23 => if isZero w 21 5 && isZero w 8 1 && isZero w 6 1 then some (.redmaxn (w.extractLsb' 16 5) (w.extractLsb' 11 5) (w.getLsbD 10) (w.getLsbD 9) (w.getLsbD 7) (w.getLsbD 5)) else none
  | 26 => if isZero w 21 5 && isZero w 8 1 && isZero w 6 1 then some (.redfadd (w.extractLsb' 16 5) (w.extractLsb' 11 5) (w.getLsbD 10) (w.getLsbD 9) (w.getLsbD 7) (w.getLsbD 5)) else none
  | 27 => if isZero w 21 5 && isZero w 8 1 && isZero w 6 1 then some (.redfmin (w.extractLsb' 16 5) (w.extractLsb' 11 5) (w.getLsbD 10) (w.getLsbD 9) (w.getLsbD 7) (w.getLsbD 5)) else none
  | 28 => if isZero w 21 5 && isZero w 8 1 && isZero w 6 1 then some (.redfmax (w.extractLsb' 16 5) (w.extractLsb' 11 5) (w.getLsbD 10) (w.getLsbD 9) (w.getLsbD 7) (w.getLsbD 5)) else none
  | _ => none

/-- Major 0x32 SYS. -/
def decodeSys (w : BitVec 32) : Option Instr :=
  match (w.extractLsb' 0 9).toNat with
  | 0 => if isZero w 18 8 && isZero w 14 2 && isZero w 9 2 then (kindOf (w.extractLsb' 16 2)).bind fun kind => (scopeOf (w.extractLsb' 11 3)).map fun scope => (.fence kind scope) else none
  | 1 => if isZero w 9 17 then some .tend else none
  | 2 => if isZero w 9 17 then some .tret else none
  | 3 => if isZero w 21 5 && isZero w 9 2 then some (.trap (w.extractLsb' 11 10)) else none
  | 4 => if isZero w 9 2 then some (.crr (w.extractLsb' 21 5) (w.extractLsb' 11 10)) else none
  | 5 => if isZero w 9 2 then some (.crw (w.extractLsb' 21 5) (w.extractLsb' 11 10)) else none
  | 6 => if isZero w 9 2 then some (.crs (w.extractLsb' 21 5) (w.extractLsb' 11 10)) else none
  | 7 => if isZero w 9 2 then some (.crc (w.extractLsb' 21 5) (w.extractLsb' 11 10)) else none
  | 8 => if isZero w 9 12 then some (.sete (w.extractLsb' 21 5)) else none
  | 9 => if isZero w 9 7 then some (.tstf (w.extractLsb' 21 5) (w.extractLsb' 16 5)) else none
  | 10 => if isZero w 9 17 then some .winbeg else none
  | 11 => if isZero w 9 17 then some .winend else none
  | 12 => if isZero w 21 5 && isZero w 9 2 then some (.brk (w.extractLsb' 11 10)) else none
  | 13 => if isZero w 21 5 && isZero w 11 5 && isZero w 9 1 then some (.cflush (w.extractLsb' 16 5) (w.getLsbD 10)) else none
  | 14 => match (w.extractLsb' 11 5).toNat with
    | 0 => if isZero w 21 5 && isZero w 9 1 then some (.cinvLine (w.extractLsb' 16 5) (w.getLsbD 10)) else none
    | 1 => if isZero w 16 10 && isZero w 9 2 then some .cinvL1 else none
    | 2 => if isZero w 16 10 && isZero w 9 2 then some .cinvIcache else none
    | _ => none
  | 15 => if isZero w 21 5 && isZero w 13 3 && isZero w 9 1 then (hintOf (w.extractLsb' 11 2)).map fun hint => (.pref (w.extractLsb' 16 5) hint (w.getLsbD 10)) else none
  | 16 => if isZero w 21 5 then some (.migr (w.extractLsb' 16 5) (w.extractLsb' 11 5) (w.getLsbD 10) (w.getLsbD 9)) else none
  | 17 => if isZero w 11 5 && isZero w 9 1 then some (.errrd (w.extractLsb' 21 5) (w.extractLsb' 16 5) (w.getLsbD 10)) else none
  | 18 => if isZero w 21 5 && isZero w 11 5 && isZero w 9 1 then some (.errclr (w.extractLsb' 16 5) (w.getLsbD 10)) else none
  | 19 => if isZero w 9 17 then some .nop else none
  | _ => none

/-- The word's instruction by the opcode map of R46, before the field rules of `Instr.wf`. -/
def decodeMap (w : BitVec 32) : Option Instr :=
  match (w.extractLsb' 26 6).toNat with
  | 1 => decodeAlu w
  | 2 => decodeFpu w
  | 3 => some (.addi (w.extractLsb' 21 5) (w.extractLsb' 16 5) (w.getLsbD 15) (w.extractLsb' 0 15))
  | 4 => some (.andi (w.extractLsb' 21 5) (w.extractLsb' 16 5) (w.getLsbD 15) (w.extractLsb' 0 15))
  | 5 => some (.ori (w.extractLsb' 21 5) (w.extractLsb' 16 5) (w.getLsbD 15) (w.extractLsb' 0 15))
  | 6 => some (.xori (w.extractLsb' 21 5) (w.extractLsb' 16 5) (w.getLsbD 15) (w.extractLsb' 0 15))
  | 7 => some (.slti (w.extractLsb' 21 5) (w.extractLsb' 16 5) (w.getLsbD 15) (w.extractLsb' 0 15))
  | 8 => some (.sltiu (w.extractLsb' 21 5) (w.extractLsb' 16 5) (w.getLsbD 15) (w.extractLsb' 0 15))
  | 9 => decodeShi w
  | 10 => some (.lui (w.extractLsb' 21 5) (w.extractLsb' 0 21))
  | 11 => some (.addpc (w.extractLsb' 21 5) (w.extractLsb' 0 21))
  | 16 => some (.lb (w.extractLsb' 21 5) (w.extractLsb' 16 5) (w.getLsbD 15) (qualOf (w.extractLsb' 13 2)) (w.extractLsb' 0 13))
  | 17 => some (.lbu (w.extractLsb' 21 5) (w.extractLsb' 16 5) (w.getLsbD 15) (qualOf (w.extractLsb' 13 2)) (w.extractLsb' 0 13))
  | 18 => some (.lh (w.extractLsb' 21 5) (w.extractLsb' 16 5) (w.getLsbD 15) (qualOf (w.extractLsb' 13 2)) (w.extractLsb' 0 13))
  | 19 => some (.lhu (w.extractLsb' 21 5) (w.extractLsb' 16 5) (w.getLsbD 15) (qualOf (w.extractLsb' 13 2)) (w.extractLsb' 0 13))
  | 20 => some (.lw (w.extractLsb' 21 5) (w.extractLsb' 16 5) (w.getLsbD 15) (qualOf (w.extractLsb' 13 2)) (w.extractLsb' 0 13))
  | 21 => some (.lwu (w.extractLsb' 21 5) (w.extractLsb' 16 5) (w.getLsbD 15) (qualOf (w.extractLsb' 13 2)) (w.extractLsb' 0 13))
  | 22 => some (.ld (w.extractLsb' 21 5) (w.extractLsb' 16 5) (w.getLsbD 15) (qualOf (w.extractLsb' 13 2)) (w.extractLsb' 0 13))
  | 24 => some (.sb (w.extractLsb' 21 5) (w.extractLsb' 16 5) (w.getLsbD 15) (qualOf (w.extractLsb' 13 2)) (w.extractLsb' 0 13))
  | 25 => some (.sh (w.extractLsb' 21 5) (w.extractLsb' 16 5) (w.getLsbD 15) (qualOf (w.extractLsb' 13 2)) (w.extractLsb' 0 13))
  | 26 => some (.sw (w.extractLsb' 21 5) (w.extractLsb' 16 5) (w.getLsbD 15) (qualOf (w.extractLsb' 13 2)) (w.extractLsb' 0 13))
  | 27 => some (.sd (w.extractLsb' 21 5) (w.extractLsb' 16 5) (w.getLsbD 15) (qualOf (w.extractLsb' 13 2)) (w.extractLsb' 0 13))
  | 28 => decodeBr w
  | 29 => some (.jal (w.extractLsb' 21 5) (w.extractLsb' 0 21))
  | 30 => some (.jalr (w.extractLsb' 21 5) (w.extractLsb' 16 5) (w.getLsbD 15) (w.extractLsb' 0 15))
  | 31 => decodeLp w
  | 32 => decodeVi w
  | 33 => decodeVis w
  | 34 => decodeVf w
  | 35 => decodeVfs w
  | 36 => decodeVx w
  | 37 => decodeVm w
  | 38 => some (.vld (w.extractLsb' 21 5) (w.extractLsb' 16 5) (w.getLsbD 15) (qualOf (w.extractLsb' 13 2)) (w.extractLsb' 0 13))
  | 39 => some (.vst (w.extractLsb' 21 5) (w.extractLsb' 16 5) (w.getLsbD 15) (qualOf (w.extractLsb' 13 2)) (w.extractLsb' 0 13))
  | 40 => decodeVgs w
  | 48 => decodeEng w
  | 49 => decodeAmo w
  | 50 => decodeSys w
  | 51 => if isZero w 15 11 then some (.sigchk (w.extractLsb' 0 15)) else none
  | _ => none

/-- DECODING (R43 check 2): the instruction of a word, or nothing. Every field must hold a value spec/04_encoding.md
allows. The profile of the core (R47) and the loop stack (R96) are the machine's to check. -/
def decode (w : BitVec 32) : Option Instr :=
  match decodeMap w with
  | some i => if i.wf then some i else none
  | none => none

/-- The q field of a qualifier. -/
def qualBits : Qual → BitVec 2
  | .plain => 0#2 | .waitfFill => 1#2 | .takeFillw => 2#2 | .tryfDrain => 3#2

/-- The ew field of a width. -/
def ewBits : Ew → BitVec 2
  | .b8 => 0#2 | .b16 => 1#2 | .b32 => 2#2 | .b64 => 3#2

/-- The rm field of a rounding choice. -/
def rmBits : Rm → BitVec 3
  | .rne => 0#3 | .rtz => 1#3 | .rdn => 2#3 | .rup => 3#3 | .rma => 4#3 | .dyn => 7#3

/-- The three bits of a reduction. -/
def redBits : RedOp → BitVec 3
  | .add => 0#3 | .min => 1#3 | .max => 2#3 | .minn => 3#3 | .maxn => 4#3 | .fadd => 5#3 | .fmin => 6#3 | .fmax => 7#3

/-- The kind bits of a FENCE. -/
def kindBits : FenceKind → BitVec 2
  | .acq => 0#2 | .rel => 1#2 | .full => 2#2

/-- The scope bits of a FENCE. -/
def scopeBits : Scope → BitVec 3
  | .slot => 0#3 | .station => 1#3 | .cluster => 2#3 | .die => 3#3 | .module => 4#3 | .system => 5#3

/-- The hint bits of a PREF. -/
def hintBits : Hint → BitVec 2
  | .shared => 0#2 | .exclusive => 1#2 | .slice => 2#2

/-- The next field of a word, below the fields already written. -/
def put {n : Nat} (x : BitVec n) (above : BitVec 32) : BitVec 32 := above <<< n ||| x.setWidth 32

/-- The word of an instruction, field by field from the formats of R51. A step without a word has none; it answers 0. -/
def encode : Instr → BitVec 32
  | .add d a b ka kb w => 1#32 |> put d |> put a |> put b |> put (BitVec.ofBool ka) |> put (BitVec.ofBool kb) |> put (BitVec.ofBool w) |> put 0#8
  | .sub d a b ka kb w => 1#32 |> put d |> put a |> put b |> put (BitVec.ofBool ka) |> put (BitVec.ofBool kb) |> put (BitVec.ofBool w) |> put 1#8
  | .and d a b ka kb w => 1#32 |> put d |> put a |> put b |> put (BitVec.ofBool ka) |> put (BitVec.ofBool kb) |> put (BitVec.ofBool w) |> put 2#8
  | .or d a b ka kb w => 1#32 |> put d |> put a |> put b |> put (BitVec.ofBool ka) |> put (BitVec.ofBool kb) |> put (BitVec.ofBool w) |> put 3#8
  | .xor d a b ka kb w => 1#32 |> put d |> put a |> put b |> put (BitVec.ofBool ka) |> put (BitVec.ofBool kb) |> put (BitVec.ofBool w) |> put 4#8
  | .andn d a b ka kb w => 1#32 |> put d |> put a |> put b |> put (BitVec.ofBool ka) |> put (BitVec.ofBool kb) |> put (BitVec.ofBool w) |> put 5#8
  | .orn d a b ka kb w => 1#32 |> put d |> put a |> put b |> put (BitVec.ofBool ka) |> put (BitVec.ofBool kb) |> put (BitVec.ofBool w) |> put 6#8
  | .sll d a b ka kb w => 1#32 |> put d |> put a |> put b |> put (BitVec.ofBool ka) |> put (BitVec.ofBool kb) |> put (BitVec.ofBool w) |> put 7#8
  | .srl d a b ka kb w => 1#32 |> put d |> put a |> put b |> put (BitVec.ofBool ka) |> put (BitVec.ofBool kb) |> put (BitVec.ofBool w) |> put 8#8
  | .sra d a b ka kb w => 1#32 |> put d |> put a |> put b |> put (BitVec.ofBool ka) |> put (BitVec.ofBool kb) |> put (BitVec.ofBool w) |> put 9#8
  | .rol d a b ka kb w => 1#32 |> put d |> put a |> put b |> put (BitVec.ofBool ka) |> put (BitVec.ofBool kb) |> put (BitVec.ofBool w) |> put 10#8
  | .ror d a b ka kb w => 1#32 |> put d |> put a |> put b |> put (BitVec.ofBool ka) |> put (BitVec.ofBool kb) |> put (BitVec.ofBool w) |> put 11#8
  | .slt d a b ka kb w => 1#32 |> put d |> put a |> put b |> put (BitVec.ofBool ka) |> put (BitVec.ofBool kb) |> put (BitVec.ofBool w) |> put 12#8
  | .sltu d a b ka kb w => 1#32 |> put d |> put a |> put b |> put (BitVec.ofBool ka) |> put (BitVec.ofBool kb) |> put (BitVec.ofBool w) |> put 13#8
  | .seq d a b ka kb w => 1#32 |> put d |> put a |> put b |> put (BitVec.ofBool ka) |> put (BitVec.ofBool kb) |> put (BitVec.ofBool w) |> put 14#8
  | .min d a b ka kb w => 1#32 |> put d |> put a |> put b |> put (BitVec.ofBool ka) |> put (BitVec.ofBool kb) |> put (BitVec.ofBool w) |> put 15#8
  | .max d a b ka kb w => 1#32 |> put d |> put a |> put b |> put (BitVec.ofBool ka) |> put (BitVec.ofBool kb) |> put (BitVec.ofBool w) |> put 16#8
  | .minu d a b ka kb w => 1#32 |> put d |> put a |> put b |> put (BitVec.ofBool ka) |> put (BitVec.ofBool kb) |> put (BitVec.ofBool w) |> put 17#8
  | .maxu d a b ka kb w => 1#32 |> put d |> put a |> put b |> put (BitVec.ofBool ka) |> put (BitVec.ofBool kb) |> put (BitVec.ofBool w) |> put 18#8
  | .mul d a b ka kb w => 1#32 |> put d |> put a |> put b |> put (BitVec.ofBool ka) |> put (BitVec.ofBool kb) |> put (BitVec.ofBool w) |> put 19#8
  | .mulh d a b ka kb w => 1#32 |> put d |> put a |> put b |> put (BitVec.ofBool ka) |> put (BitVec.ofBool kb) |> put (BitVec.ofBool w) |> put 20#8
  | .mulhu d a b ka kb w => 1#32 |> put d |> put a |> put b |> put (BitVec.ofBool ka) |> put (BitVec.ofBool kb) |> put (BitVec.ofBool w) |> put 21#8
  | .div d a b ka kb w => 1#32 |> put d |> put a |> put b |> put (BitVec.ofBool ka) |> put (BitVec.ofBool kb) |> put (BitVec.ofBool w) |> put 22#8
  | .divu d a b ka kb w => 1#32 |> put d |> put a |> put b |> put (BitVec.ofBool ka) |> put (BitVec.ofBool kb) |> put (BitVec.ofBool w) |> put 23#8
  | .rem d a b ka kb w => 1#32 |> put d |> put a |> put b |> put (BitVec.ofBool ka) |> put (BitVec.ofBool kb) |> put (BitVec.ofBool w) |> put 24#8
  | .remu d a b ka kb w => 1#32 |> put d |> put a |> put b |> put (BitVec.ofBool ka) |> put (BitVec.ofBool kb) |> put (BitVec.ofBool w) |> put 25#8
  | .clz d a ka => 1#32 |> put d |> put a |> put 0#5 |> put (BitVec.ofBool ka) |> put 0#2 |> put 26#8
  | .ctz d a ka => 1#32 |> put d |> put a |> put 0#5 |> put (BitVec.ofBool ka) |> put 0#2 |> put 27#8
  | .popc d a ka => 1#32 |> put d |> put a |> put 0#5 |> put (BitVec.ofBool ka) |> put 0#2 |> put 28#8
  | .brev d a ka => 1#32 |> put d |> put a |> put 0#5 |> put (BitVec.ofBool ka) |> put 0#2 |> put 29#8
  | .bswap d a ka => 1#32 |> put d |> put a |> put 0#5 |> put (BitVec.ofBool ka) |> put 0#2 |> put 30#8
  | .exts d a b ka kb => 1#32 |> put d |> put a |> put b |> put (BitVec.ofBool ka) |> put (BitVec.ofBool kb) |> put 0#1 |> put 31#8
  | .extz d a b ka kb => 1#32 |> put d |> put a |> put b |> put (BitVec.ofBool ka) |> put (BitVec.ofBool kb) |> put 0#1 |> put 32#8
  | .fadd d a b ka kb p rm => 2#32 |> put d |> put a |> put b |> put (BitVec.ofBool ka) |> put (BitVec.ofBool kb) |> put (BitVec.ofBool p) |> put (rmBits rm) |> put 0#5
  | .fsub d a b ka kb p rm => 2#32 |> put d |> put a |> put b |> put (BitVec.ofBool ka) |> put (BitVec.ofBool kb) |> put (BitVec.ofBool p) |> put (rmBits rm) |> put 1#5
  | .fmul d a b ka kb p rm => 2#32 |> put d |> put a |> put b |> put (BitVec.ofBool ka) |> put (BitVec.ofBool kb) |> put (BitVec.ofBool p) |> put (rmBits rm) |> put 2#5
  | .fdiv d a b ka kb p rm => 2#32 |> put d |> put a |> put b |> put (BitVec.ofBool ka) |> put (BitVec.ofBool kb) |> put (BitVec.ofBool p) |> put (rmBits rm) |> put 3#5
  | .fsqrt d a ka p rm => 2#32 |> put d |> put a |> put 0#5 |> put (BitVec.ofBool ka) |> put 0#1 |> put (BitVec.ofBool p) |> put (rmBits rm) |> put 4#5
  | .ffma d a b ka kb p rm => 2#32 |> put d |> put a |> put b |> put (BitVec.ofBool ka) |> put (BitVec.ofBool kb) |> put (BitVec.ofBool p) |> put (rmBits rm) |> put 5#5
  | .ffms d a b ka kb p rm => 2#32 |> put d |> put a |> put b |> put (BitVec.ofBool ka) |> put (BitVec.ofBool kb) |> put (BitVec.ofBool p) |> put (rmBits rm) |> put 6#5
  | .fmin d a b ka kb p => 2#32 |> put d |> put a |> put b |> put (BitVec.ofBool ka) |> put (BitVec.ofBool kb) |> put (BitVec.ofBool p) |> put 0#3 |> put 7#5
  | .fmax d a b ka kb p => 2#32 |> put d |> put a |> put b |> put (BitVec.ofBool ka) |> put (BitVec.ofBool kb) |> put (BitVec.ofBool p) |> put 0#3 |> put 8#5
  | .feq d a b ka kb p => 2#32 |> put d |> put a |> put b |> put (BitVec.ofBool ka) |> put (BitVec.ofBool kb) |> put (BitVec.ofBool p) |> put 0#3 |> put 9#5
  | .flt d a b ka kb p => 2#32 |> put d |> put a |> put b |> put (BitVec.ofBool ka) |> put (BitVec.ofBool kb) |> put (BitVec.ofBool p) |> put 0#3 |> put 10#5
  | .fle d a b ka kb p => 2#32 |> put d |> put a |> put b |> put (BitVec.ofBool ka) |> put (BitVec.ofBool kb) |> put (BitVec.ofBool p) |> put 0#3 |> put 11#5
  | .fclass d a ka p => 2#32 |> put d |> put a |> put 0#5 |> put (BitVec.ofBool ka) |> put 0#1 |> put (BitVec.ofBool p) |> put 0#3 |> put 12#5
  | .fcvtis d a t ka p rm => 2#32 |> put d |> put a |> put 0#4 |> put (BitVec.ofBool t) |> put (BitVec.ofBool ka) |> put 0#1 |> put (BitVec.ofBool p) |> put (rmBits rm) |> put 13#5
  | .fcvtin d a t ka p rm => 2#32 |> put d |> put a |> put 0#4 |> put (BitVec.ofBool t) |> put (BitVec.ofBool ka) |> put 0#1 |> put (BitVec.ofBool p) |> put (rmBits rm) |> put 14#5
  | .fcvtfs d a t ka p rm => 2#32 |> put d |> put a |> put 0#4 |> put (BitVec.ofBool t) |> put (BitVec.ofBool ka) |> put 0#1 |> put (BitVec.ofBool p) |> put (rmBits rm) |> put 15#5
  | .fcvtfn d a t ka p rm => 2#32 |> put d |> put a |> put 0#4 |> put (BitVec.ofBool t) |> put (BitVec.ofBool ka) |> put 0#1 |> put (BitVec.ofBool p) |> put (rmBits rm) |> put 16#5
  | .fcvtw d a f ka p rm => 2#32 |> put d |> put a |> put f |> put (BitVec.ofBool ka) |> put 0#1 |> put (BitVec.ofBool p) |> put (rmBits rm) |> put 17#5
  | .addi d a ka i => 3#32 |> put d |> put a |> put (BitVec.ofBool ka) |> put i
  | .andi d a ka i => 4#32 |> put d |> put a |> put (BitVec.ofBool ka) |> put i
  | .ori d a ka i => 5#32 |> put d |> put a |> put (BitVec.ofBool ka) |> put i
  | .xori d a ka i => 6#32 |> put d |> put a |> put (BitVec.ofBool ka) |> put i
  | .slti d a ka i => 7#32 |> put d |> put a |> put (BitVec.ofBool ka) |> put i
  | .sltiu d a ka i => 8#32 |> put d |> put a |> put (BitVec.ofBool ka) |> put i
  | .slli d a ka w n => 9#32 |> put d |> put a |> put (BitVec.ofBool ka) |> put 0#2 |> put 0#6 |> put (BitVec.ofBool w) |> put n
  | .srli d a ka w n => 9#32 |> put d |> put a |> put (BitVec.ofBool ka) |> put 1#2 |> put 0#6 |> put (BitVec.ofBool w) |> put n
  | .srai d a ka w n => 9#32 |> put d |> put a |> put (BitVec.ofBool ka) |> put 2#2 |> put 0#6 |> put (BitVec.ofBool w) |> put n
  | .roli d a ka w n => 9#32 |> put d |> put a |> put (BitVec.ofBool ka) |> put 3#2 |> put 0#6 |> put (BitVec.ofBool w) |> put n
  | .lui d i => 10#32 |> put d |> put i
  | .addpc d i => 11#32 |> put d |> put i
  | .lb d a k q o => 16#32 |> put d |> put a |> put (BitVec.ofBool k) |> put (qualBits q) |> put o
  | .lbu d a k q o => 17#32 |> put d |> put a |> put (BitVec.ofBool k) |> put (qualBits q) |> put o
  | .lh d a k q o => 18#32 |> put d |> put a |> put (BitVec.ofBool k) |> put (qualBits q) |> put o
  | .lhu d a k q o => 19#32 |> put d |> put a |> put (BitVec.ofBool k) |> put (qualBits q) |> put o
  | .lw d a k q o => 20#32 |> put d |> put a |> put (BitVec.ofBool k) |> put (qualBits q) |> put o
  | .lwu d a k q o => 21#32 |> put d |> put a |> put (BitVec.ofBool k) |> put (qualBits q) |> put o
  | .ld d a k q o => 22#32 |> put d |> put a |> put (BitVec.ofBool k) |> put (qualBits q) |> put o
  | .sb d a k q o => 24#32 |> put d |> put a |> put (BitVec.ofBool k) |> put (qualBits q) |> put o
  | .sh d a k q o => 25#32 |> put d |> put a |> put (BitVec.ofBool k) |> put (qualBits q) |> put o
  | .sw d a k q o => 26#32 |> put d |> put a |> put (BitVec.ofBool k) |> put (qualBits q) |> put o
  | .sd d a k q o => 27#32 |> put d |> put a |> put (BitVec.ofBool k) |> put (qualBits q) |> put o
  | .beq a b ka kb o => 28#32 |> put 0#3 |> put a |> put b |> put (BitVec.ofBool ka) |> put (BitVec.ofBool kb) |> put o
  | .bne a b ka kb o => 28#32 |> put 1#3 |> put a |> put b |> put (BitVec.ofBool ka) |> put (BitVec.ofBool kb) |> put o
  | .blt a b ka kb o => 28#32 |> put 2#3 |> put a |> put b |> put (BitVec.ofBool ka) |> put (BitVec.ofBool kb) |> put o
  | .bge a b ka kb o => 28#32 |> put 3#3 |> put a |> put b |> put (BitVec.ofBool ka) |> put (BitVec.ofBool kb) |> put o
  | .bltu a b ka kb o => 28#32 |> put 4#3 |> put a |> put b |> put (BitVec.ofBool ka) |> put (BitVec.ofBool kb) |> put o
  | .bgeu a b ka kb o => 28#32 |> put 5#3 |> put a |> put b |> put (BitVec.ofBool ka) |> put (BitVec.ofBool kb) |> put o
  | .bf a o => 28#32 |> put 6#3 |> put a |> put 0#7 |> put o
  | .jal d o => 29#32 |> put d |> put o
  | .jalr d a ka i => 30#32 |> put d |> put a |> put (BitVec.ofBool ka) |> put i
  | .loop a ka l => 31#32 |> put a |> put (BitVec.ofBool ka) |> put l |> put 0#10
  | .loopi l n => 31#32 |> put 0#6 |> put l |> put n
  | .vadd d a b e m k => 32#32 |> put d |> put a |> put b |> put (ewBits e) |> put m |> put (BitVec.ofBool k) |> put 0#5
  | .vsub d a b e m k => 32#32 |> put d |> put a |> put b |> put (ewBits e) |> put m |> put (BitVec.ofBool k) |> put 1#5
  | .vmul d a b e m k => 32#32 |> put d |> put a |> put b |> put (ewBits e) |> put m |> put (BitVec.ofBool k) |> put 2#5
  | .vmulh d a b e m k => 32#32 |> put d |> put a |> put b |> put (ewBits e) |> put m |> put (BitVec.ofBool k) |> put 3#5
  | .vmulhn d a b e m k => 32#32 |> put d |> put a |> put b |> put (ewBits e) |> put m |> put (BitVec.ofBool k) |> put 4#5
  | .vmin d a b e m k => 32#32 |> put d |> put a |> put b |> put (ewBits e) |> put m |> put (BitVec.ofBool k) |> put 5#5
  | .vmax d a b e m k => 32#32 |> put d |> put a |> put b |> put (ewBits e) |> put m |> put (BitVec.ofBool k) |> put 6#5
  | .vminn d a b e m k => 32#32 |> put d |> put a |> put b |> put (ewBits e) |> put m |> put (BitVec.ofBool k) |> put 7#5
  | .vmaxn d a b e m k => 32#32 |> put d |> put a |> put b |> put (ewBits e) |> put m |> put (BitVec.ofBool k) |> put 8#5
  | .vand d a b e m k => 32#32 |> put d |> put a |> put b |> put (ewBits e) |> put m |> put (BitVec.ofBool k) |> put 9#5
  | .vor d a b e m k => 32#32 |> put d |> put a |> put b |> put (ewBits e) |> put m |> put (BitVec.ofBool k) |> put 10#5
  | .vxor d a b e m k => 32#32 |> put d |> put a |> put b |> put (ewBits e) |> put m |> put (BitVec.ofBool k) |> put 11#5
  | .vandn d a b e m k => 32#32 |> put d |> put a |> put b |> put (ewBits e) |> put m |> put (BitVec.ofBool k) |> put 12#5
  | .vsll d a b e m k => 32#32 |> put d |> put a |> put b |> put (ewBits e) |> put m |> put (BitVec.ofBool k) |> put 13#5
  | .vsrl d a b e m k => 32#32 |> put d |> put a |> put b |> put (ewBits e) |> put m |> put (BitVec.ofBool k) |> put 14#5
  | .vsra d a b e m k => 32#32 |> put d |> put a |> put b |> put (ewBits e) |> put m |> put (BitVec.ofBool k) |> put 15#5
  | .vseq d a b e m k => 32#32 |> put 0#2 |> put d |> put a |> put b |> put (ewBits e) |> put m |> put (BitVec.ofBool k) |> put 16#5
  | .vslt d a b e m k => 32#32 |> put 0#2 |> put d |> put a |> put b |> put (ewBits e) |> put m |> put (BitVec.ofBool k) |> put 17#5
  | .vsltn d a b e m k => 32#32 |> put 0#2 |> put d |> put a |> put b |> put (ewBits e) |> put m |> put (BitVec.ofBool k) |> put 18#5
  | .vsel d a b e m k => 32#32 |> put d |> put a |> put b |> put (ewBits e) |> put m |> put (BitVec.ofBool k) |> put 19#5
  | .vabs d a e m k => 32#32 |> put d |> put a |> put 0#5 |> put (ewBits e) |> put m |> put (BitVec.ofBool k) |> put 20#5
  | .vadds d a b e m k => 32#32 |> put d |> put a |> put b |> put (ewBits e) |> put m |> put (BitVec.ofBool k) |> put 21#5
  | .vsubs d a b e m k => 32#32 |> put d |> put a |> put b |> put (ewBits e) |> put m |> put (BitVec.ofBool k) |> put 22#5
  | .vaddsn d a b e m k => 32#32 |> put d |> put a |> put b |> put (ewBits e) |> put m |> put (BitVec.ofBool k) |> put 23#5
  | .vdot4 d a b e m k => 32#32 |> put d |> put a |> put b |> put 0#1 |> put (BitVec.ofBool e) |> put m |> put (BitVec.ofBool k) |> put 24#5
  | .vdot4n d a b e m k => 32#32 |> put d |> put a |> put b |> put 0#1 |> put (BitVec.ofBool e) |> put m |> put (BitVec.ofBool k) |> put 25#5
  | .vpopc d a e m k => 32#32 |> put d |> put a |> put 0#5 |> put (ewBits e) |> put m |> put (BitVec.ofBool k) |> put 26#5
  | .vclz d a e m k => 32#32 |> put d |> put a |> put 0#5 |> put (ewBits e) |> put m |> put (BitVec.ofBool k) |> put 27#5
  | .vwiden d a u e m k => 32#32 |> put d |> put a |> put 0#4 |> put (BitVec.ofBool u) |> put (ewBits e) |> put m |> put (BitVec.ofBool k) |> put 28#5
  | .vnarrow d a u e m k => 32#32 |> put d |> put a |> put 0#3 |> put u |> put (ewBits e) |> put m |> put (BitVec.ofBool k) |> put 29#5
  | .vaddS d a b e m k => 33#32 |> put d |> put a |> put b |> put (ewBits e) |> put m |> put (BitVec.ofBool k) |> put 0#5
  | .vsubS d a b e m k => 33#32 |> put d |> put a |> put b |> put (ewBits e) |> put m |> put (BitVec.ofBool k) |> put 1#5
  | .vmulS d a b e m k => 33#32 |> put d |> put a |> put b |> put (ewBits e) |> put m |> put (BitVec.ofBool k) |> put 2#5
  | .vmulhS d a b e m k => 33#32 |> put d |> put a |> put b |> put (ewBits e) |> put m |> put (BitVec.ofBool k) |> put 3#5
  | .vmulhnS d a b e m k => 33#32 |> put d |> put a |> put b |> put (ewBits e) |> put m |> put (BitVec.ofBool k) |> put 4#5
  | .vminS d a b e m k => 33#32 |> put d |> put a |> put b |> put (ewBits e) |> put m |> put (BitVec.ofBool k) |> put 5#5
  | .vmaxS d a b e m k => 33#32 |> put d |> put a |> put b |> put (ewBits e) |> put m |> put (BitVec.ofBool k) |> put 6#5
  | .vminnS d a b e m k => 33#32 |> put d |> put a |> put b |> put (ewBits e) |> put m |> put (BitVec.ofBool k) |> put 7#5
  | .vmaxnS d a b e m k => 33#32 |> put d |> put a |> put b |> put (ewBits e) |> put m |> put (BitVec.ofBool k) |> put 8#5
  | .vandS d a b e m k => 33#32 |> put d |> put a |> put b |> put (ewBits e) |> put m |> put (BitVec.ofBool k) |> put 9#5
  | .vorS d a b e m k => 33#32 |> put d |> put a |> put b |> put (ewBits e) |> put m |> put (BitVec.ofBool k) |> put 10#5
  | .vxorS d a b e m k => 33#32 |> put d |> put a |> put b |> put (ewBits e) |> put m |> put (BitVec.ofBool k) |> put 11#5
  | .vandnS d a b e m k => 33#32 |> put d |> put a |> put b |> put (ewBits e) |> put m |> put (BitVec.ofBool k) |> put 12#5
  | .vsllS d a b e m k => 33#32 |> put d |> put a |> put b |> put (ewBits e) |> put m |> put (BitVec.ofBool k) |> put 13#5
  | .vsrlS d a b e m k => 33#32 |> put d |> put a |> put b |> put (ewBits e) |> put m |> put (BitVec.ofBool k) |> put 14#5
  | .vsraS d a b e m k => 33#32 |> put d |> put a |> put b |> put (ewBits e) |> put m |> put (BitVec.ofBool k) |> put 15#5
  | .vseqS d a b e m k => 33#32 |> put 0#2 |> put d |> put a |> put b |> put (ewBits e) |> put m |> put (BitVec.ofBool k) |> put 16#5
  | .vsltS d a b e m k => 33#32 |> put 0#2 |> put d |> put a |> put b |> put (ewBits e) |> put m |> put (BitVec.ofBool k) |> put 17#5
  | .vsltnS d a b e m k => 33#32 |> put 0#2 |> put d |> put a |> put b |> put (ewBits e) |> put m |> put (BitVec.ofBool k) |> put 18#5
  | .vselS d a b e m k => 33#32 |> put d |> put a |> put b |> put (ewBits e) |> put m |> put (BitVec.ofBool k) |> put 19#5
  | .vaddsS d a b e m k => 33#32 |> put d |> put a |> put b |> put (ewBits e) |> put m |> put (BitVec.ofBool k) |> put 21#5
  | .vsubsS d a b e m k => 33#32 |> put d |> put a |> put b |> put (ewBits e) |> put m |> put (BitVec.ofBool k) |> put 22#5
  | .vaddsnS d a b e m k => 33#32 |> put d |> put a |> put b |> put (ewBits e) |> put m |> put (BitVec.ofBool k) |> put 23#5
  | .vdot4S d a b e m k => 33#32 |> put d |> put a |> put b |> put 0#1 |> put (BitVec.ofBool e) |> put m |> put (BitVec.ofBool k) |> put 24#5
  | .vdot4nS d a b e m k => 33#32 |> put d |> put a |> put b |> put 0#1 |> put (BitVec.ofBool e) |> put m |> put (BitVec.ofBool k) |> put 25#5
  | .vfadd d a b e m k => 34#32 |> put d |> put a |> put b |> put (ewBits e) |> put m |> put (BitVec.ofBool k) |> put 0#5
  | .vfsub d a b e m k => 34#32 |> put d |> put a |> put b |> put (ewBits e) |> put m |> put (BitVec.ofBool k) |> put 1#5
  | .vfmul d a b e m k => 34#32 |> put d |> put a |> put b |> put (ewBits e) |> put m |> put (BitVec.ofBool k) |> put 2#5
  | .vfdiv d a b e m k => 34#32 |> put d |> put a |> put b |> put (ewBits e) |> put m |> put (BitVec.ofBool k) |> put 3#5
  | .vfma d a b e m k => 34#32 |> put d |> put a |> put b |> put (ewBits e) |> put m |> put (BitVec.ofBool k) |> put 4#5
  | .vfms d a b e m k => 34#32 |> put d |> put a |> put b |> put (ewBits e) |> put m |> put (BitVec.ofBool k) |> put 5#5
  | .vfmin d a b e m k => 34#32 |> put d |> put a |> put b |> put (ewBits e) |> put m |> put (BitVec.ofBool k) |> put 6#5
  | .vfmax d a b e m k => 34#32 |> put d |> put a |> put b |> put (ewBits e) |> put m |> put (BitVec.ofBool k) |> put 7#5
  | .vfeq d a b e m k => 34#32 |> put 0#2 |> put d |> put a |> put b |> put (ewBits e) |> put m |> put (BitVec.ofBool k) |> put 8#5
  | .vflt d a b e m k => 34#32 |> put 0#2 |> put d |> put a |> put b |> put (ewBits e) |> put m |> put (BitVec.ofBool k) |> put 9#5
  | .vfle d a b e m k => 34#32 |> put 0#2 |> put d |> put a |> put b |> put (ewBits e) |> put m |> put (BitVec.ofBool k) |> put 10#5
  | .vfsqrt d a e m k => 34#32 |> put d |> put a |> put 0#5 |> put (ewBits e) |> put m |> put (BitVec.ofBool k) |> put 11#5
  | .vfrcp d a e m k => 34#32 |> put d |> put a |> put 0#5 |> put (ewBits e) |> put m |> put (BitVec.ofBool k) |> put 12#5
  | .vfexp2 d a e m k => 34#32 |> put d |> put a |> put 0#5 |> put (ewBits e) |> put m |> put (BitVec.ofBool k) |> put 13#5
  | .vflog2 d a e m k => 34#32 |> put d |> put a |> put 0#5 |> put (ewBits e) |> put m |> put (BitVec.ofBool k) |> put 14#5
  | .vfabs d a e m k => 34#32 |> put d |> put a |> put 0#5 |> put (ewBits e) |> put m |> put (BitVec.ofBool k) |> put 15#5
  | .vfneg d a e m k => 34#32 |> put d |> put a |> put 0#5 |> put (ewBits e) |> put m |> put (BitVec.ofBool k) |> put 16#5
  | .vfclass d a e m k => 34#32 |> put d |> put a |> put 0#5 |> put (ewBits e) |> put m |> put (BitVec.ofBool k) |> put 17#5
  | .vfaddS d a b e m k => 35#32 |> put d |> put a |> put b |> put (ewBits e) |> put m |> put (BitVec.ofBool k) |> put 0#5
  | .vfsubS d a b e m k => 35#32 |> put d |> put a |> put b |> put (ewBits e) |> put m |> put (BitVec.ofBool k) |> put 1#5
  | .vfmulS d a b e m k => 35#32 |> put d |> put a |> put b |> put (ewBits e) |> put m |> put (BitVec.ofBool k) |> put 2#5
  | .vfdivS d a b e m k => 35#32 |> put d |> put a |> put b |> put (ewBits e) |> put m |> put (BitVec.ofBool k) |> put 3#5
  | .vfmaS d a b e m k => 35#32 |> put d |> put a |> put b |> put (ewBits e) |> put m |> put (BitVec.ofBool k) |> put 4#5
  | .vfmsS d a b e m k => 35#32 |> put d |> put a |> put b |> put (ewBits e) |> put m |> put (BitVec.ofBool k) |> put 5#5
  | .vfminS d a b e m k => 35#32 |> put d |> put a |> put b |> put (ewBits e) |> put m |> put (BitVec.ofBool k) |> put 6#5
  | .vfmaxS d a b e m k => 35#32 |> put d |> put a |> put b |> put (ewBits e) |> put m |> put (BitVec.ofBool k) |> put 7#5
  | .vfeqS d a b e m k => 35#32 |> put 0#2 |> put d |> put a |> put b |> put (ewBits e) |> put m |> put (BitVec.ofBool k) |> put 8#5
  | .vfltS d a b e m k => 35#32 |> put 0#2 |> put d |> put a |> put b |> put (ewBits e) |> put m |> put (BitVec.ofBool k) |> put 9#5
  | .vfleS d a b e m k => 35#32 |> put 0#2 |> put d |> put a |> put b |> put (ewBits e) |> put m |> put (BitVec.ofBool k) |> put 10#5
  | .vred d a o e m k => 36#32 |> put d |> put a |> put 0#2 |> put (redBits o) |> put (ewBits e) |> put m |> put (BitVec.ofBool k) |> put 0#5
  | .vscan d a o e m k => 36#32 |> put d |> put a |> put 0#2 |> put (redBits o) |> put (ewBits e) |> put m |> put (BitVec.ofBool k) |> put 1#5
  | .vsort d a e m k => 36#32 |> put d |> put a |> put 0#5 |> put (ewBits e) |> put m |> put (BitVec.ofBool k) |> put 2#5
  | .vperm d a b e m k => 36#32 |> put d |> put a |> put b |> put (ewBits e) |> put m |> put (BitVec.ofBool k) |> put 3#5
  | .vbcast d a e m k => 36#32 |> put d |> put a |> put 0#5 |> put (ewBits e) |> put m |> put (BitVec.ofBool k) |> put 4#5
  | .vext d a b e m k => 36#32 |> put d |> put a |> put b |> put (ewBits e) |> put m |> put (BitVec.ofBool k) |> put 5#5
  | .vins d a b e m k => 36#32 |> put d |> put a |> put b |> put (ewBits e) |> put m |> put (BitVec.ofBool k) |> put 6#5
  | .vcmpr d a e m k => 36#32 |> put d |> put a |> put 0#5 |> put (ewBits e) |> put m |> put (BitVec.ofBool k) |> put 7#5
  | .vexpd d a e m k => 36#32 |> put d |> put a |> put 0#5 |> put (ewBits e) |> put m |> put (BitVec.ofBool k) |> put 8#5
  | .vbmask d a m k => 36#32 |> put 0#2 |> put d |> put a |> put 0#7 |> put m |> put (BitVec.ofBool k) |> put 9#5
  | .vbrank d a e m k => 36#32 |> put d |> put 0#2 |> put a |> put 0#5 |> put (ewBits e) |> put m |> put (BitVec.ofBool k) |> put 10#5
  | .vbpfx d a e m k => 36#32 |> put d |> put a |> put 0#5 |> put (ewBits e) |> put m |> put (BitVec.ofBool k) |> put 11#5
  | .vnz d a e m k => 36#32 |> put 0#2 |> put d |> put a |> put 0#5 |> put (ewBits e) |> put m |> put (BitVec.ofBool k) |> put 12#5
  | .vrand d a b e m k => 36#32 |> put d |> put a |> put b |> put (ewBits e) |> put m |> put (BitVec.ofBool k) |> put 13#5
  | .vcvt d a f e dir k => 36#32 |> put d |> put a |> put f |> put (ewBits e) |> put (BitVec.ofBool dir) |> put 0#2 |> put (BitVec.ofBool k) |> put 14#5
  | .vidx d e m k => 36#32 |> put d |> put 0#10 |> put (ewBits e) |> put m |> put (BitVec.ofBool k) |> put 15#5
  | .vslide d a b e m k => 36#32 |> put d |> put a |> put b |> put (ewBits e) |> put m |> put (BitVec.ofBool k) |> put 16#5
  | .mand d a b m k => 37#32 |> put 0#2 |> put d |> put 0#2 |> put a |> put 0#2 |> put b |> put 0#2 |> put m |> put (BitVec.ofBool k) |> put 0#5
  | .mor d a b m k => 37#32 |> put 0#2 |> put d |> put 0#2 |> put a |> put 0#2 |> put b |> put 0#2 |> put m |> put (BitVec.ofBool k) |> put 1#5
  | .mxor d a b m k => 37#32 |> put 0#2 |> put d |> put 0#2 |> put a |> put 0#2 |> put b |> put 0#2 |> put m |> put (BitVec.ofBool k) |> put 2#5
  | .mandn d a b m k => 37#32 |> put 0#2 |> put d |> put 0#2 |> put a |> put 0#2 |> put b |> put 0#2 |> put m |> put (BitVec.ofBool k) |> put 3#5
  | .mnot d a m k => 37#32 |> put 0#2 |> put d |> put 0#2 |> put a |> put 0#7 |> put m |> put (BitVec.ofBool k) |> put 4#5
  | .mpopc d a k => 37#32 |> put d |> put 0#2 |> put a |> put 0#10 |> put (BitVec.ofBool k) |> put 5#5
  | .mfirst d a k => 37#32 |> put d |> put 0#2 |> put a |> put 0#10 |> put (BitVec.ofBool k) |> put 6#5
  | .mfroms d a b m k => 37#32 |> put 0#2 |> put d |> put a |> put b |> put 0#2 |> put m |> put (BitVec.ofBool k) |> put 7#5
  | .mtos d a b k => 37#32 |> put d |> put 0#2 |> put a |> put b |> put 0#5 |> put (BitVec.ofBool k) |> put 8#5
  | .msetn d a m k => 37#32 |> put 0#2 |> put d |> put a |> put 0#7 |> put m |> put (BitVec.ofBool k) |> put 9#5
  | .vld d a k q o => 38#32 |> put d |> put a |> put (BitVec.ofBool k) |> put (qualBits q) |> put o
  | .vst d a k q o => 39#32 |> put d |> put a |> put (BitVec.ofBool k) |> put (qualBits q) |> put o
  | .vldx d a b e m k => 40#32 |> put d |> put a |> put b |> put (ewBits e) |> put m |> put (BitVec.ofBool k) |> put 0#5
  | .vstx d a b e m k => 40#32 |> put d |> put a |> put b |> put (ewBits e) |> put m |> put (BitVec.ofBool k) |> put 1#5
  | .send a b ka kb => 48#32 |> put 0#3 |> put 0#8 |> put a |> put b |> put (BitVec.ofBool ka) |> put (BitVec.ofBool kb) |> put 0#3
  | .sendr a b ka kb => 48#32 |> put 0#3 |> put 1#8 |> put a |> put b |> put (BitVec.ofBool ka) |> put (BitVec.ofBool kb) |> put 0#3
  | .sendv a b ka kb => 48#32 |> put 0#3 |> put 2#8 |> put a |> put b |> put (BitVec.ofBool ka) |> put (BitVec.ofBool kb) |> put 0#3
  | .reply a b ka kb => 48#32 |> put 0#3 |> put 3#8 |> put a |> put b |> put (BitVec.ofBool ka) |> put (BitVec.ofBool kb) |> put 0#3
  | .mbind a b ka kb => 48#32 |> put 0#3 |> put 4#8 |> put a |> put b |> put (BitVec.ofBool ka) |> put (BitVec.ofBool kb) |> put 0#3
  | .mseal a b ka kb => 48#32 |> put 0#3 |> put 5#8 |> put a |> put b |> put (BitVec.ofBool ka) |> put (BitVec.ofBool kb) |> put 0#3
  | .rankrd a b ka => 48#32 |> put 0#3 |> put 6#8 |> put a |> put b |> put (BitVec.ofBool ka) |> put 0#4
  | .rankwr a b ka kb => 48#32 |> put 0#3 |> put 7#8 |> put a |> put b |> put (BitVec.ofBool ka) |> put (BitVec.ofBool kb) |> put 0#3
  | .rankmv a ka => 48#32 |> put 0#3 |> put 8#8 |> put a |> put 0#5 |> put (BitVec.ofBool ka) |> put 0#4
  | .pjoin a b ka kb => 48#32 |> put 1#3 |> put 0#8 |> put a |> put b |> put (BitVec.ofBool ka) |> put (BitVec.ofBool kb) |> put 0#3
  | .pleave a ka => 48#32 |> put 1#3 |> put 1#8 |> put a |> put 0#5 |> put (BitVec.ofBool ka) |> put 0#4
  | .psig a ka => 48#32 |> put 1#3 |> put 2#8 |> put a |> put 0#5 |> put (BitVec.ofBool ka) |> put 0#4
  | .pwait a b ka => 48#32 |> put 1#3 |> put 3#8 |> put a |> put b |> put (BitVec.ofBool ka) |> put 0#4
  | .psigw a b ka => 48#32 |> put 1#3 |> put 4#8 |> put a |> put b |> put (BitVec.ofBool ka) |> put 0#4
  | .pqry a b ka => 48#32 |> put 1#3 |> put 5#8 |> put a |> put b |> put (BitVec.ofBool ka) |> put 0#4
  | .dqpush a b ka kb => 48#32 |> put 1#3 |> put 6#8 |> put a |> put b |> put (BitVec.ofBool ka) |> put (BitVec.ofBool kb) |> put 0#3
  | .dqpop b => 48#32 |> put 1#3 |> put 7#8 |> put 0#5 |> put b |> put 0#5
  | .dqsplit a ka => 48#32 |> put 1#3 |> put 8#8 |> put a |> put 0#5 |> put (BitVec.ofBool ka) |> put 0#4
  | .dqsteal a b ka => 48#32 |> put 1#3 |> put 9#8 |> put a |> put b |> put (BitVec.ofBool ka) |> put 0#4
  | .gdec a ka => 48#32 |> put 1#3 |> put 10#8 |> put a |> put 0#5 |> put (BitVec.ofBool ka) |> put 0#4
  | .garm a b ka kb => 48#32 |> put 1#3 |> put 11#8 |> put a |> put b |> put (BitVec.ofBool ka) |> put (BitVec.ofBool kb) |> put 0#3
  | .tdead a ka => 48#32 |> put 1#3 |> put 12#8 |> put a |> put 0#5 |> put (BitVec.ofBool ka) |> put 0#4
  | .tclass a ka => 48#32 |> put 1#3 |> put 13#8 |> put a |> put 0#5 |> put (BitVec.ofBool ka) |> put 0#4
  | .thrbind a b ka kb => 48#32 |> put 1#3 |> put 14#8 |> put a |> put b |> put (BitVec.ofBool ka) |> put (BitVec.ofBool kb) |> put 0#3
  | .cpy a b ka kb t => 48#32 |> put 2#3 |> put 0#8 |> put a |> put b |> put (BitVec.ofBool ka) |> put (BitVec.ofBool kb) |> put t
  | .cpym a b ka kb t => 48#32 |> put 2#3 |> put 1#8 |> put a |> put b |> put (BitVec.ofBool ka) |> put (BitVec.ofBool kb) |> put t
  | .cpyg a b ka kb t => 48#32 |> put 2#3 |> put 2#8 |> put a |> put b |> put (BitVec.ofBool ka) |> put (BitVec.ofBool kb) |> put t
  | .strm a b ka kb t => 48#32 |> put 2#3 |> put 3#8 |> put a |> put b |> put (BitVec.ofBool ka) |> put (BitVec.ofBool kb) |> put t
  | .qbind a b ka kb => 48#32 |> put 2#3 |> put 4#8 |> put a |> put b |> put (BitVec.ofBool ka) |> put (BitVec.ofBool kb) |> put 0#3
  | .prel a ka => 48#32 |> put 2#3 |> put 5#8 |> put a |> put 0#5 |> put (BitVec.ofBool ka) |> put 0#4
  | .bufdef a b ka kb => 48#32 |> put 2#3 |> put 6#8 |> put a |> put b |> put (BitVec.ofBool ka) |> put (BitVec.ofBool kb) |> put 0#3
  | .publish a ka => 48#32 |> put 2#3 |> put 7#8 |> put a |> put 0#5 |> put (BitVec.ofBool ka) |> put 0#4
  | .cpoll a b ka kb t => 48#32 |> put 2#3 |> put 8#8 |> put a |> put b |> put (BitVec.ofBool ka) |> put (BitVec.ofBool kb) |> put t
  | .ringeos a ka => 48#32 |> put 2#3 |> put 9#8 |> put a |> put 0#5 |> put (BitVec.ofBool ka) |> put 0#4
  | .mmul a b ka kb t => 48#32 |> put 3#3 |> put 0#8 |> put a |> put b |> put (BitVec.ofBool ka) |> put (BitVec.ofBool kb) |> put t
  | .mzero t => 48#32 |> put 3#3 |> put 1#8 |> put 0#12 |> put t
  | .mdrain a b ka kb t => 48#32 |> put 3#3 |> put 2#8 |> put a |> put b |> put (BitVec.ofBool ka) |> put (BitVec.ofBool kb) |> put t
  | .mopen => 48#32 |> put 3#3 |> put 3#8 |> put 0#15
  | .mclose => 48#32 |> put 3#3 |> put 4#8 |> put 0#15
  | .mctx a ka => 48#32 |> put 3#3 |> put 5#8 |> put a |> put 0#5 |> put (BitVec.ofBool ka) |> put 0#4
  | .mpark => 48#32 |> put 3#3 |> put 6#8 |> put 0#15
  | .munpark => 48#32 |> put 3#3 |> put 7#8 |> put 0#15
  | .sghash a b ka kb => 48#32 |> put 4#3 |> put 0#8 |> put a |> put b |> put (BitVec.ofBool ka) |> put (BitVec.ofBool kb) |> put 0#3
  | .sgroom a ka => 48#32 |> put 4#3 |> put 1#8 |> put a |> put 0#5 |> put (BitVec.ofBool ka) |> put 0#4
  | .sglead a b ka kb => 48#32 |> put 4#3 |> put 2#8 |> put a |> put b |> put (BitVec.ofBool ka) |> put (BitVec.ofBool kb) |> put 0#3
  | .sgscat a b ka kb => 48#32 |> put 4#3 |> put 3#8 |> put a |> put b |> put (BitVec.ofBool ka) |> put (BitVec.ofBool kb) |> put 0#3
  | .sgsum a b ka kb => 48#32 |> put 4#3 |> put 4#8 |> put a |> put b |> put (BitVec.ofBool ka) |> put (BitVec.ofBool kb) |> put 0#3
  | .sgsel a b ka kb => 48#32 |> put 4#3 |> put 5#8 |> put a |> put b |> put (BitVec.ofBool ka) |> put (BitVec.ofBool kb) |> put 0#3
  | .xdef a b ka kb => 48#32 |> put 5#3 |> put 0#8 |> put a |> put b |> put (BitVec.ofBool ka) |> put (BitVec.ofBool kb) |> put 0#3
  | .xset a b ka kb => 48#32 |> put 5#3 |> put 1#8 |> put a |> put b |> put (BitVec.ofBool ka) |> put (BitVec.ofBool kb) |> put 0#3
  | .xnext a ka => 48#32 |> put 5#3 |> put 2#8 |> put a |> put 0#5 |> put (BitVec.ofBool ka) |> put 0#4
  | .xpost a ka => 48#32 |> put 5#3 |> put 3#8 |> put a |> put 0#5 |> put (BitVec.ofBool ka) |> put 0#4
  | .xpop b => 48#32 |> put 5#3 |> put 4#8 |> put 0#5 |> put b |> put 0#5
  | .xcurf a ka => 48#32 |> put 5#3 |> put 5#8 |> put a |> put 0#5 |> put (BitVec.ofBool ka) |> put 0#4
  | .xdep a b ka kb => 48#32 |> put 5#3 |> put 6#8 |> put a |> put b |> put (BitVec.ofBool ka) |> put (BitVec.ofBool kb) |> put 0#3
  | .xsamp a b ka kb => 48#32 |> put 5#3 |> put 7#8 |> put a |> put b |> put (BitVec.ofBool ka) |> put (BitVec.ofBool kb) |> put 0#3
  | .xbudg a b ka kb => 48#32 |> put 5#3 |> put 8#8 |> put a |> put b |> put (BitVec.ofBool ka) |> put (BitVec.ofBool kb) |> put 0#3
  | .ecfg a b ka kb => 48#32 |> put 7#3 |> put 0#8 |> put a |> put b |> put (BitVec.ofBool ka) |> put (BitVec.ofBool kb) |> put 0#3
  | .erd a b ka => 48#32 |> put 7#3 |> put 1#8 |> put a |> put b |> put (BitVec.ofBool ka) |> put 0#4
  | .edrain a ka => 48#32 |> put 7#3 |> put 2#8 |> put a |> put 0#5 |> put (BitVec.ofBool ka) |> put 0#4
  | .amadd d a b ka kb w aq rl => 49#32 |> put d |> put a |> put b |> put (BitVec.ofBool ka) |> put (BitVec.ofBool kb) |> put 0#1 |> put (BitVec.ofBool w) |> put (BitVec.ofBool aq) |> put (BitVec.ofBool rl) |> put 0#5
  | .amand d a b ka kb w aq rl => 49#32 |> put d |> put a |> put b |> put (BitVec.ofBool ka) |> put (BitVec.ofBool kb) |> put 0#1 |> put (BitVec.ofBool w) |> put (BitVec.ofBool aq) |> put (BitVec.ofBool rl) |> put 1#5
  | .amor d a b ka kb w aq rl => 49#32 |> put d |> put a |> put b |> put (BitVec.ofBool ka) |> put (BitVec.ofBool kb) |> put 0#1 |> put (BitVec.ofBool w) |> put (BitVec.ofBool aq) |> put (BitVec.ofBool rl) |> put 2#5
  | .amxor d a b ka kb w aq rl => 49#32 |> put d |> put a |> put b |> put (BitVec.ofBool ka) |> put (BitVec.ofBool kb) |> put 0#1 |> put (BitVec.ofBool w) |> put (BitVec.ofBool aq) |> put (BitVec.ofBool rl) |> put 3#5
  | .ammin d a b ka kb w aq rl => 49#32 |> put d |> put a |> put b |> put (BitVec.ofBool ka) |> put (BitVec.ofBool kb) |> put 0#1 |> put (BitVec.ofBool w) |> put (BitVec.ofBool aq) |> put (BitVec.ofBool rl) |> put 4#5
  | .ammax d a b ka kb w aq rl => 49#32 |> put d |> put a |> put b |> put (BitVec.ofBool ka) |> put (BitVec.ofBool kb) |> put 0#1 |> put (BitVec.ofBool w) |> put (BitVec.ofBool aq) |> put (BitVec.ofBool rl) |> put 5#5
  | .amminn d a b ka kb w aq rl => 49#32 |> put d |> put a |> put b |> put (BitVec.ofBool ka) |> put (BitVec.ofBool kb) |> put 0#1 |> put (BitVec.ofBool w) |> put (BitVec.ofBool aq) |> put (BitVec.ofBool rl) |> put 6#5
  | .ammaxn d a b ka kb w aq rl => 49#32 |> put d |> put a |> put b |> put (BitVec.ofBool ka) |> put (BitVec.ofBool kb) |> put 0#1 |> put (BitVec.ofBool w) |> put (BitVec.ofBool aq) |> put (BitVec.ofBool rl) |> put 7#5
  | .amswp d a b ka kb w aq rl => 49#32 |> put d |> put a |> put b |> put (BitVec.ofBool ka) |> put (BitVec.ofBool kb) |> put 0#1 |> put (BitVec.ofBool w) |> put (BitVec.ofBool aq) |> put (BitVec.ofBool rl) |> put 8#5
  | .amcas d a b ka kb w aq rl => 49#32 |> put d |> put a |> put b |> put (BitVec.ofBool ka) |> put (BitVec.ofBool kb) |> put 0#1 |> put (BitVec.ofBool w) |> put (BitVec.ofBool aq) |> put (BitVec.ofBool rl) |> put 9#5
  | .amfadd d a b ka kb w aq rl => 49#32 |> put d |> put a |> put b |> put (BitVec.ofBool ka) |> put (BitVec.ofBool kb) |> put 0#1 |> put (BitVec.ofBool w) |> put (BitVec.ofBool aq) |> put (BitVec.ofBool rl) |> put 10#5
  | .amfmin d a b ka kb w aq rl => 49#32 |> put d |> put a |> put b |> put (BitVec.ofBool ka) |> put (BitVec.ofBool kb) |> put 0#1 |> put (BitVec.ofBool w) |> put (BitVec.ofBool aq) |> put (BitVec.ofBool rl) |> put 11#5
  | .amfmax d a b ka kb w aq rl => 49#32 |> put d |> put a |> put b |> put (BitVec.ofBool ka) |> put (BitVec.ofBool kb) |> put 0#1 |> put (BitVec.ofBool w) |> put (BitVec.ofBool aq) |> put (BitVec.ofBool rl) |> put 12#5
  | .redadd a b ka kb w rl => 49#32 |> put 0#5 |> put a |> put b |> put (BitVec.ofBool ka) |> put (BitVec.ofBool kb) |> put 0#1 |> put (BitVec.ofBool w) |> put 0#1 |> put (BitVec.ofBool rl) |> put 16#5
  | .redand a b ka kb w rl => 49#32 |> put 0#5 |> put a |> put b |> put (BitVec.ofBool ka) |> put (BitVec.ofBool kb) |> put 0#1 |> put (BitVec.ofBool w) |> put 0#1 |> put (BitVec.ofBool rl) |> put 17#5
  | .redor a b ka kb w rl => 49#32 |> put 0#5 |> put a |> put b |> put (BitVec.ofBool ka) |> put (BitVec.ofBool kb) |> put 0#1 |> put (BitVec.ofBool w) |> put 0#1 |> put (BitVec.ofBool rl) |> put 18#5
  | .redxor a b ka kb w rl => 49#32 |> put 0#5 |> put a |> put b |> put (BitVec.ofBool ka) |> put (BitVec.ofBool kb) |> put 0#1 |> put (BitVec.ofBool w) |> put 0#1 |> put (BitVec.ofBool rl) |> put 19#5
  | .redmin a b ka kb w rl => 49#32 |> put 0#5 |> put a |> put b |> put (BitVec.ofBool ka) |> put (BitVec.ofBool kb) |> put 0#1 |> put (BitVec.ofBool w) |> put 0#1 |> put (BitVec.ofBool rl) |> put 20#5
  | .redmax a b ka kb w rl => 49#32 |> put 0#5 |> put a |> put b |> put (BitVec.ofBool ka) |> put (BitVec.ofBool kb) |> put 0#1 |> put (BitVec.ofBool w) |> put 0#1 |> put (BitVec.ofBool rl) |> put 21#5
  | .redminn a b ka kb w rl => 49#32 |> put 0#5 |> put a |> put b |> put (BitVec.ofBool ka) |> put (BitVec.ofBool kb) |> put 0#1 |> put (BitVec.ofBool w) |> put 0#1 |> put (BitVec.ofBool rl) |> put 22#5
  | .redmaxn a b ka kb w rl => 49#32 |> put 0#5 |> put a |> put b |> put (BitVec.ofBool ka) |> put (BitVec.ofBool kb) |> put 0#1 |> put (BitVec.ofBool w) |> put 0#1 |> put (BitVec.ofBool rl) |> put 23#5
  | .redfadd a b ka kb w rl => 49#32 |> put 0#5 |> put a |> put b |> put (BitVec.ofBool ka) |> put (BitVec.ofBool kb) |> put 0#1 |> put (BitVec.ofBool w) |> put 0#1 |> put (BitVec.ofBool rl) |> put 26#5
  | .redfmin a b ka kb w rl => 49#32 |> put 0#5 |> put a |> put b |> put (BitVec.ofBool ka) |> put (BitVec.ofBool kb) |> put 0#1 |> put (BitVec.ofBool w) |> put 0#1 |> put (BitVec.ofBool rl) |> put 27#5
  | .redfmax a b ka kb w rl => 49#32 |> put 0#5 |> put a |> put b |> put (BitVec.ofBool ka) |> put (BitVec.ofBool kb) |> put 0#1 |> put (BitVec.ofBool w) |> put 0#1 |> put (BitVec.ofBool rl) |> put 28#5
  | .fence kind scope => 50#32 |> put 0#8 |> put (kindBits kind) |> put 0#2 |> put (scopeBits scope) |> put 0#2 |> put 0#9
  | .tend => 50#32 |> put 0#17 |> put 1#9
  | .tret => 50#32 |> put 0#17 |> put 2#9
  | .trap c => 50#32 |> put 0#5 |> put c |> put 0#2 |> put 3#9
  | .crr d c => 50#32 |> put d |> put c |> put 0#2 |> put 4#9
  | .crw d c => 50#32 |> put d |> put c |> put 0#2 |> put 5#9
  | .crs d c => 50#32 |> put d |> put c |> put 0#2 |> put 6#9
  | .crc d c => 50#32 |> put d |> put c |> put 0#2 |> put 7#9
  | .sete d => 50#32 |> put d |> put 0#12 |> put 8#9
  | .tstf d a => 50#32 |> put d |> put a |> put 0#7 |> put 9#9
  | .winbeg => 50#32 |> put 0#17 |> put 10#9
  | .winend => 50#32 |> put 0#17 |> put 11#9
  | .brk c => 50#32 |> put 0#5 |> put c |> put 0#2 |> put 12#9
  | .cflush a ka => 50#32 |> put 0#5 |> put a |> put 0#5 |> put (BitVec.ofBool ka) |> put 0#1 |> put 13#9
  | .cinvLine a ka => 50#32 |> put 0#5 |> put a |> put 0#5 |> put (BitVec.ofBool ka) |> put 0#1 |> put 14#9
  | .cinvL1 => 50#32 |> put 4#17 |> put 14#9
  | .cinvIcache => 50#32 |> put 8#17 |> put 14#9
  | .pref a hint ka => 50#32 |> put 0#5 |> put a |> put 0#3 |> put (hintBits hint) |> put (BitVec.ofBool ka) |> put 0#1 |> put 15#9
  | .migr a b ka kb => 50#32 |> put 0#5 |> put a |> put b |> put (BitVec.ofBool ka) |> put (BitVec.ofBool kb) |> put 16#9
  | .errrd d a ka => 50#32 |> put d |> put a |> put 0#5 |> put (BitVec.ofBool ka) |> put 0#1 |> put 17#9
  | .errclr a ka => 50#32 |> put 0#5 |> put a |> put 0#5 |> put (BitVec.ofBool ka) |> put 0#1 |> put 18#9
  | .nop => 50#32 |> put 0#17 |> put 19#9
  | .sigchk s => 51#32 |> put 0#11 |> put s
  | .accessAtHome _ => 0#32
  | .loadLands _ _ => 0#32
  | .l1FillArrives _ => 0#32
  | .translate _ => 0#32
  | .pageRetry _ => 0#32
  | .cxlRequestTimeout _ => 0#32
  | .recall _ _ => 0#32
  | .writeBackArrives _ _ _ _ => 0#32
  | .uncorrectableError _ => 0#32
  | .coreStateError _ => 0#32
  | .messageArrival _ => 0#32
  | .launch _ => 0#32
  | .urgentLaunch _ => 0#32
  | .urgentRun _ => 0#32
  | .maskwinExpiry _ _ => 0#32
  | .deadlineExpiry _ _ => 0#32
  | .layoutTakesEffect _ => 0#32
  | .thresholdFire _ _ _ _ => 0#32
  | .phaserOpAtHome _ => 0#32
  | .epRaise _ => 0#32
  | .stealAtVictim _ => 0#32
  | .stealAttempt _ => 0#32
  | .counterDecrement _ _ _ _ => 0#32
  | .garmAtHome _ _ _ _ _ _ _ => 0#32
  | .dispatcherLaunch _ => 0#32
  | .gangPlace _ => 0#32
  | .pipePreempt _ => 0#32
  | .ringPush _ => 0#32
  | .ringPop _ => 0#32
  | .streamFetch _ _ => 0#32
  | .copyPerform _ _ => 0#32
  | .copyComplete _ _ => 0#32
  | .publishExchange _ _ => 0#32
  | .mtxCommandPerform _ _ => 0#32
  | .sigCommandPerform _ => 0#32
  | .remoteElementAccess _ => 0#32
  | .crossingDelivery _ => 0#32
  | .migrationStart _ _ _ _ _ => 0#32
  | .migrationCopy _ _ => 0#32
  | .tinv _ _ => 0#32
  | .frcl _ _ => 0#32
  | .tsync _ _ => 0#32
  | .classcfgWrite _ _ _ => 0#32
  | .heartbeatSend _ => 0#32
  | .heartbeatReceived _ _ _ => 0#32
  | .voteReceived _ _ _ _ _ => 0#32
  | .periodEnd _ => 0#32
  | .shutterRestart _ => 0#32
  | .returnServe _ _ => 0#32
  | .selfTestDone _ _ => 0#32
  | .relayStepReceived _ => 0#32
  | .relayStepFail _ _ _ => 0#32
  | .relayAckTimeout _ _ _ => 0#32
  | .inboundRecord _ _ => 0#32
  | .journalReplay _ => 0#32
  | .partReset _ => 0#32
  | .throttle _ _ => 0#32
  | .thermalReset _ => 0#32
  | .claim _ _ => 0#32
  | .electionEnd => 0#32
  | .handoverGive _ _ => 0#32
  | .handoverRelease _ => 0#32
  | .masterPathDown _ => 0#32
  | .fnmodeset _ _ => 0#32
  | .powerOn _ => 0#32
  | .debugHalt _ => 0#32
  | .debugResume _ => 0#32
  | .l1cfgApply _ => 0#32
  | .bfmtWrite _ _ _ => 0#32
  | .pcntWrite _ _ _ => 0#32
  | .thrWrite _ _ _ => 0#32
  | .waymaskWrite _ _ _ => 0#32
  | .tenantWrite _ _ => 0#32
  | .fpendDiscard _ => 0#32
  | .shutForce _ => 0#32
  | .shutTest _ => 0#32
  | .handlerTableInstall _ _ => 0#32
  | .registerWrite _ _ => 0#32
  | .powerGating _ => 0#32
  | .appealAgeing _ => 0#32
  | .relayStepAcknowledged _ _ _ => 0#32
  | .linkFlitResend _ => 0#32
  | .ringRegistration _ => 0#32
  | .ringeosAtHome _ => 0#32

/-- The four bytes at an address, little-endian (R3, R42), as one word. -/
def wordOfBytes (b0 b1 b2 b3 : Byte) : BitVec 32 := b3 ++ b2 ++ b1 ++ b0

/-- The four bytes of a word, lowest address first (R42). -/
def bytesOfWord (w : BitVec 32) : List Byte :=
  [w.extractLsb' 0 8, w.extractLsb' 8 8, w.extractLsb' 16 8, w.extractLsb' 24 8]

/-- Decoding from bytes in memory order. -/
def decodeBytes : List Byte → Option Instr
  | [b0, b1, b2, b3] => decode (wordOfBytes b0 b1 b2 b3)
  | _ => none

/-- The instruction of a table word: every instruction is one 32-bit word, so only its low 32 bits count, laid out as
the hardware stores them and given to the decoder. A row without a word has no bits and no decoding. -/
def decodeTableWord (nbits w : Nat) : Option Instr :=
  if nbits = 0 then none else decodeBytes (bytesOfWord (BitVec.ofNat 32 w))

end

end Sys2Proof
end

