-- ==== Sys2Proof/Machine/Schedule.lean ====
section
/-! DEFINITION. Which part of the module moves next: the order the network keeps (R92, R336), readiness and the choice of
a slot (R20, R300), what precedes an issue (R34, R39, R99, R160), and the passing of time (R5). The choices the spec
leaves open are plain data: `State.schedule`. -/
namespace Sys2Proof.Machine
noncomputable section

/-! ## Order on the way (R92, R317, R336, R337) -/

/-- A home as a number list. -/
def placeKey : Place → List Nat
  | .pool st _ => [0, st]
  | .spad cl _ => [1, cl]
  | .commons d _ => [2, d]
  | .far _ => [3]
  | .stationWindow st _ => [0, st]
  | .sliceWindow _ => [5]

/-- A holder as a number list. -/
def whoKey (w : Who) : List Nat := [w.st, (coreIx w.core).val]

/-- The way of requests of mesh class 1 from a station to a home. -/
def requestWay (st : Nat) (home : List Nat) : List Nat := 1 :: st :: home

/-- The way of active messages of mesh class 3 from one station to another. -/
def messageWay (st dst : Nat) : List Nat := [3, st, dst]

/-- The order in which a holder's near accesses are performed at a home (R337). -/
def homeOrder (p : AccPart) : List Nat := 20 :: whoKey p.acc.who ++ placeKey p.place

/-- The way of a near access: to its home, and there in its holder's order. One that waits at its bank for a format has arrived. -/
def nearWays (p : AccPart) : List (List Nat) :=
  if p.acc.eng != 2 && p.sent then [homeOrder p] else [requestWay p.acc.who.st (placeKey p.place), homeOrder p]

/-- The ordered ways a step travels in; none for a step that no rule orders against others. What one station sends to one
destination in one mesh class keeps its order (R336); a step that has not left its station keeps the order of its holder. -/
def channels : Instr → List (List Nat)
  | .translate p => [[0, transSlice (p.addr.toNat % 2 ^ 52) p.acc.asn, p.acc.who.st]]
  | .accessAtHome p =>
    match p.place with
    | .far _ => [[21, homeSlice (p.pa.getD 0), p.acc.who.st]]
    | _ => if p.acc.eng = 2 && !p.sent then [[17, p.acc.who.st, p.acc.op]] else nearWays p
  | .remoteElementAccess (p :: _) =>
    match p.place with
    | .pool st _ => [messageWay p.acc.who.st st, homeOrder p]
    | _ => [homeOrder p]
  | .tsync w _ => [requestWay w.st [5]]
  | .messageArrival m =>
    if m.why != 0 then [[22, hdrDest m.header, m.dst]]
    else
      let urg := m.header.getLsbD 35
      match m.source with
      | .task w _ => [if !m.left then [15, w.st] else if urg then [16, w.st, m.dst] else messageWay w.st m.dst]
      | .dispatcher d => [[4, d, m.dst, if urg then 1 else 0]]
      | .host l => [[5, l, m.dst, if urg then 1 else 0]]
      | _ => []
  | .crossingDelivery d => [messageWay d.who.st d.dst]
  | .phaserOpAtHome o => [if o.sent then requestWay o.who.st [0, o.home] else 6 :: whoKey o.who ++ [o.home]]
  | .stealAtVictim x => [requestWay x.thief [0, x.victim]]
  | .counterDecrement id _ src after | .garmAtHome id _ _ _ _ src after =>
    match unsentOf after with
    | some i => [14 :: whoKey i.who]
    | none => [requestWay src [2, ctrDie id]]
  | .ringPush r | .ringPop r => [requestWay r.who.st [2, r.die]]
  | .ringRegistration r | .ringeosAtHome r => [if r.sent then requestWay r.who.st [2, r.die] else 9 :: whoKey r.who ++ [r.die, r.desc]]
  | .heartbeatReceived st dir _ => [[24, dir, st]]
  | .writeBackArrives st line _ _ => [[11, st, line]]
  | .l1FillArrives p => [[12, p.acc.who.st, p.addr.toNat / 128]]
  | _ => []

/-- The places in the agenda of the steps that may take place now: due, and first in all their ways. -/
def eligibleFrom (now : Nat) : List Timed → Nat → List (List Nat) → List Nat
  | [], _, _ => []
  | t :: r, i, seen =>
    let ks := channels t.ev
    let rest := eligibleFrom now r (i + 1) (ks ++ seen)
    if t.due ≤ now && ks.all (fun k => !seen.contains k) then i :: rest else rest

/-- What may move. -/
inductive Move where
  | event (i : Nat)
  | compute (st : Nat)
  | core (w : Who)
deriving DecidableEq, Repr, Inhabited

/-- Whether a station's cores may issue (R311, R364, R437). -/
def State.stationRuns (s : State) (st : Nat) : Bool :=
  let x := s.station st
  s.boot == .running && !x.shut && !x.gated && !x.halted && !(s.die (dieOf st)).inReset

/-- Whether a holder may have a turn: it runs, or it is parked and has withdrawn instructions to issue again (R34, R159). -/
def Holder.mayMove (h : Holder) : Bool := h.state == .run || (h.state == .parked && !h.reissue.isEmpty)

/-- The cores of a station that hold running work. -/
def State.movesOf (s : State) (st : Nat) (x : Station) : List Move :=
  if !s.stationRuns st then []
  else
    let runs (c : Core) : Bool := x.cores[coreIx c].mayMove
    (if taskCores.any runs then [Move.compute st] else []) ++
    ([Core.loader, .storer, .keeper].filter runs).map (fun c => Move.core { st := st, core := c })

/-- Everything that may move now: steps of the agenda, then cores. -/
def State.moves (s : State) : List Move :=
  (eligibleFrom s.now s.agenda 0 []).map Move.event ++ (s.stations.map (fun e => s.movesOf e.1 e.2)).flatten

/-! ## One holder's turn -/

/-- What a turn comes to: an issue, a move that is no issue, or nothing. -/
inductive Turned where
  | issued (o : Out)
  | moved (s : State)
  | waits

/-- An outcome that waits is no turn. -/
def Turned.of (o : Out) : Turned :=
  match o with
  | .next t => if t.waits then .waits else .issued o
  | _ => .issued o

/-- Whether a holder's deadline has come (R172) or its window has been open too long (R160). -/
def State.overdue (s : State) (w : Who) : Bool :=
  let h := s.holder (s.worksFor w)
  decide (h.deadl.toNat ≤ s.now) ||
  (match (s.holder w).window with
   | some o => decide (o + 512 ≤ s.clock (dieOf w.st))
   | none => false)

/-- Registers that wait for one issue number wait for another. -/
def renameS (o n : Nat) (v : Vector SReg 32) : Vector SReg 32 :=
  v.map (fun r => if r.avail = .pending o then { r with avail := .pending n } else r)
def renameV (o n : Nat) (v : Vector VReg 32) : Vector VReg 32 :=
  v.map (fun r => if r.avail = .pending o then { r with avail := .pending n } else r)

/-- A record whose snapshot waits for an instruction that has a new issue number. -/
def Unsettled.renamed (u : Unsettled) (o n : Nat) : Unsettled :=
  { u with snap := { u.snap with s := renameS o n u.snap.s, v := renameV o n u.snap.v } }

/-- A withdrawn producer issues again (R34): its record with a new issue number, and its parts. -/
def State.reissueOne (s : State) (w : Who) (u : Unsettled) (ps : List AccPart) : State :=
  let h := s.holder w
  let back := u.left == 0
  let u' : Unsettled := { u with op := s.ops, left := ps.length, parked := 0, trap := if back then u.trap else none }
  let names := destsOf u.kind
  let h1 := names.foldl (fun (h : Holder) n => h.setAvail n (.pending s.ops)) { h with
    unsettled := h.unsettled ++ [u'], acquire := if h.acquire = some u.op then some s.ops else h.acquire,
    reissue := h.reissue.map (fun e => (e.1.renamed u.op s.ops, e.2)) }
  let s1 := if back then s.later (.loadLands w s.ops) else s
  ((s1.setHolder w h1).bump).startParts (ps.map (fun p =>
    { p with acc := { s.accessOf w s.ops u.pc p.acc.eng with ceil := p.acc.ceil, tries := p.acc.tries },
             attempt := 0, pa := none, line := 0, held := false, again := false, sent := false, place := s.placeOf w p.addr.toNat }))

/-- The first withdrawn producer of a holder issues again (R34). A holder that the halt found PARKED runs once the last has, unless an
access of it is parked again (R159). -/
def State.reissueNext (s : State) (w : Who) (u : Unsettled) (ps : List AccPart) (rest : List (Unsettled × List AccPart)) : State :=
  let t := (s.setHolder w { s.holder w with reissue := rest }).reissueOne w u ps
  if rest.isEmpty && (s.holder w).state == .parked then t.runsAgain w else t

/-- One holder's turn (R20, R43): a reissue, a trap that waits for it, or the fetch, the decoding and the issue of its
next instruction. -/
def State.holderTurn (run : Instr → State → Out) (s : State) (w : Who) : Turned :=
  let h := s.holder w
  if !h.mayMove || h.heldTrap.isSome || s.overdue w then .waits
  else
    match h.reissue with
    | (u, ps) :: rest => .moved (s.reissueNext w u ps rest)
    | [] =>
      match h.asyncTrap with
      | (t, src) :: rest =>
        if h.unsettled.isEmpty then
          .issued (.next ((s.setHolder w { h with asyncTrap := rest }).takeTrap w h.pc t src))
        else .waits
      | [] =>
        match s.fetch w with
        | .wait => .waits
        | .sent t => .moved t
        | .trap t => .issued (.next ({ s with cur := w }.trapNow t))
        | .word ir t =>
          let t1 : State := { (t.modHolder w (fun k => { k with ir := ir, badRestore := false })) with cur := w, waits := false }
          match (if h.badRestore then none else decode ir) with
          | none => Turned.of (.next (t1.trapNow (illegalOf t1.me)))
          | some i => Turned.of (run i t1)

/-- The round-robin order after slot n has issued (R20). -/
def State.afterIssue (s : State) (w : Who) : State :=
  match w.core with
  | .slot0 | .slot1 | .slot2 | .slot3 => s.modStation w.st (fun x => { x with order := (slotNumber w.core + 1) % 4 })
  | _ => s

/-- The first holder of a list that does not wait has its turn; none when all wait. -/
def State.firstTurn (run : Instr → State → Out) (s : State) : List Who → Option Out
  | [] => none
  | w :: r =>
    match s.holderTurn run w with
    | .waits => s.firstTurn run r
    | .moved t => some (.next t)
    | .issued (.next t) => some (.next (t.afterIssue w))
    | .issued o => some o

/-- The compute core's cycle (R20, R300): the urgent bank, else the slots in round-robin order; no slot while the bank's
window is open. -/
def State.computeTurn (run : Instr → State → Out) (s : State) (st : Nat) : Option Out :=
  let x := s.station st
  let u : Who := { st := st, core := .urgent }
  let slots := (List.range 4).map (fun k => ({ st := st, core := slotOf ((x.order + k) % 4) } : Who))
  s.firstTurn run (if (s.holder u).window.isSome then [u] else u :: slots)

/-! ## Time (R5, R175, R299) -/

/-- Whether a holder waits on an empty ring (R175): its turn waits, and would not if the rings it reads that hold no entry had one. -/
def State.waitsOnRing (run : Instr → State → Out) (s : State) (w : Who) : Bool :=
  let none_ (die desc : Nat) : Bool :=
    let r := (s.die die).ring desc
    r.returned.isEmpty && decide (s.ringTail die desc ≤ s.ringHead die desc + r.handed)
  let empty (b : PortBinding) : Bool := !b.out && !b.ended && b.held.isEmpty && (match b.target with
    | .ring die desc _ => none_ die desc
    | _ => false)
  let waits (s : State) : Bool := match s.holderTurn run w with | .waits => true | _ => false
  (s.holder w).ports.any empty && (s.holder w).state == .run && waits s &&
  !waits (s.modHolder w (fun h => { h with ports := h.ports.map (fun b =>
    if empty b then { b with held := [{ idx := 0, val := 0, trap := none }] } else b) }))

/-- The stations with a consumer that waits on an empty ring. -/
def State.ringWaiters (run : Instr → State → Out) (s : State) : List Nat :=
  (s.stations.filter (fun e => (taskCores ++ [Core.loader, .storer]).any (fun c =>
    s.waitsOnRing run { st := e.1, core := c }))).map (·.1)

/-- The writes of a station's output streams go out as far as their order allows (R238). -/
def State.pumpStation (s : State) (st : Nat) : State :=
  ((taskCores ++ [Core.loader, .storer, .keeper]).filter (fun c =>
    (s.holder { st := st, core := c }).stores.any (fun o => !o.queued.isEmpty))).foldl (fun s c => s.pump { st := st, core := c }) s

/-- The gauge of the die temperature in every cycle that has passed (R175, R176). -/
def State.heatPassed (s : State) (st t n : Nat) : State :=
  if (s.station st).thresholds.any (fun e => bitsOf e.2.sel 63 56 == 0x22) then
    (span (t + 1) n).foldl (fun u k => u.gauge st 0x22 (Config.dieTemp (dieOf st) k)) s
  else s

/-- Package time passes: the late writes that are due take effect, the cycle events count station cycles (R5), those of the
stations `ws` as cycles of waiting on a ring, the temperature is gauged, idle stations are noted (R181), output streams go on, and
notices go out. -/
def State.tick (s : State) (n : Nat) (ws : List Nat) : State :=
  let t : State := { s with now := s.now + n }
  State.sendNotices <| s.stations.foldl (fun u e =>
    let edges := t.clock (dieOf e.1) - s.clock (dieOf e.1)
    let u0 := u.pumpStation e.1
    if e.1 < 8192 then
      let u1 := u0.modStation e.1 (fun x => x.applyLate (t.clock (dieOf e.1)))
      let u2 := (u1.countEvent e.1 0x01 edges).heatPassed e.1 s.now n
      (if ws.contains e.1 then u2.countEvent e.1 0x21 edges else u2).idleSince e.1 (t.clock (dieOf e.1))
    else u0) t

/-! ## One step -/

/-- The agenda without the step at a place. -/
def dropAt (l : List Timed) (i : Nat) : List Timed := l.take i ++ l.drop (i + 1)

/-- One move is made; none where it waits. -/
def State.makeMove (run : Instr → State → Out) (s : State) (m : Move) : Option Out :=
  match m with
  | .event i =>
    match s.agenda[i]? with
    | none => none
    | some t =>
      match run t.ev { s with agenda := dropAt s.agenda i, waits := false } with
      | .next u => if u.waits then none else some (.next u)
      | o => some o
  | .compute st => s.computeTurn run st
  | .core w => s.firstTurn run [w]

/-- The next choice of the order, and the choices after it. Where the list is used up, each candidate has its turn as time
goes on, one cycle at a time. -/
def State.turn (s : State) : Turn × List Turn :=
  match s.schedule with
  | t :: r => (t, r)
  | [] => ({ pick := s.now, cycles := 1 }, [])

/-- One step of the module: a candidate moves, the dispatchers see what it wrote to their counters (R171), and time passes. A
candidate that waits changes nothing. -/
def stepWith (run : Instr → State → Out) (s : State) : Out :=
  let (t, rest) := s.turn
  let s0 : State := { s with schedule := rest, waits := false, silent := t.silent, absent := t.absent }
  let pass (u : State) : Out := .next (u.tick t.cycles (u.ringWaiters run))
  let ms := s0.moves
  match ms[t.pick % ms.length]? with
  | none => pass s0
  | some m =>
    match s0.makeMove run m with
    | none => pass s0
    | some (.next u) => pass (u.watchCounters s0)
    | some o => o

/-! ## A program in place of a load -/

/-- The state in which station 0's slot 0 runs at the start of its TCM and the bytes there are those of one instruction:
the one thing that may move. -/
def State.placeWord (s : State) (nbits w : Nat) : State :=
  let s1 := s.modStation 0 (fun x =>
    { x with order := 0, app1 := 6, app2 := 30, app3 := 46, windows := [], icache := [], shut := false, gated := false,
             halted := false })
  let s2 := s1.modHolder { st := 0, core := .urgent } (fun h => { h with state := .free, window := none })
  let s3 := s2.modHolder { st := 0, core := .slot0 } (fun h =>
    { h with state := .run, pc := BitVec.ofNat 64 Config.testPc, deadl := 0xFFFF_FFFF_FFFF_FFFF#64, window := none,
             heldTrap := none, asyncTrap := [], badRestore := false, reissue := [], unsettled := [], acquire := none,
             releases := [], waiting := false })
  let s4 := s3.modDie 0 (fun d => { d with inReset := false })
  let at_ := Config.poolAt 0 + Config.testPc
  { s4 with
    mem := memWrite s4.mem at_ (leBytes (w % 2 ^ nbits) 4),
    poison := setDel (at_ / Config.lineSize) s4.poison,
    boot := .running, agenda := [], schedule := [{ pick := 0, cycles := 1 }] }

end
end Sys2Proof.Machine
end

