-- ==== Sys2Proof/Machine/Step.lean ====
section
/-! DEFINITION. One step of the module, and the placing of one instruction word. -/
namespace Sys2Proof.Machine

/-- One step: the next move of `State.schedule` is made (Sys2Proof/Machine/Schedule.lean). -/
noncomputable def step (s : State) : Host.Outcome State Fault Refusal := stepWith exec s

/-- The state in which the next step fetches and runs the instruction of these bits. -/
def State.withFetchWord (s : State) (nbits w : Nat) : State := s.placeWord nbits w

end Sys2Proof.Machine
end

