-- ==== Sys2Proof/Safety.lean ====
section
/-! DEFINITION. What counts as a safe run: no step ends in a fault or a refusal. And the terms in which claims about one
instruction are made: when it is ready, the state it leaves, and the rounding of a real number. -/
namespace Sys2Proof

/-- An outcome in which the module goes on. -/
def goesOn (o : Host.Outcome Machine.State Machine.Fault Machine.Refusal) : Prop := ∃ t, o = .next t

/-- The module goes on for `n` steps from a state. -/
def safeFor : Nat → Machine.State → Prop
  | 0, _ => True
  | n + 1, s => ∃ t, Machine.step s = .next t ∧ safeFor n t

namespace Machine

/-- A check that goes on. -/
def Res.goes {α : Type} (r : Res α) : Bool := match r with | .go _ => true | _ => false

/-- Whether the instruction of the holder `State.cur` is READY (R24, R25, R43, R47, R90, R189, R340, R341): the holder
exists, its core has the instruction, nothing holds the instruction back, every source it names is full and every
destination can be written. -/
def State.ready (s : State) (c : IssueClass) (u : Uses) : Bool :=
  whoExists s.cur && (!isBase s.cur.core || c.base) && !s.me.holds c && (s.checkSrcs s.cur u.srcs).goes &&
  (s.checkDsts s.cur u.dsts).goes

/-- The sources of an instruction popped (R25), a scalar result written (R24, R48), and the boundary that follows (R97). -/
def State.wrote (s : State) (srcs : List (RegName × Bool)) (d : Reg) (x : Word) : State :=
  ((s.popAll s.cur srcs).writeS s.cur d x).retire s.cur .next

/-- The same with a vector result. -/
def State.wroteV (s : State) (srcs : List (RegName × Bool)) (d : Reg) (x : VWord) : State :=
  ((s.popAll s.cur srcs).writeV s.cur d x).retire s.cur .next

/-- The same with a mask result. -/
def State.wroteM (s : State) (srcs : List (RegName × Bool)) (d : MReg) (x : MWord) : State :=
  ((s.popAll s.cur srcs).writeM s.cur d x).retire s.cur .next

/-- The sources popped, and nothing else but the boundary. -/
def State.passed (s : State) (srcs : List (RegName × Bool)) : State := (s.popAll s.cur srcs).retire s.cur .next

/-- No port of the holder that issues is bound, so that every register is a plain one (R25). -/
def State.plain (s : State) : Bool := s.me.ports.isEmpty

/-- The holder that issues has no loop, no unsettled load, and a station whose counters do not count instructions: the
boundary that follows an instruction then does no more than advance the PC (R90, R97, R174). -/
def State.calm (s : State) : Bool := s.me.loops.isEmpty && s.me.unsettled.isEmpty

/-- The flags that the enabled ones among `n` lanes raise, together (R102). -/
def raisedBy (n : Nat) (on : Nat → Bool) (fl : Nat → Nat) : Nat :=
  ((List.range n).map (fun i => if on i then fl i else 0)).foldl (· ||| ·) 0

/-- How a vector instruction of `n` lanes ends (R102, R103): the flags are added to VFLAGS and `done` holds of the state so
far; or, when one of them is enabled in VCTL, FPTRAP with the lowest such lane and all the flags in TVAL, and nothing
else. -/
def State.flagged (s : State) (srcs : List (RegName × Bool)) (n : Nat) (on : Nat → Bool) (fl : Nat → Nat) (o : Out)
    (done : State → Prop) : Prop :=
  let t := s.popAll s.cur srcs
  let en := (t.holder s.cur).vctl.toNat / 256 % 32
  let all := raisedBy n on fl
  (all &&& en = 0 → done (t.modHolder s.cur (fun h => { h with vflags := h.vflags ||| BitVec.ofNat 64 all }))) ∧
  (all &&& en ≠ 0 → ∃ j, j < n ∧ on j = true ∧ fl j &&& en ≠ 0 ∧ (∀ i, i < j → on i = true → fl i &&& en = 0) ∧
    o = .next (s.trapNow (trapOf 0x0C (BitVec.ofNat 64 (j * 256 + all % 32)))))

/-- The outcome `o` is that of a vector instruction of element width w whose enabled lanes take `f` (its result and the
flags it raises) and whose other lanes keep the destination's old elements (R58, R104). -/
def State.vectorResult (s : State) (d : Reg) (srcs : List (RegName × Bool)) (w : Nat) (m : MReg) (k : Bool)
    (f : Nat → BitVec w × Nat) (o : Out) : Prop :=
  let on (i : Nat) : Bool := (s.me.rdm m).getLsbD (i * w / 8)
  s.flagged (srcs ++ mergeSrc d m k) (2048 / w) on (fun i => (f i).2) o (fun t =>
    ∃ v, o = .next ((t.writeV s.cur d v).retire s.cur .next) ∧
      ∀ i, i < 2048 / w → elem w v i = if on i then (f i).1 else elem w (s.valV s.cur d) i)

/-- The same for a mask result: every bit of an enabled element takes its truth value (R106). -/
def State.maskResult (s : State) (d : MReg) (srcs : List (RegName × Bool)) (w : Nat) (m : MReg)
    (f : Nat → Bool × Nat) (o : Out) : Prop :=
  let on (i : Nat) : Bool := (s.me.rdm m).getLsbD (i * w / 8)
  s.flagged srcs (2048 / w) on (fun i => (f i).2) o (fun t =>
    ∃ z, o = .next ((t.writeM s.cur d z).retire s.cur .next) ∧
      ∀ j, j < 256 → z.getLsbD j = if on (8 * j / w) then (f (8 * j / w)).1 else (s.me.rdm d).getLsbD j)

/-- Nothing outside `n` bytes from a place of the model's memory has changed. -/
def State.keepsOutside (s t : State) (lo n : Nat) : Prop := ∀ x, (x < lo ∨ lo + n ≤ x) → memGet t.mem x = memGet s.mem x

/-! ## Rounding, of real numbers (R83, R133, R135) -/

/-- The number ±m × 2^e. -/
def real (neg : Bool) (m : Nat) (e : Int) : ℚ := (if neg then -1 else 1) * (m * 2 ^ e)

/-- The number that the exponent and fraction bits `k` of a format stand for (R133), with normal numbers of every exponent above its
largest: for k = 0, 1, 2, … the members of G in R135 that are not negative, in ascending order. -/
def FFmt.magnitude (f : FFmt) (k : Nat) : ℚ :=
  if k < 2 ^ f.mb then (k : ℚ) * 2 ^ (1 - (f.bias : Int) - f.mb)
  else ((2 ^ f.mb + k % 2 ^ f.mb : Nat) : ℚ) * 2 ^ ((k / 2 ^ f.mb : Nat) - (f.bias : Int) - f.mb)

/-- Whether a number between two neighbours of which the lower has an odd or an even last bit goes to the higher, both taken without
their sign (R135, step 3). -/
def goesUp (rm : Rm) (neg odd : Bool) (lo hi : ℚ) (y : ℝ) : Prop :=
  match rm with
  | .rne => ((lo + hi) / 2 : ℝ) < y ∨ (y = ((lo + hi) / 2 : ℝ) ∧ odd = true)
  | .rtz | .dyn => False
  | .rdn => neg = true
  | .rup => neg = false
  | .rma => ((lo + hi) / 2 : ℝ) ≤ y

/-- Whether a number is tiny after rounding (R79): rounded to the format's precision with exponents of every size it lies below the
smallest normal number. -/
def FFmt.tiny (f : FFmt) (rm : Rm) (neg : Bool) (y : ℝ) : Prop :=
  let normal : ℚ := 2 ^ (1 - (f.bias : Int))
  let last : ℚ := normal - 2 ^ (-(f.bias : Int) - f.mb)
  y < (normal : ℝ) ∧ ¬ ((last : ℝ) < y ∧ goesUp rm neg true last normal y)

/-- The exponent and fraction bits of what is beyond the largest finite number (R135, step 4). -/
def FFmt.beyond (f : FFmt) (rm : Rm) (neg : Bool) : Nat :=
  match f.special, rm with
  | .ieee, .rne | .ieee, .rma => f.maxBits + 1
  | .ieee, .rdn => if neg then f.maxBits + 1 else f.maxBits
  | .ieee, .rup => if neg then f.maxBits else f.maxBits + 1
  | _, _ => f.maxBits

/-- `r` is Round of the positive number y, or of −y (R79, R135): the bits, and the flags. -/
def FFmt.Rounds (f : FFmt) (rm : Rm) (neg : Bool) (y : ℝ) (r : Nat × Nat) : Prop :=
  ∃ k q : Nat, (f.magnitude k : ℝ) ≤ y ∧ y < (f.magnitude (k + 1) : ℝ) ∧
    (y = (f.magnitude k : ℝ) → q = k) ∧
    ((f.magnitude k : ℝ) < y →
      (goesUp rm neg (k % 2 == 1) (f.magnitude k) (f.magnitude (k + 1)) y → q = k + 1) ∧
      (¬ goesUp rm neg (k % 2 == 1) (f.magnitude k) (f.magnitude (k + 1)) y → q = k)) ∧
    (q ≤ f.maxBits → r.1 = f.signed neg q ∧
      (y = (f.magnitude k : ℝ) → r.2 = 0) ∧
      ((f.magnitude k : ℝ) < y → (f.tiny rm neg y → r.2 = flNX + flUF) ∧ (¬ f.tiny rm neg y → r.2 = flNX))) ∧
    (f.maxBits < q → r.1 = f.signed neg (f.beyond rm neg) ∧ r.2 = flOF + flNX)

/-- `n` is y rounded to an integer (R83, R121). -/
def RoundsToInt (rm : Rm) (y : ℚ) (n : Int) : Prop :=
  match rm with
  | .rne => |y - n| ≤ 1 / 2 ∧ (|y - n| = 1 / 2 → n % 2 = 0)
  | .rtz | .dyn => n = if 0 ≤ y then ⌊y⌋ else ⌈y⌉
  | .rdn => n = ⌊y⌋
  | .rup => n = ⌈y⌉
  | .rma => |y - n| ≤ 1 / 2 ∧ (|y - n| = 1 / 2 → |y| < |(n : ℚ)|)

end Machine

end Sys2Proof
end

