-- ==== Sys2Proof/Certificates/Slice0/Obligations.lean ====
section
/-! DEFINITION. The claims about the model. The rules are those of spec/; "ready", "wrote" and the like are in
Sys2Proof/Safety.lean. -/
open Sys2Proof Sys2Proof.Machine

/-- R42, R46 to R71: words written out bit by bit from the encodings decode to their instructions, one or two of each
family, and words with a field the chapter does not allow decode to nothing. -/
def Obligations.DecodeWords : Prop :=
  decode 0b000001_00011_00100_00101_0_1_0_00000001#32 = some (.sub 3 4 5 false true false) ∧
  decode 0b000010_00001_00010_00011_0_0_1_001_00010#32 = some (.fmul 1 2 3 false false true .rtz) ∧
  decode 0b000011_00110_00000_0_000000000010100#32 = some (.addi 6 0 false 20) ∧
  decode 0b010110_01010_01001_1_10_1111111111000#32 = some (.ld 10 9 true .takeFillw (-8)) ∧
  decode 0b011000_00111_01000_0_01_0000000000011#32 = some (.sb 7 8 false .waitfFill 3) ∧
  decode 0b011100_001_00101_00110_0_1_11111111110#32 = some (.bne 5 6 false true (-2)) ∧
  decode 0b011111_00000_0_0000000011_0000001010#32 = some (.loopi 3 10) ∧
  decode 0b100000_00100_00101_00110_10_010_0_00000#32 = some (.vadd 4 5 6 .b32 2 false) ∧
  decode 0b110000_010_00000000_01000_01001_0_0_000#32 = some (.cpy 8 9 false false 0) ∧
  decode 0b110010_00011_0000000110_00_000000100#32 = some (.crr 3 6) ∧
  decode 0b110010_00000000000000000_000000001#32 = some .tend ∧
  decode 0b110010_00000000000000001_000000001#32 = none ∧
  decode 0b000010_00001_00010_00011_0_0_1_101_00010#32 = none ∧
  decode 0#32 = none ∧ decode 0xFFFF_FFFF#32 = none

/-- R42 to R71: every word instruction, with every operand its encoding admits, decodes from the word it is written as. -/
def Obligations.EveryInstructionRoundTrips : Prop :=
  ∀ i : Instr, i.wf = true → decode (encode i) = some i

/-- R43, one step of the module runs the decoded instruction: where the move chosen is a core's turn (for a station's four
slots and urgent bank, the first in the order of R20 that does not wait), its task runs with nothing held for it, and its
next word is fetched and decodes to i, the step is exec of i on that state, with the word in IR and that core current; a
word that decodes to nothing traps ILLEGAL; then the order of R20 moves on, the dispatchers see the counters (R171), and
package time passes. The model's choice, and no rule of the spec: which part of the module moves and how many cycles pass (log
entry 3), the order in which the holders of one station are asked beyond R20's (entry 8), what the outside does in the step,
namely which ports are silent and which lines absent (entry 152), and when the dispatchers see a counter that a store has changed
(entry 66). -/
def Obligations.StepRunsDecoded : Prop :=
  ∀ (s t : State) (m : Move) (w : Who) (before after : List Who) (ir : BitVec 32),
    let s0 : State := { s with schedule := s.turn.2, waits := false, silent := s.turn.1.silent, absent := s.turn.1.absent }
    let line : List Who := match m with
      | .event _ => []
      | .core v => [v]
      | .compute st =>
        let u : Who := { st := st, core := .urgent }
        if (s0.holder u).window.isSome then [u]
        else u :: (List.range 4).map (fun k => { st := st, core := slotOf (((s0.station st).order + k) % 4) })
    let t1 : State := { (t.modHolder w (fun k => { k with ir := ir })) with cur := w, waits := false }
    let after_ (u : State) : State :=
      let v := (u.afterIssue w).watchCounters s0
      v.tick s.turn.1.cycles (v.ringWaiters exec)
    s0.moves[s.turn.1.pick % s0.moves.length]? = some m → line = before ++ w :: after →
    (∀ v ∈ before, s0.holderTurn exec v = .waits) →
    (s0.holder w).state = .run → (s0.holder w).heldTrap = none → s0.overdue w = false → (s0.holder w).asyncTrap = [] →
    (s0.holder w).badRestore = false → (s0.holder w).reissue = [] → s0.fetch w = .word ir t →
    (∀ i u, decode ir = some i → exec i t1 = .next u → u.waits = false →
      step s = .next (after_ u)) ∧
    (decode ir = none →
      (t1.trapNow (trapOf 0x01 (ir.setWidth 64))).waits = false →
      step s = .next (after_ (t1.trapNow (trapOf 0x01 (ir.setWidth 64)))))

/-- R20, R26, R28, R35, R164, R195, R197, R212, R233, R247, R259, R365, R397, R407 and R437: the state right after power-on holds the
stated reset values: the issue order, the layout, the rank tables (every rank itself), the launch count, the heartbeat period, every
engine register, no phaser member, no binding, plain banks; granules full and nothing poisoned. R35 gives zeros for TCM and
scratchpad alone; that every other byte reads 0 too is the model's choice (log entry 2), and so are the values of a holder's
registers before its first launch, which are those that R26 gives at launch, the rest zero and full (entry 1), and the table of an
innkeeper (entry 145). Memory is in its canonical form. -/
def Obligations.ResetValues : Prop :=
  let s := State.reset
  s.boot = .waiting ∧ s.now = 0 ∧ s.hbper = 8192 ∧
  Memory.wf s.mem = true ∧ (∀ a, memGet s.mem a = 0) ∧ s.empties = [] ∧ s.poison = [] ∧
  (∀ st, (s.station st).order = 0 ∧ (s.station st).plb1 = 6 ∧ (s.station st).plb2 = 30 ∧ (s.station st).plb3 = 46 ∧
    (s.station st).app1 = 6 ∧ (s.station st).app2 = 30 ∧ (s.station st).app3 = 46 ∧
    (s.station st).launches = 0 ∧ (s.station st).shut = false ∧ (s.station st).xing.dtmin = 1 ∧
    (s.station st).xing.curfew = 0 ∧
    (∀ r, r < 8192 → (s.station st).rankEntry r = BitVec.ofNat 16 r) ∧
    (∀ i, ((s.station st).phaser i).phase = 0 ∧ ((s.station st).phaser i).members = []) ∧ (s.station st).bindings = [] ∧
    (let reg (n : Nat) : Option Word := (s.station st).engReg n
     (∀ k, k < 8 → reg (0x2000 + 16 * k) = some 0 ∧ reg (0x2001 + 16 * k) = some 1 ∧
       ∀ i, 2 ≤ i → i ≤ 8 → reg (0x2000 + 16 * k + i) = some 0) ∧
     reg 0x3000 = some 8 ∧ reg 0x3001 = some 8 ∧ reg 0x3002 = some 1 ∧ reg 0x3003 = some 0x17 ∧ reg 0x3004 = some 0 ∧
     (∀ i, i < 96 → reg (0x3100 + i) = some 0) ∧
     reg 0x4000 = some 32 ∧ reg 0x4001 = some 0 ∧ reg 0x4002 = some 0 ∧ reg 0x4003 = some 64 ∧ reg 0x4004 = some 1 ∧
     reg 0x4005 = some 0 ∧ reg 0x4006 = some 0 ∧ reg 0x4007 = some 0 ∧ reg 0x4008 = some 0 ∧ reg 0x4009 = some 1 ∧
     reg 0x400A = some 1 ∧ reg 0x400B = some 1 ∧
     reg 0x5000 = some 1 ∧ (∀ i, 1 ≤ i → i ≤ 6 → reg (0x5000 + i) = some 0) ∧ (∀ i, i < 10 → reg (0x5010 + i) = some 0))) ∧
  (∀ cl b, b < 16 → look 0 (s.cluster cl).bfmt b = 0) ∧
  (∀ w, let h := s.holder w
    h.state = .free ∧ h.fctl = 0 ∧ h.fflags = 0 ∧ h.vctl = 0 ∧ h.vflags = 0 ∧ h.pgceil = 65536 ∧ h.pgtries = 16 ∧
    h.deadl = BitVec.allOnes 64 ∧ h.epc = 0 ∧ h.cause = 0 ∧ h.fva = 0 ∧ h.tval = 0 ∧ h.tvec = 0 ∧ h.pc = 0 ∧ h.inh = false ∧
    h.loops = [] ∧ h.ports = [] ∧
    (∀ r, h.rd r = 0 ∧ h.avail (.s r) = .full ∧ h.rdv r = 0 ∧ h.avail (.v r) = .full) ∧ ∀ r, h.rdm r = 0) ∧
  (∀ d, (s.die d).gangIndex = 0) ∧ s.moves = []

/-- No instruction word ends a run: with an instruction word of the machine and a core the module has, `exec` answers a
next state, whatever the rest of the state; and a step that is no word of a core answers one always. That the core exists is a
hypothesis of the model's own (log entry 121): the spec has no others. -/
def Obligations.NothingIsRefused : Prop :=
  ∀ (i : Instr) (s : State), (i.wf = true → whoExists s.cur = true) → ∃ t, exec i s = .next t

/-- R47 and R44: the loader, the storer and an innkeeper trap ILLEGAL on every word outside the base profile, with the
word in TVAL and no other effect of it. -/
def Obligations.BaseProfile : Prop :=
  ∀ (i : Instr) (s : State), i.wf = true → whoExists s.cur = true → isBase s.cur.core = true →
    s.me.holds .plain = false →
    let major := ((encode i).extractLsb' 26 6).toNat
    (major = 0x02 ∨ (0x20 ≤ major ∧ major ≤ 0x28) ∨ major = 0x31 ∨
     (major = 0x30 ∧ ((encode i).extractLsb' 23 3).toNat ∈ [0, 3, 4, 5]) ∨
     (major = 0x32 ∧ ((encode i).extractLsb' 0 9).toNat ∈ [0x0A, 0x0B])) →
    exec i s = .next (s.trapNow (trapOf 0x01 (s.me.ir.setWidth 64)))

/-- R90, the instructions that hold, on every core that has them: with an unsettled load, a store, an atomic, an engine command, a
CRW, CRS or CRC, a WINBEG, a TRAP and a BREAK wait, and nothing of them takes place. Of a FENCE with acq or full that has
no held failure to report nothing takes place either: the PC, the loads and memory stay. A rel FENCE is not among them: R341 has it issue at once, and the model reads R341 over
R90's list (log entry 164). -/
def Obligations.HoldingInstructionsWait : Prop :=
  ∀ (i : Instr) (s : State), i.wf = true → whoExists s.cur = true → s.me.unsettled ≠ [] →
    let major := ((encode i).extractLsb' 26 6).toNat
    let outside : Prop := major = 0x27 ∨ major = 0x28 ∨ major = 0x31 ∨ (major = 0x30 ∧ ((encode i).extractLsb' 23 3).toNat ∈ [0, 3, 4, 5]) ∨
      (major = 0x32 ∧ ((encode i).extractLsb' 0 9).toNat = 0x0A)
    ((isBase s.cur.core = true → ¬ outside) →
     ((0x18 ≤ major ∧ major ≤ 0x1B) ∨ major = 0x27 ∨ major = 0x30 ∨ major = 0x31 ∨ (major = 0x28 ∧ ((encode i).extractLsb' 0 5).toNat = 1) ∨
      (major = 0x32 ∧ ((encode i).extractLsb' 0 9).toNat ∈ [3, 5, 6, 7, 0x0A, 0x0C])) →
     exec i s = .next s.wait) ∧
    (∀ kind scope, kind ≠ FenceKind.rel → (s.me.waiting = true ∨ s.me.failure = none) → ∃ t, exec (.fence kind scope) s = .next t ∧ t.me.pc = s.me.pc ∧
      t.me.unsettled = s.me.unsettled ∧ t.mem = s.mem)

/-- R24, for every instruction by the registers it names: an empty source with a producer outstanding waits under
disposition bit 0 and traps EMPTY under 1; one with none traps EMPTY under either; a destination with a producer
outstanding waits; an empty one without is written, and is full. The trap's TVAL is the register's. That the sources are examined
one by one in the order the word names them, and the destinations after them, is the model's choice (log entry 11).

R25, a register bound to a queue: a read takes the element at the head, once, though two fields name the register; a
read of an empty queue waits under disposition bit 0 and traps EMPTY under 1; a write appends, and waits at 32 elements,
which count those written past older loads that are unsettled: such a write appends once they have settled (R90); the wrong
direction traps QUEUE. What a port's read and write past an unsettled load do, namely that the pop is made and the push is promised
at once, and the order of the checks of one register, are the model's choice (log entry 12). -/
def Obligations.EmptyRegistersAndBoundQueues : Prop :=
  (∀ (s : State) (c : IssueClass) (u : Uses) (body : State → Res (State × PcFlow)) (n : RegName) (k : Bool)
      (before after : List (RegName × Bool)) (first last : List RegName) (o : Nat) (x : Word) (y : VWord),
      whoExists s.cur = true → (isBase s.cur.core = true → c.base = true) → s.me.holds c = false →
      s.me.binding n = none →
      (u.srcs = before ++ (n, k) :: after → s.checkSrcs s.cur before = .go () →
        (s.me.avail n = .pending o → k = false → s.issue c u body = .next s.wait) ∧
        (s.me.avail n = .pending o → k = true → s.issue c u body = .next (s.trapNow (emptyOf n))) ∧
        (s.me.avail n = .empty → s.issue c u body = .next (s.trapNow (emptyOf n)))) ∧
      (u.dsts = first ++ n :: last → s.checkSrcs s.cur u.srcs = .go () → s.checkDsts s.cur first = .go () →
        s.me.avail n = .pending o → s.issue c u body = .next s.wait) ∧
      (s.me.avail n = .empty → s.checkDst s.cur n = .go () ∧
        (∀ r, n = .s r → ((s.writeS s.cur r x).me.avail n = .full ∧ (r ≠ 0 → (s.writeS s.cur r x).me.rd r = x))) ∧
        (∀ r, n = .v r → ((s.writeV s.cur r y).me.avail n = .full ∧ (s.writeV s.cur r y).me.rdv r = y)))) ∧
  (∀ (s : State) (d r : Reg) (k w : Bool) (b : PortBinding) (q : Nat) (x : Word) (rest : List Word),
      s.me.binding (.s r) = some b → b.target = .queue q → whoExists s.cur = true →
      s.me.holds .plain = false →
      s.me.binding (.s d) = none → s.me.avail (.s d) = .full →
      (b.out = false → b.ended = false → look [] (s.station s.cur.st).queues q = x :: rest →
        exec (.add d r r k k w) s =
            .next (s.wrote [(.s r, k), (.s r, k)] d (if w then ((x + x).setWidth 32).signExtend 64 else x + x)) ∧
        look [] ((s.popAll s.cur [(.s r, k), (.s r, k)]).station s.cur.st).queues q = rest) ∧
      (b.out = false → b.ended = false → look [] (s.station s.cur.st).queues q = [] →
        exec (.add d r r k k w) s = if k then .next (s.trapNow (emptyOf (.s r))) else .next s.wait) ∧
      (b.out = true → exec (.add d r r k k w) s = .next (s.trapNow (queueTrap b.port))) ∧
      (b.out = false → exec (.lui r 0) s = .next (s.trapNow (queueTrap b.port))) ∧
      (let queue := look [] (s.station s.cur.st).queues q
       let total := queue.length + (s.station s.cur.st).promised q
       let t := s.writeS s.cur r 0
       (b.out = true → 32 ≤ total → exec (.lui r 0) s = .next s.wait) ∧
       (b.out = true → total < 32 → (∃ u ∈ s.me.unsettled, .s r ∈ destsOf u.kind) → exec (.lui r 0) s = .next s.wait) ∧
       (b.out = true → total < 32 → (∀ u ∈ s.me.unsettled, .s r ∉ destsOf u.kind) →
         exec (.lui r 0) s = .next (t.retire s.cur .next) ∧
         look [] (t.station s.cur.st).queues q = if (∀ u ∈ s.me.unsettled, s.ops ≤ u.op) then queue ++ [0] else queue)))

/-- R72 and R73, ADD to REMU: for every width, every pair of operands and every register, port or s0 as destination, a
ready ALU instruction of two sources answers the state with the table's result written to d. `ux` and `uy` are the w-bit
operands unsigned, `sx` and `sy` signed; `out r` is the state with Sext of the low w bits of r written.

R72, CLZ to EXTZ: counts, reversals and extensions of a ready instruction, each result told by what it means.

R74, R75 and R76: operations with an immediate. -/
def Obligations.ScalarIntegerResults : Prop :=
  (∀ (s : State) (d a b : Reg) (ka kb w : Bool), s.ready .plain ⟨[(.s a, ka), (.s b, kb)], [.s d]⟩ = true →
      let n := if w then 32 else 64
      let ux := ((s.valS s.cur a).setWidth n).toNat
      let uy := ((s.valS s.cur b).setWidth n).toNat
      let sx := ((s.valS s.cur a).setWidth n).toInt
      let sy := ((s.valS s.cur b).setWidth n).toInt
      let k := uy % n
      let out (r : Int) : Out := .next (s.wrote [(.s a, ka), (.s b, kb)] d ((BitVec.ofInt n r).signExtend 64))
      let nat (r : Nat) : Out := out r
      exec (.add d a b ka kb w) s = nat (ux + uy) ∧
      exec (.sub d a b ka kb w) s = out ((ux : Int) - uy) ∧
      exec (.and d a b ka kb w) s = nat (ux &&& uy) ∧
      exec (.or d a b ka kb w) s = nat (ux ||| uy) ∧
      exec (.xor d a b ka kb w) s = nat (ux ^^^ uy) ∧
      exec (.andn d a b ka kb w) s = nat (ux &&& (2 ^ n - 1 - uy)) ∧
      exec (.orn d a b ka kb w) s = nat (ux ||| (2 ^ n - 1 - uy)) ∧
      exec (.sll d a b ka kb w) s = nat (ux * 2 ^ k) ∧
      exec (.srl d a b ka kb w) s = nat (ux / 2 ^ k) ∧
      exec (.sra d a b ka kb w) s = out (sx / 2 ^ k) ∧
      exec (.rol d a b ka kb w) s = nat (ux * 2 ^ k + ux / 2 ^ (n - k)) ∧
      exec (.ror d a b ka kb w) s = nat (ux / 2 ^ k + ux * 2 ^ (n - k)) ∧
      exec (.slt d a b ka kb w) s = nat (if sx < sy then 1 else 0) ∧
      exec (.sltu d a b ka kb w) s = nat (if ux < uy then 1 else 0) ∧
      exec (.seq d a b ka kb w) s = nat (if ux = uy then 1 else 0) ∧
      exec (.min d a b ka kb w) s = out (min sx sy) ∧
      exec (.max d a b ka kb w) s = out (max sx sy) ∧
      exec (.minu d a b ka kb w) s = nat (min ux uy) ∧
      exec (.maxu d a b ka kb w) s = nat (max ux uy) ∧
      exec (.mul d a b ka kb w) s = nat (ux * uy) ∧
      exec (.mulh d a b ka kb w) s = out (sx * sy / 2 ^ n) ∧
      exec (.mulhu d a b ka kb w) s = nat (ux * uy / 2 ^ n) ∧
      exec (.div d a b ka kb w) s = out (if uy = 0 then -1 else sx.tdiv sy) ∧
      exec (.divu d a b ka kb w) s = out (if uy = 0 then -1 else (ux / uy : Nat)) ∧
      exec (.rem d a b ka kb w) s = out (if uy = 0 then sx else sx - sy * sx.tdiv sy) ∧
      exec (.remu d a b ka kb w) s = nat (if uy = 0 then ux else ux - uy * (ux / uy))) ∧
  (∀ (s : State) (d a b : Reg) (ka kb : Bool),
      (s.ready .plain ⟨[(.s a, ka)], [.s d]⟩ = true →
        let x := s.valS s.cur a
        let out (r : Word) : Out := .next (s.wrote [(.s a, ka)] d r)
        (∃ c, exec (.clz d a ka) s = out (BitVec.ofNat 64 c) ∧ c ≤ 64 ∧ x.toNat < 2 ^ (64 - c) ∧
          (c < 64 → 2 ^ (63 - c) ≤ x.toNat)) ∧
        (∃ c, exec (.ctz d a ka) s = out (BitVec.ofNat 64 c) ∧ c ≤ 64 ∧ (∀ i, i < c → x.getLsbD i = false) ∧
          (c < 64 → x.getLsbD c = true)) ∧
        exec (.popc d a ka) s = out (BitVec.ofNat 64 (((List.range 64).map (fun i => (x.getLsbD i).toNat)).sum)) ∧
        (∃ r, exec (.brev d a ka) s = out r ∧ ∀ i, i < 64 → r.getLsbD i = x.getLsbD (63 - i)) ∧
        (∃ r, exec (.bswap d a ka) s = out r ∧ ∀ i, i < 8 → r.extractLsb' (8 * i) 8 = x.extractLsb' (8 * (7 - i)) 8)) ∧
      (s.ready .plain ⟨[(.s a, ka), (.s b, kb)], [.s d]⟩ = true →
        let x := s.valS s.cur a
        let n := (s.valS s.cur b).toNat % 128
        let out (r : Word) : Out := .next (s.wrote [(.s a, ka), (.s b, kb)] d r)
        exec (.exts d a b ka kb) s = out (if n = 0 then 0 else if 64 ≤ n then x else (x.setWidth n).signExtend 64) ∧
        exec (.extz d a b ka kb) s = out (if n = 0 then 0 else if 64 ≤ n then x else BitVec.ofNat 64 (x.toNat % 2 ^ n)))) ∧
  (∀ (s : State) (d a : Reg) (ka w : Bool) (i : BitVec 15) (n : BitVec 6) (j : BitVec 21),
      (s.ready .plain ⟨[(.s a, ka)], [.s d]⟩ = true →
        let x := s.valS s.cur a
        let y := i.toInt
        let out (r : Int) : Out := .next (s.wrote [(.s a, ka)] d (BitVec.ofInt 64 r))
        exec (.addi d a ka i) s = out ((x.toNat : Int) + y) ∧
        exec (.andi d a ka i) s = out ((x.toNat &&& (BitVec.ofInt 64 y).toNat : Nat)) ∧
        exec (.ori d a ka i) s = out ((x.toNat ||| (BitVec.ofInt 64 y).toNat : Nat)) ∧
        exec (.xori d a ka i) s = out ((x.toNat ^^^ (BitVec.ofInt 64 y).toNat : Nat)) ∧
        exec (.slti d a ka i) s = out (if x.toInt < y then 1 else 0) ∧
        exec (.sltiu d a ka i) s = out (if x.toNat < (BitVec.ofInt 64 y).toNat then 1 else 0) ∧
        ((w = true → n.toNat < 32) →
          let wide := if w then 32 else 64
          let ux := (x.setWidth wide).toNat
          let sx := (x.setWidth wide).toInt
          let k := n.toNat
          let outw (r : Int) : Out := .next (s.wrote [(.s a, ka)] d ((BitVec.ofInt wide r).signExtend 64))
          exec (.slli d a ka w n) s = outw ((ux * 2 ^ k : Nat)) ∧
          exec (.srli d a ka w n) s = outw ((ux / 2 ^ k : Nat)) ∧
          exec (.srai d a ka w n) s = outw (sx / 2 ^ k) ∧
          exec (.roli d a ka w n) s = outw ((ux * 2 ^ k + ux / 2 ^ (wide - k) : Nat)))) ∧
      (s.ready .plain ⟨[], [.s d]⟩ = true →
        exec (.lui d j) s = .next (s.wrote [] d (BitVec.ofInt 64 (j.toInt * 2 ^ 15))) ∧
        exec (.addpc d j) s = .next (s.wrote [] d (s.me.pc + BitVec.ofInt 64 (j.toInt * 4)))))

/-- R21, R24 and R48, what a register-only instruction leaves (`wrote`, `wroteV` and `wroteM` of Sys2Proof/Safety.lean,
in which the statements about such instructions are made): the destination holds the result and is full, a write to s0 or
m0 is discarded, and everything else stays: every other register with its full/empty state, the flags, every control and
trap register, every other holder of the module, every byte of memory, every granule and every poison mark. Memory stays
under ports too.

R90 and R92, what the issue of a load or a store leaves: it reaches no memory by itself. Every byte, every granule,
every other holder and every control register of the holder stay; a load's destination that is not bound is empty with the
load outstanding; the other registers stay. Every poison mark stays when the parts are loads and stores of less than a line;
only 128 bytes written into an Exclusive line of the L1 clear one, and none is set. -/
def Obligations.Frames : Prop :=
  (∀ (s : State) (srcs : List (RegName × Bool)) (d : Reg) (n : MReg) (x : Word) (y : VWord) (z : MWord),
      let same (t : State) : Prop :=
        let h := s.me
        let k := t.holder s.cur
        (∀ a, memGet t.mem a = memGet s.mem a) ∧ t.empties = s.empties ∧ t.poison = s.poison ∧
        t.clusters = s.clusters ∧ t.dies = s.dies ∧ t.banks = s.banks ∧ t.now = s.now ∧
        (∀ w, w ≠ s.cur → t.holder w = s.holder w) ∧
        k.state = h.state ∧ k.fctl = h.fctl ∧ k.fflags = h.fflags ∧ k.vctl = h.vctl ∧ k.vflags = h.vflags ∧
        k.epc = h.epc ∧ k.cause = h.cause ∧ k.fva = h.fva ∧ k.tval = h.tval ∧ k.tvec = h.tvec ∧ k.inh = h.inh ∧
        k.sigsav = h.sigsav ∧ k.failure = h.failure ∧ k.nfail = h.nfail ∧ k.taskid = h.taskid ∧ k.tilec = h.tilec ∧
        k.cls = h.cls ∧ k.deadl = h.deadl ∧ k.pgceil = h.pgceil ∧ k.pgtries = h.pgtries ∧ k.window = h.window ∧
        k.ports = h.ports ∧ k.stores = h.stores
      (s.plain = true →
        (let t := s.wrote srcs d x
         same t ∧ (d ≠ 0 → (t.holder s.cur).rd d = x) ∧ (t.holder s.cur).avail (.s d) = .full ∧
         (∀ r, r ≠ d → (t.holder s.cur).rd r = s.me.rd r ∧ (t.holder s.cur).avail (.s r) = s.me.avail (.s r)) ∧
         (t.holder s.cur).v = s.me.v ∧ (t.holder s.cur).m = s.me.m) ∧
        (let t := s.wroteV srcs d y
         same t ∧ (t.holder s.cur).rdv d = y ∧ (t.holder s.cur).avail (.v d) = .full ∧
         (∀ r, r ≠ d → (t.holder s.cur).rdv r = s.me.rdv r ∧ (t.holder s.cur).avail (.v r) = s.me.avail (.v r)) ∧
         (t.holder s.cur).s = s.me.s ∧ (t.holder s.cur).m = s.me.m) ∧
        (let t := s.wroteM srcs n z
         same t ∧ (n ≠ 0 → (t.holder s.cur).rdm n = z) ∧ (∀ r, r ≠ n → (t.holder s.cur).rdm r = s.me.rdm r) ∧
         (t.holder s.cur).s = s.me.s ∧ (t.holder s.cur).v = s.me.v)) ∧
      (s.wrote srcs d x).mem = s.mem ∧ (s.wroteV srcs d y).mem = s.mem ∧ (s.wroteM srcs n z).mem = s.mem ∧
      (s.passed srcs).mem = s.mem) ∧
  (∀ (s : State) (w : Who) (kind : LoadKind) (a : Word) (red : Bool) (q : Qual) (ps : List AccPart),
      (∀ p ∈ ps, p.acc.who = w ∧ p.kind ≠ .fetch) →
      let same (t : State) : Prop :=
        (∀ x, memGet t.mem x = memGet s.mem x) ∧ t.empties = s.empties ∧ (∀ l ∈ t.poison, l ∈ s.poison) ∧
        ((∀ p ∈ ps, p.kind = .load ∨ (p.kind = .store ∧ p.data.length ≠ 128)) → t.poison = s.poison) ∧
        (∀ v, v ≠ w → t.holder v = s.holder v) ∧
        (let h := s.holder w
         let k := t.holder w
         k.m = h.m ∧ k.pc = h.pc ∧ k.loops = h.loops ∧ k.fctl = h.fctl ∧ k.vctl = h.vctl ∧
         k.fflags = h.fflags ∧ k.vflags = h.vflags ∧ k.epc = h.epc ∧ k.cause = h.cause ∧ k.tval = h.tval ∧
         k.fva = h.fva ∧ k.tvec = h.tvec ∧ k.inh = h.inh)
      same (s.startLoad w kind a q ps) ∧ same (s.startStore w a red q ps) ∧
      (let t := s.startLoad w kind a q ps
       (∀ n, n ∉ destsOf kind → (t.holder w).avail n = (s.holder w).avail n) ∧
       (∀ n ∈ destsOf kind, n ≠ .s 0 → (s.holder w).binding n = none → (t.holder w).avail n = .pending s.ops) ∧
       (∀ r, (t.holder w).rd r = (s.holder w).rd r) ∧ (∀ r, (t.holder w).rdv r = (s.holder w).rdv r)))

/-- R93 and R94: a ready branch goes to PC + 4 × offset when its condition holds and else to the next instruction; BF tests
whether a register is full, and pops nothing; the jumps link PC + 4 and go to their target; a JALR whose target is no word
address traps ALIGN with the target, and nothing is written. -/
def Obligations.BranchAndJumpTargets : Prop :=
  ∀ (s : State) (d a b : Reg) (ka kb : Bool) (o : BitVec 11) (j : BitVec 21) (i : BitVec 15),
    (s.ready .plain ⟨[(.s a, ka), (.s b, kb)], []⟩ = true →
      let x := s.valS s.cur a
      let y := s.valS s.cur b
      let go (c : Prop) [Decidable c] : Out := .next ((s.popAll s.cur [(.s a, ka), (.s b, kb)]).retire s.cur
        (if c then .taken (s.me.pc + BitVec.ofInt 64 (o.toInt * 4)) else .next))
      exec (.beq a b ka kb o) s = go (x = y) ∧
      exec (.bne a b ka kb o) s = go (x ≠ y) ∧
      exec (.blt a b ka kb o) s = go (x.toInt < y.toInt) ∧
      exec (.bge a b ka kb o) s = go (y.toInt ≤ x.toInt) ∧
      exec (.bltu a b ka kb o) s = go (x.toNat < y.toNat) ∧
      exec (.bgeu a b ka kb o) s = go (y.toNat ≤ x.toNat)) ∧
    (s.ready .plain ⟨[], []⟩ = true →
      exec (.bf a o) s = .next (s.retire s.cur
        (if (match s.me.binding (.s a) with
             | some p => !p.out && (s.portHead s.cur p).isSome
             | none => s.me.avail (.s a) == .full) = true
         then .taken (s.me.pc + BitVec.ofInt 64 (o.toInt * 4)) else .next))) ∧
    (s.ready .plain ⟨[], [.s d]⟩ = true →
      exec (.jal d j) s =
        .next ((s.writeS s.cur d (s.me.pc + 4)).retire s.cur (.taken (s.me.pc + BitVec.ofInt 64 (j.toInt * 4))))) ∧
    (s.ready .plain ⟨[(.s a, ka)], [.s d]⟩ = true →
      let target := s.valS s.cur a + BitVec.ofInt 64 i.toInt
      exec (.jalr d a ka i) s =
        if target.toNat % 4 = 0 then
          .next (((s.popAll s.cur [(.s a, ka)]).writeS s.cur d (s.me.pc + 4)).retire s.cur (.taken target))
        else .next (s.trapNow (trapOf 0x03 target)))

/-- R96: a ready LOOP or LOOPI whose body lies within the innermost loop pushes its entry and enters the body, or skips it
for a count of 0; with four loops on the stack, or a body that reaches past the innermost unfrozen loop's, the word traps
ILLEGAL before its count register is read.

R97, what follows an instruction at its boundary: no loop ends at it and the PC advances; the innermost loop ends an
iteration there; or it ends for good, and the loop around it may end at the same place. A taken transfer goes to its
target, and pops the innermost loops whose bodies do not hold it. Frozen loops take no part (R98). -/
def Obligations.HardwareLoops : Prop :=
  (∀ (s : State) (a : Reg) (ka : Bool) (l n : BitVec 10),
      let last := s.me.pc + 4 + BitVec.ofNat 64 (4 * (l.toNat - 1))
      let fits := s.me.loops.length < 4 ∧
        ∀ e ∈ s.me.loops.head?, e.frozen = true ∨
          last.toNat ≤ (e.start + BitVec.ofNat 64 (4 * (e.len - 1))).toNat
      let entered (t : State) (c : Nat) : State :=
        let pc := (t.holder s.cur).pc
        if c = 0 then t.retire s.cur (.skip (pc + 4 + BitVec.ofNat 64 (4 * l.toNat)))
        else (t.modHolder s.cur (fun h =>
          { h with loops := { start := pc + 4, len := l.toNat, count := c, frozen := false } :: h.loops })).retire s.cur
            .enter
      (s.ready .plain ⟨[(.s a, ka)], []⟩ = true → fits →
        exec (.loop a ka l) s =
          .next (entered (s.popAll s.cur [(.s a, ka)]) ((s.valS s.cur a).toNat % 2 ^ 32))) ∧
      (s.ready .plain ⟨[], []⟩ = true → fits → exec (.loopi l n) s = .next (entered s n.toNat)) ∧
      (s.ready .plain ⟨[], []⟩ = true → ¬ fits →
        exec (.loop a ka l) s = .next (s.trapNow (trapOf 0x01 (s.me.ir.setWidth 64))) ∧
        exec (.loopi l n) s = .next (s.trapNow (trapOf 0x01 (s.me.ir.setWidth 64))))) ∧
  (∀ (h : Holder) (l : LoopEntry) (r : List LoopEntry) (t : Word),
      (h.loops = [] → (h.advance .next).pc = h.pc + 4 ∧ (h.advance .next).loops = []) ∧
      (h.loops = l :: r → (l.frozen = true ∨ h.pc ≠ l.start + BitVec.ofNat 64 (4 * (l.len - 1))) →
        (h.advance .next).pc = h.pc + 4 ∧ (h.advance .next).loops = h.loops) ∧
      (h.loops = l :: r → l.frozen = false → h.pc = l.start + BitVec.ofNat 64 (4 * (l.len - 1)) → 1 < l.count →
        (h.advance .next).pc = l.start ∧ (h.advance .next).loops = { l with count := l.count - 1 } :: r) ∧
      (h.loops = l :: r → l.frozen = false → h.pc = l.start + BitVec.ofNat 64 (4 * (l.len - 1)) → l.count ≤ 1 →
        (h.advance .next).pc = (({ h with loops := r } : Holder).advance .next).pc ∧
        (h.advance .next).loops = (({ h with loops := r } : Holder).advance .next).loops) ∧
      (h.advance (.taken t)).pc = t ∧
      (∃ gone kept, h.loops = gone ++ kept ∧ (h.advance (.taken t)).loops = kept ∧
        (∀ e ∈ gone, e.frozen = false ∧
          ¬ (e.start.toNat ≤ t.toNat ∧ t.toNat ≤ e.start.toNat + 4 * (e.len - 1))) ∧
        (∀ e ∈ kept.head?, e.frozen = true ∨ (e.start.toNat ≤ t.toNat ∧ t.toNat ≤ e.start.toNat + 4 * (e.len - 1)))))

/-- R79 and R82, the arithmetic of a ready FPU instruction: the exact result of R80 rounded once to the format, written
laid out as R81 says, its flags added to FFLAGS; when one of them is enabled in FCTL, d and FFLAGS stay and the instruction
traps FPTRAP with the flags in TVAL.

R82 to R84, the FPU instructions that compare, classify and convert. -/
def Obligations.FpuResults : Prop :=
  (∀ (s : State) (d a b : Reg) (ka kb p : Bool) (rm : Rm),
      let f := if p then fp64 else fp32
      let m := if rm = .dyn then rmOfField ((s.me.fctl).toNat % 8) else rm
      let num (r : Reg) : Value := f.decode ((s.valS s.cur r).toNat % 2 ^ (if p then 64 else 32))
      let x := num a
      let y := num b
      let z := num d
      let out (srcs : List (RegName × Bool)) (r : FRes) : Out :=
        let bits := (f.round m r.1).1
        let raised := r.2 ||| (f.round m r.1).2
        let t := s.popAll s.cur srcs
        if raised &&& ((t.holder s.cur).fctl.toNat / 256 % 32) = 0 then
          .next (((t.modHolder s.cur (fun h => { h with fflags := h.fflags ||| BitVec.ofNat 64 raised })).writeS s.cur d
            (BitVec.ofNat 64 bits)).retire s.cur .next)
        else .next (s.trapNow (trapOf 0x0C (BitVec.ofNat 64 raised)))
      let s1 : List (RegName × Bool) := [(.s a, ka)]
      let s2 : List (RegName × Bool) := [(.s a, ka), (.s b, kb)]
      let s3 : List (RegName × Bool) := [(.s a, ka), (.s b, kb), (.s d, false)]
      (s.ready .compute ⟨s2, [.s d]⟩ = true →
        exec (.fadd d a b ka kb p rm) s = out s2 (fAdd m x y) ∧
        exec (.fsub d a b ka kb p rm) s = out s2 (fSub m x y) ∧
        exec (.fmul d a b ka kb p rm) s = out s2 (fMul x y) ∧
        exec (.fdiv d a b ka kb p rm) s = out s2 (fDiv x y)) ∧
      (s.ready .compute ⟨s1, [.s d]⟩ = true → exec (.fsqrt d a ka p rm) s = out s1 (fSqrt x)) ∧
      (s.ready .compute ⟨s3, [.s d]⟩ = true →
        exec (.ffma d a b ka kb p rm) s = out s3 (fFma m x y z) ∧
        exec (.ffms d a b ka kb p rm) s = out s3 (fFma m x y z.negate))) ∧
  (∀ (s : State) (d a b : Reg) (c : BitVec 5) (ka kb p wide : Bool) (rm : Rm),
      let f := if p then fp64 else fp32
      let m := if rm = .dyn then rmOfField ((s.me.fctl).toNat % 8) else rm
      let raw (r : Reg) : Nat := (s.valS s.cur r).toNat % 2 ^ (if p then 64 else 32)
      let x := f.decode (raw a)
      let y := f.decode (raw b)
      let out (srcs : List (RegName × Bool)) (bits raised : Nat) : Out :=
        let t := s.popAll s.cur srcs
        if raised &&& ((t.holder s.cur).fctl.toNat / 256 % 32) = 0 then
          .next (((t.modHolder s.cur (fun h => { h with fflags := h.fflags ||| BitVec.ofNat 64 raised })).writeS s.cur d
            (BitVec.ofNat 64 bits)).retire s.cur .next)
        else .next (s.trapNow (trapOf 0x0C (BitVec.ofNat 64 raised)))
      let s1 : List (RegName × Bool) := [(.s a, ka)]
      let s2 : List (RegName × Bool) := [(.s a, ka), (.s b, kb)]
      let anyNan := x.isNan || y.isNan
      let anySnan := x.isSnan || y.isSnan
      let integer (lo hi : Int) : Out :=
        let r := toIntRange m lo hi x
        out s1 (BitVec.ofInt 64 r.1).toNat r.2
      let number (i : Int) : Out := out s1 (f.round m (numOfInt i)).1 (f.round m (numOfInt i)).2
      (s.ready .compute ⟨s2, [.s d]⟩ = true →
        exec (.fmin d a b ka kb p) s =
          out s2 (f.round .rne (fMinMax false x y).1).1 ((fMinMax false x y).2 ||| (f.round .rne (fMinMax false x y).1).2) ∧
        exec (.fmax d a b ka kb p) s =
          out s2 (f.round .rne (fMinMax true x y).1).1 ((fMinMax true x y).2 ||| (f.round .rne (fMinMax true x y).1).2) ∧
        exec (.feq d a b ka kb p) s = out s2 (if !anyNan && numEq x y then 1 else 0) (if anySnan then 16 else 0) ∧
        exec (.flt d a b ka kb p) s = out s2 (if !anyNan && numLt x y && !numEq x y then 1 else 0) (if anyNan then 16 else 0) ∧
        exec (.fle d a b ka kb p) s =
          out s2 (if !anyNan && (numLt x y || numEq x y) then 1 else 0) (if anyNan then 16 else 0)) ∧
      (s.ready .compute ⟨s1, [.s d]⟩ = true →
        exec (.fclass d a ka p) s = out s1 (2 ^ f.classOf (raw a)) 0 ∧
        exec (.fcvtis d a wide ka p rm) s =
          integer (if wide then -2 ^ 63 else -2 ^ 31) (if wide then 2 ^ 63 - 1 else 2 ^ 31 - 1) ∧
        exec (.fcvtin d a wide ka p rm) s = integer 0 (if wide then 2 ^ 64 - 1 else 2 ^ 32 - 1) ∧
        exec (.fcvtfs d a wide ka p rm) s =
          number (if wide then (s.valS s.cur a).toInt else ((s.valS s.cur a).setWidth 32).toInt) ∧
        exec (.fcvtfn d a wide ka p rm) s =
          number (if wide then (s.valS s.cur a).toNat else ((s.valS s.cur a).setWidth 32).toNat : Nat) ∧
        (∀ g, codeFloat c.toNat = some g →
          let v := g.decode ((s.valS s.cur a).toNat % 2 ^ g.width)
          exec (.fcvtw d a c ka p rm) s = out s1 (f.round m v).1 (f.round m v).2)))

/-- R302 and R303, the address map of a station's cores: the region of every address, and no region where none is.

R27, R87, R221, R226 and R302, when an access traps ACCESS at issue, with its address in TVAL: its bytes do not lie in
one region; it is qualified where there are no full/empty bits; it names a TYPED bank and is no vector access of it; or it
touches the half of a window that is not addressable. Otherwise nothing stops it. -/
def Obligations.AddressMapAndAccessTraps : Prop :=
  (∀ (s : State) (w : Who) (a : Nat), w.core ≠ .keeper →
      let x := s.station w.st
      (a < 0x60000 → s.regionOf w a =
        if x.app1 * 8192 ≤ a ∧ a < x.app2 * 8192 then some .tcm else if x.app3 * 8192 ≤ a then some .mailbox else none) ∧
      (0x60000 ≤ a → a < 0x1000000 → s.regionOf w a = none) ∧
      (0x1000000 ≤ a → a < 0x1400000 → s.regionOf w a = some (.spad (clusterOf w.st))) ∧
      (0x1400000 ≤ a → a < 0x4000000 → s.regionOf w a = none) ∧
      (0x4000000 ≤ a → a < 0x8000000 → s.regionOf w a = some (.commons (dieOf w.st))) ∧
      (0x8000000 ≤ a → a < 0x20000000 → s.regionOf w a = none) ∧
      (0x20000000 ≤ a → a < 0x40000000 → s.regionOf w a = some (.commons ((a - 0x20000000) / 0x4000000))) ∧
      (0x40000000 ≤ a → a < 0xC0000000 → s.regionOf w a = some (.spad ((a - 0x40000000) / 0x400000))) ∧
      (0xC0000000 ≤ a → a < 0x100000000 → s.regionOf w a = none) ∧
      (0x100000000 ≤ a → a < 0x300000000 → s.regionOf w a =
        if (a - 0x100000000) % 0x100000 < 0x60000 then some (.remote ((a - 0x100000000) / 0x100000)) else none) ∧
      (0x300000000 ≤ a → a < 0x800 * 2 ^ 52 → s.regionOf w a = none) ∧
      (0x800 * 2 ^ 52 ≤ a → a < 0x801 * 2 ^ 52 → s.regionOf w a = some .far) ∧
      (0x801 * 2 ^ 52 ≤ a → s.regionOf w a = none)) ∧
  (∀ (s : State) (w : Who) (a : Word) (n : Nat) (q : Qual) (typed : Bool),
      let p := s.placeOf w a.toNat
      (s.regionOfAll w a.toNat n = none → s.accessFault w a n q typed = some (trapOf 0x04 a)) ∧
      (∀ r, s.regionOfAll w a.toNat n = some r →
        (q ≠ .plain → r ≠ .tcm → (∀ cl, r ≠ .spad cl) → (∀ k, r ≠ .remote k) →
          s.accessFault w a n q typed = some (trapOf 0x04 a)) ∧
        (typed = false → s.typedAt p n = true → s.accessFault w a n q typed = some (trapOf 0x04 a)) ∧
        ((∀ k, r ≠ .remote k) → s.hidden p n = true → s.accessFault w a n q typed = some (trapOf 0x04 a)) ∧
        ((q = .plain ∨ r = .tcm ∨ (∃ cl, r = .spad cl) ∨ ∃ k, r = .remote k) → (typed = true ∨ s.typedAt p n = false) →
          (s.hidden p n = false ∨ ∃ k, r = .remote k) → s.accessFault w a n q typed = none)))

/-- R85, R86 and R90, a ready scalar load: an address that is no multiple of the size traps ALIGN, one that may not be
reached traps as R87 says, one that must wait waits; any other load issues, and its destination is empty until it lands.

R85, R86 and R92, a ready scalar store: checked as a load is; an innkeeper's store to a control window waits for its
earlier ones and may be refused; any other issues with the low bytes of its data register, lowest first.

The model's choice, and no rule of the spec: that an innkeeper's store to a control window waits for its earlier ones and
then traps at issue where the register refuses it (log entry 30), and that an access to a page of which an earlier one of the
holder is parked is held behind it, the ninth not issued (entry 117). -/
def Obligations.ScalarLoadsAndStoresIssue : Prop :=
  (∀ (s : State) (d a : Reg) (k : Bool) (q : Qual) (o : BitVec 13), s.ready .load ⟨[(.s a, k)], [.s d]⟩ = true →
      let addr := s.valS s.cur a + BitVec.ofInt 64 o.toInt
      let t := s.popAll s.cur [(.s a, k)]
      let out (size : Nat) (signed : Bool) : Out :=
        if addr.toNat % size ≠ 0 then .next (s.trapNow (trapOf 0x03 addr))
        else match t.accessFault s.cur addr size q false with
          | some e => .next (s.trapNow e)
          | none =>
            if t.accessWaits s.cur addr q = true then .next s.wait
            else .next ((t.startLoad s.cur (.scalar d size signed) addr q
              (t.partsOf (t.ownAccess s.cur) .load addr size q [])).retire s.cur .load)
      exec (.lb d a k q o) s = out 1 true ∧ exec (.lbu d a k q o) s = out 1 false ∧
      exec (.lh d a k q o) s = out 2 true ∧ exec (.lhu d a k q o) s = out 2 false ∧
      exec (.lw d a k q o) s = out 4 true ∧ exec (.lwu d a k q o) s = out 4 false ∧
      exec (.ld d a k q o) s = out 8 false) ∧
  (∀ (s : State) (d a : Reg) (k : Bool) (q : Qual) (o : BitVec 13),
      s.ready .store ⟨[(.s a, k), (.s d, k)], []⟩ = true →
      let addr := s.valS s.cur a + BitVec.ofInt 64 o.toInt
      let t := s.popAll s.cur [(.s a, k), (.s d, k)]
      let out (size : Nat) : Out :=
        let data := (List.range size).map (fun i => (s.valS s.cur d).extractLsb' (8 * i) 8)
        if addr.toNat % size ≠ 0 then .next (s.trapNow (trapOf 0x03 addr))
        else match t.accessFault s.cur addr size q false with
          | some e => .next (s.trapNow e)
          | none =>
            if t.accessWaits s.cur addr q = true then .next s.wait
            else if t.windowWaits s.cur (t.placeOf s.cur addr.toNat) = true then .next s.wait
            else match t.windowRefuses (t.placeOf s.cur addr.toNat) data with
              | some e => .next (s.trapNow e)
              | none => .next ((t.startStore s.cur addr false q
                  (t.partsOf (t.ownAccess s.cur) .store addr size q data)).retire s.cur .next)
      exec (.sb d a k q o) s = out 1 ∧ exec (.sh d a k q o) s = out 2 ∧
      exec (.sw d a k q o) s = out 4 ∧ exec (.sd d a k q o) s = out 8)

/-- R88, R89, R128 and R334, an access at the home of TCM, scratchpad or commons: a CPOLL's write leaves its station when the stores
before it are performed (R278), and an access behind the write of the format of the bank it meets is not performed before that
(R225); it waits while its condition does not hold, or behind an earlier waiting access of its holder to one of its granules; else
it is performed with the effect of its qualifier, or refused where it issued as a typed one and its bank holds no TYPED planes any
more, and the waiting accesses that may now be performed follow.

R21 and R88, the granules of a range: filled, they are all full and no other changes; drained, they are all empty and
no other changes; a take drains those of its access and changes no byte. The writes reach the bytes of the range and no other
byte, in whatever order they lie.

R128, R304, R369 and R372, an access to another station's pool arrives there: a station that is shuttered, or whose rank
is not the one the address names, answers UNDELIVERABLE with that rank; bytes that do not lie in its TCM trap ACCESS. Of one
message the elements are performed one after the other, each as one access is.

The model's choice, and no rule of the spec: that the issue number decides what waits behind a format's write, and that an
access which waits so has arrived (log entry 138), that an access which finds its bank in another form is refused (entry
175), that CPOLL's write waits in its station for the stores before it (entry 156), and that a station's own rank is the one
equal to its coordinate (entry 63). -/
def Obligations.AccessAtNearHome : Prop :=
  (∀ (s : State) (p : AccPart), s.bankOf p.place = none →
      ((∃ d off, p.place = .commons d off) ∨ (∃ cl off, p.place = .spad cl off) ∨
        (∃ st off, p.place = .pool st off ∧ p.acc.eng ≠ 5 ∧ p.acc.eng ≠ 2 ∧ (s.station st).hiddenHalf off p.size = false ∧
          ∀ n, s.regionOf p.acc.who p.addr.toNat ≠ some (.remote n))) →
      let a := placeAt p.place 0
      let gs := blocks 16 (partAt p) p.size
      let full : Prop := ∀ g ∈ gs, g ∉ s.empties
      let empty : Prop := ∀ g ∈ gs, g ∈ s.empties
      let holdsBack : Prop :=
        ((p.qual = .waitfFill ∨ p.qual = .takeFillw) ∧ p.kind = .load ∧ ¬ full) ∨
        (p.qual = .takeFillw ∧ p.kind = .store ∧ ¬ empty) ∨
        (∃ q ∈ s.waiting, q.acc.who = p.acc.who ∧ ∃ g ∈ gs, g ∈ blocks 16 (partAt q) q.size)
      let poisoned : Prop := ∃ l ∈ blocks 128 a p.size, l ∈ s.poison
      let who := p.acc.who
      let op := p.acc.op
      let unsent : Prop := p.acc.eng = 2 ∧ p.sent = false
      let early : Prop := unsent ∨ s.behindFormat p = true
      let late : Prop := (∃ cl off, p.place = .spad cl off) ∧ p.acc.eng = 0 ∧
        ((p.kind = .load ∧ ∃ u ∈ (s.holder who).unsettled, u.op = op ∧ ∃ d, u.kind = .vector d true) ∨
         (p.kind = .store ∧ p.data.length ≠ p.size))
      (unsent → exec (.accessAtHome p) s =
        if s.storesDone (some (workOfTask who p.acc.task, op)) then .next (s.later (.accessAtHome { p with sent := true }))
        else .next s.wait) ∧
      (¬ unsent → s.behindFormat p = true → exec (.accessAtHome p) s =
        if p.acc.eng = 2 ∨ p.sent = true then .next s.wait
        else .next (s.again (s.now + 1) (.accessAtHome { p with sent := true }))) ∧
      (holdsBack → (¬ early → exec (.accessAtHome p) s = .next { s with waiting := s.waiting ++ [p] }) ∧
        exec (.remoteElementAccess [p]) s = .next { s with waiting := s.waiting ++ [p] }) ∧
      (¬ holdsBack →
        let goes (u : State) : Prop :=
          (¬ early → exec (.accessAtHome p) s = .next (State.serveWaiting u.waiting.length u)) ∧
          exec (.remoteElementAccess [p]) s = .next (State.serveWaiting u.waiting.length u)
        (late → p.kind = .load → goes (s.partBack who op p.off [] (some (trapOf 0x04 p.addr)))) ∧
        (late → ∀ cl off, p.place = .spad cl off → p.kind = .store → goes (s.storeFailed p 0x04 (clusterBank cl))) ∧
        (¬ late →
        (p.kind = .load → p.qual = .tryfDrain → ¬ full → goes (s.partBack who op p.off [] (some (trapOf 0x02 p.addr)))) ∧
        (p.kind = .load → (p.qual ≠ .tryfDrain ∨ full) → poisoned →
          goes (s.partBack who op p.off [] (some (trapOf 0x06 p.addr)))) ∧
        (p.kind = .load → (p.qual ≠ .tryfDrain ∨ full) → ¬ poisoned →
          let u := s.partBack who op p.off (memRead s.mem a p.size) none
          goes (if p.qual = .takeFillw then u.takeAt p else u)) ∧
        (p.kind = .store →
          let u := (s.writeAt a p.data).storeDone who op
          goes (match p.qual with
            | .plain => u
            | .waitfFill | .takeFillw => u.fillAt a p.size
            | .tryfDrain => u.drainAt a p.size)) ∧
        (∀ o wide, p.kind = .amo o wide → poisoned → goes (s.partBack who op p.off [] (some (trapOf 0x06 p.addr)))) ∧
        (∀ o wide, p.kind = .amo o wide → ¬ poisoned →
          let old := memRead s.mem a p.size
          goes ((s.writeAt a (amoBytes o wide old p.data)).partBack who op p.off old none)) ∧
        (∀ o wide, p.kind = .red o wide → ¬ poisoned →
          goes ((s.writeAt a (amoBytes o wide (memRead s.mem a p.size) p.data)).storeDone who op))))) ∧
  (∀ (s : State) (a n g x : Nat) (bs : List Byte) (p : AccPart),
      (s.takeAt p).empties = (s.drainAt (partAt p) p.size).empties ∧ (s.takeAt p).mem = s.mem ∧
      (g ∈ (s.fillAt a n).empties ↔ g ∈ s.empties ∧ g ∉ blocks 16 a n) ∧
      (g ∈ (s.drainAt a n).empties ↔ g ∈ s.empties ∨ g ∈ blocks 16 a n) ∧
      (s.fillAt a n).mem = s.mem ∧ (s.drainAt a n).mem = s.mem ∧
      (x < a ∨ a + bs.length ≤ x → memGet (s.writeAt a bs).mem x = memGet s.mem x) ∧
      (∀ i, (h : i < bs.length) → memGet (s.writeAt a bs).mem (a + i) = bs[i]) ∧
      (s.writeAt a bs).empties = s.empties ∧
      (g ∈ blocks 16 a n ↔ 0 < n ∧ a / 16 ≤ g ∧ g ≤ (a + n - 1) / 16)) ∧
  (∀ (s : State) (p : AccPart) (st off n : Nat), p.place = .pool st off →
      (∀ q r, exec (.remoteElementAccess (p :: q :: r)) s =
        .next ((s.arrive p).again s.now (.remoteElementAccess (q :: r)))) ∧
      exec (.remoteElementAccess [p]) s = .next (s.arrive p) ∧
      (s.regionOf p.acc.who p.addr.toNat = some (.remote n) → (p.kind = .load ∨ ∃ o wide, p.kind = .amo o wide) →
      (p.acc.eng = 2 → p.sent = true) →
      let x := s.station st
      let fails (t : TrapInfo) : Prop :=
        exec (.accessAtHome p) s = .next (s.partBack p.acc.who p.acc.op p.off [] (some t)) ∧
        exec (.remoteElementAccess [p]) s = .next (s.partBack p.acc.who p.acc.op p.off [] (some t))
      (x.shut = true ∨ n ≠ st → fails (trapOf 0x0F (BitVec.ofNat 64 n))) ∧
      (x.shut = false → n = st → ¬ (x.app1 * 8192 ≤ off ∧ off + p.size ≤ x.app2 * 8192) → fails (trapOf 0x04 p.addr))))

/-- R86, R90, R91, R123, R125, R126, R187, R189 and R376, LOAD_LANDS of a load whose last part has come back, without a trap: its
destination is full with the value, a sign-extended or zero-extended integer for a scalar load, the old value for an atomic, the 256
bytes for a vector load, each element rounded to VCTL.TW for a typed one (with its flags, R103), the old value with its enabled lanes
replaced for a gather, one or two doublewords for a returning engine command, PHASE for a phaser command; other registers, the PC and
memory stay. A trap that was held behind it is taken then, at its own PC, and a SIGCHK that waited for it fails (R359, R396).

R91, LOAD_LANDS of a load whose access trapped, once every earlier load has settled: what issued after it is undone,
it is the first thing the trap handler sees, and its EPC is the load.

The model's choice, and no rule of the spec: that a SIGCHK fails when the youngest load before it has settled (log entry
107). -/
def Obligations.LoadsLand : Prop :=
  (∀ (s : State) (who : Who) (op : Nat) (u : Unsettled),
      (s.holder who).unsettled.find? (fun x => x.op == op) = some u → u.left = 0 → u.trap = none →
      (∀ n ∈ destsOf u.kind, (s.holder who).binding n = none) →
      let bytes := bufBytes u.buf
      let vctl := (s.holder who).vctl
      let f := twFmt (bitsOf vctl 18 17)
      let lane (i : Nat) : Nat × Nat :=
        let x := fp64.decode (leNat ((bytes.drop (8 * i)).take 8))
        f.round (rmOfField (bitsOf vctl 2 0)) (if x.isNan then qNaN else x)
      let flags := (List.range (2048 / f.width)).map (fun i => (lane i).2)
      let pending (d : Reg) : Prop := (s.holder who).avail (.s d) = .pending op
      let landed (t : State) : Prop :=
        t.mem = s.mem ∧
        (∀ r, .s r ∉ destsOf u.kind → (t.holder who).rd r = (s.holder who).rd r) ∧
        (∀ r, .v r ∉ destsOf u.kind → (t.holder who).rdv r = (s.holder who).rdv r) ∧
        (∀ d size sg, u.kind = .scalar d size sg → d ≠ 0 → pending d →
          (t.holder who).avail (.s d) = .full ∧
          (t.holder who).rd d = if sg then (BitVec.ofNat (8 * size) (leNat bytes)).signExtend 64
                                else BitVec.ofNat 64 (leNat bytes)) ∧
        (∀ d wide float aq, u.kind = .amo d wide float aq → d ≠ 0 → pending d →
          (t.holder who).avail (.s d) = .full ∧
          (t.holder who).rd d = if wide || float then BitVec.ofNat 64 (leNat bytes)
                                else (BitVec.ofNat 32 (leNat bytes)).signExtend 64) ∧
        (∀ d, u.kind = .vector d false → (s.holder who).avail (.v d) = .pending op →
          (t.holder who).avail (.v d) = .full ∧ (t.holder who).rdv d = BitVec.ofNat 2048 (leNat bytes)) ∧
        (∀ d, u.kind = .vector d true → (s.holder who).avail (.v d) = .pending op →
          (t.holder who).avail (.v d) = .full ∧
          (t.holder who).vflags = (s.holder who).vflags ||| BitVec.ofNat 64 (flags.foldl (· ||| ·) 0) ∧
          ∀ i, i < 2048 / f.width → ((t.holder who).rdv d).extractLsb' (f.width * i) f.width = BitVec.ofNat f.width (lane i).1) ∧
        (∀ d w on, u.kind = .gather d w on → (s.holder who).avail (.v d) = .pending op → 0 < w →
          (∀ e ∈ u.buf, e.2.length = w ∧ e.1 * w + w ≤ 256) → u.buf.Pairwise (fun a b => a.1 ≠ b.1) →
          (t.holder who).avail (.v d) = .full ∧
          (∀ e ∈ u.buf, ((t.holder who).rdv d).extractLsb' (8 * (e.1 * w)) (8 * w) = BitVec.ofNat (8 * w) (leNat e.2)) ∧
          (∀ i, i * w + w ≤ 256 → (∀ e ∈ u.buf, e.1 ≠ i) →
            ((t.holder who).rdv d).extractLsb' (8 * (i * w)) (8 * w) = (u.snap.v[d.toNat].val).extractLsb' (8 * (i * w)) (8 * w))) ∧
        (∀ d, u.kind = .engine d false → d ≠ 0 → pending d →
          (t.holder who).avail (.s d) = .full ∧ (t.holder who).rd d = BitVec.ofNat 64 (leNat (bytes.take 8))) ∧
        (∀ d, u.kind = .engine d true → d ≠ 0 → d.toNat % 2 = 0 → pending d → pending (d + 1) →
          (t.holder who).rd d = BitVec.ofNat 64 (leNat (bytes.take 8)) ∧
          (t.holder who).rd (d + 1) = BitVec.ofNat 64 (leNat ((bytes.drop 8).take 8))) ∧
        (∀ d, u.kind = .phaser d → d ≠ 0 → pending d →
          (t.holder who).avail (.s d) = .full ∧ (t.holder who).rd d = BitVec.ofNat 64 (leNat bytes))
      (∀ d x, u.kind = .vector d true → laneTrap vctl flags = some x → (∀ y ∈ (s.holder who).unsettled, op ≤ y.op) →
        exec (.loadLands who op) s = .next ((s.undoTo who u).takeTrap who u.pc x 0)) ∧
      ((∀ d, u.kind = .vector d true → laneTrap vctl flags = none) →
        ((s.holder who).heldTrap = none → u.checks = [] → ∃ t, exec (.loadLands who op) s = .next t ∧ landed t ∧
          (t.holder who).pc = (s.holder who).pc) ∧
        (∀ pc x, (s.holder who).heldTrap = some (pc, x) → u.checks = [] → (∀ d w fl, u.kind ≠ .amo d w fl true) →
          (s.holder who).unsettled = [u] →
          ∃ t, exec (.loadLands who op) s = .next (t.takeTrap who pc x 0) ∧ landed t ∧ (t.holder who).heldTrap = none ∧
            (t.holder who).unsettled = []) ∧
        (∀ c cs, (s.holder who).heldTrap = none → u.checks = c :: cs → (∀ d w fl, u.kind ≠ .amo d w fl true) →
          (s.holder who).unsettled = [u] → (s.holder who).acquire ≠ some op →
          ∃ t v, exec (.loadLands who op) s = .next v ∧ landed t ∧ (t.holder who).unsettled = [] ∧
            ∀ w, v.holder w = (t.sigMismatch who c.1 c.2.1 c.2.2).holder w))) ∧
  (∀ (s : State) (who : Who) (op : Nat) (u : Unsettled) (x : TrapInfo),
      (s.holder who).unsettled.find? (fun y => y.op == op) = some u → u.left = 0 → u.trap = some x →
      (∀ y ∈ (s.holder who).unsettled, op ≤ y.op) →
      exec (.loadLands who op) s = .next ((s.undoTo who u).takeTrap who u.pc x 0) ∧
      (let h := (s.undoTo who u).holder who
       h.s = u.snap.s ∧ h.v = u.snap.v ∧ h.m = u.snap.m ∧ h.loops = u.snap.loops ∧ h.fflags = u.snap.fflags ∧
       h.vflags = u.snap.vflags ∧ h.sigacc = u.snap.sigacc ∧ h.pc = u.pc ∧ (∀ y ∈ h.unsettled, y.op < u.op)) ∧
      (s.undoTo who u).mem = s.mem)

/-- R104 and R106, VADD to VSRA in their vector and scalar forms, for every element width: what each enabled lane takes,
modulo 2^w; no flag is raised. x is the lane of va; y is the lane of vb, or the low w bits of the scalar.

R106, the saturating operations: the exact sum or difference, clamped to the range, with SAT in the lanes whose value
the clamp changed.

R106, comparisons into a mask register: every bit of an enabled element takes the truth value.

R106 to R108, the other operations of VI and VIS: VSEL, VABS, VPOPC, VCLZ, the dot products of four narrow elements,
VWIDEN into a pair of registers and VNARROW from one. -/
def Obligations.VectorIntegerResults : Prop :=
  (∀ (s : State) (d a b : Reg) (e : Ew) (m : MReg) (k : Bool),
      let w := Machine.ewBits e
      let lanes (op : BitVec w → BitVec w → Int) (vector scalar : Out) : Prop :=
        (s.ready .compute ⟨[(.v a, k), (.v b, k)] ++ mergeSrc d m k, [.v d]⟩ = true →
          s.vectorResult d [(.v a, k), (.v b, k)] w m k
            (fun i => (BitVec.ofInt w (op (elem w (s.valV s.cur a) i) (elem w (s.valV s.cur b) i)), 0)) vector) ∧
        (s.ready .compute ⟨[(.v a, k), (.s b, k)] ++ mergeSrc d m k, [.v d]⟩ = true →
          s.vectorResult d [(.v a, k), (.s b, k)] w m k
            (fun i => (BitVec.ofInt w (op (elem w (s.valV s.cur a) i) ((s.valS s.cur b).setWidth w)), 0)) scalar)
      let flip (y : BitVec w) : Nat := 2 ^ w - 1 - y.toNat
      lanes (fun x y => x.toNat + y.toNat) (exec (.vadd d a b e m k) s) (exec (.vaddS d a b e m k) s) ∧
      lanes (fun x y => x.toNat - y.toNat) (exec (.vsub d a b e m k) s) (exec (.vsubS d a b e m k) s) ∧
      lanes (fun x y => x.toNat * y.toNat) (exec (.vmul d a b e m k) s) (exec (.vmulS d a b e m k) s) ∧
      lanes (fun x y => x.toInt * y.toInt / 2 ^ w) (exec (.vmulh d a b e m k) s) (exec (.vmulhS d a b e m k) s) ∧
      lanes (fun x y => (x.toNat * y.toNat / 2 ^ w : Nat)) (exec (.vmulhn d a b e m k) s) (exec (.vmulhnS d a b e m k) s) ∧
      lanes (fun x y => min x.toInt y.toInt) (exec (.vmin d a b e m k) s) (exec (.vminS d a b e m k) s) ∧
      lanes (fun x y => max x.toInt y.toInt) (exec (.vmax d a b e m k) s) (exec (.vmaxS d a b e m k) s) ∧
      lanes (fun x y => (min x.toNat y.toNat : Nat)) (exec (.vminn d a b e m k) s) (exec (.vminnS d a b e m k) s) ∧
      lanes (fun x y => (max x.toNat y.toNat : Nat)) (exec (.vmaxn d a b e m k) s) (exec (.vmaxnS d a b e m k) s) ∧
      lanes (fun x y => (x.toNat &&& y.toNat : Nat)) (exec (.vand d a b e m k) s) (exec (.vandS d a b e m k) s) ∧
      lanes (fun x y => (x.toNat ||| y.toNat : Nat)) (exec (.vor d a b e m k) s) (exec (.vorS d a b e m k) s) ∧
      lanes (fun x y => (x.toNat ^^^ y.toNat : Nat)) (exec (.vxor d a b e m k) s) (exec (.vxorS d a b e m k) s) ∧
      lanes (fun x y => (x.toNat &&& flip y : Nat)) (exec (.vandn d a b e m k) s) (exec (.vandnS d a b e m k) s) ∧
      lanes (fun x y => (x.toNat * 2 ^ (y.toNat % w) : Nat)) (exec (.vsll d a b e m k) s) (exec (.vsllS d a b e m k) s) ∧
      lanes (fun x y => (x.toNat / 2 ^ (y.toNat % w) : Nat)) (exec (.vsrl d a b e m k) s) (exec (.vsrlS d a b e m k) s) ∧
      lanes (fun x y => x.toInt / 2 ^ (y.toNat % w)) (exec (.vsra d a b e m k) s) (exec (.vsraS d a b e m k) s)) ∧
  (∀ (s : State) (d a b : Reg) (e : Ew) (m : MReg) (k : Bool),
      let w := Machine.ewBits e
      let clamp (lo hi v : Int) : BitVec w × Nat := (BitVec.ofInt w (max lo (min hi v)), if lo ≤ v ∧ v ≤ hi then 0 else 32)
      let low : Int := -2 ^ (w - 1)
      let high : Int := 2 ^ (w - 1) - 1
      let lanes (op : BitVec w → BitVec w → BitVec w × Nat) (vector scalar : Out) : Prop :=
        (s.ready .compute ⟨[(.v a, k), (.v b, k)] ++ mergeSrc d m k, [.v d]⟩ = true →
          s.vectorResult d [(.v a, k), (.v b, k)] w m k
            (fun i => op (elem w (s.valV s.cur a) i) (elem w (s.valV s.cur b) i)) vector) ∧
        (s.ready .compute ⟨[(.v a, k), (.s b, k)] ++ mergeSrc d m k, [.v d]⟩ = true →
          s.vectorResult d [(.v a, k), (.s b, k)] w m k
            (fun i => op (elem w (s.valV s.cur a) i) ((s.valS s.cur b).setWidth w)) scalar)
      lanes (fun x y => clamp low high (x.toInt + y.toInt)) (exec (.vadds d a b e m k) s) (exec (.vaddsS d a b e m k) s) ∧
      lanes (fun x y => clamp low high (x.toInt - y.toInt)) (exec (.vsubs d a b e m k) s) (exec (.vsubsS d a b e m k) s) ∧
      lanes (fun x y => clamp 0 (2 ^ w - 1) ((x.toNat : Int) + y.toNat)) (exec (.vaddsn d a b e m k) s)
        (exec (.vaddsnS d a b e m k) s)) ∧
  (∀ (s : State) (d : MReg) (a b : Reg) (e : Ew) (m : MReg) (k : Bool),
      let w := Machine.ewBits e
      let lanes (op : BitVec w → BitVec w → Bool) (vector scalar : Out) : Prop :=
        (s.ready .compute ⟨[(.v a, k), (.v b, k)], []⟩ = true →
          s.maskResult d [(.v a, k), (.v b, k)] w m
            (fun i => (op (elem w (s.valV s.cur a) i) (elem w (s.valV s.cur b) i), 0)) vector) ∧
        (s.ready .compute ⟨[(.v a, k), (.s b, k)], []⟩ = true →
          s.maskResult d [(.v a, k), (.s b, k)] w m
            (fun i => (op (elem w (s.valV s.cur a) i) ((s.valS s.cur b).setWidth w), 0)) scalar)
      lanes (fun x y => decide (x.toNat = y.toNat)) (exec (.vseq d a b e m k) s) (exec (.vseqS d a b e m k) s) ∧
      lanes (fun x y => decide (x.toInt < y.toInt)) (exec (.vslt d a b e m k) s) (exec (.vsltS d a b e m k) s) ∧
      lanes (fun x y => decide (x.toNat < y.toNat)) (exec (.vsltn d a b e m k) s) (exec (.vsltnS d a b e m k) s)) ∧
  (∀ (s : State) (d a b : Reg) (e : Ew) (m : MReg) (k narrow unsigned : Bool) (u : BitVec 2),
      let w := Machine.ewBits e
      let on (v i : Nat) : Bool := (s.me.rdm m).getLsbD (i * v / 8)
      let x (i : Nat) : BitVec w := elem w (s.valV s.cur a) i
      (s.ready .compute ⟨[(.v a, k), (.v b, k)], [.v d]⟩ = true →
        ∃ v, exec (.vsel d a b e m k) s = .next (s.wroteV [(.v a, k), (.v b, k)] d v) ∧
          ∀ i, i < 2048 / w → elem w v i = if on w i then x i else elem w (s.valV s.cur b) i) ∧
      (s.ready .compute ⟨[(.v a, k), (.s b, k)], [.v d]⟩ = true →
        ∃ v, exec (.vselS d a b e m k) s = .next (s.wroteV [(.v a, k), (.s b, k)] d v) ∧
          ∀ i, i < 2048 / w → elem w v i = if on w i then x i else (s.valS s.cur b).setWidth w) ∧
      (s.ready .compute ⟨[(.v a, k)] ++ mergeSrc d m k, [.v d]⟩ = true →
        s.vectorResult d [(.v a, k)] w m k (fun i => (BitVec.ofNat w (x i).toInt.natAbs, 0)) (exec (.vabs d a e m k) s) ∧
        s.vectorResult d [(.v a, k)] w m k
          (fun i => (BitVec.ofNat w ((List.range w).map (fun j => ((x i).getLsbD j).toNat)).sum, 0))
          (exec (.vpopc d a e m k) s) ∧
        s.vectorResult d [(.v a, k)] w m k 
          (fun i => (BitVec.ofNat w ((List.range w).takeWhile (fun j => !(x i).getLsbD (w - 1 - j))).length, 0)) (exec (.vclz d a e m k) s)) ∧
      (let n := if narrow then 16 else 8
       let sum (sg : Bool) (y : Nat → Nat → BitVec n) (j : Nat) : BitVec (4 * n) × Nat :=
         let num (z : BitVec n) : Int := if sg then z.toInt else z.toNat
         let p (t : Nat) : Int := num (elem n (s.valV s.cur a) (4 * j + t)) * num (y j t)
         (BitVec.ofInt (4 * n) (p 0 + p 1 + p 2 + p 3), 0)
       let vec (j t : Nat) : BitVec n := elem n (s.valV s.cur b) (4 * j + t)
       let sc (_ t : Nat) : BitVec n := (s.valS s.cur b).extractLsb' (t * n) n
       (s.ready .compute ⟨[(.v a, k), (.v b, k)] ++ mergeSrc d m k, [.v d]⟩ = true →
         s.vectorResult d [(.v a, k), (.v b, k)] (4 * n) m k (sum true vec) (exec (.vdot4 d a b narrow m k) s) ∧
         s.vectorResult d [(.v a, k), (.v b, k)] (4 * n) m k (sum false vec) (exec (.vdot4n d a b narrow m k) s)) ∧
       (s.ready .compute ⟨[(.v a, k), (.s b, k)] ++ mergeSrc d m k, [.v d]⟩ = true →
         s.vectorResult d [(.v a, k), (.s b, k)] (4 * n) m k (sum true sc) (exec (.vdot4S d a b narrow m k) s) ∧
         s.vectorResult d [(.v a, k), (.s b, k)] (4 * n) m k (sum false sc) (exec (.vdot4nS d a b narrow m k) s))) ∧
      (let srcs := (RegName.v a, k) :: (if m = 0 then [] else [(.v d, k), (.v (d + 1), k)])
       e ≠ .b64 → s.ready .compute ⟨srcs, [.v d, .v (d + 1)]⟩ = true →
        ∃ lo hi, exec (.vwiden d a unsigned e m k) s =
            .next ((((s.popAll s.cur srcs).writeV s.cur d lo).writeV s.cur (d + 1) hi).retire s.cur .next) ∧
          ∀ i, i < 2048 / (2 * w) →
            let wide (j : Nat) : BitVec (2 * w) := if unsigned then (x j).setWidth (2 * w) else (x j).signExtend (2 * w)
            let n := 2048 / (2 * w)
            elem (2 * w) lo i = (if on w i then wide i else elem (2 * w) (s.valV s.cur d) i) ∧
            elem (2 * w) hi i = (if on w (n + i) then wide (n + i) else elem (2 * w) (s.valV s.cur (d + 1)) i)) ∧
      (let srcs := [(RegName.v a, k), (.v (a + 1), k)]
       e ≠ .b8 → s.ready .compute ⟨srcs ++ mergeSrc d m k, [.v d]⟩ = true →
        s.vectorResult d srcs (w / 2) m k (fun i =>
          let y : BitVec w := if i < 2048 / w then x i else elem w (s.valV s.cur (a + 1)) (i - 2048 / w)
          let clamp (lo hi v : Int) : BitVec (w / 2) × Nat :=
            (BitVec.ofInt (w / 2) (max lo (min hi v)), if lo ≤ v ∧ v ≤ hi then 0 else 32)
          if u = 0 then clamp (-2 ^ (w / 2 - 1)) (2 ^ (w / 2 - 1) - 1) y.toInt
          else if u = 1 then clamp 0 (2 ^ (w / 2) - 1) y.toNat
          else (y.setWidth (w / 2), 0)) (exec (.vnarrow d a u e m k) s)))

/-- R101, R109 and R110, the floating operations of VF and VFS in both forms: each enabled lane takes the exact result of
its operands rounded once under VCTL.RM; a fused one reads vd under every mask.

R82 and R110, the floating comparisons into a mask register.

R110 and R111, the floating operations of one operand: square root, reciprocal, exponential and logarithm rounded
under VCTL.RM; the sign operations and the class touch bits alone and raise no flag.

The model's choice, and no rule of the spec: the values of VFEXP2 and VFLOG2 where no enclosure decides the rounding (log
entry 112). -/
def Obligations.VectorFloatResults : Prop :=
  (∀ (s : State) (d a b : Reg) (e : Ew) (m : MReg) (k : Bool),
      let g := ewFmt e
      let w := g.width
      let rm := rmOfField (s.me.vctl.toNat % 8)
      let x (i : Nat) : Value := g.decode (elem w (s.valV s.cur a) i).toNat
      let z (i : Nat) : Value := g.decode (elem w (s.valV s.cur d) i).toNat
      let rounded (r : FRes) : BitVec w × Nat := (BitVec.ofNat w (g.round rm r.1).1, r.2 ||| (g.round rm r.1).2)
      let lanes (op : Nat → Value → FRes) (fused : Bool) (vector scalar : Out) : Prop :=
        let more : List (RegName × Bool) := if fused then [(.v d, k)] else []
        (s.ready .compute ⟨[(.v a, k), (.v b, k)] ++ more ++ mergeSrc d m k, [.v d]⟩ = true →
          s.vectorResult d ([(.v a, k), (.v b, k)] ++ more) w m k
            (fun i => rounded (op i (g.decode (elem w (s.valV s.cur b) i).toNat))) vector) ∧
        (s.ready .compute ⟨[(.v a, k), (.s b, k)] ++ more ++ mergeSrc d m k, [.v d]⟩ = true →
          s.vectorResult d ([(.v a, k), (.s b, k)] ++ more) w m k
            (fun i => rounded (op i (g.decode ((s.valS s.cur b).setWidth w).toNat))) scalar)
      lanes (fun i y => fAdd rm (x i) y) false (exec (.vfadd d a b e m k) s) (exec (.vfaddS d a b e m k) s) ∧
      lanes (fun i y => fSub rm (x i) y) false (exec (.vfsub d a b e m k) s) (exec (.vfsubS d a b e m k) s) ∧
      lanes (fun i y => fMul (x i) y) false (exec (.vfmul d a b e m k) s) (exec (.vfmulS d a b e m k) s) ∧
      lanes (fun i y => fDiv (x i) y) false (exec (.vfdiv d a b e m k) s) (exec (.vfdivS d a b e m k) s) ∧
      lanes (fun i y => fMinMax false (x i) y) false (exec (.vfmin d a b e m k) s) (exec (.vfminS d a b e m k) s) ∧
      lanes (fun i y => fMinMax true (x i) y) false (exec (.vfmax d a b e m k) s) (exec (.vfmaxS d a b e m k) s) ∧
      lanes (fun i y => fFma rm (x i) y (z i)) true (exec (.vfma d a b e m k) s) (exec (.vfmaS d a b e m k) s) ∧
      lanes (fun i y => fFma rm (x i) y (z i).negate) true (exec (.vfms d a b e m k) s) (exec (.vfmsS d a b e m k) s)) ∧
  (∀ (s : State) (d : MReg) (a b : Reg) (e : Ew) (m : MReg) (k : Bool),
      let g := ewFmt e
      let w := g.width
      let x (i : Nat) : Value := g.decode (elem w (s.valV s.cur a) i).toNat
      let lanes (op : Value → Value → Bool × Nat) (vector scalar : Out) : Prop :=
        (s.ready .compute ⟨[(.v a, k), (.v b, k)], []⟩ = true →
          s.maskResult d [(.v a, k), (.v b, k)] w m
            (fun i => op (x i) (g.decode (elem w (s.valV s.cur b) i).toNat)) vector) ∧
        (s.ready .compute ⟨[(.v a, k), (.s b, k)], []⟩ = true →
          s.maskResult d [(.v a, k), (.s b, k)] w m
            (fun i => op (x i) (g.decode ((s.valS s.cur b).setWidth w).toNat)) scalar)
      let nan (x y : Value) : Bool := x.isNan || y.isNan
      let nv (c : Bool) : Nat := if c then 16 else 0
      lanes (fun x y => (!nan x y && numEq x y, nv (x.isSnan || y.isSnan))) (exec (.vfeq d a b e m k) s)
        (exec (.vfeqS d a b e m k) s) ∧
      lanes (fun x y => (!nan x y && numLt x y && !numEq x y, nv (nan x y))) (exec (.vflt d a b e m k) s)
        (exec (.vfltS d a b e m k) s) ∧
      lanes (fun x y => (!nan x y && (numLt x y || numEq x y), nv (nan x y))) (exec (.vfle d a b e m k) s)
        (exec (.vfleS d a b e m k) s)) ∧
  (∀ (s : State) (d a : Reg) (e : Ew) (m : MReg) (k : Bool),
      let g := ewFmt e
      let w := g.width
      let rm := rmOfField (s.me.vctl.toNat % 8)
      let bits (i : Nat) : Nat := (elem w (s.valV s.cur a) i).toNat
      let x (i : Nat) : Value := g.decode (bits i)
      let rounded (r : FRes) : BitVec w × Nat := (BitVec.ofNat w (g.round rm r.1).1, r.2 ||| (g.round rm r.1).2)
      s.ready .compute ⟨[(.v a, k)] ++ mergeSrc d m k, [.v d]⟩ = true →
      let is (f : Nat → BitVec w × Nat) (o : Out) : Prop := s.vectorResult d [(.v a, k)] w m k f o
      is (fun i => rounded (fSqrt (x i))) (exec (.vfsqrt d a e m k) s) ∧
      is (fun i => rounded (fDiv (.fin false 1 0) (x i))) (exec (.vfrcp d a e m k) s) ∧
      is (fun i => (BitVec.ofNat w (fExp2 g rm (x i)).1, (fExp2 g rm (x i)).2)) (exec (.vfexp2 d a e m k) s) ∧
      is (fun i => (BitVec.ofNat w (fLog2 g rm (x i)).1, (fLog2 g rm (x i)).2)) (exec (.vflog2 d a e m k) s) ∧
      is (fun i => (BitVec.ofNat w (bits i % 2 ^ (w - 1)), 0)) (exec (.vfabs d a e m k) s) ∧
      is (fun i => (BitVec.ofNat w (bits i ^^^ 2 ^ (w - 1)), 0)) (exec (.vfneg d a e m k) s) ∧
      is (fun i => (BitVec.ofNat w (2 ^ g.classOf (bits i)), 0)) (exec (.vfclass d a e m k) s))

/-- R112 to R114, VRED and VSCAN: the tree of pairs over the present elements and the identity where none is, in the lowest
element with the rest zero; the doubling network for VSCAN. The flags of every node count as one.

R112 to R114, the levels of the tree and the stages of the network, for every operation and the floating ones among them: level 0
holds the elements, node j of a level is the operation on nodes 2j and 2j + 1 of the level below, the lower first; stage t combines an
element with the one 2^t lanes below it, which comes first; an absent value leaves the other unchanged and unrounded; the flags
are those of all nodes.

R113 and R114 for the integer sums, without reference to a tree: VRED of ADD is the sum of the enabled elements modulo
2^w, 0 when none is; every enabled lane of VSCAN of ADD is the sum of the enabled elements up to it.

The model's choice, and no rule of the spec: that VRED and VSCAN count as one entry for flags and TVAL (log entry 20). -/
def Obligations.ReductionsAndScans : Prop :=
  (∀ (s : State) (d a : Reg) (o : RedOp) (e : Ew) (m : MReg) (k : Bool),
      let w := redWidth o e
      let rm := rmOfField (s.me.vctl.toNat % 8)
      let f := redNode o e rm w
      let mask := s.me.rdm m
      let xs : List (Option (BitVec w)) := (List.range (2048 / w)).map (fun i =>
        if mask.getLsbD (i * w / 8) then some (elem w (s.valV s.cur a) i) else none)
      let r := redTree f (Nat.log2 (2048 / w)) xs
      let ys := scanAll f (Nat.log2 (2048 / w)) 1 xs
      (s.ready .compute ⟨[(.v a, k)], [.v d]⟩ = true →
        s.flagged [(.v a, k)] 1 (fun _ => true) (fun _ => r.2) (exec (.vred d a o e m k) s) (fun t =>
          exec (.vred d a o e m k) s =
            .next ((t.writeV s.cur d ((r.1.getD (redIdentity o e w)).setWidth 2048)).retire s.cur .next))) ∧
      (s.ready .compute ⟨(.v a, k) :: mergeSrc d m k, [.v d]⟩ = true →
        s.flagged ((.v a, k) :: mergeSrc d m k) 1 (fun _ => true) (fun _ => ys.2) (exec (.vscan d a o e m k) s) (fun t =>
          ∃ v, exec (.vscan d a o e m k) s = .next ((t.writeV s.cur d v).retire s.cur .next) ∧
            ∀ i, i < 2048 / w → elem w v i =
              if mask.getLsbD (i * w / 8) then ((ys.1[i]?).getD none).getD 0 else elem w (s.valV s.cur d) i))) ∧
  (∀ (o : RedOp) (e : Ew) (rm : Rm) (xs : List (Option (BitVec (redWidth o e)))), xs.length = 2048 / redWidth o e →
      let w := redWidth o e
      let depth := Nat.log2 (2048 / w)
      let g := ewFmt e
      let rounded (r : FRes) : BitVec w × Nat := (BitVec.ofNat w (g.round rm r.1).1, r.2 ||| (g.round rm r.1).2)
      let node (x y : BitVec w) : BitVec w × Nat := match o with
        | .add => (BitVec.ofNat w (x.toNat + y.toNat), 0)
        | .min => (BitVec.ofInt w (min x.toInt y.toInt), 0)
        | .max => (BitVec.ofInt w (max x.toInt y.toInt), 0)
        | .minn => (BitVec.ofNat w (min x.toNat y.toNat), 0)
        | .maxn => (BitVec.ofNat w (max x.toNat y.toNat), 0)
        | .fadd => rounded (fAdd rm (g.decode x.toNat) (g.decode y.toNat))
        | .fmin => rounded (fMinMax false (g.decode x.toNat) (g.decode y.toNat))
        | .fmax => rounded (fMinMax true (g.decode x.toNat) (g.decode y.toNat))
      let comb (x y : Option (BitVec w)) : Option (BitVec w) × Nat := match x, y with
        | some a, some b => (some (node a b).1, (node a b).2)
        | some a, none => (some a, 0)
        | none, y => (y, 0)
      let f := redNode o e rm w
      let flags (l : List Nat) : Nat := l.foldl (· ||| ·) 0
      (∃ v : Nat → Nat → Option (BitVec w),
        (∀ i, v 0 i = (xs[i]?).getD none) ∧
        (∀ t j, v (t + 1) j = (comb (v t (2 * j)) (v t (2 * j + 1))).1) ∧
        (redTree f depth xs).1 = v depth 0 ∧
        (redTree f depth xs).2 = flags ((List.range depth).map (fun t =>
          flags ((List.range (2048 / w / 2 ^ (t + 1))).map (fun j => (comb (v t (2 * j)) (v t (2 * j + 1))).2))))) ∧
      (∃ y : Nat → Nat → Option (BitVec w),
        (∀ i, y 0 i = (xs[i]?).getD none) ∧
        (∀ t i, y (t + 1) i = if 2 ^ t ≤ i then (comb (y t (i - 2 ^ t)) (y t i)).1 else y t i) ∧
        (∀ i, i < 2048 / w → ((scanAll f depth 1 xs).1[i]?).getD none = y depth i) ∧
        (scanAll f depth 1 xs).2 = flags ((List.range depth).map (fun t =>
          flags ((List.range (2048 / w - 2 ^ t)).map (fun i => (comb (y t i) (y t (i + 2 ^ t))).2)))))) ∧
  (∀ (e : Ew) (rm : Rm) (xs : List (Option (BitVec (Machine.ewBits e)))), xs.length = 2048 / Machine.ewBits e →
      let w := Machine.ewBits e
      let f := redNode .add e rm w
      let sum (l : List (Option (BitVec w))) : BitVec w := BitVec.ofNat w ((l.map (fun x => (x.getD 0).toNat)).sum)
      ((redTree f (Nat.log2 (2048 / w)) xs).1).getD 0 = sum xs ∧
      (redTree f (Nat.log2 (2048 / w)) xs).2 = 0 ∧
      ∀ i, (h : i < xs.length) → (xs[i]).isSome = true →
        (((scanAll f (Nat.log2 (2048 / w)) 1 xs).1[i]?).getD none).getD 0 = sum (xs.take (i + 1)))

/-- The memory of the model, which is one list of the bytes that are not as an unlisted byte reads, keeps its canonical form in every
step, whatever the step is: equal memories stay equal data. (The model's own invariant; that it holds at power-on is in ResetValues.) -/
def Obligations.MemoryStaysCanonical : Prop :=
  ∀ s t : State, Memory.wf s.mem = true → step s = .next t → Memory.wf t.mem = true

/-- R115 and R116, the element moves.

R115, VSORT: vd holds the elements of va and vd + 1 their lanes, as one rearrangement of the lanes: the enabled ones
first, in descending order, equal ones in ascending lane order; then the others in ascending lane order.

R117, R119 to R121, bitmaps and VCVT. VCVT to CB2 traps ILLEGAL.

R122, the mask operations: bits where the governing mask is 1 take the result; the counts and quarters. -/
def Obligations.ElementMovesSortBitmapsAndMasks : Prop :=
  (∀ (s : State) (d a b : Reg) (e : Ew) (m : MReg) (k : Bool),
      let w := Machine.ewBits e
      let n := 2048 / w
      let on (i : Nat) : Bool := (s.me.rdm m).getLsbD (i * w / 8)
      let x (i : Nat) : BitVec w := elem w (s.valV s.cur a) i
      let moves (srcs : List (RegName × Bool)) (f : Nat → BitVec w) (o : Out) : Prop :=
        s.ready .compute ⟨srcs ++ mergeSrc d m k, [.v d]⟩ = true → s.vectorResult d srcs w m k (fun i => (f i, 0)) o
      moves [(.v a, k), (.v b, k)]
        (fun i => let j := (elem w (s.valV s.cur b) i).toNat; if j < n then x j else 0) (exec (.vperm d a b e m k) s) ∧
      moves [(.s a, k)] (fun _ => (s.valS s.cur a).setWidth w) (exec (.vbcast d a e m k) s) ∧
      moves [(.v a, k)] (fun i => x ((List.range i).filter on).length) (exec (.vexpd d a e m k) s) ∧
      moves [(.v a, k), (.s b, k)]
        (fun i => let j := (i : Int) - (s.valS s.cur b).toInt; if 0 ≤ j ∧ j < (n : Nat) then x j.toNat else 0)
        (exec (.vslide d a b e m k) s) ∧
      moves [] (fun i => BitVec.ofNat w i) (exec (.vidx d e m k) s) ∧
      moves [(.s a, k), (.s b, k)]
        (fun i => (mix (s.valS s.cur a) (s.valS s.cur b) (BitVec.ofNat 64 i)).setWidth w) (exec (.vrand d a b e m k) s) ∧
      moves [(.v a, k)]
        (fun i => BitVec.ofNat w ((List.range (i * w)).filter (fun j => (s.valV s.cur a).getLsbD j)).length)
        (exec (.vbpfx d a e m k) s) ∧
      (s.ready .compute ⟨[(.v a, k), (.s b, k)], [.s d]⟩ = true →
        let j := (s.valS s.cur b).toNat
        exec (.vext d a b e m k) s = .next (s.wrote [(.v a, k), (.s b, k)] d
          (if j < n ∧ on j = true then (x j).signExtend 64 else 0))) ∧
      (s.ready .compute ⟨[(.s a, k), (.s b, k), (.v d, k)], [.v d]⟩ = true →
        ∃ v, exec (.vins d a b e m k) s = .next (s.wroteV [(.s a, k), (.s b, k), (.v d, k)] d v) ∧
          ∀ i, i < n → elem w v i = if i = (s.valS s.cur b).toNat ∧ on i = true then (s.valS s.cur a).setWidth w
                                    else elem w (s.valV s.cur d) i) ∧
      (s.ready .compute ⟨[(.v a, k)], [.v d]⟩ = true →
        ∃ v, exec (.vcmpr d a e m k) s = .next (s.wroteV [(.v a, k)] d v) ∧
          (∀ j, j < n → on j = true → elem w v ((List.range j).filter on).length = x j) ∧
          (∀ i, i < n → ((List.range n).filter on).length ≤ i → elem w v i = 0))) ∧
  (∀ (s : State) (d a : Reg) (e : Ew) (m : MReg) (k : Bool),
      let w := (ewFmt e).width
      let n := 2048 / w
      let on (i : Nat) : Bool := (s.me.rdm m).getLsbD (i * w / 8)
      let x (i : Nat) : BitVec w := elem w (s.valV s.cur a) i
      let key (i : Nat) : Nat := totalKey w (x i)
      s.ready .compute ⟨[(.v a, k)], [.v d, .v (d + 1)]⟩ = true →
      ∃ (v i : VWord) (order : List Nat), order.Perm (List.range n) ∧
        exec (.vsort d a e m k) s = .next ((((s.popAll s.cur [(.v a, k)]).writeV s.cur d v).writeV s.cur (d + 1) i).retire
          s.cur .next) ∧
        (∀ j, j < n → elem w v j = x (order.getD j 0) ∧ elem w i j = BitVec.ofNat w (order.getD j 0)) ∧
        (∀ j l, j < l → l < n → (on (order.getD l 0) = true → on (order.getD j 0) = true) ∧
          (on (order.getD j 0) = true → on (order.getD l 0) = true →
            key (order.getD l 0) < key (order.getD j 0) ∨
            (key (order.getD l 0) = key (order.getD j 0) ∧ order.getD j 0 < order.getD l 0)) ∧
          (on (order.getD j 0) = false → order.getD j 0 < order.getD l 0))) ∧
  (∀ (s : State) (d a : Reg) (dm am : MReg) (e : Ew) (m : MReg) (k : Bool) (f : BitVec 5),
      let w := Machine.ewBits e
      let g := ewFmt e
      let rm := rmOfField (s.me.vctl.toNat % 8)
      (s.ready .compute ⟨[(.v a, k)], []⟩ = true →
        s.maskResult dm [(.v a, k)] 8 m (fun i => ((s.valV s.cur a).getLsbD i, 0)) (exec (.vbmask dm a m k) s) ∧
        s.maskResult dm [(.v a, k)] w m (fun i => (decide (elem w (s.valV s.cur a) i ≠ 0), 0)) (exec (.vnz dm a e m k) s)) ∧
      (s.ready .compute ⟨mergeSrc d m k, [.v d]⟩ = true →
        s.vectorResult d [] w m k
          (fun i => (BitVec.ofNat w ((List.range i).filter (fun j => (s.me.rdm am).getLsbD (j * w / 8))).length, 0))
          (exec (.vbrank d am e m k) s)) ∧
      (s.ready .compute ⟨[(.v a, k)], [.v d]⟩ = true →
        (let ls := cvtIn f.toNat g rm (cbtNat (s.station s.cur.st).cbt) (s.valV s.cur a)
         s.flagged [(.v a, k)] ls.length (fun _ => true) (fun i => (ls.getD i (0, 0)).2) (exec (.vcvt d a f e false k) s)
           (fun t => exec (.vcvt d a f e false k) s =
             .next ((t.writeV s.cur d (BitVec.ofNat 2048 (packNat g.width (ls.map (·.1))))).retire s.cur .next))) ∧
        (f ≠ 0x16 →
          let r := cvtOut f.toNat g rm (s.valV s.cur a)
          s.flagged [(.v a, k)] r.2.length (fun _ => true) (fun i => r.2.getD i 0) (exec (.vcvt d a f e true k) s)
            (fun t => exec (.vcvt d a f e true k) s = .next ((t.writeV s.cur d r.1).retire s.cur .next))) ∧
        (f = 0x16 → exec (.vcvt d a f e true k) s = .next (s.trapNow (trapOf 0x01 (s.me.ir.setWidth 64)))))) ∧
  (∀ (s : State) (d a b m : MReg) (r q : Reg) (k : Bool),
      let x := s.me.rdm a
      let y := s.me.rdm b
      let under (srcs : List (RegName × Bool)) (f : Nat → Bool) (o : Out) : Prop :=
        s.ready .compute ⟨srcs, []⟩ = true → ∃ z, o = .next (s.wroteM srcs d z) ∧
          ∀ i, i < 256 → z.getLsbD i = if (s.me.rdm m).getLsbD i then f i else (s.me.rdm d).getLsbD i
      let quarter := (s.valS s.cur q).toNat % 4
      under [] (fun i => x.getLsbD i && y.getLsbD i) (exec (.mand d a b m k) s) ∧
      under [] (fun i => x.getLsbD i || y.getLsbD i) (exec (.mor d a b m k) s) ∧
      under [] (fun i => x.getLsbD i ^^ y.getLsbD i) (exec (.mxor d a b m k) s) ∧
      under [] (fun i => x.getLsbD i && !y.getLsbD i) (exec (.mandn d a b m k) s) ∧
      under [] (fun i => !x.getLsbD i) (exec (.mnot d a m k) s) ∧
      under [(.s r, k), (.s q, k)]
        (fun i => if i / 64 = quarter then (s.valS s.cur r).getLsbD (i % 64) else (s.me.rdm d).getLsbD i)
        (exec (.mfroms d r q m k) s) ∧
      under [(.s r, k)] (fun i => decide (i < (s.valS s.cur r).toNat)) (exec (.msetn d r m k) s) ∧
      (s.ready .compute ⟨[], [.s r]⟩ = true →
        exec (.mpopc r a k) s =
          .next (s.wrote [] r (BitVec.ofNat 64 ((List.range 256).filter (fun i => x.getLsbD i)).length)) ∧
        ∃ c, exec (.mfirst r a k) s = .next (s.wrote [] r (BitVec.ofNat 64 c)) ∧ c ≤ 256 ∧
          (∀ i, i < c → x.getLsbD i = false) ∧ (c < 256 → x.getLsbD c = true)) ∧
      (s.ready .compute ⟨[(.s q, k)], [.s r]⟩ = true →
        exec (.mtos r a q k) s = .next (s.wrote [(.s q, k)] r (x.extractLsb' (64 * quarter) 64))))

/-- R80, R82, R83 and R133 to R135, what the names of the statements on floating point stand for, in rational and real numbers: the
number an element's bits stand for; Round, with its flags, of every number, infinity and NaN; exact sums and products; quotients and
square roots, rounded; and the conversion of a number to an integer in a range. -/
def Obligations.RoundingValues : Prop :=
  ∀ (f : FFmt) (rm : Rm), f ∈ [fp4, fp6a, fp6b, fp8a, fp8b, fp16, bf16, fp32, fp64] → rm ≠ .dyn →
    (∀ neg x, f.signed neg x = (if neg then 2 ^ (f.width - 1) else 0) + x) ∧
    (∀ b, b < 2 ^ f.width →
      let k := b % 2 ^ (f.width - 1)
      let neg : Bool := decide (2 ^ (f.width - 1) ≤ b)
      (k ≤ f.maxBits → ∃ m e, f.decode b = .fin neg m e ∧ real false m e = f.magnitude k) ∧
      (f.special = .ieee → k = f.maxBits + 1 → f.decode b = .inf neg) ∧
      (f.maxBits < k → (f.special = .ieee → k ≠ f.maxBits + 1) →
        f.decode b = .nan neg (decide (f.special = .ieee) && decide (k % 2 ^ f.mb < 2 ^ (f.mb - 1))) (k % 2 ^ f.mb * 2 ^ (52 - f.mb)))) ∧
    (∀ neg m e, m ≠ 0 → f.Rounds rm neg (real false m e : ℚ) (f.round rm (.fin neg m e))) ∧
    (∀ neg e, f.round rm (.fin neg 0 e) = (f.signed neg 0, 0)) ∧
    (∀ neg, f.round rm (.inf neg) =
      if f.special = .ieee then (f.signed neg (f.maxBits + 1), 0) else (f.signed neg f.maxBits, 16)) ∧
    (∀ neg sig frac, frac < 2 ^ 52 →
      let nv := if sig then 16 else 0
      (f.special = .ieee → f.round rm (.nan neg sig frac) =
        (f.signed neg (f.maxBits + 1 + (frac / 2 ^ (52 - f.mb) ||| 2 ^ (f.mb - 1))), nv)) ∧
      (f.special = .nanOnly → f.round rm (.nan neg sig frac) = (f.signed neg (f.maxBits + 1), nv)) ∧
      (f.special = .none → f.round rm (.nan neg sig frac) = (0, 16))) ∧
    (∀ a m e b k g, m ≠ 0 → k ≠ 0 →
      let x := Value.fin a m e
      let y := Value.fin b k g
      let z := real a m e + real b k g
      (z ≠ 0 → ∃ n j h, fAdd rm x y = (.fin n j h, 0) ∧ real n j h = z) ∧
      (z = 0 → fAdd rm x y = (.fin (decide (rm = .rdn)) 0 0, 0)) ∧
      (∃ j h, fMul x y = (.fin (a != b) j h, 0) ∧ real false j h = real false m e * real false k g) ∧
      (fDiv x y).2 = 0 ∧
      f.Rounds rm (a != b) (real false m e / real false k g : ℚ) (f.round rm (fDiv x y).1) ∧
      (fSqrt (.fin false m e)).2 = 0 ∧
      f.Rounds rm false (Real.sqrt (real false m e : ℚ)) (f.round rm (fSqrt (.fin false m e)).1)) ∧
    (∀ lo hi : Int,
      (∀ neg m e, ∃ n, RoundsToInt rm (real neg m e) n ∧ toIntRange rm lo hi (.fin neg m e) =
        if n < lo then (lo, 16) else if hi < n then (hi, 16) else (n, if (n : ℚ) = real neg m e then 0 else 1)) ∧
      (∀ neg, toIntRange rm lo hi (.inf neg) = (if neg then lo else hi, 16)) ∧
      (∀ neg sig frac, toIntRange rm lo hi (.nan neg sig frac) = (0, 16)))

/-- R110, R111 and R136, what the names of the statements on VFEXP2 and VFLOG2 stand for, in real numbers: the power or the
logarithm of each element, rounded once with the flags of R79, and the special operands. Where the model's enclosure does not decide
the rounding at any of four precisions (of 256 to 2,048 bits, and 320 to 2,560), which no operand of these formats is known to bring
about, its value is the model's own (log entry 112) and the statement says nothing. -/
def Obligations.ExponentialAndLogarithmValues : Prop :=
  ∀ (f : FFmt) (rm : Rm) (b : Nat), f ∈ [bf16, fp16, fp32, fp64] → rm ≠ .dyn → b < 2 ^ f.width →
    let x := f.decode b
    let inf := f.maxBits + 1
    (∀ neg sig frac, x = .nan neg sig frac →
      fExp2 f rm x = ((f.round rm (.nan neg false frac)).1, if sig then 16 else 0) ∧
      fLog2 f rm x = ((f.round rm (.nan neg false frac)).1, if sig then 16 else 0)) ∧
    (x = .inf true → fExp2 f rm x = (0, 0) ∧ fLog2 f rm x = (inf + 2 ^ (f.mb - 1), 16)) ∧
    (x = .inf false → fExp2 f rm x = (inf, 0) ∧ fLog2 f rm x = (inf, 0)) ∧
    (∀ neg m e, x = .fin neg m e →
      let y := real neg m e
      let top : Int := Nat.log2 m + e
      let k := (-e).toNat
      let v : Int := if neg then -(m : Int) else m
      let decided : Prop := ∃ p ∈ [256, 512, 1024, 2048],
        (roundEnclosed f rm false (exp2Frac p (v % 2 ^ k).toNat k (2 * 2 ^ p) (2 ^ p)) (16 * k) (v / 2 ^ k - p)).isSome = true
      (((∃ i : Int, y = i) ∨ top < -100 ∨ 12 < top ∨ decided) → f.Rounds rm false ((2 : ℝ) ^ (y : ℝ)) (fExp2 f rm x)) ∧
      (m = 0 → fLog2 f rm x = (f.signed true inf, 8)) ∧
      (m ≠ 0 → neg = true → fLog2 f rm x = (inf + 2 ^ (f.mb - 1), 16)) ∧
      (y = 1 → fLog2 f rm x = (0, 0)) ∧
      (neg = false → m ≠ 0 → y ≠ 1 →
        let t := Nat.log2 m
        let found : Prop := ∃ p ∈ [320, 640, 1280, 2560],
          let v : Int := (e + t) * 2 ^ p + log2Bits (p + 60 + t) p (m * 2 ^ (p + 60)) 0
          (roundEnclosed f rm (decide (v < 0)) (if v < 0 then (v + 3).natAbs else v.natAbs) 3 (-p)).isSome = true
        ((∃ i : Int, y = 2 ^ i) ∨ found) → f.Rounds rm (decide (y < 1)) |Real.logb 2 (y : ℝ)| (fLog2 f rm x)))

/-- R119 to R121, R132, R133 and R137 to R139, what VCVT converts, lane by lane: in direction 0 the element of the packed register at
its bits, by its format's table, with the scale of its block or through the codebook, rounded to the lane format; in direction 1 the
element that a lane is converted to, with its flags, and the scale of each block; the rest of the register is 0. -/
def Obligations.ConversionValues : Prop :=
  ∀ (c : Nat) (g : FFmt) (rm : Rm) (cbt : Nat) (x : VWord), c < 0x1C → g ∈ [bf16, fp16, fp32, fp64] → rm ≠ .dyn →
    let b := codeBits c
    let m := min (2048 / g.width) (2048 / b)
    let first := (m * b + 7) / 8
    let packed (y : VWord) (k : Nat) : Nat := y.toNat / 2 ^ (b * k) % 2 ^ b
    let byte (y : VWord) (k : Nat) : Nat := y.toNat / 2 ^ (8 * (first + k)) % 256
    let unsigned : Prop := c ∈ [0x01, 0x05, 0x07, 0x19]
    let signed : Prop := c ∈ [0x02, 0x04, 0x06, 0x08, 0x18, 0x1A]
    (List.range 28).map codeBits =
      [1, 1, 2, 2, 4, 4, 8, 8, 16, 4, 6, 6, 8, 8, 16, 16, 8, 8, 6, 6, 4, 8, 2, 32, 32, 32, 64, 64] ∧
    (List.range' 9 19).map codeFloat = [some fp4, some fp6a, some fp6b, some fp8a, some fp8b, some fp16, some bf16, some fp8a,
      some fp8b, some fp6a, some fp6b, some fp4, none, none, some fp32, none, none, none, some fp64] ∧
    (let ls := cvtIn c g rm cbt x
     ls.length = m ∧ ∀ k, k < m →
      let is (v : Value) : Prop := ls[k]? = some (g.round rm v)
      let raw := packed x k
      let scale := byte x (k / 32)
      let scaled (v : Value) : Value := if scale = 255 then qNaN else v.scale ((scale : Int) - 127)
      (∀ f, codeFloat c = some f → c < 0x10 ∨ 0x16 < c → is (f.decode raw)) ∧
      (∀ f, codeFloat c = some f → 0x10 ≤ c → c ≤ 0x14 → is (scaled (f.decode raw))) ∧
      (c = 0x15 → is (scaled ((numOfInt (BitVec.ofNat 8 raw).toInt).scale (-6)))) ∧
      (c = 0x00 → is (numOfInt (1 - 2 * raw))) ∧
      (unsigned → is (numOfInt raw)) ∧
      (signed → is (numOfInt (BitVec.ofNat b raw).toInt)) ∧
      (c = 0x03 → raw ≠ 2 → is (numOfInt (BitVec.ofNat 2 raw).toInt)) ∧
      (c = 0x03 → raw = 2 → ls[k]? = some (g.maxBits + 1 + 2 ^ (g.mb - 1), 16)) ∧
      (c = 0x16 →
        let idx := x.toNat / 2 ^ (16 * (k / 8)) % 2 ^ 16
        let j := k % 8
        let mag : Nat := cbt / 2 ^ (24 * (idx / 256)) % 2 ^ 24 / 2 ^ (3 * j) % 8
        let sign (i : Nat) : Nat := idx / 2 ^ (i + 1) % 2
        let sg : Nat := if j = 7 then ((List.range 7).map sign).sum % 2 else sign j
        is (scaled ((numOfInt ((1 - 2 * (sg : Int)) * 2 * mag + (idx % 2 : Nat))).scale (-1))))) ∧
    (c ≠ 0x16 →
     let r := cvtOut c g rm x
     let lane (k : Nat) : Value := g.decode (elem g.width x k).toNat
     r.2.length = m ∧ r.1.toNat < 2 ^ (8 * first + (if 0x10 ≤ c ∧ c ≤ 0x15 then m / 32 * 8 else 0)) ∧ ∀ k, k < m →
      let gives (bits fl : Nat) : Prop := packed r.1 k = bits ∧ r.2[k]? = some fl
      (∀ f, codeFloat c = some f → c < 0x10 ∨ 0x16 < c → gives (f.round rm (lane k)).1 (f.round rm (lane k)).2) ∧
      (c = 0x00 →
        (∀ neg sig frac, lane k = .nan neg sig frac → gives 0 16) ∧
        (∀ neg, lane k = .inf neg → gives (if neg then 1 else 0) 16) ∧
        (∀ neg n e, lane k = .fin neg n e →
          gives (if real neg n e < 0 then 1 else 0) (if real neg n e = 1 ∨ real neg n e = -1 then 0 else 1))) ∧
      (let within (lo hi : Int) : Prop :=
         gives (BitVec.ofInt b (toIntRange rm lo hi (lane k)).1).toNat (toIntRange rm lo hi (lane k)).2
       (unsigned → within 0 (2 ^ b - 1)) ∧ (signed → within (-2 ^ (b - 1)) (2 ^ (b - 1) - 1)) ∧ (c = 0x03 → within (-1) 1)) ∧
      (0x10 ≤ c → c ≤ 0x15 →
        let block (i : Nat) : Value := lane (k / 32 * 32 + i)
        let finite (v : Value) : Bool := match v with | .fin _ _ _ => true | _ => false
        let size (v : Value) : ℚ := match v with | .fin _ n e => real false n e | _ => 0
        ((∃ i, i < 32 ∧ finite (block i) = false) →
          byte r.1 (k / 32) = 255 ∧ gives 0 (if finite (lane k) then 0 else 16)) ∧
        ((∀ i, i < 32 → finite (block i) = true) → ∃ X : Int, (byte r.1 (k / 32) : Int) = X + 127 ∧
          ((∀ i, i < 32 → size (block i) = 0) → X = -127) ∧
          (∀ i (t : Int), i < 32 → (∀ j, j < 32 → size (block j) ≤ size (block i)) → 2 ^ t ≤ size (block i) →
            size (block i) < 2 ^ (t + 1) →
            X = max (-127) (min 127 (t - [8, 15, 2, 4, 2, 0].getD (c - 0x10) 0))) ∧
          (∀ f, codeFloat c = some f →
            gives (f.round rm ((lane k).scale (-X))).1 (f.round rm ((lane k).scale (-X))).2) ∧
          (c = 0x15 → ∀ neg n e, lane k = .fin neg n e → ∃ i, RoundsToInt rm (real neg n (e - (X - 6))) i ∧
            gives (BitVec.ofInt 8 (max (-128) (min 127 i))).toNat
              (if i < -128 ∨ 127 < i then 5 else if (i : ℚ) = real neg n (e - (X - 6)) then 0 else 1)))))

/-- R123 to R125, VLD and VST of 256 bytes outside TYPED banks: a multiple of 32, reachable, and sent to its home.

R125 and R230, VLD and VST of a TYPED bank: a multiple of 32 that names whole groups of the bank, without a qualifier,
and for VST no CB2 bank; the elements are as many as VCTL.TW says, and a VST converts them as they leave.

R126 to R128, gathers and scatters: the base is a multiple of the element; every enabled element's address, base +
index × bytes, is checked, lowest lane first; with no element enabled nothing is accessed; the elements then go to their
homes, those of another station of the pool together, once its hold queue has room for them.

The model's choice, and no rule of the spec: the flags and the trap of a typed store, which are those of conversion and of
placement together (log entry 20), and that the lowest-numbered refused element of a gather traps (entry 165). -/
def Obligations.VectorAccessesIssue : Prop :=
  (∀ (s : State) (d a : Reg) (k : Bool) (q : Qual) (o : BitVec 13),
      let addr := s.valS s.cur a + BitVec.ofInt 64 (o.toInt * 32)
      let checked (t : State) (r : Out) (done : State) : Prop :=
        r = if addr.toNat % 32 ≠ 0 then .next (s.trapNow (trapOf 0x03 addr))
            else match t.accessFault s.cur addr 256 q false with
              | some e => .next (s.trapNow e)
              | none => if t.accessWaits s.cur addr q = true then .next s.wait else .next done
      (s.ready .vload ⟨[(.s a, k)], [.v d]⟩ = true →
        let t := s.popAll s.cur [(.s a, k)]
        t.typedBank s.cur addr = none →
        checked t (exec (.vld d a k q o) s)
          ((t.startLoad s.cur (.vector d false) addr q (t.partsOf (t.ownAccess s.cur) .load addr 256 q [])).retire
            s.cur .load)) ∧
      (s.ready .vstore ⟨[(.v d, k), (.s a, k)], []⟩ = true →
        let t := s.popAll s.cur [(.v d, k), (.s a, k)]
        t.typedBank s.cur addr = none →
        checked t (exec (.vst d a k q o) s)
          ((t.startStore s.cur addr false q (t.partsOf (t.ownAccess s.cur) .store addr 256 q
            ((List.range 256).map (fun i => (s.valV s.cur d).extractLsb' (8 * i) 8)))).retire s.cur .next))) ∧
  (∀ (s : State) (d a : Reg) (k : Bool) (q : Qual) (o : BitVec 13) (f : BankFmt) (off : Nat),
      let addr := s.valS s.cur a + BitVec.ofInt 64 (o.toInt * 32)
      let checked (t : State) (legal : Prop) [Decidable legal] (n : Nat) (r : Out) (done : Prop) : Prop :=
        (addr.toNat % 32 ≠ 0 → r = .next (s.trapNow (trapOf 0x03 addr))) ∧
        (addr.toNat % 32 = 0 → ¬ legal → r = .next (s.trapNow (trapOf 0x04 addr))) ∧
        (addr.toNat % 32 = 0 → legal → ∀ e, t.accessFault s.cur addr n q true = some e → r = .next (s.trapNow e)) ∧
        (addr.toNat % 32 = 0 → legal → t.accessFault s.cur addr n q true = none → t.accessWaits s.cur addr q = true →
          r = .next s.wait) ∧
        (addr.toNat % 32 = 0 → legal → t.accessFault s.cur addr n q true = none → t.accessWaits s.cur addr q = false → done)
      (s.ready .vload ⟨[(.s a, k)], [.v d]⟩ = true →
        let t := s.popAll s.cur [(.s a, k)]
        t.typedBank s.cur addr = some (f, off) →
        let n := twLanes (t.me.vctl.toNat / 2 ^ 17 % 4)
        checked t (q = .plain ∧ typedFits f off n = true) n (exec (.vld d a k q o) s)
          (exec (.vld d a k q o) s = .next ((t.startLoad s.cur (.vector d true) addr q
            (t.partsOf (t.ownAccess s.cur) .load addr n q [])).retire s.cur .load))) ∧
      (s.ready .vstore ⟨[(.v d, k), (.s a, k)], []⟩ = true →
        let t := s.popAll s.cur [(.v d, k), (.s a, k)]
        t.typedBank s.cur addr = some (f, off) →
        let tw := t.me.vctl.toNat / 2 ^ 17 % 4
        let n := twLanes tw
        let st := typedStore f tw (rmOfField (t.me.vctl.toNat % 8)) (s.valV s.cur d)
        checked t (q = .plain ∧ typedFits f off n = true ∧ f.fmt ≠ 0x16) n (exec (.vst d a k q o) s)
          (s.flagged [(.v d, k), (.s a, k)] st.2.length (fun _ => true) (fun i => st.2.getD i 0) (exec (.vst d a k q o) s)
            (fun u => exec (.vst d a k q o) s = .next ((u.startStore s.cur addr false q
              ((u.partsOf (u.ownAccess s.cur) .store addr n q []).map (fun p => { p with data := st.1 }))).retire
                s.cur .next))))) ∧
  (∀ (s : State) (d a b : Reg) (e : Ew) (m : MReg) (k : Bool),
      let w := Machine.ewBits e
      let n := w / 8
      let base := s.valS s.cur b
      let on := (List.range (2048 / w)).filter (fun i => (s.me.rdm m).getLsbD (i * w / 8))
      let addr (i : Nat) : Word := base + BitVec.ofNat 64 ((elem w (s.valV s.cur a) i).toNat * n)
      let parts (t : State) (kind : PartKind) (data : Nat → List Byte) : List AccPart :=
        t.elemParts kind n (on.map (fun i => (i, addr i, data i)))
      let waits (t : State) : Prop :=
        (∃ i ∈ on, t.accessWaits s.cur (addr i) .plain = true) ∨ t.elemRoom s.cur (on.map (fun i => (addr i).toNat)) = false
      let checked (t : State) (r none some_ : Out) : Prop :=
        (base.toNat % n ≠ 0 → r = .next (s.trapNow (trapOf 0x03 base))) ∧
        (base.toNat % n = 0 → ∀ pre i post x, on = pre ++ i :: post →
          (∀ j ∈ pre, t.accessFault s.cur (addr j) n .plain false = .none) →
          t.accessFault s.cur (addr i) n .plain false = some x → r = .next (s.trapNow x)) ∧
        (base.toNat % n = 0 → (∀ i ∈ on, t.accessFault s.cur (addr i) n .plain false = .none) →
          (waits t → r = .next s.wait) ∧ (¬ waits t → r = if on = [] then none else some_))
      (let srcs := [(.v a, k), (.s b, k)] ++ mergeSrc d m k
       s.ready .vload ⟨srcs, [.v d]⟩ = true →
        let t := s.popAll s.cur srcs
        checked t (exec (.vldx d a b e m k) s)
          (.next ((t.writeV s.cur d (s.valV s.cur d)).retire s.cur .next))
          (.next (((t.addUnsettled s.cur (.gather d n on) base false (parts t .load (fun _ => [])).length).bump.startElems
            s.cur (parts t .load (fun _ => []))).retire s.cur .load))) ∧
      (let srcs := [(RegName.v d, k), (.v a, k), (.s b, k)]
       let data (i : Nat) : List Byte := leBytes (elem w (s.valV s.cur d) i).toNat n
       s.ready .vstore ⟨srcs, []⟩ = true →
        let t := s.popAll s.cur srcs
        checked t (exec (.vstx d a b e m k) s)
          (.next (t.retire s.cur .next))
          (.next (((t.addStore s.cur base false false (parts t .store data).length).bump.startElems
            s.cur (parts t .store data)).retire s.cur .next))))

/-- R376, the new value of every atomic and reduction over w = 32 or 64 bits: x is the old value, y the operand, z the
expected value of AMCAS, which writes nothing when it differs from x.

R340, R377 and R378, a ready returning atomic: a multiple of its size, reachable, released by what its rl asks; it
then issues with its operands, and its destination is empty until the old value lands; with aq it is an acquire point.

R377 and R379, a ready reduction: checked as an atomic is, and sent to its home; no register is written. -/
def Obligations.Atomics : Prop :=
  (∀ (wide : Bool) (x y z : BitVec (if wide then 64 else 32)),
      let w := if wide then 64 else 32
      let f := if wide then fp64 else fp32
      let v (op : AmoOp) : Option Nat := amoNew op w x.toNat y.toNat z.toNat
      v .add = some (x + y).toNat ∧ v .and = some (x &&& y).toNat ∧ v .or = some (x ||| y).toNat ∧
      v .xor = some (x ^^^ y).toNat ∧
      v .min = some (if y.toInt < x.toInt then y else x).toNat ∧ v .max = some (if x.toInt < y.toInt then y else x).toNat ∧
      v .minn = some (min x.toNat y.toNat) ∧ v .maxn = some (max x.toNat y.toNat) ∧ v .swp = some y.toNat ∧
      v .cas = (if x = z then some y.toNat else none) ∧
      v .fadd = some (f.round .rne (fAdd .rne (f.decode x.toNat) (f.decode y.toNat)).1).1 ∧
      v .fmin = some (f.round .rne (fMinMax false (f.decode x.toNat) (f.decode y.toNat)).1).1 ∧
      v .fmax = some (f.round .rne (fMinMax true (f.decode x.toNat) (f.decode y.toNat)).1).1) ∧
  (∀ (s : State) (d a b : Reg) (ka kb wide aq rl : Bool),
      let addr := s.valS s.cur a
      let n := if wide then 8 else 4
      let out (op : AmoOp) (more : List (RegName × Bool)) : Out :=
        let t := s.popAll s.cur ([(.s a, ka), (.s b, kb)] ++ more)
        if addr.toNat % n ≠ 0 then .next (s.trapNow (trapOf 0x03 addr))
        else match t.accessFault s.cur addr n .plain false with
          | some x => .next (s.trapNow x)
          | none =>
            if t.accessWaits s.cur addr .plain = true then .next s.wait
            else if t.regionOf s.cur addr.toNat = some .control ∨ t.regionOf s.cur addr.toNat = some .slices then
              .next (s.trapNow (trapOf 0x04 addr))
            else if rl = true ∧ t.atomReleased s.cur addr = false then .next s.wait
            else
              let u := t.startLoad s.cur (.amo d wide (op = .fadd || op = .fmin || op = .fmax) aq) addr .plain
                (t.atomParts (.amo op wide) addr n (s.valS s.cur b) (s.valS s.cur d))
              .next ((if aq then u.modHolder s.cur (fun h => { h with acquire := some t.ops }) else u).retire s.cur .load)
      (s.ready .vstore ⟨[(.s a, ka), (.s b, kb)], [.s d]⟩ = true →
        exec (.amadd d a b ka kb wide aq rl) s = out .add [] ∧ exec (.amand d a b ka kb wide aq rl) s = out .and [] ∧
        exec (.amor d a b ka kb wide aq rl) s = out .or [] ∧ exec (.amxor d a b ka kb wide aq rl) s = out .xor [] ∧
        exec (.ammin d a b ka kb wide aq rl) s = out .min [] ∧ exec (.ammax d a b ka kb wide aq rl) s = out .max [] ∧
        exec (.amminn d a b ka kb wide aq rl) s = out .minn [] ∧ exec (.ammaxn d a b ka kb wide aq rl) s = out .maxn [] ∧
        exec (.amswp d a b ka kb wide aq rl) s = out .swp [] ∧
        exec (.amfadd d a b ka kb wide aq rl) s = out .fadd [] ∧ exec (.amfmin d a b ka kb wide aq rl) s = out .fmin [] ∧
        exec (.amfmax d a b ka kb wide aq rl) s = out .fmax []) ∧
      (s.ready .vstore ⟨[(.s a, ka), (.s b, kb), (.s d, false)], [.s d]⟩ = true →
        exec (.amcas d a b ka kb wide aq rl) s = out .cas [(.s d, false)])) ∧
  (∀ (s : State) (a b : Reg) (ka kb wide rl : Bool),
      s.ready .vstore ⟨[(.s a, ka), (.s b, kb)], []⟩ = true →
      let addr := s.valS s.cur a
      let n := if wide then 8 else 4
      let t := s.popAll s.cur [(.s a, ka), (.s b, kb)]
      let out (op : AmoOp) : Out :=
        if addr.toNat % n ≠ 0 then .next (s.trapNow (trapOf 0x03 addr))
        else match t.accessFault s.cur addr n .plain false with
          | some x => .next (s.trapNow x)
          | none =>
            if t.accessWaits s.cur addr .plain = true then .next s.wait
            else if t.regionOf s.cur addr.toNat = some .control ∨ t.regionOf s.cur addr.toNat = some .slices then
              .next (s.trapNow (trapOf 0x04 addr))
            else if rl = true ∧ t.atomReleased s.cur addr = false then .next s.wait
            else .next ((t.startStore s.cur addr true .plain
              (t.atomParts (.red op wide) addr n (s.valS s.cur b) 0)).retire s.cur .next)
      exec (.redadd a b ka kb wide rl) s = out .add ∧ exec (.redand a b ka kb wide rl) s = out .and ∧
      exec (.redor a b ka kb wide rl) s = out .or ∧ exec (.redxor a b ka kb wide rl) s = out .xor ∧
      exec (.redmin a b ka kb wide rl) s = out .min ∧ exec (.redmax a b ka kb wide rl) s = out .max ∧
      exec (.redminn a b ka kb wide rl) s = out .minn ∧ exec (.redmaxn a b ka kb wide rl) s = out .maxn ∧
      exec (.redfadd a b ka kb wide rl) s = out .fadd ∧ exec (.redfmin a b ka kb wide rl) s = out .fmin ∧
      exec (.redfmax a b ka kb wide rl) s = out .fmax)

/-- R352 and R353, TAKING A TRAP in a task's core or an innkeeper: EPC, CAUSE, TVAL and, for a trap with an address, FVA;
SIGSAV takes SIGACC, which is reset; the loop stack is frozen and its depth kept; INH is set; the PC goes to TVEC; the
registers, masks and flags stay. A trap in a handler, or without a vector, leaves its record and kills the task.

R39, the trap of a loader or a storer: it stops, and the slot it serves takes the trap at its next boundary, with the
PC of the access core in TVAL and the source 1 or 2. -/
def Obligations.TrapEntry : Prop :=
  (∀ (s : State) (w : Who) (pc : Word) (x : TrapInfo) (n : Nat), w.core ≠ .loader → w.core ≠ .storer →
      let h := s.holder w
      (h.inh = false → h.tvec ≠ 0 →
        let t := s.takeTrap w pc x n
        let k := t.holder w
        k.epc = pc ∧ k.cause = BitVec.ofNat 64 x.cause ∧ k.tval = x.tval ∧ k.fva = x.fva.getD h.fva ∧
        k.sigsav = h.sigacc ∧ k.sigacc = 0 ∧ k.source = n ∧ k.inh = true ∧ k.pc = h.tvec ∧
        k.loopsAt = h.loops.length ∧ k.loops = h.loops.map (fun l => { l with frozen := true }) ∧
        k.s = h.s ∧ k.v = h.v ∧ k.m = h.m ∧ k.fctl = h.fctl ∧ k.fflags = h.fflags ∧ k.vctl = h.vctl ∧
        k.vflags = h.vflags ∧ k.tvec = h.tvec ∧ k.state = h.state ∧ k.failure = (if x.held then none else h.failure) ∧
        t.mem = s.mem ∧ (∀ v, v ≠ w → t.holder v = s.holder v)) ∧
      (h.inh = true → s.takeTrap w pc x n =
        (s.record (homeBank w.st) 2 0x02 x.cause pc (h.cause &&& 0xFF) h.taskid).kill w false) ∧
      (h.inh = false → h.tvec = 0 → s.takeTrap w pc x n =
        (s.record (homeBank w.st) 2 0x01 x.cause pc x.tval h.taskid).kill w false)) ∧
  (∀ (s : State) (w : Who) (pc : Word) (x : TrapInfo) (n : Nat), w.core = .loader ∨ w.core = .storer →
      let slot : Who := { w with core := slotOf (s.holder w).serves }
      s.takeTrap w pc x n = (s.restCore w).modHolder slot (fun h =>
        { h with asyncTrap := h.asyncTrap ++
          [({ x with tval := pc, held := false }, if w.core = .loader then 1 else 2)] }))

/-- R354 and R383, TRET in a handler: PC := EPC, SIGACC := SIGSAV, INH := 0; the handler's own loops are discarded, those
of the interrupted code thawed, and every innermost one whose body does not hold EPC popped. Outside a handler it traps
ILLEGAL, and with context 0 parked by its slot ENGINE 0x6A.

R382 and R159, TRAP takes the trap SOFTWARE with its code, and BREAK the trap BREAK, or, with halt-on-break set,
completes and halts the station at its next boundary.

R356 to R359 and R396: the fold; SIGCHK with the right value resets the accumulator and goes on; with a wrong one, as
long as no load is unsettled, it leaves an uncorrected record of KIND 0x09 and the station kills itself with WHY 3; past an
unsettled load it goes on and the check waits for it. -/
def Obligations.TrapReturnTrapsAndSignatures : Prop :=
  (∀ (s : State), s.ready .held ⟨[], []⟩ = true →
      let h := s.me
      (h.inh = false → exec .tret s = .next (s.trapNow (trapOf 0x01 (h.ir.setWidth 64)))) ∧
      (h.inh = true →
        (s.station s.cur.st).parkedBy = some (slotNumber s.cur.core) → (s.station s.cur.st).restoring = false → s.cur.core ∈ taskCores →
        exec .tret s = .next (s.trapNow (trapOf 0x08 0x36A))) ∧
      (h.inh = true →
        ((s.station s.cur.st).parkedBy ≠ some (slotNumber s.cur.core) ∨ (s.station s.cur.st).restoring = true ∨ s.cur.core ∉ taskCores) →
        ∃ t, exec .tret s = .next t ∧ (t.holder s.cur).pc = h.epc ∧ (t.holder s.cur).inh = false ∧
          (t.holder s.cur).sigacc = h.sigsav ∧ (t.holder s.cur).epc = h.epc ∧ (t.holder s.cur).cause = h.cause ∧
          (t.holder s.cur).s = h.s ∧ (t.holder s.cur).v = h.v ∧ t.mem = s.mem ∧
          (∃ gone, (h.loops.drop (h.loops.length - h.loopsAt)).map (fun l => { l with frozen := false }) =
              gone ++ (t.holder s.cur).loops ∧
            (∀ e ∈ gone, ¬ (e.start.toNat ≤ h.epc.toNat ∧ h.epc.toNat ≤ e.start.toNat + 4 * (e.len - 1))) ∧
            (∀ e ∈ (t.holder s.cur).loops.head?,
              e.start.toNat ≤ h.epc.toNat ∧ h.epc.toNat ≤ e.start.toNat + 4 * (e.len - 1))))) ∧
  (∀ (s : State) (c : BitVec 10), s.ready .held ⟨[], []⟩ = true →
      exec (.trap c) s = .next (s.takeTrap s.cur s.me.pc (trapOf 0x0D (c.setWidth 64)) 0) ∧
      (s.dbgctl = false ∨ 8192 ≤ s.cur.st →
        exec (.brk c) s = .next (s.takeTrap s.cur s.me.pc (trapOf 0x0E (c.setWidth 64)) 0)) ∧
      (s.dbgctl = true → s.cur.st < 8192 →
        exec (.brk c) s = .next (((s.modStation s.cur.st (fun x => { x with halted := true })).later
          (.debugHalt s.cur.st)).retire s.cur .next))) ∧
  ((∀ (acc : BitVec 15) (t : Nat), t < 2 ^ 22 →
      foldToken acc t = (acc <<< 5 ||| acc >>> 10) ^^^ (BitVec.ofNat 15 (t % 2 ^ 15) ^^^ BitVec.ofNat 15 (t / 2 ^ 15))) ∧
    (∀ (s : State) (e : BitVec 15), s.ready .plain ⟨[], []⟩ = true → s.cur.st < 8192 →
      let h := s.me
      (h.sigacc = e → ∃ t, exec (.sigchk e) s = .next t ∧ (t.holder s.cur).sigacc = 0 ∧
        (t.holder s.cur).pc = (h.advance .next).pc ∧ (t.holder s.cur).s = h.s ∧ t.mem = s.mem) ∧
      (h.sigacc ≠ e → h.unsettled = [] → exec (.sigchk e) s = .next ((s.recordUncorrected (homeBank s.cur.st) 0x09 0 h.pc
        (BitVec.ofNat 64 (e.toNat * 2 ^ 16 + h.sigacc.toNat)) (s.holder (s.worksFor s.cur)).taskid).stationKill
          s.cur.st 3)) ∧
      (h.sigacc ≠ e → h.unsettled ≠ [] → ∃ t, exec (.sigchk e) s = .next t ∧ (t.holder s.cur).sigacc = 0 ∧
        (t.holder s.cur).pc = (h.advance .next).pc ∧
        ∃ u ∈ (t.holder s.cur).unsettled, (h.pc, e, h.sigacc) ∈ u.checks)))

/-- R351, R384 and R385, CRR: a register its core may not read traps ACCESS with the number; else d takes its value. The
registers of a slot, one by one, and the fields of TSTATUS.

R77, R101, R351, R384 and R385, CRW, CRS and CRC of a slot's own registers: the new value, from the old one and the
operand, under the register's own rules; a value that sets a must-be-zero bit of FCTL, VCTL, PGCEIL or PGTRIES traps
ACCESS and changes nothing; a register that is read only ignores the write.

R26, R293 to R300, R384 and R385, writes to a station's registers: the numbers a slot may not write trap ACCESS; the
urgent bank stages TENANT and WAYMASK in its open window, and writes them for the station's next cycle else; PCNT and THR re-arm. -/
def Obligations.ControlRegisters : Prop :=
  (∀ (s : State) (d : Reg) (c : BitVec 10), s.ready .plain ⟨[], [.s d]⟩ = true →
      let may : Prop := match s.cur.core with
        | .loader | .storer => c = 0x00A ∨ c = 0x00B ∨ c = 0x00E ∨ c = 0x00F
        | .keeper => c.toNat ≤ 0x011 ∨ c = 0x074
        | _ => True
      (¬ may → exec (.crr d c) s = .next (s.trapNow (trapOf 0x04 (c.setWidth 64)))) ∧
      (may → ∃ v, exec (.crr d c) s = .next (s.wrote [] d v) ∧
        (let h := s.me
         s.cur.core ∈ taskCores →
         (c = 0x000 → v.getLsbD 0 = h.inh ∧ v.getLsbD 8 = h.failure.isSome ∧ v.extractLsb' 32 15 = h.sigacc ∧
           v.extractLsb' 48 15 = h.sigsav ∧ v.extractLsb' 12 2 = BitVec.ofNat 2 h.source ∧
           v.extractLsb' 16 3 = BitVec.ofNat 3 h.loopsAt ∧ v.extractLsb' 24 8 = BitVec.ofNat 8 h.nfail) ∧
         (c = 0x001 → v = h.epc) ∧ (c = 0x002 → v = h.cause) ∧ (c = 0x003 → v = h.fva) ∧ (c = 0x004 → v = h.tval) ∧
         (c = 0x005 → v = h.tvec) ∧ (c = 0x006 → v = h.fctl) ∧ (c = 0x007 → v = h.fflags) ∧ (c = 0x008 → v = h.vctl) ∧
         (c = 0x009 → v = h.vflags) ∧ (c = 0x00A → v = h.taskid) ∧ (c = 0x00B → v = h.tilec) ∧
         (c = 0x00C → v = BitVec.ofNat 64 h.cls) ∧ (c = 0x00D → v = h.deadl) ∧
         (c = 0x00E → v = BitVec.ofNat 64 (rankOf s.cur.st)) ∧ (c = 0x00F → v = BitVec.ofNat 64 s.now) ∧
         (c = 0x010 → v = BitVec.ofNat 64 h.pgceil) ∧ (c = 0x011 → v = BitVec.ofNat 64 h.pgtries)))) ∧
  (∀ (s : State) (d : Reg) (c : BitVec 10), s.ready .held ⟨[(.s d, false)], []⟩ = true → s.cur.core ∈ taskCores →
      let t := s.popAll s.cur [(.s d, false)]
      let v := s.valS s.cur d
      let old := t.crValue s.cur c.toNat
      let refused : Out := .next (s.trapNow (trapOf 0x04 (c.setWidth 64)))
      let does (new : Word) (o : Out) : Prop :=
        let puts (f : Holder → Holder) : Prop := o = .next ((t.modHolder s.cur f).retire s.cur .next)
        (c = 0x000 → puts (fun h =>
          { h with sigsav := new.extractLsb' 48 15, nfail := new.toNat / 2 ^ 24 % 256,
                   failure := if new.getLsbD 8 then h.failure else none })) ∧
        (c = 0x001 → puts (fun h => { h with epc := new &&& ~~~3 })) ∧
        (c = 0x002 → puts (fun h => { h with cause := new &&& 0xFF })) ∧
        (c = 0x003 → puts (fun h => { h with fva := new })) ∧
        (c = 0x004 → puts (fun h => { h with tval := new })) ∧
        (c = 0x005 → puts (fun h => { h with tvec := new &&& ~~~3 })) ∧
        (c = 0x006 → if new.toNat / 2 ^ 13 = 0 ∧ new.toNat / 8 % 32 = 0 ∧ new.toNat % 8 ≤ 4
          then puts (fun h => { h with fctl := new }) else o = refused) ∧
        (c = 0x007 → puts (fun h => { h with fflags := new &&& 0x1F })) ∧
        (c = 0x008 → if new.toNat / 2 ^ 19 = 0 ∧ new.toNat / 2 ^ 13 % 16 = 0 ∧ new.toNat / 8 % 32 = 0 ∧ new.toNat % 8 ≤ 4
          then puts (fun h => { h with vctl := new }) else o = refused) ∧
        (c = 0x009 → puts (fun h => { h with vflags := new &&& 0x3F })) ∧
        (c = 0x010 → if 256 ≤ new.toNat ∧ new.toNat < 2 ^ 24 then puts (fun h => { h with pgceil := new.toNat })
          else o = refused) ∧
        (c = 0x011 → if new.toNat < 256 then puts (fun h => { h with pgtries := new.toNat }) else o = refused) ∧
        (0x00A ≤ c.toNat → c.toNat ≤ 0x00F → o = .next (t.retire s.cur .next))
      does v (exec (.crw d c) s) ∧ does (old ||| v) (exec (.crs d c) s) ∧ does (old &&& ~~~v) (exec (.crc d c) s)) ∧
  (∀ (s : State) (d : Reg) (c : BitVec 10), s.ready .held ⟨[(.s d, false)], []⟩ = true →
      let t := s.popAll s.cur [(.s d, false)]
      let v := s.valS s.cur d
      let n := c.toNat
      let refused : Out := .next (s.trapNow (trapOf 0x04 (c.setWidth 64)))
      let mask : Prop := n = 0x044 ∨ (0x050 ≤ n ∧ n < 0x060)
      let legal : Prop := if n = 0x044 then v.toNat < 2 ^ 20 else v.toNat < 2 ^ 16
      (s.cur.core = .loader ∨ s.cur.core = .storer → exec (.crw d c) s = refused) ∧
      (s.cur.core ∈ taskCores →
        (s.cur.core ≠ .urgent → mask → exec (.crw d c) s = refused) ∧
        (s.cur.core = .urgent → mask → ¬ legal → exec (.crw d c) s = refused) ∧
        (s.cur.core = .urgent → mask → legal → (t.holder s.cur).window.isSome = true →
          exec (.crw d c) s =
            .next ((t.modStation s.cur.st (fun x => { x with staged := put n v x.staged })).retire s.cur .next)) ∧
        (s.cur.core = .urgent → mask → legal → (t.holder s.cur).window = none →
          exec (.crw d c) s =
            .next ((t.modStation s.cur.st (fun x => { x with late := x.late ++ [(n, v, t.clock (dieOf s.cur.st) + 1)] })).retire s.cur
              .next)) ∧
        (0x080 ≤ n → n < 0x0A0 → exec (.crw d c) s = .next ((t.writePcnt s.cur.st (n - 0x080) v).retire s.cur .next)) ∧
        (0x0A0 ≤ n → n < 0x0C0 → exec (.crw d c) s = match t.writeThr s.cur.st (n - 0x0A0) v with
          | some u => .next (u.retire s.cur .next)
          | none => refused) ∧
        (0x060 ≤ n → n ≤ 0x072 → exec (.crw d c) s = .next (t.retire s.cur .next)) ∧
        (0x100 ≤ n → n < 0x110 → exec (.crw d c) s = refused)))

/-- R386, R387, R388 and R395: NOP; SETE of a register that no port is bound to and no load is on its way to; TSTF of the
scalar and the vector register of a number; the masked window opened and closed.

R16, R41, R179 and R199, TEND of a task that has nothing outstanding and no held failure: its slot becomes FREE, or is
kept for a waiting gang, and its completion is signalled. The task's loader and storer issue no more, what waits at a home is
withdrawn, and while something is outstanding, or the hold queue has no room for the leaves of its phasers, the TEND waits. With a failure held it traps. A loader or storer stops once its loads are settled.

The model's choice, and no rule of the spec: that TSTF's bit 0 is the scalar register's, against R387's example (log entry
126), that TEND waits for the returning commands as for loads (entry 131), and that a stopping loader or storer issues
nothing and takes no held trap (entry 18). -/
def Obligations.SmallSystemInstructionsAndTaskEnd : Prop :=
  (∀ (s : State) (d a : Reg),
      (s.ready .plain ⟨[], []⟩ = true → exec .nop s = .next (s.passed [])) ∧
      (s.ready .plain ⟨[], []⟩ = true →
        (∀ b, s.me.binding (.s d) = some b → exec (.sete d) s = .next (s.trapNow (trapOf 0x09 (BitVec.ofNat 64 b.port)))) ∧
        (s.me.binding (.s d) = none → (∃ op, s.me.avail (.s d) = .pending op) → exec (.sete d) s = .next s.wait) ∧
        (s.me.binding (.s d) = none → (∀ op, s.me.avail (.s d) ≠ .pending op) →
          ∃ h, exec (.sete d) s = .next ((s.setHolder s.cur h).retire s.cur .next) ∧
            (d ≠ 0 → h.avail (.s d) = .empty) ∧ (∀ r, h.rd r = s.me.rd r) ∧
            (∀ r, r ≠ d → h.avail (.s r) = s.me.avail (.s r)))) ∧
      (s.ready .plain ⟨[], [.s d]⟩ = true → ∃ v, exec (.tstf d a) s = .next (s.wrote [] d v) ∧ v.toNat < 4 ∧
        (s.me.binding (.s a) = none → (v.getLsbD 0 = true ↔ s.me.avail (.s a) = .full)) ∧
        (s.me.binding (.v a) = none → s.cur.core ≠ .loader → s.cur.core ≠ .storer →
          (v.getLsbD 1 = true ↔ s.me.avail (.v a) = .full))) ∧
      (s.ready .vheld ⟨[], []⟩ = true →
        (s.me.window.isSome = true → exec .winbeg s = .next (s.passed [])) ∧
        (s.me.window = none → s.cur.core ≠ .urgent → (s.holder { s.cur with core := .urgent }).state = .pending →
          exec .winbeg s = .next s.wait) ∧
        (s.me.window = none → s.cur.core = .urgent ∨ (s.holder { s.cur with core := .urgent }).state ≠ .pending →
          let c := s.clock (dieOf s.cur.st)
          exec .winbeg s = .next (((s.modHolder s.cur (fun h => { h with window := some c })).laterAt (s.now + 512)
            (.maskwinExpiry s.cur c)).retire s.cur .next))) ∧
      (s.ready .compute ⟨[], []⟩ = true →
        exec .winend s = .next ((if s.me.window.isSome then s.closeWindow s.cur else s).retire s.cur .next))) ∧
  (∀ (s : State), s.ready .plain ⟨[], []⟩ = true →
      let h := s.me
      let t := (s.haltTeam s.cur).withdrawWaiting s.cur
      let ends : Prop := t.taskDone s.cur = true ∧ t.leaveRoom s.cur = true
      (s.cur.core ∈ taskCores ∨ s.cur.core = .keeper →
        (∀ f, h.failure = some f → h.waiting = false → exec .tend s =
          .next (s.trapNow { cause := f.cause, tval := f.pc, fva := some f.addr, held := true })) ∧
        (h.failure = none → ¬ ends → h.waiting = false →
          exec .tend s = .next (t.modHolder s.cur (fun k => { k with waiting := true }))) ∧
        (¬ ends → h.waiting = true → (∀ p ∈ s.waiting, s.taskWaits s.cur p = false) → s.phaserWaits s.cur h.taskid = [] →
          exec .tend s = .next s.wait) ∧
        (h.failure = none → ends → (t.holder s.cur).failure = none →
          exec .tend s = .next ((t.freeHolder s.cur false).complete s.cur h false)) ∧
        (h.failure = none ∨ h.waiting = true → ends → ∀ f, (t.holder s.cur).failure = some f →
          exec .tend s = .next (t.takeTrap s.cur h.pc { cause := f.cause, tval := f.pc, fva := some f.addr, held := true } 0))) ∧
      (s.cur.core = .loader ∨ s.cur.core = .storer → h.failure = none →
        (h.unsettled = [] → exec .tend s = .next (s.restCore s.cur) ∧ ((s.restCore s.cur).holder s.cur).state = .free) ∧
        (h.unsettled ≠ [] → exec .tend s = .next s.wait)) ∧
      (∀ (u : State) (w c : Who), c ∈ u.team w → c.core = .loader ∨ c.core = .storer →
        ((u.haltTeam w).holder c).state = if (u.holder c).state = .free then .free else .stopping) ∧
      (∀ (u : State) (w : Who) (killed : Bool),
        let v := u.freeHolder w killed
        ((v.holder w).state = .free ∨ (v.holder w).state = .reserved) ∧
        (v.holder w).failure = none ∧ (v.holder w).deadl = BitVec.allOnes 64 ∧
        (v.holder w).loops = [] ∧ (v.holder w).inh = false))

/-- R325, R341 and R381, FENCE: a held store failure is its trap; a release issues at once, past unsettled loads too, and leaves its
condition for later stores (R341, which the model reads over R90's list of the instructions that wait for them: log entry 164); an acquire waits until every earlier load has settled, and a full fence also until the stores and reductions its
scope covers are performed; one of a wider scope than the slot then makes the Shared lines of the L1 Invalid, and a failure
that came while it waited is its trap after that.

R338 and R341, the Shared lines an acquire drops: none is left, every other line
stays, and memory, poison marks and holders are as they were.

R389 to R391, cache control. An address that no line of the L1 holds, and an Exclusive line flushed, change no
register; CINV leaves no line of that address, CINV.L1 and CINV.I what they name, the latter once every earlier store of the
holder itself is performed.

The model's choice, and no rule of the spec: that a rel FENCE passes unsettled loads, which reads R341's 'issues at once'
over R90's list (log entry 164), that lines on their way are dropped too and that a home recalls whenever an owner is
recorded (entry 21), and what CFLUSH, CINV and PREF do to lines that are being filled or absent, an innkeeper's among them
(entries 33 to 35). -/
def Obligations.FencesAndCacheControl : Prop :=
  (∀ (s : State) (kind : FenceKind) (scope : Scope), s.ready .plain ⟨[], []⟩ = true →
      let h := s.me
      let reports (f : HeldFailure) : TrapInfo := { cause := f.cause, tval := f.pc, fva := some f.addr, held := true }
      let covered : Prop := h.unsettled = [] ∧ (kind = .full → h.released (s.ops, scope) = true)
      let t := if scope = .cluster ∨ scope = .die ∨ scope = .module ∨ scope = .system then s.dropShared s.cur.st else s
      (∀ f, h.failure = some f → h.waiting = false → exec (.fence kind scope) s = .next (s.trapNow (reports f))) ∧
      (h.failure = none ∨ h.waiting = true →
        (kind = .rel → exec (.fence kind scope) s = .next (((s.modHolder s.cur (fun k =>
          { k with releases := k.releases.filter (fun f => !k.released f) ++
                                 (if scope = .slot then [] else [(s.ops, scope)]) })).bump).retire s.cur .next)) ∧
        (kind ≠ .rel → ¬ covered → h.waiting = true → exec (.fence kind scope) s = .next s.wait) ∧
        (kind ≠ .rel → ¬ covered → h.waiting = false →
          exec (.fence kind scope) s = .next (s.modHolder s.cur (fun k => { k with waiting := true }))) ∧
        (kind ≠ .rel → covered → h.failure = none → exec (.fence kind scope) s = .next (t.retire s.cur .next)) ∧
        (kind ≠ .rel → covered → ∀ f, h.failure = some f →
          exec (.fence kind scope) s = .next (t.takeTrap s.cur h.pc (reports f) 0)))) ∧
  (∀ (s : State) (st : Nat),
      (∀ l ∈ ((s.dropShared st).station st).l1, l.exclusive = true ∧ l ∈ (s.station st).l1) ∧
      (∀ l ∈ (s.station st).l1, (∀ k ∈ (s.station st).l1, k.exclusive = false → k.id ≠ l.id) →
        l ∈ ((s.dropShared st).station st).l1) ∧
      (s.dropShared st).mem = s.mem ∧ (s.dropShared st).poison = s.poison ∧
      (∀ w, (s.dropShared st).holder w = s.holder w)) ∧
  (∀ (s : State) (a : Reg) (ka : Bool) (hint : Hint),
      let addr := s.valS s.cur a
      (s.ready .cache ⟨[(.s a, ka)], []⟩ = true →
        let t := s.popAll s.cur [(.s a, ka)]
        (t.cacheLine s.cur addr = none →
          exec (.cflush a ka) s = .next (s.passed [(.s a, ka)]) ∧ exec (.cinvLine a ka) s = .next (s.passed [(.s a, ka)])) ∧
        (∀ l, t.cacheLine s.cur addr = some l →
          exec (.cflush a ka) s =
            .next ((if l.exclusive then t.cleanLine s.cur.st l else t).retire s.cur .next) ∧
          exec (.cinvLine a ka) s = .next ((t.invalidateLine s.cur.st l).retire s.cur .next))) ∧
      (s.ready .cache ⟨[], []⟩ = true →
        exec .cinvL1 s = .next (((s.station s.cur.st).l1.foldl (fun u l => u.invalidateLine s.cur.st l) s).retire
          s.cur .next) ∧
        ((∀ o ∈ s.me.stores, o.reduction = true) →
          exec .cinvIcache s = .next ((s.modStation s.cur.st (fun x => { x with icache := [] })).retire s.cur .next)) ∧
        ((∃ o ∈ s.me.stores, o.reduction = false) → exec .cinvIcache s = .next s.wait)) ∧
      (s.ready .plain ⟨[(.s a, ka)], []⟩ = true →
        let t := s.popAll s.cur [(.s a, ka)]
        let l1 : Prop := s.cur.core ≠ .keeper ∧ l1Sets (t.station s.cur.st) ≠ 0
        (t.regionOf s.cur addr.toNat ≠ some .far → exec (.pref a hint ka) s = .next (s.passed [(.s a, ka)])) ∧
        (t.regionOf s.cur addr.toNat = some .far →
          (hint = .slice → exec (.pref a hint ka) s =
            .next (((t.later (.translate (t.prefetchPart s.cur addr false 6))).bump).retire s.cur .next)) ∧
          (hint ≠ .slice → ¬ l1 → exec (.pref a hint ka) s = .next (s.passed [(.s a, ka)])) ∧
          (hint = .shared → l1 → exec (.pref a hint ka) s =
            .next (((t.prefetchShared s.cur addr).bump).retire s.cur .next)) ∧
          (hint = .exclusive → l1 → exec (.pref a hint ka) s =
            .next (((t.prefetchExclusive s.cur addr).bump).retire s.cur .next)))) ∧
      (∀ (t : State) (st : Nat) (l : L1Line), l ∈ (t.station st).l1 → l.exclusive = false →
        ∀ k ∈ ((t.invalidateLine st l).station st).l1, k.id ≠ l.id))

/-- R360, R362, R392 to R394, MIGR and the error records: MIGR of the urgent bank or an innkeeper sends the migration on
its way; ERRRD writes the four doublewords of a record, ERRCLR makes it empty, and a core without the right, or a selector
that names no record, traps ACCESS.

R360 and R361, a record is taken: where some record of the bank holds nothing, the bank then holds the new one; a bank
keeps its size, and the other banks, the stations and memory stay. -/
def Obligations.MigrationAndErrorRecords : Prop :=
  (∀ (s : State) (d a b : Reg) (ka kb : Bool),
      let x := s.valS s.cur a
      let v := s.valS s.cur b
      (s.ready .plain ⟨[(.s a, ka), (.s b, kb)], []⟩ = true →
        let t := s.popAll s.cur [(.s a, ka), (.s b, kb)]
        let word := trapOf 0x04 (s.me.ir.setWidth 64)
        (s.cur.core ≠ .urgent ∧ s.cur.core ≠ .keeper → exec (.migr a b ka kb) s = .next (s.trapNow word)) ∧
        (s.cur.core = .urgent ∨ s.cur.core = .keeper →
          (v.toNat / 2 ^ 58 ≠ 0 ∨ v.toNat % 2 ^ 16 ≠ 0 → exec (.migr a b ka kb) s = .next (s.trapNow word)) ∧
          (v.toNat < 2 ^ 58 → v.toNat % 2 ^ 16 = 0 →
            (t.regionOf s.cur x.toNat ≠ some .far → exec (.migr a b ka kb) s = .next (s.trapNow (trapOf 0x04 x))) ∧
            (t.regionOf s.cur x.toNat = some .far → exec (.migr a b ka kb) s =
              .next (((t.later (.migrationStart (v.toNat / 2 ^ 52 % 64) (x.toNat % 2 ^ 52) (v.toNat % 2 ^ 52) s.cur.st
                (some (s.cur, t.ops)))).bump).retire s.cur .next))))) ∧
      (s.ready .plain ⟨[(.s a, ka)], []⟩ = true →
        let t := s.popAll s.cur [(.s a, ka)]
        (selectBank x = none → exec (.errrd d a ka) s = .next (s.trapNow (trapOf 0x04 x))) ∧
        (∀ key i, selectBank x = some (key, i) →
          (mayRecord s.cur key false = false → exec (.errrd d a ka) s = .next (s.trapNow (trapOf 0x04 x))) ∧
          (mayRecord s.cur key false = true → t.checkDsts s.cur [.s d, .s (d + 1), .s (d + 2), .s (d + 3)] = .go () →
            let r := (t.bank key).getD i ErrRec.none
            exec (.errrd d a ka) s = .next (((((t.writeS s.cur d r.statusWord).writeS s.cur (d + 1) r.addr).writeS s.cur
              (d + 2) r.syndrome).writeS s.cur (d + 3) r.context).retire s.cur .next)))) ∧
      (s.ready .plain ⟨[(.s a, ka)], []⟩ = true →
        let t := s.popAll s.cur [(.s a, ka)]
        (selectBank x = none → exec (.errclr a ka) s = .next (s.trapNow (trapOf 0x04 x))) ∧
        (∀ key i, selectBank x = some (key, i) →
          (mayRecord s.cur key true = false → exec (.errclr a ka) s = .next (s.trapNow (trapOf 0x04 x))) ∧
          (mayRecord s.cur key true = true → exec (.errclr a ka) s =
            .next (({ t with banks := put key ((t.bank key).set i ErrRec.none) t.banks } : State).retire s.cur .next))))) ∧
  (∀ (s : State) (key c kind sub : Nat) (a y x : Word),
      let t := s.record key c kind sub a y x
      (t.bank key).length = (s.bank key).length ∧ (∀ n, n ≠ key → t.bank n = s.bank n) ∧
      ((∃ r ∈ s.bank key, r.valid = false) → ∃ r ∈ t.bank key, r.valid = true ∧ r.cls = c ∧ r.kind = kind ∧
        r.subcode = sub ∧ r.addr = a ∧ r.syndrome = y ∧ r.context = x) ∧ t.mem = s.mem ∧ t.stations = s.stations)

/-- R191, R193 and R199, SEND, SENDR, SENDV and REPLY: the header's checks in their order, then the payload's registers,
then a place in the outbound queue of 16; the message is posted with the payload, and SENDR's with a deadline.

R150, R191, R197 and R425, what a SEND posts to a rank that is neither in transit nor SHUT: one more MESSAGE_ARRIVAL on
the agenda, last, with the destination of the rank table, the payload, the sender's own rank in bits 30 to 18 and every
other bit of the header as given, EP from the class it names, and the next sequence number of the die; it takes one place
of the outbound queue.

The model's choice, and no rule of the spec: that the rank table is read at issue and a message for a rank in transit is held
then (log entry 50), and that a header register within the payload range is read once (entry 52). -/
def Obligations.SendingCommands : Prop :=
  (∀ (s : State) (a b : Reg) (ka kb : Bool), s.ready .vstore ⟨[(.s a, ka)], []⟩ = true →
      let h := s.valS s.cur a
      let n := h.toNat / 2 ^ 36 % 16
      let t := s.popAll s.cur [(.s a, ka)]
      let engine (sub : Nat) : Out := .next (s.trapNow (trapOf 0x08 (BitVec.ofNat 64 sub)))
      let out (k : SendKind) (fits : Bool) (srcs : List (RegName × Bool)) (payload : List Word) (deadline : Word)
          (dest : Nat) : Out :=
        if h.toNat / 2 ^ 48 % 8 ≠ 0 then engine 0x01
        else if 8 < n then engine 0x02
        else if h.toNat / 2 ^ 40 % 256 = 255 then engine 0x04
        else if fits = false then engine 0x03
        else match t.checkSrcs s.cur srcs with
          | .trap e => .next (s.trapNow e)
          | .wait => .next s.wait
          | .go _ =>
            if 16 ≤ (t.station s.cur.st).outq.length ∨ t.rankFull s.cur.st dest = true then .next s.wait
            else .next (((t.popAll s.cur srcs).postMsg k h payload deadline).retire s.cur .next)
      let regs (m : Nat) : List Reg := (List.range m).map (fun i => b + BitVec.ofNat 5 i)
      let more (m : Nat) : List (RegName × Bool) := ((regs m).filter (fun r => r ≠ a)).map (fun r => (.s r, kb))
      let vals (m : Nat) : List Word := (regs m).map (fun r => s.valS s.cur r)
      let dest := h.toNat / 2 ^ 51
      let never : Word := BitVec.allOnes 64
      exec (.send a b ka kb) s = out .send (n = 0 || decide (b.toNat + n - 1 ≤ 31)) (more n) (vals n) never dest ∧
      exec (.reply a b ka kb) s = out .reply (n = 0 || decide (b.toNat + n - 1 ≤ 31)) (more n) (vals n) never
        (match s.me.task with | some x => x.srcRank | none => 0) ∧
      exec (.sendr a b ka kb) s = out .sendr (decide (b.toNat + n ≤ 31)) (more (n + 1)) ((vals (n + 1)).drop 1)
        ((vals (n + 1)).headD 0) dest ∧
      exec (.sendv a b ka kb) s = out .sendv true (if n = 0 then [] else [(.v b, kb)])
        ((List.range n).map (fun i => (s.valV s.cur b).extractLsb' (64 * i) 64)) never dest) ∧
  (∀ (s : State) (h : Word) (payload : List Word) (deadline : Word),
      let st := s.cur.st
      let e := (s.station st).rankEntry (h.toNat / 2 ^ 51)
      st < 8192 → rankTransit e = false → rankShut e = false →
      let t := s.postMsg .send h payload deadline
      ∃ m : Msg, t.agenda = s.agenda ++ [{ due := s.now + 1, ev := .messageArrival m }] ∧
        m.dst = rankCoord e ∧ m.payload = payload ∧ m.deadline = deadline ∧ m.source = .task s.cur s.ops ∧
        m.header.toNat / 2 ^ 18 % 2 ^ 13 = rankOf st ∧ m.header.toNat / 2 ^ 31 = h.toNat / 2 ^ 31 ∧
        m.header.toNat % 2 ^ 18 = h.toNat % 2 ^ 18 ∧ m.tilec = s.me.tilec ∧
        m.ep = s.prio (h.toNat / 2 ^ 31 % 16) ∧ m.why = 0 ∧ m.left = false ∧
        m.jseq = BitVec.ofNat 64 (dieOf st % 16 * 2 ^ 60 + ((s.die (dieOf st)).jseq + 1) % 2 ^ 60) ∧
        (t.station st).outq = (s.station st).outq ++ [s.ops] ∧ t.mem = s.mem ∧ t.ops = s.ops + 1)

/-- R195 to R199, MBIND, MSEAL and the rank table: their checks in their order, and what they change.

The model's choice, and no rule of the spec: the order of MBIND's refusals (log entry 51). -/
def Obligations.MailboxAndRankCommands : Prop :=
  ∀ (s : State) (a b : Reg) (ka kb : Bool),
    let st := s.cur.st
    let v := s.valS s.cur a
    let y := s.valS s.cur b
    let engine (sub : Nat) : Out := .next (s.trapNow (trapOf 0x08 (BitVec.ofNat 64 sub)))
    (s.ready .vstore ⟨[(.s a, ka)], []⟩ = true →
      let t := s.popAll s.cur [(.s a, ka)]
      let x := t.station st
      let n := v.toNat / 2 ^ 16 % 128
      let bad : Prop := v.toNat / 2 ^ 23 ≠ 0 ∨ v.toNat / 2 ^ 13 % 8 ≠ 0 ∨ 64 < n ∨ v.toNat % 256 = 255
      let srcs : List (RegName × Bool) := if a = b then [] else [(.s b, kb)]
      (bad → exec (.mbind a b ka kb) s = engine 0x05) ∧
      (¬ bad → n = 0 → x.bindings = [] → exec (.mbind a b ka kb) s = engine 0x07) ∧
      (¬ bad → n = 0 → x.bindings ≠ [] → exec (.mbind a b ka kb) s =
        .next (((t.modStation st (fun z => { z with bindings := z.bindings.dropLast })).mailStatus st).retire s.cur .next)) ∧
      (¬ bad → n ≠ 0 → t.checkSrcs s.cur srcs = .go () →
        let fits : Prop := y.toNat + 128 * n = x.lowBound ∧ x.app3 * 8192 + 25 * 128 ≤ y.toNat
        (¬ fits → exec (.mbind a b ka kb) s = engine 0x06) ∧
        (fits → 8 ≤ x.bindings.length → exec (.mbind a b ka kb) s = engine 0x07) ∧
        (fits → x.bindings.length < 8 → exec (.mbind a b ka kb) s = .next (((((t.popAll s.cur srcs).modStation st (fun z =>
          ({ z with bindings := z.bindings ++ [{ lo := y.toNat, n := n, urg := v.getLsbD 12, cls := v.toNat / 256 % 16,
                                                 handler := v.toNat % 256, active := false,
                                                 who := t.worksFor s.cur }] } :
            Station).settleBindings)).mailStatus st).retire s.cur .next)))) ∧
      (8192 ≤ v.toNat → exec (.rankmv a ka) s = engine 0x09) ∧
      (v.toNat < 8192 → exec (.rankmv a ka) s = .next ((t.modStation st (fun z =>
        { z with ranks := put v.toNat (z.rankEntry v.toNat ||| 0x8000#16) z.ranks })).retire s.cur .next))) ∧
    (s.ready .vstore ⟨[(.s a, ka), (.s b, kb)], []⟩ = true →
      let t := s.popAll s.cur [(.s a, ka), (.s b, kb)]
      (255 ≤ v.toNat ∨ 1 < y.toNat → exec (.mseal a b ka kb) s = engine 0x08) ∧
      (v.toNat < 255 → y.toNat ≤ 1 → ∃ z, exec (.mseal a b ka kb) s =
          .next ((t.modStation st (fun w => { w with seals := z })).retire s.cur .next) ∧
        ∀ k, (k ∈ z ↔ if k = v.toNat then y = 1 else k ∈ (t.station st).seals)) ∧
      (8192 ≤ v.toNat ∨ 2 ^ 15 ≤ y.toNat ∨ y.getLsbD 13 = true → exec (.rankwr a b ka kb) s = engine 0x09) ∧
      (v.toNat < 8192 → y.toNat < 2 ^ 15 → y.getLsbD 13 = false →
        exec (.rankwr a b ka kb) s = .next ((t.writeRank st v.toNat y).retire s.cur .next))) ∧
    (s.ready .vstore ⟨[(.s a, ka)], [.s b]⟩ = true →
      let t := s.popAll s.cur [(.s a, ka)]
      (8192 ≤ v.toNat → exec (.rankrd a b ka) s = engine 0x09) ∧
      (v.toNat < 8192 → exec (.rankrd a b ka) s = .next ((t.answerNow s.cur (.engine b false) v
        (leBytes ((t.station st).rankEntry v.toNat).toNat 8)).retire s.cur .load)))

/-- R186, R190, R200 to R203, the phaser commands: a core that may not issue one traps ACCESS with the word; a name with other
bits set 0x20; PJOIN of a member, with a bad mode, beyond the handler's number or from the urgent bank 0x22; a command of a
task that is no member 0x21, or in a mode that does not allow it 0x23; then each is sent to the home, and until
then it waits for a place in the hold queue, or while 64 operations of its station are queued.

The model's choice, and no rule of the spec: the order of the checks and that a PLEAVE ends the membership at issue (log
entry 60), and which operations count among the 64 queued (entry 155). -/
def Obligations.PhaserCommands : Prop :=
  ∀ (s : State) (a b : Reg) (ka kb : Bool),
    let v := s.valS s.cur a
    let named : Prop := v.toNat / 2 ^ 45 = 0 ∧ v.toNat / 2 ^ 6 % 2 ^ 26 = 0
    let engine (sub : Nat) : Out := .next (s.trapNow (trapOf 0x08 (BitVec.ofNat 64 (0x100 + sub))))
    let word : Out := .next (s.trapNow (trapOf 0x04 (s.me.ir.setWidth 64)))
    let mayAll : Prop := s.cur.core ≠ .keeper
    (s.ready .store ⟨[(.s a, ka), (.s b, kb)], []⟩ = true →
      let t := s.popAll s.cur [(.s a, ka), (.s b, kb)]
      let mode := (s.valS s.cur b).toNat
      let room : Prop := ∃ i, (t.holder (t.worksFor s.cur)).task = some i ∧
        (t.holder (t.worksFor s.cur)).phasers.length < i.phn
      let may : Prop := t.membership s.cur v = none ∧ mode ≤ 2 ∧ room ∧ s.cur.core ≠ .urgent
      (¬ mayAll → exec (.pjoin a b ka kb) s = word) ∧
      (mayAll → ¬ named → exec (.pjoin a b ka kb) s = engine 0x20) ∧
      (mayAll → named → ¬ may → exec (.pjoin a b ka kb) s = engine 0x22) ∧
      (mayAll → named → may → t.phaserMustWait s.cur.st (nameRank v) = false → exec (.pjoin a b ka kb) s =
        .next (((((t.addUnsettled s.cur .answer v false 1).modHolder s.cur (fun k => { k with acquire := some t.ops })).bump).sendPhaser
          (t.phaserOp s.cur (.join mode) v)).retire s.cur .load))) ∧
    (s.ready .store ⟨[(.s a, ka)], []⟩ = true →
      let t := s.popAll s.cur [(.s a, ka)]
      (¬ mayAll → exec (.pleave a ka) s = word ∧ exec (.psig a ka) s = word) ∧
      (mayAll → ¬ named → exec (.pleave a ka) s = engine 0x20 ∧ exec (.psig a ka) s = engine 0x20) ∧
      (mayAll → named → t.membership s.cur v = none → exec (.pleave a ka) s = engine 0x21 ∧ exec (.psig a ka) s = engine 0x21) ∧
      (mayAll → named → ∀ m, t.membership s.cur v = some m →
        (m.mode ≤ 2 → t.phaserMustWait s.cur.st (nameRank v) = false → exec (.pleave a ka) s =
          .next ((((t.modHolder (t.worksFor s.cur) (fun h => { h with phasers := h.phasers.filter (fun m =>
            !(m.rank == nameRank v && m.idx == nameIdx v)) })).bump).sendPhaser (t.phaserOp s.cur .leave v)).retire
              s.cur .next)) ∧
        (m.mode = 1 → exec (.psig a ka) s = engine 0x23) ∧
        (m.mode = 0 ∨ m.mode = 2 → t.phaserMustWait s.cur.st (nameRank v) = false → exec (.psig a ka) s =
          .next ((t.bump.sendPhaser (t.phaserOp s.cur .sig v)).retire s.cur .next)))) ∧
    (s.ready .store ⟨[(.s a, ka)], [.s b]⟩ = true →
      let t := s.popAll s.cur [(.s a, ka)]
      let sent (k : LoadKind) (c : PhaserCmd) : Out :=
        .next (((t.addUnsettled s.cur k v false 1).bump.sendPhaser (t.phaserOp s.cur c v)).retire s.cur .load)
      let free : Prop := t.phaserMustWait s.cur.st (nameRank v) = false
      (¬ named → exec (.pqry a b ka) s = engine 0x20) ∧
      (named → free → exec (.pqry a b ka) s = sent (.engine b false) .qry) ∧
      (¬ mayAll → exec (.pwait a b ka) s = word ∧ exec (.psigw a b ka) s = word) ∧
      (mayAll → ¬ named → exec (.pwait a b ka) s = engine 0x20 ∧ exec (.psigw a b ka) s = engine 0x20) ∧
      (mayAll → named → t.membership s.cur v = none → exec (.pwait a b ka) s = engine 0x21 ∧ exec (.psigw a b ka) s = engine 0x21) ∧
      (mayAll → named → ∀ m, t.membership s.cur v = some m →
        (m.mode = 0 → exec (.pwait a b ka) s = engine 0x23) ∧ (m.mode = 1 → exec (.psigw a b ka) s = engine 0x23) ∧
        (m.mode = 1 ∨ m.mode = 2 → free → exec (.pwait a b ka) s = sent (.phaser b) .wait) ∧
        (m.mode = 0 ∨ m.mode = 2 → free → exec (.psigw a b ka) s = sent (.phaser b) .sigw)))

/-- R204 to R210, the deque, the graph counters, task controls and thresholds. A deque operation that comes too late for the
order of its cycle waits for the next; a DQSTEAL of the station's own deque is performed at once, as its other operations are.

The model's choice, and no rule of the spec: the trap of a DQPUSH to a full deque (log entry 59), the rank of an innkeeper's
GDEC (entry 62), that what comes late in a cycle waits for the next (entry 149), and that an own DQSTEAL is performed at
issue (entry 61). -/
def Obligations.DequeCounterAndControlCommands : Prop :=
  ∀ (s : State) (a b : Reg) (ka kb : Bool),
    let st := s.cur.st
    let v := s.valS s.cur a
    let y := s.valS s.cur b
    let engine (sub : Nat) : Out := .next (s.trapNow (trapOf 0x08 (BitVec.ofNat 64 (0x100 + sub))))
    let word : Out := .next (s.trapNow (trapOf 0x04 (s.me.ir.setWidth 64)))
    let task : Prop := s.cur.core ≠ .keeper ∧ s.cur.core ≠ .loader ∧ s.cur.core ≠ .storer
    (s.ready .store ⟨[(.s a, ka), (.s b, kb)], []⟩ = true →
      let t := s.popAll s.cur [(.s a, ka), (.s b, kb)]
      let x := t.station st
      let fits : Prop := 1 ≤ y.toNat ∧ y.toNat ≤ 2 ^ 24 ∧ v.toNat % 2 ^ 24 + y.toNat ≤ 2 ^ 24
      let armed : Prop := v.toNat / 2 ^ 45 = 0 ∧ v.toNat / 2 ^ 17 % 2 ^ 14 ≠ 0 ∧ y.toNat % 2 ^ 32 ≠ 0
      let binds : Prop := v.toNat < 32 ∧ y.toNat < 2 ^ 14 ∧ y.toNat % 256 ≠ 255
      (s.cur.core = .keeper → exec (.dqpush a b ka kb) s = word) ∧
      (s.cur.core ≠ .keeper → t.dequeLate st 0 = true → exec (.dqpush a b ka kb) s = .next s.wait) ∧ (¬ task → exec (.thrbind a b ka kb) s = word) ∧
      (s.cur.core ≠ .keeper → t.dequeLate st 0 = false → ¬ fits → exec (.dqpush a b ka kb) s = engine 0x24) ∧
      (s.cur.core ≠ .keeper → t.dequeLate st 0 = false → fits → 64 ≤ x.deque.length →
        exec (.dqpush a b ka kb) s = .next (s.trapNow (trapOf 0x09 0))) ∧
      (s.cur.core ≠ .keeper → t.dequeLate st 0 = false → fits → x.deque.length < 64 → exec (.dqpush a b ka kb) s =
        .next ((t.modStation st (fun z => { z with deque := (v, y.toNat) :: z.deque })).retire s.cur .next)) ∧
      (¬ armed → exec (.garm a b ka kb) s = engine 0x25) ∧
      (armed → exec (.garm a b ka kb) s = .next (((t.later (.garmAtHome (v.toNat % 2 ^ 17) (y.toNat % 2 ^ 32)
        (y.toNat / 2 ^ 32) (v.toNat / 2 ^ 17 % 2 ^ 14) (v.toNat / 2 ^ 31 % 2 ^ 14) (srcRankOf s.cur)
        (some { who := t.worksFor s.cur, op := t.ops }))).bump).retire s.cur .next)) ∧
      (task → ¬ binds → exec (.thrbind a b ka kb) s = engine 0x27) ∧
      (task → binds → exec (.thrbind a b ka kb) s = .next ((t.modStation st (fun z =>
        { z with thresholds := put v.toNat { z.thr v.toNat with bound :=
            (if y.getLsbD 13 then some (y.getLsbD 12, y.toNat / 256 % 16, y.toNat % 256) else none) } z.thresholds })).retire s.cur .next))) ∧
    (s.ready .store ⟨[], [.s b, .s (b + 1)]⟩ = true → s.cur.core ≠ .keeper →
      let d := (s.station st).deque
      let e := d.headD (0, 0)
      (s.dequeLate st 0 = true → exec (.dqpop b) s = .next s.wait) ∧
      (s.dequeLate st 0 = false → exec (.dqpop b) s = .next (((s.modStation st (fun z =>
        { z with deque := d.tail })).answerNow s.cur
          (.engine b true) 0 (leBytes e.1.toNat 8 ++ leBytes e.2 8)).retire s.cur .load))) ∧
    (s.ready .store ⟨[(.s a, ka)], []⟩ = true →
      let t := s.popAll s.cur [(.s a, ka)]
      let d := (t.station st).deque
      (s.cur.core ≠ .keeper → t.dequeLate st 0 = true → exec (.dqsplit a ka) s = .next s.wait) ∧
      (s.cur.core ≠ .keeper → t.dequeLate st 0 = false →
        (d = [] → exec (.dqsplit a ka) s = .next (t.retire s.cur .next)) ∧
        (∀ j n r, d = (j, n) :: r →
          let splits : Prop := 2 ≤ n ∧ v.toNat ≤ n / 2 ∧ r.length + 1 < 64
          (¬ splits → exec (.dqsplit a ka) s = .next (t.retire s.cur .next)) ∧
          (splits → ∃ k, exec (.dqsplit a ka) s = .next ((t.modStation st (fun z =>
              { z with deque := (j, n / 2) :: (k, n - n / 2) :: r })).retire s.cur .next) ∧
            (j.toNat % 2 ^ 24 + n ≤ 2 ^ 24 → k.toNat = j.toNat + n / 2)))) ∧
      (v.toNat / 2 ^ 17 ≠ 0 → exec (.gdec a ka) s = engine 0x25) ∧
      (v.toNat < 2 ^ 17 → exec (.gdec a ka) s = .next (((t.later (.counterDecrement v.toNat false (srcRankOf s.cur)
        (some { who := t.worksFor s.cur, op := t.ops }))).bump).retire s.cur .next)) ∧
      (¬ task → exec (.tdead a ka) s = word ∧ exec (.tclass a ka) s = word) ∧
      (task →
        (let dl := if v.toNat < t.me.deadl.toNat then v else t.me.deadl
         let u := t.modHolder s.cur (fun h => { h with deadl := dl })
         (dl.toNat ≤ s.now → exec (.tdead a ka) s = .next (u.deadlineKill s.cur)) ∧
         (s.now < dl.toNat → dl ≠ BitVec.allOnes 64 → exec (.tdead a ka) s =
           .next ((u.laterAt dl.toNat (.deadlineExpiry s.cur t.me.taskid)).retire s.cur .next)) ∧
         (s.now < dl.toNat → dl = BitVec.allOnes 64 → exec (.tdead a ka) s = .next (u.retire s.cur .next))) ∧
        (16 ≤ v.toNat → exec (.tclass a ka) s = engine 0x26) ∧
        (v.toNat < 16 →
          let u := t.modHolder s.cur (fun h => { h with cls := v.toNat })
          let u2 := u.modHolder s.cur (fun h => { h with ep := u.formEp s.cur })
          exec (.tclass a ka) s = .next ((u2.noticeEp (u2.signallersFor u2.me.taskid)).retire s.cur .next)))) ∧
    (s.ready .store ⟨[(.s a, ka)], [.s b, .s (b + 1)]⟩ = true → s.cur.core ≠ .keeper →
      let t := s.popAll s.cur [(.s a, ka)]
      (8192 ≤ v.toNat → exec (.dqsteal a b ka) s = engine 0x09) ∧
      (v.toNat < 8192 → t.rankFull st v.toNat = true → exec (.dqsteal a b ka) s = .next s.wait) ∧
      (v.toNat < 8192 → t.rankFull st v.toNat = false →
        let own : Prop := v.toNat = rankOf st ∧ (t.station st).rankEntry v.toNat = BitVec.ofNat 16 st
        let y : Steal := { thief := st, rank := v.toNat, victim := st, who := some (s.cur, t.ops),
                           task := (t.holder (t.worksFor s.cur)).taskid }
        (own → t.dequeLate st 0 = true → exec (.dqsteal a b ka) s = .next s.wait) ∧
        (own → t.dequeLate st 0 = false → exec (.dqsteal a b ka) s =
          .next (((t.takeTop y).2.answerNow s.cur (.engine b true) v
            (leBytes (t.takeTop y).1.1.toNat 8 ++ leBytes (t.takeTop y).1.2 8)).retire s.cur .load)) ∧
        (¬ own → exec (.dqsteal a b ka) s =
          .next (((t.addUnsettled s.cur (.engine b true) v false 1).bump.sendSteal y).retire s.cur .load))))

/-- R212, R216, R266, R268 to R270, CPY, CPYM and CPYG: with the copy set that the tag names as it stands at acceptance, the
first failing check of R270 traps (LEN 0 first, then an end that the station may not address, and so on); a bad index list
0x49, a follow-on whose destination is not an A bank of the own cluster or whose CP.FB names no B bank of it 0x48, and then, once
context 0 is not parked away, one that fails a check of MMUL for the slot whose work it is; a full queue waits; else the command
is accepted.

R212, R213 and R231, an accepted copy: one more command, last of the queue, with the operands and its own copy of the
descriptor set and of the conversion table, not begun, and its performance on the agenda; no memory, register or other
command changes.

The model's choice, and no rule of the spec: that every row is tested for a plane bank (log entry 43), which commands count
among the 16 (entry 45), and that the bytes of a bound range are LEN times ROWS elements (entry 108). -/
def Obligations.CopyCommands : Prop :=
  (∀ (s : State) (a b : Reg) (ka kb : Bool) (t : BitVec 3), s.ready .store ⟨[(.s a, ka), (.s b, kb)], []⟩ = true →
      let u := s.popAll s.cur [(.s a, ka), (.s b, kb)]
      let w := s.cur
      let x := u.station w.st
      let src := s.valS w a
      let dst := s.valS w b
      let r := x.sets[tagSet t]
      let engine (sub : Nat) : Out := .next (s.trapNow (trapOf 0x08 (BitVec.ofNat 64 (0x200 + sub))))
      let fault (k : CopyKind) := u.copyFault w k r src dst
      let room : Prop := u.copyRoom w.st = true
      let list : Prop := u.listFault w r = true
      let aSide : Prop := ∃ bank f, u.ownBank w dst.toNat = some (bank, f) ∧ f.b = false
      let bSide : Prop := ∃ bank f, u.ownBank w r.fb.toNat = some (bank, f) ∧ f.b = true
      let m := u.worksFor w
      (∀ k, r.len = 0 → fault k = some 0x40) ∧
      (∀ k, r.len ≠ 0 → u.planeEnd w src.toNat = none → u.planeEnd w dst.toNat = none → k ≠ .gather →
        let bad (p : Nat → Bool) (q : Nat → Bool) : Prop := ∃ i, i < r.rows ∧
          (p (src + BitVec.ofNat 64 i * r.sstr).toNat = true ∨ q (dst + BitVec.ofNat 64 i * r.dstr).toNat = true)
        let away (e : Nat) : Bool := !u.mayName w e r.len
        let plane (e : Nat) : Bool := u.touchesPlane w e r.len
        (bad away away → fault k = some 0x41) ∧ (¬ bad away away → bad plane plane → fault k = some 0x42) ∧
        (¬ bad away away → ¬ bad plane plane → fault k = if u.leavesRange w r dst then some 0x47 else none)) ∧
      (∀ sub, fault .plain = some sub → exec (.cpy a b ka kb t) s = engine sub) ∧
      (∀ sub, fault .gather = some sub → exec (.cpyg a b ka kb t) s = engine sub) ∧
      (∀ sub, fault .follow = some sub → exec (.cpym a b ka kb t) s = engine sub) ∧
      (fault .plain = none → (¬ room → exec (.cpy a b ka kb t) s = .next s.wait) ∧
        (room → exec (.cpy a b ka kb t) s = .next (((u.acceptCopy .plain (tagSet t) src dst).bump).retire w .next))) ∧
      (fault .gather = none → (list → exec (.cpyg a b ka kb t) s = engine 0x49) ∧
        (¬ list → ¬ room → exec (.cpyg a b ka kb t) s = .next s.wait) ∧
        (¬ list → room → exec (.cpyg a b ka kb t) s = .next (((u.acceptCopy .gather (tagSet t) src dst).bump).retire w .next))) ∧
      (fault .follow = none → (¬ (aSide ∧ bSide) → exec (.cpym a b ka kb t) s = engine 0x48) ∧
        (aSide → bSide → u.mtxHeld m = true → exec (.cpym a b ka kb t) s = .next s.wait) ∧
        (aSide → bSide → u.mtxHeld m = false →
          let mul := u.mmulFault m x.mx dst.toNat r.fb.toNat r.ft
          let full := ¬ room ∨ 8 ≤ (x.mtx (isCtx1 w)).length
          (∀ sub, mul = some sub → exec (.cpym a b ka kb t) s = engine sub) ∧
          (mul = none → full → exec (.cpym a b ka kb t) s = .next s.wait) ∧
          (mul = none → ¬ full → exec (.cpym a b ka kb t) s =
            .next ((((u.acceptCopy .follow (tagSet t) src dst).acceptMtx w (.mul dst r.fb r.ft) false).bump).retire w .next))))) ∧
  (∀ (s : State) (k : CopyKind) (n : Fin 8) (src dst : Word), s.cur.st < 8192 →
      let u := s.acceptCopy k n src dst
      let x := s.station s.cur.st
      ∃ c : CopyCmd, (u.station s.cur.st).copies = x.copies ++ [c] ∧
        u.agenda = s.agenda ++ [{ due := s.now + 1, ev := .copyPerform s.cur.st s.ops }] ∧
        c.id = s.ops ∧ c.kind = k ∧ c.who = s.cur ∧ c.src = src ∧ c.dst = dst ∧ c.regs = x.sets[n] ∧ c.set = n.val ∧
        c.table = x.cbt ∧ c.row = 0 ∧ c.faulted = false ∧ c.landed = false ∧ c.retry = none ∧ c.got = [] ∧ c.placed = [] ∧ c.data = none ∧ c.put = [] ∧ c.missed = [] ∧ c.acc.op = s.ops ∧ c.acc.who = s.cur ∧
        c.acc.eng = 2 ∧ u.mem = s.mem ∧ u.ops = s.ops ∧
        (∀ st, st ≠ s.cur.st → u.station st = s.station st) ∧
        u.station s.cur.st = { x with copies := x.copies ++ [c] })

/-- R27, R182, R183, R235 to R242, R271 to R278: STRM, QBIND, PREL and RINGEOS with their checks and their effects on the ports
of the holder; BUFDEF and PUBLISH on the station's buffer windows; CPOLL on its notifications. Each waits while 16 commands of
the station are accepted and not complete (R266).

The model's choice, and no rule of the spec: which commands count among the 16 and keep later ones waiting (log entry 45),
what a PUBLISH and a BUFDEF wait for (entry 46), that a port has one ring push outstanding (entry 47), and the order of the
checks of a ring descriptor (entry 48). -/
def Obligations.StreamAndWindowCommands : Prop :=
  ∀ (s : State) (a b : Reg) (ka kb : Bool) (tag : BitVec 3),
    let w := s.cur
    let v := s.valS w a
    let y := s.valS w b
    let engine (sub : Nat) : Out := .next (s.trapNow (trapOf 0x08 (BitVec.ofNat 64 (0x200 + sub))))
    let roomed (t : State) (o done : Out) : Prop := o = if t.copyRoom w.st then done else .next s.wait
    (s.ready .store ⟨[(.s a, ka), (.s b, kb)], []⟩ = true →
      let t := s.popAll w [(.s a, ka), (.s b, kb)]
      let x := t.station w.st
      let r := x.sets[tagSet tag]
      let p := y.toNat % 8
      let out := y.getLsbD 4
      (∀ sub, t.strmFault w y v r = some sub → exec (.strm a b ka kb tag) s = engine sub) ∧
      (t.strmFault w y v r = none →
        let h := t.holder (t.worksFor w)
        let fetches := !out && decide (0 < streamTotal p r.len r.rows)
        let port := { newBinding p out (.stream v r.len r.rows r.sstr t.ops h.pgceil h.pgtries) with pending := (if fetches then 1 else 0), ended := !out && !fetches }
        let u := t.modHolder w (fun k => k.bind port)
        roomed t (exec (.strm a b ka kb tag) s) (.next (((if fetches then u.later (.streamFetch w p) else u).bump).retire w .next))) ∧
      (let selects : Prop := y.toNat / 2 ^ 20 = 0 ∧ y.toNat / 2 ^ 12 % 16 = 0 ∧ y.toNat / 2 ^ 6 % 4 = 0 ∧ y.getLsbD 3 = false ∧
        (if y.getLsbD 5 then y.toNat / 2 ^ 16 % 16 = 0 ∧ y.toNat / 2 ^ 8 % 16 < 8 else y.toNat / 2 ^ 8 % 16 = 0)
       let may : Prop := (t.holder w).mayBind w.core p = true ∧ ¬ (y.getLsbD 5 = true ∧ 4 ≤ p)
       (¬ selects → exec (.qbind a b ka kb) s = engine 0x50) ∧ (selects → ¬ may → exec (.qbind a b ka kb) s = engine 0x51) ∧
       (selects → may → y.getLsbD 5 = true → roomed t (exec (.qbind a b ka kb) s)
          (.next (((t.modHolder w (fun h => h.bind (newBinding p out (.queue (y.toNat / 2 ^ 8 % 16))))).bump).retire w .next))) ∧
       (selects → may → y.getLsbD 5 = false → t.ringPlace w v.toNat = none →
          exec (.qbind a b ka kb) s = .next (s.trapNow (accessTrap v))) ∧
       (selects → may → y.getLsbD 5 = false → ∀ d off, t.ringPlace w v.toNat = some (d, off) → roomed t (exec (.qbind a b ka kb) s)
          (.next (((((t.addUnsettled w .answer v false 1).modHolder w (fun k => { k with acquire := some t.ops })).bump).later
            (.ringRegistration { who := w, op := t.ops, port := p, die := d, desc := off, idx := y.toNat / 2 ^ 16 % 16, data := (if out then [1] else [0]), task := (t.holder (t.worksFor w)).taskid })).retire w .load)))) ∧
      (let len := y.toNat
       let off := t.ownPool w v.toNat
       let o := off.getD 0
       let meets (z : BufWindow) : Bool := decide (z.base < o + 2 * len) && decide (o < z.base + 2 * z.len)
       let task := (t.holder (t.worksFor w)).taskid
       let ok : Prop := v.toNat % 128 = 0 ∧ len % 128 = 0 ∧ 128 ≤ len ∧ len ≤ 65536 ∧ off ≠ none ∧ x.app1 * 8192 ≤ o ∧
         o + 2 * len ≤ x.app2 * 8192 ∧ (∀ z ∈ x.windows, z.live = true → meets z = false) ∧
         (x.windows.filter (fun z => z.live && z.task == task)).length < 4
       let late : Prop := t.storesDone (some (t.worksFor w, t.ops)) = false ∨ (∃ z ∈ x.windows, z.live = false ∧ meets z = true ∧ t.lateWrites w.st z = true) ∨
         t.copyRoom w.st = false
       (¬ ok → exec (.bufdef a b ka kb) s = engine 0x57) ∧ (ok → late → exec (.bufdef a b ka kb) s = .next s.wait) ∧
       (ok → ¬ late → exec (.bufdef a b ka kb) s = .next (((t.modStation w.st (fun z => { z with windows := (z.windows.filter (fun v => v.live || !meets v)) ++ [{ base := o, len := len, owner := (t.worksFor w).core, task := task, live := true, born := t.ops, died := 0 }] })).bump).retire w .next))) ∧
      (v.toNat % 8 ≠ 0 → exec (.cpoll a b ka kb tag) s = .next (s.trapNow (alignOf v))) ∧
      (v.toNat % 8 = 0 → (∀ e, t.accessFault w v 8 .waitfFill false = some e →
          exec (.cpoll a b ka kb tag) s = .next (s.trapNow e)) ∧
        (t.accessFault w v 8 .waitfFill false = none → 8 ≤ x.notifies.length ∨ t.copyRoom w.st = false →
          exec (.cpoll a b ka kb tag) s = .next s.wait) ∧
        (t.accessFault w v 8 .waitfFill false = none → x.notifies.length < 8 → t.copyRoom w.st = true → exec (.cpoll a b ka kb tag) s =
          .next ((((t.modStation w.st (fun z => { z with notifies := z.notifies ++ [{ set := tag.toNat, addr := v, target := y, acc := t.engAccess w 2 }] })).testNotifies w.st).bump).retire w .next)))) ∧
    (s.ready .store ⟨[(.s a, ka)], []⟩ = true →
      let t := s.popAll w [(.s a, ka)]
      let ports := (t.holder w).ports
      let found := ports.find? (fun p => p.port == v.toNat % 8)
      (v.toNat ≥ 8 ∨ found = none → exec (.prel a ka) s = engine 0x55 ∧ exec (.ringeos a ka) s = engine 0x56) ∧
      (∀ p, v.toNat < 8 → found = some p →
        roomed t (exec (.prel a ka) s) (.next (((((t.unbind w p).dropPortSteps w (fun q => q == p.port)).modHolder w (fun h =>
          { h with ports := h.ports.filter (fun q => q.port != p.port) })).bump).retire w .next)) ∧
        ((p.out = false ∨ ∀ d o i, p.target ≠ .ring d o i) → exec (.ringeos a ka) s = engine 0x56) ∧
        (∀ d o i, p.out = true → p.target = .ring d o i → roomed t (exec (.ringeos a ka) s) (.next (((if p.ended then t else
          (t.modHolder w (fun h => h.setBinding { p with ended := true })).later (.ringeosAtHome
            { who := w, op := t.ops, port := p.port, die := d, desc := o, idx := i, data := [],
              task := (t.holder (t.worksFor w)).taskid })).bump).retire w .next)))) ∧
      (t.windowOf w v.toNat = none → exec (.publish a ka) s = engine 0x58) ∧
      (∀ z, t.windowOf w v.toNat = some z → roomed t (exec (.publish a ka) s)
        (.next ((((t.modStation w.st (fun y => { y with publishes := y.publishes ++
          [{ id := t.ops, who := w, task := z.task, op := t.ops, base := z.base }] })).later (.publishExchange w.st t.ops)).bump).retire w .next))))

/-- R216, R248 to R258 and R279 to R284, the matrix commands: in a trap handler that has not parked context 0 a slot's trap
0x6D; while another slot parks it they wait; then their own checks, a full queue of 8 waits, and the command takes its
place or the batch changes hands. An MDRAIN to a plane bank reads no stride.

The model's choice, and no rule of the spec: that MPARK and MUNPARK are waited for and 0x6D is checked first (log entry 71),
and which drains 0x6C refuses (entry 73). -/
def Obligations.MatrixCommands : Prop :=
  ∀ (s : State) (a b : Reg) (ka kb : Bool) (tile : BitVec 3),
    let w := s.cur
    let v := s.valS w a
    let y := s.valS w b
    let n := slotNumber w.core
    let c1 := isCtx1 w
    let engine (sub : Nat) : Out := .next (s.trapNow (trapOf 0x08 (BitVec.ofNat 64 (0x300 + sub))))
    let fits : Prop := if w.core = .urgent then tile = 4 ∨ tile = 5 else tile.toNat < 4
    let stops (t : State) (o : Out) : Prop := (t.parkRefuses w = true → o = engine 0x6D) ∧
      (t.parkRefuses w = false → t.mtxHeld w = true → o = .next s.wait)
    let runs (t : State) : Prop := t.parkRefuses w = false ∧ t.mtxHeld w = false
    let kept (t : State) (k : MtxKind) : Out := .next (((t.acceptMtx w k true).bump).retire w .next)
    let roomed (t : State) (o done : Out) : Prop := o = if ((t.station w.st).mtx c1).length < 8 then done else .next s.wait
    let mine (x : Station) : Prop := x.parkedBy = some n ∧ x.restoring = false
    (∀ t : State, t.parkRefuses w = true ↔ w.core ≠ .urgent ∧ (t.holder w).inh = true ∧ ¬ mine (t.station w.st)) ∧
    (s.ready .vstore ⟨[(.s a, ka), (.s b, kb)], []⟩ = true →
      let t := s.popAll w [(.s a, ka), (.s b, kb)]
      let x := t.station w.st
      let fault := t.mmulFault w x.mx v.toNat y.toNat tile.toNat
      stops t (exec (.mmul a b ka kb tile) s) ∧
      (runs t →
        (x.holdsBatch w = false → fault = some 0x60) ∧ (x.holdsBatch w = true → ¬ fits → fault = some 0x61) ∧
        (∀ sub, fault = some sub → exec (.mmul a b ka kb tile) s = engine sub) ∧
        (fault = none → roomed t (exec (.mmul a b ka kb tile) s) (kept t (.mul v y tile.toNat))))) ∧
    (let srcs : List (RegName × Bool) := if (s.planeEnd w v.toNat).isSome then [(.s a, ka)] else [(.s a, ka), (.s b, kb)]
     s.ready .vstore ⟨srcs, []⟩ = true →
      let t := s.popAll w srcs
      let x := t.station w.st
      stops t (exec (.mdrain a b ka kb tile) s) ∧
      (runs t →
        (x.holdsBatch w = false → exec (.mdrain a b ka kb tile) s = engine 0x60) ∧
        (x.holdsBatch w = true → ¬ fits → exec (.mdrain a b ka kb tile) s = engine 0x61) ∧
        (x.holdsBatch w = true → fits →
          (∀ sub, t.drainFault w x.mx.dfmt v y = some sub → exec (.mdrain a b ka kb tile) s = engine sub) ∧
          (t.drainFault w x.mx.dfmt v y = none →
            roomed t (exec (.mdrain a b ka kb tile) s) (kept t (.drain v y tile.toNat)))))) ∧
    (s.ready .vstore ⟨[], []⟩ = true →
      let x := s.station w.st
      let full : Prop := 8 ≤ (x.mtx c1).length
      stops s (exec (.mzero tile) s) ∧ stops s (exec .mopen s) ∧ stops s (exec .mclose s) ∧ stops s (exec .munpark s) ∧
      (runs s →
        (x.holdsBatch w = false → exec (.mzero tile) s = engine 0x60 ∧ exec .mclose s = engine 0x66) ∧
        (x.holdsBatch w = true → exec .mopen s = engine 0x65 ∧ (¬ fits → exec (.mzero tile) s = engine 0x61) ∧
          (fits → roomed s (exec (.mzero tile) s) (kept s (.zero tile.toNat))) ∧
          (c1 = true → roomed s (exec .mclose s) (.next ((s.modStation w.st (fun z => { z with batch1 := false })).retire w .next))) ∧
          (c1 = false → roomed s (exec .mclose s) (.next ((s.modStation w.st (fun z => { z with batch0 := none })).retire w .next)))) ∧
        (x.holdsBatch w = false → full → exec .mopen s = .next s.wait) ∧
        (c1 = true → x.batch1 = false → ¬ full →
          exec .mopen s = .next ((s.modStation w.st (fun z => { z with batch1 := true })).retire w .next)) ∧
        (c1 = false → x.batch0 = none → x.mopenq = [] → ¬ full → exec .mopen s = .next ((s.modStation w.st (fun z =>
          { z with batch0 := some n, mopenq := z.mopenq.filter (· != n) })).retire w .next)) ∧
        (c1 = false → x.batch0 ≠ none → x.holdsBatch w = false → ¬ full → ¬ (s.me.waiting = true ∧ n ∈ x.mopenq) → exec .mopen s =
          .next (((s.modStation w.st (fun z => { z with mopenq := if z.mopenq.contains n then z.mopenq else z.mopenq ++ [n] })).modHolder
            w (fun h => { h with waiting := true })).retire w .stay)) ∧
        (let may : Prop := c1 = false ∧ mine x ∧ x.holdsBatch w = false
         (¬ may → exec .munpark s = engine 0x69) ∧
         (may → roomed s (exec .munpark s) (kept (s.modHolder w (fun h => { h with acquire := some s.ops })) (.unpark n))))) ∧
      (let may : Prop := c1 = false ∧ s.me.inh = true ∧ 23 ≤ x.app1
       let free : Prop := x.parkedBy = none ∧ x.parking = none ∧ ¬ full ∧ s.mtxHeld w = false
       (¬ may → exec .mpark s = engine 0x68) ∧ (may → ¬ free → exec .mpark s = .next s.wait) ∧
       (may → free → exec .mpark s = kept ((s.modStation w.st (fun z => { z with parking := some n })).modHolder w
          (fun h => { h with acquire := some s.ops })) (.park n)))) ∧
    (s.ready .vstore ⟨[(.s a, ka)], []⟩ = true →
      let t := s.popAll w [(.s a, ka)]
      let m := v.toNat % 4
      let target := (t.holder { st := w.st, core := slotOf m }).state
      let may : Prop := c1 = false ∧ (t.station w.st).holdsBatch w = true ∧ v.toNat < 4 ∧ m ≠ n ∧ target ≠ .free ∧ target ≠ .reserved
      stops t (exec (.mctx a ka) s) ∧
      (runs t → (¬ may → exec (.mctx a ka) s = engine 0x67) ∧
        (may → roomed t (exec (.mctx a ka) s) (.next ((t.modStation w.st (fun z => { z with batch0 := some m })).retire w .next)))))

/-- R217 to R220, R259 to R264 and R286, the signature commands: a bank operand that is not a bank of the A side of the own
cluster 0x80, SGLEAD on a CB2 bank 0x81, too few groups 0x82, SGSCAT and SGSUM with SG.SLEN zero 0x83, a range that the station
may not address 0x84; a ninth waits; else the command, with the unit's registers as they stand, is accepted.

The model's choice, and no rule of the spec: the order of the checks and the range of SGSCAT and SGSUM (log entry 75). -/
def Obligations.SignatureCommands : Prop :=
  ∀ (s : State) (a b : Reg) (ka kb : Bool),
    let w := s.cur
    let engine (sub : Nat) : Out := .next (s.trapNow (trapOf 0x08 (BitVec.ofNat 64 (0x400 + sub))))
    let runs (srcs : List (RegName × Bool)) (k : SigKind) (va vb : Word) (o : Out) : Prop :=
      let t := s.popAll w srcs
      let x := t.station w.st
      let q := x.sg
      let aBank (f : BankFmt) : Prop := ∃ bank, t.ownBank w va.toNat = some (bank, f) ∧ f.b = false
      let ranges (fmt : Nat) : Bool := t.rangesOk w (sigRanges k q va.toNat vb.toNat fmt)
      let accepted : Prop := (8 ≤ x.sigs.length → o = .next s.wait) ∧
        (x.sigs.length < 8 →
          let c : SigCmd := { id := t.ops, kind := k, who := w, acc := t.engAccess w 4, a := va, b := vb, regs := q, retry := none }
          let u := t.modStation w.st (fun y => { y with sigs := y.sigs ++ [c] })
          o = .next (((if x.sigs = [] then u.later (.sigCommandPerform w.st) else u).bump).retire w .next))
      if k = .hash ∨ k = .lead then
        ((∀ f, ¬ aBank f) → o = engine 0x80) ∧
        (∀ f, aBank f →
          (k = .lead → f.fmt = 0x16 → o = engine 0x81) ∧
          (¬ (k = .lead ∧ f.fmt = 0x16) → kmax f < 32 * q.kg → o = engine 0x82) ∧
          (¬ (k = .lead ∧ f.fmt = 0x16) → 32 * q.kg ≤ kmax f → ranges f.fmt = false → o = engine 0x84) ∧
          (¬ (k = .lead ∧ f.fmt = 0x16) → 32 * q.kg ≤ kmax f → ranges f.fmt = true → accepted))
      else
        ((k = .scat ∨ k = .sum) → q.slen = 0 → o = engine 0x83) ∧
        (¬ ((k = .scat ∨ k = .sum) ∧ q.slen = 0) →
          (ranges 0 = false → o = engine 0x84) ∧ (ranges 0 = true → accepted))
    let va := s.valS w a
    let vb := s.valS w b
    let two : List (RegName × Bool) := [(.s a, ka), (.s b, kb)]
    (s.ready .vstore ⟨two, []⟩ = true →
      runs two .hash va vb (exec (.sghash a b ka kb) s) ∧ runs two .lead va vb (exec (.sglead a b ka kb) s) ∧
      runs two .scat va vb (exec (.sgscat a b ka kb) s) ∧ runs two .sum va vb (exec (.sgsum a b ka kb) s) ∧
      runs two .sel va vb (exec (.sgsel a b ka kb) s)) ∧
    (s.ready .vstore ⟨[(.s a, ka)], []⟩ = true →
      runs [(.s a, ka)] .room va (s.valS w 0) (exec (.sgroom a ka) s))

/-- R398 to R406, R410 to R414, R418 and R419, the crossing commands: their checks in their order, and what each does to the
station's unit; an XSAMP or an XPOP waits where the hold queue has no place for what it sends to a rank in transit (R199).

R401, R410, R414, what a pop of a variable with no dependents does, within its station's budget: its value becomes the next
quantum above or below, by the sign of its slope; its last two times become its time; and it leaves the board.

The model's choice, and no rule of the spec: which of 0xC0 and 0xC2 an index beyond its range takes (log entry 135), and that
a near sample is written at issue (entry 82). -/
def Obligations.CrossingCommands : Prop :=
  (∀ (s : State) (a b : Reg) (ka kb : Bool),
      let w := s.cur
      let v := s.valS w a
      let y := s.valS w b
      let engine (sub : Nat) : Out := .next (s.trapNow (trapOf 0x08 (BitVec.ofNat 64 (0x500 + sub))))
      (s.ready .vstore ⟨[(.s a, ka), (.s b, kb)], []⟩ = true →
        let t := s.popAll w [(.s a, ka), (.s b, kb)]
        let u := (t.station w.st).xing
        let ends (u : Crossing) : Out := .next ((t.xstep w.st u.start).retire w .next)
        let i := v.toNat % 2 ^ 12
        (2 ^ 12 ≤ v.toNat → exec (.xdef a b ka kb) s = engine 0xC0 ∧ exec (.xsamp a b ka kb) s = engine 0xC0 ∧
          exec (.xbudg a b ka kb) s = engine 0xC2) ∧
        (v.toNat < 2 ^ 12 →
          (posNormal y = false → exec (.xdef a b ka kb) s = engine 0xC1) ∧
          (posNormal y = true → u.pool.any (fun e => e.var == i) = false → exec (.xdef a b ka kb) s = ends { u with
            pool := u.pool.filter (fun e => e.var != i),
            vars := put i { x := 0, q := 0, s := 0, d := y, tl := 0, last := 0, tn := none, d0 := y, dmax := ceiling64 y, same := [], sbase := 0, posted := none } u.vars }) ∧
          (u.var? i = none → exec (.xsamp a b ka kb) s = engine 0xC0 ∧ exec (.xbudg a b ka kb) s = engine 0xC0) ∧
          (∀ r, u.var? i = some r →
            let reaches : Prop := y.toNat % 8 = 0 ∧ t.mayName w y.toNat 8 = true
            let room : Prop := t.holdRoom w [y.toNat] = true
            let raises : Prop := posNormal y = true ∧ r.d0.toNat ≤ y.toNat
            (¬ reaches → exec (.xsamp a b ka kb) s = engine 0xC4) ∧
            (reaches → ¬ room → exec (.xsamp a b ka kb) s = .next s.wait) ∧
            (reaches → room → exec (.xsamp a b ka kb) s = .next (((t.sampleWrite w y.toNat (leBytes
              (extrapolate r.x r.s ((u.curfew : Int) - (r.tl : Int))).toNat 8)).bump).retire w .next)) ∧
            (¬ raises → exec (.xbudg a b ka kb) s = engine 0xC5) ∧
            (raises → exec (.xbudg a b ka kb) s = ends { u with vars := put i { r with dmax := y, d := minPos r.d y } u.vars }))) ∧
        (let f := v.toNat / 2 ^ 12
         (3 ≤ f → exec (.xset a b ka kb) s = engine 0xC2) ∧
         (f < 3 → u.var? i = none → exec (.xset a b ka kb) s = engine 0xC0) ∧
         (∀ r, f < 3 → u.var? i = some r →
           (f ≠ 2 → finite64 y = false → exec (.xset a b ka kb) s = engine 0xC1) ∧
           (f = 2 ∨ finite64 y = true →
             let q : XVar := if f = 0 then { r with x := y, q := y } else if f = 1 then { r with s := y } else { r with tl := y.toNat }
             exec (.xset a b ka kb) s = ends { u with vars := put i { q with same := [] } u.vars }))) ∧
        (let dr := v.toNat / 2 ^ 12 % 2 ^ 13
         let dv := v.toNat / 2 ^ 25 % 2 ^ 12
         let same (e : XDep) : Bool := e.svar == i && e.drank == dr && e.dvar == dv
         (2 ^ 38 ≤ v.toNat → exec (.xdep a b ka kb) s = engine 0xC2) ∧
         (v.toNat < 2 ^ 38 → u.var? i = none → exec (.xdep a b ka kb) s = engine 0xC0) ∧
         (v.toNat < 2 ^ 38 → u.var? i ≠ none →
           (v.getLsbD 37 = true → exec (.xdep a b ka kb) s = ends { u with deps := u.deps.filter (fun e => !same e) }) ∧
           (v.getLsbD 37 = false → finite64 y = false → exec (.xdep a b ka kb) s = engine 0xC1) ∧
           (v.getLsbD 37 = false → finite64 y = true →
             (u.deps.any same = true → exec (.xdep a b ka kb) s =
               ends { u with deps := u.deps.map (fun e => if same e then { e with coef := y } else e) }) ∧
             (u.deps.any same = false → 16384 ≤ u.deps.length → exec (.xdep a b ka kb) s = engine 0xC3) ∧
             (u.deps.any same = false → u.deps.length < 16384 → exec (.xdep a b ka kb) s = ends { u with
               deps := u.deps ++ [{ svar := i, drank := dr, dvar := dv, coef := y, seq := u.seq }], seq := (u.seq + 1) % 2 ^ 32 }))))) ∧
      (s.ready .vstore ⟨[(.s a, ka)], []⟩ = true →
        let t := s.popAll w [(.s a, ka)]
        let u := (t.station w.st).xing
        exec (.xcurf a ka) s = .next ((t.modStation w.st (fun z =>
          { z with xing := { z.xing with curfew := v.toNat } })).retire w .next) ∧
        (2 ^ 12 ≤ v.toNat ∨ u.var? v.toNat = none → exec (.xnext a ka) s = engine 0xC0 ∧ exec (.xpost a ka) s = engine 0xC0) ∧
        (∀ r, v.toNat < 2 ^ 12 → u.var? v.toNat = some r →
          exec (.xnext a ka) s = .next ((t.xstep w.st (u.start.next v.toNat r)).retire w .next) ∧
          (u.pool = [] → exec (.xpost a ka) s = .next ((t.xstep w.st ({ u with
            vars := put v.toNat { r with posted := r.tn } u.vars } : Crossing).start).retire w .next)))) ∧
      (s.ready .vstore ⟨[], [.s b, .s (b + 1)]⟩ = true →
        let u := (s.station w.st).xing
        let answers (t : State) (x y : Word) : Out :=
          .next ((t.answerNow w (.engine b true) 0 (leBytes x.toNat 8 ++ leBytes y.toNat 8)).retire w .load)
        let none64 : Word := 2 ^ 63
        (u.head = none → exec (.xpop b) s = answers s none64 (BitVec.allOnes 64)) ∧
        (∀ time i, u.head = some (time, i) →
          (u.curfew < time → exec (.xpop b) s = answers s none64 (BitVec.ofNat 64 time)) ∧
          (time ≤ u.curfew → u.var? i ≠ none → s.popRoom w.st i = false → exec (.xpop b) s = .next s.wait) ∧
          (∀ r, time ≤ u.curfew → u.var? i = some r → s.popRoom w.st i = true → exec (.xpop b) s =
            answers (s.xstep w.st (u.start.pop w (s.holder w).cls i time s.now r)) (BitVec.ofNat 64 i) (BitVec.ofNat 64 time))))) ∧
  (∀ (u : Crossing) (w : Who) (cls i time now : Nat) (r : XVar),
      (∀ e ∈ u.deps, e.svar ≠ i) → u.pool = [] → (u.budg = 0 ∨ (u.window ≠ now / 1024 ∧ u.budg ≠ 0) ∨ u.pops + 1 ≤ u.budg) →
      let x := u.start.pop w cls i time now r
      let up := numLt (.fin false 0 0) (f64 r.s)
      let q := r64 .rne (if up then fAdd .rne (f64 r.q) (f64 r.d) else fSub .rne (f64 r.q) (f64 r.d)).1
      x.out = [] ∧ x.u.pool = [] ∧ x.u.deps = u.deps ∧ x.u.window = now / 1024 ∧
      ∃ z, x.u.var? i = some z ∧ z.q = q ∧ z.x = q ∧ z.tl = time ∧ z.last = time ∧ z.s = r.s ∧ z.d = r.d ∧ z.same = [] ∧
        z.posted = z.tn ∧ z.tn = (({ r with x := q, q := q, tl := time, last := time, same := [], posted := none } : XVar).nextTime u.dtmin).1)

/-- R212, R247, R248, R259, R265, R287 to R290, R407 to R409: an engine register that the word's core may name is written if the
value is in its range and read as it stands; an unused number 0xA0, a value out of range 0xA1, a write of a register that
is read only 0xA2; EDRAIN of an engine that does not exist 0xA3, and it waits until the work of that engine is done.

R212, R233, R247, R259, R407: an engine register that is written reads as the value written, and no other register of an
engine changes (but XG.VREC, which the selection of XG.VSEL names).

The model's choice, and no rule of the spec: the engine field of TVAL in the traps of ECFG, ERD and EDRAIN (log entry 83),
and what EDRAIN waits for where a returning crossing message names no task (entry 84). -/
def Obligations.EngineRegisters : Prop :=
  (∀ (s : State) (a b : Reg) (ka kb : Bool),
      let w := s.cur
      let v := s.valS w a
      let y := s.valS w b
      let n := v.toNat % 2 ^ 16
      let named : Prop := v.toNat < 2 ^ 16 ∧ (w.core = .keeper → n / 2 ^ 12 = 2)
      let register (sub : Nat) : Out := .next (s.trapNow (engineRegTrap 7 sub n))
      (∀ sub : Nat, sub < 256 → (engineRegTrap 7 sub n).cause = 0x08 ∧
        (engineRegTrap 7 sub n).tval = BitVec.ofNat 64 (n * 2 ^ 16 + 7 * 2 ^ 8 + sub)) ∧
      (s.ready .store ⟨[(.s a, ka), (.s b, kb)], []⟩ = true →
        let t := s.popAll w [(.s a, ka), (.s b, kb)]
        (¬ named → exec (.ecfg a b ka kb) s = register 0xA0) ∧
        (named → match (t.station w.st).setEngReg n y with
          | .unused => exec (.ecfg a b ka kb) s = register 0xA0
          | .range => exec (.ecfg a b ka kb) s = register 0xA1
          | .readOnly => exec (.ecfg a b ka kb) s = register 0xA2
          | .ok x => exec (.ecfg a b ka kb) s = .next ((((t.setStation w.st x).testNotifies w.st).bump).retire w .next))) ∧
      (s.ready .store ⟨[(.s a, ka)], [.s b]⟩ = true →
        let t := s.popAll w [(.s a, ka)]
        (¬ named → exec (.erd a b ka) s = register 0xA0) ∧
        (named → (t.station w.st).engReg n = none → exec (.erd a b ka) s = register 0xA0) ∧
        (named → ∀ x, (t.station w.st).engReg n = some x → exec (.erd a b ka) s =
          .next ((t.answerNow w (.engine b false) v (leBytes x.toNat 8)).retire w .load))) ∧
      (s.ready .store ⟨[(.s a, ka)], []⟩ = true →
        let t := s.popAll w [(.s a, ka)]
        let exists_ : Prop := v.toNat < 8 ∧ v.toNat ≠ 6 ∧ (w.core = .keeper → v.toNat = 2 ∨ v.toNat = 7)
        (¬ exists_ → exec (.edrain a ka) s = .next (s.trapNow (trapOf 0x08 0x7A3))) ∧
        (exists_ → t.drained w v.toNat = false → exec (.edrain a ka) s = .next s.wait) ∧
        (exists_ → t.drained w v.toNat = true → exec (.edrain a ka) s = .next (t.retire w .next)))) ∧
  (∀ (x y : Station) (n m : Nat) (v : Word), n < 2 ^ 16 → m < 2 ^ 16 → x.setEngReg n v = .ok y →
      y.engReg n = some v ∧ (m ≠ n → ¬ (n = 0x5006 ∧ 0x5010 ≤ m ∧ m ≤ 0x5019) → y.engReg m = x.engReg m))

/-- R317, R320, R321, R323 to R326, R333, R435, TRANSLATE, PAGE_RETRY and CXL_REQUEST_TIMEOUT: an access goes behind an earlier
one that is parked, into the queue of a page that moves, on to its home at the physical address of a leaf that permits it,
or parks; a port that does not answer parks it after 4,096 cycles; one that parks is retried after the doubled interval,
its holder PARKED with CAUSE 0x05, EPC and FVA; after its last retry it is abandoned.

The model's choice, and no rule of the spec: what is held behind a parked access, and which parts count among the eight (log
entry 117), that CAUSE, EPC and FVA are written at a park and stay (entry 128), and when a port is silent and which requests
wait 4,096 cycles for it (entry 152). -/
def Obligations.PageEvents : Prop :=
  ∀ (s : State) (p : AccPart),
    let va := p.addr.toNat % 2 ^ 52
    let asn := p.acc.asn
    let afresh := p.attempt != 0
    let home (t : State) (e : TlbEntry) : State :=
      let pa := e.frame + va % 2 ^ levelShift e.level
      let u := t.markHost p pa
      if p.again = true ∧ isHostPa pa = false then u.lookAgain p pa
      else u.later (.accessAtHome { p with pa := some pa, line := if p.again then 0 else p.line, again := false })
    let parks (s0 u : State) (walk : Bool) : State := if s0.parkFull p = true then s0.wait else u.park p walk
    let goes (s0 t : State) : State :=
      let (w, u) := t.translateAt p.kind asn va afresh
      match w with
      | .leaf e => if afresh = true then ((home u e).unparkHolder p).releaseBehind else home u e
      | .fault => parks s0 u false
      | .blocked => parks s0 u true
      | .silent => u.laterAt (u.now + 4096) (.cxlRequestTimeout { p with pa := none })
    let settled (t : State) (f : State → State) : Out := if t.waits = true then .next s.wait else .next (f t)
    (s.mustStayBehind p = true → exec (.translate p) s = .next { s with behind := s.behind ++ [p] }) ∧
    (s.mustStayBehind p = false → s.heldAhead p = true → exec (.translate p) s = .next s.wait) ∧
    (s.mustStayBehind p = false → s.heldAhead p = false →
      (∀ m, s.blockedBy asn va = some m →
        (m.queue.length < 1024 → exec (.translate p) s = .next (s.setMigration { m with queue := m.queue ++ [p] })) ∧
        (1024 ≤ m.queue.length → exec (.translate p) s = .next s.wait)) ∧
      (s.blockedBy asn va = none → s.recallWalk asn va afresh = none → exec (.translate p) s = .next s.wait) ∧
      (∀ t, s.blockedBy asn va = none → s.recallWalk asn va afresh = some t → exec (.translate p) s = .next (goes s t))) ∧
    (∀ (e : TlbEntry) (u t : State), t.translateAt p.kind asn va afresh = (.leaf e, u) → permits p.kind e = true) ∧
    (s.parked.find? (fun q => q.part == p) = none → exec (.pageRetry p) s = .next s) ∧
    (∀ q, s.parked.find? (fun q => q.part == p) = some q →
      let s1 : State := { s with parked := s.parked.filter (fun x => x != q) }
      (∀ m, s.blockedBy asn va = some m →
        (m.queue.length < 1024 →
          exec (.pageRetry p) s = .next (s1.setMigration { m with queue := m.queue ++ [p] }).releaseBehind) ∧
        (1024 ≤ m.queue.length → exec (.pageRetry p) s = .next s.wait)) ∧
      (s.blockedBy asn va = none → s1.recallWalk asn va afresh = none → exec (.pageRetry p) s = .next s.wait) ∧
      (∀ t, s.blockedBy asn va = none → s1.recallWalk asn va afresh = some t →
        exec (.pageRetry p) s = settled (goes s1 t) id)) ∧
    (∀ pa, p.pa = some pa →
      (s.answers pa = true → exec (.cxlRequestTimeout p) s = .next ((s.again (s.now + 1) (.accessAtHome p)).releaseBehind)) ∧
      (s.answers pa = false → exec (.cxlRequestTimeout p) s = .next (parks s s true))) ∧
    (p.pa = none → s.recallWalk asn va afresh = none → exec (.cxlRequestTimeout p) s = .next s.wait) ∧
    (∀ t, p.pa = none → s.recallWalk asn va afresh = some t →
      ((t.translateAt p.kind asn va afresh).1 = .silent →
        exec (.cxlRequestTimeout p) s = .next (parks s (t.translateAt p.kind asn va afresh).2 true)) ∧
      ((t.translateAt p.kind asn va afresh).1 ≠ .silent →
        exec (.cxlRequestTimeout p) s = settled (goes s t) State.releaseBehind)) ∧
    (∀ walk, (p.kind = .load ∨ p.kind = .store ∨ p.kind = .fetch ∨ ∃ o w, p.kind = .amo o w) → p.line = 0 → p.acc.eng ≠ 1 →
      p.attempt < p.acc.tries →
      let t := s.park p walk
      let q : AccPart := { p with attempt := p.attempt + 1, pa := none, held := true, again := false,
                                  faulted := p.faulted || !walk }
      let due := s.now + Nat.min (256 * 2 ^ p.attempt) p.acc.ceil
      { part := q, slice := transSlice va asn, at_ := due, walk := walk } ∈ t.parked ∧
      { due := due, ev := Instr.pageRetry q } ∈ t.agenda ∧ t.mem = s.mem ∧
      (p.attempt = 0 → p.acc.eng = 0 → s.sameTask p.acc = true → (s.holder p.acc.who).state = .run →
        let h := t.holder p.acc.who
        h.state = .parked ∧ h.cause = 0x05 ∧ h.epc = p.acc.pc ∧ h.fva = p.addr ∧ h.pc = (s.holder p.acc.who).pc)) ∧
    (p.kind = .load → p.acc.eng = 0 → p.acc.tries ≤ p.attempt →
      s.park p true = ((((s.unparkHolder p).partBack p.acc.who p.acc.op p.off []
        (some { cause := 0x05, tval := BitVec.ofNat 64 0, fva := some p.addr, held := false })).dropIdle
          p.acc.who.st).releaseBehind))

/-- R317 to R321, which leaf a walk finds. `tables` are the tables on its way, from the root of the address space; at levels 0 to
n − 1 its entries are valid pointers, each aligned as its level asks. A line that cannot be read stops it; an entry that is not valid
or breaks the table of R319 is a fault; a leaf that permits the access maps the page, and its translation is the one that is found from
then on.

The model's choice, and no rule of the spec: when a port is silent and a line absent, which is the turn's (log entry 152),
and that a leaf counts as populated where its frame's base is (entry 174). -/
def Obligations.WalkFindsLeaf : Prop :=
  ∀ (s : State) (k : PartKind) (asn va n : Nat) (tables : Nat → Nat),
    let root := look 0#64 s.asroot asn
    let shift (l : Nat) : Nat := if l = 0 then 39 else if l = 1 then 30 else if l = 2 then 21 else 16
    let count (l : Nat) : Nat := if l = 0 then 8192 else if l = 3 then 32 else 512
    let place (l : Nat) : Nat := tables l + 8 * (va / 2 ^ shift l % count l)
    let entry (l : Nat) : Word := s.wordAt (Config.physAt (place l))
    let addr (l : Nat) : Nat := (entry l).toNat / 2 ^ 8 % 2 ^ 44 * 2 ^ 8
    let clean (l : Nat) : Prop := (entry l).toNat / 2 ^ 52 % 2 ^ 8 = 0 ∧ (entry l).toNat / 2 ^ 5 % 2 ^ 3 = 0
    let pointer (l : Nat) : Prop := clean l ∧ (entry l).getLsbD 1 = false ∧ (entry l).toNat / 4 % 8 = 0 ∧ l < 3 ∧
      addr l % (8 * count (l + 1)) = 0
    let leaf (l : Nat) : Prop := clean l ∧ (entry l).getLsbD 1 = true ∧ l ≠ 0 ∧ addr l % 2 ^ shift l = 0 ∧ s.populated (addr l) = true
    let r := (entry n).getLsbD 2
    let w := (entry n).getLsbD 3
    let x := (entry n).getLsbD 4
    let allowed : Bool := match k with
      | .load | .prefetch false => r
      | .store => w
      | .amo _ _ | .red _ _ | .prefetch true => r && w
      | .fetch => x
    let walk := s.translateAt k asn va true
    (root.getLsbD 0 = false → walk = (.fault, s)) ∧
    (root.getLsbD 0 = true → n ≤ 3 → tables 0 = root.toNat / 2 ^ 16 % 2 ^ 36 * 2 ^ 16 →
      (∀ l, l < n → s.answers (place l) = true ∧ s.readable (place l) = true ∧ (entry l).getLsbD 0 = true ∧ pointer l ∧
        tables (l + 1) = addr l) →
      (s.answers (place n) = false → walk = (.silent, s)) ∧
      (s.answers (place n) = true → s.readable (place n) = false → walk = (.blocked, s)) ∧
      (s.answers (place n) = true → s.readable (place n) = true →
        ((entry n).getLsbD 0 = false ∨ (¬ pointer n ∧ ¬ leaf n) → walk = (.fault, s)) ∧
        ((entry n).getLsbD 0 = true → leaf n → allowed = false → walk = (.fault, s)) ∧
        ((entry n).getLsbD 0 = true → leaf n → allowed = true → ∃ e t, walk = (.leaf e, t) ∧
          e.asn = asn ∧ e.level = n ∧ e.frame = addr n ∧ e.base = va / 2 ^ shift n * 2 ^ shift n ∧ e.r = r ∧ e.w = w ∧ e.x = x ∧
          leafPa e va = addr n + va % 2 ^ shift n ∧ t.mem = s.mem ∧
          (∃ i u, t.translateAt k asn va false = (.leaf i, u) ∧ leafPa i va = addr n + va % 2 ^ shift n) ∧
          (s.tlb = [] → s.walks = [] → (s.translateAt k asn va false).1 = walk.1))))

/-- R297, R310 and R311, L1_FILL_ARRIVES, RECALL and WRITE_BACK_ARRIVES: what arrives for a line of the L1 is placed in it and
serves what waits there; a line that has left meanwhile serves those that waited for it and leaves again, and an Exclusive one
that nothing waits for is given back at once; a recalled owner's dirty bytes are in memory and its record is cleared; and so are those of a line that is given up.

The model's choice, and no rule of the spec: what becomes of a line that leaves the L1, or whose fill fails, while something
asked for it is on its way (log entry 22), and of the station's own stores and atomics to such a line (entry 150). -/
def Obligations.CacheLineEvents : Prop :=
  ∀ (s : State) (p : AccPart),
    let st := p.acc.who.st
    let va := p.addr.toNat % 2 ^ 52
    (∀ l, l1Of (s.station st) p = some l →
      (asks p = false → exec (.l1FillArrives p) s =
        .next ((s.modStation st (fun x => x.setLine (fillLine l va p.data))).serveLine st l.id l.waiters)) ∧
      (asks p = true → ∃ (t : State) (k : L1Line), exec (.l1FillArrives p) s = .next (t.serveLine st l.id l.waiters) ∧
        k ∈ (t.station st).l1 ∧ k.id = l.id ∧ k.exclusive = true ∧ k.pa = p.pa.getD 0 / 128 * 128 ∧ k.present0 = true ∧
        k.present1 = true ∧ t.mem = s.mem)) ∧
    (∀ l, l.exclusive = false → fillLine l va p.data = { fillLine l va p.data with
      id := l.id, va := l.va, asn := l.asn, set := l.set, way := l.way, exclusive := false, asking := l.asking,
      present0 := l.present0 || decide (va % 128 < 64), present1 := l.present1 || decide (64 < va % 128 + p.data.length) }) ∧
    (∀ l, l1Of (s.station st) p = none → l1Gone (s.station st) p = some l → asks p = false → l.asking = false →
      (∀ w ∈ l.waiters, w.kind = .load) → l.exclusive = false → ∃ t, exec (.l1FillArrives p) s = .next t ∧ t.mem = s.mem ∧ t.owners = s.owners ∧
        (t.station st).l1 = (s.station st).l1 ∧
        (∀ k ∈ (t.station st).leaving, k.id = l.id → (fillLine l va p.data).busy = true)) ∧
    (l1Any (s.station st) p = none →
      (p.kind = .load ∨ p.kind = .prefetch false → exec (.l1FillArrives p) s = .next s) ∧
      (p.kind = .prefetch true → exec (.l1FillArrives p) s = .next (s.later (.writeBackArrives st (p.pa.getD 0 / 128) true []))) ∧
      (∀ o w, p.kind = .amo o w →
        let old := ((p.data.take 128).drop (va % 128)).take p.size
        let new := amoBytes o w old (p.data.drop 128)
        exec (.l1FillArrives p) s = .next ((s.later (.writeBackArrives st (p.pa.getD 0 / 128) true
          (new.zipIdx.map (fun e => (va % 128 + e.2, e.1))))).partBack p.acc.who p.acc.op p.off old none))) ∧
    (∀ line requester, (find? s.owners line = none ∨ find? s.owners line = some requester) →
      exec (.recall line requester) s = .next s) ∧
    (∀ line requester o, find? s.owners line = some o → o ≠ requester →
      let owned (l : L1Line) : Bool := l.exclusive && l.pa / 128 == line
      ((∀ l ∈ (s.station o).l1, owned l = false) → exec (.recall line requester) s = .next s.wait) ∧
      (∀ l, (s.station o).l1.find? owned = some l → ∃ t, exec (.recall line requester) s = .next t ∧
        find? t.owners line = none ∧ (∀ k, k ≠ line → find? t.owners k = find? s.owners k) ∧ t.agenda = s.agenda ∧
        t.station o = (s.station o).dropLine l ∧ (∀ n, n ≠ o → t.station n = s.station n) ∧
        (∀ i, i < 128 → (if i < 64 then l.dirty0 else l.dirty1) = true →
          memGet t.mem (Config.physAt (line * 128 + i)) = l.data.extractLsb' (8 * i) 8) ∧
        (∀ x, (x < Config.physAt (line * 128) ∨ Config.physAt (line * 128) + 128 ≤ x) → memGet t.mem x = memGet s.mem x))) ∧
    (∀ n line gives bytes, ∃ t, exec (.writeBackArrives n line gives bytes) s = .next t ∧
      t.stations = s.stations ∧ t.agenda = s.agenda ∧ t.empties = s.empties ∧ t.poison = s.poison ∧
      (gives = true → find? s.owners line = some n → find? t.owners line = none) ∧
      (gives = false ∨ find? s.owners line ≠ some n → t.owners = s.owners) ∧
      (∀ x, (∀ e ∈ bytes, Config.physAt (line * 128 + e.1) ≠ x) → memGet t.mem x = memGet s.mem x) ∧
      (∀ o b, (o, b) ∈ bytes → (∀ e ∈ bytes, e.1 = o → e.2 = b) → memGet t.mem (Config.physAt (line * 128 + o)) = b))

/-- R328 to R333, TINV, FRCL, TSYNC, MIGRATION_START and MIGRATION_COPY: the named translations are dropped, at every slice, and
the requester's shoot-downs are counted; a frame's owners are recalled; a value the window ignores leaves a record;
TSYNC's load waits for the requester's own; a migration that the rule refuses leaves a record and nothing else; its copy
drains and freezes the frame, moves the bytes and the leaf, and lets the queued accesses go one after another.

The model's choice, and no rule of the spec: where a refused migration is recorded (log entry 31), how hosts are numbered
among the requesters and where their ignored writes are recorded (entry 153), and that what a station sends to one home in
one mesh class arrives in order (entry 104). -/
def Obligations.TranslationEvents : Prop :=
  ∀ (s : State) (r : Nat) (v : Word) (who : Who) (op asn va frame : Nat) (after : Option (Who × Nat)),
    let counted (t u : State) : Prop := look 0 u.shootdowns r = look 0 t.shootdowns r + 1 ∧
      ∀ k, k ≠ r → look 0 u.shootdowns k = look 0 t.shootdowns k
    let kind := v.toNat / 2 ^ 62
    let named := v.toNat / 2 ^ 52 % 64
    let page := v.toNat / 2 ^ 16 % 2 ^ 36 * 65536
    (tinvLegal v = false → exec (.tinv r v) s = .next (s.ignoredShootdown r 0)) ∧
    (frclLegal v = false → exec (.frcl r v) s = .next (s.ignoredShootdown r 8)) ∧
    (tinvLegal v = true → ∃ t, exec (.tinv r v) s = .next t ∧ counted s t ∧ t.mem = s.mem ∧ t.stations = s.stations ∧ t.agenda = s.agenda ∧
      (∀ e, e ∈ t.tlb ↔ e ∈ s.tlb ∧ ¬ (kind = 2 ∨ (kind ≠ 2 ∧ e.asn = named ∧
        (kind = 1 ∨ e.base = page / 2 ^ levelShift e.level * 2 ^ levelShift e.level)))) ∧
      (∀ e ∈ t.walks, e ∈ s.walks) ∧ (kind = 2 → t.walks = []) ∧ (kind = 1 → ∀ e ∈ t.walks, e.asn ≠ named)) ∧
    (let size := if kind = 0 then 2 ^ 16 else if kind = 1 then 2 ^ 21 else 2 ^ 30
     (frclLegal v = true → s.recallRange page size = none → exec (.frcl r v) s = .next s.wait) ∧
     (∀ t, frclLegal v = true → s.recallRange page size = some t → ∃ u, exec (.frcl r v) s = .next u ∧ counted t u ∧ u.mem = t.mem ∧
       u.owners = t.owners) ∧
     (frclLegal v = true → s.owners = [] → ∃ u, exec (.frcl r v) s = .next u ∧ counted s u ∧ u.mem = s.mem)) ∧
    (let cl := clusterOf who.st
     let underWay : Prop := ∃ t ∈ s.agenda, (∃ x, t.ev = .tinv cl x) ∨ (∃ x, t.ev = .frcl cl x)
     (underWay → exec (.tsync who op) s = .next s.wait) ∧
     (¬ underWay → exec (.tsync who op) s = .next (s.partBack who op 0 (leBytes (look 0 s.shootdowns cl % 2 ^ 64) 8) none))) ∧
    (let start := exec (.migrationStart asn va frame r after) s
     let refused := s.record (sliceBank (transSlice va asn)) deferred 0x0F 0 (BitVec.ofNat 64 (0x800 * 2 ^ 52 + va / 65536 * 65536)) 0 0
     (s.storesDone after = false → start = .next s.wait) ∧
     (s.storesDone after = true → s.rootOf asn = none → start = .next refused) ∧
     (∀ root t, s.storesDone after = true → s.rootOf asn = some root → s.recallWalk asn va true = some t → t.rootOf asn = some root →
       let w := (t.walkFrom (transSlice va asn) asn va 4 0 root).1
       (w = .fault → start = .next refused) ∧ (w = .blocked ∨ w = .silent → start = .next s.wait) ∧
       (∀ e, w = .leaf e →
         let may : Prop := e.level = 3 ∧ t.populated frame = true ∧ isHostPa frame = false ∧ frame % 65536 = 0 ∧ t.blockedBy asn va = none
         (¬ may → start = .next refused) ∧
         (may → ∃ m, start = .next (({ t with migrations := t.migrations ++ [m] } : State).later (.migrationCopy asn (va / 65536 * 65536))) ∧
           m.asn = asn ∧ m.va = va / 65536 * 65536 ∧ m.old = e.frame ∧ m.new = frame ∧ m.queue = [] ∧ m.requester = r ∧ m.stage = 0)))) ∧
    (s.blockedBy asn va = none → exec (.migrationCopy asn va) s = .next s) ∧
    (∀ m, s.blockedBy asn va = some m →
      let copy := exec (.migrationCopy asn va) s
      let onward (t : State) (stage : Nat) : State := (t.setMigration { m with stage := stage }).later (.migrationCopy m.asn m.va)
      let draining : Prop := ∃ t ∈ s.agenda, ∃ p ∈ partsIn t.ev, ∃ pa, p.pa = some pa ∧ pa / 65536 * 65536 = m.old ∧ p.acc.asn = m.asn
      (m.stage = 0 → draining ∨ s.recallRange m.old 65536 = none → copy = .next s.wait) ∧
      (∀ t, m.stage = 0 → ¬ draining → s.recallRange m.old 65536 = some t → copy = .next (onward t 1)) ∧
      (m.stage = 1 → s.owners = [] → Memory.wf s.mem = true → m.old % 65536 = 0 → m.new % 65536 = 0 → m.old ≠ m.new →
        (m.leaf + 8 ≤ m.new ∨ m.new + 65536 ≤ m.leaf) → ∃ t, copy = .next (onward t 2) ∧ t.stations = s.stations ∧
          t.agenda = s.agenda ∧
          (∀ i, i < 65536 → memGet t.mem (Config.physAt m.new + i) = memGet s.mem (Config.physAt m.old + i)) ∧
          (∀ i, i < 512 → (Config.physAt m.new / 128 + i ∈ t.poison ↔ Config.physAt m.old / 128 + i ∈ s.poison)) ∧
          (∀ e ∈ t.tlb, e.asn = m.asn → e.level = 3 → e.base = m.va → e.frame = m.new)) ∧
      (2 ≤ m.stage →
        let onWay : Prop := ∃ t ∈ s.agenda, ∃ p, t.ev = .accessAtHome p ∧ p.acc.asn = m.asn ∧
          p.addr.toNat % 2 ^ 52 / 65536 = m.va / 65536
        (onWay → copy = .next s.wait) ∧
        (¬ onWay → m.queue = [] →
          copy = .next { s with migrations := s.migrations.filter (fun k => !(k.asn == m.asn && k.va == m.va)) }) ∧
        (∀ q rest, ¬ onWay → m.queue = q :: rest →
          let t := (s.setMigration { m with queue := rest }).later (.migrationCopy m.asn m.va)
          (t.mustStayBehind q = true → copy = .next { t with behind := t.behind ++ [q] }) ∧
          (t.mustStayBehind q = false →
            copy = .next (if (t.translateStep q).waits = true then s.wait else t.translateStep q)))))

/-- R36, R308, R363, R364, R370, R373, R374, R382: UNCORRECTABLE_ERROR poisons the line and records KIND 0x07,
and an error that was corrected is recorded only; CORE_STATE_ERROR,
SHUT_FORCE and the rest of a station's own end; SHUT_TEST, SELF_TEST_DONE, APPEAL_AGEING; POWER_GATING.

The model's choice, and no rule of the spec: the clock of the self-test and of the ageing (log entry 92), what ADDR holds and
which lines have a poison bit (entry 85), and that the step's data says whether the check code has corrected the error (entry
125). -/
def Obligations.ErrorAndAppealEvents : Prop :=
  ∀ (s : State) (st : Nat) (line : LineAt) (pass : Bool),
    let x := s.station st
    let now := s.clock (dieOf st)
    let mine := x.appeals.getLastD 0
    (∃ t, exec (.uncorrectableError { line := line, fixed := false }) s = .next t ∧ t.mem = s.mem ∧ t.stations = s.stations ∧ t.agenda = s.agenda ∧
      (∀ l ∈ s.poison, l ∈ t.poison) ∧
      (∀ cl l, line = .spad cl l → (Config.spadAt cl + l) / 128 ∈ t.poison ∧
        t.bank (clusterBank cl) = (s.record (clusterBank cl) uncorrected 0x07 0 (BitVec.ofNat 64 ((0x40000000 + cl * 0x400000 + l) / 128 * 128)) 0 0).bank (clusterBank cl)) ∧
      (∀ d l, line = .commons d l → (Config.commonsAt d + l) / 128 ∈ t.poison) ∧
      (∀ l, line = .phys l → (Config.physAt l) / 128 ∈ t.poison ∧
        t.bank (sliceBank (homeSlice l)) = (s.record (sliceBank (homeSlice l)) uncorrected 0x07 0 (BitVec.ofNat 64 (l / 128 * 128)) 0 0).bank (sliceBank (homeSlice l)))) ∧
    (∀ cl l, line = .spad cl l → exec (.uncorrectableError { line := line, fixed := true }) s = .next (s.record (clusterBank cl) corrected 0x07 0
      (BitVec.ofNat 64 ((0x40000000 + cl * 0x400000 + l) / 128 * 128)) 0 0)) ∧
    (∀ l, line = .phys l → exec (.uncorrectableError { line := line, fixed := true }) s =
      .next (s.record (sliceBank (homeSlice l)) corrected 0x07 0 (BitVec.ofNat 64 (l / 128 * 128)) 0 0)) ∧
    (st < 8192 → x.shut = false → ∀ why i,
      (why = 2 ∧ i = Instr.coreStateError st ∨ why = 4 ∧ i = Instr.shutForce st) → ∃ t, exec i s = .next t ∧
        (t.station st).shut = true ∧ (t.station st).shutWhy = why ∧ (t.station st).sealed = true ∧
        (t.station st).shutPeriod = x.epoch % 65536 ∧ t.mem = s.mem ∧ (∀ n, n ≠ st → t.station n = s.station n) ∧
        (why = 2 → t.bank (stationBank st) = (s.record (stationBank st) uncorrected 0x08 0 0 0 0).bank (stationBank st)) ∧
        (∀ e, e ∈ neighboursOf st → (x.neighbour e.1).shut = false →
          ∃ h, h.shutNote = true ∧ h.valid = true ∧ { due := s.now + 1, ev := Instr.heartbeatReceived e.2 (opposite e.1) h } ∈ t.agenda)) ∧
    (x.shut = true → exec (.shutForce st) s = .next s) ∧
    (x.shut = false ∨ x.shutWhy = 5 → exec (.shutTest st) s = .next s) ∧
    (x.shut = true → x.shutWhy ≠ 5 →
      (2 ≤ x.appeals.length → exec (.shutTest st) s = .next (s.modStation st (fun y => { y with shutWhy := 5 }))) ∧
      (x.appeals.length < 2 → ∃ t, exec (.shutTest st) s = .next t ∧
        t.station st = { x with testing := true, appealing := false, appeals := x.appeals ++ [now] } ∧ t.mem = s.mem ∧
        (∀ n, n ≠ st → t.station n = s.station n) ∧
        (∀ e, e ∈ t.agenda ↔ (e ∈ s.agenda ∧ ∀ b, e.ev ≠ .selfTestDone st b) ∨
          e = { due := s.now + 2 ^ 22, ev := Instr.selfTestDone st true } ∨
          e = { due := s.now + 4320000000000, ev := Instr.appealAgeing st }))) ∧
    (x.testing = false → exec (.selfTestDone st pass) s = .next s) ∧
    (x.testing = true → now < mine + 2 ^ 22 → exec (.selfTestDone st pass) s = .next s.wait) ∧
    (x.testing = true → mine + 2 ^ 22 ≤ now → ∃ t, exec (.selfTestDone st pass) s = .next t ∧
      t.bank (clusterBank (clusterOf st)) =
        (s.record (clusterBank (clusterOf st)) deferred 0x0B (if pass then 1 else 2) (BitVec.ofNat 64 (rankOf st)) 0 0).bank
          (clusterBank (clusterOf st)) ∧
      (t.station st).testing = false ∧ (t.station st).shut = x.shut ∧
      (pass = true → (t.station st).appealing = true ∧ (t.station st).handlers = [] ∧ (t.station st).l1 = [] ∧
        (∀ c, t.holder { st := st, core := c } = Holder.reset)) ∧
      (pass = false → t.mem = s.mem ∧ t.station st = { x with testing := false })) ∧
    ((∃ a ∈ x.appeals, a + 4320000000000 < now) → exec (.appealAgeing st) s = .next (s.modStation st (fun y =>
      { y with appeals := y.appeals.filter (fun a => !decide (a + 4320000000000 < now)) }))) ∧
    ((∀ a ∈ x.appeals, now ≤ a + 4320000000000) → x.appeals ≠ [] → exec (.appealAgeing st) s = .next s.wait) ∧
    (x.appeals = [] → exec (.appealAgeing st) s = .next s) ∧
    (s.quiescent st = false → exec (.powerGating st) s = .next s.wait) ∧
    (s.quiescent st = true → x.l1 = [] → (∀ e ∈ s.owners, e.2 ≠ st) →
      exec (.powerGating st) s = .next (s.modStation st (fun y => { y with gated := true }))) ∧
    (s.quiescent st = true → x.l1 = [] → (∃ e ∈ s.owners, e.2 = st) → exec (.powerGating st) s = .next s.wait)

/-- R365 to R369 and R372, HEARTBEAT_SEND, HEARTBEAT_RECEIVED, VOTE_RECEIVED, PERIOD_END and SHUTTER_RESTART: a heartbeat goes to each live
neighbour; what is heard and voted is noted for the period, and a SHUTNOTE shutters its sender at once, so that its Exclusive
lines are lost; a period ends when its time is up; a shuttered rank's traffic is held in every rank table first.

The model's choice, and no rule of the spec: in which periods a neighbour is judged and which station is live in one (log
entry 86), the routes on which heads and flits are counted (entry 87), the directions (entry 88), what is lost with a station
(entries 89 and 179), the restart (entries 90 and 161), for which period a vote counts (entry 162), and the flits of messages
and broadcasts (entry 176). -/
def Obligations.RollCallEvents : Prop :=
  ∀ (s : State) (st dir voter named period : Nat) (sus : Bool) (h : Heartbeat),
    let x := s.station st
    (∃ t, exec (.heartbeatSend st) s = .next t ∧ t.stations = s.stations ∧ t.mem = s.mem ∧
      (∀ e, e ∈ neighboursOf st → ((x.neighbour e.1).shut = false ↔
        { due := s.now + 1, ev := Instr.heartbeatReceived e.2 (opposite e.1) (s.heartbeat st e.1 false) } ∈ t.agenda.drop s.agenda.length))) ∧
    (st < 8192 → dir < 4 → h.valid = true → h.shutNote = false → ∃ t, exec (.heartbeatReceived st dir h) s = .next t ∧
      ((t.station st).neighbour dir).heard.head? = some x.epoch ∧
      ((t.station st).neighbour dir).counts.head? = some (h.seq, h.count) ∧
      ((t.station st).neighbour dir).appeal = h.appeal ∧ ((t.station st).neighbour dir).shut = (x.neighbour dir).shut ∧
      ((t.station st).neighbour dir).flits = (x.neighbour dir).flits + 1 ∧
      (h.chk ≠ 15 → ((t.station st).neighbour dir).chkBad = some x.epoch) ∧
      (∀ k, k < 4 → k ≠ dir → (t.station st).neighbour k = x.neighbour k) ∧ (∀ n, n ≠ st → t.station n = s.station n)) ∧
    (st < 8192 → dir < 4 → h.valid = false → ∃ t, exec (.heartbeatReceived st dir h) s = .next t ∧
      ((t.station st).neighbour dir).malformed = some x.epoch ∧ ((t.station st).neighbour dir).heard = (x.neighbour dir).heard) ∧
    (∀ n, st < 8192 → dir < 4 → h.valid = true → h.shutNote = true → neighbourOf st dir = some n → s.seenShut n = false → n ≠ st →
      ∃ t, exec (.heartbeatReceived st dir h) s = .next t ∧ ((t.station st).neighbour dir).shut = true ∧ (t.station n).shut = true ∧
        (t.station n).sealed = true ∧ (t.station n).phasers = [] ∧ (t.station n).deque = [] ∧ (∀ e ∈ t.owners, e.2 ≠ n) ∧
        (Config.poolAt n + 8192 * (s.station n).app2 ≤ Config.physAt 0 → ∀ e ∈ s.owners, e.2 = n → Config.physAt (e.1 * 128) / 128 ∈ t.poison) ∧
        { due := s.now + 1, ev := Instr.shutterRestart n } ∈ t.agenda) ∧
    (let s1 := s.flitsAlong voter 1 (s.way (match neighbourOf st dir with | some n => [n] | none => []) voter st)
     (voter ≠ named ∨ (s.station voter).shut = true → exec (.voteReceived st dir voter named { period := period, sus := sus }) s = .next s1) ∧
     (voter = named → (s.station voter).shut = false → ∃ v, exec (.voteReceived st dir voter named { period := period, sus := sus }) s =
       .next (s1.modStation st (fun x => { x with votes := v })) ∧ (period, dir, voter, sus) ∈ v ∧
       (period, dir, voter, !sus) ∉ v ∧
       (∀ e, ¬ (e.1 = period ∧ e.2.1 = dir ∧ e.2.2.1 = voter) → (e ∈ v ↔ e ∈ (s1.station st).votes)))) ∧
    (s.now < (x.epoch + 1) * s.hbper → exec (.periodEnd st) s = .next s.wait) ∧
    (st < 8192 → (x.epoch + 1) * s.hbper ≤ s.now → s.liveIn st x.epoch = false → (∀ e ∈ neighboursOf st, s.appealWon e.2 = false) →
      ∃ t, exec (.periodEnd st) s = .next t ∧ (t.station st).epoch = x.epoch + 1 ∧
        (t.station st).votes = x.votes.filter (fun v => decide (x.epoch ≤ v.1)) ∧
        (t.station st).shut = true ∧ (∀ n, n ≠ st → t.station n = s.station n) ∧
        { due := (x.epoch + 1) * s.hbper, ev := Instr.heartbeatSend st } ∈ t.agenda ∧
        { due := (x.epoch + 2) * s.hbper, ev := Instr.periodEnd st } ∈ t.agenda) ∧
    ((x.epoch + 1) * s.hbper ≤ s.now → ∃ t, exec (.periodEnd st) s = .next t ∧
      { due := (x.epoch + 2) * s.hbper, ev := Instr.periodEnd st } ∈ t.agenda) ∧
    (x.shut = false → exec (.shutterRestart st) s = .next s) ∧
    (x.shut = true → (∃ n, n < 8192 ∧ rankTransit ((s.station n).rankEntry (rankOf st)) = false) →
      exec (.shutterRestart st) s = .next ((s.transitAll (rankOf st)).later (.shutterRestart st))) ∧
    (x.shut = true → (∀ n, n < 8192 → rankTransit ((s.station n).rankEntry (rankOf st)) = true) →
      let running (c : Core) : Prop :=
        (s.holder { st := st, core := c }).state ≠ .free ∧ (s.holder { st := st, core := c }).state ≠ .reserved
      ((∃ c ∈ taskCores, running c ∧ s.lostReady { st := st, core := c } = false) →
        exec (.shutterRestart st) s = .next s.wait) ∧
      ((∀ c ∈ taskCores, running c → s.lostReady { st := st, core := c } = true) →
        ∃ t, exec (.shutterRestart st) s = .next t ∧ ∀ r ∈ (t.station st).mail, r.ret = true))

/-- R152 to R154, R191, R194, R196, R369 and R371, MESSAGE_ARRIVAL and RETURN_SERVE: a message leaves its station once the
stores before it are performed; what a shuttered or sealed station receives goes back with reason 2, what has no handler
with 3, what is sealed off with 4; it waits while no record is free; else it enters the lowest free record of its kind, its
words in the station's pool, and is to be launched; a return enters a record of its own station, which is told; an orphan whose rank
has not been re-pointed since its return is dropped with a record of KIND 0x10.

The model's choice, and no rule of the spec: that the rank table is read at issue (log entry 50), that a layout change needs
free records (entry 54), that a return to a shuttered sender is dropped and from when on an orphan's rank counts as
re-pointed (entry 55), that a message acts under whichever rank it came (entry 63), and the drop of a replayed message whose
entry has retired (entry 160). -/
def Obligations.MessageEvents : Prop :=
  ∀ (s : State) (m : Msg),
    let x := s.station m.dst
    let handler := m.header.toNat / 2 ^ 40 % 256
    let urgent := m.header.getLsbD 35
    let kind : RecKind := if urgent then .urgent else if m.source = .self then .own else .general
    let back (why : Nat) : Out := .next ((s.cancelMember m).returnMsg m.dst m why)
    (∀ w op, m.left = false → m.source = .task w op →
      (s.storesDone (some (workOfTask w m.sender, op)) = false → exec (.messageArrival m) s = .next s.wait) ∧
      (s.storesDone (some (workOfTask w m.sender, op)) = true → ∃ t, exec (.messageArrival m) s = .next t ∧
        (t.station w.st).outq = (s.station w.st).outq.filter (· != op) ∧ t.mem = s.mem ∧
        t.agenda = s.agenda ++ [{ due := s.now + 1, ev := .messageArrival { m with left := true } }])) ∧
    (m.left = true → m.why = 0 →
      (m.dst = 8193 → ∃ t, exec (.messageArrival m) s = .next t ∧ t.stations = s.stations ∧ t.agenda = s.agenda ∧
        memRead t.mem (Config.physAt (m.reply.getD 0).toNat) 8 = leBytes m.header.toNat 8) ∧
      (m.dst = 8192 → exec (.messageArrival m) s = .next (s.returnMsg (m.header.toNat / 2 ^ 18 % 2 ^ 13) m 1)) ∧
      (m.dst < 8192 →
        (x.shut = true ∨ x.sealed = true → exec (.messageArrival m) s = back 2) ∧
        (x.shut = false → x.sealed = false → x.pend = true → exec (.messageArrival m) s = .next s.wait) ∧
        (x.shut = false → x.sealed = false → x.pend = false → (s.holdsSeq m.dst m.jseq = true ∨ s.ended m = true) →
          exec (.messageArrival m) s = .next s) ∧
        (x.shut = false → x.sealed = false → x.pend = false → s.holdsSeq m.dst m.jseq = false → s.ended m = false →
          (x.refuses handler m.gang.isSome = true → exec (.messageArrival m) s = back 3) ∧
          (x.refuses handler m.gang.isSome = false → handler ∈ x.seals → exec (.messageArrival m) s = back 4) ∧
          (x.refuses handler m.gang.isSome = false → handler ∉ x.seals → x.freeRecord kind = none →
            exec (.messageArrival m) s = .next s.wait) ∧
          (∀ i, x.refuses handler m.gang.isSome = false → handler ∉ x.seals → x.freeRecord kind = some i → m.jseq = 0 →
            m.gang = none → x.thresholds = [] →
            ∃ t r, exec (.messageArrival m) s = .next t ∧ (t.station m.dst).mail = x.mail ++ [r] ∧
              r.idx = i ∧ r.urg = urgent ∧ r.ret = false ∧ r.order = x.arrivals ∧ r.sender = m.sender ∧
              (t.station m.dst).arrivals = x.arrivals + 1 ∧
              t.agenda = s.agenda ++ [{ due := s.now + 1, ev := (if urgent then .urgentLaunch m.dst else .launch m.dst) }])))) ∧
    (m.left = true → m.why ≠ 0 →
      (8192 ≤ m.dst ∨ x.shut = true → exec (.messageArrival m) s = .next s) ∧
      (m.dst < 8192 → x.shut = false → (x.pend = true ∨ x.freeRecord .own = none) → exec (.messageArrival m) s = .next s.wait) ∧
      (∀ i, m.dst < 8192 → x.shut = false → x.pend = false → x.freeRecord .own = some i →
        ∃ t r, exec (.messageArrival m) s = .next t ∧ (t.station m.dst).mail = x.mail ++ [r] ∧ r.idx = i ∧ r.ret = true ∧
          r.sender = m.sender ∧ (t.station m.dst).returns = x.returns + 1 ∧
          { due := s.now + 1, ev := Instr.returnServe m.dst i } ∈ t.agenda)) ∧
    (∀ st n, (∀ r ∈ (s.station st).mail, ¬ (r.idx = n ∧ r.ret = true)) → exec (.returnServe st n) s = .next s) ∧
    (∀ st n r, (s.station st).mail.find? (fun r => r.idx == n && r.ret) = some r →
      (∃ c ∈ taskCores, (s.holder { st := st, core := c }).state ≠ .free ∧ (s.holder { st := st, core := c }).state ≠ .reserved ∧
        (s.holder { st := st, core := c }).taskid = r.sender) →
      exec (.returnServe st n) s =
        .next ((s.modStation st (fun x => { x with returns := x.returns - 1 })).freeRecord st n)) ∧
    (∀ st n r, (s.station st).mail.find? (fun r => r.idx == n && r.ret) = some r →
      (∀ c ∈ taskCores, (s.holder { st := st, core := c }).taskid ≠ r.sender) →
      (∀ t, find? s.repointed (hdrDest (s.recordMsg st r).header) = some t → t < (wordOf (s.recordWords st r.idx) 15).toNat) →
      exec (.returnServe st n) s = .next (((s.modStation st (fun x => { x with returns := x.returns - 1 })).freeRecord st n).record
        (clusterBank (clusterOf st)) deferred 0x10 0 (BitVec.ofNat 64 (hdrDest (s.recordMsg st r).header)) 0 0)) ∧
    (∀ st n, ∃ t, exec (.returnServe st n) s = .next t ∧ ((t.station st).mail.all (fun r => r.idx != n || !r.ret)) = true)

/-- R154, R157 to R160, R172, R173, R176, R300, R351, LAUNCH, URGENT_LAUNCH, URGENT_RUN, DEADLINE_EXPIRY, MASKWIN_EXPIRY,
THRESHOLD_FIRE and FPEND_DISCARD: the message chosen starts its handler in a free slot, or is refused or killed at launch;
the urgent bank runs once no window is open; a deadline kills and a window that lasts traps MASKWIN.

The model's choice, and no rule of the spec: which cycle is the 512th and that nothing issues at DEADL (log entry 10), the
records of an urgent self-launch (entry 53), the record of a missed deadline (entry 57), that the lowest free slot is taken
(entry 58), the zero fields of the module's own headers (entry 120), that a chosen message counts as a launch of its class
(entry 141), and the leaving of a reserved slot (entry 168). -/
def Obligations.LaunchAndExpiryEvents : Prop :=
  ∀ (s : State) (st : Nat) (who : Who) (task : Word) (opened n : Nat) (count time : Word),
    let x := s.station st
    let urgent : Who := { st := st, core := .urgent }
    let windows : Prop := ∃ k, k < 4 ∧ (s.holder { st := st, core := slotOf k }).window ≠ none
    (x.shut = true ∨ (∀ r ∈ x.mail, r.ret = true ∨ r.urg = true) → exec (.launch st) s = .next s) ∧
    (x.shut = false → (∃ r ∈ x.mail, r.ret = false ∧ r.urg = false) →
      (x.pend = true → exec (.launch st) s = .next s.wait) ∧
      (x.pend = false → s.chooseLaunch st = none → exec (.launch st) s = .next s.wait) ∧
      (∀ r rs, x.pend = false → s.chooseLaunch st = some (r, rs) →
        let m := s.recordMsg st r
        let s1 := s.modStation st (fun y => { y with rounds := rs })
        let refused := x.refuses (m.header.toNat / 2 ^ 40 % 256) r.gang.isSome
        (refused = true → m.jseq = 0 → exec (.launch st) s = .next (((s1.freeRecord st r.idx).cancelMember m).returnMsg st m 3)) ∧
        (refused = false → m.deadline.toNat ≤ s.now →
          exec (.launch st) s = .next (((s1.freeRecord st r.idx).cancelMember m).killAtLaunch st m)) ∧
        (refused = false → s.now < m.deadline.toNat → s.slotFor st r.gang = none → exec (.launch st) s = .next s.wait) ∧
        (∀ c, refused = false → s.now < m.deadline.toNat → s.slotFor st r.gang = some c →
          exec (.launch st) s = .next ((s1.startTask st c r .run).freeRecord st r.idx)))) ∧
    (∀ (t : State) (c : Core) (r : MailRec) (k : HolderState),
      let m := t.recordMsg st r
      let e := (t.station st).handler (m.header.toNat / 2 ^ 40 % 256)
      let u := t.startTask st c r k
      let h := u.holder { st := st, core := c }
      st < 8192 → (c = .slot0 ∨ c = .slot1 ∨ c = .slot2 ∨ c = .slot3 ∨ c = .urgent) →
      h.state = k ∧ h.pc = entryCode e ∧ h.deadl = m.deadline ∧ h.cls = m.header.toNat / 2 ^ 31 % 16 ∧
      h.tilec = m.tilec ∧ h.inh = false ∧ h.loops = [] ∧ h.unsettled = [] ∧ h.ports = [] ∧ h.window = none ∧
      h.ep = max m.ep (t.prio (m.header.toNat / 2 ^ 31 % 16)) ∧
      (u.station st).launches = (t.station st).launches + 1 ∧ (u.station st).gated = false ∧
      h.taskid.toNat = (st * 2 ^ 51 + slotNumber c * 2 ^ 48 + ((t.station st).launches + 1) % 2 ^ 48) % 2 ^ 64 ∧
      (m.deadline ≠ BitVec.allOnes 64 → { due := m.deadline.toNat, ev := Instr.deadlineExpiry { st := st, core := c } h.taskid } ∈ u.agenda)) ∧
    ((∀ r ∈ x.mail, r.ret = true ∨ r.urg = false) → exec (.urgentLaunch st) s = .next s) ∧
    (∀ r, x.mail = [r] → r.ret = false → r.urg = true →
      let m := s.recordMsg st r
      let refused := x.refuses (m.header.toNat / 2 ^ 40 % 256) r.gang.isSome
      (x.shut = true → exec (.urgentLaunch st) s = .next s) ∧
      (x.shut = false → (x.pend = true ∨ (s.holder urgent).state ≠ .free) → exec (.urgentLaunch st) s = .next s.wait) ∧
      (x.shut = false → x.pend = false → (s.holder urgent).state = .free →
        (refused = true → m.jseq = 0 → exec (.urgentLaunch st) s = .next ((s.freeRecord st r.idx).returnMsg st m 3)) ∧
        (refused = false → m.deadline.toNat ≤ s.now → exec (.urgentLaunch st) s = .next ((s.freeRecord st r.idx).killAtLaunch st m)) ∧
        (refused = false → s.now < m.deadline.toNat → exec (.urgentLaunch st) s =
          .next ((((s.leaveReserved st r.gang).startTask st .urgent r .pending).freeRecord st r.idx).later (.urgentRun st))))) ∧
    ((s.holder urgent).state ≠ .pending → exec (.urgentRun st) s = .next s) ∧
    ((s.holder urgent).state = .pending →
      (windows → exec (.urgentRun st) s = .next s.wait) ∧
      (¬ windows → (s.holder urgent).deadl.toNat ≤ s.now → exec (.urgentRun st) s = .next (s.deadlineKill urgent)) ∧
      (¬ windows → s.now < (s.holder urgent).deadl.toNat →
        exec (.urgentRun st) s = .next (s.modHolder urgent (fun k => { k with state := .run })))) ∧
    (let h := s.holder who
     let due : Prop := h.taskid = task ∧ h.state ≠ .free ∧ h.state ≠ .reserved ∧ h.deadl.toNat ≤ s.now
     (¬ due → exec (.deadlineExpiry who task) s = .next s) ∧
     (∀ b, due → h.state = .halted b → exec (.deadlineExpiry who task) s = .next s.wait) ∧
     (due → (∀ b, h.state ≠ .halted b) → exec (.deadlineExpiry who task) s =
       .next ((s.record (homeBank who.st) deferred 0x03 0x0B h.pc 0 h.taskid).kill who false)) ∧
     (h.window ≠ some opened → exec (.maskwinExpiry who opened) s = .next s) ∧
     (h.window = some opened → s.clock (dieOf who.st) < opened + 512 → exec (.maskwinExpiry who opened) s = .next s.wait) ∧
     (h.window = some opened → opened + 512 ≤ s.clock (dieOf who.st) → ∃ t, exec (.maskwinExpiry who opened) s = .next t ∧
       (t.holder who).window = none ∧ (t.holder who).asyncTrap = h.asyncTrap ++ [(trapOf 0x10 0, 0)] ∧ t.mem = s.mem ∧
       (t.holder who).pc = h.pc) ∧
     exec (.fpendDiscard who) s = .next (s.modHolder who (fun h => { h with failure := none }))) ∧
    (∀ urg cls handler, st < 8192 → cls < 16 → handler < 256 → ∃ m, exec (.thresholdFire st n count { time := time, urg := urg, cls := cls, handler := handler }) s =
      .next (s.later (.messageArrival m)) ∧ m.source = .self ∧ m.left = true ∧ m.dst = st ∧
      m.payload = [BitVec.ofNat 64 n, count, time] ∧ m.header.toNat / 2 ^ 51 = st ∧ m.header.toNat / 2 ^ 40 % 256 = handler ∧
      m.header.toNat / 2 ^ 36 % 16 = 3 ∧ m.header.getLsbD 35 = urg ∧ m.header.toNat / 2 ^ 31 % 16 = cls ∧
      m.ep = s.prio cls ∧ m.deadline = BitVec.allOnes 64)

/-- R171, R177 to R181, R201 to R205, R372, PHASER_OP_AT_HOME, EP_RAISE, STEAL_AT_VICTIM and STEAL_ATTEMPT: a release waits for the stores
before it; a rank that is shuttered or is not the one named returns the command; operations of one cycle take their turn by rank and slot; a
query gives the snapshot; the one signaller's signal advances the phase; a steal takes the upper half of the oldest entry.

The model's choice, and no rule of the spec: which operations a waiting one holds back (log entry 60), that an ended task's
join joins nothing (entry 61), that an operation under another rank is answered UNDELIVERABLE (entry 63), that an automatic
steal goes on where the last one stopped (entry 119), and that the cycle of the order is the home's station cycle (entry
149). -/
def Obligations.SyncEvents : Prop :=
  ∀ (s : State) (o : PhaserOp) (y : Steal) (st : Nat),
    let release : Prop := o.cmd = .leave ∨ o.cmd = .sig ∨ o.cmd = .sigw
    let mine := workOfTask o.who o.task
    let done := s.storesDone (some (mine, o.op))
    let at_ : Prop := o.home < 8192 ∧ (s.station o.home).shut = false ∧ o.rank = o.home
    let key := 8 * o.who.st + (coreIx mine.core).val
    let late : Prop := (s.station o.home).phLast.1 = s.clock (dieOf o.home) ∧ key < (s.station o.home).phLast.2
    let there : Prop := at_ ∧ ¬ late
    let ready : Prop := o.sent = true
    let p := (s.station o.home).phaser o.idx
    (o.sent = false → release → done = false → exec (.phaserOpAtHome o) s = .next s.wait) ∧
    (o.sent = false → (release → done = true) →
      exec (.phaserOpAtHome o) s = .next (s.later (.phaserOpAtHome { o with sent := true }))) ∧
    (ready → ¬ at_ → exec (.phaserOpAtHome o) s = .next (s.phaserReturned o)) ∧
    (∀ mode, ready → at_ → o.cmd = .join mode → s.phaserLive o = false → exec (.phaserOpAtHome o) s = .next s) ∧
    (ready → at_ → late → (∀ mode, o.cmd = .join mode → s.phaserLive o = true) →
      exec (.phaserOpAtHome o) s = .next s.wait) ∧
    (ready → there → o.cmd = .qry → p.waiting = [] → p.advance = p → ∃ t, exec (.phaserOpAtHome o) s = .next t ∧
      ((t.station o.home).phaser o.idx).members = p.members ∧ ((t.station o.home).phaser o.idx).phase = p.phase ∧
      ((t.station o.home).phaser o.idx).waiting = [] ∧ t.mem = s.mem) ∧
    (∀ mode, ready → there → o.cmd = .join mode → s.phaserLive o = true → p.waiting = [] → p.members = [] →
      ∃ t, exec (.phaserOpAtHome o) s = .next t ∧
        ((t.station o.home).phaser o.idx).members = [{ who := mine, task := o.task, mode := mode, cnt := p.phase }] ∧
        ((t.station o.home).phaser o.idx).phase = p.phase ∧
        { rank := o.rank, idx := o.idx, mode := mode } ∈ (t.holder mine).phasers) ∧
    (∀ m, ready → there → o.cmd = .sig → p.waiting = [] → p.members = [m] → m.task = o.task → m.mode ≠ 1 → m.cnt = p.phase →
      ∃ t, exec (.phaserOpAtHome o) s = .next t ∧ ((t.station o.home).phaser o.idx).phase = p.phase + 1 ∧
        ((t.station o.home).phaser o.idx).waiting = []) ∧
    (∀ w, (s.holder w).state = .free ∨ s.formEp w = (s.holder w).ep → exec (.epRaise (.holder w)) s = .next s) ∧
    (∀ w, (s.holder w).state ≠ .free → s.formEp w ≠ (s.holder w).ep → ∃ t, exec (.epRaise (.holder w)) s = .next t ∧
      (t.holder w).ep = s.formEp w ∧ t.mem = s.mem) ∧
    (∀ id cpri, s.stations = [] → ∃ t, exec (.epRaise (.counter id cpri)) s = .next t ∧ t.mem = s.mem ∧ t.agenda = s.agenda ∧
      (∀ d r, r ∈ (s.die d).ready → r.cctr = some id → ∃ q ∈ (t.die d).ready, q.order = r.order ∧
        q.ep = max (s.prio (r.header.toNat / 2 ^ 31 % 16)) cpri)) ∧
    (let v := s.station y.victim
     let gone : Prop := 8192 ≤ y.victim ∨ v.shut = true ∨ y.rank ≠ y.victim
     (gone → y.who = none → exec (.stealAtVictim y) s = .next s) ∧
     (∀ w op, gone → y.who = some (w, op) → exec (.stealAtVictim y) s =
       .next (s.partBack w op 0 [] (some (trapOf 0x0F (BitVec.ofNat 64 y.rank))))) ∧
     let late : Prop := v.dqLast.1 = s.clock (dieOf y.victim) ∧ (if y.victim = y.thief then 0 else y.thief + 1) < v.dqLast.2
     (¬ gone → late → exec (.stealAtVictim y) s = .next s.wait) ∧
     (∀ w op, ¬ gone → ¬ late → y.who = some (w, op) → v.deque = [] → ∃ t : State, exec (.stealAtVictim y) s = .next (t.partBack w op 0
         (leBytes 0 8 ++ leBytes 0 8) none) ∧ (t.station y.victim).deque = [] ∧ t.mem = s.mem) ∧
     (∀ w op j n l, ¬ gone → ¬ late → y.who = some (w, op) → v.deque = l ++ [(j, n)] → 2 ≤ n → j.toNat % 2 ^ 24 + n ≤ 2 ^ 24 →
       ∃ (t : State) (k : Nat), exec (.stealAtVictim y) s = .next (t.partBack w op 0 (leBytes k 8 ++ leBytes (n - n / 2) 8) none) ∧
         k = j.toNat + n / 2 ∧ (t.station y.victim).deque = l ++ [(j, n / 2)] ∧ t.mem = s.mem)) ∧
    (entryCode ((s.station st).handler 254) = 0 → exec (.stealAttempt st) s = .next s) ∧
    (entryCode ((s.station st).handler 254) ≠ 0 →
      (s.idle st = false ∨ s.clock (dieOf st) < (s.station st).stealAt + 1024 → exec (.stealAttempt st) s = .next s.wait) ∧
      (s.idle st = true → (s.station st).stealAt + 1024 ≤ s.clock (dieOf st) → ∃ t, exec (.stealAttempt st) s = .next t ∧
        (t.station st).stealNext = ((s.station st).stealNext + 1) % 15 ∧ (t.station st).stealAt = s.clock (dieOf st) ∧
        { due := s.now + 1024, ev := Instr.stealAttempt st } ∈ t.agenda))

/-- R130, R131, R164 to R171, R185, R206 and R207, COUNTER_DECREMENT, GARM_AT_HOME, DISPATCHER_LAUNCH, GANG_PLACE and PIPE_PREEMPT: a
decrement waits for its stores, faults on a count of zero, else takes one from COUNT and, when it reaches zero, evaluates the
node; arming writes the record; the dispatcher takes the launch of the highest priority.

The model's choice, and no rule of the spec: the record of a missed deadline (log entry 57), when a store to a counter raises
(entry 66), the EP that decides a pre-emption (entry 67), the dispatcher's sequence numbers (entry 69), the order of a node's
faults (entries 65 and 167), what is kept for a waiting gang (entry 157), and the place of an urgent member (entry 168). -/
def Obligations.GraphEvents : Prop :=
  ∀ (s : State) (id src die : Nat) (failed : Bool) (i : Issuer) (after : Option Issuer) (count reload node failNode : Nat),
    (∀ k, after = some k → k.sent = true) →
    let a := Config.commonsAt (id / 16384 % 8) + Config.counterBase + 16 * (id % 16384)
    let lo := s.wordAt a
    let n := lo.toNat % 2 ^ 32
    let d := id / 16384 % 8
    (i.sent = false → s.storesDone (some (i.who, i.op)) = false →
      exec (.counterDecrement id failed src (some i)) s = .next s.wait ∧
      exec (.garmAtHome id count reload node failNode src (some i)) s = .next s.wait) ∧
    (i.sent = false → s.storesDone (some (i.who, i.op)) = true →
      exec (.counterDecrement id failed src (some i)) s =
        .next (s.later (.counterDecrement id failed src (some { i with sent := true }))) ∧
      exec (.garmAtHome id count reload node failNode src (some i)) s =
        .next (s.later (.garmAtHome id count reload node failNode src (some { i with sent := true })))) ∧
    (n = 0 → failed = false → ∃ t, exec (.counterDecrement id failed src after) s = .next t ∧ (∀ x, memGet t.mem x = memGet s.mem x) ∧
      t.bank (clusterBank (64 * d)) = (s.record (clusterBank (64 * d)) deferred 0x06 9
        (BitVec.ofNat 64 (0x20000000 + d * 0x4000000 + Config.counterBase + 16 * (id % 16384))) 0 0).bank (clusterBank (64 * d))) ∧
    (1 < n → ∃ t, exec (.counterDecrement id failed src after) s = .next t ∧ (t.wordAt a).toNat = lo.toNat - 1 ∧
      t.wordAt (a + 8) = (if failed then s.wordAt (a + 8) ||| BitVec.ofNat 64 (2 ^ 63) else s.wordAt (a + 8)) ∧
      t.agenda = s.agenda ∧ t.stations = s.stations ∧ (∀ x, (x < a ∨ a + 16 ≤ x) → memGet t.mem x = memGet s.mem x)) ∧
    (n = 1 → lo.toNat / 2 ^ 32 = 0 → failed = false → (s.wordAt (a + 8)).getLsbD 63 = false → (s.wordAt (a + 8)).toNat % 2 ^ 14 = 0 →
      ∃ t, exec (.counterDecrement id failed src after) s = .next t ∧ (t.wordAt a).toNat % 2 ^ 32 = 0 ∧ t.agenda = s.agenda) ∧
    (∃ t, exec (.garmAtHome id count reload node failNode src after) s = .next t ∧ t.stations = s.stations ∧
      (t.wordAt a).toNat = reload % 2 ^ 32 * 2 ^ 32 + count % 2 ^ 32 ∧
      (s.mem = [] → count % 2 ^ 32 = 0 → reload % 2 ^ 32 = 0 → node % 2 ^ 14 = 0 → failNode % 2 ^ 14 = 0 → t.mem = [])) ∧
    ((s.die die).ready = [] → exec (.dispatcherLaunch die) s = .next s) ∧
    (∀ r, (s.die die).ready = [r] → r.gang = none → ∃ t rs, exec (.dispatcherLaunch die) s = .next (t.sendLaunch die r r.header
      r.payload r.tilec none) ∧ t = s.modDie die (fun d => { d with ready := [], rounds := rs })) ∧
    (∀ r g size, (s.die die).ready = [r] → r.gang = some (g, size) → ∃ t rs, exec (.dispatcherLaunch die) s = .next (t.gangWaits die r) ∧
      t = s.modDie die (fun d => { d with ready := [], rounds := rs })) ∧
    ((s.die die).gangs = [] → exec (.gangPlace die) s = .next s ∧ exec (.pipePreempt die) s = .next s) ∧
    ((s.die die).gangs ≠ [] → (s.die die).oldestGang = none →
      exec (.gangPlace die) s = .next s.wait ∧ exec (.pipePreempt die) s = .next s.wait) ∧
    (∀ r, (s.die die).oldestGang = some r → s.now < r.deadline.toNat →
      (s.placeGang die r = none → exec (.gangPlace die) s = .next s.wait) ∧
      (∀ t, s.placeGang die r = some t → exec (.gangPlace die) s = .next t)) ∧
    (∀ r, (s.die die).oldestGang = some r → r.deadline.toNat ≤ s.now → r.cctr = none → ∃ t, exec (.gangPlace die) s = .next t ∧
      (∀ k ∈ (t.die die).gangs, k.index ≠ r.index) ∧ t.mem = s.mem ∧
      t.bank (clusterBank (64 * die)) = (s.record (clusterBank (64 * die)) deferred 0x03 0x0B 0 0 0).bank (clusterBank (64 * die))) ∧
    (∀ r, (s.die die).oldestGang = some r → s.victimGang die r.ep = none → exec (.pipePreempt die) s = .next s.wait) ∧
    (∀ r q, (s.die die).oldestGang = some r → s.victimGang die r.ep = some q → s.placeGang die r = none →
      (∀ m ∈ q.members, ∀ w, memberHolder m = some w → (s.holder w).state = .reserved) →
      ∃ t, exec (.pipePreempt die) s = .next t ∧ (∀ k ∈ (t.die die).running, k.index ≠ q.index) ∧
        (∃ k ∈ (t.die die).gangs, k.index = q.ready.index))

/-- R182 to R185, R238, R240, R273 and R275, RING_PUSH, RING_POP, RINGEOS_AT_HOME, RING_REGISTRATION and STREAM_FETCH: a push into a ring with
room writes the entry at TAIL, advances it and takes one from what the port has outstanding; one into a full ring waits at the
home; a pop advances HEAD; a RINGEOS and a registration leave after their slot's earlier stores and COPY commands; a RINGEOS marks its
producer and closes the ring with the last; a registration is refused or binds
the port; a stream's element is fetched while the port holds fewer than four.

The model's choice, and no rule of the spec: what keeps later commands of the slot waiting (log entry 45), that a port has
one push outstanding and when RINGEOS and a registration leave (entry 47), the checks of a descriptor (entry 48), poisoned
entries and restored rings (entry 49), and that a stream's fetch waits for a bank's format (entry 138). -/
def Obligations.RingAndStreamEvents : Prop :=
  ∀ (s : State) (r : RingOp) (who : Who) (port : Nat),
    let ring := (s.die r.die).ring r.desc
    let at_ (k : Nat) : Nat := Config.commonsAt r.die + r.desc + 8 * k
    let esize := (s.wordAt (at_ 1)).toNat / 2 ^ 48
    let nent := (s.wordAt (at_ 1)).toNat % 2 ^ 32
    let head := (s.wordAt (at_ 2)).toNat
    let tail := (s.wordAt (at_ 3)).toNat
    let marks := (s.wordAt (at_ 4)).toNat
    (ring.requests = [] → ring.pushes = [] → r.data ≠ [] →
      (head + nent ≤ tail → ∃ t, exec (.ringPush r) s = .next t ∧ t.mem = s.mem ∧ ((t.die r.die).ring r.desc).pushes = [r]) ∧
      (tail < head + nent → tail + 1 < 2 ^ 64 → ∃ t, exec (.ringPush r) s = .next t ∧ ((t.die r.die).ring r.desc).pushes = [] ∧
        (t.wordAt (at_ 3)).toNat = tail + 1 ∧ t.agenda = s.agenda ∧
        (∀ a, commonsRef r.die ((s.wordAt (at_ 0)).toNat + tail % nent * esize) = some a → r.data.length = esize →
          (a + esize ≤ at_ 0 ∨ at_ 8 ≤ a) → memRead t.mem a esize = r.data))) ∧
    (let w := workOfTask r.who r.task
     let goes : Prop := s.storesDone (some (w, r.op)) = true ∧ s.copyTurn w r.op = true
     r.sent = false →
       (¬ goes → exec (.ringeosAtHome r) s = .next s.wait ∧ exec (.ringRegistration r) s = .next s.wait) ∧
       (goes → exec (.ringeosAtHome r) s = .next (s.later (.ringeosAtHome { r with sent := true })) ∧
         exec (.ringRegistration r) s = .next (s.later (.ringRegistration { r with sent := true })))) ∧
    (r.sent = true → ring.requests = [] → ring.pushes = [] → r.idx < 16 →
      let eos := marks / 2 ^ 32 % 2 ^ 16 ||| 2 ^ r.idx
      ∃ t, exec (.ringeosAtHome r) s = .next t ∧ ((t.die r.die).ring r.desc).pushes = [] ∧ t.agenda = s.agenda ∧
        (t.wordAt (at_ 4)).toNat / 2 ^ 32 % 2 ^ 16 = eos ∧ (t.wordAt (at_ 4)).toNat % 2 ^ 32 = marks % 2 ^ 32 ∧
        (t.wordAt (at_ 4)).toNat / 2 ^ 48 = marks / 2 ^ 48 ∧
        (t.wordAt (at_ 7)) = (if eos = marks / 2 ^ 48 then s.wordAt (at_ 7) ||| 1 else s.wordAt (at_ 7))) ∧
    (ring.requests = [] → ring.pushes = [] → r.data = [2] → head + 1 < 2 ^ 64 → (head + 1) % nent ≠ 0 →
      ∃ t, exec (.ringPop r) s = .next t ∧ (t.wordAt (at_ 2)).toNat = head + 1 ∧
        (∀ x, (x < at_ 2 ∨ at_ 3 ≤ x) → memGet t.mem x = memGet s.mem x) ∧ ((t.die r.die).ring r.desc).handed = ring.handed - 1) ∧
    (ring.requests = [] → ring.pushes = [] → ring.returned = [] → r.data = [0] → tail ≤ head + ring.handed →
      ((s.wordAt (at_ 7)).getLsbD 0 = false ∨ ring.handed ≠ 0) →
      ∃ t, exec (.ringPop r) s = .next t ∧ ((t.die r.die).ring r.desc).requests = [r] ∧ t.mem = s.mem ∧ t.stations = s.stations) ∧
    (let registers := exec (.ringRegistration r) s
     let refuse (sub : Nat) : Out := .next (s.partBack r.who r.op 0 [] (some (trapOf 0x08 (BitVec.ofNat 64 (0x200 + sub)))))
     let bytes := if r.port < 4 then 8 else 256
     (r.sent = true → esize ≠ bytes → registers = refuse 0x53) ∧
     (r.sent = true → esize = bytes → s.ringLegal r.die r.desc = false → registers = refuse 0x54) ∧
     (r.sent = true → esize = bytes → s.ringLegal r.die r.desc = true → r.data = [1] → r.idx < 16 →
       (∃ u ∈ (s.holder r.who).unsettled, u.op = r.op) → ∃ t, registers = .next t ∧
         (t.wordAt (at_ 4)).toNat = marks ||| 2 ^ (r.idx + 48) ∧
         (∃ b ∈ (t.holder r.who).ports, b.port = r.port ∧ b.out = true ∧ b.target = .ring r.die r.desc r.idx))) ∧
    ((s.holder who).ports.find? (fun b => b.port == port) = none → exec (.streamFetch who port) s = .next s) ∧
    (∀ b base len rows stride op ceil tries, (s.holder who).ports.find? (fun b => b.port == port) = some b →
      b.target = .stream base len rows stride op ceil tries →
      let holds := b.held.length + (s.holder who).popped port
      (b.out = true ∨ streamTotal port len rows ≤ b.next ∨ 4 ≤ holds → exec (.streamFetch who port) s =
        .next (s.setHolder who ((s.holder who).setBinding { b with pending := 0 }))) ∧
      (b.out = false → b.next < streamTotal port len rows → holds < 4 → b.retry = none →
        let ls := streamPieces base len stride (portBytes port) b.next
        let work := s.worksFor who
        let waits : Prop := s.storesDone (some (work, op)) = false ∨ s.copiesBefore work op = true ∨ s.streamBehind who ls = true
        (waits → exec (.streamFetch who port) s = .next s.wait) ∧
        (∀ ps t, ¬ waits →
          s.streamRefs { s.accessOf who op (s.holder who).pc 2 with ceil := ceil, tries := tries } false ls = some (ps, t) → (∀ p ∈ ps, p.parks = false) →
          let e : PortElem := { idx := b.next, val := leVec ((t.engBytes ps).map (fun e => e.b)), trap := ps.findSome? (t.pieceTrap who) }
          let last : Prop := streamTotal port len rows ≤ b.next + 1
          ∃ k, k.port = b.port ∧ k.next = b.next + 1 ∧ k.held = b.held ++ [e] ∧ (k.ended = true ↔ last) ∧
            (last ∨ 4 ≤ holds + 1 → exec (.streamFetch who port) s = .next (t.modHolder who (fun h => h.setBinding k))) ∧
            (¬ (last ∨ 4 ≤ holds + 1) → exec (.streamFetch who port) s =
              .next ((t.modHolder who (fun h => h.setBinding k)).later (.streamFetch who port))))))

/-- R212, R213, R221, R231 to R234 and R242, COPY_PERFORM, COPY_COMPLETE and PUBLISH_EXCHANGE: a copy waits for the stores
before it and for its slot's earlier copies; its units follow each other; when all are done it completes, and CP.DONE of its
set rises by one and its counter is decremented; a PUBLISH exchanges the halves of its window once the stores and the
commands before it are complete.

R146, R166, R375, R433 and R434, RELAY_STEP_RECEIVED, RELAY_STEP_ACKNOWLEDGED, RELAY_STEP_FAIL, RELAY_ACK_TIMEOUT and
LINK_FLIT_RESEND: a repeated frame is dropped; a gathered one is kept; a step that fails is sent again with a corrected record
while retries are left, and else the collective ends with its counter marked failed.

The model's choice, and no rule of the spec: that a PUBLISH waits for every earlier engine command of its slot and for no
running collective (log entry 46), which handler a range bound again launches (entry 170), the schedule of a collective
(entry 99), and the length in elements of strided rows (entry 108). -/
def Obligations.CopyAndRelayEvents : Prop :=
  (∀ (s : State) (st id : Nat),
      let x := s.station st
      let found := x.copies.find? (fun c => c.id == id)
      let perform := exec (.copyPerform st id) s
      let released (w : Who) : Prop := s.storesDone (some (w, id)) = true ∧ s.copyTurn w id = true
      (found = none → perform = .next s ∧ exec (.copyComplete st id) s = .next s) ∧
      (∀ c, found = some c →
        (c.landed = true → perform = .next s) ∧
        (c.landed = false → c.retry = none →
          (¬ released (workOfTask c.who c.acc.task) ∨
            s.engBehind id (fun cl b => s.copyInBank cl b c) = true → perform = .next s.wait) ∧
          (released (workOfTask c.who c.acc.task) →
            s.engBehind id (fun cl b => s.copyInBank cl b c) = false →
            (c.regs.rows ≤ c.row → perform = .next ((s.setCopy { c with landed := true }).later (.copyComplete st id))) ∧
            (c.row < c.regs.rows → c.kind ≠ .gather ∨ c.idxs ≠ [] →
              (∀ t, s.copyRows c = some t → perform = .next t) ∧ (s.copyRows c = none → perform = .next s.wait)) ∧
            (c.row < c.regs.rows → c.kind = .gather → c.idxs = [] →
              (∀ t, s.readList c = some t → perform = .next t) ∧ (s.readList c = none → perform = .next s.wait)))) ∧
        (s.regionOf c.who c.dst.toNat = some .tcm → c.who.st = st → c.who.core ≠ .keeper → c.kind = .plain → x.notifies = [] → (h : c.set < 8) →
          ∃ t, exec (.copyComplete st id) s = .next t ∧
            ((t.station st).sets[c.set]).done = (x.sets[c.set]).done + 1 ∧
            (t.station st).copies = x.copies.filter (fun k => k.id != id) ∧ t.mem = s.mem ∧
            (c.regs.cmp.getLsbD 17 = true → t.agenda = s.agenda ++ [{ due := s.now + 1, ev := .counterDecrement (c.regs.cmp.toNat % 2 ^ 17) false st none }]) ∧
            (c.regs.cmp.getLsbD 17 = false → t.agenda = s.agenda))) ∧
      (x.publishes.find? (fun c => c.id == id) = none → exec (.publishExchange st id) s = .next s) ∧
      (∀ c, x.publishes.find? (fun c => c.id == id) = some c →
        let w := workOfTask c.who c.task
        (s.storesDone (some (w, id)) = false ∨ s.enginesBefore w id = false →
          exec (.publishExchange st id) s = .next s.wait) ∧
        (s.storesDone (some (w, id)) = true → s.enginesBefore w id = true →
          let found := x.windows.find? (fun v => v.base == c.base && v.task == c.task && decide (v.born < id) &&
            (v.live || decide (id < v.died)))
          ∃ t, exec (.publishExchange st id) s = .next t ∧ t.station st = { x with publishes := x.publishes.filter (fun k => k.id != id) } ∧
            (found = none → t.mem = s.mem) ∧
            (∀ win, found = some win →
              let a := Config.poolAt st + win.base
              (∀ i, i < win.len → memGet t.mem (a + i) = memGet s.mem (a + win.len + i) ∧
                memGet t.mem (a + win.len + i) = memGet s.mem (a + i)) ∧
              (∀ k, (k < a ∨ a + 2 * win.len ≤ k) → memGet t.mem k = memGet s.mem k) ∧
              (∀ g, win.len % 16 = 0 → a % 16 = 0 → a / 16 ≤ g → g < (a + win.len) / 16 → (g ∈ t.empties ↔ g + win.len / 16 ∈ s.empties)))))) ∧
  (∀ (s : State) (f : RelayFrame) (die desc step link : Nat),
      (s.collective f.die f.desc = none → exec (.relayStepReceived f) s = .next s.wait) ∧
      (∀ c, s.collective f.die f.desc = some c →
        ((∃ g ∈ c.got, g.member = f.member) → exec (.relayStepReceived f) s = .next s) ∧
        ((∀ g ∈ c.got, g.member ≠ f.member) → c.op = 1 → c.acked = false →
          exec (.relayStepReceived f) s = .next (s.setCollective f.die { c with got := c.got ++ [f] }))) ∧
      (s.collective die desc = none → exec (.relayStepAcknowledged die desc step) s = .next s ∧
        exec (.relayStepFail die desc step) s = .next s ∧ exec (.relayAckTimeout die desc step) s = .next s) ∧
      (∀ c, s.collective die desc = some c →
        (c.op = 1 → c.got.length + 1 < c.members → exec (.relayStepAcknowledged die desc step) s =
          .next (s.setCollective die { c with acked := true })) ∧
        (c.op = 0 → c.desc = desc → ∃ t, exec (.relayStepAcknowledged die desc step) s = .next t ∧ t.collective die desc = none ∧ t.mem = s.mem ∧
          { due := s.now + 1, ev := Instr.counterDecrement c.counter false (1024 * die) none } ∈ t.agenda) ∧
        (c.acked = true → exec (.relayStepFail die desc step) s = .next s ∧ exec (.relayAckTimeout die desc step) s = .next s) ∧
        (c.acked = false → s.now < c.sentAt + 65536 → exec (.relayAckTimeout die desc step) s = .next s) ∧
        (c.acked = false → ∀ i, (i = Instr.relayStepFail die desc step ∨ (i = Instr.relayAckTimeout die desc step ∧ c.sentAt + 65536 ≤ s.now)) →
          (c.tries < c.retries → c.desc = desc → ∃ t, exec i s = .next t ∧
            t.collective die desc = some { c with tries := c.tries + 1, sentAt := s.now } ∧
            { due := s.now + 65536, ev := Instr.relayAckTimeout die desc 0 } ∈ t.agenda ∧ t.mem = s.mem) ∧
          (c.retries ≤ c.tries → c.desc = desc → ∃ t, exec i s = .next t ∧ t.collective die desc = none ∧
            t.bank (linkBank c.link) = (s.record (linkBank c.link) deferred 0x0E 0 0 0 0).bank (linkBank c.link) ∧
            { due := s.now + 1, ev := Instr.counterDecrement c.counter true (1024 * die) none } ∈ t.agenda ∧ t.mem = s.mem))) ∧
      exec (.linkFlitResend link) s = .next (s.record (30000 + link) 1 0x0D 0 0 0 0))

/-- R144, R145, R213, R217 to R220, R236, R245, R250 to R255, R402, R411 and R413, MTX_COMMAND_PERFORM, SIG_COMMAND_PERFORM and CROSSING_DELIVERY: a
context's commands are performed in order once the stores before them are, and context 0 makes way for context 1; MZERO clears
its tile; a K-group is added into every element; the signature unit's oldest command is performed whole; a delivery that comes before the posted event waits.

The model's choice, and no rule of the spec: that a NaN group decides over the summaries (log entry 70), that a signature
command is performed in one step (entry 74), what a late delivery leaves (entry 79), and that a closed batch waits for its
accepted commands (entry 163). -/
def Obligations.MatrixSignatureAndDeliveryEvents : Prop :=
  ∀ (s : State) (st ctx : Nat) (d : Delivery),
    let x := s.station st
    let c1 := decide (ctx ≠ 0)
    let perform := exec (.mtxCommandPerform st ctx) s
    (x.mtx c1 = [] → perform = .next s) ∧
    (∀ c rest, x.mtx c1 = c :: rest → c.retry = none →
      let w := workOfTask c.who c.acc.task
      (s.mtxGoes c = true ↔ c.ready = true ∧ s.storesDone (some (w, c.id)) = true ∧
        s.engBehind c.id (fun cl b => s.mtxInBank cl b c) = false ∧
        ((∃ dst stride t, c.kind = .drain dst stride t) → s.publishBefore w c.id = false)) ∧
      (s.yields st c1 = true ↔ c1 = false ∧ ∃ k l, x.mtx1 = k :: l ∧ s.mtxGoes k = true) ∧
      (s.mtxGoes c = false ∨ s.yields st c1 = true → perform = .next s.wait) ∧
      (s.mtxGoes c = true → s.yields st c1 = false → x.restoring = false →
        (∀ t, c.kind = .zero t → ∃ u, perform = .next u ∧ (u.station st).mtx c1 = rest ∧ u.mem = s.mem ∧
          (∀ i, i < 8192 → (u.station st).accAt t i = 0)) ∧
        (∀ a b t, c.kind = .mul a b t → c.regs.kg ≤ c.step → perform = .next (s.mtxDone st c1)) ∧
        (∀ a b t ba fa bb fb, c.kind = .mul a b t → c.step < c.regs.kg → s.ownBank c.who a.toNat = some (ba, fa) →
          s.ownBank c.who b.toNat = some (bb, fb) →
          let ga (r : Nat) : PlaneGroup := (s.engGroup (clusterOf st) ba fa (groupIx fa r c.step)).1
          let gb (k : Nat) : PlaneGroup := (s.engGroup (clusterOf st) bb fb (groupIx fb k c.step)).1
          ∃ u, perform = .next u ∧
            (u.station st).mtx c1 = { c with step := c.step + 1 } :: rest ∧
            (∀ r k, r < 64 → k < 128 → (u.station st).accAt t (128 * r + k) =
              macStep (x.accAt t (128 * r + k)) (groupSum fa.fmt fb.fmt (ga r) (gb k)))) ∧
        (∀ dst stride t, c.kind = .drain dst stride t →
          (64 ≤ c.step → perform = .next (s.mtxDone st c1)) ∧
          (c.step < 64 →
            (∀ u, s.drainRow st c1 c dst stride t = some u → perform = .next u) ∧
            (s.drainRow st c1 c dst stride t = none → perform = .next s.wait))) ∧
        (∀ n, c.kind = .park n → (s.holder c.who).acquire = some c.id → ∃ u, perform = .next u ∧
          (u.station st).batch0 = none ∧ (u.station st).parkedBy = some n ∧ (u.station st).parking = none ∧
          (u.holder c.who).acquire = none) ∧
        (∀ n, c.kind = .unpark n → perform = .next (((s.unparkNow st).mtxRelease c.who c.id).mtxDone st c1)))) ∧
    (x.sigs = [] → exec (.sigCommandPerform st) s = .next s) ∧
    (∀ c rest, x.sigs = c :: rest → c.retry = none →
      let behind := s.engBehind c.id (fun cl b => s.sigInBank cl b c)
      let w := workOfTask c.who c.acc.task
      (s.storesDone (some (w, c.id)) = false ∨ s.publishBefore w c.id = true ∨ behind = true →
        exec (.sigCommandPerform st) s = .next s.wait) ∧
      (s.storesDone (some (w, c.id)) = true → s.publishBefore w c.id = false → behind = false →
        (∀ r, ({ cmd := c, s := s, faults := [] } : SigRun).run = some r → r.faults = [] →
          let t := r.s.modStation st (fun y => { y with sigs := rest })
          (rest = [] → exec (.sigCommandPerform st) s = .next t) ∧
          (rest ≠ [] → exec (.sigCommandPerform st) s = .next (t.later (.sigCommandPerform st)))) ∧
        (({ cmd := c, s := s, faults := [] } : SigRun).run = none → exec (.sigCommandPerform st) s = .next s.wait))) ∧
    (let y := s.station d.dst
     let posted : Option Nat := match y.xing.var? d.var with | some r => r.posted | none => none
     let waits : Prop := ∃ t, posted = some t ∧ t ≤ d.t
     (8192 ≤ d.dst ∨ y.shut = true → exec (.crossingDelivery d) s = .next (s.returnDelivery d)) ∧
     (d.dst < 8192 → y.shut = false →
       (waits → 1024 ≤ y.xing.pool.length → exec (.crossingDelivery d) s = .next s.wait) ∧
       (waits → y.xing.pool.length < 1024 → ∃ t, exec (.crossingDelivery d) s = .next t ∧
         (t.station d.dst).xing = { y.xing with pool := y.xing.pool ++ [d] } ∧ t.mem = s.mem ∧ t.agenda = s.agenda) ∧
       (y.xing.var? d.var = none → ∃ t, exec (.crossingDelivery d) s = .next t ∧ (t.station d.dst).xing = y.xing ∧
         t.bank (stationBank d.dst) = (s.record (stationBank d.dst) deferred 0x04 0xC9 (BitVec.ofNat 64 d.var) 0 0).bank (stationBank d.dst)) ∧
       (∀ r, y.xing.var? d.var = some r → r.posted = none → r.tl < d.t → r.same = [] → y.xing.pool = [] →
         ∃ t z, exec (.crossingDelivery d) s = .next t ∧ (t.station d.dst).xing.var? d.var = some z ∧
           z.tl = d.t ∧ z.x = extrapolate r.x r.s ((d.t : Int) - (r.tl : Int)) ∧ z.s = addSlope r.s d.d ∧ z.q = r.q ∧ z.d = r.d)))

/-- R142, R213, R214, R231, R232, R257, R258 and R269, the bytes and values that copies and drains move, between the station's TCM and
plane banks where nothing is poisoned and no window stands: a row of bytes; the list of a gather; a bank's row packed in its format; a
packed row placed in an A bank, and the groups of a bank in another of its format; a row of a tile. The last clauses say what a packed
row and a placed group are.

The model's choice, and no rule of the spec: when planes are moved unchanged (log entry 44). -/
def Obligations.CopiedValues : Prop :=
  ∀ (s : State) (st id : Nat) (c : CopyCmd),
    let w := c.who
    let base := Config.poolAt st
    let tcm (a n : Nat) : Prop := s.regionOfAll w a n = some .tcm
    let clean : Prop := s.poison = [] ∧ (s.station st).windows = []
    let len := c.regs.len
    let source := rowAt c.src c.regs.sstr (if c.kind = .gather then c.idxs.getD c.row 0 else c.row)
    let goal := rowAt c.dst c.regs.dstr c.row
    let plainEnd (a : Word) : Prop := s.planeEnd w a.toNat = none
    let group (t : State) (cl bank : Nat) (f : BankFmt) (g : Nat) : PlaneGroup := t.groupAt cl bank f (groupIx f c.row g)
    let zero : Value := .fin false 0 0
    let same (n : Nat) (f : Nat → Value) : List Value := (List.range n).map f
    let fits (f : BankFmt) (m : Nat) : Prop := f.b = false ∧ planesLegal f.fmt f.p = true ∧ rowElems f.fmt len = some m ∧ m ≤ kmax f ∧
      c.row < 64
    ((s.station st).copies.find? (fun k => k.id == id) = some c → w.st = st → c.acc.who = w → c.landed = false → c.retry = none →
      c.data = none → c.put = [] → c.got = [] → c.placed = [] → c.ghosts = [] → c.missed = [] → c.row < c.regs.rows → 0 < len → clean →
      s.copyReleased (workOfTask w c.acc.task) id = true → s.engBehind id (fun cl b => s.copyInBank cl b c) = false →
      let perform := exec (.copyPerform st id) s
      (c.kind ≠ .gather ∨ c.idxs.getD c.row lostIndex ≠ lostIndex → (c.kind = .gather ∨ plainEnd c.src) → plainEnd c.dst →
        tcm source len → tcm goal len → ∃ t, perform = .next t ∧
          memRead t.mem (base + goal) len = memRead s.mem (base + source) len ∧ s.keepsOutside t (base + goal) len) ∧
      (c.kind = .gather → c.idxs = [] →
        let wd := 2 ^ (c.regs.idx.toNat % 4)
        let list := c.regs.idx.toNat / 4 * 4
        tcm list (c.regs.rows * wd) → ∃ t, perform = .next t ∧ t.mem = s.mem ∧ (t.station st).copies.find? (fun k => k.id == id) =
          some { c with idxs := (List.range c.regs.rows).map (fun i => leNat (memRead s.mem (base + list + i * wd) wd)) }) ∧
      (∀ cl bank f m, c.kind ≠ .gather → s.planeEnd w c.src.toNat = some (cl, bank, f, 0) → plainEnd c.dst → fits f m → f.fmt ≠ 0x16 →
        tcm goal len → ∃ t, perform = .next t ∧ s.keepsOutside t (base + goal) len ∧ memRead t.mem (base + goal) len =
          packRow f.fmt (same m (fun k => groupValue f.fmt (group s cl bank f (k / 32)) (k % 32)))) ∧
      (∀ cl bank f m, c.kind ≠ .gather → plainEnd c.src → s.planeEnd w c.dst.toNat = some (cl, bank, f, 0) → fits f m →
        codeScaled f.fmt = false → tcm source len →
        let bits := leNat (memRead s.mem (base + source) len)
        let val (k : Nat) : Value := if k < m then decodeElem f.fmt (bits / 2 ^ (k * codeBits f.fmt) % 2 ^ codeBits f.fmt) else zero
        ∃ t, perform = .next t ∧ ∀ g, g < 2 * ((m + 63) / 64) → group t cl bank f g =
          { place f.fmt f.p 127 (same 32 (fun k => val (32 * g + k))) with flags := 0 }) ∧
      (∀ cl bank f cl1 b1 f1 m, c.kind ≠ .gather → s.planeEnd w c.src.toNat = some (cl, bank, f, 0) →
        s.planeEnd w c.dst.toNat = some (cl1, b1, f1, 0) → fits f m → f1.b = false → f1.fmt = f.fmt → f1.p = f.p →
        ∃ t, perform = .next t ∧ ∀ g, 32 * g < m →
          let x := group s cl bank f g
          let y := group t cl1 b1 f1 g
          y.e = x.e ∧ y.nan = x.nan ∧ ∀ k, k < 32 → y.q.getD k 0 = if 32 * g + k < m then x.q.getD k 0 else 0)) ∧
    (∀ (d : MtxCmd) (c1 : Bool) (dst stride : Word) (tile : Nat), d.who.st = st → d.acc.who = d.who → d.step < 64 → clean →
      d.retry = none → d.kind = .drain dst stride tile →
      let row : List Value := same 128 (fun k => fp32.decode ((s.station st).accAt tile (128 * d.step + k)).toNat)
      let to_ := rowAt dst stride d.step
      let n := 16 * codeBits d.regs.dfmt + if codeScaled d.regs.dfmt then 4 else 0
      (s.planeEnd d.who dst.toNat = none → d.regs.dfmt ≠ 0x16 → s.regionOfAll d.who to_ n = some .tcm →
        ∃ t, s.drainRow st c1 d dst stride tile = some t ∧ memRead t.mem (base + to_) n = packRow d.regs.dfmt row ∧
          s.keepsOutside t (base + to_) n) ∧
      (∀ cl bank f, s.planeEnd d.who dst.toNat = some (cl, bank, f, 0) → f.b = false → f.fmt ≠ 0x16 → planesLegal f.fmt f.p = true →
        ∃ t, s.drainRow st c1 d dst stride tile = some t ∧ ∀ g, g < 4 → t.groupAt cl bank f (groupIx f d.step g) =
          { placeValues f ((row.drop (32 * g)).take 32) with flags := 0 })) ∧
    (∀ fmt (xs : List Value), codeScaled fmt = false → fmt < 28 → ∀ k, k < xs.length →
      leNat (packRow fmt xs) / 2 ^ (k * codeBits fmt) % 2 ^ codeBits fmt = (encodeElem fmt .rne (xs.getD k zero)).1) ∧
    (∀ fmt p x (xs : List Value), planesLegal fmt p = true → 2 ≤ fmt → xs.length = 32 → x < 256 →
      let g := place fmt p x xs
      let lost : Prop := (∃ v ∈ xs, ∀ neg m e, v ≠ .fin neg m e) ∨ (codeScaled fmt = true ∧ x = 255)
      let val (k : Nat) : ℚ := match xs.getD k zero with | .fin neg m e => real neg m e | _ => 0
      let top : Int := 2 ^ (p - 1) - 1
      let ok (e : Int) : Prop := groupLo fmt x ≤ e ∧ ∀ k, k < 32 → (-2 ^ (p - 1) : ℚ) ≤ val k * 2 ^ (-e) ∧ val k * 2 ^ (-e) ≤ (top : ℚ)
      (lost → g.nan = true ∧ ∀ k, k < 32 → g.q.getD k 0 = 0) ∧
      (¬ lost → g.nan = false ∧ (∃ e, ok e ∧ (∀ i, ok i → e ≤ i) ∧ g.e = min e 127) ∧
        ∀ k, k < 32 → ∃ n, RoundsToInt .rne (val k * 2 ^ (-g.e)) n ∧ g.q.getD k 0 = max (-2 ^ (p - 1)) (min top n)))

/-- R217 to R220 and R259 to R264, what the signature commands write, where their ranges lie in the station's TCM, in which no window
stands, and nothing is poisoned: the entry of each row, the room list, each lead, each scattered row and each sum, and the masks of
SGSEL. Nothing else of memory changes.

The model's choice, and no rule of the spec: that a command is performed in one step and reads at one instant (log entry 74),
and which row leads a room under LOWEST and MAXNORM (entries 111 and 146). -/
def Obligations.SignatureResults : Prop :=
  ∀ (s : State) (c : SigCmd), c.acc.who = c.who → s.poison = [] → (s.station c.who.st).windows = [] →
    let q := c.regs
    let a := c.a.toNat
    let b := c.b.toNat
    let rl := q.rl.toNat
    let cl := clusterOf c.who.st
    let base := Config.poolAt c.who.st
    let tcm (x n : Nat) : Prop := s.regionOfAll c.who x n = some .tcm
    let apart (x n y k : Nat) : Prop := x + n ≤ y ∨ y + k ≤ x
    let bytes (t : State) (x n : Nat) : List Byte := memRead t.mem (base + x) n
    let word (t : State) (x : Nat) : Word := t.wordAt (base + x)
    let list := roomList (bytes s rl 392)
    let gives (x n : Nat) (p : State → Prop) : Prop := ∃ r, ({ cmd := c, s := s, faults := [] } : SigRun).run = some r ∧
      r.faults = [] ∧ s.keepsOutside r.s (base + x) n ∧ p r.s
    let single (bs : List Byte) (k : Nat) : Value := fp32.decode (leNat ((bs.drop (4 * k)).take 4))
    let bits (bs : List Byte) (k : Nat) : Nat := leNat ((bs.drop (4 * k)).take 4)
    let bank (i : Nat) (f : BankFmt) : Prop := s.ownBank c.who a = some (i, f) ∧ f.b = false ∧ 1 ≤ q.kg ∧ 32 * q.kg ≤ kmax f ∧ q.rows ≤ 64
    (∀ i f, c.kind = .hash → bank i f → tcm b (8 * q.rows) → gives b (8 * q.rows) (fun t => ∀ r, r < q.rows →
      let g (k : Nat) : PlaneGroup := s.groupAt cl i f (groupIx f r k)
      let v (k : Nat) : ℚ := groupQ f.fmt (g (k / 32)) (k % 32) * 2 ^ (g (k / 32)).e
      let lost : Prop := ∃ k, k < q.kg ∧ (g k).nan = true
      let zero : Prop := f.zs = true ∧ f.fmt ≠ 0 ∧ ∀ k, k < 2 * ((q.kg + 1) / 2) → (g k).nan = false ∧ ∀ j, j < 32 → (g k).q.getD j 0 = 0
      let e := word t (b + 8 * r)
      (lost → e = 0x200000000) ∧ (¬ lost → zero → e = 0x100000000) ∧
      (¬ lost → ¬ zero → ∀ j, j < 64 → e.getLsbD j = decide (j < q.w ∧
        0 ≤ ((List.range (32 * q.kg)).map (fun k => if (mix q.seed (BitVec.ofNat 64 k) 0).getLsbD j then - v k else v k)).sum)))) ∧
    (c.kind = .room → q.rows ≤ 64 → tcm a (8 * q.rows) → tcm rl 392 → gives rl 392 (fun t =>
      let l := roomList (bytes t rl 392)
      let e (i : Nat) : Word := word s (a + 8 * i)
      let room (i : Nat) : Nat := l.room.getD i 0
      let lead (m : Nat) : Nat := l.lead.getD m 0
      l.nrow = q.rows ∧ l.nroom ≤ q.rows ∧ (word t rl).toNat / 2 ^ 48 = 0 ∧
      l.nzero = ((List.range q.rows).filter (fun i => (e i).getLsbD 32)).length ∧
      (∀ i, i < q.rows → ((e i).getLsbD 32 = true → room i = 0xFFFF) ∧
        ((e i).getLsbD 32 = false → room i < l.nroom ∧ lead (room i) ≤ i ∧ e (lead (room i)) = e i)) ∧
      (∀ m, m < l.nroom → lead m < q.rows ∧ room (lead m) = m ∧
        l.count.getD m 0 = ((List.range q.rows).filter (fun i => room i == m)).length ∧
        ∀ k, k < m → lead k < lead m ∧ e (lead k) ≠ e (lead m)) ∧
      (∀ i, q.rows ≤ i → i < 64 → room i = 0) ∧ (∀ m, l.nroom ≤ m → m < 64 → lead m = 0 ∧ l.count.getD m 0 = 0))) ∧
    (∀ i f, c.kind = .lead → bank i f → f.fmt ≠ 0x16 → tcm rl 392 → list.valid q.rows = true →
      let n := leadBytes f.fmt q.kg
      let vals (r : Nat) : List Value := (List.range (32 * q.kg)).map (fun k =>
        groupValue f.fmt (s.groupAt cl i f (groupIx f r (k / 32))) (k % 32))
      let norm (r : Nat) : ℚ := ((vals r).map (fun v => match v with | .fin _ m e => real false m e | _ => 0)).sum
      let lost (r : Nat) : Prop := ∃ k, k < q.kg ∧ (s.groupAt cl i f (groupIx f r k)).nan = true
      let less (x y : Nat) : Prop := ¬ lost x ∧ (lost y ∨ norm x < norm y)
      let member (m r : Nat) : Prop := r < q.rows ∧ list.room.getD r 0 = m
      tcm b (q.rows * n) → apart b (q.rows * n) rl 392 →
      (q.rule < 2 → gives b (q.rows * n) (fun t => ∀ m, m < q.rows →
        (list.nroom ≤ m → bytes t (b + m * n) n = List.replicate n 0) ∧
        (m < list.nroom →
          (∀ r, q.rule = 0 → member m r → (∀ j, member m j → r ≤ j) → bytes t (b + m * n) n = packRow f.fmt (vals r)) ∧
          (q.rule = 1 → bytes t (b + m * n) n = packRow f.fmt ((List.range (32 * q.kg)).map (fun k =>
            (fDiv ((list.members m).foldl (fun x r => (fAdd .rne x ((vals r).getD k qNaN)).1) (.fin false 0 0))
              (numOfInt (list.members m).length)).1)))))) ∧
      (q.rule = 2 → ∃ r, ({ cmd := c, s := s, faults := [] } : SigRun).run = some r ∧ r.faults = [] ∧ ∀ m, m < list.nroom →
        ∃ best, member m best ∧ (∀ j, member m j → ¬ less best j ∧ (¬ less j best → best ≤ j)) ∧
          bytes r.s (b + m * n) n = packRow f.fmt (vals best) ∧ leNat (bytes r.s (rl + 136 + 4 * m) 2) = best)) ∧
    ((c.kind = .scat ∨ c.kind = .sum) → tcm a (q.rows * q.slen) → tcm b (q.rows * q.slen) → tcm rl 392 → list.valid q.rows = true →
      list.nroom ≤ q.rows → q.slen % 8 = 0 → 0 < q.slen → apart b (q.rows * q.slen) a (q.rows * q.slen) →
      apart b (q.rows * q.slen) rl 392 → gives b (q.rows * q.slen) (fun t =>
        let src (i : Nat) : List Byte := bytes s (a + i * q.slen) q.slen
        let out (i : Nat) : List Byte := bytes t (b + i * q.slen) q.slen
        (c.kind = .scat → ∀ i, i < q.rows →
          let m := list.room.getD i 0xFFFF
          (m = 0xFFFF → out i = List.replicate q.slen 0) ∧
          (m ≠ 0xFFFF → q.smode ≠ 1 → out i = src m) ∧
          (m ≠ 0xFFFF → q.smode = 1 → ∀ k, k < q.slen / 4 →
            bits (out i) k = (fp32.round .rne (fDiv (single (src m) k) (numOfInt (list.count.getD m 0))).1).1)) ∧
        (c.kind = .sum → ∀ m, m < q.rows →
          (list.nroom ≤ m → out m = List.replicate q.slen 0) ∧
          (m < list.nroom →
            let ms := list.members m
            ∃ acc : Nat → List Byte, acc 0 = src (ms.getD 0 0) ∧ acc (ms.length - 1) = out m ∧
              ∀ j, j + 1 < ms.length → ∀ k, k < q.slen / 4 → bits (acc (j + 1)) k =
                (fp32.round .rne (fAdd .rne (single (acc j) k) (single (src (ms.getD (j + 1) 0)) k)).1).1)))) ∧
    (c.kind = .sel →
      let n := 8 * ((q.nk + 63) / 64)
      let keys := q.keys.toNat
      tcm a (8 * q.nq) → tcm keys (8 * q.nk) → tcm b (n * q.nq) → apart b (n * q.nq) a (8 * q.nq) → apart b (n * q.nq) keys (8 * q.nk) →
      gives b (n * q.nq) (fun t => ∀ i, i < q.nq →
        let x := word s (a + 8 * i)
        let y (j : Nat) : Word := word s (keys + 8 * j)
        let candidate (j : Nat) : Bool := decide (j < q.nk) && !(y j).getLsbD 32
        let differ (j : Nat) : Nat := ((List.range q.w).filter (fun k => (x.getLsbD k) != (y j).getLsbD k)).length
        let kept (j : Nat) : Bool := (leNat (bytes t (b + i * n) n)).testBit j
        (x.getLsbD 32 = true → ∀ j, kept j = false) ∧
        (x.getLsbD 32 = false →
          (∀ j, kept j = true → candidate j = true) ∧
          ((List.range q.nk).filter kept).length = min q.topk ((List.range q.nk).filter candidate).length ∧
          (∀ j k, kept j = true → candidate k = true → kept k = false → differ j < differ k ∨ (differ j = differ k ∧ j < k)))))

/-- R161, R313, R428 to R431: CLASSCFG_WRITE, FNMODESET, HANDOVER_GIVE and HANDOVER_RELEASE act for the owner alone, another master
sets bit 1 of the status; the owner writes any claim, a master its own; CLAIM, ELECTION_END and MASTER_PATH_DOWN: the lowest nonzero claim wins, 65,536 cycles after the first.

R5, R35, R365, R422 to R427, R437 and R438: POWER_ON starts the module only with a signed image that fits its SRAM, its memory clear and its time 0; an
INBOUND_RECORD that is malformed, or is no aligned write of 128 bytes, is recorded and one whose sequence has been accepted is dropped; JOURNAL_REPLAY, PART_RESET and
THERMAL_RESET; THROTTLE slows the station clock, to no less than half, at 105 °C and above.

The model's choice, and no rule of the spec: what POWER_ON sets (log entry 7), what a reset leaves (entry 93), the steps that
follow the temperature (entry 94), that class and notice writes act at once (entry 95), an election without claims (entry
96), the report of a failed image and its fields (entry 97), which rank table routes an inbound record (entry 98), an illegal
HBPER (entry 158), the sequence of a malformed record (entry 159), and what a replay drops (entry 160). -/
def Obligations.OwnershipBringUpAndResetEvents : Prop :=
  (∀ (s : State) (m to_ c : Nat) (v : Word),
      let owner : Prop := s.vacant = false ∧ s.master = m
      let ignored : Out := .next { s with status := s.status ||| 2 }
      let opened (t : State) : State := if t.vacant = true ∧ t.election = none ∧ (∃ e ∈ t.claims, e.2 ≠ 0) then
        ({ t with election := some (t.now + 65536) } : State).laterAt (t.now + 65536) .electionEnd else t
      let legal : Prop := c < 16 ∧ classLegal v = true ∧ s.classFits c v = true
      (¬ owner → exec (.classcfgWrite m c v) s = ignored ∧ exec (.fnmodeset m v) s = ignored ∧
        exec (.handoverGive m to_) s = ignored ∧ exec (.handoverRelease m) s = ignored ∧ exec (.masterPathDown m) s = .next s) ∧
      (owner →
        (legal → ∃ t, exec (.classcfgWrite m c v) s = .next t ∧ t.classCfg c = v ∧ (∀ k, k ≠ c → t.classCfg k = s.classCfg k) ∧
          t.status = s.status) ∧
        (¬ legal → exec (.classcfgWrite m c v) s = .next { s with status := s.status ||| 1 }) ∧
        (∃ t, exec (.fnmodeset m v) s = .next t ∧ t.fnmodeset = v ∧ t.fnmode = v &&& 0x1F ∧ t.stations = s.stations ∧ t.mem = s.mem) ∧
        (to_ < 4 → exec (.handoverGive m to_) s = .next { s with master := to_ }) ∧
        exec (.handoverRelease m) s = .next (opened { s with vacant := true }) ∧
        exec (.masterPathDown m) s = .next (opened { s with vacant := true })) ∧
      (4 ≤ m → exec (.claim m v) s = .next s) ∧
      (m < 4 → ∃ t, exec (.claim m v) s = .next (opened t) ∧ (look 0 t.claims m).toNat = v.toNat % 2 ^ 32 ∧
        (∀ k, k ≠ m → look 0 t.claims k = look 0 s.claims k) ∧ t.vacant = s.vacant ∧ t.election = s.election) ∧
      (let other (k : Nat) : Out := exec (.registerWrite (.managementOther m (8 + 8 * k)) v) s
       (∀ k, k < 4 → k = m ∨ owner → ∃ t, other k = .next (opened t) ∧ (look 0 t.claims k).toNat = v.toNat % 2 ^ 32 ∧
         (∀ j, j ≠ k → look 0 t.claims j = look 0 s.claims j) ∧ t.vacant = s.vacant ∧ t.election = s.election) ∧
       (∀ k, k < 4 → k ≠ m → ¬ owner → other k = ignored)) ∧
      (s.election = none → exec .electionEnd s = .next s) ∧
      (∀ t, s.election = some t → s.now < t → exec .electionEnd s = .next s.wait) ∧
      (∀ t w, s.election = some t → t ≤ s.now → w < 4 → look 0 s.claims w ≠ 0 →
        (∀ k, k < 4 → look 0 s.claims k ≠ 0 → (look 0 s.claims w).toNat ≤ (look 0 s.claims k).toNat ∧
          (look 0 s.claims k = look 0 s.claims w → w ≤ k)) →
        exec .electionEnd s = .next { s with vacant := false, master := w, election := none })) ∧
  (∀ (s : State) (b : BootImage) (link off die rate st : Nat) (write : Bool) (words : List Word),
      (s.boot = .running → exec (.powerOn b) s = .next s) ∧
      (s.boot ≠ .running → b.signed = false ∨ 2 ^ 24 < b.size →
        exec (.powerOn b) s = .next { s with boot := .failed, sram := some b }) ∧
      (s.boot ≠ .running → b.signed = true → b.size ≤ 2 ^ 24 → ∃ t, exec (.powerOn b) s = .next t ∧ t.boot = .running ∧ t.sram = some b ∧ t.now = 0 ∧ t.hbper = (if ∃ i, i ≤ 10 ∧ b.hbper = 2 ^ (10 + i) then b.hbper else 8192) ∧
        t.fnmode = b.fnmode &&& 0x1F ∧ t.notice = b.notice ∧ t.poison = [] ∧
        (b.bytes = [] → b.formats = [] → (∀ x, memGet t.mem x = 0)) ∧
        (∀ i, i < b.classes.length → t.classCfg i = b.classes.getD i 0) ∧
        (∀ n, n < 8192 → { due := 0, ev := Instr.heartbeatSend n } ∈ t.agenda ∧ { due := t.hbper, ev := Instr.periodEnd n } ∈ t.agenda)) ∧
      (let refused := s.record (clusterBank 0) deferred 0x0F 0 0 0 0
       let raw := (words.getD 12 0).toNat
       let last := look 0 s.lastSeq link
       let inbound := exec (.inboundRecord link { off := off, write := write, words := words }) s
       let whole : Prop := write = true ∧ words.length = 16 ∧ off % 128 = 0 ∧ off < 65536 ∧ link < 2
       (s.boot ≠ .running → inbound = .next s.wait) ∧
       (s.boot = .running → ¬ whole → inbound = .next refused) ∧
       (s.boot = .running → whole → raw ≤ last → inbound = .next s) ∧
       (s.boot = .running → whole → last < raw → inboundLegal words = false → ∃ t, inbound = .next t ∧
         look 0 t.lastSeq link = max last (raw % 2 ^ 60) ∧ t.banks = refused.banks ∧ t.mem = s.mem ∧ t.agenda = s.agenda) ∧
       (s.boot = .running → whole → last < raw → inboundLegal words = true →
         let m := s.inboundMsg link words
         let rank := (words.getD 0 0).toNat / 2 ^ 51
         let e := (s.station (4096 * link)).rankEntry rank
         raw < 2 ^ 60 ∧
         (s.journalAccept (rankCoord e / 1024) m = none → inbound = .next s.wait) ∧
         (∀ t, s.journalAccept (rankCoord e / 1024) m = some t → inbound =
           .next (({ t with lastSeq := put link raw t.lastSeq } : State).routeMsg (4096 * link) rank m)))) ∧
      ((∀ j ∈ s.journal, j.die ≠ die) → exec (.journalReplay die) s = .next s) ∧
      (∀ j, s.journal = [j] → j.die = die → exec (.journalReplay die) s =
        .next (s.routeMsg (routerOf die (s.journalMsg j).source) ((s.journalMsg j).header.toNat / 2 ^ 51) (s.journalMsg j))) ∧
      (st < 8192 → ∃ t, exec (.partReset (.station st)) s = .next t ∧ (∀ c, t.holder { st := st, core := c } = Holder.reset) ∧
        (t.station st).shut = false ∧ (t.station st).handlers = (s.station st).handlers ∧ (t.station st).launches = (s.station st).launches ∧
        (∀ off, off < Config.poolSize → memGet t.mem (Config.poolAt st + off) = 0) ∧
        { due := s.now + 1, ev := Instr.journalReplay (dieOf st) } ∈ t.agenda) ∧
      (let whole : Out := .next (((s.dropReplayed (fun n => dieOf n == die)).resetDie die).later (.journalReplay die))
       exec (.partReset (.computeDie die)) s = whole ∧
       (920 ≤ Config.dieTemp die s.now → exec (.thermalReset die) s = whole) ∧
       (Config.dieTemp die s.now < 920 → exec (.thermalReset die) s = .next s)) ∧
      (∃ t, exec (.partReset (.cacheDie die)) s = .next t ∧ (∀ e ∈ t.tlb, e.slice / 64 ≠ die) ∧ (∀ e ∈ t.walks, e.slice / 64 ≠ die) ∧
        (∀ e ∈ t.lines, e.slice / 64 ≠ die) ∧ { due := s.now + 1, ev := Instr.journalReplay die } ∈ t.agenda) ∧
      (∃ t, exec (.throttle die rate) s = .next t ∧ (t.die die).rate = (if Config.dieTemp die s.now < 840 then 64 else if rate < 32 then 32 else if 63 < rate then 63 else rate) ∧
        (t.die die).clockAt = s.now ∧ t.clock die = s.clock die ∧ t.mem = s.mem))

/-- R6, R28 to R32, R37, R99, R159, R174 to R176, R197, R224, R225, R293 to R300, R318, R355 and R430: the register writes with a row of their
own, the layout that takes effect once the station is quiescent, and the debugger's halt and resume.

The model's choice, and no rule of the spec: which bits of a handler entry are dropped (log entry 28), the registers that a
window does not reach (entry 29), when WAYMASK and TENANT take effect (entry 118), what waits for a bank's format (entry
138), that the boundaries in force are those of the moment (entry 139), that a layout needs free records (entry 54), when the
debugger's halt saves (entry 100), and the bits of a rank-table entry that are dropped (entry 171). -/
def Obligations.RegisterEvents : Prop :=
  ∀ (s : State) (st n cl : Nat) (v : Word) (who : Who) (es : List (Nat × BitVec 256)) (master size : Nat) (storer : Bool),
    let x := s.station st
    let layout : Prop := 6 ≤ x.plb1 ∧ x.plb1 ≤ x.plb2 ∧ x.plb2 ≤ x.plb3 ∧ x.plb3 ≤ 46 ∧
      (x.plb3 - x.plb2 = 0 ∨ x.plb3 - x.plb2 = 8 ∨ x.plb3 - x.plb2 = 16 ∨ x.plb3 - x.plb2 = 32)
    let changed (f : Station → Station) : Out := .next (s.modStation st f)
    let owner : Prop := s.vacant = false ∧ s.master = master
    (layout → exec (.l1cfgApply st) s = .next ((s.modStation st (fun y => { y with pend := true })).later (.layoutTakesEffect st))) ∧
    (¬ layout → exec (.l1cfgApply st) s = .next s) ∧
    (x.pend = false → exec (.layoutTakesEffect st) s = .next s) ∧
    (x.pend = true → (s.quiescent st = false ∨ x.mail ≠ []) → exec (.layoutTakesEffect st) s = .next s.wait) ∧
    (x.pend = true → s.quiescent st = true → x.mail = [] → x.l1 = [] → ∃ t, exec (.layoutTakesEffect st) s = .next t ∧
      (t.station st).app1 = x.plb1 ∧ (t.station st).app2 = x.plb2 ∧ (t.station st).app3 = x.plb3 ∧ (t.station st).pend = false ∧
      (∀ off, off < 48 * 8192 → (off < x.plb3 * 8192 ∨ x.plb3 * 8192 + 8 ≤ off) →
        inArea x.plb1 x.plb2 x.plb3 (off / 8192) = true → inArea x.app1 x.app2 x.app3 (off / 8192) = false →
        memGet t.mem (Config.poolAt st + off) = 0)) ∧
    ((bfmtLegal v = false ∨ 16 ≤ n) → exec (.bfmtWrite cl n v) s = .next s) ∧
    (bfmtLegal v = true → n < 16 → s.bankClosed cl n = none → exec (.bfmtWrite cl n v) s =
      .next ((s.modCluster cl (fun c => { c with closing := put n s.ops c.closing })).later (.bfmtWrite cl n v))) ∧
    (∀ k, bfmtLegal v = true → n < 16 → s.bankClosed cl n = some k → s.bankBusy cl n k = true →
      exec (.bfmtWrite cl n v) s = .next s.wait) ∧
    (∀ k, bfmtLegal v = true → n < 16 → s.bankClosed cl n = some k → s.bankBusy cl n k = false → ∃ t, exec (.bfmtWrite cl n v) s = .next t ∧
      look 0 (t.cluster cl).bfmt n = v ∧ t.bankClosed cl n = none ∧ (∀ k, k ≠ n → look 0 (t.cluster cl).bfmt k = look 0 (s.cluster cl).bfmt k) ∧
      (∀ a, Config.spadAt cl + n * Config.bankSize ≤ a → a < Config.spadAt cl + (n + 1) * Config.bankSize → memGet t.mem a = 0)) ∧
    (32 ≤ n → exec (.pcntWrite st n v) s = .next s ∧ exec (.thrWrite st n v) s = .next s) ∧
    (n < 32 →
      (s.gaugeOf st ((x.thr n).sel.toNat / 2 ^ 56) = none → exec (.pcntWrite st n v) s =
        changed (fun y => { y with thresholds := put n { x.thr n with count := v, fired := false } y.thresholds })) ∧
      (∀ g, s.gaugeOf st ((x.thr n).sel.toNat / 2 ^ 56) = some g → exec (.pcntWrite st n v) s =
        changed (fun y => { y with thresholds := put n { x.thr n with count := BitVec.ofNat 64 g, fired := false } y.thresholds })) ∧
      (eventLegal (v.toNat / 2 ^ 56) = false ∨ v.toNat / 2 ^ 48 % 2 ^ 8 ≠ 0 → exec (.thrWrite st n v) s = .next s) ∧
      (eventLegal (v.toNat / 2 ^ 56) = true → v.toNat / 2 ^ 48 % 2 ^ 8 = 0 → s.gaugeOf st (v.toNat / 2 ^ 56) = none →
        exec (.thrWrite st n v) s =
          changed (fun y => { y with thresholds := put n { x.thr n with sel := v, fired := false } y.thresholds }))) ∧
    (16 ≤ n → exec (.waymaskWrite who n v) s = .next s) ∧
    (n < 16 → who = { st := st, core := .keeper } →
      (v.toNat < 2 ^ 16 → exec (.waymaskWrite who n v) s = changed (fun y => { y with late := y.late ++ [(0x050 + n, v, s.clock (dieOf st) + 1)] })) ∧
      (2 ^ 16 ≤ v.toNat → exec (.waymaskWrite who n v) s = .next s)) ∧
    (who = { st := st, core := .keeper } →
      (v.toNat < 2 ^ 20 → exec (.tenantWrite who v) s = changed (fun y => { y with late := y.late ++ [(0x044, v, s.clock (dieOf st) + 1)] })) ∧
      (2 ^ 20 ≤ v.toNat → exec (.tenantWrite who v) s = .next s)) ∧
    (who = { st := st, core := .urgent } → v.toNat < 2 ^ 16 → n < 16 →
      ((s.holder who).window = none → exec (.waymaskWrite who n v) s =
        changed (fun y => { y with late := y.late ++ [(0x050 + n, v, s.clock (dieOf st) + 1)] })) ∧
      ((s.holder who).window ≠ none → exec (.waymaskWrite who n v) s = changed (fun y => { y with staged := put (0x050 + n) v y.staged }))) ∧
    (∃ t, exec (.handlerTableInstall st es) s = .next t ∧ t.mem = s.mem ∧ (t.station st).icache = [] ∧
      (∀ k e, es = [(k, e)] → k < 256 → (t.station st).handler k = handlerMask e ∧
        ∀ j, j ≠ k → (t.station st).handler j = x.handler j)) ∧
    (exec (.registerWrite (.rankTable st n) v) s = .next (s.writeRank st n v)) ∧
    (¬ owner → exec (.registerWrite (.asRoot master n) v) s = .next { s with status := s.status ||| 2 } ∧
      exec (.registerWrite (.dbgCtl master) v) s = .next { s with status := s.status ||| 2 }) ∧
    (owner → exec (.registerWrite (.dbgCtl master) v) s = .next { s with dbgctl := v.getLsbD 0 } ∧
      (n < 64 → exec (.registerWrite (.asRoot master n) v) s = .next { s with asroot := put n (v &&& 0x000FFFFFFFFF0001#64) s.asroot })) ∧
    (exec (.registerWrite (.poolByte st n size) v) s = .next (s.writeAt (Config.poolAt st + n) (leBytes v.toNat (min size 8)))) ∧
    (s.quiescent st = false → exec (.registerWrite (.instrStore st storer n size) v) s = .next s) ∧
    (v.toNat < 2 ^ 19 → v.toNat % 2 ^ 13 = 0 →
      exec (.registerWrite (.stationControl st 0x040) v) s = changed (fun y => { y with plb1 := v.toNat / 2 ^ 13 }) ∧
      exec (.registerWrite (.stationControl st 0x041) v) s = changed (fun y => { y with plb2 := v.toNat / 2 ^ 13 }) ∧
      exec (.registerWrite (.stationControl st 0x042) v) s = changed (fun y => { y with plb3 := v.toNat / 2 ^ 13 })) ∧
    (v.getLsbD 0 = false → exec (.registerWrite (.stationControl st 0x043) v) s = .next s) ∧
    (exec (.registerWrite (.otherWindow st n) v) s = .next (s.record (clusterBank (clusterOf st)) deferred 0x0F 0 (BitVec.ofNat 64 n) 0 0)) ∧
    (let stops : List Who := (taskCores.map (fun c => ({ st := st, core := c } : Who))).filter (fun w =>
      (s.holder w).state == .run || (s.holder w).state == .parked)
     (x.halted = false → exec (.debugHalt st) s =
       .next ((s.modStation st (fun y => { y with halted := true })).later (.debugHalt st))) ∧
     (x.halted = true → (∃ w ∈ stops, s.saveReady w = false) → exec (.debugHalt st) s = .next s.wait) ∧
     (x.halted = true → (∀ w ∈ stops, s.saveReady w = true) → ∃ t, exec (.debugHalt st) s = .next t ∧
       (∀ w ∈ stops, (t.holder w).state = .halted ((s.holder w).state == .parked)) ∧
       (∀ c ∈ taskCores, (t.holder { st := st, core := c }).state ≠ .run ∧ (t.holder { st := st, core := c }).state ≠ .parked)) ∧
     ((∀ c ∈ taskCores, ∀ b, (s.holder { st := st, core := c }).state ≠ .halted b) →
       exec (.debugResume st) s = changed (fun y => { y with halted := false })) ∧
     (∃ t, exec (.debugResume st) s = .next t ∧ (t.station st).halted = false ∧ t.mem = s.mem ∧
       (∀ c ∈ taskCores, ∀ b, (t.holder { st := st, core := c }).state ≠ .halted b)))
end

