-- ==== Sys2Proof/Laws/Alu.lean ====
section
/-! SUPPORT. The ALU operations as arithmetic on the operands' signed and unsigned values, at every width (R72, R73,
R106). -/
namespace Sys2Proof.Machine

variable {n : Nat}

theorem addOp_int (x y : BitVec n) : addOp n x y = BitVec.ofNat n (x.toNat + y.toNat) := by
  apply BitVec.eq_of_toNat_eq; simp [addOp]
theorem subOp_int (x y : BitVec n) : subOp n x y = BitVec.ofInt n ((x.toNat : Int) - y.toNat) := by
  rw [subOp, Int.sub_eq_add_neg, BitVec.ofInt_add, BitVec.ofInt_neg, BitVec.ofInt_natCast, BitVec.ofInt_natCast,
    BitVec.sub_eq_add_neg]
  simp
theorem andOp_int (x y : BitVec n) : andOp n x y = BitVec.ofNat n (x.toNat &&& y.toNat) := by
  apply BitVec.eq_of_toNat_eq; rw [andOp]; simp
theorem orOp_int (x y : BitVec n) : orOp n x y = BitVec.ofNat n (x.toNat ||| y.toNat) := by
  apply BitVec.eq_of_getLsbD_eq; intro i hi; simp [orOp, hi]
theorem xorOp_int (x y : BitVec n) : xorOp n x y = BitVec.ofNat n (x.toNat ^^^ y.toNat) := by
  apply BitVec.eq_of_getLsbD_eq; intro i hi; simp [xorOp, hi]
theorem not_nat (y : BitVec n) : ~~~y = BitVec.ofNat n (2 ^ n - 1 - y.toNat) := by
  apply BitVec.eq_of_toNat_eq; have := y.isLt; rw [BitVec.toNat_not, BitVec.toNat_ofNat, Nat.mod_eq_of_lt (by omega)]
theorem andnOp_int (x y : BitVec n) : andnOp n x y = BitVec.ofNat n (x.toNat &&& (2 ^ n - 1 - y.toNat)) := by
  have h := andOp_int x (~~~y); rw [BitVec.toNat_not] at h; exact h
theorem ornOp_int (x y : BitVec n) : ornOp n x y = BitVec.ofNat n (x.toNat ||| (2 ^ n - 1 - y.toNat)) := by
  have h := orOp_int x (~~~y); rw [BitVec.toNat_not] at h; exact h
theorem sllOp_int (x y : BitVec n) : sllOp n x y = BitVec.ofNat n (x.toNat * 2 ^ (y.toNat % n)) := by
  apply BitVec.eq_of_toNat_eq; simp [sllOp, shiftOf, Nat.shiftLeft_eq]
theorem srlOp_int (x y : BitVec n) : srlOp n x y = BitVec.ofNat n (x.toNat / 2 ^ (y.toNat % n)) := by
  apply BitVec.eq_of_toNat_eq
  rw [srlOp, shiftOf, BitVec.toNat_ushiftRight, Nat.shiftRight_eq_div_pow, BitVec.toNat_ofNat,
    Nat.mod_eq_of_lt (Nat.lt_of_le_of_lt (Nat.div_le_self ..) x.isLt)]
theorem sraOp_int (x y : BitVec n) : sraOp n x y = BitVec.ofInt n (x.toInt / 2 ^ (y.toNat % n)) := by
  rw [sraOp, shiftOf, ← BitVec.ofInt_toInt (x := x.sshiftRight _), BitVec.toInt_sshiftRight, Int.shiftRight_eq_div_pow]
  simp
theorem sltOp_int (x y : BitVec n) : sltOp n x y = BitVec.ofNat n (if x.toInt < y.toInt then 1 else 0) := by
  simp only [sltOp, bit1, BitVec.slt, decide_eq_true_eq]; split <;> simp
theorem sltuOp_int (x y : BitVec n) : sltuOp n x y = BitVec.ofNat n (if x.toNat < y.toNat then 1 else 0) := by
  simp only [sltuOp, bit1, BitVec.ult, decide_eq_true_eq]; split <;> simp
theorem seqOp_int (x y : BitVec n) : seqOp n x y = BitVec.ofNat n (if x.toNat = y.toNat then 1 else 0) := by
  simp only [seqOp, bit1, BitVec.toNat_inj]; split <;> simp_all
theorem minOp_int (x y : BitVec n) : minOp n x y = BitVec.ofInt n (min x.toInt y.toInt) := by
  simp only [minOp, BitVec.slt]; split
  · rw [Int.min_eq_left (by simp_all; omega)]; simp
  · rw [Int.min_eq_right (by simp_all)]; simp
theorem maxOp_int (x y : BitVec n) : maxOp n x y = BitVec.ofInt n (max x.toInt y.toInt) := by
  simp only [maxOp, BitVec.slt]; split
  · rw [Int.max_eq_right (by simp_all; omega)]; simp
  · rw [Int.max_eq_left (by simp_all)]; simp
theorem minuOp_int (x y : BitVec n) : minuOp n x y = BitVec.ofNat n (min x.toNat y.toNat) := by
  simp only [minuOp, BitVec.ult]; split
  · rw [Nat.min_eq_left (by simp_all; omega)]; simp
  · rw [Nat.min_eq_right (by simp_all)]; simp
theorem maxuOp_int (x y : BitVec n) : maxuOp n x y = BitVec.ofNat n (max x.toNat y.toNat) := by
  simp only [maxuOp, BitVec.ult]; split
  · rw [Nat.max_eq_right (by simp_all; omega)]; simp
  · rw [Nat.max_eq_left (by simp_all)]; simp
theorem mulOp_int (x y : BitVec n) : mulOp n x y = BitVec.ofNat n (x.toNat * y.toNat) := by
  apply BitVec.eq_of_toNat_eq; simp [mulOp]
theorem allOnes_int : BitVec.allOnes n = BitVec.ofInt n (-1) := by
  rw [← BitVec.ofInt_toInt (x := BitVec.allOnes n), BitVec.toInt_allOnes]
  split
  · rfl
  · exact BitVec.eq_of_zero_length (by omega)
theorem divOp_int (x y :
    BitVec n) : divOp n x y = BitVec.ofInt n (if y.toNat = 0 then -1 else x.toInt.tdiv y.toInt) := by
  simp only [divOp]
  by_cases h : y = 0
  · simp [h, allOnes_int]
  · have h2 : y.toNat ≠ 0 := fun e => h (BitVec.eq_of_toNat_eq (by simpa using e))
    rw [if_neg h, if_neg h2]
    apply BitVec.eq_of_toInt_eq
    rw [BitVec.toInt_sdiv, BitVec.toInt_ofInt]
theorem divuOp_int (x y :
    BitVec n) : divuOp n x y = BitVec.ofInt n (if y.toNat = 0 then -1 else (x.toNat / y.toNat : Nat)) := by
  simp only [divuOp]
  by_cases h : y = 0
  · simp [h, allOnes_int]
  · have h2 : y.toNat ≠ 0 := fun e => h (BitVec.eq_of_toNat_eq (by simpa using e))
    rw [if_neg h, if_neg h2, BitVec.ofInt_natCast]
    apply BitVec.eq_of_toNat_eq
    simp
    rw [Nat.mod_eq_of_lt (Nat.lt_of_le_of_lt (Nat.div_le_self ..) x.isLt)]
theorem remOp_int (x y : BitVec n) :
    remOp n x y = BitVec.ofInt n (if y.toNat = 0 then x.toInt else x.toInt - y.toInt * x.toInt.tdiv y.toInt) := by
  have e : x.toInt - y.toInt * x.toInt.tdiv y.toInt = x.toInt.tmod y.toInt := by
    have := Int.tmod_add_mul_tdiv x.toInt y.toInt; omega
  simp only [remOp, e]
  by_cases h : y = 0
  · simp [h]
  · have h2 : y.toNat ≠ 0 := fun e => h (BitVec.eq_of_toNat_eq (by simpa using e))
    rw [if_neg h, if_neg h2]
    rw [← BitVec.ofInt_toInt (x := x.srem y), BitVec.toInt_srem]
theorem remuOp_int (x y : BitVec n) :
    remuOp n x y = BitVec.ofNat n (if y.toNat = 0 then x.toNat else x.toNat - y.toNat * (x.toNat / y.toNat)) := by
  have e : x.toNat - y.toNat * (x.toNat / y.toNat) = x.toNat % y.toNat := by
    have := Nat.mod_add_div x.toNat y.toNat; omega
  simp only [remuOp, e]
  by_cases h : y = 0
  · simp [h]
  · have h2 : y.toNat ≠ 0 := fun e => h (BitVec.eq_of_toNat_eq (by simpa using e))
    rw [if_neg h, if_neg h2]
    apply BitVec.eq_of_toNat_eq
    simp
    rw [Nat.mod_eq_of_lt (Nat.lt_of_le_of_lt (Nat.mod_le ..) x.isLt)]
theorem mulhOp_int (x y : BitVec n) : mulhOp n x y = BitVec.ofInt n (x.toInt * y.toInt / 2 ^ n) := rfl
theorem mulhuOp_int (x y : BitVec n) : mulhuOp n x y = BitVec.ofNat n (x.toNat * y.toNat / 2 ^ n) := rfl
theorem rolOp_int (x y :
    BitVec n) : rolOp n x y = BitVec.ofNat n (x.toNat * 2 ^ (y.toNat % n) + x.toNat / 2 ^ (n - y.toNat % n)) := by
  have hk : shiftOf y = y.toNat % n := rfl
  rw [rolOp, hk]
  generalize hm : y.toNat % n = k
  rcases Nat.eq_zero_or_pos n with h0 | h0
  · subst h0; exact BitVec.eq_of_zero_length rfl
  · have hkn : k < n := by rw [← hm]; exact Nat.mod_lt _ h0
    have hb : x.toNat / 2 ^ (n - k) < 2 ^ k := by
      rw [Nat.div_lt_iff_lt_mul (Nat.two_pow_pos _), ← Nat.pow_add, show k + (n - k) = n by omega]
      exact x.isLt
    rw [Nat.mul_comm, Nat.two_pow_add_eq_or_of_lt hb, BitVec.rotateLeft, BitVec.rotateLeftAux, Nat.mod_eq_of_lt hkn]
    apply BitVec.eq_of_toNat_eq
    rw [BitVec.toNat_or, BitVec.toNat_shiftLeft, BitVec.toNat_ushiftRight, BitVec.toNat_ofNat, Nat.or_mod_two_pow,
      Nat.shiftLeft_eq, Nat.shiftRight_eq_div_pow, Nat.mul_comm,
      Nat.mod_eq_of_lt (Nat.lt_of_lt_of_le hb (Nat.pow_le_pow_right (by omega) (Nat.le_of_lt hkn)))]
theorem rorOp_int (x y :
    BitVec n) : rorOp n x y = BitVec.ofNat n (x.toNat / 2 ^ (y.toNat % n) + x.toNat * 2 ^ (n - y.toNat % n)) := by
  have hk : shiftOf y = y.toNat % n := rfl
  rw [rorOp, hk]
  generalize hm : y.toNat % n = k
  rcases Nat.eq_zero_or_pos n with h0 | h0
  · subst h0; exact BitVec.eq_of_zero_length rfl
  · have hkn : k < n := by rw [← hm]; exact Nat.mod_lt _ h0
    have hb : x.toNat / 2 ^ k < 2 ^ (n - k) := by
      rw [Nat.div_lt_iff_lt_mul (Nat.two_pow_pos _), ← Nat.pow_add, show n - k + k = n by omega]
      exact x.isLt
    rw [Nat.add_comm, Nat.mul_comm, Nat.two_pow_add_eq_or_of_lt hb, BitVec.rotateRight, BitVec.rotateRightAux, Nat.mod_eq_of_lt hkn]
    apply BitVec.eq_of_toNat_eq
    rw [BitVec.toNat_or, BitVec.toNat_shiftLeft, BitVec.toNat_ushiftRight, BitVec.toNat_ofNat, Nat.or_mod_two_pow,
      Nat.shiftLeft_eq, Nat.shiftRight_eq_div_pow, Nat.mul_comm (2 ^ (n - k)), Nat.or_comm,
      Nat.mod_eq_of_lt (Nat.lt_of_lt_of_le hb (Nat.pow_le_pow_right (by omega) (by omega : n - k ≤ n)))]

end Sys2Proof.Machine
end

