-- ==== Sys2Proof/Laws/Tables.lean ====
section
/-! SUPPORT. Tables and memory: a read after a write, and the canonical form every operation keeps (R3, R35). -/
namespace Sys2Proof.Machine

/-! ## Tables -/

/-- The key that was set reads as what it was set to. -/
theorem look_put_same {α : Type} (d x : α) (n : Nat) (l : List (Nat × α)) : look d (put n x l) n = x := by
  induction l with
  | nil => simp [put, look]
  | cons e r ih =>
    obtain ⟨k, v⟩ := e
    simp only [put]
    split
    · simp [look]
    · split
      · simp [look]
      · next h2 => simp [look, ih, show ¬ k = n from fun h => h2 h.symm]

/-- Every other key reads as before. -/
theorem look_put_other {α : Type} (d x : α) (n m : Nat) (l : List (Nat × α)) (h : m ≠ n) :
    look d (put n x l) m = look d l m := by
  induction l with
  | nil => simp [put, look, show ¬ n = m from fun e => h e.symm]
  | cons e r ih =>
    obtain ⟨k, v⟩ := e
    simp only [put]
    split
    · simp [look, show ¬ n = m from fun e => h e.symm]
    · split
      · next h2 => subst h2; simp [look, show ¬ n = m from fun e => h e.symm]
      · simp [look, ih]

/-! ## Memory -/

/-- Every listed address lies above a bound. -/
def Memory.above (b : Nat) (m : Memory) : Prop := ∀ c ∈ m, b < c.1

/-- The canonical form of a list with a head: the head is not the unlisted byte, and lies below the rest. -/
theorem Memory.wf_cons (a : Nat) (x : Byte) (r : Memory) :
    Memory.wf ((a, x) :: r) = true ↔ x ≠ unlistedByte ∧ Memory.above a r ∧ Memory.wf r = true := by
  induction r generalizing a x with
  | nil => simp [Memory.wf, Memory.above]
  | cons e r ih =>
    obtain ⟨a', x'⟩ := e
    simp only [Memory.wf, Bool.and_eq_true, bne_iff_ne, decide_eq_true_eq]
    constructor
    · rintro ⟨⟨h1, h2⟩, h3⟩
      refine ⟨h1, ?_, h3⟩
      obtain ⟨-, h5, -⟩ := (ih a' x').1 h3
      intro c hc
      rcases List.mem_cons.1 hc with rfl | hc
      · exact h2
      · exact Nat.lt_trans h2 (h5 c hc)
    · rintro ⟨h1, h2, h3⟩
      exact ⟨⟨h1, h2 (a', x') (List.mem_cons_self ..)⟩, h3⟩

/-- Entries left out keep the canonical form. -/
theorem filter_wf (p : Host.Cell → Bool) (m : Memory) (h : m.wf = true) : Memory.wf (m.filter p) = true := by
  induction m with
  | nil => rfl
  | cons e r ih =>
    obtain ⟨k, v⟩ := e
    obtain ⟨h1, h2, h3⟩ := (Memory.wf_cons k v r).1 h
    simp only [List.filter]
    split
    · exact (Memory.wf_cons _ _ _).2 ⟨h1, fun c hc => h2 c (List.mem_filter.1 hc).1, ih h3⟩
    · exact ih h3

/-- An entry set keeps the others above a bound. -/
theorem memSet_above (a b : Nat) (x : Byte) (m : Memory) (h : m.above b) (hb : b < a) : Memory.above b (memSet a x m) := by
  induction m with
  | nil => intro c hc; simp [memSet] at hc; subst hc; exact hb
  | cons e r ih =>
    obtain ⟨k, v⟩ := e
    have hr : Memory.above b r := fun c hc => h c (List.mem_cons_of_mem _ hc)
    have hk : b < k := h (k, v) (List.mem_cons_self ..)
    intro c hc
    simp only [memSet] at hc
    split at hc
    · rcases List.mem_cons.1 hc with rfl | hc
      · exact hb
      · exact h c hc
    · split at hc
      · rcases List.mem_cons.1 hc with rfl | hc
        · exact hb
        · exact hr c hc
      · rcases List.mem_cons.1 hc with rfl | hc
        · exact hk
        · exact ih hr c hc

/-- An entry set to another byte than the unlisted one keeps the canonical form. -/
theorem memSet_wf (a : Nat) (x : Byte) (m : Memory) (hx : x ≠ unlistedByte) (h : m.wf = true) :
    Memory.wf (memSet a x m) = true := by
  induction m with
  | nil => simpa [memSet, Memory.wf] using hx
  | cons e r ih =>
    obtain ⟨k, v⟩ := e
    obtain ⟨h1, h2, h3⟩ := (Memory.wf_cons k v r).1 h
    simp only [memSet]
    split
    · next hk =>
      refine (Memory.wf_cons _ _ _).2 ⟨hx, ?_, h⟩
      intro c hc
      rcases List.mem_cons.1 hc with rfl | hc
      · exact hk
      · exact Nat.lt_trans hk (h2 c hc)
    · split
      · next hk => subst hk; exact (Memory.wf_cons _ _ _).2 ⟨hx, h2, h3⟩
      · exact (Memory.wf_cons _ _ _).2 ⟨h1, memSet_above _ _ _ _ h2 (by omega), ih h3⟩

/-- A byte written keeps the canonical form. -/
theorem memPut_wf (a : Nat) (x : Byte) (m : Memory) (h : m.wf = true) : Memory.wf (memPut a x m) = true := by
  unfold memPut
  split
  · exact filter_wf _ _ h
  · next hx => exact memSet_wf _ _ _ hx h

/-- Bytes written keep the canonical form. -/
theorem memWrite_wf (bs : List Byte) (m : Memory) (a : Nat) (h : m.wf = true) : Memory.wf (memWrite m a bs) = true := by
  induction bs generalizing m a with
  | nil => exact h
  | cons b r ih => exact ih _ _ (memPut_wf _ _ _ h)

/-- An entry reads as it is set. -/
theorem memGet_memSet (m : Memory) (a b : Nat) (x : Byte) : memGet (memSet a x m) b = if b = a then x else memGet m b := by
  induction m with
  | nil =>
    simp only [memSet, memGet]
    by_cases h : a = b
    · subst h; simp
    · rw [if_neg h, if_neg (fun e => h e.symm)]
  | cons e r ih =>
    obtain ⟨k, v⟩ := e
    by_cases h : a = b
    · subst h
      simp only [memSet]
      split
      · simp [memGet]
      · split
        · simp [memGet]
        · next hk => simp only [memGet, ih]; simp [show ¬ k = a from fun e => hk e.symm]
    · have hb : ¬ b = a := fun e => h e.symm
      simp only [memSet]
      split
      · simp [memGet, h]
      · split
        · next hk => subst hk; simp [memGet, h]
        · simp [memGet, ih, hb]

/-- Entries of an address left out. -/
theorem memGet_filter (m : Memory) (a b : Nat) :
    memGet (m.filter (fun c => c.1 != a)) b = if b = a then unlistedByte else memGet m b := by
  induction m with
  | nil => simp [memGet]
  | cons e r ih =>
    obtain ⟨k, v⟩ := e
    simp only [List.filter]
    split
    · next h =>
      simp only [bne_iff_ne, ne_eq] at h
      simp only [memGet, ih]
      split
      · next h2 => subst h2; rw [if_neg h]
      · rfl
    · next h =>
      simp only [bne_eq_false_iff_eq] at h
      subst h
      simp only [ih, memGet]
      split
      · rfl
      · next h2 => rw [if_neg (fun e => h2 e.symm)]

/-- The byte written reads as what was written, and every other byte as before. -/
theorem memGet_memPut (m : Memory) (a b : Nat) (x : Byte) : memGet (memPut a x m) b = if b = a then x else memGet m b := by
  unfold memPut
  split
  · next h => rw [memGet_filter, h]
  · exact memGet_memSet m a b x

theorem memGet_memPut_same (m : Memory) (a : Nat) (x : Byte) : memGet (memPut a x m) a = x := by simp [memGet_memPut]

theorem memGet_memPut_other (m : Memory) (a b : Nat) (x : Byte) (h : b ≠ a) : memGet (memPut a x m) b = memGet m b := by
  simp [memGet_memPut, h]

/-- The bytes written read as what was written; every other byte reads as before. -/
theorem memGet_memWrite (bs : List Byte) (m : Memory) (a b : Nat) :
    memGet (memWrite m a bs) b = if a ≤ b ∧ b < a + bs.length then bs.getD (b - a) unlistedByte else memGet m b := by
  induction bs generalizing m a with
  | nil =>
    rw [List.length_nil, if_neg (by omega)]
    rfl
  | cons x r ih =>
    rw [memWrite, ih]
    simp only [List.length_cons]
    by_cases hb : b = a
    · subst hb
      have h1 : ¬ (b + 1 ≤ b ∧ b < b + 1 + r.length) := by omega
      rw [if_neg h1, memGet_memPut_same, if_pos (by omega)]
      simp
    · rw [memGet_memPut_other _ _ _ _ hb]
      by_cases h2 : a ≤ b ∧ b < a + (r.length + 1)
      · rw [if_pos (by omega), if_pos h2]
        have : b - a = (b - (a + 1)) + 1 := by omega
        rw [this, List.getD_cons_succ]
      · rw [if_neg (by omega), if_neg h2]

/-- A range left out reads as unlisted; every other byte reads as before. -/
theorem memGet_clear (m : Memory) (a n b : Nat) :
    memGet (m.filter (fun c => !(decide (a ≤ c.1) && decide (c.1 < a + n)))) b =
      if a ≤ b ∧ b < a + n then unlistedByte else memGet m b := by
  induction m with
  | nil => simp [memGet]
  | cons e r ih =>
    obtain ⟨k, v⟩ := e
    by_cases hk : a ≤ k ∧ k < a + n
    · rw [List.filter_cons_of_neg (by simp [hk])]
      rw [ih]
      by_cases hb : a ≤ b ∧ b < a + n
      · simp [hb]
      · have : ¬ k = b := by rintro rfl; exact hb hk
        simp [hb, memGet, this]
    · rw [List.filter_cons_of_pos (by simp; omega)]
      simp only [memGet]
      by_cases hb : a ≤ b ∧ b < a + n
      · have : ¬ k = b := by rintro rfl; exact hk hb
        rw [if_neg this, ih, if_pos hb, if_pos hb]
      · rw [ih, if_neg hb, if_neg hb]

/-! ## The operations over memory in the state -/

theorem writeAt_mem (s : State) (a : Nat) (bs : List Byte) : (s.writeAt a bs).mem = memWrite s.mem a bs := rfl
theorem clearAt_mem (s : State) (a n : Nat) :
    (s.clearAt a n).mem = s.mem.filter (fun c => !(decide (a ≤ c.1) && decide (c.1 < a + n))) := rfl

/-- A plain write at a home keeps the canonical form. -/
theorem writeAt_wf (s : State) (a : Nat) (bs : List Byte) (h : Memory.wf s.mem = true) :
    Memory.wf (s.writeAt a bs).mem = true := memWrite_wf bs s.mem a h

/-- A clear keeps the canonical form. -/
theorem clearAt_wf (s : State) (a n : Nat) (h : Memory.wf s.mem = true) : Memory.wf (s.clearAt a n).mem = true :=
  filter_wf _ _ h

/-- The memory of the reset state has the canonical form. -/
theorem reset_wf : Memory.wf State.reset.mem = true := rfl

/-! ## Little-endian packing (R3) -/

/-- Bytes of a number read back as the number, up to their length. -/
theorem leNat_leBytes (n x : Nat) : leNat (leBytes x n) = x % 256 ^ n := by
  induction n generalizing x with
  | zero => simp [leBytes, leNat, Nat.mod_one]
  | succ n ih =>
    have e : x % 256 ^ (n + 1) = x % 256 + 256 * (x / 256 % 256 ^ n) := by
      rw [show n + 1 = 1 + n by omega, Nat.pow_add, Nat.pow_one, Nat.mod_mul]
    rw [leBytes, leNat, ih, BitVec.toNat_ofNat, e]

theorem leBytes_length (n x : Nat) : (leBytes x n).length = n := by
  induction n generalizing x with
  | zero => rfl
  | succ n ih => simp [leBytes, ih]

theorem memRead_length (m : Memory) (a n : Nat) : (memRead m a n).length = n := by
  induction n generalizing a with
  | zero => rfl
  | succ n ih => simp [memRead, ih]

/-- What a write of bytes reads back as. -/
theorem memRead_memWrite (bs : List Byte) (m : Memory) (a : Nat) :
    memRead (memWrite m a bs) a bs.length = bs := by
  have key : ∀ (n k : Nat), k + n = bs.length → memRead (memWrite m a bs) (a + k) n = bs.drop k := by
    intro n
    induction n with
    | zero => intro k hk; simp [memRead, List.drop_eq_nil_of_le (by omega : bs.length ≤ k)]
    | succ n ih =>
      intro k hk
      have hlt : k < bs.length := by omega
      rw [memRead, memGet_memWrite bs m a (a + k), if_pos (by omega), show a + k - a = k by omega,
        show a + k + 1 = a + (k + 1) by omega, ih (k + 1) (by omega), List.drop_eq_getElem_cons hlt]
      simp [hlt]
  simpa using key bs.length 0 (by omega)

end Sys2Proof.Machine
end

