-- ==== Sys2Proof/Laws/State.lean ====
section
/-! SUPPORT. What each update of the state leaves as it was, field by field, and what it writes. -/
namespace Sys2Proof.Machine

/-! ## setStation -/

@[simp] theorem setStation_mem (s : State) (st : Nat) (x : Station) : (s.setStation st x).mem = s.mem := rfl
@[simp] theorem setStation_empties (s : State) (st : Nat) (x : Station) : (s.setStation st x).empties = s.empties := rfl
@[simp] theorem setStation_poison (s : State) (st : Nat) (x : Station) : (s.setStation st x).poison = s.poison := rfl
@[simp] theorem setStation_clusters (s : State) (st : Nat) (x : Station) : (s.setStation st x).clusters = s.clusters := rfl
@[simp] theorem setStation_dies (s : State) (st : Nat) (x : Station) : (s.setStation st x).dies = s.dies := rfl
@[simp] theorem setStation_now (s : State) (st : Nat) (x : Station) : (s.setStation st x).now = s.now := rfl
@[simp] theorem setStation_ops (s : State) (st : Nat) (x : Station) : (s.setStation st x).ops = s.ops := rfl
@[simp] theorem setStation_cur (s : State) (st : Nat) (x : Station) : (s.setStation st x).cur = s.cur := rfl
@[simp] theorem setStation_waits (s : State) (st : Nat) (x : Station) : (s.setStation st x).waits = s.waits := rfl
@[simp] theorem setStation_agenda (s : State) (st : Nat) (x : Station) : (s.setStation st x).agenda = s.agenda := rfl
@[simp] theorem setStation_schedule (s : State) (st : Nat) (x : Station) : (s.setStation st x).schedule = s.schedule := rfl
@[simp] theorem setStation_waiting (s : State) (st : Nat) (x : Station) : (s.setStation st x).waiting = s.waiting := rfl
@[simp] theorem setStation_parked (s : State) (st : Nat) (x : Station) : (s.setStation st x).parked = s.parked := rfl
@[simp] theorem setStation_behind (s : State) (st : Nat) (x : Station) : (s.setStation st x).behind = s.behind := rfl
@[simp] theorem setStation_owners (s : State) (st : Nat) (x : Station) : (s.setStation st x).owners = s.owners := rfl
@[simp] theorem setStation_tlb (s : State) (st : Nat) (x : Station) : (s.setStation st x).tlb = s.tlb := rfl
@[simp] theorem setStation_walks (s : State) (st : Nat) (x : Station) : (s.setStation st x).walks = s.walks := rfl
@[simp] theorem setStation_lines (s : State) (st : Nat) (x : Station) : (s.setStation st x).lines = s.lines := rfl
@[simp] theorem setStation_stamp (s : State) (st : Nat) (x : Station) : (s.setStation st x).stamp = s.stamp := rfl
@[simp] theorem setStation_migrations (s : State) (st : Nat) (x : Station) : (s.setStation st x).migrations = s.migrations := rfl
@[simp] theorem setStation_faultNotices (s : State) (st : Nat) (x : Station) : (s.setStation st x).faultNotices = s.faultNotices := rfl
@[simp] theorem setStation_unsentNotices (s : State) (st : Nat) (x : Station) : (s.setStation st x).unsentNotices = s.unsentNotices := rfl
@[simp] theorem setStation_noticesDue (s : State) (st : Nat) (x : Station) : (s.setStation st x).noticesDue = s.noticesDue := rfl
@[simp] theorem setStation_noticesSent (s : State) (st : Nat) (x : Station) : (s.setStation st x).noticesSent = s.noticesSent := rfl
@[simp] theorem setStation_shootdowns (s : State) (st : Nat) (x : Station) : (s.setStation st x).shootdowns = s.shootdowns := rfl
@[simp] theorem setStation_repointed (s : State) (st : Nat) (x : Station) : (s.setStation st x).repointed = s.repointed := rfl
@[simp] theorem setStation_broadcasts (s : State) (st : Nat) (x : Station) : (s.setStation st x).broadcasts = s.broadcasts := rfl
@[simp] theorem setStation_banks (s : State) (st : Nat) (x : Station) : (s.setStation st x).banks = s.banks := rfl
@[simp] theorem setStation_errOrder (s : State) (st : Nat) (x : Station) : (s.setStation st x).errOrder = s.errOrder := rfl
@[simp] theorem setStation_journal (s : State) (st : Nat) (x : Station) : (s.setStation st x).journal = s.journal := rfl
@[simp] theorem setStation_classcfg (s : State) (st : Nat) (x : Station) : (s.setStation st x).classcfg = s.classcfg := rfl
@[simp] theorem setStation_asroot (s : State) (st : Nat) (x : Station) : (s.setStation st x).asroot = s.asroot := rfl
@[simp] theorem setStation_status (s : State) (st : Nat) (x : Station) : (s.setStation st x).status = s.status := rfl
@[simp] theorem setStation_vacant (s : State) (st : Nat) (x : Station) : (s.setStation st x).vacant = s.vacant := rfl
@[simp] theorem setStation_master (s : State) (st : Nat) (x : Station) : (s.setStation st x).master = s.master := rfl
@[simp] theorem setStation_claims (s : State) (st : Nat) (x : Station) : (s.setStation st x).claims = s.claims := rfl
@[simp] theorem setStation_election (s : State) (st : Nat) (x : Station) : (s.setStation st x).election = s.election := rfl
@[simp] theorem setStation_fnmodeset (s : State) (st : Nat) (x : Station) : (s.setStation st x).fnmodeset = s.fnmodeset := rfl
@[simp] theorem setStation_fnmode (s : State) (st : Nat) (x : Station) : (s.setStation st x).fnmode = s.fnmode := rfl
@[simp] theorem setStation_notice (s : State) (st : Nat) (x : Station) : (s.setStation st x).notice = s.notice := rfl
@[simp] theorem setStation_dbgctl (s : State) (st : Nat) (x : Station) : (s.setStation st x).dbgctl = s.dbgctl := rfl
@[simp] theorem setStation_lastSeq (s : State) (st : Nat) (x : Station) : (s.setStation st x).lastSeq = s.lastSeq := rfl
@[simp] theorem setStation_cxl (s : State) (st : Nat) (x : Station) : (s.setStation st x).cxl = s.cxl := rfl
@[simp] theorem setStation_silent (s : State) (st : Nat) (x : Station) : (s.setStation st x).silent = s.silent := rfl
@[simp] theorem setStation_absent (s : State) (st : Nat) (x : Station) : (s.setStation st x).absent = s.absent := rfl
@[simp] theorem setStation_boot (s : State) (st : Nat) (x : Station) : (s.setStation st x).boot = s.boot := rfl
@[simp] theorem setStation_sram (s : State) (st : Nat) (x : Station) : (s.setStation st x).sram = s.sram := rfl
@[simp] theorem setStation_hbper (s : State) (st : Nat) (x : Station) : (s.setStation st x).hbper = s.hbper := rfl

/-! ## modStation -/

@[simp] theorem modStation_mem (s : State) (st : Nat) (f : Station → Station) : (s.modStation st f).mem = s.mem := rfl
@[simp] theorem modStation_empties (s : State) (st : Nat) (f : Station → Station) : (s.modStation st f).empties = s.empties := rfl
@[simp] theorem modStation_poison (s : State) (st : Nat) (f : Station → Station) : (s.modStation st f).poison = s.poison := rfl
@[simp] theorem modStation_clusters (s : State) (st : Nat) (f : Station → Station) : (s.modStation st f).clusters = s.clusters := rfl
@[simp] theorem modStation_dies (s : State) (st : Nat) (f : Station → Station) : (s.modStation st f).dies = s.dies := rfl
@[simp] theorem modStation_now (s : State) (st : Nat) (f : Station → Station) : (s.modStation st f).now = s.now := rfl
@[simp] theorem modStation_ops (s : State) (st : Nat) (f : Station → Station) : (s.modStation st f).ops = s.ops := rfl
@[simp] theorem modStation_cur (s : State) (st : Nat) (f : Station → Station) : (s.modStation st f).cur = s.cur := rfl
@[simp] theorem modStation_waits (s : State) (st : Nat) (f : Station → Station) : (s.modStation st f).waits = s.waits := rfl
@[simp] theorem modStation_agenda (s : State) (st : Nat) (f : Station → Station) : (s.modStation st f).agenda = s.agenda := rfl
@[simp] theorem modStation_schedule (s : State) (st : Nat) (f : Station → Station) : (s.modStation st f).schedule = s.schedule := rfl
@[simp] theorem modStation_waiting (s : State) (st : Nat) (f : Station → Station) : (s.modStation st f).waiting = s.waiting := rfl
@[simp] theorem modStation_parked (s : State) (st : Nat) (f : Station → Station) : (s.modStation st f).parked = s.parked := rfl
@[simp] theorem modStation_behind (s : State) (st : Nat) (f : Station → Station) : (s.modStation st f).behind = s.behind := rfl
@[simp] theorem modStation_owners (s : State) (st : Nat) (f : Station → Station) : (s.modStation st f).owners = s.owners := rfl
@[simp] theorem modStation_tlb (s : State) (st : Nat) (f : Station → Station) : (s.modStation st f).tlb = s.tlb := rfl
@[simp] theorem modStation_walks (s : State) (st : Nat) (f : Station → Station) : (s.modStation st f).walks = s.walks := rfl
@[simp] theorem modStation_lines (s : State) (st : Nat) (f : Station → Station) : (s.modStation st f).lines = s.lines := rfl
@[simp] theorem modStation_stamp (s : State) (st : Nat) (f : Station → Station) : (s.modStation st f).stamp = s.stamp := rfl
@[simp] theorem modStation_migrations (s : State) (st : Nat) (f : Station → Station) : (s.modStation st f).migrations = s.migrations := rfl
@[simp] theorem modStation_faultNotices (s : State) (st : Nat) (f : Station → Station) : (s.modStation st f).faultNotices = s.faultNotices := rfl
@[simp] theorem modStation_unsentNotices (s : State) (st : Nat) (f : Station → Station) : (s.modStation st f).unsentNotices = s.unsentNotices := rfl
@[simp] theorem modStation_noticesDue (s : State) (st : Nat) (f : Station → Station) : (s.modStation st f).noticesDue = s.noticesDue := rfl
@[simp] theorem modStation_noticesSent (s : State) (st : Nat) (f : Station → Station) : (s.modStation st f).noticesSent = s.noticesSent := rfl
@[simp] theorem modStation_shootdowns (s : State) (st : Nat) (f : Station → Station) : (s.modStation st f).shootdowns = s.shootdowns := rfl
@[simp] theorem modStation_repointed (s : State) (st : Nat) (f : Station → Station) : (s.modStation st f).repointed = s.repointed := rfl
@[simp] theorem modStation_broadcasts (s : State) (st : Nat) (f : Station → Station) : (s.modStation st f).broadcasts = s.broadcasts := rfl
@[simp] theorem modStation_banks (s : State) (st : Nat) (f : Station → Station) : (s.modStation st f).banks = s.banks := rfl
@[simp] theorem modStation_errOrder (s : State) (st : Nat) (f : Station → Station) : (s.modStation st f).errOrder = s.errOrder := rfl
@[simp] theorem modStation_journal (s : State) (st : Nat) (f : Station → Station) : (s.modStation st f).journal = s.journal := rfl
@[simp] theorem modStation_classcfg (s : State) (st : Nat) (f : Station → Station) : (s.modStation st f).classcfg = s.classcfg := rfl
@[simp] theorem modStation_asroot (s : State) (st : Nat) (f : Station → Station) : (s.modStation st f).asroot = s.asroot := rfl
@[simp] theorem modStation_status (s : State) (st : Nat) (f : Station → Station) : (s.modStation st f).status = s.status := rfl
@[simp] theorem modStation_vacant (s : State) (st : Nat) (f : Station → Station) : (s.modStation st f).vacant = s.vacant := rfl
@[simp] theorem modStation_master (s : State) (st : Nat) (f : Station → Station) : (s.modStation st f).master = s.master := rfl
@[simp] theorem modStation_claims (s : State) (st : Nat) (f : Station → Station) : (s.modStation st f).claims = s.claims := rfl
@[simp] theorem modStation_election (s : State) (st : Nat) (f : Station → Station) : (s.modStation st f).election = s.election := rfl
@[simp] theorem modStation_fnmodeset (s : State) (st : Nat) (f : Station → Station) : (s.modStation st f).fnmodeset = s.fnmodeset := rfl
@[simp] theorem modStation_fnmode (s : State) (st : Nat) (f : Station → Station) : (s.modStation st f).fnmode = s.fnmode := rfl
@[simp] theorem modStation_notice (s : State) (st : Nat) (f : Station → Station) : (s.modStation st f).notice = s.notice := rfl
@[simp] theorem modStation_dbgctl (s : State) (st : Nat) (f : Station → Station) : (s.modStation st f).dbgctl = s.dbgctl := rfl
@[simp] theorem modStation_lastSeq (s : State) (st : Nat) (f : Station → Station) : (s.modStation st f).lastSeq = s.lastSeq := rfl
@[simp] theorem modStation_cxl (s : State) (st : Nat) (f : Station → Station) : (s.modStation st f).cxl = s.cxl := rfl
@[simp] theorem modStation_silent (s : State) (st : Nat) (f : Station → Station) : (s.modStation st f).silent = s.silent := rfl
@[simp] theorem modStation_absent (s : State) (st : Nat) (f : Station → Station) : (s.modStation st f).absent = s.absent := rfl
@[simp] theorem modStation_boot (s : State) (st : Nat) (f : Station → Station) : (s.modStation st f).boot = s.boot := rfl
@[simp] theorem modStation_sram (s : State) (st : Nat) (f : Station → Station) : (s.modStation st f).sram = s.sram := rfl
@[simp] theorem modStation_hbper (s : State) (st : Nat) (f : Station → Station) : (s.modStation st f).hbper = s.hbper := rfl

/-! ## setHolder -/

@[simp] theorem setHolder_mem (s : State) (w : Who) (h : Holder) : (s.setHolder w h).mem = s.mem := rfl
@[simp] theorem setHolder_empties (s : State) (w : Who) (h : Holder) : (s.setHolder w h).empties = s.empties := rfl
@[simp] theorem setHolder_poison (s : State) (w : Who) (h : Holder) : (s.setHolder w h).poison = s.poison := rfl
@[simp] theorem setHolder_clusters (s : State) (w : Who) (h : Holder) : (s.setHolder w h).clusters = s.clusters := rfl
@[simp] theorem setHolder_dies (s : State) (w : Who) (h : Holder) : (s.setHolder w h).dies = s.dies := rfl
@[simp] theorem setHolder_now (s : State) (w : Who) (h : Holder) : (s.setHolder w h).now = s.now := rfl
@[simp] theorem setHolder_ops (s : State) (w : Who) (h : Holder) : (s.setHolder w h).ops = s.ops := rfl
@[simp] theorem setHolder_cur (s : State) (w : Who) (h : Holder) : (s.setHolder w h).cur = s.cur := rfl
@[simp] theorem setHolder_waits (s : State) (w : Who) (h : Holder) : (s.setHolder w h).waits = s.waits := rfl
@[simp] theorem setHolder_agenda (s : State) (w : Who) (h : Holder) : (s.setHolder w h).agenda = s.agenda := rfl
@[simp] theorem setHolder_schedule (s : State) (w : Who) (h : Holder) : (s.setHolder w h).schedule = s.schedule := rfl
@[simp] theorem setHolder_waiting (s : State) (w : Who) (h : Holder) : (s.setHolder w h).waiting = s.waiting := rfl
@[simp] theorem setHolder_parked (s : State) (w : Who) (h : Holder) : (s.setHolder w h).parked = s.parked := rfl
@[simp] theorem setHolder_behind (s : State) (w : Who) (h : Holder) : (s.setHolder w h).behind = s.behind := rfl
@[simp] theorem setHolder_owners (s : State) (w : Who) (h : Holder) : (s.setHolder w h).owners = s.owners := rfl
@[simp] theorem setHolder_tlb (s : State) (w : Who) (h : Holder) : (s.setHolder w h).tlb = s.tlb := rfl
@[simp] theorem setHolder_walks (s : State) (w : Who) (h : Holder) : (s.setHolder w h).walks = s.walks := rfl
@[simp] theorem setHolder_lines (s : State) (w : Who) (h : Holder) : (s.setHolder w h).lines = s.lines := rfl
@[simp] theorem setHolder_stamp (s : State) (w : Who) (h : Holder) : (s.setHolder w h).stamp = s.stamp := rfl
@[simp] theorem setHolder_migrations (s : State) (w : Who) (h : Holder) : (s.setHolder w h).migrations = s.migrations := rfl
@[simp] theorem setHolder_faultNotices (s : State) (w : Who) (h : Holder) : (s.setHolder w h).faultNotices = s.faultNotices := rfl
@[simp] theorem setHolder_unsentNotices (s : State) (w : Who) (h : Holder) : (s.setHolder w h).unsentNotices = s.unsentNotices := rfl
@[simp] theorem setHolder_noticesDue (s : State) (w : Who) (h : Holder) : (s.setHolder w h).noticesDue = s.noticesDue := rfl
@[simp] theorem setHolder_noticesSent (s : State) (w : Who) (h : Holder) : (s.setHolder w h).noticesSent = s.noticesSent := rfl
@[simp] theorem setHolder_shootdowns (s : State) (w : Who) (h : Holder) : (s.setHolder w h).shootdowns = s.shootdowns := rfl
@[simp] theorem setHolder_repointed (s : State) (w : Who) (h : Holder) : (s.setHolder w h).repointed = s.repointed := rfl
@[simp] theorem setHolder_broadcasts (s : State) (w : Who) (h : Holder) : (s.setHolder w h).broadcasts = s.broadcasts := rfl
@[simp] theorem setHolder_banks (s : State) (w : Who) (h : Holder) : (s.setHolder w h).banks = s.banks := rfl
@[simp] theorem setHolder_errOrder (s : State) (w : Who) (h : Holder) : (s.setHolder w h).errOrder = s.errOrder := rfl
@[simp] theorem setHolder_journal (s : State) (w : Who) (h : Holder) : (s.setHolder w h).journal = s.journal := rfl
@[simp] theorem setHolder_classcfg (s : State) (w : Who) (h : Holder) : (s.setHolder w h).classcfg = s.classcfg := rfl
@[simp] theorem setHolder_asroot (s : State) (w : Who) (h : Holder) : (s.setHolder w h).asroot = s.asroot := rfl
@[simp] theorem setHolder_status (s : State) (w : Who) (h : Holder) : (s.setHolder w h).status = s.status := rfl
@[simp] theorem setHolder_vacant (s : State) (w : Who) (h : Holder) : (s.setHolder w h).vacant = s.vacant := rfl
@[simp] theorem setHolder_master (s : State) (w : Who) (h : Holder) : (s.setHolder w h).master = s.master := rfl
@[simp] theorem setHolder_claims (s : State) (w : Who) (h : Holder) : (s.setHolder w h).claims = s.claims := rfl
@[simp] theorem setHolder_election (s : State) (w : Who) (h : Holder) : (s.setHolder w h).election = s.election := rfl
@[simp] theorem setHolder_fnmodeset (s : State) (w : Who) (h : Holder) : (s.setHolder w h).fnmodeset = s.fnmodeset := rfl
@[simp] theorem setHolder_fnmode (s : State) (w : Who) (h : Holder) : (s.setHolder w h).fnmode = s.fnmode := rfl
@[simp] theorem setHolder_notice (s : State) (w : Who) (h : Holder) : (s.setHolder w h).notice = s.notice := rfl
@[simp] theorem setHolder_dbgctl (s : State) (w : Who) (h : Holder) : (s.setHolder w h).dbgctl = s.dbgctl := rfl
@[simp] theorem setHolder_lastSeq (s : State) (w : Who) (h : Holder) : (s.setHolder w h).lastSeq = s.lastSeq := rfl
@[simp] theorem setHolder_cxl (s : State) (w : Who) (h : Holder) : (s.setHolder w h).cxl = s.cxl := rfl
@[simp] theorem setHolder_silent (s : State) (w : Who) (h : Holder) : (s.setHolder w h).silent = s.silent := rfl
@[simp] theorem setHolder_absent (s : State) (w : Who) (h : Holder) : (s.setHolder w h).absent = s.absent := rfl
@[simp] theorem setHolder_boot (s : State) (w : Who) (h : Holder) : (s.setHolder w h).boot = s.boot := rfl
@[simp] theorem setHolder_sram (s : State) (w : Who) (h : Holder) : (s.setHolder w h).sram = s.sram := rfl
@[simp] theorem setHolder_hbper (s : State) (w : Who) (h : Holder) : (s.setHolder w h).hbper = s.hbper := rfl

/-! ## modHolder -/

@[simp] theorem modHolder_mem (s : State) (w : Who) (f : Holder → Holder) : (s.modHolder w f).mem = s.mem := rfl
@[simp] theorem modHolder_empties (s : State) (w : Who) (f : Holder → Holder) : (s.modHolder w f).empties = s.empties := rfl
@[simp] theorem modHolder_poison (s : State) (w : Who) (f : Holder → Holder) : (s.modHolder w f).poison = s.poison := rfl
@[simp] theorem modHolder_clusters (s : State) (w : Who) (f : Holder → Holder) : (s.modHolder w f).clusters = s.clusters := rfl
@[simp] theorem modHolder_dies (s : State) (w : Who) (f : Holder → Holder) : (s.modHolder w f).dies = s.dies := rfl
@[simp] theorem modHolder_now (s : State) (w : Who) (f : Holder → Holder) : (s.modHolder w f).now = s.now := rfl
@[simp] theorem modHolder_ops (s : State) (w : Who) (f : Holder → Holder) : (s.modHolder w f).ops = s.ops := rfl
@[simp] theorem modHolder_cur (s : State) (w : Who) (f : Holder → Holder) : (s.modHolder w f).cur = s.cur := rfl
@[simp] theorem modHolder_waits (s : State) (w : Who) (f : Holder → Holder) : (s.modHolder w f).waits = s.waits := rfl
@[simp] theorem modHolder_agenda (s : State) (w : Who) (f : Holder → Holder) : (s.modHolder w f).agenda = s.agenda := rfl
@[simp] theorem modHolder_schedule (s : State) (w : Who) (f : Holder → Holder) : (s.modHolder w f).schedule = s.schedule := rfl
@[simp] theorem modHolder_waiting (s : State) (w : Who) (f : Holder → Holder) : (s.modHolder w f).waiting = s.waiting := rfl
@[simp] theorem modHolder_parked (s : State) (w : Who) (f : Holder → Holder) : (s.modHolder w f).parked = s.parked := rfl
@[simp] theorem modHolder_behind (s : State) (w : Who) (f : Holder → Holder) : (s.modHolder w f).behind = s.behind := rfl
@[simp] theorem modHolder_owners (s : State) (w : Who) (f : Holder → Holder) : (s.modHolder w f).owners = s.owners := rfl
@[simp] theorem modHolder_tlb (s : State) (w : Who) (f : Holder → Holder) : (s.modHolder w f).tlb = s.tlb := rfl
@[simp] theorem modHolder_walks (s : State) (w : Who) (f : Holder → Holder) : (s.modHolder w f).walks = s.walks := rfl
@[simp] theorem modHolder_lines (s : State) (w : Who) (f : Holder → Holder) : (s.modHolder w f).lines = s.lines := rfl
@[simp] theorem modHolder_stamp (s : State) (w : Who) (f : Holder → Holder) : (s.modHolder w f).stamp = s.stamp := rfl
@[simp] theorem modHolder_migrations (s : State) (w : Who) (f : Holder → Holder) : (s.modHolder w f).migrations = s.migrations := rfl
@[simp] theorem modHolder_faultNotices (s : State) (w : Who) (f : Holder → Holder) : (s.modHolder w f).faultNotices = s.faultNotices := rfl
@[simp] theorem modHolder_unsentNotices (s : State) (w : Who) (f : Holder → Holder) : (s.modHolder w f).unsentNotices = s.unsentNotices := rfl
@[simp] theorem modHolder_noticesDue (s : State) (w : Who) (f : Holder → Holder) : (s.modHolder w f).noticesDue = s.noticesDue := rfl
@[simp] theorem modHolder_noticesSent (s : State) (w : Who) (f : Holder → Holder) : (s.modHolder w f).noticesSent = s.noticesSent := rfl
@[simp] theorem modHolder_shootdowns (s : State) (w : Who) (f : Holder → Holder) : (s.modHolder w f).shootdowns = s.shootdowns := rfl
@[simp] theorem modHolder_repointed (s : State) (w : Who) (f : Holder → Holder) : (s.modHolder w f).repointed = s.repointed := rfl
@[simp] theorem modHolder_broadcasts (s : State) (w : Who) (f : Holder → Holder) : (s.modHolder w f).broadcasts = s.broadcasts := rfl
@[simp] theorem modHolder_banks (s : State) (w : Who) (f : Holder → Holder) : (s.modHolder w f).banks = s.banks := rfl
@[simp] theorem modHolder_errOrder (s : State) (w : Who) (f : Holder → Holder) : (s.modHolder w f).errOrder = s.errOrder := rfl
@[simp] theorem modHolder_journal (s : State) (w : Who) (f : Holder → Holder) : (s.modHolder w f).journal = s.journal := rfl
@[simp] theorem modHolder_classcfg (s : State) (w : Who) (f : Holder → Holder) : (s.modHolder w f).classcfg = s.classcfg := rfl
@[simp] theorem modHolder_asroot (s : State) (w : Who) (f : Holder → Holder) : (s.modHolder w f).asroot = s.asroot := rfl
@[simp] theorem modHolder_status (s : State) (w : Who) (f : Holder → Holder) : (s.modHolder w f).status = s.status := rfl
@[simp] theorem modHolder_vacant (s : State) (w : Who) (f : Holder → Holder) : (s.modHolder w f).vacant = s.vacant := rfl
@[simp] theorem modHolder_master (s : State) (w : Who) (f : Holder → Holder) : (s.modHolder w f).master = s.master := rfl
@[simp] theorem modHolder_claims (s : State) (w : Who) (f : Holder → Holder) : (s.modHolder w f).claims = s.claims := rfl
@[simp] theorem modHolder_election (s : State) (w : Who) (f : Holder → Holder) : (s.modHolder w f).election = s.election := rfl
@[simp] theorem modHolder_fnmodeset (s : State) (w : Who) (f : Holder → Holder) : (s.modHolder w f).fnmodeset = s.fnmodeset := rfl
@[simp] theorem modHolder_fnmode (s : State) (w : Who) (f : Holder → Holder) : (s.modHolder w f).fnmode = s.fnmode := rfl
@[simp] theorem modHolder_notice (s : State) (w : Who) (f : Holder → Holder) : (s.modHolder w f).notice = s.notice := rfl
@[simp] theorem modHolder_dbgctl (s : State) (w : Who) (f : Holder → Holder) : (s.modHolder w f).dbgctl = s.dbgctl := rfl
@[simp] theorem modHolder_lastSeq (s : State) (w : Who) (f : Holder → Holder) : (s.modHolder w f).lastSeq = s.lastSeq := rfl
@[simp] theorem modHolder_cxl (s : State) (w : Who) (f : Holder → Holder) : (s.modHolder w f).cxl = s.cxl := rfl
@[simp] theorem modHolder_silent (s : State) (w : Who) (f : Holder → Holder) : (s.modHolder w f).silent = s.silent := rfl
@[simp] theorem modHolder_absent (s : State) (w : Who) (f : Holder → Holder) : (s.modHolder w f).absent = s.absent := rfl
@[simp] theorem modHolder_boot (s : State) (w : Who) (f : Holder → Holder) : (s.modHolder w f).boot = s.boot := rfl
@[simp] theorem modHolder_sram (s : State) (w : Who) (f : Holder → Holder) : (s.modHolder w f).sram = s.sram := rfl
@[simp] theorem modHolder_hbper (s : State) (w : Who) (f : Holder → Holder) : (s.modHolder w f).hbper = s.hbper := rfl

/-! ## modCluster -/

@[simp] theorem modCluster_mem (s : State) (k : Nat) (f : Cluster → Cluster) : (s.modCluster k f).mem = s.mem := rfl
@[simp] theorem modCluster_empties (s : State) (k : Nat) (f : Cluster → Cluster) : (s.modCluster k f).empties = s.empties := rfl
@[simp] theorem modCluster_poison (s : State) (k : Nat) (f : Cluster → Cluster) : (s.modCluster k f).poison = s.poison := rfl
@[simp] theorem modCluster_stations (s : State) (k : Nat) (f : Cluster → Cluster) : (s.modCluster k f).stations = s.stations := rfl
@[simp] theorem modCluster_dies (s : State) (k : Nat) (f : Cluster → Cluster) : (s.modCluster k f).dies = s.dies := rfl
@[simp] theorem modCluster_now (s : State) (k : Nat) (f : Cluster → Cluster) : (s.modCluster k f).now = s.now := rfl
@[simp] theorem modCluster_ops (s : State) (k : Nat) (f : Cluster → Cluster) : (s.modCluster k f).ops = s.ops := rfl
@[simp] theorem modCluster_cur (s : State) (k : Nat) (f : Cluster → Cluster) : (s.modCluster k f).cur = s.cur := rfl
@[simp] theorem modCluster_waits (s : State) (k : Nat) (f : Cluster → Cluster) : (s.modCluster k f).waits = s.waits := rfl
@[simp] theorem modCluster_agenda (s : State) (k : Nat) (f : Cluster → Cluster) : (s.modCluster k f).agenda = s.agenda := rfl
@[simp] theorem modCluster_schedule (s : State) (k : Nat) (f : Cluster → Cluster) : (s.modCluster k f).schedule = s.schedule := rfl
@[simp] theorem modCluster_waiting (s : State) (k : Nat) (f : Cluster → Cluster) : (s.modCluster k f).waiting = s.waiting := rfl
@[simp] theorem modCluster_parked (s : State) (k : Nat) (f : Cluster → Cluster) : (s.modCluster k f).parked = s.parked := rfl
@[simp] theorem modCluster_behind (s : State) (k : Nat) (f : Cluster → Cluster) : (s.modCluster k f).behind = s.behind := rfl
@[simp] theorem modCluster_owners (s : State) (k : Nat) (f : Cluster → Cluster) : (s.modCluster k f).owners = s.owners := rfl
@[simp] theorem modCluster_tlb (s : State) (k : Nat) (f : Cluster → Cluster) : (s.modCluster k f).tlb = s.tlb := rfl
@[simp] theorem modCluster_walks (s : State) (k : Nat) (f : Cluster → Cluster) : (s.modCluster k f).walks = s.walks := rfl
@[simp] theorem modCluster_lines (s : State) (k : Nat) (f : Cluster → Cluster) : (s.modCluster k f).lines = s.lines := rfl
@[simp] theorem modCluster_stamp (s : State) (k : Nat) (f : Cluster → Cluster) : (s.modCluster k f).stamp = s.stamp := rfl
@[simp] theorem modCluster_migrations (s : State) (k : Nat) (f : Cluster → Cluster) : (s.modCluster k f).migrations = s.migrations := rfl
@[simp] theorem modCluster_faultNotices (s : State) (k : Nat) (f : Cluster → Cluster) : (s.modCluster k f).faultNotices = s.faultNotices := rfl
@[simp] theorem modCluster_unsentNotices (s : State) (k : Nat) (f : Cluster → Cluster) : (s.modCluster k f).unsentNotices = s.unsentNotices := rfl
@[simp] theorem modCluster_noticesDue (s : State) (k : Nat) (f : Cluster → Cluster) : (s.modCluster k f).noticesDue = s.noticesDue := rfl
@[simp] theorem modCluster_noticesSent (s : State) (k : Nat) (f : Cluster → Cluster) : (s.modCluster k f).noticesSent = s.noticesSent := rfl
@[simp] theorem modCluster_shootdowns (s : State) (k : Nat) (f : Cluster → Cluster) : (s.modCluster k f).shootdowns = s.shootdowns := rfl
@[simp] theorem modCluster_repointed (s : State) (k : Nat) (f : Cluster → Cluster) : (s.modCluster k f).repointed = s.repointed := rfl
@[simp] theorem modCluster_broadcasts (s : State) (k : Nat) (f : Cluster → Cluster) : (s.modCluster k f).broadcasts = s.broadcasts := rfl
@[simp] theorem modCluster_banks (s : State) (k : Nat) (f : Cluster → Cluster) : (s.modCluster k f).banks = s.banks := rfl
@[simp] theorem modCluster_errOrder (s : State) (k : Nat) (f : Cluster → Cluster) : (s.modCluster k f).errOrder = s.errOrder := rfl
@[simp] theorem modCluster_journal (s : State) (k : Nat) (f : Cluster → Cluster) : (s.modCluster k f).journal = s.journal := rfl
@[simp] theorem modCluster_classcfg (s : State) (k : Nat) (f : Cluster → Cluster) : (s.modCluster k f).classcfg = s.classcfg := rfl
@[simp] theorem modCluster_asroot (s : State) (k : Nat) (f : Cluster → Cluster) : (s.modCluster k f).asroot = s.asroot := rfl
@[simp] theorem modCluster_status (s : State) (k : Nat) (f : Cluster → Cluster) : (s.modCluster k f).status = s.status := rfl
@[simp] theorem modCluster_vacant (s : State) (k : Nat) (f : Cluster → Cluster) : (s.modCluster k f).vacant = s.vacant := rfl
@[simp] theorem modCluster_master (s : State) (k : Nat) (f : Cluster → Cluster) : (s.modCluster k f).master = s.master := rfl
@[simp] theorem modCluster_claims (s : State) (k : Nat) (f : Cluster → Cluster) : (s.modCluster k f).claims = s.claims := rfl
@[simp] theorem modCluster_election (s : State) (k : Nat) (f : Cluster → Cluster) : (s.modCluster k f).election = s.election := rfl
@[simp] theorem modCluster_fnmodeset (s : State) (k : Nat) (f : Cluster → Cluster) : (s.modCluster k f).fnmodeset = s.fnmodeset := rfl
@[simp] theorem modCluster_fnmode (s : State) (k : Nat) (f : Cluster → Cluster) : (s.modCluster k f).fnmode = s.fnmode := rfl
@[simp] theorem modCluster_notice (s : State) (k : Nat) (f : Cluster → Cluster) : (s.modCluster k f).notice = s.notice := rfl
@[simp] theorem modCluster_dbgctl (s : State) (k : Nat) (f : Cluster → Cluster) : (s.modCluster k f).dbgctl = s.dbgctl := rfl
@[simp] theorem modCluster_lastSeq (s : State) (k : Nat) (f : Cluster → Cluster) : (s.modCluster k f).lastSeq = s.lastSeq := rfl
@[simp] theorem modCluster_cxl (s : State) (k : Nat) (f : Cluster → Cluster) : (s.modCluster k f).cxl = s.cxl := rfl
@[simp] theorem modCluster_silent (s : State) (k : Nat) (f : Cluster → Cluster) : (s.modCluster k f).silent = s.silent := rfl
@[simp] theorem modCluster_absent (s : State) (k : Nat) (f : Cluster → Cluster) : (s.modCluster k f).absent = s.absent := rfl
@[simp] theorem modCluster_boot (s : State) (k : Nat) (f : Cluster → Cluster) : (s.modCluster k f).boot = s.boot := rfl
@[simp] theorem modCluster_sram (s : State) (k : Nat) (f : Cluster → Cluster) : (s.modCluster k f).sram = s.sram := rfl
@[simp] theorem modCluster_hbper (s : State) (k : Nat) (f : Cluster → Cluster) : (s.modCluster k f).hbper = s.hbper := rfl

/-! ## modDie -/

@[simp] theorem modDie_mem (s : State) (k : Nat) (f : Die → Die) : (s.modDie k f).mem = s.mem := rfl
@[simp] theorem modDie_empties (s : State) (k : Nat) (f : Die → Die) : (s.modDie k f).empties = s.empties := rfl
@[simp] theorem modDie_poison (s : State) (k : Nat) (f : Die → Die) : (s.modDie k f).poison = s.poison := rfl
@[simp] theorem modDie_stations (s : State) (k : Nat) (f : Die → Die) : (s.modDie k f).stations = s.stations := rfl
@[simp] theorem modDie_clusters (s : State) (k : Nat) (f : Die → Die) : (s.modDie k f).clusters = s.clusters := rfl
@[simp] theorem modDie_now (s : State) (k : Nat) (f : Die → Die) : (s.modDie k f).now = s.now := rfl
@[simp] theorem modDie_ops (s : State) (k : Nat) (f : Die → Die) : (s.modDie k f).ops = s.ops := rfl
@[simp] theorem modDie_cur (s : State) (k : Nat) (f : Die → Die) : (s.modDie k f).cur = s.cur := rfl
@[simp] theorem modDie_waits (s : State) (k : Nat) (f : Die → Die) : (s.modDie k f).waits = s.waits := rfl
@[simp] theorem modDie_agenda (s : State) (k : Nat) (f : Die → Die) : (s.modDie k f).agenda = s.agenda := rfl
@[simp] theorem modDie_schedule (s : State) (k : Nat) (f : Die → Die) : (s.modDie k f).schedule = s.schedule := rfl
@[simp] theorem modDie_waiting (s : State) (k : Nat) (f : Die → Die) : (s.modDie k f).waiting = s.waiting := rfl
@[simp] theorem modDie_parked (s : State) (k : Nat) (f : Die → Die) : (s.modDie k f).parked = s.parked := rfl
@[simp] theorem modDie_behind (s : State) (k : Nat) (f : Die → Die) : (s.modDie k f).behind = s.behind := rfl
@[simp] theorem modDie_owners (s : State) (k : Nat) (f : Die → Die) : (s.modDie k f).owners = s.owners := rfl
@[simp] theorem modDie_tlb (s : State) (k : Nat) (f : Die → Die) : (s.modDie k f).tlb = s.tlb := rfl
@[simp] theorem modDie_walks (s : State) (k : Nat) (f : Die → Die) : (s.modDie k f).walks = s.walks := rfl
@[simp] theorem modDie_lines (s : State) (k : Nat) (f : Die → Die) : (s.modDie k f).lines = s.lines := rfl
@[simp] theorem modDie_stamp (s : State) (k : Nat) (f : Die → Die) : (s.modDie k f).stamp = s.stamp := rfl
@[simp] theorem modDie_migrations (s : State) (k : Nat) (f : Die → Die) : (s.modDie k f).migrations = s.migrations := rfl
@[simp] theorem modDie_faultNotices (s : State) (k : Nat) (f : Die → Die) : (s.modDie k f).faultNotices = s.faultNotices := rfl
@[simp] theorem modDie_unsentNotices (s : State) (k : Nat) (f : Die → Die) : (s.modDie k f).unsentNotices = s.unsentNotices := rfl
@[simp] theorem modDie_noticesDue (s : State) (k : Nat) (f : Die → Die) : (s.modDie k f).noticesDue = s.noticesDue := rfl
@[simp] theorem modDie_noticesSent (s : State) (k : Nat) (f : Die → Die) : (s.modDie k f).noticesSent = s.noticesSent := rfl
@[simp] theorem modDie_shootdowns (s : State) (k : Nat) (f : Die → Die) : (s.modDie k f).shootdowns = s.shootdowns := rfl
@[simp] theorem modDie_repointed (s : State) (k : Nat) (f : Die → Die) : (s.modDie k f).repointed = s.repointed := rfl
@[simp] theorem modDie_broadcasts (s : State) (k : Nat) (f : Die → Die) : (s.modDie k f).broadcasts = s.broadcasts := rfl
@[simp] theorem modDie_banks (s : State) (k : Nat) (f : Die → Die) : (s.modDie k f).banks = s.banks := rfl
@[simp] theorem modDie_errOrder (s : State) (k : Nat) (f : Die → Die) : (s.modDie k f).errOrder = s.errOrder := rfl
@[simp] theorem modDie_journal (s : State) (k : Nat) (f : Die → Die) : (s.modDie k f).journal = s.journal := rfl
@[simp] theorem modDie_classcfg (s : State) (k : Nat) (f : Die → Die) : (s.modDie k f).classcfg = s.classcfg := rfl
@[simp] theorem modDie_asroot (s : State) (k : Nat) (f : Die → Die) : (s.modDie k f).asroot = s.asroot := rfl
@[simp] theorem modDie_status (s : State) (k : Nat) (f : Die → Die) : (s.modDie k f).status = s.status := rfl
@[simp] theorem modDie_vacant (s : State) (k : Nat) (f : Die → Die) : (s.modDie k f).vacant = s.vacant := rfl
@[simp] theorem modDie_master (s : State) (k : Nat) (f : Die → Die) : (s.modDie k f).master = s.master := rfl
@[simp] theorem modDie_claims (s : State) (k : Nat) (f : Die → Die) : (s.modDie k f).claims = s.claims := rfl
@[simp] theorem modDie_election (s : State) (k : Nat) (f : Die → Die) : (s.modDie k f).election = s.election := rfl
@[simp] theorem modDie_fnmodeset (s : State) (k : Nat) (f : Die → Die) : (s.modDie k f).fnmodeset = s.fnmodeset := rfl
@[simp] theorem modDie_fnmode (s : State) (k : Nat) (f : Die → Die) : (s.modDie k f).fnmode = s.fnmode := rfl
@[simp] theorem modDie_notice (s : State) (k : Nat) (f : Die → Die) : (s.modDie k f).notice = s.notice := rfl
@[simp] theorem modDie_dbgctl (s : State) (k : Nat) (f : Die → Die) : (s.modDie k f).dbgctl = s.dbgctl := rfl
@[simp] theorem modDie_lastSeq (s : State) (k : Nat) (f : Die → Die) : (s.modDie k f).lastSeq = s.lastSeq := rfl
@[simp] theorem modDie_cxl (s : State) (k : Nat) (f : Die → Die) : (s.modDie k f).cxl = s.cxl := rfl
@[simp] theorem modDie_silent (s : State) (k : Nat) (f : Die → Die) : (s.modDie k f).silent = s.silent := rfl
@[simp] theorem modDie_absent (s : State) (k : Nat) (f : Die → Die) : (s.modDie k f).absent = s.absent := rfl
@[simp] theorem modDie_boot (s : State) (k : Nat) (f : Die → Die) : (s.modDie k f).boot = s.boot := rfl
@[simp] theorem modDie_sram (s : State) (k : Nat) (f : Die → Die) : (s.modDie k f).sram = s.sram := rfl
@[simp] theorem modDie_hbper (s : State) (k : Nat) (f : Die → Die) : (s.modDie k f).hbper = s.hbper := rfl

/-! ## later -/

@[simp] theorem later_mem (s : State) (e : Instr) : (s.later e).mem = s.mem := rfl
@[simp] theorem later_empties (s : State) (e : Instr) : (s.later e).empties = s.empties := rfl
@[simp] theorem later_poison (s : State) (e : Instr) : (s.later e).poison = s.poison := rfl
@[simp] theorem later_stations (s : State) (e : Instr) : (s.later e).stations = s.stations := rfl
@[simp] theorem later_clusters (s : State) (e : Instr) : (s.later e).clusters = s.clusters := rfl
@[simp] theorem later_dies (s : State) (e : Instr) : (s.later e).dies = s.dies := rfl
@[simp] theorem later_now (s : State) (e : Instr) : (s.later e).now = s.now := rfl
@[simp] theorem later_ops (s : State) (e : Instr) : (s.later e).ops = s.ops := rfl
@[simp] theorem later_cur (s : State) (e : Instr) : (s.later e).cur = s.cur := rfl
@[simp] theorem later_waits (s : State) (e : Instr) : (s.later e).waits = s.waits := rfl
@[simp] theorem later_schedule (s : State) (e : Instr) : (s.later e).schedule = s.schedule := rfl
@[simp] theorem later_waiting (s : State) (e : Instr) : (s.later e).waiting = s.waiting := rfl
@[simp] theorem later_parked (s : State) (e : Instr) : (s.later e).parked = s.parked := rfl
@[simp] theorem later_behind (s : State) (e : Instr) : (s.later e).behind = s.behind := rfl
@[simp] theorem later_owners (s : State) (e : Instr) : (s.later e).owners = s.owners := rfl
@[simp] theorem later_tlb (s : State) (e : Instr) : (s.later e).tlb = s.tlb := rfl
@[simp] theorem later_walks (s : State) (e : Instr) : (s.later e).walks = s.walks := rfl
@[simp] theorem later_lines (s : State) (e : Instr) : (s.later e).lines = s.lines := rfl
@[simp] theorem later_stamp (s : State) (e : Instr) : (s.later e).stamp = s.stamp := rfl
@[simp] theorem later_migrations (s : State) (e : Instr) : (s.later e).migrations = s.migrations := rfl
@[simp] theorem later_faultNotices (s : State) (e : Instr) : (s.later e).faultNotices = s.faultNotices := rfl
@[simp] theorem later_unsentNotices (s : State) (e : Instr) : (s.later e).unsentNotices = s.unsentNotices := rfl
@[simp] theorem later_noticesDue (s : State) (e : Instr) : (s.later e).noticesDue = s.noticesDue := rfl
@[simp] theorem later_noticesSent (s : State) (e : Instr) : (s.later e).noticesSent = s.noticesSent := rfl
@[simp] theorem later_shootdowns (s : State) (e : Instr) : (s.later e).shootdowns = s.shootdowns := rfl
@[simp] theorem later_repointed (s : State) (e : Instr) : (s.later e).repointed = s.repointed := rfl
@[simp] theorem later_broadcasts (s : State) (e : Instr) : (s.later e).broadcasts = s.broadcasts := rfl
@[simp] theorem later_banks (s : State) (e : Instr) : (s.later e).banks = s.banks := rfl
@[simp] theorem later_errOrder (s : State) (e : Instr) : (s.later e).errOrder = s.errOrder := rfl
@[simp] theorem later_journal (s : State) (e : Instr) : (s.later e).journal = s.journal := rfl
@[simp] theorem later_classcfg (s : State) (e : Instr) : (s.later e).classcfg = s.classcfg := rfl
@[simp] theorem later_asroot (s : State) (e : Instr) : (s.later e).asroot = s.asroot := rfl
@[simp] theorem later_status (s : State) (e : Instr) : (s.later e).status = s.status := rfl
@[simp] theorem later_vacant (s : State) (e : Instr) : (s.later e).vacant = s.vacant := rfl
@[simp] theorem later_master (s : State) (e : Instr) : (s.later e).master = s.master := rfl
@[simp] theorem later_claims (s : State) (e : Instr) : (s.later e).claims = s.claims := rfl
@[simp] theorem later_election (s : State) (e : Instr) : (s.later e).election = s.election := rfl
@[simp] theorem later_fnmodeset (s : State) (e : Instr) : (s.later e).fnmodeset = s.fnmodeset := rfl
@[simp] theorem later_fnmode (s : State) (e : Instr) : (s.later e).fnmode = s.fnmode := rfl
@[simp] theorem later_notice (s : State) (e : Instr) : (s.later e).notice = s.notice := rfl
@[simp] theorem later_dbgctl (s : State) (e : Instr) : (s.later e).dbgctl = s.dbgctl := rfl
@[simp] theorem later_lastSeq (s : State) (e : Instr) : (s.later e).lastSeq = s.lastSeq := rfl
@[simp] theorem later_cxl (s : State) (e : Instr) : (s.later e).cxl = s.cxl := rfl
@[simp] theorem later_silent (s : State) (e : Instr) : (s.later e).silent = s.silent := rfl
@[simp] theorem later_absent (s : State) (e : Instr) : (s.later e).absent = s.absent := rfl
@[simp] theorem later_boot (s : State) (e : Instr) : (s.later e).boot = s.boot := rfl
@[simp] theorem later_sram (s : State) (e : Instr) : (s.later e).sram = s.sram := rfl
@[simp] theorem later_hbper (s : State) (e : Instr) : (s.later e).hbper = s.hbper := rfl

/-! ## laterAt -/

@[simp] theorem laterAt_mem (s : State) (t : Nat) (e : Instr) : (s.laterAt t e).mem = s.mem := rfl
@[simp] theorem laterAt_empties (s : State) (t : Nat) (e : Instr) : (s.laterAt t e).empties = s.empties := rfl
@[simp] theorem laterAt_poison (s : State) (t : Nat) (e : Instr) : (s.laterAt t e).poison = s.poison := rfl
@[simp] theorem laterAt_stations (s : State) (t : Nat) (e : Instr) : (s.laterAt t e).stations = s.stations := rfl
@[simp] theorem laterAt_clusters (s : State) (t : Nat) (e : Instr) : (s.laterAt t e).clusters = s.clusters := rfl
@[simp] theorem laterAt_dies (s : State) (t : Nat) (e : Instr) : (s.laterAt t e).dies = s.dies := rfl
@[simp] theorem laterAt_now (s : State) (t : Nat) (e : Instr) : (s.laterAt t e).now = s.now := rfl
@[simp] theorem laterAt_ops (s : State) (t : Nat) (e : Instr) : (s.laterAt t e).ops = s.ops := rfl
@[simp] theorem laterAt_cur (s : State) (t : Nat) (e : Instr) : (s.laterAt t e).cur = s.cur := rfl
@[simp] theorem laterAt_waits (s : State) (t : Nat) (e : Instr) : (s.laterAt t e).waits = s.waits := rfl
@[simp] theorem laterAt_schedule (s : State) (t : Nat) (e : Instr) : (s.laterAt t e).schedule = s.schedule := rfl
@[simp] theorem laterAt_waiting (s : State) (t : Nat) (e : Instr) : (s.laterAt t e).waiting = s.waiting := rfl
@[simp] theorem laterAt_parked (s : State) (t : Nat) (e : Instr) : (s.laterAt t e).parked = s.parked := rfl
@[simp] theorem laterAt_behind (s : State) (t : Nat) (e : Instr) : (s.laterAt t e).behind = s.behind := rfl
@[simp] theorem laterAt_owners (s : State) (t : Nat) (e : Instr) : (s.laterAt t e).owners = s.owners := rfl
@[simp] theorem laterAt_tlb (s : State) (t : Nat) (e : Instr) : (s.laterAt t e).tlb = s.tlb := rfl
@[simp] theorem laterAt_walks (s : State) (t : Nat) (e : Instr) : (s.laterAt t e).walks = s.walks := rfl
@[simp] theorem laterAt_lines (s : State) (t : Nat) (e : Instr) : (s.laterAt t e).lines = s.lines := rfl
@[simp] theorem laterAt_stamp (s : State) (t : Nat) (e : Instr) : (s.laterAt t e).stamp = s.stamp := rfl
@[simp] theorem laterAt_migrations (s : State) (t : Nat) (e : Instr) : (s.laterAt t e).migrations = s.migrations := rfl
@[simp] theorem laterAt_faultNotices (s : State) (t : Nat) (e : Instr) : (s.laterAt t e).faultNotices = s.faultNotices := rfl
@[simp] theorem laterAt_unsentNotices (s : State) (t : Nat) (e : Instr) : (s.laterAt t e).unsentNotices = s.unsentNotices := rfl
@[simp] theorem laterAt_noticesDue (s : State) (t : Nat) (e : Instr) : (s.laterAt t e).noticesDue = s.noticesDue := rfl
@[simp] theorem laterAt_noticesSent (s : State) (t : Nat) (e : Instr) : (s.laterAt t e).noticesSent = s.noticesSent := rfl
@[simp] theorem laterAt_shootdowns (s : State) (t : Nat) (e : Instr) : (s.laterAt t e).shootdowns = s.shootdowns := rfl
@[simp] theorem laterAt_repointed (s : State) (t : Nat) (e : Instr) : (s.laterAt t e).repointed = s.repointed := rfl
@[simp] theorem laterAt_broadcasts (s : State) (t : Nat) (e : Instr) : (s.laterAt t e).broadcasts = s.broadcasts := rfl
@[simp] theorem laterAt_banks (s : State) (t : Nat) (e : Instr) : (s.laterAt t e).banks = s.banks := rfl
@[simp] theorem laterAt_errOrder (s : State) (t : Nat) (e : Instr) : (s.laterAt t e).errOrder = s.errOrder := rfl
@[simp] theorem laterAt_journal (s : State) (t : Nat) (e : Instr) : (s.laterAt t e).journal = s.journal := rfl
@[simp] theorem laterAt_classcfg (s : State) (t : Nat) (e : Instr) : (s.laterAt t e).classcfg = s.classcfg := rfl
@[simp] theorem laterAt_asroot (s : State) (t : Nat) (e : Instr) : (s.laterAt t e).asroot = s.asroot := rfl
@[simp] theorem laterAt_status (s : State) (t : Nat) (e : Instr) : (s.laterAt t e).status = s.status := rfl
@[simp] theorem laterAt_vacant (s : State) (t : Nat) (e : Instr) : (s.laterAt t e).vacant = s.vacant := rfl
@[simp] theorem laterAt_master (s : State) (t : Nat) (e : Instr) : (s.laterAt t e).master = s.master := rfl
@[simp] theorem laterAt_claims (s : State) (t : Nat) (e : Instr) : (s.laterAt t e).claims = s.claims := rfl
@[simp] theorem laterAt_election (s : State) (t : Nat) (e : Instr) : (s.laterAt t e).election = s.election := rfl
@[simp] theorem laterAt_fnmodeset (s : State) (t : Nat) (e : Instr) : (s.laterAt t e).fnmodeset = s.fnmodeset := rfl
@[simp] theorem laterAt_fnmode (s : State) (t : Nat) (e : Instr) : (s.laterAt t e).fnmode = s.fnmode := rfl
@[simp] theorem laterAt_notice (s : State) (t : Nat) (e : Instr) : (s.laterAt t e).notice = s.notice := rfl
@[simp] theorem laterAt_dbgctl (s : State) (t : Nat) (e : Instr) : (s.laterAt t e).dbgctl = s.dbgctl := rfl
@[simp] theorem laterAt_lastSeq (s : State) (t : Nat) (e : Instr) : (s.laterAt t e).lastSeq = s.lastSeq := rfl
@[simp] theorem laterAt_cxl (s : State) (t : Nat) (e : Instr) : (s.laterAt t e).cxl = s.cxl := rfl
@[simp] theorem laterAt_silent (s : State) (t : Nat) (e : Instr) : (s.laterAt t e).silent = s.silent := rfl
@[simp] theorem laterAt_absent (s : State) (t : Nat) (e : Instr) : (s.laterAt t e).absent = s.absent := rfl
@[simp] theorem laterAt_boot (s : State) (t : Nat) (e : Instr) : (s.laterAt t e).boot = s.boot := rfl
@[simp] theorem laterAt_sram (s : State) (t : Nat) (e : Instr) : (s.laterAt t e).sram = s.sram := rfl
@[simp] theorem laterAt_hbper (s : State) (t : Nat) (e : Instr) : (s.laterAt t e).hbper = s.hbper := rfl

/-! ## again -/

@[simp] theorem again_mem (s : State) (t : Nat) (e : Instr) : (s.again t e).mem = s.mem := rfl
@[simp] theorem again_empties (s : State) (t : Nat) (e : Instr) : (s.again t e).empties = s.empties := rfl
@[simp] theorem again_poison (s : State) (t : Nat) (e : Instr) : (s.again t e).poison = s.poison := rfl
@[simp] theorem again_stations (s : State) (t : Nat) (e : Instr) : (s.again t e).stations = s.stations := rfl
@[simp] theorem again_clusters (s : State) (t : Nat) (e : Instr) : (s.again t e).clusters = s.clusters := rfl
@[simp] theorem again_dies (s : State) (t : Nat) (e : Instr) : (s.again t e).dies = s.dies := rfl
@[simp] theorem again_now (s : State) (t : Nat) (e : Instr) : (s.again t e).now = s.now := rfl
@[simp] theorem again_ops (s : State) (t : Nat) (e : Instr) : (s.again t e).ops = s.ops := rfl
@[simp] theorem again_cur (s : State) (t : Nat) (e : Instr) : (s.again t e).cur = s.cur := rfl
@[simp] theorem again_waits (s : State) (t : Nat) (e : Instr) : (s.again t e).waits = s.waits := rfl
@[simp] theorem again_schedule (s : State) (t : Nat) (e : Instr) : (s.again t e).schedule = s.schedule := rfl
@[simp] theorem again_waiting (s : State) (t : Nat) (e : Instr) : (s.again t e).waiting = s.waiting := rfl
@[simp] theorem again_parked (s : State) (t : Nat) (e : Instr) : (s.again t e).parked = s.parked := rfl
@[simp] theorem again_behind (s : State) (t : Nat) (e : Instr) : (s.again t e).behind = s.behind := rfl
@[simp] theorem again_owners (s : State) (t : Nat) (e : Instr) : (s.again t e).owners = s.owners := rfl
@[simp] theorem again_tlb (s : State) (t : Nat) (e : Instr) : (s.again t e).tlb = s.tlb := rfl
@[simp] theorem again_walks (s : State) (t : Nat) (e : Instr) : (s.again t e).walks = s.walks := rfl
@[simp] theorem again_lines (s : State) (t : Nat) (e : Instr) : (s.again t e).lines = s.lines := rfl
@[simp] theorem again_stamp (s : State) (t : Nat) (e : Instr) : (s.again t e).stamp = s.stamp := rfl
@[simp] theorem again_migrations (s : State) (t : Nat) (e : Instr) : (s.again t e).migrations = s.migrations := rfl
@[simp] theorem again_faultNotices (s : State) (t : Nat) (e : Instr) : (s.again t e).faultNotices = s.faultNotices := rfl
@[simp] theorem again_unsentNotices (s : State) (t : Nat) (e : Instr) : (s.again t e).unsentNotices = s.unsentNotices := rfl
@[simp] theorem again_noticesDue (s : State) (t : Nat) (e : Instr) : (s.again t e).noticesDue = s.noticesDue := rfl
@[simp] theorem again_noticesSent (s : State) (t : Nat) (e : Instr) : (s.again t e).noticesSent = s.noticesSent := rfl
@[simp] theorem again_shootdowns (s : State) (t : Nat) (e : Instr) : (s.again t e).shootdowns = s.shootdowns := rfl
@[simp] theorem again_repointed (s : State) (t : Nat) (e : Instr) : (s.again t e).repointed = s.repointed := rfl
@[simp] theorem again_broadcasts (s : State) (t : Nat) (e : Instr) : (s.again t e).broadcasts = s.broadcasts := rfl
@[simp] theorem again_banks (s : State) (t : Nat) (e : Instr) : (s.again t e).banks = s.banks := rfl
@[simp] theorem again_errOrder (s : State) (t : Nat) (e : Instr) : (s.again t e).errOrder = s.errOrder := rfl
@[simp] theorem again_journal (s : State) (t : Nat) (e : Instr) : (s.again t e).journal = s.journal := rfl
@[simp] theorem again_classcfg (s : State) (t : Nat) (e : Instr) : (s.again t e).classcfg = s.classcfg := rfl
@[simp] theorem again_asroot (s : State) (t : Nat) (e : Instr) : (s.again t e).asroot = s.asroot := rfl
@[simp] theorem again_status (s : State) (t : Nat) (e : Instr) : (s.again t e).status = s.status := rfl
@[simp] theorem again_vacant (s : State) (t : Nat) (e : Instr) : (s.again t e).vacant = s.vacant := rfl
@[simp] theorem again_master (s : State) (t : Nat) (e : Instr) : (s.again t e).master = s.master := rfl
@[simp] theorem again_claims (s : State) (t : Nat) (e : Instr) : (s.again t e).claims = s.claims := rfl
@[simp] theorem again_election (s : State) (t : Nat) (e : Instr) : (s.again t e).election = s.election := rfl
@[simp] theorem again_fnmodeset (s : State) (t : Nat) (e : Instr) : (s.again t e).fnmodeset = s.fnmodeset := rfl
@[simp] theorem again_fnmode (s : State) (t : Nat) (e : Instr) : (s.again t e).fnmode = s.fnmode := rfl
@[simp] theorem again_notice (s : State) (t : Nat) (e : Instr) : (s.again t e).notice = s.notice := rfl
@[simp] theorem again_dbgctl (s : State) (t : Nat) (e : Instr) : (s.again t e).dbgctl = s.dbgctl := rfl
@[simp] theorem again_lastSeq (s : State) (t : Nat) (e : Instr) : (s.again t e).lastSeq = s.lastSeq := rfl
@[simp] theorem again_cxl (s : State) (t : Nat) (e : Instr) : (s.again t e).cxl = s.cxl := rfl
@[simp] theorem again_silent (s : State) (t : Nat) (e : Instr) : (s.again t e).silent = s.silent := rfl
@[simp] theorem again_absent (s : State) (t : Nat) (e : Instr) : (s.again t e).absent = s.absent := rfl
@[simp] theorem again_boot (s : State) (t : Nat) (e : Instr) : (s.again t e).boot = s.boot := rfl
@[simp] theorem again_sram (s : State) (t : Nat) (e : Instr) : (s.again t e).sram = s.sram := rfl
@[simp] theorem again_hbper (s : State) (t : Nat) (e : Instr) : (s.again t e).hbper = s.hbper := rfl

/-! ## wait -/

@[simp] theorem wait_mem (s : State) : (s.wait).mem = s.mem := rfl
@[simp] theorem wait_empties (s : State) : (s.wait).empties = s.empties := rfl
@[simp] theorem wait_poison (s : State) : (s.wait).poison = s.poison := rfl
@[simp] theorem wait_stations (s : State) : (s.wait).stations = s.stations := rfl
@[simp] theorem wait_clusters (s : State) : (s.wait).clusters = s.clusters := rfl
@[simp] theorem wait_dies (s : State) : (s.wait).dies = s.dies := rfl
@[simp] theorem wait_now (s : State) : (s.wait).now = s.now := rfl
@[simp] theorem wait_ops (s : State) : (s.wait).ops = s.ops := rfl
@[simp] theorem wait_cur (s : State) : (s.wait).cur = s.cur := rfl
@[simp] theorem wait_agenda (s : State) : (s.wait).agenda = s.agenda := rfl
@[simp] theorem wait_schedule (s : State) : (s.wait).schedule = s.schedule := rfl
@[simp] theorem wait_waiting (s : State) : (s.wait).waiting = s.waiting := rfl
@[simp] theorem wait_parked (s : State) : (s.wait).parked = s.parked := rfl
@[simp] theorem wait_behind (s : State) : (s.wait).behind = s.behind := rfl
@[simp] theorem wait_owners (s : State) : (s.wait).owners = s.owners := rfl
@[simp] theorem wait_tlb (s : State) : (s.wait).tlb = s.tlb := rfl
@[simp] theorem wait_walks (s : State) : (s.wait).walks = s.walks := rfl
@[simp] theorem wait_lines (s : State) : (s.wait).lines = s.lines := rfl
@[simp] theorem wait_stamp (s : State) : (s.wait).stamp = s.stamp := rfl
@[simp] theorem wait_migrations (s : State) : (s.wait).migrations = s.migrations := rfl
@[simp] theorem wait_faultNotices (s : State) : (s.wait).faultNotices = s.faultNotices := rfl
@[simp] theorem wait_unsentNotices (s : State) : (s.wait).unsentNotices = s.unsentNotices := rfl
@[simp] theorem wait_noticesDue (s : State) : (s.wait).noticesDue = s.noticesDue := rfl
@[simp] theorem wait_noticesSent (s : State) : (s.wait).noticesSent = s.noticesSent := rfl
@[simp] theorem wait_shootdowns (s : State) : (s.wait).shootdowns = s.shootdowns := rfl
@[simp] theorem wait_repointed (s : State) : (s.wait).repointed = s.repointed := rfl
@[simp] theorem wait_broadcasts (s : State) : (s.wait).broadcasts = s.broadcasts := rfl
@[simp] theorem wait_banks (s : State) : (s.wait).banks = s.banks := rfl
@[simp] theorem wait_errOrder (s : State) : (s.wait).errOrder = s.errOrder := rfl
@[simp] theorem wait_journal (s : State) : (s.wait).journal = s.journal := rfl
@[simp] theorem wait_classcfg (s : State) : (s.wait).classcfg = s.classcfg := rfl
@[simp] theorem wait_asroot (s : State) : (s.wait).asroot = s.asroot := rfl
@[simp] theorem wait_status (s : State) : (s.wait).status = s.status := rfl
@[simp] theorem wait_vacant (s : State) : (s.wait).vacant = s.vacant := rfl
@[simp] theorem wait_master (s : State) : (s.wait).master = s.master := rfl
@[simp] theorem wait_claims (s : State) : (s.wait).claims = s.claims := rfl
@[simp] theorem wait_election (s : State) : (s.wait).election = s.election := rfl
@[simp] theorem wait_fnmodeset (s : State) : (s.wait).fnmodeset = s.fnmodeset := rfl
@[simp] theorem wait_fnmode (s : State) : (s.wait).fnmode = s.fnmode := rfl
@[simp] theorem wait_notice (s : State) : (s.wait).notice = s.notice := rfl
@[simp] theorem wait_dbgctl (s : State) : (s.wait).dbgctl = s.dbgctl := rfl
@[simp] theorem wait_lastSeq (s : State) : (s.wait).lastSeq = s.lastSeq := rfl
@[simp] theorem wait_cxl (s : State) : (s.wait).cxl = s.cxl := rfl
@[simp] theorem wait_silent (s : State) : (s.wait).silent = s.silent := rfl
@[simp] theorem wait_absent (s : State) : (s.wait).absent = s.absent := rfl
@[simp] theorem wait_boot (s : State) : (s.wait).boot = s.boot := rfl
@[simp] theorem wait_sram (s : State) : (s.wait).sram = s.sram := rfl
@[simp] theorem wait_hbper (s : State) : (s.wait).hbper = s.hbper := rfl

/-! ## bump -/

@[simp] theorem bump_mem (s : State) : (s.bump).mem = s.mem := rfl
@[simp] theorem bump_empties (s : State) : (s.bump).empties = s.empties := rfl
@[simp] theorem bump_poison (s : State) : (s.bump).poison = s.poison := rfl
@[simp] theorem bump_stations (s : State) : (s.bump).stations = s.stations := rfl
@[simp] theorem bump_clusters (s : State) : (s.bump).clusters = s.clusters := rfl
@[simp] theorem bump_dies (s : State) : (s.bump).dies = s.dies := rfl
@[simp] theorem bump_now (s : State) : (s.bump).now = s.now := rfl
@[simp] theorem bump_cur (s : State) : (s.bump).cur = s.cur := rfl
@[simp] theorem bump_waits (s : State) : (s.bump).waits = s.waits := rfl
@[simp] theorem bump_agenda (s : State) : (s.bump).agenda = s.agenda := rfl
@[simp] theorem bump_schedule (s : State) : (s.bump).schedule = s.schedule := rfl
@[simp] theorem bump_waiting (s : State) : (s.bump).waiting = s.waiting := rfl
@[simp] theorem bump_parked (s : State) : (s.bump).parked = s.parked := rfl
@[simp] theorem bump_behind (s : State) : (s.bump).behind = s.behind := rfl
@[simp] theorem bump_owners (s : State) : (s.bump).owners = s.owners := rfl
@[simp] theorem bump_tlb (s : State) : (s.bump).tlb = s.tlb := rfl
@[simp] theorem bump_walks (s : State) : (s.bump).walks = s.walks := rfl
@[simp] theorem bump_lines (s : State) : (s.bump).lines = s.lines := rfl
@[simp] theorem bump_stamp (s : State) : (s.bump).stamp = s.stamp := rfl
@[simp] theorem bump_migrations (s : State) : (s.bump).migrations = s.migrations := rfl
@[simp] theorem bump_faultNotices (s : State) : (s.bump).faultNotices = s.faultNotices := rfl
@[simp] theorem bump_unsentNotices (s : State) : (s.bump).unsentNotices = s.unsentNotices := rfl
@[simp] theorem bump_noticesDue (s : State) : (s.bump).noticesDue = s.noticesDue := rfl
@[simp] theorem bump_noticesSent (s : State) : (s.bump).noticesSent = s.noticesSent := rfl
@[simp] theorem bump_shootdowns (s : State) : (s.bump).shootdowns = s.shootdowns := rfl
@[simp] theorem bump_repointed (s : State) : (s.bump).repointed = s.repointed := rfl
@[simp] theorem bump_broadcasts (s : State) : (s.bump).broadcasts = s.broadcasts := rfl
@[simp] theorem bump_banks (s : State) : (s.bump).banks = s.banks := rfl
@[simp] theorem bump_errOrder (s : State) : (s.bump).errOrder = s.errOrder := rfl
@[simp] theorem bump_journal (s : State) : (s.bump).journal = s.journal := rfl
@[simp] theorem bump_classcfg (s : State) : (s.bump).classcfg = s.classcfg := rfl
@[simp] theorem bump_asroot (s : State) : (s.bump).asroot = s.asroot := rfl
@[simp] theorem bump_status (s : State) : (s.bump).status = s.status := rfl
@[simp] theorem bump_vacant (s : State) : (s.bump).vacant = s.vacant := rfl
@[simp] theorem bump_master (s : State) : (s.bump).master = s.master := rfl
@[simp] theorem bump_claims (s : State) : (s.bump).claims = s.claims := rfl
@[simp] theorem bump_election (s : State) : (s.bump).election = s.election := rfl
@[simp] theorem bump_fnmodeset (s : State) : (s.bump).fnmodeset = s.fnmodeset := rfl
@[simp] theorem bump_fnmode (s : State) : (s.bump).fnmode = s.fnmode := rfl
@[simp] theorem bump_notice (s : State) : (s.bump).notice = s.notice := rfl
@[simp] theorem bump_dbgctl (s : State) : (s.bump).dbgctl = s.dbgctl := rfl
@[simp] theorem bump_lastSeq (s : State) : (s.bump).lastSeq = s.lastSeq := rfl
@[simp] theorem bump_cxl (s : State) : (s.bump).cxl = s.cxl := rfl
@[simp] theorem bump_silent (s : State) : (s.bump).silent = s.silent := rfl
@[simp] theorem bump_absent (s : State) : (s.bump).absent = s.absent := rfl
@[simp] theorem bump_boot (s : State) : (s.bump).boot = s.boot := rfl
@[simp] theorem bump_sram (s : State) : (s.bump).sram = s.sram := rfl
@[simp] theorem bump_hbper (s : State) : (s.bump).hbper = s.hbper := rfl

/-! ## record -/

@[simp] theorem record_mem (s : State) (key c k n : Nat) (a y x : Word) : (s.record key c k n a y x).mem = s.mem := rfl
@[simp] theorem record_empties (s : State) (key c k n : Nat) (a y x : Word) : (s.record key c k n a y x).empties = s.empties := rfl
@[simp] theorem record_poison (s : State) (key c k n : Nat) (a y x : Word) : (s.record key c k n a y x).poison = s.poison := rfl
@[simp] theorem record_stations (s : State) (key c k n : Nat) (a y x : Word) : (s.record key c k n a y x).stations = s.stations := rfl
@[simp] theorem record_clusters (s : State) (key c k n : Nat) (a y x : Word) : (s.record key c k n a y x).clusters = s.clusters := rfl
@[simp] theorem record_dies (s : State) (key c k n : Nat) (a y x : Word) : (s.record key c k n a y x).dies = s.dies := rfl
@[simp] theorem record_now (s : State) (key c k n : Nat) (a y x : Word) : (s.record key c k n a y x).now = s.now := rfl
@[simp] theorem record_ops (s : State) (key c k n : Nat) (a y x : Word) : (s.record key c k n a y x).ops = s.ops := rfl
@[simp] theorem record_cur (s : State) (key c k n : Nat) (a y x : Word) : (s.record key c k n a y x).cur = s.cur := rfl
@[simp] theorem record_waits (s : State) (key c k n : Nat) (a y x : Word) : (s.record key c k n a y x).waits = s.waits := rfl
@[simp] theorem record_agenda (s : State) (key c k n : Nat) (a y x : Word) : (s.record key c k n a y x).agenda = s.agenda := rfl
@[simp] theorem record_schedule (s : State) (key c k n : Nat) (a y x : Word) : (s.record key c k n a y x).schedule = s.schedule := rfl
@[simp] theorem record_waiting (s : State) (key c k n : Nat) (a y x : Word) : (s.record key c k n a y x).waiting = s.waiting := rfl
@[simp] theorem record_parked (s : State) (key c k n : Nat) (a y x : Word) : (s.record key c k n a y x).parked = s.parked := rfl
@[simp] theorem record_behind (s : State) (key c k n : Nat) (a y x : Word) : (s.record key c k n a y x).behind = s.behind := rfl
@[simp] theorem record_owners (s : State) (key c k n : Nat) (a y x : Word) : (s.record key c k n a y x).owners = s.owners := rfl
@[simp] theorem record_tlb (s : State) (key c k n : Nat) (a y x : Word) : (s.record key c k n a y x).tlb = s.tlb := rfl
@[simp] theorem record_walks (s : State) (key c k n : Nat) (a y x : Word) : (s.record key c k n a y x).walks = s.walks := rfl
@[simp] theorem record_lines (s : State) (key c k n : Nat) (a y x : Word) : (s.record key c k n a y x).lines = s.lines := rfl
@[simp] theorem record_stamp (s : State) (key c k n : Nat) (a y x : Word) : (s.record key c k n a y x).stamp = s.stamp := rfl
@[simp] theorem record_migrations (s : State) (key c k n : Nat) (a y x : Word) : (s.record key c k n a y x).migrations = s.migrations := rfl
@[simp] theorem record_faultNotices (s : State) (key c k n : Nat) (a y x : Word) : (s.record key c k n a y x).faultNotices = s.faultNotices := rfl
@[simp] theorem record_unsentNotices (s : State) (key c k n : Nat) (a y x : Word) : (s.record key c k n a y x).unsentNotices = s.unsentNotices := rfl
@[simp] theorem record_noticesDue (s : State) (key c k n : Nat) (a y x : Word) : (s.record key c k n a y x).noticesDue = s.noticesDue := rfl
@[simp] theorem record_noticesSent (s : State) (key c k n : Nat) (a y x : Word) : (s.record key c k n a y x).noticesSent = s.noticesSent := rfl
@[simp] theorem record_shootdowns (s : State) (key c k n : Nat) (a y x : Word) : (s.record key c k n a y x).shootdowns = s.shootdowns := rfl
@[simp] theorem record_repointed (s : State) (key c k n : Nat) (a y x : Word) : (s.record key c k n a y x).repointed = s.repointed := rfl
@[simp] theorem record_broadcasts (s : State) (key c k n : Nat) (a y x : Word) : (s.record key c k n a y x).broadcasts = s.broadcasts := rfl
@[simp] theorem record_journal (s : State) (key c k n : Nat) (a y x : Word) : (s.record key c k n a y x).journal = s.journal := rfl
@[simp] theorem record_classcfg (s : State) (key c k n : Nat) (a y x : Word) : (s.record key c k n a y x).classcfg = s.classcfg := rfl
@[simp] theorem record_asroot (s : State) (key c k n : Nat) (a y x : Word) : (s.record key c k n a y x).asroot = s.asroot := rfl
@[simp] theorem record_status (s : State) (key c k n : Nat) (a y x : Word) : (s.record key c k n a y x).status = s.status := rfl
@[simp] theorem record_vacant (s : State) (key c k n : Nat) (a y x : Word) : (s.record key c k n a y x).vacant = s.vacant := rfl
@[simp] theorem record_master (s : State) (key c k n : Nat) (a y x : Word) : (s.record key c k n a y x).master = s.master := rfl
@[simp] theorem record_claims (s : State) (key c k n : Nat) (a y x : Word) : (s.record key c k n a y x).claims = s.claims := rfl
@[simp] theorem record_election (s : State) (key c k n : Nat) (a y x : Word) : (s.record key c k n a y x).election = s.election := rfl
@[simp] theorem record_fnmodeset (s : State) (key c k n : Nat) (a y x : Word) : (s.record key c k n a y x).fnmodeset = s.fnmodeset := rfl
@[simp] theorem record_fnmode (s : State) (key c k n : Nat) (a y x : Word) : (s.record key c k n a y x).fnmode = s.fnmode := rfl
@[simp] theorem record_notice (s : State) (key c k n : Nat) (a y x : Word) : (s.record key c k n a y x).notice = s.notice := rfl
@[simp] theorem record_dbgctl (s : State) (key c k n : Nat) (a y x : Word) : (s.record key c k n a y x).dbgctl = s.dbgctl := rfl
@[simp] theorem record_lastSeq (s : State) (key c k n : Nat) (a y x : Word) : (s.record key c k n a y x).lastSeq = s.lastSeq := rfl
@[simp] theorem record_cxl (s : State) (key c k n : Nat) (a y x : Word) : (s.record key c k n a y x).cxl = s.cxl := rfl
@[simp] theorem record_silent (s : State) (key c k n : Nat) (a y x : Word) : (s.record key c k n a y x).silent = s.silent := rfl
@[simp] theorem record_absent (s : State) (key c k n : Nat) (a y x : Word) : (s.record key c k n a y x).absent = s.absent := rfl
@[simp] theorem record_boot (s : State) (key c k n : Nat) (a y x : Word) : (s.record key c k n a y x).boot = s.boot := rfl
@[simp] theorem record_sram (s : State) (key c k n : Nat) (a y x : Word) : (s.record key c k n a y x).sram = s.sram := rfl
@[simp] theorem record_hbper (s : State) (key c k n : Nat) (a y x : Word) : (s.record key c k n a y x).hbper = s.hbper := rfl

/-! ## writeAt -/

@[simp] theorem writeAt_empties (s : State) (a : Nat) (bs : List Byte) : (s.writeAt a bs).empties = s.empties := rfl
@[simp] theorem writeAt_stations (s : State) (a : Nat) (bs : List Byte) : (s.writeAt a bs).stations = s.stations := rfl
@[simp] theorem writeAt_clusters (s : State) (a : Nat) (bs : List Byte) : (s.writeAt a bs).clusters = s.clusters := rfl
@[simp] theorem writeAt_dies (s : State) (a : Nat) (bs : List Byte) : (s.writeAt a bs).dies = s.dies := rfl
@[simp] theorem writeAt_now (s : State) (a : Nat) (bs : List Byte) : (s.writeAt a bs).now = s.now := rfl
@[simp] theorem writeAt_ops (s : State) (a : Nat) (bs : List Byte) : (s.writeAt a bs).ops = s.ops := rfl
@[simp] theorem writeAt_cur (s : State) (a : Nat) (bs : List Byte) : (s.writeAt a bs).cur = s.cur := rfl
@[simp] theorem writeAt_waits (s : State) (a : Nat) (bs : List Byte) : (s.writeAt a bs).waits = s.waits := rfl
@[simp] theorem writeAt_agenda (s : State) (a : Nat) (bs : List Byte) : (s.writeAt a bs).agenda = s.agenda := rfl
@[simp] theorem writeAt_schedule (s : State) (a : Nat) (bs : List Byte) : (s.writeAt a bs).schedule = s.schedule := rfl
@[simp] theorem writeAt_waiting (s : State) (a : Nat) (bs : List Byte) : (s.writeAt a bs).waiting = s.waiting := rfl
@[simp] theorem writeAt_parked (s : State) (a : Nat) (bs : List Byte) : (s.writeAt a bs).parked = s.parked := rfl
@[simp] theorem writeAt_behind (s : State) (a : Nat) (bs : List Byte) : (s.writeAt a bs).behind = s.behind := rfl
@[simp] theorem writeAt_owners (s : State) (a : Nat) (bs : List Byte) : (s.writeAt a bs).owners = s.owners := rfl
@[simp] theorem writeAt_tlb (s : State) (a : Nat) (bs : List Byte) : (s.writeAt a bs).tlb = s.tlb := rfl
@[simp] theorem writeAt_walks (s : State) (a : Nat) (bs : List Byte) : (s.writeAt a bs).walks = s.walks := rfl
@[simp] theorem writeAt_lines (s : State) (a : Nat) (bs : List Byte) : (s.writeAt a bs).lines = s.lines := rfl
@[simp] theorem writeAt_stamp (s : State) (a : Nat) (bs : List Byte) : (s.writeAt a bs).stamp = s.stamp := rfl
@[simp] theorem writeAt_migrations (s : State) (a : Nat) (bs : List Byte) : (s.writeAt a bs).migrations = s.migrations := rfl
@[simp] theorem writeAt_faultNotices (s : State) (a : Nat) (bs : List Byte) : (s.writeAt a bs).faultNotices = s.faultNotices := rfl
@[simp] theorem writeAt_unsentNotices (s : State) (a : Nat) (bs : List Byte) : (s.writeAt a bs).unsentNotices = s.unsentNotices := rfl
@[simp] theorem writeAt_noticesDue (s : State) (a : Nat) (bs : List Byte) : (s.writeAt a bs).noticesDue = s.noticesDue := rfl
@[simp] theorem writeAt_noticesSent (s : State) (a : Nat) (bs : List Byte) : (s.writeAt a bs).noticesSent = s.noticesSent := rfl
@[simp] theorem writeAt_shootdowns (s : State) (a : Nat) (bs : List Byte) : (s.writeAt a bs).shootdowns = s.shootdowns := rfl
@[simp] theorem writeAt_repointed (s : State) (a : Nat) (bs : List Byte) : (s.writeAt a bs).repointed = s.repointed := rfl
@[simp] theorem writeAt_broadcasts (s : State) (a : Nat) (bs : List Byte) : (s.writeAt a bs).broadcasts = s.broadcasts := rfl
@[simp] theorem writeAt_banks (s : State) (a : Nat) (bs : List Byte) : (s.writeAt a bs).banks = s.banks := rfl
@[simp] theorem writeAt_errOrder (s : State) (a : Nat) (bs : List Byte) : (s.writeAt a bs).errOrder = s.errOrder := rfl
@[simp] theorem writeAt_journal (s : State) (a : Nat) (bs : List Byte) : (s.writeAt a bs).journal = s.journal := rfl
@[simp] theorem writeAt_classcfg (s : State) (a : Nat) (bs : List Byte) : (s.writeAt a bs).classcfg = s.classcfg := rfl
@[simp] theorem writeAt_asroot (s : State) (a : Nat) (bs : List Byte) : (s.writeAt a bs).asroot = s.asroot := rfl
@[simp] theorem writeAt_status (s : State) (a : Nat) (bs : List Byte) : (s.writeAt a bs).status = s.status := rfl
@[simp] theorem writeAt_vacant (s : State) (a : Nat) (bs : List Byte) : (s.writeAt a bs).vacant = s.vacant := rfl
@[simp] theorem writeAt_master (s : State) (a : Nat) (bs : List Byte) : (s.writeAt a bs).master = s.master := rfl
@[simp] theorem writeAt_claims (s : State) (a : Nat) (bs : List Byte) : (s.writeAt a bs).claims = s.claims := rfl
@[simp] theorem writeAt_election (s : State) (a : Nat) (bs : List Byte) : (s.writeAt a bs).election = s.election := rfl
@[simp] theorem writeAt_fnmodeset (s : State) (a : Nat) (bs : List Byte) : (s.writeAt a bs).fnmodeset = s.fnmodeset := rfl
@[simp] theorem writeAt_fnmode (s : State) (a : Nat) (bs : List Byte) : (s.writeAt a bs).fnmode = s.fnmode := rfl
@[simp] theorem writeAt_notice (s : State) (a : Nat) (bs : List Byte) : (s.writeAt a bs).notice = s.notice := rfl
@[simp] theorem writeAt_dbgctl (s : State) (a : Nat) (bs : List Byte) : (s.writeAt a bs).dbgctl = s.dbgctl := rfl
@[simp] theorem writeAt_lastSeq (s : State) (a : Nat) (bs : List Byte) : (s.writeAt a bs).lastSeq = s.lastSeq := rfl
@[simp] theorem writeAt_cxl (s : State) (a : Nat) (bs : List Byte) : (s.writeAt a bs).cxl = s.cxl := rfl
@[simp] theorem writeAt_silent (s : State) (a : Nat) (bs : List Byte) : (s.writeAt a bs).silent = s.silent := rfl
@[simp] theorem writeAt_absent (s : State) (a : Nat) (bs : List Byte) : (s.writeAt a bs).absent = s.absent := rfl
@[simp] theorem writeAt_boot (s : State) (a : Nat) (bs : List Byte) : (s.writeAt a bs).boot = s.boot := rfl
@[simp] theorem writeAt_sram (s : State) (a : Nat) (bs : List Byte) : (s.writeAt a bs).sram = s.sram := rfl
@[simp] theorem writeAt_hbper (s : State) (a : Nat) (bs : List Byte) : (s.writeAt a bs).hbper = s.hbper := rfl

/-! ## poisonAt -/

@[simp] theorem poisonAt_mem (s : State) (a n : Nat) : (s.poisonAt a n).mem = s.mem := rfl
@[simp] theorem poisonAt_empties (s : State) (a n : Nat) : (s.poisonAt a n).empties = s.empties := rfl
@[simp] theorem poisonAt_stations (s : State) (a n : Nat) : (s.poisonAt a n).stations = s.stations := rfl
@[simp] theorem poisonAt_clusters (s : State) (a n : Nat) : (s.poisonAt a n).clusters = s.clusters := rfl
@[simp] theorem poisonAt_dies (s : State) (a n : Nat) : (s.poisonAt a n).dies = s.dies := rfl
@[simp] theorem poisonAt_now (s : State) (a n : Nat) : (s.poisonAt a n).now = s.now := rfl
@[simp] theorem poisonAt_ops (s : State) (a n : Nat) : (s.poisonAt a n).ops = s.ops := rfl
@[simp] theorem poisonAt_cur (s : State) (a n : Nat) : (s.poisonAt a n).cur = s.cur := rfl
@[simp] theorem poisonAt_waits (s : State) (a n : Nat) : (s.poisonAt a n).waits = s.waits := rfl
@[simp] theorem poisonAt_agenda (s : State) (a n : Nat) : (s.poisonAt a n).agenda = s.agenda := rfl
@[simp] theorem poisonAt_schedule (s : State) (a n : Nat) : (s.poisonAt a n).schedule = s.schedule := rfl
@[simp] theorem poisonAt_waiting (s : State) (a n : Nat) : (s.poisonAt a n).waiting = s.waiting := rfl
@[simp] theorem poisonAt_parked (s : State) (a n : Nat) : (s.poisonAt a n).parked = s.parked := rfl
@[simp] theorem poisonAt_behind (s : State) (a n : Nat) : (s.poisonAt a n).behind = s.behind := rfl
@[simp] theorem poisonAt_owners (s : State) (a n : Nat) : (s.poisonAt a n).owners = s.owners := rfl
@[simp] theorem poisonAt_tlb (s : State) (a n : Nat) : (s.poisonAt a n).tlb = s.tlb := rfl
@[simp] theorem poisonAt_walks (s : State) (a n : Nat) : (s.poisonAt a n).walks = s.walks := rfl
@[simp] theorem poisonAt_lines (s : State) (a n : Nat) : (s.poisonAt a n).lines = s.lines := rfl
@[simp] theorem poisonAt_stamp (s : State) (a n : Nat) : (s.poisonAt a n).stamp = s.stamp := rfl
@[simp] theorem poisonAt_migrations (s : State) (a n : Nat) : (s.poisonAt a n).migrations = s.migrations := rfl
@[simp] theorem poisonAt_faultNotices (s : State) (a n : Nat) : (s.poisonAt a n).faultNotices = s.faultNotices := rfl
@[simp] theorem poisonAt_unsentNotices (s : State) (a n : Nat) : (s.poisonAt a n).unsentNotices = s.unsentNotices := rfl
@[simp] theorem poisonAt_noticesDue (s : State) (a n : Nat) : (s.poisonAt a n).noticesDue = s.noticesDue := rfl
@[simp] theorem poisonAt_noticesSent (s : State) (a n : Nat) : (s.poisonAt a n).noticesSent = s.noticesSent := rfl
@[simp] theorem poisonAt_shootdowns (s : State) (a n : Nat) : (s.poisonAt a n).shootdowns = s.shootdowns := rfl
@[simp] theorem poisonAt_repointed (s : State) (a n : Nat) : (s.poisonAt a n).repointed = s.repointed := rfl
@[simp] theorem poisonAt_broadcasts (s : State) (a n : Nat) : (s.poisonAt a n).broadcasts = s.broadcasts := rfl
@[simp] theorem poisonAt_banks (s : State) (a n : Nat) : (s.poisonAt a n).banks = s.banks := rfl
@[simp] theorem poisonAt_errOrder (s : State) (a n : Nat) : (s.poisonAt a n).errOrder = s.errOrder := rfl
@[simp] theorem poisonAt_journal (s : State) (a n : Nat) : (s.poisonAt a n).journal = s.journal := rfl
@[simp] theorem poisonAt_classcfg (s : State) (a n : Nat) : (s.poisonAt a n).classcfg = s.classcfg := rfl
@[simp] theorem poisonAt_asroot (s : State) (a n : Nat) : (s.poisonAt a n).asroot = s.asroot := rfl
@[simp] theorem poisonAt_status (s : State) (a n : Nat) : (s.poisonAt a n).status = s.status := rfl
@[simp] theorem poisonAt_vacant (s : State) (a n : Nat) : (s.poisonAt a n).vacant = s.vacant := rfl
@[simp] theorem poisonAt_master (s : State) (a n : Nat) : (s.poisonAt a n).master = s.master := rfl
@[simp] theorem poisonAt_claims (s : State) (a n : Nat) : (s.poisonAt a n).claims = s.claims := rfl
@[simp] theorem poisonAt_election (s : State) (a n : Nat) : (s.poisonAt a n).election = s.election := rfl
@[simp] theorem poisonAt_fnmodeset (s : State) (a n : Nat) : (s.poisonAt a n).fnmodeset = s.fnmodeset := rfl
@[simp] theorem poisonAt_fnmode (s : State) (a n : Nat) : (s.poisonAt a n).fnmode = s.fnmode := rfl
@[simp] theorem poisonAt_notice (s : State) (a n : Nat) : (s.poisonAt a n).notice = s.notice := rfl
@[simp] theorem poisonAt_dbgctl (s : State) (a n : Nat) : (s.poisonAt a n).dbgctl = s.dbgctl := rfl
@[simp] theorem poisonAt_lastSeq (s : State) (a n : Nat) : (s.poisonAt a n).lastSeq = s.lastSeq := rfl
@[simp] theorem poisonAt_cxl (s : State) (a n : Nat) : (s.poisonAt a n).cxl = s.cxl := rfl
@[simp] theorem poisonAt_silent (s : State) (a n : Nat) : (s.poisonAt a n).silent = s.silent := rfl
@[simp] theorem poisonAt_absent (s : State) (a n : Nat) : (s.poisonAt a n).absent = s.absent := rfl
@[simp] theorem poisonAt_boot (s : State) (a n : Nat) : (s.poisonAt a n).boot = s.boot := rfl
@[simp] theorem poisonAt_sram (s : State) (a n : Nat) : (s.poisonAt a n).sram = s.sram := rfl
@[simp] theorem poisonAt_hbper (s : State) (a n : Nat) : (s.poisonAt a n).hbper = s.hbper := rfl

/-! ## fillAt -/

@[simp] theorem fillAt_mem (s : State) (a n : Nat) : (s.fillAt a n).mem = s.mem := rfl
@[simp] theorem fillAt_poison (s : State) (a n : Nat) : (s.fillAt a n).poison = s.poison := rfl
@[simp] theorem fillAt_stations (s : State) (a n : Nat) : (s.fillAt a n).stations = s.stations := rfl
@[simp] theorem fillAt_clusters (s : State) (a n : Nat) : (s.fillAt a n).clusters = s.clusters := rfl
@[simp] theorem fillAt_dies (s : State) (a n : Nat) : (s.fillAt a n).dies = s.dies := rfl
@[simp] theorem fillAt_now (s : State) (a n : Nat) : (s.fillAt a n).now = s.now := rfl
@[simp] theorem fillAt_ops (s : State) (a n : Nat) : (s.fillAt a n).ops = s.ops := rfl
@[simp] theorem fillAt_cur (s : State) (a n : Nat) : (s.fillAt a n).cur = s.cur := rfl
@[simp] theorem fillAt_waits (s : State) (a n : Nat) : (s.fillAt a n).waits = s.waits := rfl
@[simp] theorem fillAt_agenda (s : State) (a n : Nat) : (s.fillAt a n).agenda = s.agenda := rfl
@[simp] theorem fillAt_schedule (s : State) (a n : Nat) : (s.fillAt a n).schedule = s.schedule := rfl
@[simp] theorem fillAt_waiting (s : State) (a n : Nat) : (s.fillAt a n).waiting = s.waiting := rfl
@[simp] theorem fillAt_parked (s : State) (a n : Nat) : (s.fillAt a n).parked = s.parked := rfl
@[simp] theorem fillAt_behind (s : State) (a n : Nat) : (s.fillAt a n).behind = s.behind := rfl
@[simp] theorem fillAt_owners (s : State) (a n : Nat) : (s.fillAt a n).owners = s.owners := rfl
@[simp] theorem fillAt_tlb (s : State) (a n : Nat) : (s.fillAt a n).tlb = s.tlb := rfl
@[simp] theorem fillAt_walks (s : State) (a n : Nat) : (s.fillAt a n).walks = s.walks := rfl
@[simp] theorem fillAt_lines (s : State) (a n : Nat) : (s.fillAt a n).lines = s.lines := rfl
@[simp] theorem fillAt_stamp (s : State) (a n : Nat) : (s.fillAt a n).stamp = s.stamp := rfl
@[simp] theorem fillAt_migrations (s : State) (a n : Nat) : (s.fillAt a n).migrations = s.migrations := rfl
@[simp] theorem fillAt_faultNotices (s : State) (a n : Nat) : (s.fillAt a n).faultNotices = s.faultNotices := rfl
@[simp] theorem fillAt_unsentNotices (s : State) (a n : Nat) : (s.fillAt a n).unsentNotices = s.unsentNotices := rfl
@[simp] theorem fillAt_noticesDue (s : State) (a n : Nat) : (s.fillAt a n).noticesDue = s.noticesDue := rfl
@[simp] theorem fillAt_noticesSent (s : State) (a n : Nat) : (s.fillAt a n).noticesSent = s.noticesSent := rfl
@[simp] theorem fillAt_shootdowns (s : State) (a n : Nat) : (s.fillAt a n).shootdowns = s.shootdowns := rfl
@[simp] theorem fillAt_repointed (s : State) (a n : Nat) : (s.fillAt a n).repointed = s.repointed := rfl
@[simp] theorem fillAt_broadcasts (s : State) (a n : Nat) : (s.fillAt a n).broadcasts = s.broadcasts := rfl
@[simp] theorem fillAt_banks (s : State) (a n : Nat) : (s.fillAt a n).banks = s.banks := rfl
@[simp] theorem fillAt_errOrder (s : State) (a n : Nat) : (s.fillAt a n).errOrder = s.errOrder := rfl
@[simp] theorem fillAt_journal (s : State) (a n : Nat) : (s.fillAt a n).journal = s.journal := rfl
@[simp] theorem fillAt_classcfg (s : State) (a n : Nat) : (s.fillAt a n).classcfg = s.classcfg := rfl
@[simp] theorem fillAt_asroot (s : State) (a n : Nat) : (s.fillAt a n).asroot = s.asroot := rfl
@[simp] theorem fillAt_status (s : State) (a n : Nat) : (s.fillAt a n).status = s.status := rfl
@[simp] theorem fillAt_vacant (s : State) (a n : Nat) : (s.fillAt a n).vacant = s.vacant := rfl
@[simp] theorem fillAt_master (s : State) (a n : Nat) : (s.fillAt a n).master = s.master := rfl
@[simp] theorem fillAt_claims (s : State) (a n : Nat) : (s.fillAt a n).claims = s.claims := rfl
@[simp] theorem fillAt_election (s : State) (a n : Nat) : (s.fillAt a n).election = s.election := rfl
@[simp] theorem fillAt_fnmodeset (s : State) (a n : Nat) : (s.fillAt a n).fnmodeset = s.fnmodeset := rfl
@[simp] theorem fillAt_fnmode (s : State) (a n : Nat) : (s.fillAt a n).fnmode = s.fnmode := rfl
@[simp] theorem fillAt_notice (s : State) (a n : Nat) : (s.fillAt a n).notice = s.notice := rfl
@[simp] theorem fillAt_dbgctl (s : State) (a n : Nat) : (s.fillAt a n).dbgctl = s.dbgctl := rfl
@[simp] theorem fillAt_lastSeq (s : State) (a n : Nat) : (s.fillAt a n).lastSeq = s.lastSeq := rfl
@[simp] theorem fillAt_cxl (s : State) (a n : Nat) : (s.fillAt a n).cxl = s.cxl := rfl
@[simp] theorem fillAt_silent (s : State) (a n : Nat) : (s.fillAt a n).silent = s.silent := rfl
@[simp] theorem fillAt_absent (s : State) (a n : Nat) : (s.fillAt a n).absent = s.absent := rfl
@[simp] theorem fillAt_boot (s : State) (a n : Nat) : (s.fillAt a n).boot = s.boot := rfl
@[simp] theorem fillAt_sram (s : State) (a n : Nat) : (s.fillAt a n).sram = s.sram := rfl
@[simp] theorem fillAt_hbper (s : State) (a n : Nat) : (s.fillAt a n).hbper = s.hbper := rfl

/-! ## drainAt -/

@[simp] theorem drainAt_mem (s : State) (a n : Nat) : (s.drainAt a n).mem = s.mem := rfl
@[simp] theorem drainAt_poison (s : State) (a n : Nat) : (s.drainAt a n).poison = s.poison := rfl
@[simp] theorem drainAt_stations (s : State) (a n : Nat) : (s.drainAt a n).stations = s.stations := rfl
@[simp] theorem drainAt_clusters (s : State) (a n : Nat) : (s.drainAt a n).clusters = s.clusters := rfl
@[simp] theorem drainAt_dies (s : State) (a n : Nat) : (s.drainAt a n).dies = s.dies := rfl
@[simp] theorem drainAt_now (s : State) (a n : Nat) : (s.drainAt a n).now = s.now := rfl
@[simp] theorem drainAt_ops (s : State) (a n : Nat) : (s.drainAt a n).ops = s.ops := rfl
@[simp] theorem drainAt_cur (s : State) (a n : Nat) : (s.drainAt a n).cur = s.cur := rfl
@[simp] theorem drainAt_waits (s : State) (a n : Nat) : (s.drainAt a n).waits = s.waits := rfl
@[simp] theorem drainAt_agenda (s : State) (a n : Nat) : (s.drainAt a n).agenda = s.agenda := rfl
@[simp] theorem drainAt_schedule (s : State) (a n : Nat) : (s.drainAt a n).schedule = s.schedule := rfl
@[simp] theorem drainAt_waiting (s : State) (a n : Nat) : (s.drainAt a n).waiting = s.waiting := rfl
@[simp] theorem drainAt_parked (s : State) (a n : Nat) : (s.drainAt a n).parked = s.parked := rfl
@[simp] theorem drainAt_behind (s : State) (a n : Nat) : (s.drainAt a n).behind = s.behind := rfl
@[simp] theorem drainAt_owners (s : State) (a n : Nat) : (s.drainAt a n).owners = s.owners := rfl
@[simp] theorem drainAt_tlb (s : State) (a n : Nat) : (s.drainAt a n).tlb = s.tlb := rfl
@[simp] theorem drainAt_walks (s : State) (a n : Nat) : (s.drainAt a n).walks = s.walks := rfl
@[simp] theorem drainAt_lines (s : State) (a n : Nat) : (s.drainAt a n).lines = s.lines := rfl
@[simp] theorem drainAt_stamp (s : State) (a n : Nat) : (s.drainAt a n).stamp = s.stamp := rfl
@[simp] theorem drainAt_migrations (s : State) (a n : Nat) : (s.drainAt a n).migrations = s.migrations := rfl
@[simp] theorem drainAt_faultNotices (s : State) (a n : Nat) : (s.drainAt a n).faultNotices = s.faultNotices := rfl
@[simp] theorem drainAt_unsentNotices (s : State) (a n : Nat) : (s.drainAt a n).unsentNotices = s.unsentNotices := rfl
@[simp] theorem drainAt_noticesDue (s : State) (a n : Nat) : (s.drainAt a n).noticesDue = s.noticesDue := rfl
@[simp] theorem drainAt_noticesSent (s : State) (a n : Nat) : (s.drainAt a n).noticesSent = s.noticesSent := rfl
@[simp] theorem drainAt_shootdowns (s : State) (a n : Nat) : (s.drainAt a n).shootdowns = s.shootdowns := rfl
@[simp] theorem drainAt_repointed (s : State) (a n : Nat) : (s.drainAt a n).repointed = s.repointed := rfl
@[simp] theorem drainAt_broadcasts (s : State) (a n : Nat) : (s.drainAt a n).broadcasts = s.broadcasts := rfl
@[simp] theorem drainAt_banks (s : State) (a n : Nat) : (s.drainAt a n).banks = s.banks := rfl
@[simp] theorem drainAt_errOrder (s : State) (a n : Nat) : (s.drainAt a n).errOrder = s.errOrder := rfl
@[simp] theorem drainAt_journal (s : State) (a n : Nat) : (s.drainAt a n).journal = s.journal := rfl
@[simp] theorem drainAt_classcfg (s : State) (a n : Nat) : (s.drainAt a n).classcfg = s.classcfg := rfl
@[simp] theorem drainAt_asroot (s : State) (a n : Nat) : (s.drainAt a n).asroot = s.asroot := rfl
@[simp] theorem drainAt_status (s : State) (a n : Nat) : (s.drainAt a n).status = s.status := rfl
@[simp] theorem drainAt_vacant (s : State) (a n : Nat) : (s.drainAt a n).vacant = s.vacant := rfl
@[simp] theorem drainAt_master (s : State) (a n : Nat) : (s.drainAt a n).master = s.master := rfl
@[simp] theorem drainAt_claims (s : State) (a n : Nat) : (s.drainAt a n).claims = s.claims := rfl
@[simp] theorem drainAt_election (s : State) (a n : Nat) : (s.drainAt a n).election = s.election := rfl
@[simp] theorem drainAt_fnmodeset (s : State) (a n : Nat) : (s.drainAt a n).fnmodeset = s.fnmodeset := rfl
@[simp] theorem drainAt_fnmode (s : State) (a n : Nat) : (s.drainAt a n).fnmode = s.fnmode := rfl
@[simp] theorem drainAt_notice (s : State) (a n : Nat) : (s.drainAt a n).notice = s.notice := rfl
@[simp] theorem drainAt_dbgctl (s : State) (a n : Nat) : (s.drainAt a n).dbgctl = s.dbgctl := rfl
@[simp] theorem drainAt_lastSeq (s : State) (a n : Nat) : (s.drainAt a n).lastSeq = s.lastSeq := rfl
@[simp] theorem drainAt_cxl (s : State) (a n : Nat) : (s.drainAt a n).cxl = s.cxl := rfl
@[simp] theorem drainAt_silent (s : State) (a n : Nat) : (s.drainAt a n).silent = s.silent := rfl
@[simp] theorem drainAt_absent (s : State) (a n : Nat) : (s.drainAt a n).absent = s.absent := rfl
@[simp] theorem drainAt_boot (s : State) (a n : Nat) : (s.drainAt a n).boot = s.boot := rfl
@[simp] theorem drainAt_sram (s : State) (a n : Nat) : (s.drainAt a n).sram = s.sram := rfl
@[simp] theorem drainAt_hbper (s : State) (a n : Nat) : (s.drainAt a n).hbper = s.hbper := rfl

/-! ## clearAt -/

@[simp] theorem clearAt_stations (s : State) (a n : Nat) : (s.clearAt a n).stations = s.stations := rfl
@[simp] theorem clearAt_clusters (s : State) (a n : Nat) : (s.clearAt a n).clusters = s.clusters := rfl
@[simp] theorem clearAt_dies (s : State) (a n : Nat) : (s.clearAt a n).dies = s.dies := rfl
@[simp] theorem clearAt_now (s : State) (a n : Nat) : (s.clearAt a n).now = s.now := rfl
@[simp] theorem clearAt_ops (s : State) (a n : Nat) : (s.clearAt a n).ops = s.ops := rfl
@[simp] theorem clearAt_cur (s : State) (a n : Nat) : (s.clearAt a n).cur = s.cur := rfl
@[simp] theorem clearAt_waits (s : State) (a n : Nat) : (s.clearAt a n).waits = s.waits := rfl
@[simp] theorem clearAt_agenda (s : State) (a n : Nat) : (s.clearAt a n).agenda = s.agenda := rfl
@[simp] theorem clearAt_schedule (s : State) (a n : Nat) : (s.clearAt a n).schedule = s.schedule := rfl
@[simp] theorem clearAt_waiting (s : State) (a n : Nat) : (s.clearAt a n).waiting = s.waiting := rfl
@[simp] theorem clearAt_parked (s : State) (a n : Nat) : (s.clearAt a n).parked = s.parked := rfl
@[simp] theorem clearAt_behind (s : State) (a n : Nat) : (s.clearAt a n).behind = s.behind := rfl
@[simp] theorem clearAt_owners (s : State) (a n : Nat) : (s.clearAt a n).owners = s.owners := rfl
@[simp] theorem clearAt_tlb (s : State) (a n : Nat) : (s.clearAt a n).tlb = s.tlb := rfl
@[simp] theorem clearAt_walks (s : State) (a n : Nat) : (s.clearAt a n).walks = s.walks := rfl
@[simp] theorem clearAt_lines (s : State) (a n : Nat) : (s.clearAt a n).lines = s.lines := rfl
@[simp] theorem clearAt_stamp (s : State) (a n : Nat) : (s.clearAt a n).stamp = s.stamp := rfl
@[simp] theorem clearAt_migrations (s : State) (a n : Nat) : (s.clearAt a n).migrations = s.migrations := rfl
@[simp] theorem clearAt_faultNotices (s : State) (a n : Nat) : (s.clearAt a n).faultNotices = s.faultNotices := rfl
@[simp] theorem clearAt_unsentNotices (s : State) (a n : Nat) : (s.clearAt a n).unsentNotices = s.unsentNotices := rfl
@[simp] theorem clearAt_noticesDue (s : State) (a n : Nat) : (s.clearAt a n).noticesDue = s.noticesDue := rfl
@[simp] theorem clearAt_noticesSent (s : State) (a n : Nat) : (s.clearAt a n).noticesSent = s.noticesSent := rfl
@[simp] theorem clearAt_shootdowns (s : State) (a n : Nat) : (s.clearAt a n).shootdowns = s.shootdowns := rfl
@[simp] theorem clearAt_repointed (s : State) (a n : Nat) : (s.clearAt a n).repointed = s.repointed := rfl
@[simp] theorem clearAt_broadcasts (s : State) (a n : Nat) : (s.clearAt a n).broadcasts = s.broadcasts := rfl
@[simp] theorem clearAt_banks (s : State) (a n : Nat) : (s.clearAt a n).banks = s.banks := rfl
@[simp] theorem clearAt_errOrder (s : State) (a n : Nat) : (s.clearAt a n).errOrder = s.errOrder := rfl
@[simp] theorem clearAt_journal (s : State) (a n : Nat) : (s.clearAt a n).journal = s.journal := rfl
@[simp] theorem clearAt_classcfg (s : State) (a n : Nat) : (s.clearAt a n).classcfg = s.classcfg := rfl
@[simp] theorem clearAt_asroot (s : State) (a n : Nat) : (s.clearAt a n).asroot = s.asroot := rfl
@[simp] theorem clearAt_status (s : State) (a n : Nat) : (s.clearAt a n).status = s.status := rfl
@[simp] theorem clearAt_vacant (s : State) (a n : Nat) : (s.clearAt a n).vacant = s.vacant := rfl
@[simp] theorem clearAt_master (s : State) (a n : Nat) : (s.clearAt a n).master = s.master := rfl
@[simp] theorem clearAt_claims (s : State) (a n : Nat) : (s.clearAt a n).claims = s.claims := rfl
@[simp] theorem clearAt_election (s : State) (a n : Nat) : (s.clearAt a n).election = s.election := rfl
@[simp] theorem clearAt_fnmodeset (s : State) (a n : Nat) : (s.clearAt a n).fnmodeset = s.fnmodeset := rfl
@[simp] theorem clearAt_fnmode (s : State) (a n : Nat) : (s.clearAt a n).fnmode = s.fnmode := rfl
@[simp] theorem clearAt_notice (s : State) (a n : Nat) : (s.clearAt a n).notice = s.notice := rfl
@[simp] theorem clearAt_dbgctl (s : State) (a n : Nat) : (s.clearAt a n).dbgctl = s.dbgctl := rfl
@[simp] theorem clearAt_lastSeq (s : State) (a n : Nat) : (s.clearAt a n).lastSeq = s.lastSeq := rfl
@[simp] theorem clearAt_cxl (s : State) (a n : Nat) : (s.clearAt a n).cxl = s.cxl := rfl
@[simp] theorem clearAt_silent (s : State) (a n : Nat) : (s.clearAt a n).silent = s.silent := rfl
@[simp] theorem clearAt_absent (s : State) (a n : Nat) : (s.clearAt a n).absent = s.absent := rfl
@[simp] theorem clearAt_boot (s : State) (a n : Nat) : (s.clearAt a n).boot = s.boot := rfl
@[simp] theorem clearAt_sram (s : State) (a n : Nat) : (s.clearAt a n).sram = s.sram := rfl
@[simp] theorem clearAt_hbper (s : State) (a n : Nat) : (s.clearAt a n).hbper = s.hbper := rfl

/-! ## What the updates write -/

@[simp] theorem later_agenda (s : State) (e : Instr) : (s.later e).agenda = s.agenda ++ [{ due := s.now + 1, ev := e }] := rfl
@[simp] theorem laterAt_agenda (s : State) (t : Nat) (e : Instr) : (s.laterAt t e).agenda = s.agenda ++ [{ due := t, ev := e }] := rfl
@[simp] theorem wait_waits (s : State) : s.wait.waits = true := rfl
@[simp] theorem bump_ops (s : State) : s.bump.ops = s.ops + 1 := rfl

/-! ## Stations and holders -/

@[simp] theorem station_setStation_same (s : State) (st : Nat) (x : Station) : (s.setStation st x).station st = x := by
  simp [State.station, State.setStation, look_put_same]

theorem station_setStation_other (s : State) (st n : Nat) (x : Station) (h : n ≠ st) :
    (s.setStation st x).station n = s.station n := by
  simp [State.station, State.setStation, look_put_other _ _ _ _ _ h]

@[simp] theorem station_modStation_same (s : State) (st : Nat) (f : Station → Station) :
    (s.modStation st f).station st = f (s.station st) := by simp [State.modStation]

theorem station_modStation_other (s : State) (st n : Nat) (f : Station → Station) (h : n ≠ st) :
    (s.modStation st f).station n = s.station n := by
  simp [State.modStation, station_setStation_other _ _ _ _ h]

/-- Every holder has a place of its own in its station. -/
theorem coreIx_inj (a b : Core) (h : coreIx a = coreIx b) : a = b := by cases a <;> cases b <;> simp_all [coreIx]

@[simp] theorem holder_setHolder_same (s : State) (w : Who) (h : Holder) : (s.setHolder w h).holder w = h := by
  simp [State.holder, State.setHolder, Station.setCore]

theorem holder_setHolder_other (s : State) (w u : Who) (h : Holder) (hu : u ≠ w) :
    (s.setHolder w h).holder u = s.holder u := by
  by_cases hs : u.st = w.st
  · have hc : coreIx w.core ≠ coreIx u.core := by
      intro e
      have e2 := coreIx_inj _ _ e
      apply hu
      cases u; cases w
      simp_all
    simp only [State.holder, State.setHolder, hs, station_modStation_same, Station.setCore]
    exact Vector.getElem_set_ne (coreIx w.core).isLt (coreIx u.core).isLt (fun e => hc (Fin.ext e))
  · simp [State.holder, State.setHolder, station_modStation_other _ _ _ _ hs]

@[simp] theorem holder_modHolder_same (s : State) (w : Who) (f : Holder → Holder) :
    (s.modHolder w f).holder w = f (s.holder w) := by simp [State.modHolder]

theorem holder_modHolder_other (s : State) (w u : Who) (f : Holder → Holder) (hu : u ≠ w) :
    (s.modHolder w f).holder u = s.holder u := by simp [State.modHolder, holder_setHolder_other _ _ _ _ hu]

@[simp] theorem die_modDie_same (s : State) (d : Nat) (f : Die → Die) : (s.modDie d f).die d = f (s.die d) := by
  simp [State.die, State.modDie, look_put_same]

@[simp] theorem cluster_modCluster_same (s : State) (c : Nat) (f : Cluster → Cluster) :
    (s.modCluster c f).cluster c = f (s.cluster c) := by simp [State.cluster, State.modCluster, look_put_same]

@[simp] theorem holder_later (s : State) (e : Instr) (w : Who) : (s.later e).holder w = s.holder w := rfl
@[simp] theorem holder_bump (s : State) (w : Who) : s.bump.holder w = s.holder w := rfl
@[simp] theorem station_later (s : State) (e : Instr) (n : Nat) : (s.later e).station n = s.station n := rfl
@[simp] theorem station_bump (s : State) (n : Nat) : s.bump.station n = s.station n := rfl
@[simp] theorem station_record (s : State) (key c k n : Nat) (a y x : Word) (m : Nat) :
    (s.record key c k n a y x).station m = s.station m := rfl
@[simp] theorem holder_record (s : State) (key c k n : Nat) (a y x : Word) (w : Who) :
    (s.record key c k n a y x).holder w = s.holder w := rfl

/-! ## Registers of a holder -/

/-- s0 is never written (R48). -/
@[simp] theorem setS_zero (h : Holder) (x : Word) : h.setS 0 x = h := by simp [Holder.setS]
/-- m0 is never written (R48). -/
@[simp] theorem setM_zero (h : Holder) (x : MWord) : h.setM 0 x = h := by simp [Holder.setM]
/-- s0 reads zero (R21). -/
@[simp] theorem rd_zero (h : Holder) : h.rd 0 = 0 := by simp [Holder.rd]
/-- m0 reads all ones (R58). -/
@[simp] theorem rdm_zero (h : Holder) : h.rdm 0 = BitVec.allOnes 256 := by simp [Holder.rdm]

@[simp] theorem rd_setS_same (h : Holder) (r : Reg) (x : Word) (hr : r ≠ 0) : (h.setS r x).rd r = x := by
  simp only [Holder.setS, Holder.rd, if_neg hr, Vector.getElem_set_self]

theorem rd_setS_other (h : Holder) (r q : Reg) (x : Word) (hq : q ≠ r) : (h.setS r x).rd q = h.rd q := by
  unfold Holder.setS Holder.rd
  have hne : r.toNat ≠ q.toNat := fun e => hq (BitVec.eq_of_toNat_eq e.symm)
  split
  · rfl
  · split
    · rfl
    · simp [Vector.getElem_set_ne _ _ hne]

@[simp] theorem avail_setS_same (h : Holder) (r : Reg) (x : Word) : (h.setS r x).avail (.s r) = .full := by
  by_cases hr : r = 0
  · simp [Holder.avail, hr]
  · simp only [Holder.setS, Holder.avail, if_neg hr, Vector.getElem_set_self]

@[simp] theorem rdv_setV_same (h : Holder) (r : Reg) (x : VWord) : (h.setV r x).rdv r = x := by
  simp [Holder.setV, Holder.rdv]

@[simp] theorem avail_setV_same (h : Holder) (r : Reg) (x : VWord) : (h.setV r x).avail (.v r) = .full := by
  simp [Holder.setV, Holder.avail]

@[simp] theorem rdm_setM_same (h : Holder) (r : MReg) (x : MWord) (hr : r ≠ 0) : (h.setM r x).rdm r = x := by
  simp only [Holder.setM, Holder.rdm, if_neg hr, Vector.getElem_set_self]

end Sys2Proof.Machine
end

