-- ==== Sys2Proof/Laws/Issue.lean ====
section
/-! SUPPORT. Issue, once for every instruction: what it comes to when the instruction is ready, when a source is empty, and
that it never refuses. -/
namespace Sys2Proof.Machine

/-- What holds nothing with its class holds nothing without it. -/
theorem holds_less (h : Holder) (c : IssueClass) (hh : h.holds c = false) :
    h.holds { c with hold := false, rel := false, mem := false } = false := by
  simp only [Holder.holds, Bool.or_eq_false_iff] at hh ⊢
  simp [hh.1.1.1]

/-- The parts of readiness. -/
theorem ready_iff (s : State) (c : IssueClass) (u : Uses) : s.ready c u = true ↔
    whoExists s.cur = true ∧ (isBase s.cur.core = true → c.base = true) ∧ s.me.holds c = false ∧
    s.checkSrcs s.cur u.srcs = .go () ∧ s.checkDsts s.cur u.dsts = .go () := by
  simp only [State.ready, Bool.and_eq_true, Bool.or_eq_true, Bool.not_eq_true', Res.goes]
  constructor
  · rintro ⟨⟨⟨⟨h1, h2⟩, h3⟩, h4⟩, h5⟩
    refine ⟨h1, ?_, h3, ?_, ?_⟩
    · intro hb; rcases h2 with h2 | h2
      · simp [hb] at h2
      · exact h2
    · revert h4; cases s.checkSrcs s.cur u.srcs <;> simp
    · revert h5; cases s.checkDsts s.cur u.dsts <;> simp
  · rintro ⟨h1, h2, h3, h4, h5⟩
    refine ⟨⟨⟨⟨h1, ?_⟩, h3⟩, by simp [h4]⟩, by simp [h5]⟩
    cases hb : isBase s.cur.core
    · simp
    · simp [h2 hb]

/-- A ready instruction whose encoding may stand reads its sources and does what its body says. -/
theorem issueIf_ready (s : State) (c : IssueClass) (u : Uses) (body : State → Res (State × PcFlow)) (h : s.ready c u = true) :
    s.issueIf c false u body = s.finish (body (s.popAll s.cur u.srcs)) := by
  obtain ⟨h1, h2, h3, h4, h5⟩ := (ready_iff s c u).1 h
  have h6 : (isBase s.cur.core && !c.base || false) = false := by
    cases hb : isBase s.cur.core
    · simp
    · simp [h2 hb]
  simp only [State.issueIf, h1, h3, h4, h5, holds_less _ _ h3, h6, Res.bind, Bool.not_true, Bool.false_eq_true, if_false]

theorem issue_ready (s : State) (c : IssueClass) (u : Uses) (body : State → Res (State × PcFlow)) (h : s.ready c u = true) :
    s.issue c u body = s.finish (body (s.popAll s.cur u.srcs)) := issueIf_ready s c u body h

@[simp] theorem finish_go (s t : State) (f : PcFlow) : s.finish (.go (t, f)) = .next (t.retire s.cur f) := rfl
@[simp] theorem finish_wait (s : State) : s.finish .wait = .next s.wait := rfl
@[simp] theorem finish_trap (s : State) (t : TrapInfo) : s.finish (.trap t) = .next (s.trapNow t) := rfl
@[simp] theorem bind_go {α β : Type} (x : α) (f : α → Res β) : (Res.go x).bind f = f x := rfl
@[simp] theorem bind_wait {α β : Type} (f : α → Res β) : (Res.wait : Res α).bind f = .wait := rfl
@[simp] theorem bind_trap {α β : Type} (t : TrapInfo) (f : α → Res β) : (Res.trap t : Res α).bind f = .trap t := rfl
@[simp] theorem need_true (t : TrapInfo) : need true t = .go () := rfl
@[simp] theorem need_false (t : TrapInfo) : need false t = .trap t := rfl
@[simp] theorem await_true : await true = .go () := rfl
@[simp] theorem await_false : await false = .wait := rfl

/-- A check goes on exactly when it answers a value. -/
theorem goes_iff {α : Type} (r : Res α) : r.goes = true ↔ ∃ x, r = .go x := by cases r <;> simp [Res.goes]

theorem goes_unit (r : Res Unit) : r.goes = true ↔ r = .go () := by cases r <;> simp [Res.goes]

/-- An instruction that computes one scalar result. -/
theorem compS_ready (s : State) (c : IssueClass) (srcs : List (RegName × Bool)) (d : Reg) (x : Word)
    (h : s.ready c ⟨srcs, [.s d]⟩ = true) : s.compS c srcs d x = .next (s.wrote srcs d x) := by
  rw [State.compS, issue_ready _ _ _ _ h]; rfl

/-- Every outcome of an issue is a next state, or the fault of a holder that does not exist. -/
theorem issueIf_outcome (s : State) (c : IssueClass) (ill : Bool) (u : Uses) (body : State → Res (State × PcFlow)) :
    s.issueIf c ill u body = .fault (.noSuchHolder s.cur.st) ∨ ∃ t, s.issueIf c ill u body = .next t := by
  unfold State.issueIf
  split
  · exact .inl rfl
  · refine .inr ?_
    simp only
    split
    · exact ⟨_, rfl⟩
    · split
      · exact ⟨_, rfl⟩
      · split
        · exact ⟨_, rfl⟩
        · unfold State.finish
          split <;> exact ⟨_, rfl⟩

/-- A holder that exists issues without a fault. -/
theorem issueIf_next (s : State) (c : IssueClass) (ill : Bool) (u : Uses) (body : State → Res (State × PcFlow))
    (h : whoExists s.cur = true) : ∃ t, s.issueIf c ill u body = .next t := by
  rcases issueIf_outcome s c ill u body with e | e
  · exfalso
    revert e
    simp only [State.issueIf, h, Bool.not_true, Bool.false_eq_true, if_false]
    repeat' split
    all_goals simp [State.finish]
    all_goals split <;> simp
  · exact e

/-! ## Plain registers -/

/-- Without ports no register is bound. -/
theorem binding_plain (s : State) (h : s.plain = true) (n : RegName) : s.me.binding n = none := by
  have hp : s.me.ports = [] := by simpa [State.plain] using h
  unfold Holder.binding
  cases portOf n <;> simp [hp]

/-- Without ports nothing is popped. -/
theorem popAll_plain (s : State) (h : s.plain = true) (srcs : List (RegName × Bool)) : s.popAll s.cur srcs = s := by
  have hb := binding_plain s h
  have key : ∀ l : List (RegName × Bool), l.foldl (fun l e => match (s.holder s.cur).binding e.1 with
      | some b => if l.contains b.port then l else l ++ [b.port]
      | none => l) ([] : List Nat) = [] := by
    intro l
    induction l with
    | nil => rfl
    | cons e r ih =>
      simp only [List.foldl_cons]
      have : (s.holder s.cur).binding e.1 = none := hb e.1
      simp only [this]
      exact ih
  exact congrArg (List.foldl _ s) (key srcs)

/-- Without ports a scalar source is the register. -/
theorem valS_plain (s : State) (h : s.plain = true) (r : Reg) : s.valS s.cur r = s.me.rd r := by
  have hb : (s.holder s.cur).binding (.s r) = none := binding_plain s h (.s r)
  simp [State.valS, hb, State.me]

/-- Without ports a vector source is the register. -/
theorem valV_plain (s : State) (h : s.plain = true) (r : Reg) : s.valV s.cur r = s.me.rdv r := by
  have hb : (s.holder s.cur).binding (.v r) = none := binding_plain s h (.v r)
  simp [State.valV, hb, State.me]

/-- Without ports a scalar result goes into the register. -/
theorem writeS_plain (s : State) (h : s.plain = true) (r : Reg) (x : Word) :
    s.writeS s.cur r x = s.modHolder s.cur (fun k => k.setS r x) := by
  have hb : (s.holder s.cur).binding (.s r) = none := binding_plain s h (.s r)
  simp [State.writeS, hb]

/-- Without ports a vector result goes into the register. -/
theorem writeV_plain (s : State) (h : s.plain = true) (r : Reg) (x : VWord) :
    s.writeV s.cur r x = s.modHolder s.cur (fun k => k.setV r x) := by
  have hb : (s.holder s.cur).binding (.v r) = none := binding_plain s h (.v r)
  simp [State.writeV, hb]

/-- Nothing is popped where no source is named. -/
theorem popAll_nil (s : State) (w) : s.popAll w [] = s := rfl

/-- An instruction that waits for the loads before it is ready only when they have settled (R90). -/
theorem ready_held_unsettled (s : State) (u) (h : s.ready .held u = true) : s.me.unsettled = [] := by
  obtain ⟨_, _, h3, _, _⟩ := (ready_iff _ _ _).1 h
  simp only [Holder.holds, Bool.or_eq_false_iff, IssueClass.held, Bool.true_and] at h3
  have := h3.1.1.2
  simpa using this

/-- A ready scalar floating-point instruction: its result and flags, or the trap of an enabled flag (R77, R78). -/
theorem fpu_ready (s : State) (d : Reg) (srcs) (r : Nat × Nat) (h : s.ready .compute ⟨srcs, [.s d]⟩ = true) :
  s.fpu d srcs r =  (let t := s.popAll s.cur srcs
      if r.2 &&& ((t.holder s.cur).fctl.toNat / 256 % 32) = 0 then
        .next (((t.modHolder s.cur (fun h => { h with fflags := h.fflags ||| BitVec.ofNat 64 r.2 })).writeS s.cur d
          (BitVec.ofNat 64 r.1)).retire s.cur .next)
      else .next (s.trapNow (trapOf 0x0C (BitVec.ofNat 64 r.2)))) := by
  rw [State.fpu, issue_ready _ _ _ _ h]
  generalize s.popAll s.cur srcs = t
  have e : enabledOf (t.holder s.cur).fctl = (t.holder s.cur).fctl.toNat / 256 % 32 := by
    simp [enabledOf, bitsOf, Nat.shiftRight_eq_div_pow]
  simp only [State.raiseF, e, fpTrap]
  by_cases hh : r.2 &&& ((t.holder s.cur).fctl.toNat / 256 % 32) = 0
  · simp only [hh, bne_self_eq_false, if_true, Bool.false_eq_true, if_false, bind_go, finish_go]; rfl
  · simp only [hh, bne_iff_ne, ne_eq, not_false_eq_true, if_true, if_false, bind_trap, finish_trap]

end Sys2Proof.Machine
end

