-- ==== Sys2Proof/Laws/Boundary.lean ====
section
/-! SUPPORT. What follows an instruction (R97, R174): event counts change no holder and no memory; the boundary of an
instruction, case by case. -/
namespace Sys2Proof.Machine

/-! ## Event counts -/

/-- Only tables of stations and the agenda differ, and no holder does. -/
structure Counted (s t : State) : Prop where
  rest : t = { s with stations := t.stations, agenda := t.agenda }
  holders : ∀ w, t.holder w = s.holder w

theorem Counted.refl (s : State) : Counted s s := ⟨rfl, fun _ => rfl⟩

theorem Counted.trans {s t u : State} (h : Counted s t) (k : Counted t u) : Counted s u :=
  ⟨by rw [k.rest, h.rest], fun w => (k.holders w).trans (h.holders w)⟩

theorem Counted.later {s t : State} (h : Counted s t) (e : Instr) : Counted s (t.later e) :=
  ⟨by rw [State.later, h.rest], fun w => h.holders w⟩

/-- A change of a station that leaves its cores as they are. -/
theorem Counted.modStation {s t : State} (h : Counted s t) (st : Nat) (f : Station → Station)
    (hf : (f (t.station st)).cores = (t.station st).cores) : Counted s (t.modStation st f) := by
  refine ⟨by rw [State.modStation, State.setStation, h.rest], fun w => ?_⟩
  rw [← h.holders w]
  by_cases e : w.st = st
  · subst e; simp [State.holder, hf]
  · simp [State.holder, station_modStation_other _ _ _ _ e]

theorem Counted.foldl {α : Type} {s t : State} (l : List α) (f : State → α → State)
    (hf : ∀ u a, Counted s u → Counted s (f u a)) (h : Counted s t) : Counted s (l.foldl f t) := by
  induction l generalizing t with
  | nil => exact h
  | cons a r ih => exact ih (hf _ _ h)

/-- The launch of a crossing (R176). -/
theorem Counted.crossed {s u : State} (h : Counted s u) (st n : Nat) (fire : Bool) (t : Threshold) (c : Word) :
    Counted s (u.crossed st n fire t c) := by
  unfold State.crossed
  split
  · exact h.later _
  · exact h

/-- Counting an event (R174, R176). -/
theorem countEvent_counted (s : State) (st ev n : Nat) : Counted s (s.countEvent st ev n) := by
  unfold State.countEvent
  refine Counted.foldl _ _ (fun u a h => ?_) (Counted.refl s)
  exact (Counted.modStation h _ _ rfl).crossed ..

theorem counted_counted (s : State) (w : Who) (n : Nat) : Counted s (s.counted w n) := by
  unfold State.counted
  split
  · exact countEvent_counted ..
  · exact Counted.refl s

/-! ## The boundary -/

/-- Apart from the counts, the boundary is the holder's own. -/
theorem retire_counted (s : State) (w : Who) (f : PcFlow) (hf : f ≠ .stay) :
    Counted (s.setHolder w (({ s.holder w with
      unsettled := if f = .load then (s.holder w).unsettled else bumpLast (s.holder w).unsettled } : Holder).advance f))
      (s.retire w f) := by
  by_cases he : (s.holder w).unsettled.isEmpty = true
  · rw [State.retire, if_neg hf]
    simp only [if_pos he]
    exact counted_counted ..
  · rw [State.retire, if_neg hf]
    simp only [if_neg he]
    exact Counted.refl _

/-- The holder after the boundary. -/
theorem retire_holder (s : State) (w : Who) (f : PcFlow) (hf : f ≠ .stay) :
    (s.retire w f).holder w = ({ s.holder w with
      unsettled := if f = .load then (s.holder w).unsettled else bumpLast (s.holder w).unsettled } : Holder).advance f := by
  rw [(retire_counted s w f hf).holders, holder_setHolder_same]

/-- Every other holder after the boundary. -/
theorem retire_other (s : State) (w u : Who) (f : PcFlow) (hu : u ≠ w) : (s.retire w f).holder u = s.holder u := by
  by_cases hf : f = .stay
  · simp [State.retire, hf]
  · rw [(retire_counted s w f hf).holders, holder_setHolder_other _ _ _ _ hu]

/-- Memory, granules, poison and the tables apart from stations stay at a boundary. -/
theorem retire_rest (s : State) (w : Who) (f : PcFlow) :
    s.retire w f = { s with stations := (s.retire w f).stations, agenda := (s.retire w f).agenda } := by
  by_cases hf : f = .stay
  · simp [State.retire, hf]
  · exact (retire_counted s w f hf).rest

@[simp] theorem retire_mem (s : State) (w : Who) (f : PcFlow) : (s.retire w f).mem = s.mem := by rw [retire_rest]
@[simp] theorem retire_empties (s : State) (w : Who) (f : PcFlow) : (s.retire w f).empties = s.empties := by rw [retire_rest]
@[simp] theorem retire_poison (s : State) (w : Who) (f : PcFlow) : (s.retire w f).poison = s.poison := by rw [retire_rest]

/-- No loop: the PC advances. -/
theorem endIteration_nil (pc : Word) : endIteration pc [] = ([], none) := rfl

/-- The innermost loop is frozen, or does not end here. -/
theorem endIteration_stay (pc : Word) (l : LoopEntry) (r : List LoopEntry) (h : l.frozen = true ∨ pc ≠ lastOf l) :
    endIteration pc (l :: r) = (l :: r, none) := by
  rw [endIteration, if_neg]
  rcases h with h | h
  · simp [h]
  · simp only [Bool.and_eq_true, beq_iff_eq, Bool.not_eq_true', not_and]
    exact fun _ e => h e.symm

/-- The innermost loop has an iteration more. -/
theorem endIteration_again (pc : Word) (l : LoopEntry) (r : List LoopEntry) (h1 : l.frozen = false) (h2 : pc = lastOf l)
    (h3 : 1 < l.count) : endIteration pc (l :: r) = ({ l with count := l.count - 1 } :: r, some l.start) := by
  rw [endIteration, if_pos (by simp [h1, h2]), if_pos h3]

/-- The innermost loop ends for good. -/
theorem endIteration_ends (pc : Word) (l : LoopEntry) (r : List LoopEntry) (h1 : l.frozen = false) (h2 : pc = lastOf l)
    (h3 : l.count ≤ 1) : endIteration pc (l :: r) = endIteration pc r := by
  rw [endIteration, if_pos (by simp [h1, h2]), if_neg (by omega)]

/-- What a taken transfer pops and what it keeps. -/
theorem popOutside_spec (t : Word) (l : List LoopEntry) : ∃ gone, l = gone ++ popOutside t l ∧
    (∀ e ∈ gone, e.frozen = false ∧ loopHolds e t = false) ∧
    (∀ e ∈ (popOutside t l).head?, e.frozen = true ∨ loopHolds e t = true) := by
  induction l with
  | nil => exact ⟨[], rfl, by simp, by simp [popOutside]⟩
  | cons l r ih =>
    by_cases h : (l.frozen || loopHolds l t) = true
    · refine ⟨[], by simp [popOutside, h], by simp, ?_⟩
      rw [popOutside, if_pos h]
      simpa using h
    · obtain ⟨g, h1, h2, h3⟩ := ih
      have hp : popOutside t (l :: r) = popOutside t r := by rw [popOutside, if_neg h]
      refine ⟨l :: g, by rw [hp, List.cons_append, ← h1], ?_, by rw [hp]; exact h3⟩
      intro e he
      rcases List.mem_cons.1 he with rfl | he
      · simpa using h
      · exact h2 e he

end Sys2Proof.Machine
end

