-- ==== Sys2Proof/Laws/Encoding.lean ====
section
/-! SUPPORT. The fields of a word built by `put` (Sys2Proof/Decode.lean), for the round trips of the encoder. -/
namespace Sys2Proof

/-- A field above the last one written is a field of the rest. -/
theorem put_above {n : Nat} (x : BitVec n) (h : BitVec 32) (s l : Nat) (h1 : n ≤ s) (h2 : s + l ≤ 32) :
    (put x h).extractLsb' s l = h.extractLsb' (s - n) l := by
  apply BitVec.eq_of_getLsbD_eq
  intro i hi
  have e : s - n + i = s + i - n := by omega
  have h3 : x.getLsbD (s + i) = false := BitVec.getLsbD_of_ge x _ (by omega)
  have h5 : s + i < 32 := by omega
  have h6 : ¬ s + i < n := by omega
  have h7 : s + i - n < 32 := by omega
  simp [put, BitVec.getLsbD_extractLsb', e, h3, h5, h6, BitVec.getLsbD_eq_getElem h7]

/-- A field inside the last one written is a field of it. -/
theorem put_below {n : Nat} (x : BitVec n) (h : BitVec 32) (s l : Nat) (h1 : s + l ≤ n) (h2 : n ≤ 32) :
    (put x h).extractLsb' s l = x.extractLsb' s l := by
  apply BitVec.eq_of_getLsbD_eq
  intro i hi
  have h5 : s + i < n := by omega
  have h6 : s + i < 32 := by omega
  simp [put, BitVec.getLsbD_extractLsb', h5, h6]

/-- One bit above the last field. -/
theorem put_bit_above {n : Nat} (x : BitVec n) (h : BitVec 32) (s : Nat) (h1 : n ≤ s) (h2 : s < 32) :
    (put x h).getLsbD s = h.getLsbD (s - n) := by
  have h3 : x.getLsbD s = false := BitVec.getLsbD_of_ge x s (by omega)
  have h6 : ¬ s < n := by omega
  have h7 : s - n < 32 := by omega
  simp [put, h3, h2, h6, BitVec.getLsbD_eq_getElem h7]

/-- One bit of the last field. -/
theorem put_bit_below {n : Nat} (x : BitVec n) (h : BitVec 32) (s : Nat) (h1 : s < n) (h2 : n ≤ 32) :
    (put x h).getLsbD s = x.getLsbD s := by
  have h3 : s < 32 := by omega
  simp [put, h1, h3]

/-- The whole of a field. -/
theorem field_all {n : Nat} (x : BitVec n) : x.extractLsb' 0 n = x := by
  apply BitVec.eq_of_getLsbD_eq
  intro i hi
  simp [hi]

theorem qualOf_bits (q : Qual) : qualOf (qualBits q) = q := by cases q <;> rfl
theorem ewOf_bits (e : Ew) : ewOf (ewBits e) = e := by cases e <;> rfl
theorem rmOf_bits (r : Rm) : rmOf (rmBits r) = some r := by cases r <;> rfl
theorem redOf_bits (o : RedOp) : redOf (redBits o) = o := by cases o <;> rfl
theorem kindOf_bits (k : FenceKind) : kindOf (kindBits k) = some k := by cases k <;> rfl
theorem scopeOf_bits (s : Scope) : scopeOf (scopeBits s) = some s := by cases s <;> rfl
theorem hintOf_bits (h : Hint) : hintOf (hintBits h) = some h := by cases h <;> rfl

/-- What the decoder answers for a word whose map entry is a well-formed instruction. -/
theorem decode_of {w : BitVec 32} {i : Instr} (h : decodeMap w = some i) (hw : i.wf = true) : decode w = some i := by
  unfold decode; rw [h]; simp [hw]

/-- The last field written is the lowest field. -/
theorem put_last {n : Nat} (x : BitVec n) (h : BitVec 32) (hn : n ≤ 32) : (put x h).extractLsb' 0 n = x := by
  rw [put_below _ _ _ _ (by omega) hn, field_all]

theorem bool_bit (b : Bool) : (BitVec.ofBool b).getLsbD 0 = b := by cases b <;> rfl

/-! A word goes to the decoder of its major opcode (R29), a word of an engine unit to the decoder of its unit (R30). -/
theorem map_Alu (w : BitVec 32) (h : w.extractLsb' 26 6 = 1#6) : decodeMap w = decodeAlu w := by
  unfold decodeMap; rw [h]; rfl
theorem map_Fpu (w : BitVec 32) (h : w.extractLsb' 26 6 = 2#6) : decodeMap w = decodeFpu w := by
  unfold decodeMap; rw [h]; rfl
theorem map_Shi (w : BitVec 32) (h : w.extractLsb' 26 6 = 9#6) : decodeMap w = decodeShi w := by
  unfold decodeMap; rw [h]; rfl
theorem map_Br (w : BitVec 32) (h : w.extractLsb' 26 6 = 28#6) : decodeMap w = decodeBr w := by
  unfold decodeMap; rw [h]; rfl
theorem map_Lp (w : BitVec 32) (h : w.extractLsb' 26 6 = 31#6) : decodeMap w = decodeLp w := by
  unfold decodeMap; rw [h]; rfl
theorem map_Vi (w : BitVec 32) (h : w.extractLsb' 26 6 = 32#6) : decodeMap w = decodeVi w := by
  unfold decodeMap; rw [h]; rfl
theorem map_Vis (w : BitVec 32) (h : w.extractLsb' 26 6 = 33#6) : decodeMap w = decodeVis w := by
  unfold decodeMap; rw [h]; rfl
theorem map_Vf (w : BitVec 32) (h : w.extractLsb' 26 6 = 34#6) : decodeMap w = decodeVf w := by
  unfold decodeMap; rw [h]; rfl
theorem map_Vfs (w : BitVec 32) (h : w.extractLsb' 26 6 = 35#6) : decodeMap w = decodeVfs w := by
  unfold decodeMap; rw [h]; rfl
theorem map_Vx (w : BitVec 32) (h : w.extractLsb' 26 6 = 36#6) : decodeMap w = decodeVx w := by
  unfold decodeMap; rw [h]; rfl
theorem map_Vm (w : BitVec 32) (h : w.extractLsb' 26 6 = 37#6) : decodeMap w = decodeVm w := by
  unfold decodeMap; rw [h]; rfl
theorem map_Vgs (w : BitVec 32) (h : w.extractLsb' 26 6 = 40#6) : decodeMap w = decodeVgs w := by
  unfold decodeMap; rw [h]; rfl
theorem map_Eng (w : BitVec 32) (h : w.extractLsb' 26 6 = 48#6) : decodeMap w = decodeEng w := by
  unfold decodeMap; rw [h]; rfl
theorem map_Amo (w : BitVec 32) (h : w.extractLsb' 26 6 = 49#6) : decodeMap w = decodeAmo w := by
  unfold decodeMap; rw [h]; rfl
theorem map_Sys (w : BitVec 32) (h : w.extractLsb' 26 6 = 50#6) : decodeMap w = decodeSys w := by
  unfold decodeMap; rw [h]; rfl
theorem eng_Msg (w : BitVec 32) (h : w.extractLsb' 23 3 = 0#3) : decodeEng w = decodeEngMsg w := by
  unfold decodeEng; rw [h]; rfl
theorem eng_Sync (w : BitVec 32) (h : w.extractLsb' 23 3 = 1#3) : decodeEng w = decodeEngSync w := by
  unfold decodeEng; rw [h]; rfl
theorem eng_Copy (w : BitVec 32) (h : w.extractLsb' 23 3 = 2#3) : decodeEng w = decodeEngCopy w := by
  unfold decodeEng; rw [h]; rfl
theorem eng_Mtx (w : BitVec 32) (h : w.extractLsb' 23 3 = 3#3) : decodeEng w = decodeEngMtx w := by
  unfold decodeEng; rw [h]; rfl
theorem eng_Sig (w : BitVec 32) (h : w.extractLsb' 23 3 = 4#3) : decodeEng w = decodeEngSig w := by
  unfold decodeEng; rw [h]; rfl
theorem eng_Xing (w : BitVec 32) (h : w.extractLsb' 23 3 = 5#3) : decodeEng w = decodeEngXing w := by
  unfold decodeEng; rw [h]; rfl
theorem eng_Gen (w : BitVec 32) (h : w.extractLsb' 23 3 = 7#3) : decodeEng w = decodeEngGen w := by
  unfold decodeEng; rw [h]; rfl

end Sys2Proof
end

