-- ==== Sys2Proof/Laws/Frame.lean ====
section
/-! SUPPORT. What the sending of accesses can do (R90, R92, R297, R310): it reaches no memory, no granule, no other holder, and no
poison mark but one that a whole line of an Exclusive L1 line clears (R308), and of its own holder only the records of what is outstanding and the held failure. -/
namespace Sys2Proof.Machine

/-- A holder but for its records of outstanding accesses and its held failure. -/
def Holder.settled (h : Holder) : Holder := { h with unsettled := [], stores := [], failure := none, nfail := 0 }

/-- What sending accesses of holder `w` leaves. -/
structure Sent (w : Who) (s t : State) : Prop where
  mem : t.mem = s.mem
  empties : t.empties = s.empties
  poison : ∀ n, n ∈ t.poison → n ∈ s.poison
  others : ∀ v, v ≠ w → t.holder v = s.holder v
  own : (t.holder w).settled = (s.holder w).settled

theorem Sent.refl (w : Who) (s : State) : Sent w s s := ⟨rfl, rfl, fun _ hn => hn, fun _ _ => rfl, rfl⟩

theorem Sent.trans {w : Who} {s t u : State} (h : Sent w s t) (k : Sent w t u) : Sent w s u :=
  ⟨k.mem.trans h.mem, k.empties.trans h.empties, fun n hn => h.poison n (k.poison n hn),
   fun v hv => (k.others v hv).trans (h.others v hv), k.own.trans h.own⟩

/-- A change of tables that hold no holder and no memory. -/
theorem Sent.table {w : Who} {s t u : State} (h : Sent w s t) (h1 : u.mem = t.mem) (h2 : u.empties = t.empties)
    (h3 : ∀ n, n ∈ u.poison → n ∈ t.poison) (h4 : u.stations = t.stations) : Sent w s u := by
  have e : ∀ v, u.holder v = t.holder v := fun v => by simp only [State.holder, State.station, h4]
  exact ⟨h1.trans h.mem, h2.trans h.empties, fun n hn => h.poison n (h3 n hn), fun v hv => (e v).trans (h.others v hv),
    by rw [e]; exact h.own⟩

theorem Sent.later {w : Who} {s t : State} (h : Sent w s t) (e : Instr) : Sent w s (t.later e) :=
  h.table rfl rfl (fun _ hn => hn) rfl

theorem Sent.record {w : Who} {s t : State} (h : Sent w s t) (k c kd sub : Nat) (a sy cx : Word) :
    Sent w s (t.record k c kd sub a sy cx) := h.table rfl rfl (fun _ hn => hn) rfl

/-- A change of a station that leaves its cores. -/
theorem Sent.station {w : Who} {s t : State} (h : Sent w s t) (st : Nat) (f : Station → Station)
    (hf : ∀ x, (f x).cores = x.cores) : Sent w s (t.modStation st f) := by
  have e : ∀ v, (t.modStation st f).holder v = t.holder v := by
    intro v
    by_cases e : v.st = st
    · subst e; simp [State.holder, hf]
    · simp [State.holder, station_modStation_other _ _ _ _ e]
  exact ⟨h.mem, h.empties, h.poison, fun v hv => (e v).trans (h.others v hv), by rw [e]; exact h.own⟩

/-- A change of the holder that keeps what is kept. -/
theorem Sent.holder {w : Who} {s t : State} (h : Sent w s t) (k : Holder) (hk : k.settled = (t.holder w).settled) :
    Sent w s (t.setHolder w k) :=
  ⟨h.mem, h.empties, h.poison, fun v hv => (holder_setHolder_other _ _ _ _ hv).trans (h.others v hv),
   by rw [holder_setHolder_same, hk]; exact h.own⟩

theorem Sent.foldl {α : Type} {w : Who} {s t : State} (l : List α) (f : State → α → State)
    (hf : ∀ u a, a ∈ l → Sent w s u → Sent w s (f u a)) (h : Sent w s t) : Sent w s (l.foldl f t) := by
  induction l generalizing t with
  | nil => exact h
  | cons a r ih => exact ih (fun u b hb => hf u b (List.mem_cons_of_mem _ hb)) (hf _ _ List.mem_cons_self h)

/-- A count leaves holders and memory. -/
theorem Sent.count {w : Who} {s t : State} (h : Sent w s t) (st ev n : Nat) : Sent w s (t.countEvent st ev n) := by
  have c := countEvent_counted t st ev n
  have hp : (t.countEvent st ev n).poison = t.poison := by rw [c.rest]
  refine h.trans ⟨?_, ?_, fun _ hn => hp ▸ hn, fun v _ => c.holders v, by rw [c.holders]⟩ <;> rw [c.rest]

theorem Sent.partBack {w : Who} {s t : State} (h : Sent w s t) (op off : Nat) (bs : List Byte) (tr : Option TrapInfo) :
    Sent w s (t.partBack w op off bs tr) := by
  unfold State.partBack
  simp only
  split
  · exact h
  · split
    · refine Sent.later ?_ _
      refine h.holder _ ?_
      rfl
    · refine h.holder _ ?_
      rfl

theorem Sent.storeDone {w : Who} {s t : State} (h : Sent w s t) (op : Nat) : Sent w s (t.storeDone w op) := by
  refine h.holder _ ?_
  rfl

theorem Sent.holdFailure {w : Who} {s t : State} (h : Sent w s t) (a : Access) (ha : a.who = w) (c : Nat) (x : Word) :
    Sent w s (t.holdFailure a c x) := by
  unfold State.holdFailure
  split
  · subst ha
    refine h.holder _ ?_
    cases hf : (t.holder a.who).failure <;> simp [hf, Holder.settled]
  · exact h

theorem Sent.storeFailed {w : Who} {s t : State} (h : Sent w s t) (p : AccPart) (hp : p.acc.who = w) (c b : Nat) :
    Sent w s (t.storeFailed p c b) := by
  unfold State.storeFailed
  split
  · simp only [hp]
    refine Sent.storeDone ?_ _
    split
    · exact h.record ..
    · exact (h.record ..).holdFailure _ hp _ _
  · exact h.record ..

/-- A part that is not performed (R91, R325): no fetch. -/
theorem Sent.failPart {w : Who} {s t : State} (h : Sent w s t) (p : AccPart) (hp : p.acc.who = w) (hk : p.kind ≠ .fetch)
    (x : TrapInfo) (b : Nat) : Sent w s (t.failPart p x b) := by
  unfold State.failPart
  split
  · rw [hp]; exact h.partBack ..
  · rw [hp]; exact h.partBack ..
  · exact h.storeFailed p hp ..
  · exact h.storeFailed p hp ..
  · exact h
  · exact absurd (by assumption) hk

theorem Sent.sendNear {w : Who} {s t : State} (h : Sent w s t) (p : AccPart) (hp : p.acc.who = w) (hk : p.kind ≠ .fetch)
    (e : Instr) : Sent w s (t.sendNear p e) := by
  unfold State.sendNear
  split
  · exact h.later _
  · simp only
    split
    · exact h.station _ _ (fun _ => rfl)
    · split
      · exact h.failPart p hp hk _ _
      · exact h.later _

theorem Sent.evict {w : Who} {s t : State} (h : Sent w s t) (st : Nat) (l : L1Line) : Sent w s (t.evict st l) := by
  unfold State.evict
  have h1 := h.station st (fun x => x.dropLine l) (fun _ => rfl)
  simp only
  split
  · exact h1.later _
  · split
    · exact h1.station _ _ (fun _ => rfl)
    · exact Sent.foldl _ _ (fun _ _ _ h => h.later _) h1

theorem Sent.touchLine {w : Who} {s t : State} (h : Sent w s t) (st : Nat) (l : L1Line) : Sent w s (t.touchLine st l) :=
  h.station _ _ (fun _ => rfl)

theorem Sent.l1Allocate {w : Who} {s t : State} (h : Sent w s t) (p : AccPart) (ws : List AccPart) (a b : Bool) :
    Sent w s (t.l1Allocate p ws a b).1 := by
  unfold State.l1Allocate
  have hc : Sent w s (t.countMiss p.acc.who.st p.acc.tenant) := (h.count _ _ _).count _ _ _
  simp only
  split
  · exact hc
  · simp only
    refine Sent.station ?_ _ _ ?_
    · split
      · exact hc.evict _ _
      · exact hc
    · intro x; rfl

theorem Sent.joinLine {w : Who} {s t : State} (h : Sent w s t) (l : L1Line) (p : AccPart) : Sent w s (t.joinLine l p) :=
  h.station _ _ (fun _ => rfl)

theorem Sent.fillFor {w : Who} {s t : State} (h : Sent w s t) (l : L1Line) (p : AccPart) (send : AccPart → Instr) :
    Sent w s (t.fillFor l p send) := by
  unfold State.fillFor
  simp only
  split
  · exact (h.joinLine _ _).later _
  · exact h.joinLine _ _

/-- A write into an Exclusive line may clear the line's poison mark (R308). -/
theorem Sent.l1Write {w : Who} {s t : State} (h : Sent w s t) (st : Nat) (l : L1Line) (va : Nat) (bs : List Byte) :
    Sent w s (t.l1Write st l va bs) := by
  unfold State.l1Write
  simp only
  have k := h.station st (fun y => y.setLine { l1Put l va bs with
    dirty0 := l.dirty0 || touches0 va bs.length, dirty1 := l.dirty1 || touches1 va bs.length }) (fun _ => rfl)
  split
  · exact k.table rfl rfl (fun n hn => by simp only [setDel, List.mem_filter] at hn; exact hn.1) rfl
  · exact k

theorem Sent.ask {w : Who} {s t : State} (h : Sent w s t) (p : AccPart) (send : AccPart → Instr) : Sent w s (t.ask p send) := by
  refine (h.station _ _ (fun x => ?_)).later _
  split <;> rfl

theorem Sent.amoInLine {w : Who} {s t : State} (h : Sent w s t) (l : L1Line) (p : AccPart) (hp : p.acc.who = w) (op : AmoOp)
    (wide : Bool) : Sent w s (t.amoInLine l p op wide) := by
  unfold State.amoInLine
  simp only [hp]
  exact (h.l1Write ..).partBack ..

theorem Sent.l1Load {w : Who} {s t : State} (h : Sent w s t) (p : AccPart) (hp : p.acc.who = w) : Sent w s (t.l1Load p) := by
  unfold State.l1Load
  simp only
  split
  · exact h.later _
  · split
    · rename_i l _
      have h1 := h.touchLine p.acc.who.st l
      split
      · exact h1.joinLine _ _
      · split
        · exact h1.later _
        · split
          · rw [hp] at h1 ⊢; exact h1.partBack ..
          · exact h1.fillFor ..
    · have ha := h.l1Allocate p [p] (touches0 (p.addr.toNat % 2 ^ 52) p.size) (touches1 (p.addr.toNat % 2 ^ 52) p.size)
      split
      · rename_i e; rw [e] at ha; exact ha.later _
      · rename_i e; rw [e] at ha; exact ha.later _

theorem Sent.l1Store {w : Who} {s t : State} (h : Sent w s t) (p : AccPart) (hp : p.acc.who = w) : Sent w s (t.l1Store p) := by
  unfold State.l1Store
  simp only
  split
  · split
    · exact h.joinLine _ _
    · split
      · split
        · exact h.later _
        · rw [hp]; exact (h.l1Write ..).storeDone _
      · refine Sent.later (h.station _ _ ?_) _
        intro x; rfl
  · exact h.later _

theorem Sent.l1Amo {w : Who} {s t : State} (h : Sent w s t) (p : AccPart) (hp : p.acc.who = w) (op : AmoOp) (wide : Bool) :
    Sent w s (t.l1Amo p op wide) := by
  unfold State.l1Amo
  simp only
  split
  · exact h.later _
  · split
    · rename_i l _
      have h1 := h.touchLine p.acc.who.st l
      split
      · exact h1.joinLine _ _
      · split
        · split
          · exact h1.later _
          · exact h1.amoInLine _ _ hp _ _
        · split
          · exact h1.later _
          · exact h1.ask _ _
    · have ha := h.l1Allocate p [] false false
      split
      · rename_i e; rw [e] at ha; exact ha.later _
      · rename_i e; rw [e] at ha; exact ha.ask _ _

theorem Sent.redInLine {w : Who} {s t : State} (h : Sent w s t) (l : L1Line) (p : AccPart) (hp : p.acc.who = w) (op : AmoOp)
    (wide : Bool) : Sent w s (t.redInLine l p op wide) := by
  unfold State.redInLine
  simp only [hp]
  exact (h.l1Write ..).storeDone _

theorem Sent.l1Red {w : Who} {s t : State} (h : Sent w s t) (p : AccPart) (hp : p.acc.who = w) (op : AmoOp) (wide : Bool) :
    Sent w s (t.l1Red p op wide) := by
  unfold State.l1Red
  simp only
  split
  · split
    · exact h.joinLine _ _
    · split
      · exact h.redInLine _ _ hp _ _
      · exact h.later _
  · exact h.later _

/-- A part starts out (R297, R310). -/
theorem Sent.startPart {w : Who} {s t : State} (h : Sent w s t) (p : AccPart) (hp : p.acc.who = w) (hk : p.kind ≠ .fetch) :
    Sent w s (t.startPart p) := by
  unfold State.startPart
  split
  · split
    · exact h.l1Load p hp
    · exact h.l1Store p hp
    · exact h.l1Amo p hp _ _
    · exact h.l1Red p hp _ _
    · exact h.later _
  · unfold State.sendPart
    split
    · exact h.later _
    · exact h.sendNear p hp hk _

theorem Sent.startParts {w : Who} {s t : State} (h : Sent w s t) (ps : List AccPart)
    (hp : ∀ p ∈ ps, p.acc.who = w ∧ p.kind ≠ .fetch) : Sent w s (t.startParts ps) :=
  Sent.foldl _ _ (fun _ a ha h => h.startPart a (hp a ha).1 (hp a ha).2) h

/-- A change of the holder `w` alone, up to which things stay. -/
theorem Sent.after {w : Who} {s t : State} (k : Holder) (h : Sent w (s.setHolder w k) t) :
    t.mem = s.mem ∧ t.empties = s.empties ∧ (∀ n, n ∈ t.poison → n ∈ s.poison) ∧ (∀ v, v ≠ w → t.holder v = s.holder v) ∧
    (t.holder w).settled = k.settled :=
  ⟨h.mem, h.empties, h.poison, fun v hv => (h.others v hv).trans (holder_setHolder_other _ _ _ _ hv),
   by rw [h.own, holder_setHolder_same]⟩

/-! ## The full/empty states of registers (R21, R24) -/

theorem avail_kept (h k : Holder) (e : h.settled = k.settled) (n : RegName) : h.avail n = k.avail n := by
  have es : h.s = k.s := (congrArg Holder.s e : _)
  have ev : h.v = k.v := (congrArg Holder.v e : _)
  cases n <;> simp [Holder.avail, es, ev]
theorem setAvail_other (h : Holder) (n m : RegName) (a : Avail) (hn : m ≠ n) : (h.setAvail n a).avail m = h.avail m := by
  cases n <;> cases m <;> simp [Holder.setAvail, Holder.avail]
  · rename_i r q
    split
    · rfl
    · split
      · rfl
      · have : r.toNat ≠ q.toNat := fun e => hn (by rw [BitVec.eq_of_toNat_eq e])
        simp [this]
  · split <;> rfl
  · rename_i r q
    have : r.toNat ≠ q.toNat := fun e => hn (by rw [BitVec.eq_of_toNat_eq e])
    simp [this]
theorem setAvail_same (h : Holder) (n : RegName) (a : Avail) (hn : n ≠ .s 0) : (h.setAvail n a).avail n = a := by
  cases n with
  | s r =>
    have hr : r ≠ 0 := fun e => hn (by rw [e])
    simp only [Holder.setAvail, Holder.avail, if_neg hr]
    simp
  | v r => simp [Holder.setAvail, Holder.avail]
theorem setAvail_rd (h : Holder) (n : RegName) (a : Avail) (r : Reg) : (h.setAvail n a).rd r = h.rd r := by
  cases n with
  | s q =>
    simp only [Holder.setAvail]
    split
    · rfl
    · simp only [Holder.rd]
      split
      · rfl
      · simp only [Vector.getElem_set]
        split
        · rename_i e; simp [e]
        · rfl
  | v q => rfl
theorem setAvail_rdv (h : Holder) (n : RegName) (a : Avail) (r : Reg) : (h.setAvail n a).rdv r = h.rdv r := by
  cases n with
  | s q => simp only [Holder.setAvail]; split <;> rfl
  | v q =>
    simp only [Holder.setAvail, Holder.rdv, Vector.getElem_set]
    split
    · rename_i e; simp [e]
    · rfl
theorem foldl_setAvail_other (a : Avail) (l : List RegName) (h : Holder) (m : RegName) (hm : m ∉ l) :
    (l.foldl (fun (k : Holder) n => k.setAvail n a) h).avail m = h.avail m := by
  induction l generalizing h with
  | nil => rfl
  | cons n r ih =>
    simp only [List.mem_cons, not_or] at hm
    rw [List.foldl_cons, ih _ hm.2, setAvail_other _ _ _ _ hm.1]
theorem foldl_setAvail_mem (a : Avail) (l : List RegName) (h : Holder) (m : RegName) (hm : m ∈ l) (h0 : m ≠ .s 0) :
    (l.foldl (fun (k : Holder) n => k.setAvail n a) h).avail m = a := by
  induction l generalizing h with
  | nil => simp at hm
  | cons n r ih =>
    rw [List.foldl_cons]
    by_cases hr : m ∈ r
    · exact ih _ hr
    · rw [foldl_setAvail_other a r _ m hr]
      have : m = n := by simpa [hr] using hm
      subst this
      exact setAvail_same _ _ _ h0
theorem foldl_setAvail_rd (a : Avail) (l : List RegName) (h : Holder) (m) :
    (l.foldl (fun (k : Holder) n => k.setAvail n a) h).rd m = h.rd m := by
  induction l generalizing h with
  | nil => rfl
  | cons n r ih => rw [List.foldl_cons, ih, setAvail_rd]
theorem foldl_setAvail_rdv (a : Avail) (l : List RegName) (h : Holder) (m) :
    (l.foldl (fun (k : Holder) n => k.setAvail n a) h).rdv m = h.rdv m := by
  induction l generalizing h with
  | nil => rfl
  | cons n r ih => rw [List.foldl_cons, ih, setAvail_rdv]
theorem foldl_setAvail_regs (a : Avail) (l : List RegName) (h : Holder) :
    ∃ s v, (l.foldl (fun (k : Holder) n => k.setAvail n a) h) = { h with s := s, v := v } := by
  induction l generalizing h with
  | nil => exact ⟨h.s, h.v, rfl⟩
  | cons n r ih =>
    rw [List.foldl_cons]
    obtain ⟨s, v, e⟩ := ih (h.setAvail n a)
    rw [e]
    cases n with
    | s q =>
      simp only [Holder.setAvail]
      split
      · exact ⟨_, _, rfl⟩
      · exact ⟨_, _, rfl⟩
    | v q => exact ⟨_, _, rfl⟩

end Sys2Proof.Machine
end

