-- ==== Sys2Proof/Laws/Homes.lean ====
section
/-! SUPPORT. What the granule sets of a home hold after an operation and when a home performs an arriving access (R86 to R89, R334).
-/
namespace Sys2Proof.Laws
open Sys2Proof Sys2Proof.Machine

/-- The blocks of g bytes that n bytes at a touch. -/
theorem mem_blocks (g a n k : Nat) (_hg : 0 < g) : k ∈ blocks g a n ↔ 0 < n ∧ a / g ≤ k ∧ k ≤ (a + n - 1) / g := by
  unfold blocks span
  split
  · rename_i h; simp [h]
  · rename_i h
    have : a / g ≤ (a + n - 1) / g := Nat.div_le_div_right (by omega)
    simp only [List.mem_map, List.mem_range]
    constructor
    · rintro ⟨i, hi, rfl⟩; omega
    · rintro ⟨_, h1, h2⟩; exact ⟨k - a / g, by omega, by omega⟩

/-- A number is in a sorted list after an insertion when it was there or is the one inserted. -/
theorem mem_setIns (n k : Nat) (l : List Nat) : k ∈ setIns n l ↔ k = n ∨ k ∈ l := by
  induction l with
  | nil => simp [setIns]
  | cons x r ih =>
    simp only [setIns]
    split
    · simp
    · split
      · rename_i h; simp [h]
      · simp [ih]; constructor <;> (rintro (h | h | h) <;> simp_all)

/-- The same for many insertions. -/
theorem mem_foldl_setIns (gs l : List Nat) (k : Nat) : k ∈ gs.foldl (fun p g => setIns g p) l ↔ k ∈ l ∨ k ∈ gs := by
  induction gs generalizing l with
  | nil => simp
  | cons g r ih =>
    rw [List.foldl_cons, ih, mem_setIns, List.mem_cons]
    constructor
    · rintro ((h | h) | h)
      · exact .inr (.inl h)
      · exact .inl h
      · exact .inr (.inr h)
    · rintro (h | h | h)
      · exact .inl (.inr h)
      · exact .inl (.inl h)
      · exact .inr h

/-- An access is full when no granule it covers is EMPTY. -/
theorem full_iff (s : State) (a n : Nat) : s.fullAt a n = true ↔ ∀ g ∈ blocks 16 a n, g ∉ s.empties := by
  simp [State.fullAt, Config.granuleSize]

/-- An access is empty when every granule it covers is EMPTY. -/
theorem empty_iff (s : State) (a n : Nat) : s.emptyAt a n = true ↔ ∀ g ∈ blocks 16 a n, g ∈ s.empties := by
  simp [State.emptyAt, Config.granuleSize]

/-- An access is poisoned when a line it touches is. -/
theorem poisoned_iff (s : State) (a n : Nat) : s.poisonedAt a n = true ↔ ∃ l ∈ blocks 128 a n, l ∈ s.poison := by
  simp [State.poisonedAt, Config.lineSize]

/-- When an access arriving at its home may be performed at once (R88, R89): its condition holds and no access of its own holder waits there on a granule of it. -/
theorem may_iff (s : State) (p : AccPart) : s.mayPerform s.waiting p = true ↔ ¬ (
      ((p.qual = .waitfFill ∨ p.qual = .takeFillw) ∧ p.kind = .load ∧ ¬ (∀ g ∈ blocks 16 (partAt p) p.size, g ∉ s.empties)) ∨
      (p.qual = .takeFillw ∧ p.kind = .store ∧ ¬ (∀ g ∈ blocks 16 (partAt p) p.size, g ∈ s.empties)) ∨
      (∃ q ∈ s.waiting, q.acc.who = p.acc.who ∧ ∃ g ∈ blocks 16 (partAt p) p.size, g ∈ blocks 16 (partAt q) q.size)) := by
  have hb : (s.waiting.any (fun q => q.acc.who == p.acc.who && shareGranule p q) = true) ↔ (∃ q ∈ s.waiting, q.acc.who = p.acc.who ∧ ∃ g ∈ blocks 16 (partAt p) p.size, g ∈ blocks 16 (partAt q) q.size) := by
    simp [shareGranule, Config.granuleSize]
  have hc : s.condition p = true ↔ ¬ (((p.qual = .waitfFill ∨ p.qual = .takeFillw) ∧ p.kind = .load ∧ ¬ (∀ g ∈ blocks 16 (partAt p) p.size, g ∉ s.empties)) ∨
      (p.qual = .takeFillw ∧ p.kind = .store ∧ ¬ (∀ g ∈ blocks 16 (partAt p) p.size, g ∈ s.empties))) := by
    rw [← full_iff, ← empty_iff]
    unfold State.condition
    cases p.qual <;> cases p.kind <;> simp
  simp only [State.mayPerform, Bool.and_eq_true, Bool.not_eq_true']
  rw [hc, Bool.eq_false_iff, Ne, hb]
  constructor
  · rintro ⟨h1, h2⟩ (h | h | h)
    · exact h1 (.inl h)
    · exact h1 (.inr h)
    · exact h2 h
  · intro h
    exact ⟨fun hh => h (hh.elim .inl (fun x => .inr (.inl x))), fun hh => h (.inr (.inr hh))⟩

end Sys2Proof.Laws
end

