-- ==== Sys2Proof/Laws/Lanes.lean ====
section
/-! SUPPORT. Vector and mask registers element by element (R58, R100). -/
namespace Sys2Proof.Machine

theorem packNat_shift (b : Nat) (xs : List Nat) (k : Nat) :
    ((xs.zipIdx k).map (fun e => e.1 % 2 ^ b * 2 ^ (b * e.2))).sum = 2 ^ (b * k) * packNat b xs := by
  induction xs generalizing k with
  | nil => simp [packNat]
  | cons x r ih =>
    have h1 : packNat b (x :: r) = x % 2 ^ b * 2 ^ (b * 0) + 2 ^ (b * 1) * packNat b r := by
      rw [← ih 1]; rfl
    simp only [List.zipIdx_cons, List.map_cons, List.sum_cons]
    have e1 : 2 ^ (b * (k + 1)) = 2 ^ (b * k) * 2 ^ b := by rw [Nat.mul_add, Nat.mul_one, Nat.pow_add]
    rw [ih (k + 1), h1, e1, Nat.mul_zero, Nat.pow_zero, Nat.mul_one, Nat.mul_one, Nat.mul_add, Nat.mul_assoc,
      Nat.mul_comm (x % 2 ^ b)]

theorem packNat_cons (b x : Nat) (r : List Nat) : packNat b (x :: r) = x % 2 ^ b + 2 ^ b * packNat b r := by
  have h := packNat_shift b r 1
  rw [Nat.mul_one] at h
  rw [← h]
  simp [packNat, List.zipIdx_cons]

/-- A field of packed numbers is the number packed there. -/
theorem packNat_field (w : Nat) (l : List Nat) (i : Nat) :
    packNat w l / 2 ^ (i * w) % 2 ^ w = (l.getD i 0) % 2 ^ w := by
  induction l generalizing i with
  | nil => simp [packNat]
  | cons x r ih =>
    have hp : 0 < 2 ^ w := Nat.two_pow_pos w
    have hx : x % 2 ^ w < 2 ^ w := Nat.mod_lt _ hp
    cases i with
    | zero => simp [packNat_cons, Nat.add_mul_mod_self_left]
    | succ i =>
      rw [packNat_cons, Nat.add_mul, Nat.one_mul, Nat.add_comm (i * w) w, Nat.pow_add, ← Nat.div_div_eq_div_mul,
        Nat.add_mul_div_left _ _ hp, Nat.div_eq_of_lt hx, Nat.zero_add, ih]
      rfl

/-- An element of a register built from its elements (R100). -/
theorem elem_buildV (w : Nat) (f : Nat → BitVec w) (i : Nat) (h : (i + 1) * w ≤ 2048) (hi : i < 2048 / w) :
    elem w (buildV w f) i = f i := by
  apply BitVec.eq_of_toNat_eq
  have e : (elem w (buildV w f) i).toNat = (buildV w f).toNat / 2 ^ (i * w) % 2 ^ w := by
    simp [elem, BitVec.extractLsb'_toNat, Nat.shiftRight_eq_div_pow]
  have hl : i * w ≤ 2048 := Nat.le_trans (Nat.mul_le_mul_right w (Nat.le_succ i)) h
  rw [e, buildV, BitVec.toNat_ofNat]
  have hm : ∀ n : Nat, n % 2 ^ 2048 / 2 ^ (i * w) % 2 ^ w = n / 2 ^ (i * w) % 2 ^ w := by
    intro n
    apply Nat.eq_of_testBit_eq
    intro j
    simp only [Nat.testBit_mod_two_pow, Nat.testBit_div_two_pow]
    by_cases hj : j < w
    · have : j + i * w < 2048 := by rw [Nat.add_mul, Nat.one_mul] at h; omega
      simp [hj, this]
    · simp [hj]
  rw [hm, packNat_field]
  simp [hi, Nat.mod_eq_of_lt (f i).isLt]

/-- A merge takes the new element where it is enabled (R58). -/
theorem elem_mergeV (w : Nat) (m : MWord) (old : VWord) (f : Nat → BitVec w) (i : Nat) (h : (i + 1) * w ≤ 2048)
    (hi : i < 2048 / w) : elem w (mergeV w m old f) i = if enabled m w i then f i else elem w old i :=
  elem_buildV w _ i h hi

/-- The element widths divide a register. -/
theorem ewBits_fits (e : Ew) (i : Nat) (h : i < 2048 / ewBits e) : (i + 1) * ewBits e ≤ 2048 := by
  cases e <;> simp only [ewBits] at h ⊢ <;> omega

/-- A sum of distinct powers of two stays below the next one. -/
theorem sum_bits_lt (f : Nat → Bool) (n : Nat) :
    ((List.range n).map (fun i => if f i then 2 ^ i else 0)).sum < 2 ^ n := by
  induction n with
  | zero => simp
  | succ n ih =>
    rw [List.range_succ, List.map_append, List.sum_append, Nat.pow_succ]
    simp only [List.map_cons, List.map_nil, List.sum_cons, List.sum_nil]
    split <;> omega

/-- A sum of distinct powers of two, read bit by bit. -/
theorem sum_bits (f : Nat → Bool) (n i : Nat) :
    (((List.range n).map (fun i => if f i then 2 ^ i else 0)).sum).testBit i = (decide (i < n) && f i) := by
  induction n with
  | zero => simp
  | succ n ih =>
    have hlt := sum_bits_lt f n
    rw [List.range_succ, List.map_append, List.sum_append]
    simp only [List.map_cons, List.map_nil, List.sum_cons, List.sum_nil, Nat.add_zero]
    by_cases hin : i = n
    · subst hin
      cases hf : f i
      · simp [ih]
      · simp only [if_true]
        rw [Nat.add_comm, Nat.testBit_two_pow_add_eq, Nat.testBit_lt_two_pow hlt]
        simp
    · have hd : decide (i < n + 1) = decide (i < n) := by simp; omega
      rw [hd, ← ih]
      split
      · rcases Nat.lt_or_ge i n with h | h
        · rw [Nat.add_comm, Nat.testBit_two_pow_add_gt h]
        · have hgt : n < i := by omega
          have h1 := Nat.testBit_lt_two_pow (Nat.lt_of_lt_of_le hlt (Nat.pow_le_pow_right (by omega) (Nat.le_of_lt hgt)))
          rw [h1]
          apply Nat.testBit_lt_two_pow
          have : 2 ^ (n + 1) ≤ 2 ^ i := Nat.pow_le_pow_right (by omega) hgt
          rw [Nat.pow_succ] at this
          omega
      · rw [Nat.add_zero]

/-- A mask register built from its bits. -/
theorem getLsbD_buildM (f : Nat → Bool) (i : Nat) (h : i < 256) : (buildM f).getLsbD i = f i := by
  rw [buildM, BitVec.getLsbD_ofNat, sum_bits]
  simp [h]

/-- A mask result: an enabled element's bits take its truth value (R106). -/
theorem getLsbD_mergeM (w : Nat) (m old : MWord) (f : Nat → Bool) (i : Nat) (h : i < 256) :
    (mergeM w m old f).getLsbD i = if enabled m w (8 * i / w) then f (8 * i / w) else old.getLsbD i :=
  getLsbD_buildM _ i h

/-! ## What a vector instruction comes to (R102 to R104) -/

theorem foldl_or (l : List Nat) (z : Nat) : l.foldl (· ||| ·) z = z ||| l.foldl (· ||| ·) 0 := by
  induction l generalizing z with
  | nil => simp
  | cons x r ih => rw [List.foldl_cons, List.foldl_cons, ih, ih (0 ||| x)]; simp [Nat.or_assoc]

theorem allFlags_cons (x : Nat) (r : List Nat) : allFlags (x :: r) = x ||| allFlags r := by
  simp only [allFlags, List.foldl_cons]
  rw [foldl_or]; simp

/-- Flags that are enabled have been raised by some lane, and so by a lowest one. -/
theorem findIdx_enabled (l : List Nat) (en : Nat) (h : allFlags l &&& en ≠ 0) :
    ∃ j, l.findIdx? (fun f => f &&& en != 0) = some j ∧ (∃ hj : j < l.length, l[j] &&& en ≠ 0) ∧
      ∀ i, (hi : i < l.length) → i < j → l[i] &&& en = 0 := by
  cases e : l.findIdx? (fun f => f &&& en != 0) with
  | none =>
    exfalso
    apply h
    have hn : ∀ x ∈ l, x &&& en = 0 := by simpa [List.findIdx?_eq_none_iff] using e
    clear e h
    induction l with
    | nil => simp [allFlags]
    | cons x r ih =>
      rw [allFlags_cons, Nat.and_or_distrib_right, hn x List.mem_cons_self,
        ih (fun y hy => hn y (List.mem_cons_of_mem _ hy))]
      rfl
  | some j =>
    obtain ⟨hj, h1, h2⟩ := List.findIdx?_eq_some_iff_getElem.1 e
    refine ⟨j, rfl, ⟨hj, by simpa using h1⟩, fun i hi hij => ?_⟩
    simpa using h2 i hij

/-- What raising the flags of lanes and then going on comes to. -/
theorem flagged_of (s : State) (srcs : List (RegName × Bool)) (n : Nat) (on : Nat → Bool) (fl : Nat → Nat) (o : Out)
    (go : State → State × PcFlow) (done : State → Prop)
    (ho : o = s.finish (((s.popAll s.cur srcs).raiseV s.cur
      ((List.range n).map (fun i => if on i then fl i else 0))).bind (fun u => .go (go u))))
    (hd : ∀ u, o = .next ((go u).1.retire s.cur (go u).2) → done u) : s.flagged srcs n on fl o done := by
  have hen : enabledOf ((s.popAll s.cur srcs).holder s.cur).vctl =
      ((s.popAll s.cur srcs).holder s.cur).vctl.toNat / 256 % 32 := by
    simp [enabledOf, bitsOf, Nat.shiftRight_eq_div_pow]
  have ha : raisedBy n on fl = allFlags ((List.range n).map (fun i => if on i then fl i else 0)) := rfl
  refine ⟨fun h => ?_, fun h => ?_⟩
  · rw [ha, ← hen] at h
    refine hd _ ?_
    rw [ho, State.raiseV, laneTrap]
    simp only [h, if_true, bind_go]
    rfl
  · rw [ha, ← hen] at h
    obtain ⟨j, e, ⟨hj, h1⟩, h2⟩ := findIdx_enabled _ _ h
    have hj' : j < n := by simpa using hj
    have hon : on j = true := by
      cases hx : on j
      · simp [hx] at h1
      · rfl
    refine ⟨j, hj', hon, ?_, ?_, ?_⟩
    · rw [← hen]; simpa [hon] using h1
    · intro i hi hoi
      rw [← hen]
      have := h2 i (by simpa using Nat.lt_trans hi hj') hi
      simpa [hoi] using this
    · rw [ho, State.raiseV, laneTrap]
      simp only [h, if_false, e, Option.getD_some]
      rfl

/-- A lane-by-lane instruction. -/
theorem vmap_result (s : State) (d : Reg) (srcs : List (RegName × Bool)) (w : Nat) (m : MReg) (k : Bool)
    (f : Nat → BitVec w × Nat) (h : s.ready .compute ⟨srcs ++ mergeSrc d m k, [.v d]⟩ = true)
    (hw : ∀ i, i < 2048 / w → (i + 1) * w ≤ 2048) : s.vectorResult d srcs w m k f (s.vmap d srcs w m k f) := by
  unfold State.vectorResult
  refine flagged_of _ _ _ _ _ _ (fun u => (u.writeV s.cur d (mergeV w (s.me.rdm m) (s.valV s.cur d) (fun i => (f i).1)), .next))
    _ ?_ (fun u hu => ?_)
  rotate_left
  · exact ⟨_, hu, fun i hi => elem_mergeV w _ _ _ i (hw i hi) hi⟩
  rw [State.vmap, issue_ready _ _ _ _ h]
  rfl

/-- A comparison into a mask register. -/
theorem vmaskOp_result (s : State) (d : MReg) (srcs : List (RegName × Bool)) (w : Nat) (m : MReg) (f : Nat → Bool × Nat)
    (h : s.ready .compute ⟨srcs, []⟩ = true) : s.maskResult d srcs w m f (s.vmaskOp d srcs w m f) := by
  unfold State.maskResult
  refine flagged_of _ _ _ _ _ _ (fun u => (u.writeM s.cur d (mergeM w (s.me.rdm m) (s.me.rdm d) (fun i => (f i).1)), .next))
    _ ?_ (fun u hu => ?_)
  rotate_left
  · exact ⟨_, hu, fun i hi => getLsbD_mergeM w _ _ _ i hi⟩
  rw [State.vmaskOp, issue_ready _ _ _ _ h]
  rfl

/-- The float widths divide a register too. -/
theorem ewFmt_fits (e : Ew) (i : Nat) (h : i < 2048 / (ewFmt e).width) : (i + 1) * (ewFmt e).width ≤ 2048 := by
  cases e <;> simp only [ewFmt, FFmt.width, bf16, fp16, fp32, fp64] at h ⊢ <;> omega

end Sys2Proof.Machine
end

