-- ==== Sys2Proof/Laws/Sums.lean ====
section
/-! SUPPORT. Integer sums over the trees of the reductions and scans (R129 to R131): the tree gives the plain sum. -/
namespace Sys2Proof.Laws
open Sys2Proof Sys2Proof.Machine

/-- The sum of a list of elements in which absent ones count as 0. -/
def sumv {w : Nat} (l : List (Option (BitVec w))) : BitVec w := (l.map (fun x => x.getD 0)).foldr (· + ·) 0

theorem sumv_cons {w} (x : Option (BitVec w)) (l) : sumv (x :: l) = x.getD 0 + sumv l := rfl

theorem sumv_nat {w} (l : List (Option (BitVec w))) : BitVec.ofNat w ((l.map (fun x => (x.getD 0).toNat)).sum) = sumv l := by
  induction l with
  | nil => rfl
  | cons x r ih => rw [sumv_cons, List.map_cons, List.sum_cons, BitVec.ofNat_add, ih]; simp

/-- One node of an integer sum: elements that take no part count as 0, and no flag is raised. -/
theorem combine_add (e rm) (w) (x y : Option (BitVec w)) :
    ((redCombine (redNode .add e rm w) x y).1).getD 0 = x.getD 0 + y.getD 0 ∧ (redCombine (redNode .add e rm w) x y).2 = 0 := by
  cases x <;> cases y <;> simp [redCombine, redNode]

/-- A level of the tree keeps the sum. -/
theorem level_add (e rm) (w) : ∀ (n : Nat) (l : List (Option (BitVec w))), l.length ≤ n →
    sumv (redLevel (redNode .add e rm w) l).1 = sumv l ∧ (redLevel (redNode .add e rm w) l).2 = 0 ∧
    (redLevel (redNode .add e rm w) l).1.length = (l.length + 1) / 2 := by
  intro n
  induction n using Nat.strongRecOn with
  | ind n ih =>
    intro l hl
    match l with
    | [] => exact ⟨rfl, rfl, by simp [redLevel]⟩
    | [x] => exact ⟨rfl, rfl, by simp [redLevel]⟩
    | x :: y :: r =>
      simp only [List.length_cons] at hl
      obtain ⟨h1, h2, h3⟩ := ih r.length (by omega) r (Nat.le_refl _)
      obtain ⟨c1, c2⟩ := combine_add e rm w x y
      simp only [redLevel, sumv_cons, h1, c1, h2, c2, List.length_cons, h3]
      refine ⟨BitVec.add_assoc .., by simp, by omega⟩

/-- The whole tree gives the sum. -/
theorem tree_add (e rm) (w) (k : Nat) : ∀ (l : List (Option (BitVec w))), l ≠ [] → l.length ≤ 2 ^ k →
    ((redTree (redNode .add e rm w) k l).1).getD 0 = sumv l ∧ (redTree (redNode .add e rm w) k l).2 = 0 := by
  induction k with
  | zero =>
    intro l h0 hl
    match l with
    | [] => exact absurd rfl h0
    | [x] => simp [redTree, sumv]
    | x :: y :: r => simp at hl
  | succ k ih =>
    intro l h0 hl
    obtain ⟨h1, h2, h3⟩ := level_add e rm w l.length l (Nat.le_refl _)
    have hlen : 0 < l.length := List.length_pos_iff.2 h0
    obtain ⟨t1, t2⟩ := ih (redLevel (redNode .add e rm w) l).1 (by intro hh; rw [hh] at h3; simp at h3; omega) (by rw [h3]; rw [Nat.pow_succ] at hl; omega)
    simp only [redTree, t1, t2, h1, h2]
    exact ⟨trivial, rfl⟩

/-- One stage of a scan of sums. -/
theorem stage_add (e rm) (w d) (l : List (Option (BitVec w))) (hd : d ≤ l.length) :
    (scanStage (redNode .add e rm w) d l).1.length = l.length ∧
    ∀ i, i < l.length → (((scanStage (redNode .add e rm w) d l).1[i]?).getD none).getD 0 =
      if i < d then ((l[i]?).getD none).getD 0 else ((l[i - d]?).getD none).getD 0 + ((l[i]?).getD none).getD 0 := by
  constructor
  · simp [scanStage]; omega
  · intro i hi
    simp only [scanStage]
    split
    · rename_i h
      rw [List.getElem?_append_left (by simp; omega), List.getElem?_take_of_lt h]
    · rename_i h
      rw [List.getElem?_append_right (by simp; omega)]
      have e1 : (List.take d l).length = d := by simp; omega
      have e2 : d + (i - d) = i := by omega
      simp only [e1, List.getElem?_map, List.getElem?_zipWith, List.getElem?_drop, e2]
      rw [List.getElem?_eq_getElem hi, List.getElem?_eq_getElem (by omega : i - d < l.length)]
      simpa using (combine_add e rm w (l[i - d]) (l[i])).1

theorem sumv_append {w} (a b : List (Option (BitVec w))) : sumv (a ++ b) = sumv a + sumv b := by
  induction a with
  | nil => simp [sumv]
  | cons x r ih => rw [List.cons_append, sumv_cons, sumv_cons, ih, BitVec.add_assoc]

end Sys2Proof.Laws
end

