-- ==== Sys2Proof/Tests/Slice0.lean ====
section
/-! SUPPORT. The model's own tests: words and their decoding, one step on small states with the values of the spec's worked
examples or of hand calculation, and for every claim of Sys2Proof/Certificates/Slice0/Obligations.lean states that meet its
hypotheses. -/
namespace Sys2Proof.Tests
open Sys2Proof Sys2Proof.Machine

set_option Elab.async false

/-! ## Instructions that are no words of the machine: one ill-formed term for each check -/

theorem test_wf_shift_amount : (Instr.slli 1 2 false true 32).wf = false ∧ (Instr.srli 1 2 false true 32).wf = false ∧
    (Instr.srai 1 2 false true 32).wf = false ∧ (Instr.roli 1 2 false true 32).wf = false := by decide
theorem test_wf_shift_amount_64 : (Instr.slli 1 2 false false 63).wf = true ∧ (Instr.roli 1 2 false true 31).wf = true := by decide
theorem test_wf_fcvtw_format : (Instr.fcvtw 1 2 0x16 false false .rne).wf = false ∧
    (Instr.fcvtw 1 2 0x17 false false .rne).wf = true := by decide
theorem test_wf_loop : (Instr.loop 0 false 3).wf = false ∧ (Instr.loop 5 false 0).wf = false ∧
    (Instr.loopi 0 3).wf = false := by decide
theorem test_wf_vwiden : (Instr.vwiden 2 4 false .b64 0 false).wf = false ∧
    (Instr.vwiden 3 4 false .b32 0 false).wf = false := by decide
theorem test_wf_vnarrow : (Instr.vnarrow 2 4 0 .b8 0 false).wf = false ∧ (Instr.vnarrow 2 5 0 .b32 0 false).wf = false ∧
    (Instr.vnarrow 2 4 3 .b32 0 false).wf = false := by decide
theorem test_wf_vsort : (Instr.vsort 31 2 .b32 0 false).wf = false := by decide
theorem test_wf_vbrank_vidx : (Instr.vbrank 1 2 .b32 0 true).wf = false ∧ (Instr.vidx 1 .b32 0 true).wf = false := by decide
theorem test_wf_vcvt : (Instr.vcvt 1 2 0x1C .b32 false false).wf = false ∧
    (Instr.vcvt 1 2 0x16 .b32 true false).wf = false := by decide
theorem test_wf_masks : (Instr.mand 1 2 3 0 true).wf = false ∧ (Instr.mor 1 2 3 0 true).wf = false ∧
    (Instr.mxor 1 2 3 0 true).wf = false ∧ (Instr.mandn 1 2 3 0 true).wf = false ∧ (Instr.mnot 1 2 0 true).wf = false ∧
    (Instr.mpopc 1 2 true).wf = false ∧ (Instr.mfirst 1 2 true).wf = false := by decide
theorem test_wf_pairs : (Instr.dqpop 0).wf = false ∧ (Instr.dqpop 31).wf = false ∧ (Instr.dqsteal 1 31 false).wf = false ∧
    (Instr.xpop 0).wf = false := by decide
theorem test_wf_tiles : (Instr.mmul 1 2 false false 6).wf = false ∧ (Instr.mzero 6).wf = false ∧
    (Instr.mdrain 1 2 false false 7).wf = false := by decide
theorem test_wf_registers : (Instr.crr 1 0x012).wf = false ∧ (Instr.crw 1 0x075).wf = false ∧ (Instr.crs 1 0x0C0).wf = false ∧
    (Instr.crc 1 0x110).wf = false ∧ (Instr.crr 1 0x10F).wf = true := by decide
theorem test_wf_errrd : (Instr.errrd 0 2 false).wf = false ∧ (Instr.errrd 29 2 false).wf = false := by decide
theorem test_wf_steps : (Instr.loadLands { st := 0, core := .slot0 } 0).wf = false := by decide

/-! ## Decoding: words written bit by bit from spec/04_encoding.md, or given there with their statements -/

/-- RR: major, d, a, b, ka, kb, W, func9. `sub.w s5, s6, s7!` is 0x04A6_3B01 (R73). -/
theorem test_decode_alu : decode 0x04A63B01#32 = some (.sub 5 6 7 false true true) := by decide +kernel
theorem test_decode_fpu : decode 0b000010_00001_00010_00011_0_0_1_001_00010#32 = some (.fmul 1 2 3 false false true .rtz) := by
  decide +kernel
/-- rm 101 and 110 are no rounding modes (R60). -/
theorem test_decode_fpu_rm : decode 0b000010_00001_00010_00011_0_0_1_101_00010#32 = none ∧
    decode 0b000010_00001_00010_00011_0_0_1_110_00010#32 = none := by decide +kernel
/-- `srai.w s3, s4, 31` is 0x2464_405F (R75). -/
theorem test_decode_shi : decode 0x2464405F#32 = some (.srai 3 4 false true 31) ∧
    decode 0b001001_00011_00100_0_10_000000_1_100000#32 = none := by decide +kernel
/-- `lui s5, 0x2469` is 0x28A0_2469 (R76). -/
theorem test_decode_lui : decode 0x28A02469#32 = some (.lui 5 0x2469) := by decide +kernel
theorem test_decode_load : decode 0b010110_01010_01001_1_10_1111111111000#32 = some (.ld 10 9 true .takeFillw (-8)) := by
  decide +kernel
/-- `bf s9, ready` three words ahead is 0x7324_0003 (R93). -/
theorem test_decode_branch : decode 0x73240003#32 = some (.bf 9 3) ∧
    decode 0b011100_111_00101_00110_0_0_00000000001#32 = none := by decide +kernel
/-- `jal s1, f` 100 words ahead, and `jalr s0, s1, 0` (R94). -/
theorem test_decode_jumps : decode 0x74200064#32 = some (.jal 1 100) ∧ decode 0x78010000#32 = some (.jalr 0 1 false 0) := by
  decide +kernel
theorem test_decode_loop : decode 0b011111_00000_0_0000000011_0000001010#32 = some (.loopi 3 10) ∧
    decode 0b011111_00000_1_0000000011_0000001010#32 = none ∧ decode 0b011111_00101_0_0000000011_0000000001#32 = none := by
  decide +kernel
/-- `vbcast.i32 v1, s5`, `vins.i32 v1, s6, s0`, `vred.fadd.f32 v2, v1` (R113). -/
theorem test_decode_vx : decode 0x90250404#32 = some (.vbcast 1 5 .b32 0 false) ∧
    decode 0x90260406#32 = some (.vins 1 6 0 .b32 0 false) ∧ decode 0x90412C00#32 = some (.vred 2 1 .fadd .b32 0 false) := by
  decide +kernel
theorem test_decode_vi : decode 0b100000_00100_00101_00110_10_010_0_00000#32 = some (.vadd 4 5 6 .b32 2 false) := by
  decide +kernel
theorem test_decode_vis_vf_vfs : decode 0b100001_00100_00101_00110_01_010_1_00001#32 = some (.vsubS 4 5 6 .b16 2 true) ∧
    decode 0b100010_00100_00101_00110_10_000_0_00000#32 = some (.vfadd 4 5 6 .b32 0 false) ∧
    decode 0b100011_00100_00101_00110_11_000_0_00000#32 = some (.vfaddS 4 5 6 .b64 0 false) := by decide +kernel
theorem test_decode_vm : decode 0b100101_00001_00010_00011_00_000_0_00000#32 = some (.mand 1 2 3 0 false) ∧
    decode 0b100101_01001_00010_00011_00_000_0_00000#32 = none := by decide +kernel
theorem test_decode_vmem : decode 0b100111_00001_01000_0_00_0000000100000#32 = some (.vst 1 8 false .plain 32) ∧
    decode 0b101000_00001_01000_00010_10_000_0_00000#32 = some (.vldx 1 8 2 .b32 0 false) := by decide +kernel
/-- `cpy s8, s9` is 0xC100_2120 (R14). -/
theorem test_decode_eng : decode 0xC1002120#32 = some (.cpy 8 9 false false 0) ∧ decode 0b110000_110_00000000_01000_01001_0_0_000#32 = none := by
  decide +kernel
theorem test_decode_amo : decode (encode (.amadd 1 2 3 false false true false true)) = some (.amadd 1 2 3 false false true false true) := by
  decide +kernel
/-- `crs s5, 0x006` is 0xC8A0_3006 (R384); `sigchk 0x28CE` is 0xCC00_28CE (R396). -/
theorem test_decode_sys : decode 0xC8A03006#32 = some (.crs 5 6) ∧ decode 0xCC0028CE#32 = some (.sigchk 0x28CE) ∧
    decode 0b110010_00000000000000000_000000001#32 = some .tend ∧
    decode 0b110010_00000000000000001_000000001#32 = none := by decide +kernel
/-- The first word of memory is the one the host places, and the word of a shorter table row is none. -/
theorem test_table_word : decodeTableWord 32 0x04A63B01 = some (.sub 5 6 7 false true true) ∧ decodeTableWord 0 0 = none := by
  decide +kernel

/-! ## Small states -/

/-- The module at reset but running, with a core of station 0 that holds a task at 0xC000, and that core's issue. -/
def coreAt (c : Sys2Proof.Core) (f : Holder → Holder) : State :=
  ({ State.reset with boot := .running, cur := { st := 0, core := c } } : State).modHolder { st := 0, core := c }
    (fun h => f { h with state := .run, pc := 0xC000 })

/-- Slot 0 with scalar registers set. -/
def withRegs (l : List (Reg × Word)) : State := coreAt .slot0 (fun h => l.foldl (fun h e => h.setS e.1 e.2) h)

/-- Slot 0 with vector registers set. -/
def withVecs (l : List (Reg × VWord)) : State := coreAt .slot0 (fun h => l.foldl (fun h e => h.setV e.1 e.2) h)

/-- The holder's own state after an outcome that goes on. -/
def seen (o : Out) (p : State → Bool) : Bool := match o with | .next t => p t | _ => false

/-- The outcome is a trap with this cause and value, taken at 0xC000 by a core with a vector. -/
def traps (o : Out) (cause : Nat) (tval : Word) : Bool :=
  seen o (fun t => t.me.cause == BitVec.ofNat 64 cause && t.me.tval == tval && t.me.epc == 0xC000 && t.me.pc == 0x100)

/-- Slot 0 with a trap vector and scalar registers. -/
def vectored (l : List (Reg × Word)) : State :=
  coreAt .slot0 (fun h => l.foldl (fun h e => h.setS e.1 e.2) { h with tvec := 0x100 })

/-! ## Scalar instructions -/

/-- The results the spec prints under R73, with s6 = -1 and s7 = 2. -/
def s67 : State := withRegs [(6, -1), (7, 2)]
theorem test_mulh : seen (exec (.mulh 5 6 7 false false false) s67) (fun t => t.me.rd 5 == 0xFFFF_FFFF_FFFF_FFFF) = true := by
  decide +kernel
theorem test_mulhu : seen (exec (.mulhu 5 6 7 false false false) s67) (fun t => t.me.rd 5 == 1) = true := by decide +kernel
theorem test_srl_w : seen (exec (.srl 5 6 7 false false true) s67) (fun t => t.me.rd 5 == 0x3FFF_FFFF) = true := by
  decide +kernel
theorem test_sra_w : seen (exec (.sra 5 6 7 false false true) s67) (fun t => t.me.rd 5 == 0xFFFF_FFFF_FFFF_FFFF) = true := by
  decide +kernel
theorem test_divu_zero : seen (exec (.divu 5 6 0 false false false) s67) (fun t => t.me.rd 5 == 0xFFFF_FFFF_FFFF_FFFF) = true := by
  decide +kernel
theorem test_exts : seen (exec (.exts 5 7 7 false false) s67) (fun t => t.me.rd 5 == 0xFFFF_FFFF_FFFF_FFFE) = true := by
  decide +kernel
/-- The one signed overflow of R73. -/
theorem test_div_overflow : seen (exec (.div 5 6 7 false false false) (withRegs [(6, 0x8000_0000_0000_0000), (7, -1)]))
    (fun t => t.me.rd 5 == 0x8000_0000_0000_0000) = true := by decide +kernel
theorem test_add_wraps : seen (exec (.add 5 5 5 false false false) (withRegs [(5, 0x8000_0000_0000_0001)]))
    (fun t => t.me.rd 5 == 2 && t.me.pc == 0xC004) = true := by decide +kernel
theorem test_write_s0 : seen (exec (.addi 0 6 false 1) s67) (fun t => t.me.rd 0 == 0 && t.me.rd 6 == -1) = true := by
  decide +kernel
/-- `sltiu s5, s6, -1` is 0 for s6 all ones (R74). -/
theorem test_sltiu : seen (exec (.sltiu 5 6 false (-1)) s67) (fun t => t.me.rd 5 == 0) = true := by decide +kernel
/-- LUI with ADDI builds 0x1234_5678 (R76). -/
theorem test_lui : seen (exec (.lui 5 0x2469) s67) (fun t => t.me.rd 5 == 0x1234_8000) = true := by decide +kernel
theorem test_bne_back : seen (exec (.bne 6 7 false false (-2)) s67) (fun t => t.me.pc == 0xBFF8) = true := by decide +kernel
theorem test_jalr_same : seen (exec (.jalr 7 7 false 0x3FFE) s67) (fun t => t.me.rd 7 == 0xC004 && t.me.pc == 0x4000) = true := by
  decide +kernel
theorem test_jalr_align : traps (exec (.jalr 1 7 false 1) (vectored [(7, 0x4000)])) 3 0x4001 = true := by decide +kernel
theorem test_loopi : seen (exec (.loopi 2 3) s67) (fun t => t.me.pc == 0xC004 &&
    t.me.loops == [{ start := 0xC004, len := 2, count := 3, frozen := false }]) = true := by decide +kernel
theorem test_loop_skip : seen (exec (.loop 5 false 2) s67) (fun t => t.me.pc == 0xC00C && t.me.loops == []) = true := by
  decide +kernel
theorem test_empty : traps (exec (.add 5 6 7 true false false) ((vectored []).modHolder { st := 0, core := .slot0 }
    (fun h => h.setAvail (.s 6) (.pending 0)))) 2 0x8000_0000_0000_0006 = true := by decide +kernel
theorem test_waits : seen (exec (.add 5 6 7 false false false) (coreAt .slot0 (fun h => h.setAvail (.s 6) (.pending 0))))
    (fun t => t.waits && t.me.pc == 0xC000) = true := by decide +kernel

/-! ## Witnesses: scalar instructions -/

theorem meets_ScalarIntegerResults :
    s67.ready .plain ⟨[(.s 6, false), (.s 7, true)], [.s 5]⟩ = true ∧ s67.ready .plain ⟨[(.s 6, false)], [.s 0]⟩ = true ∧
    s67.ready .plain ⟨[], [.s 31]⟩ = true ∧ (true = true → (31#6).toNat < 32) := by decide +kernel
theorem meets_ResultFrame : s67.plain = true ∧ (5 : Reg) ≠ 0 ∧ (1 : MReg) ≠ 0 := by decide +kernel
theorem meets_BranchAndJumpTargets :
    s67.ready .plain ⟨[(.s 6, false), (.s 7, true)], []⟩ = true ∧ s67.ready .plain ⟨[], []⟩ = true ∧
    s67.ready .plain ⟨[], [.s 1]⟩ = true ∧ s67.ready .plain ⟨[(.s 7, false)], [.s 7]⟩ = true := by decide +kernel

/-- Slot 0 in a loop body of 4 instructions that ends at 0xC00C. -/
def looping (frozen : Bool) (pc : Word) (count : Nat) : State :=
  coreAt .slot0 (fun h => { h with pc := pc, loops := [{ start := 0xC000, len := 4, count := count, frozen := frozen }] })

theorem meets_HardwareLoops_entry :
    (let s := looping false 0xC000 2
     s.ready .plain ⟨[(.s 5, false)], []⟩ = true ∧ s.ready .plain ⟨[], []⟩ = true ∧ s.me.loops.length < 4 ∧
     (∀ e ∈ s.me.loops.head?, e.frozen = true ∨
        (s.me.pc + 4 + BitVec.ofNat 64 (4 * (3 - 1))).toNat ≤ (e.start + BitVec.ofNat 64 (4 * (e.len - 1))).toNat)) ∧
    (let s := looping false 0xC000 2
     s.ready .plain ⟨[], []⟩ = true ∧ ¬ (∀ e ∈ s.me.loops.head?, e.frozen = true ∨
        (s.me.pc + 4 + BitVec.ofNat 64 (4 * (4 - 1))).toNat ≤ (e.start + BitVec.ofNat 64 (4 * (e.len - 1))).toNat)) := by
  decide +kernel
theorem meets_HardwareLoops_boundary :
    (coreAt .slot0 id).me.loops = [] ∧
    (∃ l, (looping false 0xC008 2).me.loops = [l] ∧ l.frozen = false ∧
      (looping false 0xC008 2).me.pc ≠ l.start + BitVec.ofNat 64 (4 * (l.len - 1))) ∧
    (∃ l, (looping true 0xC00C 2).me.loops = [l] ∧ l.frozen = true) ∧
    (∃ l, (looping false 0xC00C 2).me.loops = [l] ∧ l.frozen = false ∧
      (looping false 0xC00C 2).me.pc = l.start + BitVec.ofNat 64 (4 * (l.len - 1)) ∧ 1 < l.count) ∧
    (∃ l, (looping false 0xC00C 1).me.loops = [l] ∧ l.frozen = false ∧
      (looping false 0xC00C 1).me.pc = l.start + BitVec.ofNat 64 (4 * (l.len - 1)) ∧ l.count ≤ 1) :=
  ⟨rfl, ⟨_, rfl, rfl, by decide⟩, ⟨_, rfl, rfl⟩, ⟨_, rfl, rfl, by decide, by decide⟩, ⟨_, rfl, rfl, by decide, by decide⟩⟩
/-- An iteration that ends returns to the start; the last pops the loop and goes on (R97). -/
theorem test_loop_ends : seen (exec .nop (looping false 0xC00C 2)) (fun t => t.me.pc == 0xC000 && (t.me.loops.map (·.count)) == [1]) = true ∧
    seen (exec .nop (looping false 0xC00C 1)) (fun t => t.me.pc == 0xC010 && t.me.loops == []) = true := by decide +kernel

/-! ## Issue, ports, the profiles and the step -/

/-- Slot 0 with a register whose producer is outstanding or that SETE has emptied. -/
def lacking (n : RegName) (a : Avail) : State := coreAt .slot0 (fun h => h.setAvail n a)

theorem meets_EmptyRegisters_sources :
    let s := lacking (.s 6) (.pending 3)
    let u : Uses := ⟨[(.s 7, false), (.s 6, true), (.s 8, false)], [.s 5]⟩
    whoExists s.cur = true ∧ isBase s.cur.core = false ∧ s.me.holds .plain = false ∧ s.me.binding (.s 6) = none ∧
    u.srcs = [(.s 7, false)] ++ (.s 6, true) :: [(.s 8, false)] ∧ s.checkSrcs s.cur [(.s 7, false)] = .go () ∧
    s.me.avail (.s 6) = .pending 3 :=
  ⟨by decide +kernel, by decide +kernel, by decide +kernel, by decide +kernel, rfl, (goes_unit _).1 (by decide +kernel), by decide +kernel⟩
theorem meets_EmptyRegisters_destinations :
    let s := lacking (.v 31) (.pending 3)
    let u : Uses := ⟨[(.s 7, false)], [.s 5, .v 31, .s 9]⟩
    s.me.holds .plain = false ∧ s.me.binding (.v 31) = none ∧ u.dsts = [.s 5] ++ .v 31 :: [.s 9] ∧
    s.checkSrcs s.cur u.srcs = .go () ∧ s.checkDsts s.cur [.s 5] = .go () ∧ s.me.avail (.v 31) = .pending 3 :=
  ⟨by decide +kernel, by decide +kernel, rfl, (goes_unit _).1 (by decide +kernel), (goes_unit _).1 (by decide +kernel), by decide +kernel⟩
theorem meets_EmptyRegisters_emptied :
    let s := lacking (.s 31) .empty
    s.me.holds .plain = false ∧ s.me.binding (.s 31) = none ∧ s.me.avail (.s 31) = .empty := by decide +kernel

/-- Slot 0 with s28 bound to queue 3 of its station, which holds these words. -/
def queued (out : Bool) (l : List Word) : State :=
  (coreAt .slot0 (fun h => { h with ports := [newBinding 0 out (.queue 3)] })).modStation 0 (fun x => { x with queues := Machine.put 3 l x.queues })

theorem meets_BoundQueues_binding : ∃ b, (queued false [7, 8]).me.binding (.s 28) = some b ∧ b.target = .queue 3 ∧ b.out = false ∧
    b.ended = false := by exact ⟨newBinding 0 false (.queue 3), by decide +kernel, rfl, rfl, rfl⟩
theorem meets_BoundQueues :
    (let s := queued false [7, 8]
     whoExists s.cur = true ∧ s.me.holds .plain = false ∧ s.me.binding (.s 5) = none ∧
     s.me.avail (.s 5) = .full ∧ look [] (s.station s.cur.st).queues 3 = 7 :: [8]) ∧
    (let s := queued false []
     look [] (s.station s.cur.st).queues 3 = []) ∧
    (let s := queued true (List.replicate 32 0)
     s.me.holds .plain = false ∧ 32 ≤ (look [] (s.station s.cur.st).queues 3).length) ∧
    (let s := queued true (List.replicate 31 0)
     (look [] (s.station s.cur.st).queues 3).length < 32) := by decide +kernel
theorem test_queue_pop : seen (exec (.add 5 28 28 false false false) (queued false [7, 8])) (fun t => t.me.rd 5 == 14 &&
    look [] (t.station 0).queues 3 == [8]) = true := by decide +kernel
theorem test_queue_push : seen (exec (.addi 28 0 false 9) (queued true [7])) (fun t => look [] (t.station 0).queues 3 == [7, 9]) = true := by
  decide +kernel

theorem meets_EveryInstructionRoundTrips : (Instr.slli 1 2 true true 31).wf = true := by decide
theorem meets_NothingIsRefused : (Instr.slli 1 2 true true 31).wf = true ∧ whoExists s67.cur = true := by decide +kernel
theorem meets_BaseProfile :
    let s := coreAt .loader id
    whoExists s.cur = true ∧ isBase s.cur.core = true ∧ s.me.holds .plain = false ∧
    ((encode (.fadd 1 2 3 false false true .rne)).extractLsb' 26 6).toNat = 0x02 ∧
    ((encode (.vadd 1 2 3 .b8 0 false)).extractLsb' 26 6).toNat = 0x20 ∧
    ((encode (.vldx 1 2 3 .b8 0 false)).extractLsb' 26 6).toNat = 0x28 ∧
    ((encode (.amadd 1 2 3 false false false false false)).extractLsb' 26 6).toNat = 0x31 ∧
    ((encode .mopen).extractLsb' 26 6).toNat = 0x30 ∧ ((encode .mopen).extractLsb' 23 3).toNat = 3 ∧
    ((encode .winend).extractLsb' 26 6).toNat = 0x32 ∧ ((encode .winend).extractLsb' 0 9).toNat = 0x0B := by decide +kernel

/-- A load of slot 0 that is on its way. -/
def loadOf (kind : LoadKind) (op left : Nat) : Unsettled :=
  { op := op, pc := 0xBFFC, addr := 0xD000, kind := kind, qual := false, left := left, buf := [], trap := none, parked := 0,
    snap := (coreAt .slot0 id).me.snapshot (destsOf kind), since := 0, checks := [] }

/-- Slot 0 with an unsettled load into s9. -/
def unsettled : State := coreAt .slot0 (fun h => { h.setAvail (.s 9) (.pending 0) with unsettled := [loadOf (.scalar 9 8 false) 0 1] })

theorem meets_HoldingInstructionsWait :
    let s := unsettled
    whoExists s.cur = true ∧ isBase s.cur.core = false ∧ s.me.unsettled ≠ [] ∧
    ((encode (.sb 1 2 false .plain 0)).extractLsb' 26 6).toNat = 0x18 ∧ ((encode (.sd 1 2 false .plain 0)).extractLsb' 26 6).toNat = 0x1B ∧
    ((encode (.vst 1 2 false .plain 0)).extractLsb' 26 6).toNat = 0x27 ∧ ((encode (.vstx 1 2 3 .b8 0 false)).extractLsb' 0 5).toNat = 1 ∧
    ((encode (.brk 3)).extractLsb' 26 6).toNat = 0x32 ∧ ((encode (.brk 3)).extractLsb' 0 9).toNat = 0x0C := by decide +kernel
theorem test_store_waits : seen (exec (.sd 6 7 false .plain 0) unsettled) (fun t => t.waits) = true := by decide +kernel

/-- The word of `add s5, s6, s7` where station 0's slot 0 fetches. -/
def placed (w : Nat) : State := State.reset.withFetchWord 32 w

theorem meets_StepRunsDecoded :
    let s := placed 0x04A63800
    let w : Who := { st := 0, core := .slot0 }
    let s0 : State := { s with schedule := s.turn.2, waits := false }
    s0.moves[s.turn.1.pick % s0.moves.length]? = some (.compute 0) ∧ (s0.holder w).state = .run ∧ (s0.holder w).heldTrap = none ∧
    s0.overdue w = false ∧ (s0.holder w).asyncTrap = [] ∧ (s0.holder w).badRestore = false ∧ (s0.holder w).reissue = [] ∧
    (match s0.fetch w with | .word ir _ => ir == 0x04A63800 | _ => false) = true ∧
    (match s0.holderTurn exec { st := 0, core := .urgent } with | .waits => true | _ => false) = true ∧
    decode 0x04A63800 = some (.add 5 6 7 false false false) := by decide +kernel
theorem test_step : seen (step (placed 0x04A63800)) (fun t => (t.holder { st := 0, core := .slot0 }).pc == 0xC004 && t.now == 1) = true := by
  decide +kernel

/-! ## Floating point -/

/-- 1.0, 2.0 and 3.0 in FP64 in s1, s2 and s3; the same in FP32 in s5, s6 and s7. -/
def floats : State := withRegs [(1, 0x3FF0000000000000), (2, 0x4000000000000000), (3, 0x4008000000000000), (5, 0x3F800000),
  (6, 0x40000000), (7, 0x40400000)]
theorem test_fadd : seen (exec (.fadd 4 1 2 false false true .rne) floats) (fun t => t.me.rd 4 == 0x4008000000000000 && t.me.fflags == 0) = true := by
  decide +kernel
/-- 1 / 3 is inexact in FP32: 0x3EAAAAAB to nearest, 0x3EAAAAAA toward zero. -/
theorem test_fdiv : seen (exec (.fdiv 4 5 7 false false false .rne) floats) (fun t => t.me.rd 4 == 0x3EAAAAAB && t.me.fflags == 1) = true ∧
    seen (exec (.fdiv 4 5 7 false false false .rtz) floats) (fun t => t.me.rd 4 == 0x3EAAAAAA) = true := by decide +kernel
theorem test_ffma : seen (exec (.ffma 1 2 3 false false true .rne) floats) (fun t => t.me.rd 1 == 0x401C000000000000) = true := by
  decide +kernel
theorem test_fsqrt : seen (exec (.fsqrt 4 0 false true .rne) floats) (fun t => t.me.rd 4 == 0) = true := by decide +kernel
theorem test_fcvt : seen (exec (.fcvtis 4 3 true false true .rne) floats) (fun t => t.me.rd 4 == 3) = true ∧
    seen (exec (.fcvtfs 4 0 true false true .rne) floats) (fun t => t.me.rd 4 == 0) = true := by decide +kernel

theorem meets_FpuResults :
    floats.ready .compute ⟨[(.s 1, false), (.s 2, true)], [.s 4]⟩ = true ∧ floats.ready .compute ⟨[(.s 1, false)], [.s 0]⟩ = true ∧
    floats.ready .compute ⟨[(.s 1, false), (.s 2, false), (.s 3, false)], [.s 3]⟩ = true ∧
    (codeFloat (0x0E#5).toNat).isSome = true := by decide +kernel

/-! ## Addresses, loads and stores -/

/-- An address of each part of the map, at its bounds (R302, R303). -/
theorem test_address_map :
    let r := s67.regionOf s67.cur
    r 0xBFFF = none ∧ r 0xC000 = some .tcm ∧ r 0x3BFFF = some .tcm ∧ r 0x3C000 = none ∧ r 0x5C000 = some .mailbox ∧
    r 0x5FFFF = some .mailbox ∧ r 0x60000 = none ∧ r 0x1000000 = some (.spad 0) ∧ r 0x13FFFFF = some (.spad 0) ∧
    r 0x1400000 = none ∧ r 0x4000000 = some (.commons 0) ∧ r 0x20000000 = some (.commons 0) ∧ r 0x3FFFFFFF = some (.commons 7) ∧
    r 0x40000000 = some (.spad 0) ∧ r 0xBFFFFFFF = some (.spad 511) ∧ r 0x100000000 = some (.remote 0) ∧
    r (0x800 * 2 ^ 52) = some .far ∧ r (0x801 * 2 ^ 52) = none := by decide +kernel

/-- Cluster 0 with bank 0 in a TYPED format, as BFMT holds it: TYPED at bit 10. -/
def typedBank (v : Word) : State := s67.modCluster 0 (fun c => { c with bfmt := Machine.put 0 v c.bfmt })

/-- A buffer window of two times 128 bytes at 0xD000. -/
def windowAt : BufWindow := { base := 0xD000, len := 128, owner := .slot0, task := 0, live := true, born := 0, died := 0 }
def windowed : State := s67.modStation 0 (fun x => { x with windows := [windowAt] })

theorem meets_AddressMapAndAccessTraps :
    (s67.cur.core ≠ .keeper ∧ s67.regionOfAll s67.cur 0x3BFFC 8 = none ∧ s67.regionOfAll s67.cur 0x3BFF8 8 = some .tcm) ∧
    s67.regionOfAll s67.cur 0x5FFF8 8 = some .mailbox ∧ (∀ cl, Region.mailbox ≠ .spad cl) ∧ (∀ k, Region.mailbox ≠ .remote k) ∧
    (let s := typedBank 0x420
     s.regionOfAll s.cur 0x1000000 8 = some (.spad 0) ∧ s.typedAt (s.placeOf s.cur 0x1000000) 8 = true) ∧
    (let s := windowed
     s.regionOfAll s.cur 0xD080 8 = some .tcm ∧ s.hidden (s.placeOf s.cur 0xD080) 8 = true ∧ s.hidden (s.placeOf s.cur 0xD078) 8 = false ∧
     s.typedAt (s.placeOf s.cur 0xD078) 8 = false) :=
  ⟨by decide +kernel, by decide +kernel, nofun, nofun, by decide +kernel, by decide +kernel⟩

def inTcm : State := withRegs [(8, 0xD000), (9, 0x1122334455667788)]
theorem meets_ScalarLoadsAndStoresIssue :
    inTcm.ready .load ⟨[(.s 8, false)], [.s 9]⟩ = true ∧ inTcm.ready .store ⟨[(.s 8, false), (.s 9, false)], []⟩ = true := by
  decide +kernel
theorem test_load_align : traps (exec (.ld 5 8 false .plain 4) (vectored [(8, 0xD000)])) 3 0xD004 = true := by decide +kernel
theorem test_load_access : traps (exec (.lw 5 8 false .plain 0) (vectored [(8, 0x60000)])) 4 0x60000 = true := by decide +kernel
theorem test_load_issues : seen (exec (.ld 5 8 false .plain 8) inTcm) (fun t => t.me.avail (.s 5) == .pending 0 &&
    t.me.unsettled.length == 1 && t.me.pc == 0xC004) = true := by decide +kernel

/-- The slot's next step: the first of the agenda. -/
def runFirst (s : State) : Out :=
  match s.agenda with
  | t :: r => exec t.ev { s with agenda := r, now := t.due }
  | [] => .next s
/-- A store is performed at its home, lowest byte first (R3, R92). -/
theorem test_store : seen (exec (.sw 9 8 false .plain 0) inTcm) (fun t => seen (runFirst t) (fun u =>
    memRead u.mem (Config.poolAt 0 + 0xD000) 5 == [0x88, 0x77, 0x66, 0x55, 0x00])) = true := by decide +kernel
/-- A load lands with its sign extension: -128 from the byte 0x80. -/
theorem test_load_lands : seen (exec (.lb 5 8 false .plain 0) { inTcm with mem := memWrite [] (Config.poolAt 0 + 0xD000) [0x80] })
    (fun t => seen (runFirst t) (fun u => seen (runFirst u) (fun v => v.me.rd 5 == -128 && v.me.avail (.s 5) == .full))) = true := by
  decide +kernel

/-- A part of slot 0's access to 8 bytes of die 0's commons. -/
def partOf0 (kind : PartKind) (qual : Qual) (data : List Byte) : AccPart :=
  { acc := inTcm.ownAccess inTcm.cur, kind := kind, addr := 0x4000100, place := .commons 0 0x100, size := 8, off := 0, qual := qual,
    data := data, attempt := 0, pa := none }
theorem meets_IssueFrame : ∀ p ∈ [partOf0 .load .plain []], p.acc.who = inTcm.cur ∧ p.kind ≠ .fetch := by decide +kernel
theorem meets_IssueFrame_destination : (RegName.s 9) ∈ destsOf (.scalar 9 8 false) ∧ (RegName.s 9) ≠ .s 0 ∧
    (inTcm.holder inTcm.cur).binding (.s 9) = none ∧ (RegName.v 9) ∉ destsOf (.scalar 9 8 false) := by decide +kernel

/-- The granule of that access, and its line. -/
def gran : Nat := (placeAt (.commons 0 0x100) 0) / 16
def emptied : State := { inTcm with empties := [gran] }
def spoilt : State := { inTcm with poison := [gran / 8] }
theorem meets_AccessAtNearHome :
    (let p := partOf0 .load .waitfFill []
     let s := emptied
     s.bankOf p.place = none ∧ p.pa = none ∧ p.kind = .load ∧ p.qual = .waitfFill ∧ ¬ ∀ g ∈ blocks 16 (partAt p) p.size, g ∉ s.empties) ∧
    (let p := partOf0 .store .takeFillw (List.replicate 8 1)
     let s := inTcm
     p.kind = .store ∧ p.qual = .takeFillw ∧ ¬ ∀ g ∈ blocks 16 (partAt p) p.size, g ∈ s.empties) ∧
    (let p := partOf0 .load .tryfDrain []
     let s := emptied
     s.waiting = [] ∧ p.qual = .tryfDrain ∧ ¬ ∀ g ∈ blocks 16 (partAt p) p.size, g ∉ s.empties) ∧
    (let p := partOf0 .load .plain []
     let s := spoilt
     p.qual ≠ .tryfDrain ∧ ∃ l ∈ blocks 128 (placeAt p.place 0) p.size, l ∈ s.poison) ∧
    (let p := partOf0 .load .takeFillw []
     let s := inTcm
     (∀ g ∈ blocks 16 (partAt p) p.size, g ∉ s.empties) ∧ ¬ ∃ l ∈ blocks 128 (placeAt p.place 0) p.size, l ∈ s.poison) ∧
    (let p := partOf0 .store .takeFillw (List.replicate 8 1)
     ∀ g ∈ blocks 16 (partAt p) p.size, g ∈ emptied.empties) := by decide +kernel
theorem meets_AccessAtNearHome_pool :
    (∃ st off, Place.pool 0 0xD000 = .pool st off ∧ (inTcm.ownAccess inTcm.cur).eng ≠ 5 ∧ (inTcm.station st).hiddenHalf off 8 = false ∧
      ∀ n, inTcm.regionOf inTcm.cur 0xD000 ≠ some (.remote n)) :=
  ⟨0, 0xD000, rfl, by decide +kernel, by decide +kernel, fun n h => by
    have e : inTcm.regionOf inTcm.cur 0xD000 = some .tcm := by decide +kernel
    rw [e] at h; exact absurd h nofun⟩
theorem meets_GranulesAndBytes : (5 : Nat) < 6 ∧ (0 : Nat) < [0x80#8].length := by decide
theorem test_drain : seen (exec (.accessAtHome (partOf0 .store .tryfDrain (List.replicate 8 1))) inTcm) (fun t => t.empties == [gran]) = true := by
  decide +kernel
/-- A take waits on an empty granule; a fillw store then fills it and the take is served. -/
theorem test_take_served : seen (exec (.accessAtHome (partOf0 .load .takeFillw [])) emptied) (fun t => t.waiting.length == 1 &&
    seen (exec (.accessAtHome { partOf0 .store .takeFillw (List.replicate 8 7) with acc := { inTcm.ownAccess inTcm.cur with who := { st := 1, core := .slot0 } } }) t)
      (fun u => u.waiting == [] && u.empties == [gran])) = true := by decide +kernel

/-- The same to station n's TCM, by its rank. -/
def remotePart (n st off : Nat) : AccPart :=
  { partOf0 .load .plain [] with addr := BitVec.ofNat 64 (0x100000000 + n * 0x100000 + off), place := .pool st off }
theorem meets_RemoteAccessChecks :
    (let p := remotePart 1 1 0xC000
     inTcm.regionOf p.acc.who p.addr.toNat = some (.remote 1) ∧ p.kind = .load ∧ (inTcm.station 1).shut = false) ∧
    (let p := remotePart 1 2 0xC000
     inTcm.regionOf p.acc.who p.addr.toNat = some (.remote 1)) ∧
    (let p := remotePart 1 1 0x3BFFC
     inTcm.regionOf p.acc.who p.addr.toNat = some (.remote 1) ∧
     ¬ ((inTcm.station 1).app1 * 8192 ≤ 0x3BFFC ∧ 0x3BFFC + p.size ≤ (inTcm.station 1).app2 * 8192)) := by decide +kernel

/-- Slot 0 with one unsettled load whose parts have come back. -/
def landing (kind : LoadKind) (trap : Option TrapInfo) : State :=
  coreAt .slot0 (fun h => { (destsOf kind).foldl (fun h n => h.setAvail n (.pending 4)) h with
    unsettled := [{ loadOf kind 4 0 with buf := [(0, [0x80])], trap := trap }] })
theorem meets_LoadsLand :
    (let s := landing (.scalar 9 1 true) none
     (∃ u, (s.holder s.cur).unsettled.find? (fun x => x.op == 4) = some u ∧ u.left = 0 ∧ u.trap = none ∧ u.checks = [] ∧ u.kind = .scalar 9 1 true) ∧
     (s.holder s.cur).heldTrap = none ∧ (∀ n ∈ destsOf (.scalar 9 1 true), (s.holder s.cur).binding n = none) ∧ (9 : Reg) ≠ 0 ∧
     (s.holder s.cur).avail (.s 9) = .pending 4) ∧
    (let s := landing (.amo 9 false false false) none
     (s.holder s.cur).avail (.s 9) = .pending 4) ∧
    (let s := landing (.vector 31 false) none
     (s.holder s.cur).avail (.v 31) = .pending 4) ∧
    (let s := landing (.scalar 9 1 true) (some (trapOf 0x06 0xD000))
     (∃ u, (s.holder s.cur).unsettled.find? (fun x => x.op == 4) = some u ∧ u.left = 0 ∧ u.trap = some (trapOf 0x06 0xD000)) ∧
     ∀ y ∈ (s.holder s.cur).unsettled, 4 ≤ y.op) :=
  ⟨⟨⟨_, rfl, rfl, rfl, rfl, rfl⟩, by decide +kernel, by decide +kernel, by decide, by decide +kernel⟩, by decide +kernel, by decide +kernel,
   ⟨_, rfl, rfl, rfl⟩, by decide +kernel⟩
theorem test_amo_lands : seen (exec (.loadLands { st := 0, core := .slot0 } 4) (landing (.amo 9 false false false) none))
    (fun t => t.me.rd 9 == 0x80 && t.me.avail (.s 9) == .full) = true := by decide +kernel

/-! ## Vectors -/

/-- A register whose lanes of w bits count up from `first`. -/
def counting (w : Nat) (first : Int) : VWord :=
  BitVec.ofNat 2048 (packNat w ((List.range (2048 / w)).map (fun (i : Nat) => (BitVec.ofInt w (first + (i : Int))).toNat)))

/-- v1 counts from -20 in 32-bit lanes; v2 holds ones in every bit, v4 is zero; m1 enables lanes 0 to 19. -/
def vecs : State := coreAt .slot0 (fun h => (((h.setV 1 (counting 32 (-20))).setV 2 (-1)).setM 1 (BitVec.ofNat 256 (2 ^ 80 - 1))))
theorem test_vadd_wraps : seen (exec (.vadd 3 2 2 .b8 0 false) vecs) (fun t => elem 8 (t.me.rdv 3) 255 == 0xFE) = true := by
  decide +kernel
/-- The compare and the masked clear of R13: lanes 0 to 19 hold negative values. -/
theorem test_vslt : seen (exec (.vslt 1 1 4 .b32 0 false) vecs) (fun t => t.me.rdm 1 == BitVec.ofNat 256 (2 ^ 80 - 1)) = true := by
  decide +kernel
theorem test_vxor_masked : seen (exec (.vxor 1 1 1 .b32 1 false) vecs) (fun t => elem 32 (t.me.rdv 1) 19 == 0 && elem 32 (t.me.rdv 1) 20 == 0 &&
    elem 32 (t.me.rdv 1) 63 == 43) = true := by decide +kernel
theorem test_vadds : seen (exec (.vadds 3 2 2 .b16 0 false) vecs) (fun t => elem 16 (t.me.rdv 3) 0 == 0xFFFE && t.me.vflags == 0) = true := by
  decide +kernel
theorem test_vaddsn : seen (exec (.vaddsn 3 2 2 .b16 0 false) vecs) (fun t => elem 16 (t.me.rdv 3) 0 == 0xFFFF && t.me.vflags == 32) = true := by
  decide +kernel
theorem test_vdot4 : seen (exec (.vdot4n 3 2 2 false 0 false) vecs) (fun t => elem 32 (t.me.rdv 3) 0 == 260100) = true ∧
    seen (exec (.vdot4 3 2 2 false 0 false) vecs) (fun t => elem 32 (t.me.rdv 3) 0 == 4) = true := by decide +kernel
theorem test_vwiden : seen (exec (.vwiden 4 1 false .b32 0 false) vecs) (fun t => elem 64 (t.me.rdv 4) 0 == -20 && elem 64 (t.me.rdv 5) 31 == 43) = true := by
  decide +kernel
/-- The tree of R113: 2^24 in lane 0 and ones elsewhere gives 16,777,278. -/
theorem test_vred_fadd : seen (exec (.vred 2 1 .fadd .b32 0 false)
    (withVecs [(1, BitVec.ofNat 2048 (packNat 32 (0x4B800000 :: List.replicate 63 0x3F800000)))]))
    (fun t => elem 32 (t.me.rdv 2) 0 == 0x4B80001F && elem 32 (t.me.rdv 2) 1 == 0) = true := by decide +kernel
theorem test_vscan_add : seen (exec (.vscan 3 1 .add .b32 0 false) vecs) (fun t => elem 32 (t.me.rdv 3) 1 == -39) = true := by
  decide +kernel
theorem test_vperm : seen (exec (.vperm 3 1 4 .b32 0 false) vecs) (fun t => elem 32 (t.me.rdv 3) 63 == -20) = true := by decide +kernel
theorem test_vslide : seen (exec (.vslide 3 1 5 .b32 0 false) (vecs.modHolder vecs.cur (fun h => h.setS 5 (-1))))
    (fun t => elem 32 (t.me.rdv 3) 0 == -19 && elem 32 (t.me.rdv 3) 63 == 0) = true := by decide +kernel
theorem test_mpopc : seen (exec (.mpopc 5 1 false) vecs) (fun t => t.me.rd 5 == 80) = true ∧
    seen (exec (.mfirst 5 2 false) vecs) (fun t => t.me.rd 5 == 256) = true := by decide +kernel
theorem test_vfadd : seen (exec (.vfadd 3 1 1 .b32 0 false) (withVecs [(1, BitVec.ofNat 2048 (packNat 32 [0x3F800000, 0x40000000]))]))
    (fun t => elem 32 (t.me.rdv 3) 0 == 0x40000000 && elem 32 (t.me.rdv 3) 1 == 0x40800000) = true := by decide +kernel

theorem meets_VectorResults :
    (∀ m ∈ ([0, 1] : List MReg), vecs.ready .compute ⟨[(.v 1, false), (.v 2, false)] ++ mergeSrc 3 m false, [.v 3]⟩ = true ∧
      vecs.ready .compute ⟨[(.v 1, false), (.s 2, false)] ++ mergeSrc 3 m false, [.v 3]⟩ = true ∧
      vecs.ready .compute ⟨[(.v 1, false)] ++ mergeSrc 3 m false, [.v 3]⟩ = true ∧
      vecs.ready .compute ⟨[(.v 1, false), (.v 2, false), (.v 3, false)] ++ mergeSrc 3 m false, [.v 3]⟩ = true ∧
      vecs.ready .compute ⟨[(.v 1, false), (.s 2, false), (.v 3, false)] ++ mergeSrc 3 m false, [.v 3]⟩ = true) ∧
    vecs.ready .compute ⟨[(.v 1, true), (.v 2, true)], []⟩ = true ∧ vecs.ready .compute ⟨[(.v 1, true), (.s 2, true)], []⟩ = true := by
  decide +kernel
/-- An enabled lane that raises SAT, under VCTL with and without its enable bit 13. -/
theorem meets_VectorIntegerResults_flags : raisedBy 128 (fun _ => true) (fun _ => 32) = 32 ∧ 32 &&& (vecs.me.vctl.toNat / 256 % 32) = 0 := by
  decide +kernel
theorem meets_VectorSelectDotAndWidthResults :
    vecs.ready .compute ⟨[(.v 1, false), (.v 2, false)], [.v 3]⟩ = true ∧ vecs.ready .compute ⟨[(.v 1, false), (.s 2, false)], [.v 3]⟩ = true ∧
    Ew.b32 ≠ .b64 ∧ vecs.ready .compute ⟨[(.v 1, false)], [.v 4, .v 5]⟩ = true ∧
    vecs.ready .compute ⟨[(.v 1, false), (.v 4, false), (.v 5, false)], [.v 4, .v 5]⟩ = true ∧
    Ew.b16 ≠ .b8 ∧ vecs.ready .compute ⟨[(.v 2, false), (.v 3, false)] ++ mergeSrc 4 1 false, [.v 4]⟩ = true := by decide +kernel
theorem meets_ReductionAndScanResults :
    vecs.ready .compute ⟨[(.v 1, false)], [.v 3]⟩ = true ∧ vecs.ready .compute ⟨(.v 1, false) :: mergeSrc 3 1 false, [.v 3]⟩ = true := by
  decide +kernel
theorem meets_IntegerSumsAreOrderFree : (List.replicate 64 (some (1 : BitVec 32))).length = 2048 / Machine.ewBits .b32 ∧
    63 < (List.replicate 64 (some (1 : BitVec 32))).length ∧ ((List.replicate 64 (some (1 : BitVec 32)))[63]).isSome = true := by
  decide +kernel
theorem meets_ElementMovesAndSort :
    vecs.ready .compute ⟨[(.v 1, false), (.v 2, false)] ++ mergeSrc 3 1 false, [.v 3]⟩ = true ∧
    vecs.ready .compute ⟨[(.s 1, false)] ++ mergeSrc 3 0 false, [.v 3]⟩ = true ∧ vecs.ready .compute ⟨[] ++ mergeSrc 3 1 false, [.v 3]⟩ = true ∧
    vecs.ready .compute ⟨[(.s 1, false), (.s 2, false)] ++ mergeSrc 3 1 false, [.v 3]⟩ = true ∧
    vecs.ready .compute ⟨[(.v 1, false), (.s 2, false)], [.s 3]⟩ = true ∧
    vecs.ready .compute ⟨[(.s 1, false), (.s 2, false), (.v 3, false)], [.v 3]⟩ = true ∧
    vecs.ready .compute ⟨[(.v 1, false)], [.v 30, .v 31]⟩ = true := by decide +kernel
theorem meets_BitmapConversionAndMaskResults :
    vecs.ready .compute ⟨[(.v 1, false)], []⟩ = true ∧ vecs.ready .compute ⟨mergeSrc 3 1 true, [.v 3]⟩ = true ∧
    vecs.ready .compute ⟨[(.v 1, false)], [.v 3]⟩ = true ∧ (0x1B : BitVec 5) ≠ 0x16 ∧ vecs.ready .compute ⟨[], []⟩ = true ∧
    vecs.ready .compute ⟨[(.s 1, false), (.s 2, false)], []⟩ = true ∧ vecs.ready .compute ⟨[(.s 1, false)], []⟩ = true ∧
    vecs.ready .compute ⟨[], [.s 3]⟩ = true ∧ vecs.ready .compute ⟨[(.s 1, false)], [.s 3]⟩ = true := by decide +kernel

/-! ## Vector memory and atomics -/

/-- Slot 0 with s8 at its TCM, and bank 0 of its cluster, which s9 names, in the A format INT8 of 8 planes. -/
def forVectors (v : Word) : State :=
  (withRegs [(8, 0xC100), (9, 0x1000000)]).modCluster 0 (fun c => { c with bfmt := Machine.put 0 v c.bfmt })
theorem meets_VectorAccessesIssue :
    (let s := forVectors 0
     s.ready .vload ⟨[(.s 8, false)], [.v 1]⟩ = true ∧ s.typedBank s.cur 0xC100 = none ∧
     s.ready .vstore ⟨[(.v 1, false), (.s 8, false)], []⟩ = true ∧
     s.ready .vload ⟨[(.v 1, false), (.s 8, false)] ++ mergeSrc 2 0 false, [.v 2]⟩ = true ∧
     s.ready .vload ⟨[(.v 1, false), (.s 8, false)] ++ mergeSrc 2 1 false, [.v 2]⟩ = true ∧
     s.ready .vstore ⟨[(.v 2, false), (.v 1, false), (.s 8, false)], []⟩ = true ∧ (0xC100 : Word).toNat % 1 = 0) ∧
    (let s := forVectors 0x500
     s.ready .vload ⟨[(.s 9, false)], [.v 1]⟩ = true ∧ (s.typedBank s.cur 0x1000000).isSome = true ∧
     (s.typedBank s.cur 0x1000000).all (fun x => typedFits x.1 x.2 (twLanes 0) && x.1.fmt != 0x16) = true ∧
     s.accessFault s.cur 0x1000000 (twLanes 0) .plain true = none ∧ s.accessWaits s.cur 0x1000000 .plain = false) := by
  decide +kernel
theorem test_vld_align : traps (exec (.vld 1 8 false .plain 0) (vectored [(8, 0xC110)])) 3 0xC110 = true := by decide +kernel
theorem test_vst : seen (exec (.vst 1 8 false .plain 1) (forVectors 0)) (fun t => seen (runFirst t) (fun u => u.me.pc == 0xC004)) = true := by
  decide +kernel
/-- Each enabled element has an access of its own. -/
theorem test_vldx : seen (exec (.vldx 2 1 8 .b32 1 false) (vecs.modHolder vecs.cur (fun h => (h.setS 8 0xC100).setV 1 0)))
    (fun t => t.agenda.length == 20 && t.me.avail (.v 2) == .pending 0) = true := by decide +kernel

theorem meets_Atomics :
    (let s := inTcm
     s.ready .vstore ⟨[(.s 8, false), (.s 9, true)], [.s 5]⟩ = true ∧ s.ready .vstore ⟨[(.s 8, false), (.s 9, true)], []⟩ = true ∧
     s.ready .vstore ⟨[(.s 8, false), (.s 9, true), (.s 5, false)], [.s 5]⟩ = true) := by decide +kernel
theorem test_amadd : seen (exec (.amadd 5 8 9 false false true false false) { inTcm with mem := memWrite [] (Config.poolAt 0 + 0xD000) [2] })
    (fun t => seen (runFirst t) (fun u => seen (runFirst u) (fun v => v.me.rd 5 == 2 &&
      memRead v.mem (Config.poolAt 0 + 0xD000) 8 == [0x8A, 0x77, 0x66, 0x55, 0x44, 0x33, 0x22, 0x11]))) = true := by decide +kernel
theorem test_redmax : seen (exec (.redmax 8 9 false false false false) inTcm) (fun t => seen (runFirst t) (fun u =>
    memRead u.mem (Config.poolAt 0 + 0xD000) 5 == [0x88, 0x77, 0x66, 0x55, 0])) = true := by decide +kernel

/-! ## Traps and system instructions -/

theorem meets_TrapEntry :
    (let w : Who := { st := 0, core := .slot0 }
     w.core ≠ .loader ∧ w.core ≠ .storer ∧ ((vectored []).holder w).inh = false ∧ ((vectored []).holder w).tvec ≠ 0 ∧
     ((withRegs []).holder w).inh = false ∧ ((withRegs []).holder w).tvec = 0) ∧
    (coreAt .slot0 (fun h => { h with inh := true })).me.inh = true ∧ (Sys2Proof.Core.storer = .loader ∨ Sys2Proof.Core.storer = .storer) := by
  decide +kernel
/-- The entry of R352: SIGACC saved and reset, the loop stack frozen, and the registers as they were. -/
theorem test_trap_entry : seen (exec (.trap 5) (coreAt .slot0 (fun h => { h.setS 3 7 with tvec := 0x100, sigacc := 0x123, loops :=
    [{ start := 0xC000, len := 4, count := 2, frozen := false }] })))
    (fun t => t.me.cause == 0x0D && t.me.tval == 5 && t.me.epc == 0xC000 && t.me.pc == 0x100 && t.me.inh && t.me.sigsav == 0x123 &&
      t.me.sigacc == 0 && t.me.loopsAt == 1 && t.me.loops.all (fun l => l.frozen) && t.me.rd 3 == 7) = true := by decide +kernel

/-- A handler of slot 0, entered from a loop at 0xC008. -/
def handler : State := coreAt .slot0 (fun h => { h with inh := true, epc := 0xC008, sigsav := 0x321, loopsAt := 1, loops := [{ start := 0x100, len := 2, count := 1, frozen := false }, { start := 0xC000, len := 4, count := 2, frozen := true }] })
theorem meets_TrapReturnAndTrapInstructions :
    s67.ready .held ⟨[], []⟩ = true ∧ s67.me.inh = false ∧ handler.ready .held ⟨[], []⟩ = true ∧ handler.me.inh = true ∧
    (handler.station handler.cur.st).parkedBy ≠ some (slotNumber handler.cur.core) ∧
    (let s := handler.modStation 0 (fun x => { x with parkedBy := some 0 })
     s.ready .held ⟨[], []⟩ = true ∧ s.me.inh = true ∧ (s.station s.cur.st).parkedBy = some (slotNumber s.cur.core) ∧ s.cur.core ∈ taskCores) ∧
    s67.dbgctl = false ∧ ({ s67 with dbgctl := true } : State).dbgctl = true ∧ s67.cur.st < 8192 := by decide +kernel
theorem test_tret : seen (exec .tret handler) (fun t => t.me.pc == 0xC008 && t.me.sigacc == 0x321 && !t.me.inh &&
    t.me.loops == [{ start := 0xC000, len := 4, count := 2, frozen := false }]) = true := by decide +kernel
theorem test_tret_outside : traps (exec .tret ((vectored []).modHolder { st := 0, core := .slot0 } (fun h => { h with ir := 0xC8000002 }))) 1 0xC8000002 = true := by
  decide +kernel

theorem meets_ControlRegisters :
    s67.ready .plain ⟨[], [.s 5]⟩ = true ∧ s67.ready .held ⟨[(.s 5, false)], []⟩ = true ∧ s67.cur.core ∈ taskCores ∧
    (coreAt .loader id).ready .plain ⟨[], [.s 5]⟩ = true ∧ (coreAt .storer id).ready .held ⟨[(.s 5, false)], []⟩ = true ∧
    (let s := coreAt .urgent (fun h => h.setS 5 0x1FFFF)
     s.ready .held ⟨[(.s 5, false)], []⟩ = true ∧ s.cur.core = .urgent ∧ (s.valS s.cur 5).toNat < 2 ^ 20 ∧ ¬ (s.valS s.cur 5).toNat < 2 ^ 16 ∧
     (s.holder s.cur).window = none) ∧
    (let s := coreAt .urgent (fun h => { h with window := some 0 })
     s.ready .held ⟨[(.s 5, false)], []⟩ = true ∧ (s.holder s.cur).window.isSome = true) := by decide +kernel
theorem test_crr_rank : seen (exec (.crr 5 0x00E) (let s := coreAt .slot0 id; { s with cur := { st := 0x0123, core := .slot0 } }))
    (fun t => t.me.rd 5 == 0x0123) = true := by decide +kernel
theorem test_crw_mbz : traps (exec (.crw 5 0x006) (vectored [(5, 0x2000)])) 4 6 = true := by decide +kernel
theorem test_crs : seen (exec (.crs 5 0x007) (coreAt .slot0 (fun h => { h.setS 5 0x31 with fflags := 2 }))) (fun t => t.me.fflags == 0x13) = true := by
  decide +kernel
theorem test_loader_crw : seen (exec (.crw 5 0x006) (coreAt .loader id)) (fun t =>
    (t.holder { st := 0, core := .slot0 }).asyncTrap.map (fun x => (x.1.cause, x.2)) == [(4, 1)]) = true := by decide +kernel

/-! ## Checks, windows, fences, caches and records -/

theorem meets_SignatureCheck : (0x3FFFFF : Nat) < 2 ^ 22 ∧ s67.ready .plain ⟨[], []⟩ = true ∧ s67.cur.st < 8192 ∧ s67.me.sigacc = 0 ∧
    s67.me.sigacc ≠ 1 ∧ s67.me.unsettled = [] ∧ unsettled.ready .plain ⟨[], []⟩ = true ∧ unsettled.me.unsettled ≠ [] := by decide +kernel
/-- The walk of R357: `bne` taken is the token 0x1C_0101 and leaves 0 (R356); 0x0139 is its fold. -/
theorem test_fold : foldToken 0 0x1C0101 = 0x0139 := by decide
theorem test_sigchk_mismatch : seen (exec (.sigchk 1) s67) (fun t => (t.station 0).shut && (t.station 0).shutWhy == 3) = true := by
  decide +kernel

theorem meets_SmallSystemInstructionsAndTaskEnd :
    s67.ready .plain ⟨[], []⟩ = true ∧ s67.ready .plain ⟨[], [.s 5]⟩ = true ∧ s67.ready .vheld ⟨[], []⟩ = true ∧ s67.ready .compute ⟨[], []⟩ = true ∧
    (queued false []).ready .plain ⟨[], []⟩ = true ∧ ((queued false []).me.binding (.s 28)).isSome = true ∧
    (lacking (.s 6) (.pending 3)).ready .plain ⟨[], []⟩ = true ∧ (lacking (.s 6) (.pending 3)).me.avail (.s 6) = .pending 3 ∧
    s67.me.binding (.s 6) = none ∧ s67.me.avail (.s 6) = .full ∧
    (coreAt .slot0 (fun h => { h with window := some 0 })).ready .vheld ⟨[], []⟩ = true ∧
    (let s := s67.modHolder { st := 0, core := .urgent } (fun h => { h with state := .pending })
     s.ready .vheld ⟨[], []⟩ = true ∧ s.me.window = none ∧ (s.holder { s.cur with core := .urgent }).state = .pending) ∧
    s67.me.failure = none ∧ (s67.withdrawWaiting s67.cur).taskDone s67.cur = true ∧ ((s67.withdrawWaiting s67.cur).holder s67.cur).failure = none ∧
    (coreAt .storer id).ready .plain ⟨[], []⟩ = true ∧ (coreAt .storer id).me.failure = none ∧ (coreAt .storer id).me.unsettled = [] := by
  decide +kernel
theorem test_sete : seen (exec (.sete 6) s67) (fun t => t.me.avail (.s 6) == .empty && t.me.avail (.s 7) == .full) = true := by decide +kernel
theorem test_tstf : seen (exec (.tstf 5 6) (lacking (.s 6) .empty)) (fun t => t.me.rd 5 == 2) = true := by decide +kernel
theorem test_tend : seen (exec .tend s67) (fun t => (t.holder { st := 0, core := .slot0 }).state == .free) = true := by decide +kernel
theorem test_nop : seen (exec .nop s67) (fun t => t.me.pc == 0xC004) = true := by decide +kernel

/-- Slot 0 with a store of its own on its way, or a held failure. -/
def storing : State := coreAt .slot0 (fun h => { h with stores := [{ (default : OutStore) with left := 1 }] })
def failed : State := coreAt .slot0 (fun h => { h with failure := some { cause := 5, pc := 0xBFF0, addr := 0xD000 } })
theorem meets_Fences :
    s67.ready .held ⟨[], []⟩ = true ∧ failed.ready .held ⟨[], []⟩ = true ∧ failed.me.failure.isSome = true ∧ failed.me.waiting = false ∧
    s67.me.failure = none ∧ s67.me.released (s67.ops, .die) = true ∧
    (let s := { storing with ops := 1 }
     s.ready .held ⟨[], []⟩ = true ∧ s.me.failure = none ∧ s.me.released (s.ops, .die) = false ∧ s.me.waiting = false) ∧
    (let s := { (storing.modHolder storing.cur (fun h => { h with waiting := true })) with ops := 1 }
     s.ready .held ⟨[], []⟩ = true ∧ s.me.released (s.ops, .die) = false ∧ s.me.waiting = true) := by decide +kernel
theorem test_fence_failure : traps (exec (.fence .full .die) ((vectored []).modHolder { st := 0, core := .slot0 }
    (fun h => { h with failure := some { cause := 5, pc := 0xBFF0, addr := 0xD000 } }))) 5 0xBFF0 = true := by decide +kernel

/-- Station 0's L1 with one Exclusive and one Shared line. -/
def lineOf (set : Nat) (exclusive : Bool) : L1Line :=
  { (default : L1Line) with id := set + 1, pa := set * 128, set := set, way := 0, exclusive := exclusive }
def cached : State := s67.modStation 0 (fun x => { x with l1 := [lineOf 1 true, lineOf 2 false] })
theorem meets_Fences_lines : lineOf 1 true ∈ (cached.station 0).l1 ∧
    (∀ k ∈ (cached.station 0).l1, k.exclusive = false → (k.set, k.way) ≠ ((lineOf 1 true).set, (lineOf 1 true).way)) := by decide +kernel
theorem test_acquire_drops : seen (exec (.fence .acq .die) cached) (fun t => (t.station 0).l1 == [lineOf 1 true]) = true := by decide +kernel

/-- s8 holds an address of the host's memory. -/
def farBase : Word := 0x8000000000000000
def far : State := (withRegs [(8, farBase), (9, 0x0010000000000000)]).modStation 0 (fun x => { x with l1 := [lineOf 0 true, lineOf 2 false] })
theorem meets_CacheControlResults :
    far.ready .cache ⟨[(.s 8, false)], []⟩ = true ∧ (withRegs [(8, farBase)]).ready .cache ⟨[(.s 8, false)], []⟩ = true ∧
    (withRegs [(8, farBase)]).cacheLine far.cur farBase = none ∧ far.ready .cache ⟨[], []⟩ = true ∧
    far.storesDone (some (far.cur, far.ops)) = true ∧ (let s := { storing with ops := 1 }; s.storesDone (some (s.cur, s.ops)) = false ∧
      s.ready .cache ⟨[], []⟩ = true) ∧
    far.ready .plain ⟨[(.s 8, false)], []⟩ = true ∧ far.regionOf far.cur farBase.toNat = some .far ∧ far.regionOf far.cur 0xC000 ≠ some .far ∧
    far.cur.core ≠ .keeper ∧ l1Sets (far.station far.cur.st) ≠ 0 ∧
    (let s := far.modStation 0 (fun x => { x with app2 := 46, app3 := 46 })
     l1Sets (s.station s.cur.st) = 0) ∧
    lineOf 2 false ∈ (far.station 0).l1 ∧ (lineOf 2 false).exclusive = false := by decide +kernel
theorem test_cinvl1 : seen (exec .cinvL1 cached) (fun t => (t.station 0).l1 == []) = true := by decide +kernel
theorem test_pref_slice : seen (exec (.pref 8 .slice false) far) (fun t => t.agenda.length == 1) = true := by decide +kernel

/-- The urgent bank, with an address, a frame and the selector of its station's first record in s8, s9 and s10. -/
def bank0 : State := coreAt .urgent (fun h => ((h.setS 8 farBase).setS 9 0x0010000000000000).setS 10 0)
theorem meets_MigrationAndErrorRecords :
    bank0.ready .held ⟨[(.s 8, false), (.s 9, false)], []⟩ = true ∧ (far.ready .held ⟨[(.s 8, false), (.s 9, false)], []⟩ = true ∧
      far.cur.core ≠ .urgent ∧ far.cur.core ≠ .keeper) ∧ (0x0010000000000000 : Word).toNat < 2 ^ 58 ∧ (0x0010000000000000 : Word).toNat % 2 ^ 16 = 0 ∧
    (0xFFFF : Word).toNat % 2 ^ 16 ≠ 0 ∧ bank0.regionOf bank0.cur farBase.toNat = some .far ∧ bank0.regionOf bank0.cur 0xC000 ≠ some .far ∧
    bank0.ready .plain ⟨[(.s 10, false)], []⟩ = true ∧ bank0.ready .held ⟨[(.s 10, false)], []⟩ = true ∧ (selectBank 0).isSome = true ∧
    selectBank (-1) = none ∧ mayRecord bank0.cur (stationBank 0) true = true ∧ mayRecord bank0.cur (stationBank 0) false = true ∧
    mayRecord bank0.cur (stationBank 1) false = false ∧ (bank0.checkDsts bank0.cur [.s 4, .s 5, .s 6, .s 7]).goes = true := by decide +kernel
theorem meets_ErrorBankKeepsItsSize : ∃ r ∈ s67.bank (stationBank 0), r.valid = false := by decide +kernel
/-- A record is read as its four doublewords and then is empty (R362, R393, R394). -/
theorem test_errclr : seen (exec (.errclr 10 false) (bank0.record (stationBank 0) 2 7 1 0x80 0 0)) (fun t =>
    (t.bank (stationBank 0)).all (fun r => !r.valid)) = true := by decide +kernel
theorem test_errrd : seen (exec (.errrd 4 10 false) (bank0.record (stationBank 0) 2 7 1 0x80 3 9)) (fun t =>
    t.me.rd 5 == 0x80 && t.me.rd 6 == 3 && t.me.rd 7 == 9) = true := by decide +kernel

/-! ## The message and synchronisation engines -/

/-- The header of Fragment 6: to rank 0x0456, handler 12, two words; and its payload 40, 2 in s5 and s6. -/
def hdr : Word := 0x22B00C2000000000
def sender : State := (withRegs [(8, hdr), (5, 40), (6, 2)]).modHolder { st := 0, core := .slot0 } (fun h => { h with tilec := 7 })
theorem meets_SendingCommands :
    sender.ready .vstore ⟨[(.s 8, false)], []⟩ = true ∧ hdr.toNat / 2 ^ 48 % 8 = 0 ∧ hdr.toNat / 2 ^ 36 % 16 = 2 ∧
    sender.cur.st < 8192 ∧ rankTransit ((sender.station 0).rankEntry (hdr.toNat / 2 ^ 51)) = false ∧
    rankShut ((sender.station 0).rankEntry (hdr.toNat / 2 ^ 51)) = false := by decide +kernel
/-- The source rank is filled in, and the two payload words go with it. -/
theorem test_send : seen (exec (.send 8 5 false false) (let s := sender.modHolder sender.cur (fun h => h.setS 8 0x22B00C2000000000); s))
    (fun t => match (t.agenda.map (fun (x : Timed) => x.ev) : List Instr) with
      | [.messageArrival m] => m.dst == 0x0456 && m.payload == [40, 2] && m.header == 0x22B00C2000000000
      | _ => false) = true := by decide +kernel
theorem test_send_header : traps (exec (.send 8 5 false false) (vectored [(8, 0x0001000000000000)])) 8 0x01 = true ∧
    traps (exec (.send 8 31 false false) (vectored [(8, hdr)])) 8 0x03 = true := by decide +kernel

/-- A station whose mailbox lies from 0x5C000 to its top. -/
def mailLow : Nat := (s67.station 0).lowBound
theorem meets_MailboxAndRankCommands :
    (let s := withRegs [(8, 0x01000C), (9, BitVec.ofNat 64 (mailLow - 128)), (10, 0), (11, 300)]
     s.ready .vstore ⟨[(.s 8, false)], []⟩ = true ∧ s.ready .vstore ⟨[(.s 8, false), (.s 9, false)], []⟩ = true ∧
     s.ready .vstore ⟨[(.s 8, false)], [.s 9]⟩ = true ∧
     (let v : Word := 0x01000C
      ¬ (v.toNat / 2 ^ 23 ≠ 0 ∨ v.toNat / 2 ^ 13 % 8 ≠ 0 ∨ 64 < v.toNat / 2 ^ 16 % 128 ∨ v.toNat % 256 = 255) ∧ v.toNat / 2 ^ 16 % 128 ≠ 0 ∧
      (s.checkSrcs s.cur [(.s 9, false)]).goes = true ∧ (mailLow - 128) + 128 * 1 = (s.station 0).lowBound ∧
      (s.station 0).app3 * 8192 + 25 * 128 ≤ mailLow - 128 ∧ (s.station 0).bindings.length < 8 ∧ (s.station 0).bindings = [])) ∧
    (let v : Word := 0x4000FF
     v.toNat / 2 ^ 23 ≠ 0 ∨ v.toNat / 2 ^ 13 % 8 ≠ 0 ∨ 64 < v.toNat / 2 ^ 16 % 128 ∨ v.toNat % 256 = 255) ∧
    (s67.modStation 0 (fun x => { x with bindings := List.replicate 8 default })).station 0 ≠ (s67.station 0) ∧
    (8191 : Word).toNat < 8192 ∧ 8192 ≤ (8192 : Word).toNat ∧ (254 : Word).toNat < 255 ∧ 255 ≤ (255 : Word).toNat ∧
    (0x4000 : Word).toNat < 2 ^ 15 ∧ (0x4000 : Word).getLsbD 13 = false ∧ (0x2000 : Word).getLsbD 13 = true := by decide +kernel
theorem test_mbind : seen (exec (.mbind 8 9 false false) (withRegs [(8, 0x01000C), (9, BitVec.ofNat 64 (mailLow - 128))]))
    (fun t => (t.station 0).bindings.map (fun b => (b.lo, b.n, b.handler)) == [(mailLow - 128, 1, 12)]) = true := by decide +kernel
theorem test_rankwr : seen (exec (.rankwr 8 9 false false) (withRegs [(8, 5), (9, 0x4123)])) (fun t =>
    (t.station 0).rankEntry 5 == 0x4123) = true := by decide +kernel

/-- A task with two reserved phaser slots, member of phaser 3 of rank 0 in a mode. -/
def member (mode : Nat) : State := (withRegs [(8, 3), (9, 2), (10, 4)]).modHolder { st := 0, core := .slot0 } (fun h =>
  { h with task := some { (default : TaskInfo) with phn := 2 }, phasers := [{ rank := 0, idx := 3, mode := mode }] })
theorem meets_PhaserCommands :
    (let s := member 2
     s.ready .store ⟨[(.s 10, false), (.s 9, false)], []⟩ = true ∧ s.ready .store ⟨[(.s 8, false)], []⟩ = true ∧
     s.ready .store ⟨[(.s 8, false)], [.s 5]⟩ = true ∧ s.cur.core ≠ .keeper ∧
     (4 : Word).toNat / 2 ^ 45 = 0 ∧ (4 : Word).toNat / 2 ^ 6 % 2 ^ 26 = 0 ∧ s.membership s.cur 4 = none ∧ s.cur.core ≠ .urgent ∧
     ((s.holder (s.worksFor s.cur)).task.map (fun i => decide ((s.holder (s.worksFor s.cur)).phasers.length < i.phn))) = some true ∧
     s.rankFull s.cur.st (nameRank 4) = false ∧ s.membership s.cur 3 = some { rank := 0, idx := 3, mode := 2 }) ∧
    (member 0).membership (member 0).cur 3 = some { rank := 0, idx := 3, mode := 0 } ∧
    (member 1).membership (member 1).cur 3 = some { rank := 0, idx := 3, mode := 1 } ∧ (64 : Word).toNat / 2 ^ 6 % 2 ^ 26 ≠ 0 := by
  decide +kernel
/-- The same from an innkeeper, which may not. -/
def keeperAt (f : Holder → Holder) : State :=
  ({ State.reset with boot := .running, cur := { st := 8192, core := .keeper } } : State).modHolder { st := 8192, core := .keeper }
    (fun h => f { h with state := .run, pc := 0x40000000 })
theorem meets_PhaserCommands_keeper : (keeperAt id).ready .store ⟨[(.s 8, false)], []⟩ = true ∧ (keeperAt id).cur.core = .keeper := by
  decide +kernel
theorem test_psig_mode : seen (exec (.psig 8 false) (member 1)) (fun t => t.me.state == .free) = true ∧
    traps (exec (.psig 8 false) ((member 1).modHolder (member 1).cur (fun h => { h with tvec := 0x100 }))) 8 0x123 = true := by decide +kernel
theorem test_psig : seen (exec (.psig 8 false) (member 0)) (fun t => t.agenda.length == 1 && t.me.pc == 0xC004) = true := by decide +kernel

/-- Slot 0 with a deque of its station. -/
def dequed (d : List (Word × Nat)) (l : List (Reg × Word)) : State := (withRegs l).modStation 0 (fun x => { x with deque := d })
theorem meets_DequeCounterAndControlCommands :
    (let s := dequed [(0, 8)] [(8, 0xFFFFFF), (9, 1), (10, 4)]
     s.ready .store ⟨[(.s 8, false), (.s 9, false)], []⟩ = true ∧ s.ready .store ⟨[], [.s 4, .s (4 + 1)]⟩ = true ∧
     s.ready .store ⟨[(.s 10, false)], []⟩ = true ∧ s.ready .store ⟨[(.s 8, false)], [.s 4, .s (4 + 1)]⟩ = true ∧
     s.cur.core ≠ .keeper ∧ s.cur.core ≠ .loader ∧ s.cur.core ≠ .storer ∧
     (1 ≤ (1 : Word).toNat ∧ (1 : Word).toNat ≤ 2 ^ 24 ∧ (0xFFFFFF : Word).toNat % 2 ^ 24 + (1 : Word).toNat ≤ 2 ^ 24) ∧ (s.station 0).deque.length < 64 ∧
     (2 ≤ 8 ∧ (4 : Word).toNat ≤ 8 / 2 ∧ ([] : List (Word × Nat)).length + 1 < 64) ∧ s.rankFull 0 8191 = false) ∧
    64 ≤ ((dequed (List.replicate 64 (0, 1)) []).station 0).deque.length ∧
    (let v : Word := 0x20001
     v.toNat / 2 ^ 45 = 0 ∧ v.toNat / 2 ^ 17 % 2 ^ 14 ≠ 0 ∧ (1 : Word).toNat % 2 ^ 32 ≠ 0) ∧ (0x1FFFF : Word).toNat < 2 ^ 17 ∧
    (31 : Word).toNat < 32 ∧ (0x3F0C : Word).toNat < 2 ^ 14 ∧ (0x3F0C : Word).toNat % 256 ≠ 255 ∧ (15 : Word).toNat < 16 := by decide +kernel
theorem test_dqpush_dqpop : seen (exec (.dqpush 8 9 false false) (dequed [(7, 1)] [(8, 2), (9, 3)])) (fun t => (t.station 0).deque == [(2, 3), (7, 1)]) = true ∧
    seen (exec (.dqpop 4) (dequed [(2, 3), (7, 1)] [])) (fun t => (t.station 0).deque == [(7, 1)]) = true := by decide +kernel
theorem test_tdead_past : seen (exec (.tdead 8 false) { withRegs [(8, 5)] with now := 5 }) (fun t => t.me.state == .free) = true := by
  decide +kernel
theorem test_garm : seen (exec (.garm 8 9 false false) (withRegs [(8, 0x20001), (9, 0x300000002)])) (fun t =>
    match (t.agenda.map (fun (x : Timed) => x.ev) : List Instr) with | [.garmAtHome id c r n f _ _] => id == 1 && c == 2 && r == 3 && n == 1 && f == 0 | _ => false) = true := by
  decide +kernel

/-! ## The station's engines -/

/-- Slot 0, with the copy set 0 as given, the banks 0 (A) and 1 (B) of its cluster as 8 planes of INT8, and registers set. -/
def engineRig (f : CopySet → CopySet) (l : List (Reg × Word)) : State :=
  let s := withRegs l
  (s.modCluster 0 (fun c => { c with bfmt := Machine.put 0 0x106 (Machine.put 1 0x906 c.bfmt) })).modStation 0
    (fun x => { x with sets := x.sets.set 0 (f x.sets[0]) })
def bankA : Word := 0x1000000
def bankB : Word := 0x1040000
def rig : State := engineRig (fun c => { c with len := 64 }) [(8, 0xD000), (9, 0xE000)]
/-- A list of eight copies, which fills the queue with eight more. -/
def copyFilled (s : State) : State := s.modStation 0 (fun x => { x with copies := List.replicate 16 default })
def cfault (s : State) (k : CopyKind) (src dst : Word) : Option Nat := s.copyFault s.cur k (s.station 0).sets[0] src dst

theorem meets_CopyCommands :
    rig.ready .store ⟨[(.s 8, false), (.s 9, false)], []⟩ = true ∧ rig.planeEnd rig.cur 0xD000 = none ∧
    (rig.station 0).sets[tagSet 0].len ≠ 0 ∧ (withRegs []).ready .store ⟨[(.s 8, false), (.s 9, false)], []⟩ = true ∧
    ((withRegs []).station 0).sets[tagSet 0].len = 0 ∧
    cfault (withRegs []) .plain 0 0 = some 0x40 ∧ cfault rig .plain 0xD000 0xE000 = none ∧ cfault rig .follow 0xD000 bankA = none ∧
    cfault rig .gather 0xD000 0xE000 = none ∧ rig.boundRange rig.cur 0xE000 = none ∧
    rig.reachable rig.cur 0x100 64 = false ∧ rig.touchesPlane rig.cur (bankA.toNat - 32) 64 = true ∧
    rig.reachable rig.cur (bankB.toNat + 0x40000 - 32) 64 = true ∧
    (copyFilled rig).ready .store ⟨[(.s 8, false), (.s 9, false)], []⟩ = true ∧ cfault (copyFilled rig) .plain 0xD000 0xE000 = none ∧
    ¬ ((copyFilled rig).station 0).copies.length < 16 ∧
    rig.listFault rig.cur { CopySet.reset with idx := 0xD001 } = false ∧ rig.listFault rig.cur { CopySet.reset with idx := 0xD003 } = true := by
  decide +kernel
/-- A copy with a follow-on onto bank 0, with bank 1 as its B bank, in an open batch and not. -/
def followRig (b : Bool) : State :=
  (engineRig (fun c => { c with len := 64, fb := bankB }) []).modStation 0 (fun x => { x with batch0 := if b then some 0 else none })
theorem meets_CopyCommands_follow :
    (let s := followRig true
     cfault s .follow 0xD000 bankA = none ∧ (∃ bank f, s.ownBank s.cur bankA.toNat = some (bank, f) ∧ f.b = false) ∧
     (∃ bank f, s.ownBank s.cur (s.station 0).sets[tagSet 0].fb.toNat = some (bank, f) ∧ f.b = true) ∧ s.cur.core = .slot0 ∧
     s.mmulFault s.cur (s.station 0).mx bankA.toNat bankB.toNat 0 = none ∧ s.mtxHeld s.cur = false ∧
     s.copyFault s.cur .follow (s.station 0).sets[tagSet 0] 0xD000 0xE000 = none ∧ s.ownBank s.cur 0xE000 = none) ∧
    (let s := followRig false
     s.mmulFault s.cur (s.station 0).mx bankA.toNat bankB.toNat 0 = some 0x60) ∧
    ({ st := 0, core := .loader } : Who).core ≠ .slot0 :=
  ⟨⟨by decide +kernel, ⟨0, _, rfl, rfl⟩, ⟨1, _, rfl, rfl⟩, by decide +kernel⟩, by decide +kernel⟩
theorem meets_AcceptedCopy : rig.cur.st < 8192 ∧ (1 : Nat) ≠ rig.cur.st := by decide +kernel
theorem test_cpy : seen (exec (.cpy 8 9 false false 0) rig) (fun t => (t.station 0).copies.map (fun c => (c.src, c.dst, c.regs.len)) ==
    [(0xD000, 0xE000, 64)]) = true ∧
    traps (exec (.cpy 8 9 false false 1) (vectored [])) 8 0x240 = true := by decide +kernel
/-- The copy is performed: the bytes of the source stand at the destination. -/
theorem test_copy_moves : seen (exec (.cpy 8 9 false false 0) { rig with mem := memWrite [] (Config.poolAt 0 + 0xD000) [1, 2, 3] })
    (fun t => seen (runFirst t) (fun u => memRead u.mem (Config.poolAt 0 + 0xE000) 4 == [1, 2, 3, 0])) = true := by decide +kernel

/-- Slot 0 with the port 0 bound. -/
def ported (b : PortBinding) (l : List (Reg × Word)) : State := (withRegs l).modHolder { st := 0, core := .slot0 } (fun h => { h with ports := [b] })
/-- The selector of a stream out of, and into, port 1; of the ring behind port 1; of the queue 7 behind port 3. -/
def out1 : Word := 0x11
theorem meets_StreamAndWindowCommands :
    (let s := rig
     s.ready .store ⟨[(.s 8, false), (.s 9, false)], []⟩ = true ∧ s.ready .store ⟨[(.s 8, false)], []⟩ = true ∧
     s.strmFault s.cur 1 0xD000 (s.station 0).sets[0] = none ∧ s.strmFault s.cur out1 0xD000 (s.station 0).sets[0] = none ∧
     s.strmFault s.cur 8 0xD000 (s.station 0).sets[0] = some 0x50 ∧
     s.strmFault s.cur 1 0xD000 { (s.station 0).sets[0] with len := 60 } = some 0x52 ∧
     s.strmFault s.cur 1 0x100 (s.station 0).sets[0] = some 0x41) ∧
    (let selects (y : Word) : Prop := y.toNat / 2 ^ 20 = 0 ∧ y.toNat / 2 ^ 12 % 16 = 0 ∧ y.toNat / 2 ^ 6 % 4 = 0 ∧ y.getLsbD 3 = false ∧
        (if y.getLsbD 5 then y.toNat / 2 ^ 16 % 16 = 0 else y.toNat / 2 ^ 8 % 16 = 0)
     selects 0xF0017 ∧ selects 0xF33 ∧ ¬ selects 0x100000 ∧ ¬ selects 0x10720 ∧ (0x723 : Word).getLsbD 5 = true ∧ ¬ 4 ≤ (0x723 : Word).toNat % 8) ∧
    (let s := rig
     s.me.mayBind s.cur.core 3 = true ∧ s.ringPlace s.cur 0x4000040 = some (0, 0x40) ∧ s.ringPlace s.cur 0xD000 = none) ∧
    (ported (newBinding 1 true (.queue 0)) []).me.mayBind .slot0 1 = false := by decide +kernel
theorem meets_StreamAndWindowCommands_windows :
    (let s := withRegs [(8, 0xD000), (9, 128)]
     (0xD000 : Word).toNat % 128 = 0 ∧ s.ownPool s.cur 0xD000 = some 0xD000 ∧ (s.station 0).app1 * 8192 ≤ 0xD000 ∧
     0xD000 + 2 * 128 ≤ (s.station 0).app2 * 8192 ∧ (s.station 0).windows = [] ∧ s.storesDone (some (s.cur, s.ops)) = true) ∧
    (windowed.windowOf windowed.cur 0xD000 = some windowAt ∧ windowed.windowOf windowed.cur 0xD080 = none ∧
     (windowed.station 0).copies.length + (windowed.station 0).publishes.length < 16) ∧
    (let s := windowed.modHolder windowed.cur (fun h => { h with stores := [(default : OutStore)] })
     let t := s.modHolder s.cur (fun h => { h with stores := [{ (default : OutStore) with op := 0 }] })
     ({ t with ops := 1 } : State).storesDone (some (t.cur, 1)) = false) ∧
    (16 ≤ ((copyFilled windowed).station 0).copies.length ∧ (copyFilled windowed).windowOf windowed.cur 0xD000 = some windowAt) ∧
    (let s := withRegs [(8, 0xD000)]
     s.accessFault s.cur 0xD000 8 .waitfFill false = none ∧ (s.station 0).notifies.length < 8 ∧
     s.accessFault s.cur 0x100 8 .waitfFill false = some (accessTrap 0x100) ∧ (0xD004 : Word).toNat % 8 ≠ 0 ∧
     8 ≤ ((s.modStation 0 (fun x => { x with notifies := List.replicate 8 default })).station 0).notifies.length) := by decide +kernel
theorem meets_StreamAndWindowCommands_ports :
    (let p := newBinding 1 true (.ring 0 0x40 3)
     let s := ported p [(8, 1)]
     s.ready .store ⟨[(.s 8, false)], []⟩ = true ∧ (s.holder s.cur).ports.find? (fun q => q.port == 1) = some p ∧ p.out = true) ∧
    (ported (newBinding 1 false (.queue 0)) []).me.ports.find? (fun q => q.port == 1) = some (newBinding 1 false (.queue 0)) ∧
    (newBinding 1 false (.queue 0)).out = false ∧ (8 : Word).toNat ≥ 8 ∧ (7 : Word).toNat < 8 ∧
    (withRegs []).me.ports.find? (fun q => q.port == 7) = none := by decide +kernel
theorem test_qbind_queue : seen (exec (.qbind 8 9 false false) (withRegs [(9, 0x731)])) (fun t =>
    t.me.ports.map (fun p => (p.port, p.out)) == [(1, true)]) = true ∧
    traps (exec (.qbind 8 9 false false) (vectored [(9, 0x100020)])) 8 0x250 = true := by decide +kernel
theorem test_bufdef : seen (exec (.bufdef 8 9 false false) (withRegs [(8, 0xD000), (9, 128)])) (fun t =>
    (t.station 0).windows.map (fun z => (z.base, z.len)) == [(0xD000, 128)]) = true ∧
    traps (exec (.bufdef 8 9 false false) (vectored [(8, 0xD000), (9, 64)])) 8 0x257 = true := by decide +kernel

/-- Slot 0 with the batch of context 0; the urgent bank with that of context 1. -/
def batched : State := (engineRig id [(8, bankA), (9, bankB), (10, 1)]).modStation 0 (fun x => { x with batch0 := some 0 })
def urgentBatch (b : Bool) : State := (coreAt .urgent id).modStation 0 (fun x => { x with batch1 := b })
def inHandler (b : Bool) : State := (coreAt .slot0 (fun h => { h with inh := true })).modStation 0 (fun x =>
  { x with app1 := if b then 23 else 22 })
def mtxFilled (s : State) : State := s.modStation 0 (fun x => { x with mtx0 := List.replicate 8 default })
theorem meets_MatrixCommands :
    (let s := batched
     s.ready .vstore ⟨[(.s 8, false), (.s 9, false)], []⟩ = true ∧ s.ready .vstore ⟨[], []⟩ = true ∧ s.ready .vstore ⟨[(.s 10, false)], []⟩ = true ∧
     s.parkRefuses s.cur = false ∧ s.mtxHeld s.cur = false ∧ (s.station 0).holdsBatch s.cur = true ∧ (3 : BitVec 3).toNat < 4 ∧ ¬ (4 : BitVec 3).toNat < 4 ∧
     s.mmulFault s.cur (s.station 0).mx bankA.toNat bankB.toNat 3 = none ∧ s.mmulFault s.cur (s.station 0).mx bankB.toNat bankB.toNat 3 = some 0x62 ∧
     s.drainFault s.cur 0x17 0xD000 64 = none ∧ s.drainFault s.cur 0x17 bankB 64 = some 0x6C ∧
     ¬ 8 ≤ ((s.station 0).mtx false).length ∧ 8 ≤ (((mtxFilled s).station 0).mtx false).length ∧ (mtxFilled s).mtxHeld s.cur = false) ∧
    (let s := withRegs [(8, bankA), (9, bankB)]
     (s.station 0).holdsBatch s.cur = false ∧ (s.station 0).batch0 = none ∧ (s.station 0).mopenq = []) ∧
    (let s := urgentBatch true
     isCtx1 s.cur = true ∧ s.ready .vstore ⟨[], []⟩ = true ∧ (s.station 0).holdsBatch s.cur = true) ∧
    (isCtx1 (urgentBatch false).cur = true ∧ ((urgentBatch false).station 0).batch1 = false) ∧
    (let s := (withRegs []).modStation 0 (fun x => { x with batch0 := some 1, mopenq := [2] })
     (s.station 0).batch0 = some 1 ∧ 1 ≠ slotNumber s.cur.core ∧ ¬ (s.me.waiting = true ∧ slotNumber s.cur.core ∈ (s.station 0).mopenq)) := by
  decide +kernel
theorem meets_MatrixCommands_parking :
    (let s := inHandler true
     s.ready .vstore ⟨[], []⟩ = true ∧ isCtx1 s.cur = false ∧ s.me.inh = true ∧ 23 ≤ (s.station 0).app1 ∧ (s.station 0).parkedBy = none ∧
     (s.station 0).parking = none ∧ s.mtxHeld s.cur = false ∧ s.parkRefuses s.cur = true) ∧
    ¬ 23 ≤ ((inHandler false).station 0).app1 ∧
    (let s := (inHandler true).modStation 0 (fun x => { x with parkedBy := some 0 })
     s.parkRefuses s.cur = false ∧ (s.station 0).parkedBy = some (slotNumber s.cur.core) ∧ (s.station 0).holdsBatch s.cur = false) ∧
    (let s := (withRegs []).modStation 0 (fun x => { x with parkedBy := some 1 })
     s.parkRefuses s.cur = false ∧ s.mtxHeld s.cur = true) ∧
    (let s := (batched.modHolder { st := 0, core := .slot1 } (fun h => { h with state := .run }))
     let v : Word := 1
     (s.station 0).holdsBatch s.cur = true ∧ v.toNat < 4 ∧ v.toNat % 4 ≠ slotNumber s.cur.core ∧
     (s.holder { st := 0, core := slotOf 1 }).state ≠ .free ∧ (s.holder { st := 0, core := slotOf 1 }).state ≠ .reserved) := by decide +kernel
theorem test_mopen_mclose : seen (exec .mopen (withRegs [])) (fun t => (t.station 0).batch0 == some 0) = true ∧
    seen (exec .mclose batched) (fun t => (t.station 0).batch0 == none) = true ∧ traps (exec .mclose (vectored [])) 8 0x366 = true := by
  decide +kernel
theorem test_mmul : seen (exec (.mmul 8 9 false false 3) batched) (fun t => ((t.station 0).mtx false).length == 1) = true ∧
    traps (exec (.mmul 8 9 false false 3) (vectored [(8, bankA), (9, bankB)])) 8 0x360 = true := by decide +kernel

theorem meets_SignatureCommands :
    (let s := engineRig id [(8, bankA), (9, 0xD000)]
     s.ready .vstore ⟨[(.s 8, false), (.s 9, false)], []⟩ = true ∧ s.ready .vstore ⟨[(.s 8, false)], []⟩ = true ∧
     (∃ f, (∃ bank, s.ownBank s.cur bankA.toNat = some (bank, f) ∧ f.b = false) ∧ f.fmt ≠ 0x16 ∧ ¬ kmax f < 32 * (s.station 0).sg.kg ∧
       kmax { f with p := 16, fmt := 8 } < 32 * 128) ∧
     s.ownBank s.cur 0xD000 = none ∧ (s.station 0).sigs.length < 8 ∧
     s.rangesOk s.cur (sigRanges .hash (s.station 0).sg bankA.toNat 0xD000 6) = true ∧
     s.rangesOk s.cur (sigRanges .hash (s.station 0).sg bankA.toNat 0x100 6) = false ∧ (s.station 0).sg.slen = 0 ∧
     8 ≤ ((s.modStation 0 (fun x => { x with sigs := List.replicate 8 default })).station 0).sigs.length) ∧
    (let q : SgRegs := { SgRegs.reset with slen := 128, rl := 0xD000, keys := 0xD000 }
     let s := (withRegs []).modStation 0 (fun x => { x with sg := q })
     q.slen ≠ 0 ∧ s.rangesOk s.cur (sigRanges .scat q 0xD000 0xE000 0) = true ∧ s.rangesOk s.cur (sigRanges .room q 0xD000 0 0) = true ∧
     s.rangesOk s.cur (sigRanges .sel q 0xD000 0xE000 0) = true) ∧
    (let s := (withRegs []).modCluster 0 (fun c => { c with bfmt := Machine.put 0 0x56 c.bfmt })
     s.ownBank s.cur bankA.toNat = some (0, { zs := false, b := false, typed := false, p := 2, fmt := 0x16 })) :=
  ⟨⟨by decide +kernel, by decide +kernel, ⟨_, ⟨0, rfl, by decide +kernel⟩, by decide +kernel, by decide +kernel, by decide +kernel⟩,
    by decide +kernel⟩, by decide +kernel⟩
theorem test_sghash : seen (exec (.sghash 8 9 false false) (engineRig id [(8, bankA), (9, 0xD000)])) (fun t =>
    (t.station 0).sigs.length == 1 && t.agenda.length == 1) = true ∧
    traps (exec (.sgscat 8 9 false false) (vectored [])) 8 0x483 = true := by decide +kernel

/-! ## The crossing engine and the engine registers -/

/-- Quanta of 1.0 and 0.5, a slope of 2.0, as FP64. -/
def one64 : Word := 0x3FF0000000000000
def half64 : Word := 0x3FE0000000000000
def two64 : Word := 0x4000000000000000
/-- A crossing variable with value 0, slope 1 and quantum 1, posted at time 2^32. -/
def xvar : XVar :=
  { x := 0, q := 0, s := one64, d := one64, tl := 0, last := 0, tn := some (2 ^ 32), d0 := one64, dmax := two64, same := [],
    sbase := 0, posted := some (2 ^ 32) }
/-- Slot 0 with the crossing unit: variable 5, with curfew and dependences. -/
def crossing (f : Crossing → Crossing) (l : List (Reg × Word)) : State :=
  (withRegs l).modStation 0 (fun x => { x with xing := f { x.xing with vars := [(5, xvar)], curfew := 2 ^ 33 } })
theorem meets_CrossingCommands :
    (let s := crossing id [(8, 5), (9, two64)]
     let u := (s.station s.cur.st).xing
     s.ready .vstore ⟨[(.s 8, false), (.s 9, false)], []⟩ = true ∧ s.ready .vstore ⟨[(.s 8, false)], []⟩ = true ∧
     s.ready .vstore ⟨[], [.s 9, .s (9 + 1)]⟩ = true ∧ (4095 : Word).toNat < 2 ^ 12 ∧ 2 ^ 12 ≤ (4096 : Word).toNat ∧
     u.var? 5 = some xvar ∧ u.var? 6 = none ∧ posNormal two64 = true ∧ posNormal 0 = false ∧ posNormal 0x7FF0000000000000 = false ∧
     u.pool = [] ∧ u.pool.any (fun e => e.var == 5) = false ∧ u.deps.length < 16384 ∧ u.deps.any (fun _ => true) = false ∧
     xvar.d0.toNat ≤ two64.toNat ∧ ¬ xvar.d0.toNat ≤ half64.toNat ∧ s.reachable s.cur 0xD000 8 = true ∧ s.reachable s.cur 0x100 8 = false ∧
     finite64 one64 = true ∧ finite64 0x7FF8000000000000 = false ∧ u.head = some (2 ^ 32, 5) ∧ 2 ^ 32 ≤ u.curfew) ∧
    (let dep : XDep := { svar := 5, drank := 1, dvar := 7, coef := one64, seq := 0 }
     let u := ((crossing (fun u => { u with deps := [dep] }) []).station 0).xing
     u.deps.any (fun e => e.svar == 5 && e.drank == 1 && e.dvar == 7) = true ∧
     (0xE001005 : Word).toNat % 2 ^ 12 = 5 ∧ (0xE001005 : Word).toNat / 2 ^ 12 % 2 ^ 13 = 1 ∧ (0xE001005 : Word).toNat / 2 ^ 25 % 2 ^ 12 = 7 ∧
     (0x200E001005 : Word).getLsbD 37 = true ∧ (0x200E001005 : Word).toNat < 2 ^ 38 ∧ 2 ^ 38 ≤ (0x4000000000 : Word).toNat) ∧
    (let q : Word := 0x2005
     q.toNat / 2 ^ 12 < 3 ∧ q.toNat / 2 ^ 12 = 2 ∧ 3 ≤ (0x3005 : Word).toNat / 2 ^ 12) ∧
    ((crossing (fun u => { u with curfew := 0 }) []).station 0).xing.head = some (2 ^ 32, 5) ∧ (0 : Nat) < 2 ^ 32 ∧
    ((withRegs []).station 0).xing.head = none := by decide +kernel
theorem meets_CrossingCommands_full : 16384 ≤ (List.replicate 16384 (default : XDep)).length := Nat.le_of_eq List.length_replicate.symm
theorem meets_CrossingPop :
    let u := ((crossing (fun u => { u with deps := [{ svar := 4, drank := 1, dvar := 7, coef := one64, seq := 0 }], budg := 1 }) []).station 0).xing
    (∀ e ∈ u.deps, e.svar ≠ 5) ∧ u.pool = [] ∧ u.window ≠ 2048 / 1024 ∧ u.budg ≠ 0 := by decide +kernel
theorem test_xdef : seen (exec (.xdef 8 9 false false) (crossing id [(8, 6), (9, one64)])) (fun t =>
    ((t.station 0).xing.var? 6).map (fun r => (r.d, r.d0, r.dmax)) == some (one64, one64, 0x4070000000000000)) = true ∧
    traps (exec (.xdef 8 9 false false) (vectored [(8, 4096)])) 8 0x5C0 = true := by decide +kernel
/-- From 0 with quantum 1 and a positive slope a pop crosses to 1. -/
theorem test_xpop : seen (exec (.xpop 4) (crossing id [])) (fun t =>
    ((t.station 0).xing.var? 5).map (fun r => (r.x, r.q, r.tl)) == some (one64, one64, 2 ^ 32)) = true := by decide +kernel

theorem meets_EngineRegisterCommands :
    (let s := withRegs [(8, 0x2000), (9, 128)]
     let x := s.station s.cur.st
     s.ready .store ⟨[(.s 8, false), (.s 9, false)], []⟩ = true ∧ s.ready .store ⟨[(.s 8, false)], [.s 9]⟩ = true ∧
     s.ready .store ⟨[(.s 8, false)], []⟩ = true ∧ (0xFFFF : Word).toNat < 2 ^ 16 ∧ ¬ (0x10000 : Word).toNat < 2 ^ 16 ∧
     (match x.setEngReg 0x2000 128 with | .ok _ => true | _ => false) = true ∧ (match x.setEngReg 0x3000 0 with | .range => true | _ => false) = true ∧
     (match x.setEngReg 0x3004 0 with | .readOnly => true | _ => false) = true ∧ (match x.setEngReg 0x6000 0 with | .unused => true | _ => false) = true ∧
     (x.engReg 0x2000).isSome = true ∧ x.engReg 0x6000 = none ∧ s.drained s.cur 2 = true ∧
     (s.modStation 0 (fun x => { x with copies := [{ (default : CopyCmd) with who := s.cur }] })).drained s.cur 2 = false ∧
     (7 : Word).toNat < 8 ∧ ¬ (8 : Word).toNat < 8 ∧ s.cur.core ≠ .keeper ∧ (255 : Nat) < 256) ∧
    (keeperAt id).ready .store ⟨[(.s 8, false)], []⟩ = true ∧ (keeperAt id).cur.core = .keeper := by decide +kernel
theorem meets_EngineRegistersHoldValues :
    (match (s67.station 0).setEngReg 0x2000 128 with | .ok y => y.engReg 0x2000 == some 128 && y.engReg 0x2001 == some 1 | _ => false) = true ∧
    (0x2000 : Nat) < 2 ^ 16 ∧ (0x2001 : Nat) ≠ 0x2000 := by decide +kernel
theorem test_ecfg : traps (exec (.ecfg 8 9 false false) (vectored [(8, 0x6000)])) 8 0x600007A0 = true ∧
    seen (exec (.ecfg 8 9 false false) (withRegs [(8, 0x2000), (9, 128)])) (fun t => (t.station 0).engReg 0x2000 == some 128) = true := by
  decide +kernel

/-! ## The steps without a word: memory -/

/-- A module with a page table for address space 1: address 0 leads through four tables to the frame 0x70000, which may be read
alone or read and written. -/
def paged (leaf : Word) : State :=
  let put8 (m : List Host.Cell) (a : Nat) (v : Word) : List Host.Cell := memWrite m (Config.physAt a) (leBytes v.toNat 8)
  { s67 with asroot := Machine.put 1 0x10001 [], mem := put8 (put8 (put8 (put8 [] 0x10000 0x20001) 0x20000 0x30001) 0x30000 0x40001) 0x40000 leaf }
def farPart (kind : PartKind) (tries attempt : Nat) : AccPart :=
  { acc := { inTcm.ownAccess inTcm.cur with asn := 1, tries := tries, ceil := 65536 }, kind := kind, addr := 0x8010000000000008, place := .commons 0 0,
    size := 8, off := 0, qual := .plain, data := [], attempt := attempt, pa := none }
def parkedAt (p : AccPart) (s : State) : State := { s with parked := [{ part := p, slice := 0, at_ := 0, walk := false }] }
def leafOf (w : Walk) : Option TlbEntry := match w with | .leaf e => some e | _ => none
def moving (n : Nat) : Migration := { (default : Migration) with asn := 1, va := 0, old := 0x70000, new := 0x90000, queue := List.replicate n default }

def isSilent (w : Walk) : Bool := match w with | .silent => true | _ => false
/-- The root table lies on CXL port 0, which does not answer. -/
def unanswered : State := { s67 with asroot := Machine.put 1 0x100000010001#64 [], cxl := [(0, 0x1000000)], silent := [0] }
theorem meets_PageEvents :
    (let s := paged 0x7001F
     let p := farPart .load 16 0
     s.mustStayBehind p = false ∧ s.heldAhead p = false ∧ s.blockedBy 1 8 = none ∧ (s.recallWalk 1 8 (p.attempt != 0)).isSome = true ∧
     (s.recallWalk 1 8 true).isSome = true ∧ (leafOf (s.translateAt .load 1 8 false).1).isSome = true ∧ p.pa = none) ∧
    leafOf ((paged 0x70007).translateAt .store 1 8 false).1 = none ∧
    (leafOf (s67.translateAt .load 1 8 false).1 = none ∧ s67.recallWalk 1 8 false = some s67 ∧ isSilent (s67.translateAt .load 1 8 false).1 = false) ∧
    ({ paged 0x7001F with owners := [(0x10000 / 128, 5)] } : State).recallWalk 1 8 false = none ∧
    (unanswered.recallWalk 1 8 false = some unanswered ∧ isSilent (unanswered.translateAt .load 1 8 false).1 = true) ∧
    (unanswered.answers 0x100000020000 = false ∧ s67.answers 0x100000020000 = true ∧
      ({ farPart .load 16 0 with pa := some 0x100000020000 } : AccPart).pa = some 0x100000020000) ∧
    (parkedAt (farPart .load 16 1) (paged 0x7001F)).mustStayBehind (farPart .store 16 0) = true ∧
    ((let s : State := { paged 0x7001F with agenda := [{ due := 0, ev := .accessAtHome { farPart .load 16 1 with held := true } }] }
      s.mustStayBehind (farPart .store 16 0) = false ∧ s.heldAhead (farPart .store 16 0) = true)) ∧
    (parkedAt (farPart .load 16 1) (paged 0x7001F)).parked.find? (fun q => q.part == farPart .load 16 1) =
      some { part := farPart .load 16 1, slice := 0, at_ := 0, walk := false } ∧
    (∃ m, ({ s67 with migrations := [moving 3] } : State).blockedBy 1 8 = some m ∧ m.queue.length < 1024) ∧
    (farPart .load 16 0).kind = .load ∧ (farPart .load 16 0).line = 0 ∧ (farPart .load 16 0).attempt < (farPart .load 16 0).acc.tries ∧
    (farPart .load 16 0).acc.eng = 0 ∧
    s67.sameTask (farPart .load 16 0).acc = true ∧ (s67.holder (farPart .load 16 0).acc.who).state = .run ∧
    (farPart .load 16 16).acc.tries ≤ (farPart .load 16 16).attempt :=
  ⟨by decide +kernel, by decide +kernel, by decide +kernel, by decide +kernel, by decide +kernel, by decide +kernel, by decide +kernel,
    by decide +kernel, by decide +kernel, ⟨_, rfl, by decide⟩, by decide +kernel⟩
theorem meets_PageEvents_leaf : ∃ (e : TlbEntry) (u : State), (paged 0x7001F).translateAt .load 1 8 false = (.leaf e, u) := by
  generalize h : (paged 0x7001F).translateAt .load 1 8 false = r
  have : (leafOf r.1).isSome = true := by rw [← h]; decide +kernel
  obtain ⟨w, u⟩ := r
  cases w with
  | leaf e => exact ⟨e, u, rfl⟩
  | fault => cases this
  | blocked => cases this
  | silent => cases this
theorem meets_PageEvents_queue : ∃ m, ({ s67 with migrations := [moving 1024] } : State).blockedBy 1 8 = some m ∧ 1024 ≤ m.queue.length :=
  ⟨moving 1024, by with_unfolding_all rfl, Nat.le_of_eq (List.length_replicate).symm⟩
/-- A translated access goes to its home at the leaf's frame; a forbidden one parks and retries 256 cycles later. -/
theorem test_translate : seen (exec (.translate (farPart .load 16 0)) (paged 0x7001F)) (fun t =>
    match (t.agenda.map (fun (x : Timed) => x.ev) : List Instr) with | [.accessAtHome p] => p.pa == some 0x70008 | _ => false) = true ∧
    seen (exec (.translate (farPart .store 16 0)) (paged 0x70007)) (fun t => t.parked.length == 1 && (t.agenda.map (fun (x : Timed) => x.due)) == [256]) = true := by
  decide +kernel

/-- A line of station 0's L1: tag 0x80000 of the address space 1, Exclusive at the physical line 0x70000 with a dirty byte. -/
def lineAt : L1Line := { (default : L1Line) with id := 3, va := 0, asn := 1, exclusive := true, pa := 0x70000, present0 := true, dirty0 := true, data := 0x5A }
def lined : State := ({ s67 with owners := [(0x70000 / 128, 0)] } : State).modStation 0 (fun x => { x with l1 := [lineAt] })
theorem meets_CacheLineEvents :
    (let p : AccPart := { farPart .load 16 0 with line := 3 }
     l1Of (lined.station p.acc.who.st) p = some lineAt ∧ l1Of (s67.station p.acc.who.st) p = none ∧ asks p = false ∧
     asks { p with kind := .prefetch true } = true) ∧
    (default : L1Line).exclusive = false ∧
    find? lined.owners (0x70000 / 128) = some 0 ∧ (0 : Nat) ≠ 1 ∧ find? s67.owners (0x70000 / 128) = none ∧
    (lined.station 0).l1.find? (fun l => l.exclusive && l.pa / 128 == 0x70000 / 128) = some lineAt ∧
    (∀ l ∈ (({ s67 with owners := [(0x70000 / 128, 0)] } : State).station 0).l1, (l.exclusive && l.pa / 128 == 0x70000 / 128) = false) ∧
    (5 : Nat) < 128 ∧ (if 5 < 64 then lineAt.dirty0 else lineAt.dirty1) = true ∧ ((3 : Nat), (7 : Byte)) ∈ [((3 : Nat), (7 : Byte))] := by decide +kernel
/-- A Shared line that is being filled: the sector that comes is there, with the station's own store on top (R338). -/
theorem test_fill : (let l : L1Line := { (default : L1Line) with id := 3, fill0 := true, patches := [(0, [9])] }
    let k := fillLine l 0 (List.replicate 64 5)
    (k.present0, k.present1, k.fill0, k.data.extractLsb' 0 16)) = (true, false, false, 0x0509) := by decide +kernel
theorem test_recall : seen (exec (.recall (0x70000 / 128) 1) lined) (fun t => t.owners == [] && (t.station 0).l1 == [] &&
    memRead t.mem (Config.physAt 0x70000) 2 == [0x5A, 0]) = true := by decide +kernel

/-- A migration of address 0 from the frame 0x70000 to 0x90000 at a stage, with these accesses waiting. -/
def movingAt (stage : Nat) (q : List AccPart) : Migration :=
  { (default : Migration) with asn := 1, va := 0, old := 0x70000, new := 0x90000, leaf := 0x40000, stage := stage, queue := q }
def moves (stage : Nat) (q : List AccPart) (ag : List Timed) : State := { paged 0x7001F with migrations := [movingAt stage q], agenda := ag }
def onItsWay : Timed := { due := 0, ev := .accessAtHome { farPart .load 16 0 with pa := some 0x70008 } }
def isFault (w : Walk) : Bool := match w with | .fault => true | _ => false
theorem meets_TranslationEvents :
    (let s := paged 0x7001F
     s.owners = [] ∧ s.recallRange 0 65536 = some s ∧ s.storesDone none = true ∧ s.rootOf 1 = some 0x10000 ∧ s.rootOf 2 = none ∧
     (s.recallWalk 1 8 true).isSome = true ∧ (leafOf (s.walkFrom (transSlice 8 1) 1 8 4 0 0x10000).1).isSome = true ∧
     (∀ e ∈ leafOf (s.walkFrom (transSlice 8 1) 1 8 4 0 0x10000).1, e.level = 3) ∧ s.populated 0x90000 = true ∧ isHostPa 0x90000 = false ∧
     0x90000 % 65536 = 0 ∧ s.blockedBy 1 8 = none ∧ s.populated 0x18000000000 = false ∧
     isFault (s.walkFrom (transSlice 0x10000 1) 1 0x10000 4 0 0x10000).1 = true ∧
     isSilent (unanswered.walkFrom (transSlice 8 1) 1 8 4 0 0x100000010000).1 = true) ∧
    (let s := inTcm.modHolder inTcm.cur (fun h => { h with stores := [{ (default : OutStore) with op := 0 }] })
     s.storesDone (some (s.cur, 1)) = false) ∧
    ({ s67 with owners := [(0, 5)] } : State).recallRange 0 65536 = none ∧
    (∃ t ∈ ({ s67 with agenda := [{ due := 0, ev := .tinv 0 0 }] } : State).agenda, ∃ x, t.ev = .tinv (clusterOf 0) x) ∧
    ¬ (∃ t ∈ s67.agenda, ∃ x, t.ev = .tinv (clusterOf 0) x) ∧ (∃ m, ({ s67 with migrations := [moving 1] } : State).blockedBy 1 0 = some m) ∧
    ((0x4000000000000000 : Word).toNat / 2 ^ 62 = 1 ∧ (0x8000000000000000 : Word).toNat / 2 ^ 62 = 2) ∧
    (tinvLegal 0 = true ∧ tinvLegal 1 = false ∧ frclLegal 0 = true ∧ frclLegal 1 = false) :=
  ⟨by decide +kernel, by decide +kernel, by decide +kernel, ⟨_, List.mem_singleton.2 rfl, _, rfl⟩, by decide +kernel, ⟨_, rfl⟩, by decide, by decide⟩
theorem meets_TranslationEvents_copy :
    ((moves 0 [] []).blockedBy 1 8 = some (movingAt 0 []) ∧ (movingAt 0 []).stage = 0 ∧ (moves 0 [] []).agenda = [] ∧
     ((moves 0 [] []).recallRange 0x70000 65536).isSome = true ∧
     ({ moves 0 [] [] with owners := [(0x70000 / 128, 0)] } : State).recallRange 0x70000 65536 = none) ∧
    (∃ t ∈ (moves 0 [] [onItsWay]).agenda, ∃ p ∈ partsIn t.ev, ∃ pa, p.pa = some pa ∧ pa / 65536 * 65536 = 0x70000 ∧ p.acc.asn = 1) ∧
    ((moves 1 [] []).blockedBy 1 8 = some (movingAt 1 []) ∧ (moves 1 [] []).owners = [] ∧ Memory.wf (moves 1 [] []).mem = true ∧
     0x70000 % 65536 = 0 ∧ 0x90000 % 65536 = 0 ∧ (0x70000 : Nat) ≠ 0x90000 ∧ 0x40000 + 8 ≤ 0x90000) ∧
    ((moves 2 [] []).blockedBy 1 8 = some (movingAt 2 []) ∧ (moves 2 [farPart .load 16 0] []).blockedBy 1 8 = some (movingAt 2 [farPart .load 16 0])) ∧
    (∃ t ∈ (moves 2 [] [onItsWay]).agenda, ∃ p, t.ev = .accessAtHome p ∧ p.acc.asn = 1 ∧ p.addr.toNat % 2 ^ 52 / 65536 = 0 / 65536) ∧
    (let t := ((moves 2 [farPart .load 16 0] []).setMigration (movingAt 2 [])).later (.migrationCopy 1 0)
     t.mustStayBehind (farPart .load 16 0) = false ∧ (parkedAt (farPart .load 16 1) t).mustStayBehind (farPart .load 16 0) = true) :=
  ⟨by decide +kernel, ⟨onItsWay, by decide +kernel, _, List.mem_singleton.2 rfl, 0x70008, by decide +kernel⟩, by decide +kernel, by decide +kernel,
    ⟨onItsWay, by decide +kernel, _, rfl, by decide +kernel⟩, by decide +kernel⟩
/-- The frame moves with its bytes, and the leaf names the new one (R333). -/
theorem test_migration_copy : seen (exec (.migrationCopy 1 0) { moves 1 [] [] with mem := memPut (Config.physAt 0x70005) 7 (moves 1 [] []).mem })
    (fun t => memGet t.mem (Config.physAt 0x90005) == 7 && t.wordAt (Config.physAt 0x40000) == 0x9001F && (t.migrations.map (·.stage)) == [2]) = true := by
  decide +kernel
def cachedAs (asn : Nat) : TlbEntry := { (default : TlbEntry) with asn := asn, level := 3 }
theorem test_tinv : seen (exec (.tinv 0 0x4010000000000000) { s67 with tlb := [cachedAs 1, cachedAs 2] })
    (fun t => t.tlb.map (·.asn) == [2] && look 0 t.shootdowns 0 == 1) = true := by decide +kernel

/-! ## Errors, appeals and the roll call -/

/-- Station 0, shuttered by its neighbours, or with an appeal under way. -/
def shuttered (f : Station → Station) : State := s67.modStation 0 (fun x => f { x with shut := true, shutWhy := 1 })
def hb (f : Heartbeat → Heartbeat) : Heartbeat := f { (default : Heartbeat) with valid := true, chk := 15 }
theorem meets_ErrorAndAppealEvents :
    (0 < 8192 ∧ (s67.station 0).shut = false) ∧ ((2 : Nat) = 2 ∧ Instr.coreStateError 0 = .coreStateError 0) ∧
    (let s := shuttered id
     let x := s.station 0
     x.shut = true ∧ x.shutWhy ≠ 5 ∧ x.appeals.length < 2) ∧
    2 ≤ ((shuttered (fun x => { x with appeals := [1, 2] })).station 0).appeals.length ∧
    (let s := shuttered (fun x => { x with testing := true, appeals := [0] })
     (s.station 0).testing = true ∧ s.clock (dieOf 0) < 2 ^ 22 ∧ 2 ^ 22 ≤ ({ s with now := 2 ^ 22 } : State).clock (dieOf 0) ∧
     (∀ a ∈ (s.station 0).appeals, s.clock (dieOf 0) ≤ a + 4320000000000) ∧ (s.station 0).appeals ≠ [] ∧
     (∃ a ∈ (s.station 0).appeals, a + 4320000000000 < ({ s with now := 4320000000001 } : State).clock (dieOf 0))) ∧
    (s67.station 0).appeals = [] ∧
    (s67.quiescent 0 = false ∧ s67.quiescent 1 = true ∧ (s67.station 1).l1 = [] ∧ (∀ e ∈ s67.owners, e.2 ≠ 1) ∧
     ∃ e ∈ ({ s67 with owners := [(0, 1)] } : State).owners, e.2 = 1) ∧
    (∃ e ∈ neighboursOf 0, ((s67.station 0).neighbour e.1).shut = false) := by decide +kernel
theorem test_shut_test : seen (exec (.shutTest 0) (shuttered id)) (fun t => (t.station 0).testing && (t.station 0).appeals == [0] &&
    (t.agenda.map (fun (x : Timed) => x.due)) == [4194304, 4320000000000]) = true := by decide +kernel
theorem test_uncorrectable : seen (exec (.uncorrectableError { line := .phys 0x100, fixed := false }) s67) (fun t => t.poison == [Config.physAt 0x100 / 128]) = true := by
  decide +kernel

theorem meets_RollCallEvents :
    (hb id).valid = true ∧ (hb id).shutNote = false ∧ (hb (fun h => { h with valid := false })).valid = false ∧
    (hb (fun h => { h with shutNote := true })).shutNote = true ∧ (∃ n, neighbourOf 0 1 = some n ∧ s67.seenShut n = false ∧ n ≠ 0) ∧
    (∀ e ∈ neighboursOf 0, (shuttered id).appealWon e.2 = false) ∧ ({ shuttered id with hbper := 4096 } : State).now < 1 * 4096 ∧
    1 * 4096 ≤ ({ shuttered id with hbper := 4096, now := 4096 } : State).now ∧ (s67.station 0).shut = false ∧
    (∀ b : Bool, (!b) ≠ b) ∧ ((shuttered id).station 0).shut = true ∧ rankTransit (((shuttered id).station 0).rankEntry (rankOf 0)) = false := by
  refine ⟨by decide +kernel, by decide +kernel, by decide +kernel, by decide +kernel, ⟨_, rfl, by decide +kernel, by decide +kernel⟩, by decide +kernel⟩
/-- The table that gives each number of a range the same value. -/
theorem look_of_range {α : Type} (d x : α) : ∀ n a k, a ≤ k → k < a + n → look d ((List.range' a n).map (fun j => (j, x))) k = x
  | 0, a, k, h1, h2 => by omega
  | n + 1, a, k, h1, h2 => by
    by_cases e : a = k
    · simp [List.range'_succ, look, e]
    · simpa [List.range'_succ, look, e] using look_of_range d x n (a + 1) k (by omega) (by omega)
/-- Every station holds back the traffic of rank 0; its slot 0 as given. -/
def heldStation (f : Holder → Holder) : Station := { Station.reset with shut := true, ranks := [(0, 0x8000)] }.setCore .slot0 (f Holder.reset)
def holdingBack (f : Holder → Holder) : State := { s67 with stations := (List.range' 0 8192).map (fun k => (k, heldStation f)) }
theorem holdingBack_station (f : Holder → Holder) (n : Nat) (h : n < 8192) : (holdingBack f).station n = heldStation f :=
  look_of_range _ _ 8192 0 n (by omega) (by omega)
theorem meets_RollCallEvents_transit (f : Holder → Holder) :
    (∀ n, n < 8192 → rankTransit (((holdingBack f).station n).rankEntry (rankOf 0)) = true) ∧ ((holdingBack f).station 0).shut = true :=
  ⟨fun n h => by rw [holdingBack_station f n h]; show rankTransit 0x8000#16 = true; decide, by rw [holdingBack_station f 0 (by omega)]; rfl⟩
theorem meets_RollCallEvents_running :
    (let s := holdingBack (fun h => { h with state := .run })
     (s.holder { st := 0, core := .slot0 }).state = .run ∧ ∀ c ∈ taskCores, s.lostReady { st := 0, core := c } = true) ∧
    (let s := holdingBack (fun h => { h with state := .run, unsettled := [loadOf (.scalar 9 8 false) 4 0] })
     (s.holder { st := 0, core := .slot0 }).state = .run ∧ s.lostReady { st := 0, core := .slot0 } = false) := by decide +kernel
theorem test_heartbeat : seen (exec (.heartbeatReceived 0 1 (hb id)) s67) (fun t => ((t.station 0).neighbour 1).heard == [0]) = true := by
  decide +kernel

/-! ## The steps without a word: messages, launches, synchronisation, the graph -/

/-- Station 0 with a handler 12 whose code is at 0xC100, and with more. -/
def handled (f : Station → Station) : State := s67.modStation 0 (fun x => f { x with handlers := [(12, 0xC100)] })
/-- A message to station 0 for that handler, urgent or not, that has left its station. -/
def msg (f : Msg → Msg) : Msg := f { (default : Msg) with source := .keeper, left := true, header := 0x00000C2000000000, deadline := BitVec.allOnes 64, payload := [40, 2] }
theorem meets_MessageEvents :
    (let s := handled id
     let x := s.station 0
     x.shut = false ∧ x.sealed = false ∧ x.pend = false ∧ (msg id).dst < 8192 ∧ s.holdsSeq 0 (msg id).jseq = false ∧
     s.ended (msg id) = false ∧ s.ended (msg (fun m => { m with jseq := 5, replay := true })) = true ∧ (msg (fun m => { m with why := 2 })).why ≠ 0 ∧
     x.refuses 12 false = false ∧ x.refuses 13 false = true ∧ x.refuses 12 true = true ∧ 12 ∉ x.seals ∧ x.freeRecord .general = some 17 ∧
     x.freeRecord .own = some 9 ∧ x.freeRecord .urgent = some 1 ∧ (msg id).jseq = 0 ∧ (msg id).gang = none ∧ x.thresholds = [] ∧ x.mail = []) ∧
    (handled (fun x => { x with sealed := true })).station 0 ≠ (handled id).station 0 ∧
    12 ∈ ((handled (fun x => { x with seals := [12] })).station 0).seals ∧
    ((handled (fun x => { x with mail := (span 9 2048).map (fun i => { (default : MailRec) with idx := i }) })).station 0).freeRecord .own = none ∧
    (let m := msg (fun m => { m with left := false, source := .task s67.cur 0 })
     m.left = false ∧ m.source = .task s67.cur 0 ∧ s67.storesDone (some (s67.cur, 0)) = true) ∧
    (let s := s67.modHolder s67.cur (fun h => { h with stores := [{ (default : OutStore) with op := 0 }] })
     s.storesDone (some (s67.cur, 1)) = false) ∧
    (let s := (s67.modStation 0 (fun x => { x with mail := [{ (default : MailRec) with idx := 17, ret := true, sender := 0 }], returns := 1 }))
     (s.station 0).mail.find? (fun r => r.idx == 17 && r.ret) = some { (default : MailRec) with idx := 17, ret := true, sender := 0 } ∧
     (∃ c ∈ taskCores, (s.holder { st := 0, core := c }).state ≠ .free ∧ (s.holder { st := 0, core := c }).state ≠ .reserved ∧
       (s.holder { st := 0, core := c }).taskid = 0)) := by decide +kernel
theorem test_message_enters : seen (exec (.messageArrival (msg id)) (handled id)) (fun t =>
    (t.station 0).mail.map (fun r => r.idx) == [17] && wordOf (t.recordWords 0 17) 1 == 40 &&
    (t.agenda.map (fun (x : Timed) => x.ev) : List Instr) == [.launch 0]) = true := by decide +kernel

/-- Station 0 once that message has entered. -/
def after (o : Out) (s : State) : State := match o with | .next t => t | _ => s
def mailed (m : Msg) (f : Station → Station) : State := after (exec (.messageArrival m) (handled f)) s67
def urgentMsg (f : Msg → Msg) : Msg := msg (fun m => f { m with header := 0x00000C2800000000 })
def chosen (s : State) : Option MailRec := (s.chooseLaunch 0).map (·.1)
theorem meets_LaunchAndExpiryEvents :
    (let s := mailed (msg id) id
     let x := s.station 0
     x.shut = false ∧ (∃ r ∈ x.mail, r.ret = false ∧ r.urg = false) ∧ x.pend = false ∧
     (∀ r ∈ chosen s, x.refuses ((s.recordMsg 0 r).header.toNat / 2 ^ 40 % 256) r.gang.isSome = false ∧
       s.now < (s.recordMsg 0 r).deadline.toNat ∧ s.slotFor 0 r.gang = some .slot1) ∧ (chosen s).isSome = true) ∧
    (let s := (mailed (msg id) id).modStation 0 (fun x => { x with handlers := [] })
     ∀ r ∈ chosen s, (s.station 0).refuses ((s.recordMsg 0 r).header.toNat / 2 ^ 40 % 256) r.gang.isSome = true ∧ (s.recordMsg 0 r).jseq = 0) ∧
    (let s := mailed (msg (fun m => { m with deadline := 0 })) id
     ∀ r ∈ chosen s, (s.recordMsg 0 r).deadline.toNat ≤ s.now) ∧
    (∀ r ∈ (s67.station 0).mail, r.ret = true ∨ r.urg = true) ∧
    (let s := mailed (urgentMsg id) id
     let x := s.station 0
     (∃ r ∈ x.mail, r.ret = false ∧ r.urg = true) ∧ x.mail.length = 1 ∧ (s.holder { st := 0, core := .urgent }).state = .free ∧ x.shut = false ∧
     x.pend = false) ∧
    (let s := (coreAt .urgent id).modHolder { st := 0, core := .urgent } (fun h => { h with state := .pending })
     (s.holder { st := 0, core := .urgent }).state = .pending ∧ s.now < (s.holder { st := 0, core := .urgent }).deadl.toNat ∧
     ¬ (∃ k, k < 4 ∧ (s.holder { st := 0, core := slotOf k }).window ≠ none) ∧ (s67.holder { st := 0, core := .urgent }).state ≠ .pending) ∧
    (let s := s67.modHolder s67.cur (fun h => { h with window := some 0, deadl := 0 })
     (∃ k, k < 4 ∧ (s.holder { st := 0, core := slotOf k }).window ≠ none) ∧ (s.holder s.cur).window = some 0 ∧
     s.clock (dieOf 0) < 512 ∧ 512 ≤ ({ s with now := 512 } : State).clock (dieOf 0) ∧ (s67.holder s67.cur).window ≠ some 0 ∧
     ((s.holder s.cur).taskid = 0 ∧ (s.holder s.cur).state ≠ .free ∧ (s.holder s.cur).state ≠ .reserved ∧ (s.holder s.cur).deadl.toNat ≤ s.now)) ∧
    ((0 : Nat) < 8192 ∧ (15 : Nat) < 16 ∧ (255 : Nat) < 256) := by decide +kernel
theorem meets_LaunchAndExpiryEvents_full :
    (let s := (mailed (msg id) id)
     let t := s.modStation 0 (fun x => { x with cores := x.cores.map (fun h => { h with state := HolderState.run }) })
     t.slotFor 0 none = none ∧ (chosen s).isSome = true) ∧
    (let s := (s67.modHolder s67.cur (fun h => { h with state := .halted false, deadl := 0 }))
     (s.holder s.cur).state = .halted false ∧ (s.holder s.cur).deadl.toNat ≤ s.now) := by decide +kernel
theorem test_launch : seen (exec (.launch 0) (mailed (msg id) id)) (fun t =>
    let h := t.holder { st := 0, core := .slot1 }
    h.state == .run && h.pc == 0xC100 && h.rd 8 == 40 && h.rd 9 == 2 && (t.station 0).mail == []) = true := by decide +kernel
theorem test_urgent_launch : seen (exec (.urgentLaunch 0) (mailed (urgentMsg id) id)) (fun t =>
    (t.holder { st := 0, core := .urgent }).state == .pending) = true := by decide +kernel
theorem test_maskwin : seen (exec (.maskwinExpiry s67.cur 0) ({ s67 with now := 512 }.modHolder s67.cur (fun h => { h with window := some 0 })))
    (fun t => (t.holder s67.cur).window == none) = true := by decide +kernel

def phOp (c : PhaserCmd) : PhaserOp := { cmd := c, who := s67.cur, task := 0, op := 0, home := 0, rank := 0, idx := 3, sent := true }
def phMember (cnt : BitVec 32) : PhMember := { who := s67.cur, task := 0, mode := 0, cnt := cnt }
def phased (l : List PhMember) : State := s67.modStation 0 (fun x => { x with phasers := [(3, { phase := 0, members := l, waiting := [] })] })
def stealOf (who : Option (Who × Nat)) : Steal := { thief := 0, rank := 5, victim := 5, who := who }
theorem meets_SyncEvents :
    (phOp .sig).sent = true ∧ ({ phOp .sig with sent := false } : PhaserOp).sent = false ∧
    (let s := (phased []).modStation 0 (fun x => { x with phLast := (0, 9), dqLast := (0, 9) })
     (s.station 0).phLast.1 = s.now ∧ 8 * (phOp .sig).who.st + (coreIx (s.worksFor (phOp .sig).who).core).val < (s.station 0).phLast.2 ∧
     (s.station 0).dqLast.1 = s.now ∧ (stealOf none).thief + 1 < (s.station 0).dqLast.2) ∧
    ¬ (((phased []).station 0).phLast.1 = (phased []).now ∧ 8 * (phOp .sig).who.st + 0 < ((phased []).station 0).phLast.2) ∧
    ¬ (((s67.station 5).dqLast.1 = s67.now ∧ (0 : Nat) + 1 < (s67.station 5).dqLast.2)) ∧
    (let s := phased [phMember 0]
     let p := (s.station 0).phaser 3
     s.storesDone (some (s67.cur, 0)) = true ∧ (s.station 0).shut = false ∧ s.phaserLive (phOp (.join 0)) = true ∧ p.waiting = [] ∧
     p.advance = p ∧ p.members = [phMember 0] ∧ (phMember 0).mode ≠ 1 ∧ (phMember 0).cnt = p.phase) ∧
    ((phased []).station 0).phaser 3 = { phase := 0, members := [], waiting := [] } ∧
    s67.phaserLive { phOp (.join 0) with task := 9 } = false ∧ ({ phOp .qry with rank := 1 } : PhaserOp).rank ≠ ({ phOp .qry with rank := 1 } : PhaserOp).home ∧
    (let s := s67.modHolder s67.cur (fun h => { h with stores := [{ (default : OutStore) with op := 0 }] })
     s.storesDone (some ({ phOp .sig with op := 1 }.who, 1)) = false) ∧
    (let s := s67.modHolder s67.cur (fun h => { h with ep := 5 })
     (s.holder s.cur).state ≠ .free ∧ s.formEp s.cur ≠ (s.holder s.cur).ep ∧ s67.formEp s67.cur = (s67.holder s67.cur).ep) ∧
    State.reset.stations = [] ∧
    (let s := s67.modStation 5 (fun x => { x with deque := [(7, 1), (100, 5)] })
     (s.station 5).deque = [(7, 1)] ++ [(100, 5)] ∧ (100 : Word).toNat % 2 ^ 24 + 5 ≤ 2 ^ 24 ∧ ¬ (8192 ≤ 5 ∨ (s.station 5).shut = true)) ∧
    (8192 ≤ ({ stealOf none with victim := 8192 } : Steal).victim ∧ ({ stealOf none with victim := 8192 } : Steal).who = none) ∧
    entryCode ((s67.station 0).handler 254) = 0 ∧
    (let s := ({ s67 with now := 1024 } : State).modStation 1 (fun x => { x with handlers := [(254, 0xC100)] })
     entryCode ((s.station 1).handler 254) ≠ 0 ∧ s.idle 1 = true ∧ s.idle 0 = false ∧ (s.station 1).stealAt + 1024 ≤ s.clock (dieOf 1)) := by
  decide +kernel
theorem test_phaser_sig : seen (exec (.phaserOpAtHome (phOp .sig)) (phased [phMember 0])) (fun t => ((t.station 0).phaser 3).phase == 1) = true := by
  decide +kernel
theorem test_steal : seen (exec (.stealAtVictim (stealOf (some (s67.cur, 4)))) (s67.modStation 5 (fun x => { x with deque := [(7, 1), (100, 5)] })))
    (fun t => (t.station 5).deque == [(7, 1), (100, 2)]) = true := by decide +kernel

/-- Die 0 with a counter record 1 of this count and fail word, and with a launch or a gang ready. -/
def counted (n : Nat) (hi : Nat) : State := s67.writeAt (Config.commonsAt 0 + Config.counterBase + 16) (leBytes n 8 ++ leBytes hi 8)
def readyAt (f : Die → Die) : State := s67.modDie 0 f
def launchOf (g : Option (Nat × Nat)) : Ready :=
  { (default : Ready) with header := 0x00000C2000000000, deadline := BitVec.allOnes 64, gang := g }
theorem meets_GraphEvents :
    ((counted 2 0).wordAt (Config.commonsAt 0 + Config.counterBase + 16)).toNat % 2 ^ 32 = 2 ∧
    (let lo := (counted 1 0).wordAt (Config.commonsAt 0 + Config.counterBase + 16)
     lo.toNat % 2 ^ 32 = 1 ∧ lo.toNat / 2 ^ 32 = 0) ∧
    (let hi := (counted 1 0).wordAt (Config.commonsAt 0 + Config.counterBase + 24)
     hi.getLsbD 63 = false ∧ hi.toNat % 2 ^ 14 = 0) ∧
    (s67.wordAt (Config.commonsAt 0 + Config.counterBase + 16)).toNat % 2 ^ 32 = 0 ∧ s67.mem = [] ∧
    s67.storesDone (some (s67.cur, 0)) = true ∧
    (s67.modHolder s67.cur (fun h => { h with stores := [{ (default : OutStore) with op := 0 }] })).storesDone (some (s67.cur, 1)) = false ∧
    (s67.die 0).ready = [] ∧ (s67.die 0).gangs = [] ∧
    ((readyAt (fun d => { d with ready := [launchOf none] })).die 0).ready = [launchOf none] ∧ (launchOf none).gang = none ∧
    (launchOf (some (0, 2))).gang = some (0, 2) ∧
    (let s := readyAt (fun d => { d with gangs := [launchOf (some (0, 2))] })
     (s.die 0).gangs ≠ [] ∧ (s.die 0).oldestGang = some (launchOf (some (0, 2))) ∧ s.now < (launchOf (some (0, 2))).deadline.toNat ∧
     s.victimGang 0 (launchOf (some (0, 2))).ep = none) ∧
    (let s := readyAt (fun d => { d with gangs := [{ launchOf (some (0, 2)) with deadline := 0 }] })
     (s.die 0).oldestGang = some { launchOf (some (0, 2)) with deadline := 0 } ∧ (launchOf (some (0, 2))).cctr = none) ∧
    (let s := readyAt (fun d => { d with gangs := [launchOf (some (1, 2))], ready := [launchOf (some (0, 2))] })
     (s.die 0).gangs ≠ [] ∧ (s.die 0).oldestGang = none) := by decide +kernel
/-- Die 0 with a gang that waits with EP 5, and one for pipes that runs with EP 0 at station 9, whose slot 2 is reserved for it. -/
def preempting : State :=
  let s := readyAt (fun d => { d with gangs := [{ launchOf (some (1, 2)) with ep := 5 }], running := [{ index := 0, ready := { launchOf (some (0, 1)) with pipe := true }, members := [(9, 2)] }] })
  s.modHolder { st := 9, core := .slot2 } (fun h => { h with state := .reserved })
theorem meets_GraphEvents_gangs :
    (let s := preempting
     (s.die 0).oldestGang = some { launchOf (some (1, 2)) with ep := 5 } ∧ (s.victimGang 0 5).isSome = true ∧
     (∀ q ∈ s.victimGang 0 5, ∀ m ∈ q.members, (s.holder { st := m.1, core := slotOf m.2 }).state = .reserved)) ∧
    (preempting.placeGang 0 { launchOf (some (1, 2)) with ep := 5 }).isSome = true := by decide +kernel
/-- The same with every rank of die 0 SHUT: no gang can be placed. -/
def unplaceable : State := preempting.modStation 0 (fun x => { x with ranks := (List.range' 0 1024).map (fun k => (k, 0x4000)) })
theorem placeGang_none (s : State) (die : Nat) (r : Ready) (g n : Nat) (e : r.gang = some (g, n + 1))
    (h : ∀ k, k < 1024 → (s.releaseSlots die).rankStation die (die * 1024 + k) = none) : s.placeGang die r = none := by
  have q : ∀ c, (s.releaseSlots die).memberNext die (hdrHandler r.header) c = none := fun c =>
    by unfold State.memberNext; exact List.findSome?_eq_none_iff.2 (fun k _ => by
      unfold State.memberPlace; simp only [h _ (Nat.mod_lt (c + k) (Nat.succ_pos 1023))])
  simp only [State.placeGang, e, State.placeMembers, q, Option.map_none]
theorem meets_GraphEvents_unplaceable : unplaceable.placeGang 0 { launchOf (some (1, 2)) with ep := 5 } = none :=
  placeGang_none _ 0 _ 1 1 rfl (fun r l => by
    have e : ((unplaceable.releaseSlots 0).station (0 * 1024)).rankEntry (0 * 1024 + r) = 0x4000#16 := by
      rw [Nat.zero_mul, Nat.zero_add]; exact look_of_range _ _ 1024 0 r (by omega) (by omega)
    have k : rankShut 0x4000#16 = true := by decide
    simp only [State.rankStation, e, k, Bool.true_or, if_true])
theorem test_decrement : seen (exec (.counterDecrement 1 true 0 none) (counted 2 0)) (fun t =>
    (t.wordAt (Config.commonsAt 0 + Config.counterBase + 16)) == 1 && (t.wordAt (Config.commonsAt 0 + Config.counterBase + 24)).getLsbD 63) = true := by
  decide +kernel

/-! ## The steps without a word: rings, streams, engines, the relay -/

/-- A ring at offset 0x1000 of die 0's commons: entries of 8 bytes from 0x2000, four of them; HEAD, TAIL and the marks. -/
def ringed (head tail marks : Nat) (f : RingState → RingState) : State :=
  let s := s67.writeAt (Config.commonsAt 0 + 0x1000) (([0x20002000, 8 * 2 ^ 48 + 4, head, tail, marks, 0, 0, 0].map (fun v => leBytes v 8)).flatten)
  s.modDie 0 (fun d => { d with rings := [(0x1000, f (d.ring 0x1000))] })
def ringOp (data : List Byte) : RingOp := { who := s67.cur, op := 0, port := 1, die := 0, desc := 0x1000, idx := 3, data := data }
def filling : PortBinding := newBinding 1 false (.stream 0xD000 64 1 0 0 65536 16)
theorem meets_RingAndStreamEvents :
    (let s := ringed 0 2 0 id
     let r := (s.die 0).ring 0x1000
     r.requests = [] ∧ r.pushes = [] ∧ r.returned = [] ∧ r.handed = 0 ∧ (s.wordAt (Config.commonsAt 0 + 0x1008)).toNat / 2 ^ 48 = 8 ∧
     (s.wordAt (Config.commonsAt 0 + 0x1008)).toNat % 2 ^ 32 = 4 ∧ (s.wordAt (Config.commonsAt 0 + 0x1010)).toNat = 0 ∧
     (s.wordAt (Config.commonsAt 0 + 0x1018)).toNat = 2 ∧ (ringOp [1]).idx < 16 ∧
     commonsRef 0 ((s.wordAt (Config.commonsAt 0 + 0x1000)).toNat + 2 % 4 * 8) = some (Config.commonsAt 0 + 0x2010) ∧
     s.ringLegal 0 0x1000 = true ∧ s.storesDone (some (s67.cur, 0)) = true ∧ (0 + 1) % 4 ≠ 0) ∧
    (ringed 0 4 0 id).wordAt (Config.commonsAt 0 + 0x1018) = 4 ∧
    (let s := ringed 2 2 0 id
     (s.wordAt (Config.commonsAt 0 + 0x1018)).toNat ≤ (s.wordAt (Config.commonsAt 0 + 0x1010)).toNat + ((s.die 0).ring 0x1000).handed ∧
     (s.wordAt (Config.commonsAt 0 + 0x1038)).getLsbD 0 = false) ∧
    (let s := (ringed 0 0 0 id).modHolder s67.cur (fun h => { h with unsettled := [loadOf .answer 0 1] })
     ∃ u ∈ (s.holder s67.cur).unsettled, u.op = 0) ∧
    (s67.ringLegal 0 0x1000 = false ∧ (s67.wordAt (Config.commonsAt 0 + 0x1008)).toNat / 2 ^ 48 ≠ 8) ∧
    (let s := ported filling []
     (s.holder s.cur).ports.find? (fun b => b.port == 1) = some filling ∧ filling.out = false ∧ filling.next < streamTotal 1 64 1 ∧
     filling.held.length < 4 ∧ filling.retry = none ∧ s.storesDone (some (s.cur, 0)) = true ∧
     (match s.streamRefs { s.accessOf s.cur 0 s.me.pc 2 with ceil := 65536, tries := 16 } false (streamPieces 0xD000 64 0 8 0) with
       | some (ps, _) => ps.all (fun p => !p.parks) | none => false) = true ∧ s.copyTurn s.cur 0 = true ∧
     filling.held.length + (s.holder s.cur).popped 1 < 4) ∧
    s67.storesDone (some (s67.cur, 0)) = true ∧
    (let s := s67.modHolder s67.cur (fun h => { h with stores := [{ (default : OutStore) with op := 0 }] })
     s.storesDone (some (s67.cur, 1)) = false) ∧
    streamTotal 1 64 1 ≤ 8 ∧ (s67.holder s67.cur).ports.find? (fun b => b.port == 1) = none := by decide +kernel
theorem test_ring_push : seen (exec (.ringPush (ringOp [9, 0, 0, 0, 0, 0, 0, 0])) (ringed 0 2 0 id)) (fun t =>
    memRead t.mem (Config.commonsAt 0 + 0x2010) 1 == [9] && t.wordAt (Config.commonsAt 0 + 0x1018) == 3) = true := by decide +kernel
theorem test_ringeos : seen (exec (.ringeosAtHome { ringOp [] with sent := true }) (ringed 0 2 0x8000000000000 id)) (fun t =>
    t.wordAt (Config.commonsAt 0 + 0x1020) == 0x8000800000000 && t.wordAt (Config.commonsAt 0 + 0x1038) == 1) = true := by decide +kernel
theorem test_stream_fetch : seen (exec (.streamFetch s67.cur 1) ({ ported filling [] with mem := memWrite [] (Config.poolAt 0 + 0xD000) [7] }))
    (fun t => t.me.ports.map (fun p => (p.next, p.held.map (fun (e : PortElem) => e.val))) == [(1, [7])]) = true := by decide +kernel

/-- Station 0 with one copy of 64 bytes from 0xD000 to 0xE000 accepted, its rows done or not. -/
def copying (row : Nat) (k : CopyKind) : CopyCmd := { (default : CopyCmd) with who := s67.cur, kind := k, src := 0xD000, dst := 0xE000, regs := { CopySet.reset with len := 64, cmp := 0x20005 }, row := row, acc := s67.engAccess s67.cur 2 }
def copyAt (c : CopyCmd) : State := s67.modStation 0 (fun x => { x with copies := [c] })
def published (w : List BufWindow) : State :=
  s67.modStation 0 (fun x => { x with publishes := [{ id := 4, who := s67.cur, task := 0, op := 4, base := 0xD000 }], windows := w })
theorem meets_CopyEvents :
    (let s := copyAt (copying 0 .plain)
     let x := s.station 0
     x.copies.find? (fun c => c.id == 0) = some (copying 0 .plain) ∧ (copying 0 .plain).landed = false ∧ (copying 0 .plain).retry = none ∧
     s.storesDone (some (s67.cur, 0)) = true ∧ s.copyTurn s67.cur 0 = true ∧ s.engBehind 0 (fun cl b => s.copyInBank cl b (copying 0 .plain)) = false ∧
     (copying 0 .plain).row < (copying 0 .plain).regs.rows ∧
     (s.copyRows (copying 0 .plain)).isSome = true ∧ s.regionOf s67.cur 0xE000 = some .tcm ∧ x.notifies = [] ∧ (copying 0 .plain).set < 8 ∧
     (copying 0 .plain).regs.cmp.getLsbD 17 = true ∧ s67.cur.st = 0 ∧ s67.cur.core ≠ .keeper) ∧
    (copying 1 .plain).regs.rows ≤ (copying 1 .plain).row ∧ ({ copying 1 .plain with landed := true } : CopyCmd).landed = true ∧
    (let s := copyAt { copying 0 .gather with regs := { (copying 0 .gather).regs with idx := 0xD000 } }
     (s.readList { copying 0 .gather with regs := { (copying 0 .gather).regs with idx := 0xD000 } }).isSome = true ∧ (copying 0 .gather).idxs = []) ∧
    (let s := (copyAt (copying 0 .plain)).modStation 0 (fun x => { x with copies := { copying 0 .plain with id := 7 } :: x.copies })
     s.copyTurn s67.cur 7 = false ∧ s.enginesBefore s67.cur 4 = false) ∧
    (let s := published [windowAt]
     (s.station 0).publishes.find? (fun c => c.id == 4) = some { id := 4, who := s67.cur, task := 0, op := 4, base := 0xD000 } ∧
     s.enginesBefore s67.cur 4 = true ∧ s.storesDone (some (s67.cur, 4)) = true ∧
     (s.station 0).windows.find? (fun v => v.base == 0xD000 && v.task == 0 && decide (v.born < 4) && (v.live || decide (4 < v.died))) = some windowAt ∧
     5 < windowAt.len ∧ windowAt.len % 16 = 0 ∧ (Config.poolAt 0 + windowAt.base) % 16 = 0) ∧
    (let s := (copyAt { copying 0 .plain with dst := 0x40000000 }).modCluster 0 (fun c => { c with closing := [(0, 0)] })
     s.engBehind 0 (fun cl b => s.copyInBank cl b { copying 0 .plain with dst := 0x40000000 }) = true) ∧
    (published []).station 0 ≠ s67.station 0 ∧ (s67.station 0).copies.find? (fun c => c.id == 0) = none ∧
    (s67.station 0).publishes.find? (fun c => c.id == 4) = none := by decide +kernel
theorem test_copy_complete : seen (exec (.copyComplete 0 0) (copyAt { copying 1 .plain with landed := true })) (fun t =>
    (t.station 0).sets[0].done == 1 && (t.station 0).copies == [] && (t.agenda.map (fun (x : Timed) => x.ev) : List Instr) == [.counterDecrement 5 false 0 none]) = true := by
  decide +kernel
theorem test_publish : seen (exec (.publishExchange 0 4) { published [windowAt] with mem := memWrite [] (Config.poolAt 0 + 0xD080) [7] }) (fun t =>
    memRead t.mem (Config.poolAt 0 + 0xD000) 1 == [7] && memRead t.mem (Config.poolAt 0 + 0xD080) 1 == [0]) = true := by decide +kernel

/-- The first matrix command of context 0. -/
def mtxOf (k : MtxKind) (step : Nat) : MtxCmd := { (default : MtxCmd) with kind := k, who := s67.cur, regs := MxRegs.reset, ready := true, step := step, acc := s67.engAccess s67.cur 3 }
def mtxAt (c : MtxCmd) : State := batched.modStation 0 (fun x => { x with mtx0 := [c] })
def mulCmd (step : Nat) : MtxCmd := mtxOf (.mul bankA bankB 2) step
def sigCmd (k : SigKind) : SigCmd := { (default : SigCmd) with kind := k, who := s67.cur, acc := s67.engAccess s67.cur 4, a := 0xD000, b := 0xE000, regs := { SgRegs.reset with keys := 0xF000 } }
def sigAt (l : List SigCmd) : State := s67.modStation 0 (fun x => { x with sigs := l })
def delivery (t : Nat) : Delivery := { who := s67.cur, rank := 0, dst := 0, var := 5, t := t, d := one64, srcRank := 1, srcVar := 2, seq := 0 }
theorem meets_MatrixSignatureAndDeliveryEvents_matrix :
    (let s := mtxAt (mulCmd 0)
     (s.station 0).mtx false = mulCmd 0 :: [] ∧ (mulCmd 0).retry = none ∧ (mulCmd 0).ready = true ∧ s.storesDone (some (s67.cur, 0)) = true ∧
     (mulCmd 0).step < (mulCmd 0).regs.kg ∧ (mulCmd 1).regs.kg ≤ (mulCmd 1).step ∧ (s.ownBank s67.cur bankA.toNat).isSome = true ∧
     (s.ownBank s67.cur bankB.toNat).isSome = true ∧ s.mtxGoes (mulCmd 0) = true ∧ s.yields 0 false = false ∧ (s.station 0).restoring = false) ∧
    (let s := (mtxAt (mulCmd 0)).modStation 0 (fun x => { x with mtx1 := [mtxOf (.zero 6) 0] })
     s.yields 0 false = true ∧ s.mtxGoes { mulCmd 0 with ready := false } = false) ∧
    (let s := mtxAt (mtxOf (.drain 0xD000 256 2) 0)
     (mtxOf (.drain 0xD000 256 2) 0).step < 64 ∧ s.publishBefore s67.cur 0 = false ∧ (s.drainRow 0 false (mtxOf (.drain 0xD000 256 2) 0) 0xD000 256 2).isSome = true ∧
     64 ≤ (mtxOf (.drain 0xD000 256 2) 64).step) ∧
    ({ mulCmd 0 with ready := false } : MtxCmd).ready = false ∧ (s67.station 0).mtx false = [] ∧
    (let s := (mtxAt (mtxOf (.park 0) 0)).modHolder s67.cur (fun h => { h with acquire := some 0 })
     (s.holder s67.cur).acquire = some 0 ∧ (s.station 0).mtx false = [mtxOf (.park 0) 0]) ∧
    (∃ t, (mtxOf (.zero 2) 0).kind = .zero t) ∧ (mtxOf (.unpark 0) 0).kind = .unpark 0 :=
  ⟨by decide +kernel, by decide +kernel, by decide +kernel, by decide +kernel, by decide +kernel, by decide +kernel, ⟨_, rfl⟩, rfl⟩
theorem meets_MatrixSignatureAndDeliveryEvents :
    (let s := sigAt [sigCmd .sel]
     s.engBehind 0 (fun cl b => s.sigInBank cl b (sigCmd .sel)) = false ∧
     (let t := s.modCluster 0 (fun c => { c with closing := [(3, 0)] })
      t.engBehind 0 (fun cl b => t.sigInBank cl b (sigCmd .sel)) = true) ∧
     (s.station 0).sigs = sigCmd .sel :: [] ∧ (sigCmd .sel).retry = none ∧ s.storesDone (some (s67.cur, 0)) = true ∧ s.publishBefore s67.cur 0 = false ∧
     (match ({ cmd := sigCmd .sel, s := s, faults := [] } : SigRun).run with | some r => r.faults == [] | none => false) = true) ∧
    (s67.station 0).sigs = [] ∧ s67.publishBefore s67.cur 9 = false ∧ (published []).publishBefore s67.cur 9 = true ∧
    (let s := crossing id []
     let y := s.station 0
     (y.xing.var? 5).map (·.posted) = some (some (2 ^ 32)) ∧ 2 ^ 32 ≤ (delivery (2 ^ 32)).t ∧ y.xing.pool.length < 1024 ∧ y.shut = false ∧
     (delivery 0).dst < 8192 ∧ y.xing.var? 6 = none ∧ ¬ 2 ^ 32 ≤ (delivery 5).t) ∧
    (let s := crossing (fun u => { u with vars := [(5, { xvar with posted := none })] }) []
     (s.station 0).xing.var? 5 = some { xvar with posted := none } ∧ xvar.tl < (delivery 5).t ∧ xvar.same = [] ∧ (s.station 0).xing.pool = []) ∧
    ((shuttered id).station 0).shut = true ∧ 8192 ≤ ({ delivery 0 with dst := 8192 } : Delivery).dst := by decide +kernel
theorem meets_MatrixSignatureAndDeliveryEvents_full :
    1024 ≤ ((crossing (fun u => { u with pool := List.replicate 1024 default }) []).station 0).xing.pool.length :=
  Nat.le_of_eq (List.length_replicate (n := 1024) (a := (default : Delivery))).symm
theorem test_mzero : seen (exec (.mtxCommandPerform 0 0) ((mtxAt (mtxOf (.zero 2) 0)).modStation 0 (fun x => { x with acc := [(16384, 5)] }))) (fun t =>
    (t.station 0).acc == [] && (t.station 0).mtx0 == []) = true := by decide +kernel
/-- A delivery at time 2^32 moves the value from 0 to 1 with slope 1, and raises the slope by 1. -/
theorem test_delivery : seen (exec (.crossingDelivery (delivery (2 ^ 32))) (crossing (fun u => { u with vars := [(5, { xvar with posted := none })] }) []))
    (fun t => ((t.station 0).xing.var? 5).map (fun r => (r.x, r.s, r.tl)) == some (one64, two64, 2 ^ 32)) = true := by decide +kernel

/-- A collective of die 0 with its descriptor at 0x3400000: its operation, members and retries. -/
def collecting (op members retries : Nat) : Collective :=
  { desc := 0x3400000, words := [BitVec.ofNat 64 (op * 2 ^ 60 + retries * 2 ^ 32 + members), 0, 0, 0, 0, 0, 5], acked := false, sentAt := 0, tries := 0, kept := [], acc := s67.engAccess s67.cur 2, got := [] }
def relaying (c : Collective) : State := s67.modDie 0 (fun d => { d with collectives := [c] })
def frame : RelayFrame := { die := 0, desc := 0x3400000, step := 0, member := 1, data := [] }
theorem meets_RelayEvents :
    (let c := collecting 1 3 2
     let s := relaying c
     s.collective 0 0x3400000 = some c ∧ c.op = 1 ∧ c.acked = false ∧ (∀ g ∈ c.got, g.member ≠ frame.member) ∧ c.got.length + 1 < c.members ∧
     c.tries < c.retries ∧ s.now < c.sentAt + 65536 ∧ c.sentAt + 65536 ≤ ({ s with now := 65536 } : State).now ∧ c.desc = 0x3400000) ∧
    (collecting 0 2 0).op = 0 ∧ (collecting 0 2 0).retries ≤ (collecting 0 2 0).tries ∧ s67.collective 0 0x3400000 = none ∧
    (∃ g ∈ ({ collecting 1 3 2 with got := [frame] } : Collective).got, g.member = frame.member) ∧
    ({ collecting 1 3 2 with acked := true } : Collective).acked = true := by decide +kernel
theorem test_relay_fail : seen (exec (.relayStepFail 0 0x3400000 0) (relaying (collecting 1 3 0))) (fun t => (t.die 0).collectives == [] &&
    (t.agenda.map (fun (x : Timed) => x.ev) : List Instr) == [.counterDecrement 5 true 0 none]) = true := by decide +kernel

/-! ## The steps without a word: the module and its registers -/

/-- The management window owned by master 1, or vacant with an election of claims 9, 7 and 7 under way until cycle 100. -/
def owned : State := { s67 with vacant := false, master := 1 }
def electing (now : Nat) : State := { s67 with vacant := true, now := now, claims := [(0, 9), (2, 7), (3, 7)], election := some 100 }
theorem meets_OwnershipEvents :
    (owned.vacant = false ∧ owned.master = 1 ∧ ¬ owned.master = 2 ∧ classLegal 1 = true ∧ owned.classFits 3 1 = true ∧ classLegal 0 = false ∧
     (3 : Nat) < 4) ∧
    (electing 5).election = some 100 ∧ (electing 5).now < 100 ∧ 100 ≤ (electing 100).now ∧ s67.election = none ∧
    (look 0 (electing 100).claims 2 ≠ 0 ∧ ∀ k, k < 4 → look 0 (electing 100).claims k ≠ 0 →
      (look 0 (electing 100).claims 2).toNat ≤ (look 0 (electing 100).claims k).toNat ∧
      (look 0 (electing 100).claims k = look 0 (electing 100).claims 2 → 2 ≤ k)) := by decide +kernel
theorem test_election : seen (exec .electionEnd (electing 100)) (fun t => t.master == 2 && !t.vacant && t.election == none) = true := by decide +kernel
theorem test_classcfg : seen (exec (.classcfgWrite 1 3 1) owned) (fun t => t.classCfg 3 == 1 && t.status == owned.status) = true ∧
    seen (exec (.classcfgWrite 2 3 1) owned) (fun t => t.status == owned.status ||| 2) = true := by decide +kernel

def image (signed : Bool) : BootImage := { (default : BootImage) with signed := signed, hbper := 4096 }
/-- An inbound record for rank 5: its header and its sequence. -/
def inbound (header seq : Word) : List Word := [header, 0, 0, 0, 0, 0, 0, 0, 0, 0, 0, 0, seq, 0, 0, 0]
def hdr5 : Word := 5 * 2 ^ 51 + 12 * 2 ^ 40
def entryOf : JEntry := { die := 0, idx := 0, seq := 7, launched := false, station := 5, stops := 0, msg := msg id }
theorem meets_BringUpAndResetEvents :
    (s67.boot = .running ∧ State.reset.boot ≠ .running ∧ (image true).signed = true ∧ (image false).signed = false ∧ (image true).bytes = [] ∧
     (image true).formats = [] ∧ (0 : Nat) < (List.replicate 16 (1 : Word)).length) ∧
    (0 % 128 = 0 ∧ ((inbound hdr5 1).getD 12 0).toNat ≤ look 0 ({ s67 with lastSeq := [(0, 5)] } : State).lastSeq 0 ∧
     (inbound hdr5 1).length = 16 ∧ (inbound hdr5 1).length ≠ 15 ∧ 1 ≤ look 0 ({ s67 with lastSeq := [(0, 5)] } : State).lastSeq 0 ∧
     ((inbound hdr5 1).getD 12 0).toNat = 1 ∧ look 0 s67.lastSeq 0 < 1 ∧ inboundLegal (inbound hdr5 1) = true ∧
     inboundLegal (inbound (hdr5 + 2 ^ 48) 1) = false ∧
     (s67.journalAccept (rankCoord ((s67.station 0).rankEntry (((inbound hdr5 1).getD 0 0).toNat / 2 ^ 51)) / 1024) (s67.inboundMsg 0 (inbound hdr5 1))).isSome = true) ∧
    (∀ j ∈ s67.journal, j.die ≠ 0) ∧ ({ s67 with journal := [entryOf] } : State).journal = [entryOf] ∧ entryOf.die = 0 ∧ (0 : Nat) < 8192 ∧
    (0 : Nat) < Config.poolSize ∧ State.reset.stations = [] := by decide +kernel
theorem test_unsigned : seen (exec (.powerOn (image false)) State.reset) (fun t => t.boot == .failed) = true := by decide +kernel
/-- A throttled die runs at half the reference clock at least, and only from 105 °C on (R438). -/
theorem test_throttle : seen (exec (.throttle 0 16) { s67 with now := 128 }) (fun t =>
    (t.die 0).rate == (if throttleTemp ≤ Config.dieTemp 0 128 then 32 else 64) && t.clock 0 == 128) = true := by
  by_cases h : throttleTemp ≤ Config.dieTemp 0 128
  all_goals
    simp only [exec, execThrottle, seen]
    simp only [h, if_true, if_false]
    decide +kernel

theorem meets_RegisterEvents :
    (let x := s67.station 0
     6 ≤ x.plb1 ∧ x.plb1 ≤ x.plb2 ∧ x.plb2 ≤ x.plb3 ∧ x.plb3 ≤ 46 ∧
     (x.plb3 - x.plb2 = 0 ∨ x.plb3 - x.plb2 = 8 ∨ x.plb3 - x.plb2 = 16 ∨ x.plb3 - x.plb2 = 32) ∧ x.pend = false ∧ x.halted = false) ∧
    (let s := s67.modStation 1 (fun x => { x with pend := true, plb1 := 6, plb2 := 46, plb3 := 46 })
     (s.station 1).pend = true ∧ s.quiescent 1 = true ∧ (s.station 1).mail = [] ∧ (s.station 1).l1 = [] ∧ 0x40000 < 46 * 8192 ∧
     inArea 6 46 46 (0x40000 / 8192) = true ∧ inArea (s.station 1).app1 (s.station 1).app2 (s.station 1).app3 (0x40000 / 8192) = false) ∧
    (s67.modStation 0 (fun x => { x with pend := true })).quiescent 0 = false ∧
    ¬ 6 ≤ ((s67.modStation 0 (fun x => { x with plb1 := 5 })).station 0).plb1 ∧
    (bfmtLegal 0x106 = true ∧ bfmtLegal 0x101 = false ∧ s67.bankClosed 0 3 = none ∧
     (s67.modCluster 0 (fun c => { c with closing := [(3, 2)] })).bankClosed 0 3 = some 2 ∧ s67.bankBusy 0 3 2 = false ∧
     (copyAt { copying 0 .plain with dst := 0x40000000 + 3 * 0x40000 }).bankBusy 0 3 2 = true ∧ (15 : Nat) < 16) ∧
    (s67.gaugeOf 0 (((s67.station 0).thr 3).sel.toNat / 2 ^ 56) = none ∧ (s67.gaugeOf 0 0x20).isSome = true ∧ eventLegal 0x10 = true ∧
     eventLegal 0x04 = false ∧ (0x1001000000000000 : Word).toNat / 2 ^ 48 % 2 ^ 8 ≠ 0) ∧
    ((2 ^ 16 - 1 : Word).toNat < 2 ^ 16 ∧ 2 ^ 16 ≤ (2 ^ 16 : Word).toNat ∧ (2 ^ 20 - 1 : Word).toNat < 2 ^ 20 ∧ 2 ^ 20 ≤ (2 ^ 20 : Word).toNat) ∧
    ((coreAt .urgent id).me.window = none ∧ (coreAt .urgent (fun h => { h with window := some 0 })).me.window ≠ none ∧
     (coreAt .urgent id).cur = { st := 0, core := .urgent }) ∧
    (owned.vacant = false ∧ (63 : Nat) < 64 ∧ s67.quiescent 0 = false ∧ (0x5C000 : Word).toNat < 2 ^ 19 ∧ (0x5C000 : Word).toNat % 2 ^ 13 = 0) ∧
    (let s := s67.modStation 0 (fun x => { x with halted := true })
     (s.station 0).halted = true ∧ (s67.holder s67.cur).state = .run ∧ s.saveReady s67.cur = true) ∧
    (∀ c ∈ taskCores, (s67.holder { st := 0, core := c }).state ∈ [HolderState.run, .free]) := by decide +kernel
/-- A load with a part still on its way lets no save begin. -/
theorem meets_RegisterEvents_waits : ((s67.modStation 0 (fun x => { x with halted := true })).modHolder s67.cur
    (fun h => { h with unsettled := [loadOf (.scalar 9 8 false) 4 1] })).saveReady s67.cur = false := by decide +kernel
theorem test_bfmt : seen (exec (.bfmtWrite 0 3 0x106) (s67.modCluster 0 (fun c => { c with closing := [(3, 2)] }))) (fun t => look 0 (t.cluster 0).bfmt 3 == 0x106) = true := by decide +kernel
theorem test_halt : seen (exec (.debugHalt 0) (s67.modStation 0 (fun x => { x with halted := true }))) (fun t => t.me.state == .halted false) = true := by
  decide +kernel

/-- R431: an uncorrected record is copied to cluster 0 of die 0, or is due as a notice to the owner host. -/
theorem test_escalation :
    seen (exec (.coreStateError 5) s67) (fun t => ((t.bank (clusterBank 0)).map (·.kind)).take 1 == [0x08] &&
      ((t.bank (stationBank 5)).map (·.kind)).take 1 == [0x08] && t.noticesDue.length == 0) = true ∧
    seen (exec (.coreStateError 5) { s67 with fnmode := 0x10 }) (fun t => ((t.bank (clusterBank 0)).map (·.valid)).take 1 == [false] &&
      t.noticesDue.length == 1) = true := by decide +kernel

/-! ## More states: the clauses that concern what is under way -/

/-- A part of slot 0 to bank 3 of cluster 0, whose format is being written; a CPOLL's write. -/
def bankPart : AccPart := { partOf0 .load .plain [] with addr := 0x10C0000, place := .spad 0 0xC0000 }
def polled : AccPart := { partOf0 .store .waitfFill (List.replicate 8 1) with acc := { inTcm.ownAccess inTcm.cur with eng := 2, op := 1 } }
def storingTcm : State := inTcm.modHolder inTcm.cur (fun h => { h with stores := [{ (default : OutStore) with op := 0, left := 1 }] })
theorem meets_AccessAtNearHome_early :
    (let s := inTcm.modCluster 0 (fun c => { c with closing := [(3, 0)] })
     s.bankOf bankPart.place = none ∧ s.behindFormat bankPart = true ∧ inTcm.behindFormat bankPart = false) ∧
    (polled.acc.eng = 2 ∧ storingTcm.storesDone (some (polled.acc.who, polled.acc.op)) = false ∧
      inTcm.storesDone (some (polled.acc.who, polled.acc.op)) = true) := by decide +kernel
/-- A CPOLL's write waits for the store before it and is performed after it (R278). -/
theorem test_cpoll_waits : seen (exec (.accessAtHome polled) storingTcm) (fun t => t.waits) = true ∧
    seen (exec (.accessAtHome { polled with sent := true }) inTcm) (fun t => memRead t.mem (Config.commonsAt 0 + 0x100) 2 == [1, 1]) = true := by decide +kernel

theorem meets_BoundQueues_unsettled :
    (let s := (queued true []).modHolder { st := 0, core := .slot0 } (fun h => { h with unsettled := [loadOf (.scalar 28 8 false) 0 1] })
     s.me.holds .plain = false ∧ (∃ u ∈ s.me.unsettled, RegName.s 28 ∈ destsOf u.kind)) ∧
    (let s := (queued true []).modHolder { st := 0, core := .slot0 } (fun h => { h with unsettled := [loadOf (.scalar 9 8 false) 0 1] })
     (¬ ∀ u ∈ s.me.unsettled, (1 : Nat) ≤ u.op) ∧ (s.station 0).promised 3 = 0 ∧ ∀ u ∈ s.me.unsettled, RegName.s 28 ∉ destsOf u.kind) ∧
    (let s := (queued true (List.replicate 31 0)).modHolder { st := 0, core := .slot0 } (fun h =>
       { h with unsettled := [{ loadOf (.scalar 9 8 false) 0 1 with pushes := [{ (default : PortPush) with port := 0 }] }] })
     (s.station 0).promised 3 = 1 ∧ 32 ≤ (look [] (s.station 0).queues 3).length + (s.station 0).promised 3) :=
  ⟨⟨by decide +kernel, _, List.mem_singleton.2 rfl, List.mem_singleton.2 rfl⟩, by decide +kernel, by decide +kernel⟩
/-- A write past an unsettled load is in the queue once the load has settled (R25, R90). -/
theorem test_queue_push_late :
    (let s := (queued true []).modHolder { st := 0, core := .slot0 } (fun h => { h with unsettled := [loadOf (.scalar 9 8 false) 0 0] })
     seen (exec (.lui 28 1) { s with ops := 1 }) (fun t => look [] (t.station 0).queues 3 == [] &&
       seen (exec (.loadLands { st := 0, core := .slot0 } 0) t) (fun u => look [] (u.station 0).queues 3 == [0x8000]))) = true := by decide +kernel

/-- The innkeeper of cluster 0 with s8 at the control register 0x043 of station 0's window, and a store there on its way. -/
def windowStore (l : List Timed) : State := { keeperAt (fun h => h.setS 8 0) with agenda := l }
def windowPart : AccPart :=
  { partOf0 .store .plain (List.replicate 8 1) with acc := { inTcm.ownAccess inTcm.cur with who := { st := 8192, core := .keeper } }, place := .stationWindow 0 0x70218 }
theorem meets_ScalarStoresIssue_window :
    (windowStore [{ due := 0, ev := .accessAtHome windowPart }]).windowWaits { st := 8192, core := .keeper } (.stationWindow 0 0x70218) = true ∧
    (windowStore []).windowWaits { st := 8192, core := .keeper } (.stationWindow 0 0x70218) = false := by decide +kernel

/-- A rank that is held back, with items of slot 0's station in the hold queue: one message more does not fit once they are 64. -/
def heldBack (n : Nat) : State := (vecs.modHolder vecs.cur (fun h => (h.setS 8 0x10010C000).setV 1 0)).modStation 0 (fun x =>
  { x with ranks := [(1, 0x8001)], held := List.replicate n (1, .nop) })
theorem meets_GatherAndScatterIssue_room :
    (heldBack 64).elemRoom vecs.cur [0x10010C000, 0x10010C004] = false ∧ (heldBack 63).elemRoom vecs.cur [0x10010C000, 0x10010C004] = true := by
  decide +kernel
theorem meets_RemoteAccessChecks_poll :
    (({ remotePart 1 1 0xC000 with acc := { inTcm.ownAccess inTcm.cur with eng := 2 } } : AccPart).acc.eng = 2) ∧
    inTcm.storesDone (some ((remotePart 1 1 0xC000).acc.who, (remotePart 1 1 0xC000).acc.op)) = true := by decide +kernel

theorem meets_TrapReturn_parked :
    (let s := handler.modStation 0 (fun x => { x with parkedBy := some 0 })
     (s.station 0).restoring = false) ∧
    (let s := handler.modStation 0 (fun x => { x with parkedBy := some 0, restoring := true })
     s.ready .held ⟨[], []⟩ = true ∧ (s.station 0).restoring = true) := by decide +kernel

/-- Slot 0 with its loader at work. -/
def teamed (f : Holder → Holder) : State := s67.modHolder { st := 0, core := .loader } (fun h => { h with state := .run, serves := 0, unsettled := f h |>.unsettled })
theorem meets_TaskEnd :
    (let s := storing
     s.ready .plain ⟨[], []⟩ = true ∧ s.me.failure = none ∧ s.me.waiting = false ∧ (s.withdrawWaiting s.cur).taskDone s.cur = false) ∧
    (failed.ready .plain ⟨[], []⟩ = true ∧ failed.me.waiting = false ∧
      (let s := failed.modHolder failed.cur (fun h => { h with waiting := true })
       s.me.waiting = true ∧ (s.withdrawWaiting s.cur).taskDone s.cur = true ∧ ((s.withdrawWaiting s.cur).holder s.cur).failure.isSome = true)) ∧
    (let s := coreAt .storer (fun h => { h with unsettled := [loadOf (.scalar 9 8 false) 0 1] })
     s.ready .plain ⟨[], []⟩ = true ∧ s.me.failure = none ∧ s.me.unsettled ≠ []) ∧
    ({ st := 0, core := .loader } : Who) ∈ (teamed id).team { st := 0, core := .slot0 } := by decide +kernel
/-- R16: while a store is outstanding TEND waits, and the loader issues no more. -/
theorem test_tend_halts : seen (exec .tend (storing.modHolder { st := 0, core := .loader } (fun h => { h with state := .run, serves := 0 }))) (fun t =>
    t.me.waiting && (t.holder { st := 0, core := .loader }).state == .stopping) = true := by decide +kernel

theorem meets_FenceResults :
    s67.ready .plain ⟨[], []⟩ = true ∧ s67.me.unsettled = [] ∧ s67.me.released (s67.ops, .die) = true ∧
    (let s := unsettled
     s.ready .plain ⟨[], []⟩ = true ∧ s.me.failure = none ∧ s.me.unsettled ≠ [] ∧ s.me.waiting = false) ∧
    (let s := { (storing.modHolder storing.cur (fun h => { h with waiting := true })) with ops := 1 }
     s.ready .plain ⟨[], []⟩ = true ∧ s.me.released (s.ops, .die) = false ∧ s.me.waiting = true) ∧
    (let s := failed.modHolder failed.cur (fun h => { h with waiting := true })
     s.ready .plain ⟨[], []⟩ = true ∧ s.me.waiting = true ∧ s.me.failure.isSome = true ∧ s.me.unsettled = []) := by decide +kernel
/-- R341: a release issues past an unsettled load, an acquire waits for it. -/
theorem test_fence_rel : seen (exec (.fence .rel .die) unsettled) (fun t => t.me.pc == 0xC004) = true ∧
    seen (exec (.fence .acq .die) unsettled) (fun t => t.me.pc == 0xC000 && t.me.waiting) = true := by decide +kernel

theorem meets_MigrationAndErrorRecordInstructions_ready :
    bank0.ready .plain ⟨[(.s 8, false), (.s 9, false)], []⟩ = true ∧ far.ready .plain ⟨[(.s 8, false), (.s 9, false)], []⟩ = true ∧
    unsettled.ready .plain ⟨[(.s 8, false)], []⟩ = true := by decide +kernel
theorem meets_PhaserCommands_room : (member 2).phaserMustWait 0 (nameRank 4) = false ∧ (member 0).phaserMustWait 0 (nameRank 3) = false := by
  decide +kernel
theorem meets_DequeCounterAndControlCommands_late :
    (dequed [(0, 8)] []).dequeLate 0 0 = false ∧ ((dequed [(0, 8)] []).modStation 0 (fun x => { x with dqLast := (0, 3) })).dequeLate 0 0 = true := by
  decide +kernel
/-- An own pop comes before a steal of the same cycle (R205). -/
theorem test_deque_late : seen (exec (.dqpop 4) ((dequed [(2, 3)] []).modStation 0 (fun x => { x with dqLast := (0, 3) }))) (fun t => t.waits) = true := by
  decide +kernel

theorem meets_CopyCommands_ends :
    rig.copyRoom 0 = true ∧ (copyFilled rig).copyRoom 0 = false ∧ rig.mayName rig.cur 0xD000 64 = true ∧ rig.mayName rig.cur 0x100 64 = false ∧
    windowed.mayName windowed.cur 0xD080 8 = false ∧ windowed.mayName windowed.cur 0xD000 128 = true ∧
    rig.leavesRange rig.cur (rig.station 0).sets[tagSet 0] 0xE000 = false ∧
    (let s := (followRig true).modStation 0 (fun x => { x with parking := some 1 })
     s.mtxHeld (s.worksFor s.cur) = true ∧ cfault s .follow 0xD000 bankA = none) := by decide +kernel
/-- R254: a CPYM of the slot whose batch is parked away waits; R221: a copy to the half of a window that is not shown traps. -/
theorem test_cpym_parked : seen (exec (.cpym 8 9 false false 0) (((followRig true).modStation 0 (fun x => { x with parking := some 1 })).modHolder
    { st := 0, core := .slot0 } (fun h => (h.setS 8 0xD000).setS 9 bankA))) (fun t => t.waits) = true := by decide +kernel
theorem meets_StreamAndWindowCommands_room : rig.copyRoom 0 = true ∧ (copyFilled windowed).copyRoom 0 = false ∧
    (0x700 : Word).toNat / 2 ^ 8 % 16 < 8 ∧ ¬ (0x800 : Word).toNat / 2 ^ 8 % 16 < 8 := by decide +kernel
theorem meets_MatrixCommands_held :
    (let s := (mtxFilled (withRegs []))
     (s.station 0).holdsBatch s.cur = false ∧ s.parkRefuses s.cur = false ∧ s.mtxHeld s.cur = false ∧ 8 ≤ ((s.station 0).mtx false).length) ∧
    ((rig.planeEnd rig.cur bankA.toNat).isSome = true ∧ rig.ready .vstore ⟨[(.s 8, false)], []⟩ = true) ∧
    (let s := (inHandler true).modStation 0 (fun x => { x with parkedBy := some 0, restoring := true })
     s.parkRefuses s.cur = true) := by decide +kernel
theorem meets_OwnershipEvents_other : (owned.vacant = false ∧ owned.master = 1 ∧ (3 : Nat) ≠ 1 ∧ ¬ (owned.master = 2)) := by decide
/-- The owner writes another master's claim; no other may (R430). -/
theorem test_claims : seen (exec (.registerWrite (.managementOther 1 32) 7) owned) (fun t => look 0 t.claims 3 == 7) = true ∧
    seen (exec (.registerWrite (.managementOther 2 32) 7) owned) (fun t => look 0 t.claims 3 == 0 && t.status == owned.status ||| 2) = true := by
  decide +kernel
/-- All ones is never: a variable of slope 0 has no next time (R397). -/
theorem test_no_crossing : (({ xvar with s := 0, posted := none } : XVar).nextTime 1).1 = none := by decide +kernel

/-! ## More states: what waits, what comes late, and what is gone -/

/-- Slot 0 with a typed load into v1 from bank 0, whose format is TYPED no longer; and a part of it, of a typed store, and of a store. -/
def typedLoad : State := coreAt .slot0 (fun h => { h.setAvail (.v 1) (.pending 0) with unsettled := [loadOf (.vector 1 true) 0 1] })
def spadPart (kind : PartKind) (data : List Byte) : AccPart :=
  { partOf0 kind .plain data with addr := 0x1000000, place := .spad 0 0, acc := typedLoad.ownAccess typedLoad.cur }
theorem meets_AccessAtNearHome_late :
    (let p := spadPart .load []
     typedLoad.bankOf p.place = none ∧ p.acc.eng = 0 ∧ p.kind = .load ∧ typedLoad.behindFormat p = false ∧
     (∃ u ∈ (typedLoad.holder p.acc.who).unsettled, u.op = p.acc.op ∧ ∃ d, u.kind = .vector d true)) ∧
    (let p := spadPart .store (List.replicate 264 1)
     p.kind = .store ∧ p.data.length ≠ p.size ∧ p.acc.eng = 0) ∧
    (let p := spadPart .store (List.replicate 8 1)
     p.data.length = p.size) ∧
    (polled.acc.eng = 2 ∧ polled.sent = false ∧ ({ polled with sent := true } : AccPart).sent = true ∧ bankPart.acc.eng ≠ 2 ∧ bankPart.sent = false) :=
  ⟨⟨by decide +kernel, by decide +kernel, rfl, by decide +kernel, _, List.mem_singleton.2 rfl, rfl, 1, rfl⟩, by decide +kernel, by decide +kernel,
    by decide +kernel⟩
/-- R225: what reaches a bank whose form has changed does not read its bytes in the old form. -/
theorem test_late_load : seen (exec (.accessAtHome (spadPart .load [])) typedLoad) (fun t =>
    (t.me.unsettled.map (fun u => u.trap)) == [some (trapOf 0x04 0x1000000)]) = true := by decide +kernel
theorem meets_RemoteAccessChecks_sent :
    (let p : AccPart := { remotePart 1 1 0xC000 with acc := { inTcm.ownAccess inTcm.cur with eng := 2 }, sent := true }
     p.acc.eng = 2 ∧ p.sent = true ∧ inTcm.regionOf p.acc.who p.addr.toNat = some (.remote 1)) := by decide +kernel

/-- Slot 0 with a load of this kind, whose bytes have come back, with these lanes' traps enabled and with a trap or a check behind it. -/
def landingAs (kind : LoadKind) (buf : List (Nat × List Byte)) (f : Holder → Holder) (checks : List (Word × BitVec 15 × BitVec 15)) : State :=
  coreAt .slot0 (fun h => f { (destsOf kind).foldl (fun h n => h.setAvail n (.pending 4)) h with
    unsettled := [{ loadOf kind 4 0 with buf := buf, checks := checks }] })
/-- Lanes of a typed load: 1.0 and a number that no FP32 holds exactly, as FP64. -/
def lanes64 : List Byte := leBytes 0x3FF0000000000000 8 ++ leBytes 0x3FF0000000000001 8 ++ List.replicate 240 0
def laneFlags (b : List Byte) : List Nat := (List.range 64).map (fun i => (fp32.round .rne (fp64.decode (leNat ((b.drop (8 * i)).take 8)))).2)
theorem meets_LoadsLand_kinds :
    (let s := landingAs (.vector 1 true) [(0, lanes64)] (fun h => { h with vctl := 0x40100 }) []
     (s.holder s.cur).avail (.v 1) = .pending 4 ∧ (laneTrap (s.holder s.cur).vctl (laneFlags lanes64)).isSome = true ∧
     (∀ y ∈ (s.holder s.cur).unsettled, 4 ≤ y.op) ∧ laneTrap 0x40000 (laneFlags lanes64) = none) ∧
    (let s := landingAs (.gather 1 4 []) [(0, [1, 2, 3, 4]), (63, [5, 6, 7, 8])] id []
     (s.holder s.cur).avail (.v 1) = .pending 4 ∧
     (∀ u ∈ (s.holder s.cur).unsettled, (∀ e ∈ u.buf, e.2.length = 4 ∧ e.1 * 4 + 4 ≤ 256) ∧ u.buf.Pairwise (fun a b => a.1 ≠ b.1) ∧
       (5 * 4 + 4 ≤ 256 ∧ ∀ e ∈ u.buf, e.1 ≠ 5))) ∧
    (let s := landingAs (.engine 8 true) [(0, List.replicate 16 1)] id []
     (8 : Reg) ≠ 0 ∧ (8 : Reg).toNat % 2 = 0 ∧ (s.holder s.cur).avail (.s 8) = .pending 4 ∧ (s.holder s.cur).avail (.s 9) = .pending 4) ∧
    (let s := landingAs (.engine 9 false) [(0, List.replicate 8 1)] id []
     (s.holder s.cur).avail (.s 9) = .pending 4) ∧
    (let s := landingAs (.phaser 9) [(0, List.replicate 4 1)] id []
     (s.holder s.cur).avail (.s 9) = .pending 4) := by decide +kernel
theorem meets_LoadsLand_behind :
    (let s := landingAs (.scalar 9 1 true) [(0, [1])] (fun h => { h with heldTrap := some (0xC010, trapOf 3 0xD001) }) []
     (s.holder s.cur).heldTrap = some (0xC010, trapOf 3 0xD001) ∧ (s.holder s.cur).unsettled = [{ loadOf (.scalar 9 1 true) 4 0 with buf := [(0, [1])] }]) ∧
    (let s := landingAs (.scalar 9 1 true) [(0, [1])] id [(0xC010, 1, 2)]
     (s.holder s.cur).heldTrap = none ∧ (s.holder s.cur).acquire ≠ some 4 ∧
     (s.holder s.cur).unsettled = [{ loadOf (.scalar 9 1 true) 4 0 with buf := [(0, [1])], checks := [(0xC010, 1, 2)] }]) := by
  constructor <;> decide +kernel
theorem test_gather_lands : seen (exec (.loadLands { st := 0, core := .slot0 } 4)
    (landingAs (.gather 1 4 []) [(0, [1, 2, 3, 4]), (63, [5, 6, 7, 8])] id [])) (fun t =>
      elem 32 (t.me.rdv 1) 0 == 0x04030201 && elem 32 (t.me.rdv 1) 63 == 0x08070605 && elem 32 (t.me.rdv 1) 1 == 0) = true := by decide +kernel
/-- A typed load rounds each lane to VCTL.TW and adds the flags (R123, R103). -/
theorem test_typed_lands : seen (exec (.loadLands { st := 0, core := .slot0 } 4) (landingAs (.vector 1 true) [(0, lanes64)] (fun h => { h with vctl := 0x40000 }) [])) (fun t =>
    elem 32 (t.me.rdv 1) 0 == 0x3F800000 && elem 32 (t.me.rdv 1) 1 == 0x3F800000 && t.me.vflags == 1) = true := by decide +kernel

theorem meets_TaskEnd_ends :
    (let t := (s67.haltTeam s67.cur).withdrawWaiting s67.cur
     t.taskDone s67.cur = true ∧ t.leaveRoom s67.cur = true ∧ (t.holder s67.cur).failure = none) ∧
    (let s := (member 0).modStation 0 (fun x => { x with ranks := [(1, 0x8001)], held := List.replicate 64 (1, .nop) })
     let u := s.modHolder s.cur (fun h => { h with phasers := h.phasers.map (fun j => { j with rank := 1 }) })
     ((u.haltTeam u.cur).withdrawWaiting u.cur).leaveRoom u.cur = false) ∧
    (let s := storing.modHolder storing.cur (fun h => { h with waiting := true })
     s.me.waiting = true ∧ (∀ p ∈ s.waiting, s.taskWaits s.cur p = false) ∧ s.phaserWaits s.cur s.me.taskid = [] ∧
     ((s.haltTeam s.cur).withdrawWaiting s.cur).taskDone s.cur = false) := by decide +kernel
theorem meets_HoldingInstructionsWait_fence : FenceKind.acq ≠ .rel ∧ unsettled.me.unsettled ≠ [] ∧ unsettled.me.failure = none ∧
    (failed.modHolder failed.cur (fun h => { h with waiting := true })).me.waiting = true := by decide +kernel
theorem meets_CacheControlResults_stores :
    (∃ o ∈ storing.me.stores, o.reduction = false) ∧
    (∀ o ∈ (coreAt .slot0 (fun h => { h with stores := [{ (default : OutStore) with reduction := true }] })).me.stores, o.reduction = true) ∧
    (storing.ready .cache ⟨[], []⟩ = true) := by decide +kernel
theorem meets_MemoryStaysCanonical : Memory.wf (placed 0x04A63800).mem = true ∧ seen (step (placed 0x04A63800)) (fun _ => true) = true := by
  decide +kernel
theorem meets_TrapReturnTrapsAndSignatures_past : unsettled.me.sigacc ≠ 1 ∧ unsettled.me.unsettled ≠ [] ∧
    unsettled.ready .plain ⟨[], []⟩ = true ∧ unsettled.cur.st < 8192 := by decide +kernel

theorem meets_DequeCounterAndControlCommands_own :
    (let s := dequed [(0, 8)] [(8, 0), (9, 0)]
     (0 : Word).toNat = rankOf 0 ∧ (s.station 0).rankEntry 0 = BitVec.ofNat 16 0 ∧ s.rankFull 0 0 = false ∧ s.dequeLate 0 0 = false ∧
     (s.modStation 0 (fun x => { x with dqLast := (0, 3) })).dequeLate 0 0 = true ∧ ¬ (5 : Word).toNat = rankOf 0 ∧ s.rankFull 0 5 = false) ∧
    (heldBack 64).rankFull 0 1 = true := by decide +kernel
/-- R205: a steal from the own deque is performed with the station's own operations, at once: the upper half of the oldest entry. -/
theorem test_own_steal : seen (exec (.dqsteal 4 8 false) (dequed [(7, 1), (100, 5)] [(8, 0)])) (fun t =>
    (t.station 0).deque == [(7, 1), (100, 2)]) = true := by decide +kernel

/-! ## Values: what the statements on rounding, conversion, copies, signatures and walks speak of -/

theorem meets_RoundingValues :
    (fp4 ∈ [fp4, fp6a, fp6b, fp8a, fp8b, fp16, bf16, fp32, fp64] ∧ fp64 ∈ [fp4, fp6a, fp6b, fp8a, fp8b, fp16, bf16, fp32, fp64] ∧ Rm.rma ≠ .dyn) ∧
    (fp16.maxBits < 2 ^ 15 ∧ fp16.special = .ieee ∧ fp16.maxBits + 1 < 2 ^ 16 ∧ fp16.maxBits < 2 ^ 15 - 1 ∧ 2 ^ 15 - 1 ≠ fp16.maxBits + 1) ∧
    (fp8a.special = .nanOnly ∨ fp8b.special = .nanOnly) ∧ fp4.special = .none ∧ (2 ^ 52 - 1 : Nat) < 2 ^ 52 := by decide +kernel
theorem meets_RoundingValues_sums : real false 3 0 + real true 3 0 = 0 ∧ real false 3 0 + real false 1 (-1) ≠ 0 := by norm_num [real]

/-- The first enclosure decides 2 to 0.5 and the logarithm of 3 in FP32. -/
theorem meets_ExponentialAndLogarithmValues :
    (fp32 ∈ [bf16, fp16, fp32, fp64] ∧ (0xFFFFFFFF : Nat) < 2 ^ fp32.width) ∧
    fp32.decode 0x7FC00000 = .nan false false (2 ^ 51) ∧ fp32.decode 0xFF800000 = .inf true ∧ fp32.decode 0x7F800000 = .inf false ∧
    (∃ m e, fp32.decode 0x3F000000 = .fin false m e ∧
      (roundEnclosed fp32 .rne false (exp2Frac 256 ((m : Int) % 2 ^ (-e).toNat).toNat (-e).toNat (2 * 2 ^ 256) (2 ^ 256)) (16 * (-e).toNat)
        ((m : Int) / 2 ^ (-e).toNat - 256)).isSome = true) ∧
    (∃ m e, fp32.decode 0x40400000 = .fin false m e ∧ m ≠ 0 ∧
      (let v : Int := (e + Nat.log2 m) * 2 ^ 320 + log2Bits (320 + 60 + Nat.log2 m) 320 (m * 2 ^ (320 + 60)) 0
       (roundEnclosed fp32 .rne (decide (v < 0)) (if v < 0 then (v + 3).natAbs else v.natAbs) 3 (-320)).isSome = true)) ∧
    (∃ e, fp32.decode 0 = .fin false 0 e) ∧ (∃ m e, fp32.decode 0xBF800000 = .fin true m e ∧ m ≠ 0) ∧
    (∃ m e, fp32.decode 0x00000001 = .fin false m e ∧ (Nat.log2 m : Int) + e < -100) ∧
    (∃ m e, fp32.decode 0x7F7FFFFF = .fin false m e ∧ 12 < (Nat.log2 m : Int) + e) :=
  ⟨by decide, by decide +kernel, by decide +kernel, by decide +kernel, ⟨_, _, rfl, by decide +kernel⟩, ⟨_, _, rfl, by decide +kernel, by decide +kernel⟩,
   ⟨_, rfl⟩, ⟨_, _, rfl, by decide +kernel⟩, ⟨_, _, rfl, by decide +kernel⟩, ⟨_, _, rfl, by decide +kernel⟩⟩

theorem meets_ConversionValues :
    (0x1B < 0x1C ∧ (0x16 : Nat) < 0x1C ∧ fp32 ∈ [bf16, fp16, fp32, fp64] ∧ 63 < min (2048 / fp32.width) (2048 / codeBits 0x17)) ∧
    (codeFloat 0x17 = some fp32 ∧ (0x17 : Nat) < 0x10 ∨ 0x16 < 0x17) ∧ (codeFloat 0x14).isSome = true ∧
    (0x19 ∈ [0x01, 0x05, 0x07, 0x19] ∧ 0x1A ∈ [0x02, 0x04, 0x06, 0x08, 0x18, 0x1A]) ∧
    ((2 : VWord).toNat / 2 ^ 0 % 2 ^ codeBits 0x03 = 2 ∧ (3 : VWord).toNat / 2 ^ 0 % 2 ^ codeBits 0x03 ≠ 2) ∧
    (fp32.decode (elem 32 (0x7FC00000 : VWord) 0).toNat = .nan false false (2 ^ 51) ∧ fp32.decode (elem 32 (0xFF800000 : VWord) 0).toNat = .inf true ∧
      fp32.decode (elem 32 (0 : VWord) 31).toNat = .fin false 0 (-149)) := by decide +kernel
theorem meets_ReductionsAndScans_levels :
    (List.replicate (2048 / redWidth .fadd .b16) (none : Option (BitVec (redWidth .fadd .b16)))).length = 2048 / redWidth .fadd .b16 :=
  List.length_replicate

/-- The engine rig with one copy or drain of these ends. -/
def movingRow (kind : CopyKind) (src dst : Word) (f : CopyCmd → CopyCmd) : State :=
  rig.modStation 0 (fun x => { x with copies := [f { copying 0 kind with src := src, dst := dst, regs := { CopySet.reset with len := 64 } }] })
def movedOf (s : State) : CopyCmd := (s.station 0).copies.headD default
theorem meets_CopiedValues :
    (let s := movingRow .plain 0xD000 0xE000 id
     let c := movedOf s
     (s.station 0).copies.find? (fun k => k.id == 0) = some c ∧ c.who.st = 0 ∧ c.acc.who = c.who ∧ c.landed = false ∧ c.retry = none ∧
     c.data = none ∧ c.put = [] ∧ c.got = [] ∧ c.placed = [] ∧ c.ghosts = [] ∧ c.missed = [] ∧ c.row < c.regs.rows ∧ 0 < c.regs.len ∧
     s.poison = [] ∧ (s.station 0).windows = [] ∧ s.copyReleased (workOfTask c.who c.acc.task) 0 = true ∧
     s.engBehind 0 (fun cl b => s.copyInBank cl b c) = false ∧ s.planeEnd c.who 0xD000 = none ∧ s.planeEnd c.who 0xE000 = none ∧
     s.regionOfAll c.who (rowAt c.src 0 0) 64 = some .tcm ∧ s.regionOfAll c.who (rowAt c.dst 0 0) 64 = some .tcm) := by decide +kernel
theorem meets_CopiedValues_lists :
    (let s := movingRow .gather 0xD000 0xE000 (fun c => { c with regs := { c.regs with idx := 0xD002 } })
     let c := movedOf s
     c.kind = .gather ∧ c.idxs = [] ∧ s.regionOfAll c.who (c.regs.idx.toNat / 4 * 4) (c.regs.rows * 2 ^ (c.regs.idx.toNat % 4)) = some .tcm) ∧
    (let c := movedOf (movingRow .gather 0xD000 0xE000 (fun c => { c with idxs := [3] }))
     c.idxs.getD c.row lostIndex ≠ lostIndex) := by decide +kernel
theorem meets_CopiedValues_banks :
    (let s := movingRow .plain bankA 0xE000 id
     let f : BankFmt := { zs := false, b := false, typed := false, p := 8, fmt := 6 }
     s.planeEnd s67.cur bankA.toNat = some (0, 0, f, 0) ∧ planesLegal f.fmt f.p = true ∧ rowElems f.fmt 64 = some 64 ∧ 64 ≤ kmax f ∧
     codeScaled f.fmt = false ∧ s.engBehind 0 (fun cl b => s.copyInBank cl b (movedOf s)) = false ∧
     s.planeEnd s67.cur (bankA.toNat + 0x80000) = none) ∧
    (let s := (movingRow .plain bankA (bankA + 0x80000) id).modCluster 0 (fun c => { c with bfmt := Machine.put 2 0x106 c.bfmt })
     let f : BankFmt := { zs := false, b := false, typed := false, p := 8, fmt := 6 }
     s.planeEnd s67.cur bankA.toNat = some (0, 0, f, 0) ∧ s.planeEnd s67.cur (bankA + 0x80000).toNat = some (0, 2, f, 0)) := by decide +kernel
theorem meets_CopiedValues_drains :
    (let d := mtxOf (.drain 0xD000 256 2) 63
     let s := mtxAt d
     d.who.st = 0 ∧ d.acc.who = d.who ∧ d.step < 64 ∧ s.poison = [] ∧ (s.station 0).windows = [] ∧ d.retry = none ∧
     s.planeEnd d.who 0xD000 = none ∧ d.regs.dfmt ≠ 0x16 ∧ s.regionOfAll d.who (rowAt 0xD000 256 63) (16 * codeBits d.regs.dfmt) = some .tcm ∧
     s.planeEnd d.who bankA.toNat = some (0, 0, { zs := false, b := false, typed := false, p := 8, fmt := 6 }, 0) ∧
     planesLegal 6 8 = true) ∧
    (codeScaled 0x1B = false ∧ (0x1B : Nat) < 28 ∧ (31 : Nat) < (List.replicate 32 (Value.inf true)).length) ∧
    (planesLegal 6 16 = true ∧ (255 : Nat) < 256 ∧ (∃ v ∈ List.replicate 32 (Value.inf true), ∀ neg m e, v ≠ .fin neg m e)) ∧
    (∃ fmt, fmt < 28 ∧ codeScaled fmt = true) :=
  ⟨by decide +kernel, by decide +kernel, ⟨by decide, by decide, .inf true, by decide, nofun⟩, 0x10, by decide, by decide⟩

/-- A room list of one row of zeros stands at 0xF800, and the unit's registers name places apart from one another. -/
def signed (k : SigKind) (a b : Word) (f : SgRegs → SgRegs) : SigCmd :=
  { sigCmd k with a := a, b := b, regs := f { SgRegs.reset with rl := 0xF800, keys := 0xF000, slen := 8, rows := 1, nq := 1, nk := 1 } }
theorem meets_SignatureResults :
    (let s := rig
     let tcm (x n : Nat) : Bool := decide (s.regionOfAll s67.cur x n = some .tcm)
     (sigCmd .hash).acc.who = (sigCmd .hash).who ∧ s.poison = [] ∧ (s.station 0).windows = [] ∧
     (∃ f, s.ownBank s67.cur bankA.toNat = some (0, f) ∧ f.b = false ∧ f.fmt ≠ 0x16 ∧ 32 * 1 ≤ kmax f) ∧
     tcm 0xD000 512 = true ∧ tcm 0xE000 512 = true ∧ tcm 0xF000 8 = true ∧ tcm 0xF800 392 = true ∧
     (let q := (signed .scat 0xD000 0xE000 id).regs
      1 ≤ q.kg ∧ q.rows ≤ 64 ∧ q.slen % 8 = 0 ∧ 0 < q.slen ∧ 0xE000 + q.rows * q.slen ≤ 0xF800 ∧ 0xD000 + q.rows * q.slen ≤ 0xE000) ∧
     (roomList (memRead ({ s with mem := memWrite [] (Config.poolAt 0 + 0xF800) ([0, 0, 1, 0, 1, 0, 0, 0, 255, 255]) } : State).mem (Config.poolAt 0 + 0xF800) 392)).valid 1 = true ∧
     (roomList (memRead ({ s with mem := memWrite [] (Config.poolAt 0 + 0xF800) ([0, 0, 1, 0, 1, 0, 0, 0, 255, 255]) } : State).mem (Config.poolAt 0 + 0xF800) 392)).nroom ≤ 1) := by
  refine ⟨by decide +kernel, by decide +kernel, by decide +kernel, ⟨_, rfl, by decide +kernel⟩, by decide +kernel⟩

def walked (o : Walk × State) (p : TlbEntry → Bool) : Bool := match o.1 with | .leaf e => p e | _ => false
theorem meets_WalkFindsLeaf :
    (look 0#64 (paged 0x7001F).asroot 1 = 0x10001 ∧ (look 0#64 (paged 0x7001F).asroot 2).getLsbD 0 = false) ∧
    (let s := paged 0x7001F
     let entry (a : Nat) : Word := s.wordAt (Config.physAt a)
     (∀ a ∈ [0x10000, 0x20000, 0x30000], s.answers a = true ∧ s.readable a = true ∧ (entry a).getLsbD 0 = true ∧ (entry a).getLsbD 1 = false ∧
       (entry a).toNat / 4 % 64 = 0 ∧ (entry a).toNat / 2 ^ 52 = 0 ∧ (entry a).toNat / 2 ^ 8 * 2 ^ 8 = a + 0x10000) ∧
     s.answers 0x40000 = true ∧ s.readable 0x40000 = true ∧ (entry 0x40000).getLsbD 0 = true ∧ (entry 0x40000).getLsbD 1 = true ∧
     (entry 0x40000).toNat / 2 ^ 8 % 2 ^ 44 * 2 ^ 8 = 0x70000 ∧ s.populated 0x70000 = true ∧ (entry 0x40000).getLsbD 2 = true ∧ s.tlb = [] ∧ s.walks = []) ∧
    ((paged 0x70007).wordAt (Config.physAt 0x40000)).getLsbD 3 = false ∧
    ((paged 0).wordAt (Config.physAt 0x40000)).getLsbD 0 = false ∧
    ((paged 0x70003).wordAt (Config.physAt 0x40000)).toNat / 2 ^ 5 % 2 ^ 3 = 0 ∧
    unanswered.answers 0x100000010000 = false ∧
    (let s : State := { paged 0x7001F with absent := [0x10000 / 128] }
     s.answers 0x10000 = true ∧ s.readable 0x10000 = false) := by decide +kernel
/-- R319: the fourth table's leaf is the page of the address, at its frame. -/
theorem test_walk : walked ((paged 0x7001F).translateAt .load 1 0x1234 true) (fun e => e.level == 3 && e.frame == 0x70000 && leafPa e 0x1234 == 0x71234) = true := by
  decide +kernel

/-! ## What has left its station, and what is gone -/

theorem meets_CacheLineEvents_gone :
    (let l : L1Line := { lineAt with exclusive := false, fill0 := true, fill1 := true, waiters := [farPart .load 16 0] }
     let x := (s67.modStation 0 (fun x => { x with leaving := [l] })).station 0
     let p : AccPart := { farPart .load 16 0 with line := 3 }
     l1Of x p = none ∧ l1Gone x p = some l ∧ asks p = false ∧ l.asking = false ∧ (∀ w ∈ l.waiters, w.kind = .load) ∧ l.exclusive = false) ∧
    (let p : AccPart := { farPart (.prefetch true) 16 0 with line := 3 }
     l1Any (s67.station p.acc.who.st) p = none ∧ p.kind = .prefetch true) ∧
    (∃ o w, (farPart (.amo .add true) 16 0).kind = .amo o w) := ⟨by decide +kernel, by decide +kernel, _, _, rfl⟩
/-- R297: a Shared line that has left the L1 serves the load that waits for its data, and leaves again. -/
theorem test_gone_serves :
    (let l : L1Line := { lineAt with exclusive := false, present0 := false, fill0 := true, waiters := [farPart .load 16 0] }
     let s := (s67.modHolder s67.cur (fun h => { h with unsettled := [loadOf (.scalar 9 8 false) (farPart .load 16 0).acc.op 1] })).modStation 0 (fun x => { x with leaving := [l] })
     seen (exec (.l1FillArrives { farPart .load 16 0 with line := 3, addr := 0x8010000000000000, data := List.replicate 64 5 }) s) (fun t =>
       (t.station 0).leaving == [] && (t.station 0).l1 == [] &&
       t.me.unsettled.map (fun u => (u.left, u.buf)) == [(0, [(0, List.replicate 8 5)])])) = true := by decide +kernel

theorem meets_RingAndStreamEvents_sent :
    (let s := ringed 0 2 0 id
     let r := ringOp []
     r.sent = false ∧ s.storesDone (some (workOfTask r.who r.task, r.op)) = true ∧ s.copyTurn (workOfTask r.who r.task) r.op = true) ∧
    (let s := copyAt (copying 0 .plain)
     let r : RingOp := { ringOp [] with op := 1 }
     s.copyTurn (workOfTask r.who r.task) r.op = false) ∧
    (({ ringOp [1] with sent := true } : RingOp).sent = true ∧ (15 : Nat) < 16 ∧ ({ ringOp [1] with data := [1] } : RingOp).data = [1]) ∧
    (let s := (ported filling []).modStation 0 (fun x => { x with copies := [copying 0 .plain] })
     s.copiesBefore (s.worksFor s.cur) 1 = true ∧ s.copiesBefore (s.worksFor s.cur) 0 = false) ∧
    (let s := ((ported (newBinding 1 false (.stream bankA 64 1 0 0 65536 16)) []).modCluster 0 (fun c => { c with closing := [(0, 2)] }))
     s.streamBehind s.cur (streamPieces bankA 64 0 8 0) = true ∧ s67.streamBehind s.cur (streamPieces bankA 64 0 8 0) = false) := by decide +kernel
theorem meets_CrossingCommands_room :
    (let s := crossing id [(8, 5), (9, 0xD000)]
     (0xD000 : Word).toNat % 8 = 0 ∧ s.mayName s.cur 0xD000 8 = true ∧ s.holdRoom s.cur [0xD000] = true ∧ s.popRoom 0 5 = true) ∧
    (heldBack 64).holdRoom vecs.cur [0x10010C000] = false ∧
    (let s := (heldBack 64).modStation 0 (fun x => { x with xing := { x.xing with
      deps := [{ svar := 5, drank := 1, dvar := 7, coef := one64, seq := 0 }] } })
     s.popRoom 0 5 = false) := by decide +kernel
/-- Station 0 with a return of a sender that is gone, by rank 7, which was re-pointed at cycle 9 or never. -/
def orphaned (l : List (Nat × Nat)) : State :=
  { (s67.modStation 0 (fun x => { x with mail := [{ (default : MailRec) with idx := 17, ret := true, sender := 99 }], returns := 1 })) with repointed := l }
theorem meets_MessageEvents_orphans :
    (let s := orphaned []
     (s.station 0).mail.find? (fun r => r.idx == 17 && r.ret) = some { (default : MailRec) with idx := 17, ret := true, sender := 99 } ∧
     (∀ c ∈ taskCores, (s.holder { st := 0, core := c }).taskid ≠ 99) ∧
     find? s.repointed (hdrDest (s.recordMsg 0 { (default : MailRec) with idx := 17, ret := true, sender := 99 }).header) = none) ∧
    find? (orphaned [(0, 9)]).repointed 0 = some 9 ∧
    (let m := msg (fun m => { m with left := false, source := .task { st := 0, core := .loader } 0 })
     m.left = false ∧ s67.storesDone (some (workOfTask { st := 0, core := .loader } m.sender, 0)) = true) := by decide +kernel
theorem test_orphan_dropped : seen (exec (.returnServe 0 17) (orphaned [])) (fun t => (t.station 0).mail == [] && (t.station 0).returns == 0 &&
    ((t.bank (clusterBank 0)).map (·.kind)).take 1 == [0x10]) = true := by decide +kernel

theorem meets_RegisterEvents_l1 : (2 : Word).getLsbD 0 = false ∧ (s67.modStation 0 (fun x => { x with halted := true })).saveReady s67.cur = true := by
  decide +kernel
theorem meets_BringUpAndResetEvents_image :
    ((image true).size ≤ 2 ^ 24 ∧ 2 ^ 24 < ({ image true with size := 2 ^ 24 + 1 } : BootImage).size ∧
     (∃ i, i ≤ 10 ∧ (image true).hbper = 2 ^ (10 + i)) ∧ ¬ ∃ i, i ≤ 10 ∧ ({ image true with hbper := 0 } : BootImage).hbper = 2 ^ (10 + i)) :=
  ⟨by decide, by decide, ⟨2, by decide, by decide⟩, fun ⟨i, _, e⟩ =>
      absurd e (Nat.ne_of_lt (Nat.two_pow_pos (10 + i)))⟩
/-- Every temperature of a die is on one side of each limit. -/
theorem meets_BringUpAndResetEvents_heat (die t : Nat) :
    (920 ≤ Config.dieTemp die t ∨ Config.dieTemp die t < 920) ∧ (Config.dieTemp die t < 840 ∨ 840 ≤ Config.dieTemp die t) :=
  ⟨(Nat.lt_or_ge _ _).symm, Nat.lt_or_ge _ _⟩
theorem meets_GraphEvents_issuers :
    (let i : Issuer := { who := s67.cur, op := 1 }
     let s := s67.modHolder s67.cur (fun h => { h with stores := [{ (default : OutStore) with op := 0 }] })
     i.sent = false ∧ s.storesDone (some (i.who, i.op)) = false ∧ s67.storesDone (some (i.who, i.op)) = true) ∧
    (∀ k, (some { who := s67.cur, op := 1, sent := true } : Option Issuer) = some k → k.sent = true) ∧
    (∀ k, (none : Option Issuer) = some k → k.sent = true) := ⟨by decide +kernel, fun _ h => by cases h; rfl, fun _ h => by cases h⟩
theorem meets_GraphEvents_members :
    ∀ q ∈ preempting.victimGang 0 5, ∀ m ∈ q.members, ∀ w, memberHolder m = some w → (preempting.holder w).state = .reserved := by decide +kernel
theorem meets_SyncEvents_late :
    (let o := phOp .sig
     let s := (phased []).modStation 0 (fun x => { x with phLast := (0, 9), dqLast := (0, 9) })
     (s.station o.home).phLast.1 = s.clock (dieOf o.home) ∧ 8 * o.who.st + (coreIx (workOfTask o.who o.task).core).val < (s.station o.home).phLast.2 ∧
     (s.station 0).dqLast.1 = s.clock (dieOf 0) ∧ (stealOf none).thief + 1 < (s.station 0).dqLast.2 ∧
     (stealOf none).victim ≠ (stealOf none).thief) := by decide +kernel
theorem meets_ResetValues : (0 : Nat) < 8 ∧ (95 : Nat) < 96 ∧ (15 : Nat) < 16 ∧ (8191 : Nat) < 8192 := by decide
/-- R20: after slot 3 issues the order begins at slot 0 again, after slot 0 at slot 1; the urgent bank leaves it. -/
theorem test_round_robin :
    ((s67.afterIssue { st := 0, core := .slot0 }).station 0).order = 1 ∧ ((s67.afterIssue { st := 0, core := .slot3 }).station 0).order = 0 ∧
    ((s67.afterIssue { st := 0, core := .urgent }).station 0).order = 0 ∧ Station.reset.order = 0 := by decide +kernel

end Sys2Proof.Tests
end

section
/-! PROOFS. What updates of the state leave of its stations, holders and clusters: what Sys2Proof/Laws/State.lean does not say yet. -/
namespace Sys2Proof.Machine

/-- A change of a station that leaves its cores leaves every holder. -/
theorem holder_modStation (s : State) (st : Nat) (f : Station → Station) (w : Who)
    (hf : (f (s.station st)).cores = (s.station st).cores) : (s.modStation st f).holder w = s.holder w := by
  by_cases e : w.st = st
  · subst e; simp [State.holder, hf]
  · simp [State.holder, station_modStation_other _ _ _ _ e]

/-- A change of a holder leaves every other station. -/
theorem station_modHolder_other (s : State) (w : Who) (f : Holder → Holder) (n : Nat) (hn : n ≠ w.st) :
    (s.modHolder w f).station n = s.station n := station_modStation_other _ _ _ _ hn

/-- A change of a holder leaves of its own station everything but the cores. -/
theorem station_modHolder_same (s : State) (w : Who) (f : Holder → Holder) :
    (s.modHolder w f).station w.st = (s.station w.st).setCore w.core (f (s.holder w)) := station_modStation_same ..

theorem cluster_modCluster_other (s : State) (c d : Nat) (f : Cluster → Cluster) (h : d ≠ c) :
    (s.modCluster c f).cluster d = s.cluster d := by
  simp [State.cluster, State.modCluster, look_put_other _ _ _ _ _ h]

@[simp] theorem station_laterAt (s : State) (t : Nat) (e : Instr) (n : Nat) : (s.laterAt t e).station n = s.station n := rfl
@[simp] theorem station_again (s : State) (t : Nat) (e : Instr) (n : Nat) : (s.again t e).station n = s.station n := rfl
@[simp] theorem station_clearAt (s : State) (a k n : Nat) : (s.clearAt a k).station n = s.station n := rfl
@[simp] theorem station_writeAt (s : State) (a : Nat) (bs : List Byte) (n : Nat) : (s.writeAt a bs).station n = s.station n := rfl
@[simp] theorem station_modCluster (s : State) (c : Nat) (f : Cluster → Cluster) (n : Nat) :
    (s.modCluster c f).station n = s.station n := rfl
@[simp] theorem holder_laterAt (s : State) (t : Nat) (e : Instr) (w : Who) : (s.laterAt t e).holder w = s.holder w := rfl
@[simp] theorem holder_clearAt (s : State) (a k : Nat) (w : Who) : (s.clearAt a k).holder w = s.holder w := rfl
@[simp] theorem holder_writeAt (s : State) (a : Nat) (bs : List Byte) (w : Who) : (s.writeAt a bs).holder w = s.holder w := rfl
@[simp] theorem cluster_clearAt (s : State) (a k c : Nat) : (s.clearAt a k).cluster c = s.cluster c := rfl
@[simp] theorem bank_modStation (s : State) (st : Nat) (f : Station → Station) (k : Nat) : (s.modStation st f).bank k = s.bank k := rfl
@[simp] theorem bank_clearAt (s : State) (a n k : Nat) : (s.clearAt a n).bank k = s.bank k := rfl

end Sys2Proof.Machine
end

section
/-! PROOFS. The state at power-on (R35): m0 reads all ones there as it does everywhere (R58). -/
namespace Sys2Proof.Machine

/-- Refutes O4: the statement asks of every holder that each mask register reads 0 at power-on, and m0 is never 0. It reads all ones
(R58: `rdm_zero`), in slot 0 of station 0 as in every other holder. -/
theorem not_resetValues : ¬ Obligations.ResetValues := by
  intro h
  obtain ⟨-, -, -, -, -, -, -, -, -, holders, -, -⟩ := h
  obtain ⟨-, -, -, -, -, -, -, -, -, -, -, -, -, -, -, -, -, -, masks⟩ := holders { st := 0, core := .slot0 }
  have m0 : (BitVec.allOnes 256 : MWord) = 0 := by rw [← masks 0, rdm_zero]
  exact absurd m0 (by decide)

end Sys2Proof.Machine
end

section
/-! PROOFS. Taking a trap (R39, R352, R353). -/
namespace Sys2Proof.Machine

/-! ## Trap entry -/

@[simp] theorem leaveMopen_holder (s : State) (who w : Who) : (s.leaveMopen who).holder w = s.holder w := by
  unfold State.leaveMopen
  split
  · exact holder_modStation _ _ _ _ rfl
  · rfl

@[simp] theorem leaveMopen_mem (s : State) (who : Who) : (s.leaveMopen who).mem = s.mem := by
  unfold State.leaveMopen
  split <;> rfl

/-- A trap of a core that runs no handler and has a vector enters the handler (R352). -/
theorem takeTrap_enters (s : State) (w : Who) (pc : Word) (x : TrapInfo) (n : Nat) (hl : w.core ≠ .loader) (hs : w.core ≠ .storer)
    (hinh : (s.holder w).inh = false) (hvec : (s.holder w).tvec ≠ 0) :
    s.takeTrap w pc x n = (s.setHolder w ((s.holder w).enterTrap pc x n)).leaveMopen w := by
  unfold State.takeTrap
  cases hc : w.core <;> simp_all

/-- A trap in a handler leaves the record of a double trap and kills the task (R353). -/
theorem takeTrap_double (s : State) (w : Who) (pc : Word) (x : TrapInfo) (n : Nat) (hl : w.core ≠ .loader) (hs : w.core ≠ .storer)
    (hinh : (s.holder w).inh = true) : s.takeTrap w pc x n =
      (s.record (homeBank w.st) deferred 0x02 x.cause pc ((s.holder w).cause &&& 0xFF) (s.holder w).taskid).kill w false := by
  unfold State.takeTrap
  cases hc : w.core <;> simp_all

/-- A trap without a vector leaves its record and kills the task (R353). -/
theorem takeTrap_noVector (s : State) (w : Who) (pc : Word) (x : TrapInfo) (n : Nat) (hl : w.core ≠ .loader) (hs : w.core ≠ .storer)
    (hinh : (s.holder w).inh = false) (hvec : (s.holder w).tvec = 0) : s.takeTrap w pc x n =
      (s.record (homeBank w.st) deferred 0x01 x.cause pc x.tval (s.holder w).taskid).kill w false := by
  unfold State.takeTrap
  cases hc : w.core <;> simp_all

/-- The trap of a loader or a storer stops it and is passed to the slot it serves (R39). -/
theorem takeTrap_passed (s : State) (w : Who) (pc : Word) (x : TrapInfo) (n : Nat) (hw : w.core = .loader ∨ w.core = .storer) :
    s.takeTrap w pc x n = (s.restCore w).modHolder { w with core := slotOf (s.holder w).serves } (fun h =>
      { h with asyncTrap := h.asyncTrap ++ [({ x with tval := pc, held := false }, if w.core = .loader then 1 else 2)] }) := by
  unfold State.takeTrap
  rcases hw with hw | hw <;> simp [hw]

/-- Settles O28: the four cases of TAKING A TRAP, and the fields that the entry into a handler writes. -/
theorem trapEntry : Obligations.TrapEntry := by
  refine ⟨fun s w pc x n hl hs => ⟨fun hinh hvec => ?_, takeTrap_double s w pc x n hl hs, takeTrap_noVector s w pc x n hl hs⟩,
    takeTrap_passed⟩
  have own : (s.takeTrap w pc x n).holder w = (s.holder w).enterTrap pc x n := by
    rw [takeTrap_enters s w pc x n hl hs hinh hvec, leaveMopen_holder, holder_setHolder_same]
  have memory : (s.takeTrap w pc x n).mem = s.mem := by
    rw [takeTrap_enters s w pc x n hl hs hinh hvec, leaveMopen_mem, setHolder_mem]
  have others : ∀ v, v ≠ w → (s.takeTrap w pc x n).holder v = s.holder v := fun v hv => by
    rw [takeTrap_enters s w pc x n hl hs hinh hvec, leaveMopen_holder, holder_setHolder_other _ _ _ _ hv]
  simp only [own]
  refine ⟨rfl, rfl, rfl, ?_, rfl, rfl, rfl, rfl, rfl, rfl, rfl, rfl, rfl, rfl, rfl, rfl, rfl, rfl, rfl, rfl, rfl, memory, others⟩
  cases hf : x.fva <;> simp [Holder.enterTrap, hf]

end Sys2Proof.Machine
end

section
/-! PROOFS. The address map of a station's cores (R302, R303), and the checks of an access at issue (R27, R87, R221, R226). -/
namespace Sys2Proof.Machine

/-- The address map of a core that is no innkeeper's, range by range. -/
theorem regionOf_stationCore (s : State) (w : Who) (a : Nat) (hw : w.core ≠ .keeper) : s.regionOf w a =
    if 0x800 * 2 ^ 52 ≤ a ∧ a < 0x801 * 2 ^ 52 then some .far
    else if a < 0x60000 then
      if (s.station w.st).app1 * 8192 ≤ a ∧ a < (s.station w.st).app2 * 8192 then some .tcm
      else if (s.station w.st).app3 * 8192 ≤ a then some .mailbox else none
    else if 0x1000000 ≤ a ∧ a < 0x1400000 then some (.spad (clusterOf w.st))
    else if 0x4000000 ≤ a ∧ a < 0x8000000 then some (.commons (dieOf w.st))
    else if 0x20000000 ≤ a ∧ a < 0x40000000 then some (.commons ((a - 0x20000000) / 0x4000000))
    else if 0x40000000 ≤ a ∧ a < 0xC0000000 then some (.spad ((a - 0x40000000) / 0x400000))
    else if 0x100000000 ≤ a ∧ a < 0x300000000 then
      if (a - 0x100000000) % 0x100000 < 0x60000 then some (.remote ((a - 0x100000000) / 0x100000)) else none
    else none := by
  have hk : (w.core == .keeper) = false := by simpa using hw
  simp only [State.regionOf, hk, Bool.and_eq_true, decide_eq_true_eq, Bool.false_eq_true, if_false]
  by_cases control : 0x10000000 ≤ a ∧ a < 0x11000000
  · simp (disch := omega) only [if_pos, if_neg]
  · by_cases slices : 0x18000000 ≤ a ∧ a < 0x18001000
    · simp (disch := omega) only [if_pos, if_neg]
    · rw [if_neg control, if_neg slices]

/-- Whether a region is a rank's pool (R304). -/
def Region.isRemote (r : Region) : Bool := match r with | .remote _ => true | _ => false

theorem isRemote_iff (r : Region) : r.isRemote = true ↔ ∃ k, r = .remote k := by cases r <;> simp [Region.isRemote]

theorem isRemote_false_iff (r : Region) : r.isRemote = false ↔ ∀ k, r ≠ .remote k := by cases r <;> simp [Region.isRemote]

/-- The regions with full/empty bits (R87). -/
theorem hasBits_iff (r : Region) : r.hasBits = true ↔ r = .tcm ∨ (∃ cl, r = .spad cl) ∨ ∃ k, r = .remote k := by
  cases r <;> simp [Region.hasBits]

/-- An access whose bytes do not lie in one region. -/
theorem accessFault_noRegion (s : State) (w : Who) (a : Word) (n : Nat) (q : Qual) (typed : Bool)
    (hr : s.regionOfAll w a.toNat n = none) : s.accessFault w a n q typed = some (trapOf 0x04 a) := by
  simp [State.accessFault, hr, accessTrap]

/-- An access whose bytes lie in one region. -/
theorem accessFault_region (s : State) (w : Who) (a : Word) (n : Nat) (q : Qual) (typed : Bool) (r : Region)
    (hr : s.regionOfAll w a.toNat n = some r) : s.accessFault w a n q typed =
      if (q ≠ .plain ∧ r.hasBits = false) ∨ (typed = false ∧ s.typedAt (s.placeOf w a.toNat) n = true) ∨
          (r.isRemote = false ∧ s.hidden (s.placeOf w a.toNat) n = true)
      then some (trapOf 0x04 a) else none := by
  simp only [State.accessFault, hr, accessTrap, Bool.and_eq_true, bne_iff_ne, Bool.not_eq_true']
  by_cases qualified : q ≠ .plain ∧ r.hasBits = false
  · rw [if_pos qualified, if_pos (.inl qualified)]
  · by_cases bank : typed = false ∧ s.typedAt (s.placeOf w a.toNat) n = true
    · rw [if_neg qualified, if_pos bank, if_pos (.inr (.inl bank))]
    · rw [if_neg qualified, if_neg bank]
      simp only [qualified, bank, false_or]
      cases r <;> rfl

/-- Settles O14: the address map range by range, and the three reasons for which an access within one region may trap. -/
theorem addressMapAndAccessTraps : Obligations.AddressMapAndAccessTraps := by
  refine ⟨fun s w a hw => ?_, fun s w a n q typed => ⟨accessFault_noRegion s w a n q typed, fun r hr => ?_⟩⟩
  · simp only [regionOf_stationCore s w a hw]
    refine ⟨fun h => ?_, fun h k => ?_, fun h k => ?_, fun h k => ?_, fun h k => ?_, fun h k => ?_, fun h k => ?_, fun h k => ?_,
      fun h k => ?_, fun h k => ?_, fun h k => ?_, fun h k => ?_, fun h => ?_⟩
    · rw [if_neg (by omega), if_pos h]
    · rw [if_neg (by omega), if_neg (by omega), if_neg (by omega), if_neg (by omega), if_neg (by omega), if_neg (by omega), if_neg (by omega)]
    · rw [if_neg (by omega), if_neg (by omega), if_pos ⟨h, k⟩]
    · rw [if_neg (by omega), if_neg (by omega), if_neg (by omega), if_neg (by omega), if_neg (by omega), if_neg (by omega), if_neg (by omega)]
    · rw [if_neg (by omega), if_neg (by omega), if_neg (by omega), if_pos ⟨h, k⟩]
    · rw [if_neg (by omega), if_neg (by omega), if_neg (by omega), if_neg (by omega), if_neg (by omega), if_neg (by omega), if_neg (by omega)]
    · rw [if_neg (by omega), if_neg (by omega), if_neg (by omega), if_neg (by omega), if_pos ⟨h, k⟩]
    · rw [if_neg (by omega), if_neg (by omega), if_neg (by omega), if_neg (by omega), if_neg (by omega), if_pos ⟨h, k⟩]
    · rw [if_neg (by omega), if_neg (by omega), if_neg (by omega), if_neg (by omega), if_neg (by omega), if_neg (by omega), if_neg (by omega)]
    · rw [if_neg (by omega), if_neg (by omega), if_neg (by omega), if_neg (by omega), if_neg (by omega), if_neg (by omega), if_pos ⟨h, k⟩]
    · rw [if_neg (by omega), if_neg (by omega), if_neg (by omega), if_neg (by omega), if_neg (by omega), if_neg (by omega), if_neg (by omega)]
    · rw [if_pos ⟨h, k⟩]
    · rw [if_neg (by omega), if_neg (by omega), if_neg (by omega), if_neg (by omega), if_neg (by omega), if_neg (by omega), if_neg (by omega)]
  · simp only [accessFault_region s w a n q typed r hr, ← isRemote_false_iff, ← isRemote_iff]
    refine ⟨?_, ?_, ?_, ?_⟩
    · intro hq htcm hspad hremote
      refine if_pos (.inl ⟨hq, ?_⟩)
      rw [← Bool.not_eq_true, hasBits_iff]
      rintro (h | ⟨cl, h⟩ | ⟨k, h⟩)
      · exact htcm h
      · exact hspad cl h
      · exact (isRemote_false_iff r).1 hremote k h
    · exact fun ht hb => if_pos (.inr (.inl ⟨ht, hb⟩))
    · exact fun hl hh => if_pos (.inr (.inr ⟨hl, hh⟩))
    · intro bits bank half
      rw [isRemote_iff, ← hasBits_iff] at bits
      refine if_neg ?_
      rintro (⟨hq, hb⟩ | ⟨ht, hb⟩ | ⟨hl, hh⟩) <;> simp_all

end Sys2Proof.Machine
end

section
/-! PROOFS. The frames of instructions (R21, R48, R90). The state below shows where the frame of memory ends: a task that is killed
writes its park area (R252), and a push through an output stream sends whatever the holder's stores have queued (R238). -/
namespace Sys2Proof.Machine

/-- A fetch of slot 0 of station 0 towards rank 1, as no instruction of the machine queues one behind a store. -/
def strayFetch : AccPart :=
  { acc := { op := 0, who := { st := 0, core := .slot0 }, task := 0, pc := 0xC000, cls := 0, tenant := 0, asn := 0, ep := 0,
             ceil := 65536, tries := 16, eng := 0 },
    kind := .fetch, addr := 0x100100000, place := .pool 1 0, size := 4, off := 0, qual := .plain, data := [], attempt := 0, pa := none }

/-- Slot 0 of station 0 with s28 bound to an output stream of one element, and the fetch queued behind a store. -/
def fetchingHolder : Holder :=
  { Holder.reset with
    state := .run, pc := 0xC000,
    ports := [{ port := 0, out := true, target := .stream 0xC000 8 1 0 0 65536 16, next := 0, pending := 0, held := [], ended := false,
                retry := none }],
    stores := [{ op := 0, task := 0, pc := 0xC000, addr := 0xC000, reduction := false, host := 0, qual := false, left := 1, parked := 0,
                 port := none, queued := [strayFetch] }] }

/-- That slot in a module whose rank 1 is SHUT, with slot 0's batch in the park area, which slot 1 has parked. -/
def fetching : State :=
  (({ State.reset with mem := [(parkAt 0 + 0x20000, 1)] } : State).modStation 0 (fun x =>
    { x with ranks := [(1, 0x4001)], parkedBy := some 1 })).setHolder { st := 0, core := .slot0 } fetchingHolder

/-- The write of s28 pushes an element; the fetch that goes out with it fails, its trap finds no vector, and the kill of the task
closes the parked batch. -/
theorem fetching_writes_memory : memGet fetching.mem (parkAt 0 + 0x20000) = 1 ∧
    memGet (fetching.wrote [] 28 0).mem (parkAt 0 + 0x20000) = 0 := by decide +kernel

/-- Refutes O10: the statement says of every state, with ports too, that the write of a scalar result leaves memory as it was. In
`fetching` it does not. -/
theorem not_frames : ¬ Obligations.Frames := by
  intro h
  obtain ⟨-, scalar, -, -, -⟩ := h.1 fetching [] 28 0 0 0 0
  obtain ⟨before, after⟩ := fetching_writes_memory
  rw [scalar, before] at after
  exact absurd after (by decide)

end Sys2Proof.Machine
end

section
/-! PROOFS. Empty registers and bound queues (R24, R25): the checks of one register, and one pop and one push of a station queue. -/
namespace Sys2Proof.Machine

/-! ## The checks of an issue in their order -/

theorem checkSrcs_append (s : State) (w : Who) (l m : List (RegName × Bool)) :
    s.checkSrcs w (l ++ m) = (s.checkSrcs w l).bind (fun _ => s.checkSrcs w m) := by
  induction l with
  | nil => rfl
  | cons e r ih =>
    obtain ⟨n, k⟩ := e
    simp only [List.cons_append, State.checkSrcs, ih]
    cases s.checkSrc w n k <;> rfl

theorem checkDsts_append (s : State) (w : Who) (l m : List RegName) :
    s.checkDsts w (l ++ m) = (s.checkDsts w l).bind (fun _ => s.checkDsts w m) := by
  induction l with
  | nil => rfl
  | cons n r ih =>
    simp only [List.cons_append, State.checkDsts, ih]
    cases s.checkDst w n <;> rfl

/-- An instruction that nothing holds back comes to its registers (R43). -/
theorem issue_registers (s : State) (c : IssueClass) (u : Uses) (body : State → Res (State × PcFlow)) (hw : whoExists s.cur = true)
    (hb : isBase s.cur.core = true → c.base = true) (hh : s.me.holds c = false) :
    s.issue c u body = s.finish (((s.checkSrcs s.cur u.srcs).bind (fun _ => s.checkDsts s.cur u.dsts)).bind (fun _ =>
      body (s.popAll s.cur u.srcs))) := by
  have profile : (isBase s.cur.core && !c.base || false) = false := by
    cases hc : isBase s.cur.core
    · rfl
    · simp [hb hc]
  simp only [State.issue, State.issueIf, hw, hh, holds_less _ _ hh, profile, Bool.not_true, Bool.false_eq_true, if_false]

/-- The first source that does not go on decides (R24, log entry 11). -/
theorem issue_source (s : State) (c : IssueClass) (u : Uses) (body : State → Res (State × PcFlow)) (n : RegName) (k : Bool)
    (before after : List (RegName × Bool)) (hw : whoExists s.cur = true) (hb : isBase s.cur.core = true → c.base = true)
    (hh : s.me.holds c = false) (hu : u.srcs = before ++ (n, k) :: after) (hs : s.checkSrcs s.cur before = .go ()) :
    (s.checkSrc s.cur n k = .wait → s.issue c u body = .next s.wait) ∧
    (∀ t, s.checkSrc s.cur n k = .trap t → s.issue c u body = .next (s.trapNow t)) := by
  rw [issue_registers s c u body hw hb hh, hu, checkSrcs_append, hs]
  refine ⟨fun h => ?_, fun t h => ?_⟩ <;> simp [State.checkSrcs, h]

/-- A destination that waits makes its instruction wait, once the sources and the destinations before it go on. -/
theorem issue_destination (s : State) (c : IssueClass) (u : Uses) (body : State → Res (State × PcFlow)) (n : RegName)
    (first last : List RegName) (hw : whoExists s.cur = true) (hb : isBase s.cur.core = true → c.base = true)
    (hh : s.me.holds c = false) (hu : u.dsts = first ++ n :: last) (hs : s.checkSrcs s.cur u.srcs = .go ())
    (hd : s.checkDsts s.cur first = .go ()) :
    (s.checkDst s.cur n = .wait → s.issue c u body = .next s.wait) ∧
    (∀ t, s.checkDst s.cur n = .trap t → s.issue c u body = .next (s.trapNow t)) := by
  rw [issue_registers s c u body hw hb hh, hs, hu, bind_go, checkDsts_append, hd]
  refine ⟨fun h => ?_, fun t h => ?_⟩ <;> simp [State.checkDsts, h]

/-! ## Registers that are not bound (R24) -/

section
variable (s : State) (n : RegName) (hn : s.me.binding n = none)
include hn

theorem checkSrc_pending (k : Bool) (o : Nat) (ha : s.me.avail n = .pending o) :
    s.checkSrc s.cur n k = if k then .trap (emptyOf n) else .wait := by
  rw [State.me] at hn ha
  simp only [State.checkSrc, hn, ha]

theorem checkSrc_empty (k : Bool) (ha : s.me.avail n = .empty) : s.checkSrc s.cur n k = .trap (emptyOf n) := by
  rw [State.me] at hn ha
  simp only [State.checkSrc, hn, ha]

theorem checkDst_pending (o : Nat) (ha : s.me.avail n = .pending o) : s.checkDst s.cur n = .wait := by
  rw [State.me] at hn ha
  simp only [State.checkDst, hn, ha]

theorem checkDst_idle (ha : ∀ o, s.me.avail n ≠ .pending o) : s.checkDst s.cur n = .go () := by
  rw [State.me] at hn ha
  cases h : (s.holder s.cur).avail n with
  | pending o => exact absurd h (ha o)
  | full | empty => simp only [State.checkDst, hn, h]

end

theorem writeS_unbound (s : State) (r : Reg) (x : Word) (hr : s.me.binding (.s r) = none) :
    s.writeS s.cur r x = s.modHolder s.cur (fun h => h.setS r x) := by
  rw [State.me] at hr
  simp only [State.writeS, hr]

theorem writeV_unbound (s : State) (r : Reg) (x : VWord) (hr : s.me.binding (.v r) = none) :
    s.writeV s.cur r x = s.modHolder s.cur (fun h => h.setV r x) := by
  rw [State.me] at hr
  simp only [State.writeV, hr]

/-- A scalar register that is not bound holds what has been written, and is full. -/
theorem writeS_fills (s : State) (r : Reg) (x : Word) (hr : s.me.binding (.s r) = none) :
    (s.writeS s.cur r x).me.avail (.s r) = .full ∧ (r ≠ 0 → (s.writeS s.cur r x).me.rd r = x) := by
  have own : (s.writeS s.cur r x).me = s.me.setS r x := by
    rw [writeS_unbound s r x hr]
    simp [State.me]
  rw [own]
  exact ⟨avail_setS_same .., rd_setS_same _ _ _⟩

/-- The same for a vector register. -/
theorem writeV_fills (s : State) (r : Reg) (y : VWord) (hr : s.me.binding (.v r) = none) :
    (s.writeV s.cur r y).me.avail (.v r) = .full ∧ (s.writeV s.cur r y).me.rdv r = y := by
  have own : (s.writeV s.cur r y).me = s.me.setV r y := by
    rw [writeV_unbound s r y hr]
    simp [State.me]
  rw [own]
  exact ⟨avail_setV_same .., rdv_setV_same ..⟩

/-! ## Registers bound to a station queue (R25) -/

/-- A binding is the one that the holder's ports list for its register. -/
theorem find_of_binding (h : Holder) (n : RegName) (b : PortBinding) (hb : h.binding n = some b) :
    h.ports.find? (fun c => c.port == b.port) = some b := by
  unfold Holder.binding at hb
  split at hb
  · have hp := List.find?_some hb
    rw [beq_iff_eq] at hp
    rwa [hp]
  · exact absurd hb (by simp)

theorem setPortReg_ports (h : Holder) (p : Nat) (x : VWord) : (h.setPortReg p x).ports = h.ports := by
  unfold Holder.setPortReg
  split
  · unfold Holder.setS
    split <;> rfl
  · rfl

/-- A changed binding is found where the one it replaces was. -/
theorem find_setBinding (h : Holder) (b c : PortBinding) (hc : h.ports.find? (fun k => k.port == b.port) = some c) :
    (h.setBinding b).ports.find? (fun k => k.port == b.port) = some b := by
  have hp := List.find?_some hc
  simp only [Holder.setBinding, List.find?_map]
  have same : ((fun k => k.port == b.port) ∘ fun k : PortBinding => if k.port == b.port then b else k) = fun k => k.port == b.port := by
    funext k
    by_cases hk : k.port = b.port <;> simp [hk]
  rw [same, hc]
  simp only [Option.map_some, hp, if_true]

/-- The queues of a station stay when one of its holders changes. -/
theorem station_modHolder_queues (s : State) (w : Who) (f : Holder → Holder) :
    ((s.modHolder w f).station w.st).queues = (s.station w.st).queues := by
  rw [station_modHolder_same]
  rfl

/-- A final push to a station queue appends its element. -/
theorem pushFinal_queue (s : State) (w : Who) (e : PortPush) (b : PortBinding) (q : Nat)
    (hb : (s.holder w).ports.find? (fun c => c.port == e.port) = some b) (ht : b.target = .queue q) :
    s.pushFinal w e =
      s.modStation w.st (fun y => { y with queues := put q (look [] y.queues q ++ [e.val.setWidth 64]) y.queues }) := by
  simp only [State.pushFinal, hb, ht]

/-- A push to a station queue: the register shows the element, and the push is final where no older load is unsettled. -/
theorem pushPort_queue (s : State) (w : Who) (b : PortBinding) (x : VWord) (pc : Word) (op q : Nat) (ht : b.target = .queue q) :
    s.pushPort w b x pc op =
      let e : PortPush := { port := b.port, idx := b.next, pc := pc, val := x }
      let t := s.modHolder w (fun h => (h.setPortReg b.port x).setBinding { b with next := b.next + 1 })
      match ((s.holder w).unsettled.filter (fun u => decide (u.op < op))).getLast? with
      | none => t.pushFinal w e
      | some u => t.modHolder w (fun h => { h with unsettled := h.unsettled.map (fun k =>
          if k.op == u.op then { k with pushes := k.pushes ++ [e] } else k) }) := by
  obtain ⟨port, out, target, next, pending, held, ended, retry⟩ := b
  obtain rfl : target = .queue q := ht
  rfl

section
variable (s : State) (r : Reg) (b : PortBinding) (q : Nat) (hb : s.me.binding (.s r) = some b) (ht : b.target = .queue q)

include ht in
/-- The head of a queue is the element that a read of its register takes. -/
theorem portHead_queue : s.portHead s.cur b =
    (look [] (s.station s.cur.st).queues q).head?.map (fun x => { idx := 0, val := x.setWidth 2048, trap := none }) := by
  simp only [State.portHead, ht]
  cases look [] (s.station s.cur.st).queues q <;> rfl

include hb ht in
/-- Reading a register that is bound to a queue. -/
theorem checkSrc_queue (k : Bool) (hin : b.out = false) (hend : b.ended = false) : s.checkSrc s.cur (.s r) k =
    if look [] (s.station s.cur.st).queues q = [] then (if k then .trap (emptyOf (.s r)) else .wait) else .go () := by
  rw [State.me] at hb
  simp only [State.checkSrc, hb, hin, hend, portHead_queue s b q ht]
  cases look [] (s.station s.cur.st).queues q <;> rfl

include hb in
/-- Reading an output port traps QUEUE. -/
theorem checkSrc_out (k : Bool) (hout : b.out = true) : s.checkSrc s.cur (.s r) k = .trap (queueTrap b.port) := by
  rw [State.me] at hb
  simp only [State.checkSrc, hb, hout, if_true]

include hb in
/-- Writing an input port traps QUEUE. -/
theorem checkDst_in (hin : b.out = false) : s.checkDst s.cur (.s r) = .trap (queueTrap b.port) := by
  rw [State.me] at hb
  simp only [State.checkDst, hb, hin, Bool.not_false, if_true]

include hb ht in
/-- Writing an output port of a queue: behind a load to the same register, and while the queue is full, the write waits. -/
theorem checkDst_queue (hout : b.out = true) : s.checkDst s.cur (.s r) =
    if (∃ u ∈ s.me.unsettled, .s r ∈ destsOf u.kind) ∨
        32 ≤ (look [] (s.station s.cur.st).queues q).length + (s.station s.cur.st).promised q
    then .wait else .go () := by
  have behind : s.me.unsettled.any (fun u => (destsOf u.kind).contains (.s r)) = true ↔
      ∃ u ∈ s.me.unsettled, .s r ∈ destsOf u.kind := by simp
  rw [State.me] at hb behind
  simp only [State.checkDst, hb, hout, Bool.not_true, Bool.false_eq_true, if_false, State.roomFor, ht, behind, await,
    decide_eq_true_eq]
  rw [State.me]
  by_cases load : ∃ u ∈ (s.holder s.cur).unsettled, .s r ∈ destsOf u.kind
  · rw [if_pos load, if_pos (.inl load)]
  · rw [if_neg load]
    by_cases full : 32 ≤ (look [] (s.station s.cur.st).queues q).length + (s.station s.cur.st).promised q
    · rw [if_neg (by omega), if_pos (.inr full)]
    · rw [if_pos (by omega), if_neg (by simp only [load, full, or_self, not_false_eq_true])]

include ht in
/-- The value that a read of a bound register takes. -/
theorem valS_queue (hb : s.me.binding (.s r) = some b) (x : Word) (rest : List Word)
    (hq : look [] (s.station s.cur.st).queues q = x :: rest) : s.valS s.cur r = x := by
  rw [State.me] at hb
  simp [State.valS, hb, portHead_queue s b q ht, hq]

include hb in
/-- Two fields that name one bound register pop it once. -/
theorem popAll_twice (k : Bool) : s.popAll s.cur [(.s r, k), (.s r, k)] = s.popPort s.cur b := by
  have found := find_of_binding _ _ _ hb
  rw [State.me] at hb found
  simp [State.popAll, hb, found]

include hb ht in
/-- A pop takes the head of the queue. -/
theorem popPort_queue (x : Word) (rest : List Word) (hq : look [] (s.station s.cur.st).queues q = x :: rest) :
    look [] ((s.popPort s.cur b).station s.cur.st).queues q = rest := by
  have found := find_of_binding _ _ _ hb
  rw [State.me] at found
  have final : ∀ t : State, (t.holder s.cur).ports = (s.holder s.cur).ports → t.popFinal s.cur b.port = t := fun t hp => by
    simp only [State.popFinal, hp, found, ht]
  simp only [State.popPort, portHead_queue s b q ht, hq, List.head?_cons, Option.map_some, ht]
  split
  · rw [final _ (by rw [holder_modStation _ _ _ _ rfl]; simp [setPortReg_ports])]
    simp [look_put_same, station_modHolder_queues, hq]
  · simp [look_put_same, station_modHolder_queues, hq]

include hb ht in
/-- A push appends at the tail where no older load is unsettled; else it is promised (R90). -/
theorem writeS_queue (x : Word) : look [] ((s.writeS s.cur r x).station s.cur.st).queues q =
    if ∀ u ∈ s.me.unsettled, s.ops ≤ u.op then look [] (s.station s.cur.st).queues q ++ [x]
    else look [] (s.station s.cur.st).queues q := by
  have found := find_of_binding _ _ _ hb
  rw [State.me] at hb found ⊢
  have older : (((s.holder s.cur).unsettled.filter (fun u => decide (u.op < s.ops))).getLast? = none) ↔
      ∀ u ∈ (s.holder s.cur).unsettled, s.ops ≤ u.op := by simp
  simp only [State.writeS, hb]
  rw [pushPort_queue _ _ _ _ _ _ _ ht]
  by_cases all : ∀ u ∈ (s.holder s.cur).unsettled, s.ops ≤ u.op
  · rw [older.2 all, if_pos all]
    dsimp only
    rw [pushFinal_queue _ _ _ { b with next := b.next + 1 } q ?_ ht]
    · simp [look_put_same, station_modHolder_queues]
    · rw [holder_modHolder_same]
      exact find_setBinding _ { b with next := b.next + 1 } b (by rw [setPortReg_ports]; exact found)
  · rw [if_neg all]
    split
    · rename_i none
      exact absurd (older.1 none) all
    · simp only [station_modHolder_queues]

end

/-! ## The two sides of the register rules -/

/-- Settles O8: R24 from the checks of one register in the order of the word, R25 from one pop and one push of a station queue. -/
theorem emptyRegistersAndBoundQueues : Obligations.EmptyRegistersAndBoundQueues := by
  refine ⟨fun s c u body n k before after first last o x y hw hb hh hn => ⟨fun hu hs => ?_, fun hu hs hd => ?_, fun he => ?_⟩,
    fun s d r k w b q x rest hb ht hw hh hd hfull => ?_⟩
  · obtain ⟨waits, traps⟩ := issue_source s c u body n k before after hw hb hh hu hs
    refine ⟨fun ha hk => waits ?_, fun ha hk => traps _ ?_, fun ha => traps _ (checkSrc_empty s n hn k ha)⟩
    · rw [checkSrc_pending s n hn k o ha, hk, if_neg (by decide)]
    · rw [checkSrc_pending s n hn k o ha, hk, if_pos rfl]
  · obtain ⟨waits, -⟩ := issue_destination s c u body n first last hw hb hh hu hs hd
    exact fun ha => waits (checkDst_pending s n hn o ha)
  · refine ⟨checkDst_idle s n hn (by simp [he]), ?_, ?_⟩
    · rintro r rfl
      exact writeS_fills s r x hn
    · rintro r rfl
      exact writeV_fills s r y hn
  · have source := issue_source s .plain ⟨[(.s r, k), (.s r, k)], [.s d]⟩
      (fun t => .go (t.writeS s.cur d (alu addOp w (s.valS s.cur r) (s.valS s.cur r)), .next)) (.s r) k [] [(.s r, k)] hw
      (fun _ => rfl) hh rfl rfl
    have target := issue_destination s .plain ⟨[], [.s r]⟩ (fun t => .go (t.writeS s.cur r ((0 : BitVec 21).signExtend 64 <<< 15), .next))
      (.s r) [] [] hw (fun _ => rfl) hh rfl rfl rfl
    refine ⟨fun hin hend hq => ⟨?_, ?_⟩, fun hin hend hq => ?_, fun hout => source.2 _ (checkSrc_out s r b hb k hout),
      fun hin => target.2 _ (checkDst_in s r b hb hin), fun hout hroom => ?_, fun hout hroom hload => ?_, fun hout hroom hload => ⟨?_, ?_⟩⟩
    · have full : s.checkSrc s.cur (.s r) k = .go () := by rw [checkSrc_queue s r b q hb ht k hin hend, hq, if_neg (by simp)]
      have ready : s.ready .plain ⟨[(.s r, k), (.s r, k)], [.s d]⟩ = true := by
        refine (ready_iff ..).2 ⟨hw, fun _ => rfl, hh, ?_, ?_⟩
        · simp [State.checkSrcs, full]
        · simp [State.checkDsts, checkDst_idle s _ hd (by simp [hfull])]
      have sum : exec (.add d r r k k w) s = .next (s.wrote [(.s r, k), (.s r, k)] d (alu addOp w x x)) := by
        rw [← valS_queue s r b q ht hb x rest hq]
        exact compS_ready s .plain _ d _ ready
      rw [sum]
      cases w <;> simp [alu, addOp, BitVec.setWidth_add]
    · rw [popAll_twice s r b hb, popPort_queue s r b q hb ht x rest hq]
    · have empty := checkSrc_queue s r b q hb ht k hin hend
      rw [hq, if_pos rfl] at empty
      cases k
      · exact source.1 empty
      · exact source.2 _ empty
    · exact target.1 (by rw [checkDst_queue s r b q hb ht hout, if_pos (.inr hroom)])
    · exact target.1 (by rw [checkDst_queue s r b q hb ht hout, if_pos (.inl hload)])
    · have ready : s.ready .plain ⟨[], [.s r]⟩ = true := by
        refine (ready_iff ..).2 ⟨hw, fun _ => rfl, hh, rfl, ?_⟩
        simp only [State.checkDsts, checkDst_queue s r b q hb ht hout]
        rw [if_neg (by rintro (⟨u, hu, hr⟩ | hfull); exacts [hload u hu hr, absurd hroom (by omega)])]
        rfl
      exact compS_ready s .plain [] r _ ready
    · exact writeS_queue s r b q hb ht 0

end Sys2Proof.Machine
end

section
/-! PROOFS. CRR, CRW, CRS and CRC (R26, R77, R101, R293 to R300, R351, R384, R385). -/
namespace Sys2Proof.Machine

/-! ## Bit fields -/

theorem bitsOf_eq {n : Nat} (x : BitVec n) (h l : Nat) : bitsOf x h l = x.toNat / 2 ^ l % 2 ^ (h + 1 - l) := by
  simp [bitsOf, Nat.shiftRight_eq_div_pow]

/-- The field from bit l to the highest one. -/
theorem bitsOf_top (v : Word) (l : Nat) (hl : l ≤ 63) : bitsOf v 63 l = v.toNat / 2 ^ l := by
  rw [bitsOf_eq, Nat.mod_eq_of_lt]
  have hv := v.isLt
  rw [Nat.div_lt_iff_lt_mul (by positivity), ← pow_add]
  calc v.toNat < 2 ^ 64 := hv
    _ = 2 ^ (63 + 1 - l + l) := by congr 1; omega

/-! ## What a core may read and write (R384) -/

theorem crReadable_iff (core : Core) (c : BitVec 10) : crReadable core c.toNat = true ↔ match core with
    | .loader | .storer => c = 0x00A ∨ c = 0x00B ∨ c = 0x00E ∨ c = 0x00F
    | .keeper => c.toNat ≤ 0x011 ∨ c = 0x074
    | _ => True := by
  cases core <;> simp [crReadable, ← BitVec.toNat_inj, or_assoc]

/-- The rights of the slots and the urgent bank to write. -/
theorem crRight_task (core : Core) (n : Nat) (hc : core ∈ taskCores) : crRight core n =
    if n ≤ 0x009 ∨ n = 0x010 ∨ n = 0x011 then .write
    else if n ≤ 0x00F then .ignore
    else if n = 0x044 ∨ (0x050 ≤ n ∧ n < 0x060) then (if core = .urgent then .write else .refuse)
    else if 0x060 ≤ n ∧ n ≤ 0x072 then .ignore
    else if 0x080 ≤ n ∧ n < 0x0C0 then .write
    else .refuse := by
  have counts : ((0x060 ≤ n ∧ n < 0x070) ∨ (0x070 ≤ n ∧ n ≤ 0x072)) ↔ (0x060 ≤ n ∧ n ≤ 0x072) := by omega
  cases core <;> simp_all [taskCores, crRight, or_assoc]

/-! ## CRR (R385) -/

/-- A ready CRR of a register that its core may read. -/
theorem crr_reads (s : State) (d : Reg) (c : BitVec 10) (hr : s.ready .plain ⟨[], [.s d]⟩ = true)
    (may : crReadable s.cur.core c.toNat = true) : exec (.crr d c) s = .next (s.wrote [] d (s.crValue s.cur c.toNat)) := by
  obtain ⟨hw, hb, hh, -, hd⟩ := (ready_iff ..).1 hr
  have target : s.checkDst s.cur (.s d) = .go () := by
    revert hd
    simp only [State.checkDsts]
    cases s.checkDst s.cur (.s d) <;> simp
  have ready : s.ready .plain ⟨[], []⟩ = true := (ready_iff ..).2 ⟨hw, hb, hh, rfl, rfl⟩
  change execCrr d c s = _
  rw [execCrr, issue_ready _ _ _ _ ready]
  simp only [popAll_nil, may, need_true, bind_go, target, finish_go]
  rfl

/-- A ready CRR of any other register. -/
theorem crr_refused (s : State) (d : Reg) (c : BitVec 10) (hr : s.ready .plain ⟨[], [.s d]⟩ = true)
    (may : crReadable s.cur.core c.toNat = false) : exec (.crr d c) s = .next (s.trapNow (trapOf 0x04 (c.setWidth 64))) := by
  obtain ⟨hw, hb, hh, -, -⟩ := (ready_iff ..).1 hr
  have ready : s.ready .plain ⟨[], []⟩ = true := (ready_iff ..).2 ⟨hw, hb, hh, rfl, rfl⟩
  change execCrr d c s = _
  rw [execCrr, issue_ready _ _ _ _ ready]
  simp only [may, need_false, bind_trap, finish_trap, accessTrap]

/-- TSTATUS as a number (R351): no field reaches into the next. -/
theorem tstatus_toNat (h : Holder) : h.tstatus.toNat = h.sigsav.toNat * 2 ^ 48 + h.sigacc.toNat * 2 ^ 32 + h.nfail % 256 * 2 ^ 24 +
    h.loopsAt % 8 * 2 ^ 16 + h.source % 4 * 2 ^ 12 + h.failure.isSome.toNat * 256 + h.inh.toNat := by
  have hacc := h.sigacc.isLt
  have hsav := h.sigsav.isLt
  have flag : ∀ b : Bool, b.toNat = if b then 1 else 0 := by decide
  rw [Holder.tstatus, BitVec.toNat_ofNat, flag, flag, Nat.mod_eq_of_lt]
  · cases h.failure.isSome <;> cases h.inh <;> simp
  · cases h.failure.isSome <;> cases h.inh <;> simp <;> omega

/-- The fields of such a sum of powers of two. -/
theorem packed_fields (sav acc nfail loops source held inh : Nat) (hsav : sav < 2 ^ 15) (hacc : acc < 2 ^ 15) (hheld : held < 2)
    (hinh : inh < 2) :
    let x := sav * 2 ^ 48 + acc * 2 ^ 32 + nfail % 256 * 2 ^ 24 + loops % 8 * 2 ^ 16 + source % 4 * 2 ^ 12 + held * 256 + inh
    x / 2 ^ 0 % 2 = inh ∧ x / 2 ^ 8 % 2 = held ∧ x / 2 ^ 32 % 2 ^ 15 = acc ∧ x / 2 ^ 48 % 2 ^ 15 = sav ∧
    x / 2 ^ 12 % 2 ^ 2 = source % 2 ^ 2 ∧ x / 2 ^ 16 % 2 ^ 3 = loops % 2 ^ 3 ∧ x / 2 ^ 24 % 2 ^ 8 = nfail % 2 ^ 8 := by
  intro x
  refine ⟨?_, ?_, ?_, ?_, ?_, ?_, ?_⟩ <;> omega

/-- The fields of TSTATUS (R351). -/
theorem tstatus_fields (h : Holder) : h.tstatus.getLsbD 0 = h.inh ∧ h.tstatus.getLsbD 8 = h.failure.isSome ∧
    h.tstatus.extractLsb' 32 15 = h.sigacc ∧ h.tstatus.extractLsb' 48 15 = h.sigsav ∧
    h.tstatus.extractLsb' 12 2 = BitVec.ofNat 2 h.source ∧ h.tstatus.extractLsb' 16 3 = BitVec.ofNat 3 h.loopsAt ∧
    h.tstatus.extractLsb' 24 8 = BitVec.ofNat 8 h.nfail := by
  obtain ⟨inh, held, acc, sav, source, loops, nfail⟩ := packed_fields h.sigsav.toNat h.sigacc.toNat h.nfail h.loopsAt h.source
    h.failure.isSome.toNat h.inh.toNat h.sigsav.isLt h.sigacc.isLt (Bool.toNat_lt _) (Bool.toNat_lt _)
  rw [← tstatus_toNat] at inh held acc sav source loops nfail
  have bit : ∀ b : Bool, decide (b.toNat = 1) = b := by decide
  have field : ∀ l w : Nat, (h.tstatus.extractLsb' l w).toNat = h.tstatus.toNat / 2 ^ l % 2 ^ w := fun l w => by
    rw [BitVec.extractLsb'_toNat, Nat.shiftRight_eq_div_pow]
  refine ⟨?_, ?_, ?_, ?_, ?_, ?_, ?_⟩
  · rw [BitVec.getLsbD, Nat.testBit_eq_decide_div_mod_eq, inh, bit]
  · rw [BitVec.getLsbD, Nat.testBit_eq_decide_div_mod_eq, held, bit]
  · exact BitVec.eq_of_toNat_eq ((field ..).trans acc)
  · exact BitVec.eq_of_toNat_eq ((field ..).trans sav)
  · exact BitVec.eq_of_toNat_eq ((field ..).trans (source.trans (BitVec.toNat_ofNat ..).symm))
  · exact BitVec.eq_of_toNat_eq ((field ..).trans (loops.trans (BitVec.toNat_ofNat ..).symm))
  · exact BitVec.eq_of_toNat_eq ((field ..).trans (nfail.trans (BitVec.toNat_ofNat ..).symm))

/-! ## CRW, CRS and CRC (R385) -/

/-- A ready write: the rights, then the new value under the register's own rules. -/
theorem crModify_ready (s : State) (d : Reg) (c : BitVec 10) (f : Word → Word → Word)
    (hr : s.ready .held ⟨[(.s d, false)], []⟩ = true) :
    s.crModify d c f =
      let t := s.popAll s.cur [(.s d, false)]
      if crRight s.cur.core c.toNat = .refuse then .next (s.trapNow (trapOf 0x04 (c.setWidth 64)))
      else s.finish ((t.crWrite s.cur c.toNat (f (t.crValue s.cur c.toNat) (s.valS s.cur d))).bind (fun u => .go (u, .next))) := by
  obtain ⟨hw, hb, hh, hs, -⟩ := (ready_iff ..).1 hr
  have source : s.checkSrc s.cur (.s d) false = .go () := by
    revert hs
    simp only [State.checkSrcs]
    cases s.checkSrc s.cur (.s d) false <;> simp
  have ready : s.ready .held ⟨[], []⟩ = true := (ready_iff ..).2 ⟨hw, hb, hh, rfl, rfl⟩
  rw [State.crModify, issue_ready s _ _ _ ready, popAll_nil]
  by_cases right : crRight s.cur.core c.toNat = .refuse
  · simp [right, accessTrap]
  · have goes : (crRight s.cur.core c.toNat != .refuse) = true := by simpa using right
    simp only [goes, need_true, bind_go, source, if_neg right]

/-- A write to a slot's own register. -/
theorem crWrite_slot (t : State) (w : Who) (n : Nat) (v : Word) (hw : w.core ∈ taskCores) (hn : n ≤ 0x009 ∨ n = 0x010 ∨ n = 0x011) :
    (∀ h, (t.holder w).setReg n v = some h → t.crWrite w n v = .go (t.setHolder w h)) ∧
    ((t.holder w).setReg n v = none → t.crWrite w n v = .trap (accessTrap (BitVec.ofNat 64 n))) := by
  refine ⟨fun h hh => ?_, fun hh => ?_⟩ <;>
    simp only [State.crWrite, crRight_task _ _ hw, if_pos hn, if_pos (show n < 0x040 by omega), hh]

/-- A write to TENANT or WAYMASK by the urgent bank. -/
theorem crWrite_mask (t : State) (w : Who) (n : Nat) (v : Word) (hw : w.core = .urgent) (hn : n = 0x044 ∨ (0x050 ≤ n ∧ n < 0x060)) :
    (∀ u, t.writeMask w n v = some u → t.crWrite w n v = .go u) ∧
    (t.writeMask w n v = none → t.crWrite w n v = .trap (accessTrap (BitVec.ofNat 64 n))) := by
  have right : crRight w.core n = .write := by
    rw [crRight_task _ _ (by rw [hw]; decide), if_neg (by omega), if_neg (by omega), if_pos hn, if_pos hw]
  have test : (decide (n = 0x044) || decide (0x050 ≤ n) && decide (n < 0x060)) = true := by simpa using hn
  refine ⟨fun u hu => ?_, fun hu => ?_⟩ <;>
    simp only [State.crWrite, right, if_neg (show ¬ n < 0x040 by omega), test, if_true, hu]

/-- A write to PCNT. -/
theorem crWrite_pcnt (t : State) (w : Who) (n : Nat) (v : Word) (hw : w.core ∈ taskCores) (h1 : 0x080 ≤ n) (h2 : n < 0x0A0) :
    t.crWrite w n v = .go (t.writePcnt w.st (n - 0x080) v) := by
  have right : crRight w.core n = .write := by
    rw [crRight_task _ _ hw, if_neg (by omega), if_neg (by omega), if_neg (by omega), if_neg (by omega), if_pos (by omega)]
  have test : ¬ ((decide (n = 0x044) || decide (0x050 ≤ n) && decide (n < 0x060)) = true) := by
    simp only [Bool.or_eq_true, Bool.and_eq_true, decide_eq_true_eq]
    omega
  simp only [State.crWrite, right, if_neg (show ¬ n < 0x040 by omega), if_neg test, if_pos h2]

/-- A write to THR. -/
theorem crWrite_thr (t : State) (w : Who) (n : Nat) (v : Word) (hw : w.core ∈ taskCores) (h1 : 0x0A0 ≤ n) (h2 : n < 0x0C0) :
    (∀ u, t.writeThr w.st (n - 0x0A0) v = some u → t.crWrite w n v = .go u) ∧
    (t.writeThr w.st (n - 0x0A0) v = none → t.crWrite w n v = .trap (accessTrap (BitVec.ofNat 64 n))) := by
  have right : crRight w.core n = .write := by
    rw [crRight_task _ _ hw, if_neg (by omega), if_neg (by omega), if_neg (by omega), if_neg (by omega), if_pos (by omega)]
  have test : ¬ ((decide (n = 0x044) || decide (0x050 ≤ n) && decide (n < 0x060)) = true) := by
    simp only [Bool.or_eq_true, Bool.and_eq_true, decide_eq_true_eq]
    omega
  refine ⟨fun u hu => ?_, fun hu => ?_⟩ <;>
    simp only [State.crWrite, right, if_neg (show ¬ n < 0x040 by omega), if_neg test, if_neg (show ¬ n < 0x0A0 by omega), hu]

/-- A write that is ignored. -/
theorem crWrite_ignored (t : State) (w : Who) (n : Nat) (v : Word) (hn : crRight w.core n = .ignore) : t.crWrite w n v = .go t := by
  simp only [State.crWrite, hn]

section
variable (s : State) (d : Reg) (c : BitVec 10) (f : Word → Word → Word) (hr : s.ready .held ⟨[(.s d, false)], []⟩ = true)
include hr

/-- A write that the core may not make. -/
theorem crModify_refused (right : crRight s.cur.core c.toNat = .refuse) :
    s.crModify d c f = .next (s.trapNow (trapOf 0x04 (c.setWidth 64))) := by
  rw [crModify_ready s d c f hr]
  simp only [if_pos right]

/-- A write that its register takes, or refuses. -/
theorem crModify_writes (right : crRight s.cur.core c.toNat ≠ .refuse) :
    let t := s.popAll s.cur [(.s d, false)]
    let r := t.crWrite s.cur c.toNat (f (t.crValue s.cur c.toNat) (s.valS s.cur d))
    (∀ u, r = .go u → s.crModify d c f = .next (u.retire s.cur .next)) ∧
    (r = .trap (accessTrap (BitVec.ofNat 64 c.toNat)) → s.crModify d c f = .next (s.trapNow (trapOf 0x04 (c.setWidth 64)))) := by
  rw [crModify_ready s d c f hr]
  refine ⟨fun u hu => ?_, fun hu => ?_⟩
  · simp only [if_neg right, hu, bind_go, finish_go]
  · simp only [if_neg right, hu, bind_trap, finish_trap, accessTrap, BitVec.ofNat_toNat]

/-- A write that is ignored leaves its source popped. -/
theorem crModify_ignored (right : crRight s.cur.core c.toNat = .ignore) :
    s.crModify d c f = .next ((s.popAll s.cur [(.s d, false)]).retire s.cur .next) :=
  (crModify_writes s d c f hr (by rw [right]; decide)).1 _ (crWrite_ignored _ _ _ _ right)

/-- A write to a slot's own register changes the holder under the register's rules, or traps ACCESS. -/
theorem crModify_slot (hw : s.cur.core ∈ taskCores) (hn : c.toNat ≤ 0x009 ∨ c.toNat = 0x010 ∨ c.toNat = 0x011) :
    let t := s.popAll s.cur [(.s d, false)]
    let new := (t.holder s.cur).setReg c.toNat (f (t.crValue s.cur c.toNat) (s.valS s.cur d))
    (∀ g : Holder → Holder, new = some (g (t.holder s.cur)) →
      s.crModify d c f = .next ((t.modHolder s.cur g).retire s.cur .next)) ∧
    (new = none → s.crModify d c f = .next (s.trapNow (trapOf 0x04 (c.setWidth 64)))) := by
  have right : crRight s.cur.core c.toNat ≠ .refuse := by rw [crRight_task _ _ hw, if_pos hn]; decide
  obtain ⟨goes, traps⟩ := crModify_writes s d c f hr right
  refine ⟨fun g hg => goes _ ?_, fun hn => traps ?_⟩
  · exact (crWrite_slot _ _ _ _ hw ‹_›).1 _ hg
  · exact (crWrite_slot _ _ _ _ hw ‹_›).2 hn

end

/-! ## The rules of single registers -/

theorem wordAddr_eq (v : Word) : wordAddr v = v &&& ~~~3 := rfl

theorem setTstatus_eq (h : Holder) (v : Word) : h.setTstatus v =
    { h with sigsav := v.extractLsb' 48 15, nfail := v.toNat / 2 ^ 24 % 256, failure := if v.getLsbD 8 then h.failure else none } := by
  simp only [Holder.setTstatus, bitsOf_eq]
  congr 1
  apply BitVec.eq_of_toNat_eq
  simp [Nat.shiftRight_eq_div_pow]

theorem fctlLegal_iff (v : Word) : fctlLegal v = true ↔ v.toNat / 2 ^ 13 = 0 ∧ v.toNat / 8 % 32 = 0 ∧ v.toNat % 8 ≤ 4 := by
  rw [fctlLegal, bitsOf_top _ _ (by decide)]
  simp [bitsOf_eq, and_assoc]

theorem vctlLegal_iff (v : Word) : vctlLegal v = true ↔
    v.toNat / 2 ^ 19 = 0 ∧ v.toNat / 2 ^ 13 % 16 = 0 ∧ v.toNat / 8 % 32 = 0 ∧ v.toNat % 8 ≤ 4 := by
  rw [vctlLegal, bitsOf_top _ _ (by decide)]
  simp [bitsOf_eq, and_assoc]

/-- The values that PGCEIL may take. -/
theorem ceilLegal_iff (v : Word) : (bitsOf v 63 24 == 0 && decide (256 ≤ v.toNat)) = true ↔ 256 ≤ v.toNat ∧ v.toNat < 2 ^ 24 := by
  rw [bitsOf_top _ _ (by decide)]
  simp [Nat.div_eq_zero_iff, and_comm]

/-- The values that PGTRIES may take. -/
theorem triesLegal_iff (v : Word) : (bitsOf v 63 8 == 0) = true ↔ v.toNat < 256 := by
  rw [bitsOf_top _ _ (by decide)]
  simp [Nat.div_eq_zero_iff]

theorem maskLegal_iff (n : Nat) (v : Word) : maskLegal n v = true ↔ if n = 0x044 then v.toNat < 2 ^ 20 else v.toNat < 2 ^ 16 := by
  by_cases hn : n = 0x044 <;> simp [maskLegal, hn, bitsOf_top, Nat.div_eq_zero_iff]

/-- The outcomes of a write to TENANT or WAYMASK (R294, R299, R300). -/
theorem writeMask_cases (t : State) (w : Who) (n : Nat) (v : Word) (hw : w.core = .urgent) :
    (maskLegal n v = false → t.writeMask w n v = none) ∧
    (maskLegal n v = true → (t.holder w).window.isSome = true →
      t.writeMask w n v = some (t.modStation w.st (fun x => { x with staged := put n v x.staged }))) ∧
    (maskLegal n v = true → (t.holder w).window = none → t.writeMask w n v =
      some (t.modStation w.st (fun x => { x with late := x.late ++ [(n, v, t.clock (dieOf w.st) + 1)] }))) := by
  refine ⟨fun h => ?_, fun h open_ => ?_, fun h closed => ?_⟩ <;> simp [State.writeMask, *]

/-- Settles O30: CRR by the rights to read; a slot's own registers by `Holder.setReg` and the rules above; a station's registers by the
rights to write. -/
theorem controlRegisters : Obligations.ControlRegisters := by
  refine ⟨fun s d c hr => ⟨fun may => ?_, fun may => ⟨_, crr_reads s d c hr ((crReadable_iff ..).2 may), fun hc => ?_⟩⟩, ?_, ?_⟩
  · exact crr_refused s d c hr (by rw [← Bool.not_eq_true]; exact fun h => may ((crReadable_iff ..).1 h))
  · have own : s.worksFor s.cur = s.cur := by
      revert hc
      unfold State.worksFor
      cases s.cur.core <;> simp [taskCores]
    have notKeeper : s.cur.core ≠ .keeper := by
      intro h
      rw [h] at hc
      exact absurd hc (by decide)
    have reads : c.toNat < 0x040 → s.crValue s.cur c.toNat = s.slotReg s.cur c.toNat := fun hn => by
      rw [State.crValue, if_pos hn, own]
    refine ⟨?_, ?_, ?_, ?_, ?_, ?_, ?_, ?_, ?_, ?_, ?_, ?_, ?_, ?_, ?_, ?_, ?_, ?_⟩ <;> rintro rfl <;> rw [reads (by decide)]
    case refine_1 => exact tstatus_fields _
    case refine_15 => exact if_neg notKeeper
    all_goals rfl
  · intro s d c hr hc t v old refused does
    have all : ∀ f : Word → Word → Word, does (f old v) (s.crModify d c f) := by
      intro f
      have slot := crModify_slot s d c f hr hc
      refine ⟨?_, ?_, ?_, ?_, ?_, ?_, ?_, ?_, ?_, ?_, ?_, ?_, ?_⟩
      case refine_13 =>
        intro h1 h2
        refine crModify_ignored s d c f hr ?_
        rw [crRight_task _ _ hc, if_neg (by omega), if_pos h2]
      all_goals
        rintro rfl
        obtain ⟨takes, refuses⟩ := slot (by decide)
      case refine_1 => exact takes _ (congrArg some (setTstatus_eq ..))
      case refine_7 =>
        split
        · rename_i legal
          exact takes _ (if_pos ((fctlLegal_iff _).2 legal))
        · rename_i illegal
          exact refuses (if_neg (fun h => illegal ((fctlLegal_iff _).1 h)))
      case refine_9 =>
        split
        · rename_i legal
          exact takes _ (if_pos ((vctlLegal_iff _).2 legal))
        · rename_i illegal
          exact refuses (if_neg (fun h => illegal ((vctlLegal_iff _).1 h)))
      case refine_11 =>
        split
        · rename_i legal
          exact takes _ (if_pos ((ceilLegal_iff _).2 legal))
        · rename_i illegal
          exact refuses (if_neg (fun h => illegal ((ceilLegal_iff _).1 h)))
      case refine_12 =>
        split
        · rename_i legal
          exact takes _ (if_pos ((triesLegal_iff _).2 legal))
        · rename_i illegal
          exact refuses (if_neg (fun h => illegal ((triesLegal_iff _).1 h)))
      all_goals exact takes _ rfl
    exact ⟨all (fun _ v => v), all (fun old v => old ||| v), all (fun old v => old &&& ~~~v)⟩
  · intro s d c hr t v n refused mask legal
    have ignored := crModify_ignored s d c (fun _ v => v) hr
    have refuses := crModify_refused s d c (fun _ v => v) hr
    have writes := crModify_writes s d c (fun _ v => v) hr
    refine ⟨fun hc => refuses ?_, fun hc => ?_⟩
    · rcases hc with hc | hc <;> rw [hc] <;> rfl
    have right := crRight_task s.cur.core n hc
    have masks : s.cur.core = .urgent → mask → crRight s.cur.core n ≠ .refuse := fun hu hm => by
      rw [right, if_neg (by omega), if_neg (by omega), if_pos hm, if_pos hu]
      decide
    have counts : 0x080 ≤ n → n < 0x0C0 → crRight s.cur.core n ≠ .refuse := fun h1 h2 => by
      rw [right, if_neg (by omega), if_neg (by omega), if_neg (by omega), if_neg (by omega), if_pos (by omega)]
      decide
    refine ⟨fun hu hm => refuses ?_, fun hu hm hl => ?_, fun hu hm hl hwin => ?_, fun hu hm hl hwin => ?_, fun h1 h2 => ?_, fun h1 h2 => ?_,
      fun h1 h2 => ignored ?_, fun h1 h2 => refuses ?_⟩
    · rw [right, if_neg (by omega), if_neg (by omega), if_pos hm, if_neg hu]
    · have illegal : maskLegal n v = false := by rw [← Bool.not_eq_true, maskLegal_iff]; exact hl
      exact (writes (masks hu hm)).2 ((crWrite_mask _ _ _ _ hu hm).2 ((writeMask_cases _ _ _ _ hu).1 illegal))
    · exact (writes (masks hu hm)).1 _ ((crWrite_mask _ _ _ _ hu hm).1 _
        ((writeMask_cases _ _ _ _ hu).2.1 ((maskLegal_iff ..).2 hl) hwin))
    · exact (writes (masks hu hm)).1 _ ((crWrite_mask _ _ _ _ hu hm).1 _
        ((writeMask_cases _ _ _ _ hu).2.2 ((maskLegal_iff ..).2 hl) hwin))
    · exact (writes (counts h1 (by omega))).1 _ (crWrite_pcnt _ _ _ _ hc h1 h2)
    · obtain ⟨goes, traps⟩ := crWrite_thr t s.cur n v hc h1 h2
      cases hu : t.writeThr s.cur.st (n - 0x0A0) v with
      | some u => exact (writes (counts (by omega) h2)).1 _ (goes _ hu)
      | none => exact (writes (counts (by omega) h2)).2 (traps hu)
    · rw [right, if_neg (by omega), if_neg (by omega), if_neg (by omega), if_pos (by omega)]
    · rw [right, if_neg (by omega), if_neg (by omega), if_neg (by omega), if_neg (by omega), if_neg (by omega)]

end Sys2Proof.Machine
end

section
/-! PROOFS. NOP, SETE, TSTF, the masked window (R386 to R388, R395) and the end of a task (R16, R41, R199). -/
namespace Sys2Proof.Machine

/-! ## NOP, SETE, TSTF (R386, R387, R395) -/

theorem nop_ready (s : State) (hr : s.ready .plain ⟨[], []⟩ = true) : exec .nop s = .next (s.passed []) := by
  change execNop s = _
  rw [execNop, issue_ready _ _ _ _ hr]
  rfl

/-- A ready SETE, by what holds its register. -/
theorem sete_ready (s : State) (d : Reg) (hr : s.ready .plain ⟨[], []⟩ = true) :
    (∀ b, s.me.binding (.s d) = some b → exec (.sete d) s = .next (s.trapNow (queueTrap b.port))) ∧
    (s.me.binding (.s d) = none → (∃ op, s.me.avail (.s d) = .pending op) → exec (.sete d) s = .next s.wait) ∧
    (s.me.binding (.s d) = none → (∀ op, s.me.avail (.s d) ≠ .pending op) →
      exec (.sete d) s = .next ((s.modHolder s.cur (fun h => h.setAvail (.s d) .empty)).retire s.cur .next)) := by
  change (∀ b, _ → execSete d s = _) ∧ (_ → _ → execSete d s = _) ∧ (_ → _ → execSete d s = _)
  rw [execSete, issue_ready _ _ _ _ hr, popAll_nil]
  refine ⟨fun b hb => ?_, fun hb ⟨op, ha⟩ => ?_, fun hb ha => ?_⟩
  · simp only [hb, finish_trap]
  · simp only [hb, ha, finish_wait]
  · cases h : s.me.avail (.s d) with
    | pending op => exact absurd h (ha op)
    | full | empty => simp only [hb, finish_go]

/-- A register that no port is bound to tests as full when it is. -/
theorem testFull_unbound (s : State) (n : RegName) (hn : s.me.binding n = none) :
    s.testFull s.cur n = true ↔ s.me.avail n = .full := by
  rw [State.me] at hn
  simp only [State.testFull, hn, beq_iff_eq]
  rfl

/-- The two bits that TSTF gives. -/
theorem tstf_bits (p q : Bool) (v : Word) (hv : v = BitVec.ofNat 64 ((if p then 1 else 0) + (if q then 2 else 0))) :
    v.toNat < 4 ∧ v.getLsbD 0 = p ∧ v.getLsbD 1 = q := by
  subst hv
  revert p q
  decide

/-! ## The masked window (R160, R300, R388) -/

/-- A ready WINBEG, by what it finds. -/
theorem winbeg_ready (s : State) (hr : s.ready .vheld ⟨[], []⟩ = true) :
    (s.me.window.isSome = true → exec .winbeg s = .next (s.passed [])) ∧
    (s.me.window = none → s.cur.core ≠ .urgent → (s.holder { s.cur with core := .urgent }).state = .pending →
      exec .winbeg s = .next s.wait) ∧
    (s.me.window = none → s.cur.core = .urgent ∨ (s.holder { s.cur with core := .urgent }).state ≠ .pending →
      exec .winbeg s = .next (((s.modHolder s.cur (fun h => { h with window := some (s.clock (dieOf s.cur.st)) })).laterAt (s.now + 512)
        (.maskwinExpiry s.cur (s.clock (dieOf s.cur.st)))).retire s.cur .next)) := by
  change (_ → execWinbeg s = _) ∧ (_ → _ → _ → execWinbeg s = _) ∧ (_ → _ → execWinbeg s = _)
  rw [execWinbeg, issue_ready _ _ _ _ hr, popAll_nil]
  refine ⟨fun hwin => ?_, fun hwin hu hp => ?_, fun hwin hu => ?_⟩
  · simp only [hwin, if_true, finish_go]
    rfl
  · simp [hwin, hu, hp]
  · have free : (s.cur.core != .urgent && (s.holder { s.cur with core := .urgent }).state == .pending) = false := by
      rcases hu with hu | hu <;> simp [hu]
    simp [hwin, free]

theorem winend_ready (s : State) (hr : s.ready .compute ⟨[], []⟩ = true) :
    exec .winend s = .next ((if s.me.window.isSome then s.closeWindow s.cur else s).retire s.cur .next) := by
  change execWinend s = _
  rw [execWinend, issue_ready _ _ _ _ hr, popAll_nil, finish_go]

/-! ## TEND (R16, R41, R199) -/

/-- A TEND leaves the PC to what it has done. -/
theorem retire_stay (s : State) (w : Who) : s.retire w .stay = s := rfl

/-- TEND of a loader or a storer: once its loads are settled, it stops (R16). -/
theorem tend_access (s : State) (hr : s.ready .plain ⟨[], []⟩ = true) (hc : s.cur.core = .loader ∨ s.cur.core = .storer)
    (hf : s.me.failure = none) : exec .tend s = if s.me.unsettled = [] then .next (s.restCore s.cur) else .next s.wait := by
  have held : s.me.failureTrap = none := by rw [Holder.failureTrap, hf]; rfl
  have body : exec .tend s =
      s.finish ((await s.me.unsettled.isEmpty).bind (fun _ => .go (s.restCore s.cur, PcFlow.stay))) := by
    change execTend s = _
    rw [execTend, issue_ready _ _ _ _ hr, popAll_nil]
    rcases hc with hc | hc <;> simp only [hc, held]
  rw [body]
  cases s.me.unsettled <;> simp [retire_stay]

section
variable (s : State) (hr : s.ready .plain ⟨[], []⟩ = true) (hc : s.cur.core ∈ taskCores ∨ s.cur.core = .keeper)
include hr hc

/-- TEND of a task reports a failure that is held at its first attempt. -/
theorem tend_failed (f : HeldFailure) (hf : s.me.failure = some f) (hw : s.me.waiting = false) :
    exec .tend s = .next (s.trapNow { cause := f.cause, tval := f.pc, fva := some f.addr, held := true }) := by
  have held : s.me.failureTrap = some { cause := f.cause, tval := f.pc, fva := some f.addr, held := true } := by
    rw [Holder.failureTrap, hf]; rfl
  change execTend s = _
  rw [execTend, issue_ready _ _ _ _ hr, popAll_nil]
  cases h : s.cur.core <;> simp_all [taskCores]

variable (hf : s.me.failure = none ∨ s.me.waiting = true)
include hf

/-- What the task has out, or its leaves, keep a TEND waiting: at its first attempt, or where there is something to withdraw, it begins. -/
theorem tend_waits
    (out : ¬ (((s.haltTeam s.cur).withdrawWaiting s.cur).taskDone s.cur = true ∧
      ((s.haltTeam s.cur).withdrawWaiting s.cur).leaveRoom s.cur = true)) :
    exec .tend s = if s.me.waiting = true ∧ s.waiting.any (s.taskWaits s.cur) = false ∧ s.phaserWaits s.cur s.me.taskid = []
      then .next s.wait
      else .next (((s.haltTeam s.cur).withdrawWaiting s.cur).modHolder s.cur (fun k => { k with waiting := true })) := by
  have report : (if s.me.waiting then none else s.me.failureTrap) = none := by
    rcases hf with hf | hf <;> simp [hf, Holder.failureTrap]
  have ends : (!((s.haltTeam s.cur).withdrawWaiting s.cur).taskDone s.cur ||
      !((s.haltTeam s.cur).withdrawWaiting s.cur).leaveRoom s.cur) = true := by
    rw [Bool.or_eq_true, Bool.not_eq_true', Bool.not_eq_true', ← Bool.not_eq_true, ← Bool.not_eq_true, ← not_and_or]
    exact out
  have again : (s.me.waiting && !s.waiting.any (s.taskWaits s.cur) && (s.phaserWaits s.cur s.me.taskid).isEmpty) = true ↔
      s.me.waiting = true ∧ s.waiting.any (s.taskWaits s.cur) = false ∧ s.phaserWaits s.cur s.me.taskid = [] := by
    simp only [Bool.and_eq_true, Bool.not_eq_true', List.isEmpty_iff, and_assoc]
  change execTend s = _
  rw [execTend, issue_ready _ _ _ _ hr, popAll_nil]
  cases h : s.cur.core
  case loader | storer => simp [h, taskCores] at hc
  all_goals
    simp only [report, ends, if_true, again]
    split <;> rfl

/-- A TEND whose task has nothing out ends it, or takes the trap of a failure that came while it waited. -/
theorem tend_ends (t : State) (ht : (s.haltTeam s.cur).withdrawWaiting s.cur = t) (done : t.taskDone s.cur = true)
    (room : t.leaveRoom s.cur = true) :
    ((t.holder s.cur).failure = none → exec .tend s = .next ((t.freeHolder s.cur false).complete s.cur s.me false)) ∧
    (∀ f, (t.holder s.cur).failure = some f → exec .tend s =
      .next (t.takeTrap s.cur s.me.pc { cause := f.cause, tval := f.pc, fva := some f.addr, held := true } 0)) := by
  have report : (if s.me.waiting then none else s.me.failureTrap) = none := by
    rcases hf with hf | hf <;> simp [hf, Holder.failureTrap]
  change (_ → execTend s = _) ∧ (∀ f, _ → execTend s = _)
  rw [execTend, issue_ready _ _ _ _ hr, popAll_nil]
  refine ⟨fun hn => ?_, fun f hs => ?_⟩
  · have late : (t.holder s.cur).failureTrap = none := by rw [Holder.failureTrap, hn]; rfl
    cases h : s.cur.core
    case loader | storer => simp [h, taskCores] at hc
    all_goals
      simp only [ht, report, done, room, late, Bool.not_true, Bool.or_false, Bool.false_eq_true, if_false, finish_go, retire_stay]
  · have late : (t.holder s.cur).failureTrap = some { cause := f.cause, tval := f.pc, fva := some f.addr, held := true } := by
      rw [Holder.failureTrap, hs]; rfl
    cases h : s.cur.core
    case loader | storer => simp [h, taskCores] at hc
    all_goals
      simp only [ht, report, done, room, late, Bool.not_true, Bool.or_false, Bool.false_eq_true, if_false, finish_go, retire_stay]

end

/-! ## The end of a task -/

/-- What a TEND does with one core of its task's team. -/
def State.haltCore (t : State) (c : Who) : State :=
  if c.core == .loader || c.core == .storer then
    t.modHolder c (fun h => if h.state == .free then h else { h with state := .stopping, heldTrap := none, waiting := false })
  else t

/-- Among the cores that a TEND stops, a loader or a storer is free, or issues no more. -/
theorem foldl_haltCore_state (l : List Who) (t : State) (c : Who) (hl : c.core = .loader ∨ c.core = .storer) :
    ((l.foldl State.haltCore t).holder c).state =
      if c ∈ l then (if (t.holder c).state = .free then .free else .stopping) else (t.holder c).state := by
  induction l generalizing t with
  | nil => simp
  | cons a r ih =>
    rw [List.foldl_cons, ih]
    by_cases ha : c = a
    · subst ha
      have stops : ((t.haltCore c).holder c).state = if (t.holder c).state = .free then .free else .stopping := by
        have test : (c.core == .loader || c.core == .storer) = true := by simpa using hl
        rw [State.haltCore, if_pos test, holder_modHolder_same]
        by_cases hs : (t.holder c).state = .free <;> simp [hs]
      rw [stops, if_pos List.mem_cons_self]
      by_cases hs : (t.holder c).state = .free <;> simp [hs]
    · have stays : (t.haltCore a).holder c = t.holder c := by
        unfold State.haltCore
        split
        · exact holder_modHolder_other _ _ _ _ ha
        · rfl
      simp [stays, ha]

/-- The loader and the storer of a task that ends are free, or issue no more (R16). -/
theorem haltTeam_state (u : State) (w c : Who) (hc : c ∈ u.team w) (hl : c.core = .loader ∨ c.core = .storer) :
    ((u.haltTeam w).holder c).state = if (u.holder c).state = .free then .free else .stopping :=
  (foldl_haltCore_state (u.team w) u c hl).trans (if_pos hc)

/-- A slot that is kept for a gang (R165). -/
def Holder.reserve (h : Holder) : Holder := { h with state := .reserved, task := some (TaskInfo.held 0 0) }

/-- A slot that has become free stays free, or is kept for a gang (R165). -/
theorem slotFreed_holder (s : State) (w : Who) (tcmn phn : Nat) : (s.slotFreed w tcmn phn).holder w = s.holder w ∨
    ∃ t, (s.slotFreed w tcmn phn).holder w = { s.holder w with state := .reserved, task := t } := by
  have kept : ∀ b : Bool, (if b then s.modHolder w Holder.reserve else s).holder w = s.holder w ∨
      ∃ t, (if b then s.modHolder w Holder.reserve else s).holder w = { s.holder w with state := .reserved, task := t } := fun b => by
    cases b
    · exact .inl rfl
    · exact .inr ⟨_, holder_modHolder_same ..⟩
  unfold State.slotFreed
  simp only
  split
  · exact .inl rfl
  · split
    · exact .inl rfl
    · split
      · exact .inl rfl
      · rw [holder_modStation _ _ _ _ rfl]
        exact kept _

/-- A slot as the end of its task leaves it. -/
def Holder.ended (h : Holder) : Holder :=
  { h with state := .free, phasers := [], deadl := 0xFFFF_FFFF_FFFF_FFFF#64, task := none, loops := [], unsettled := [],
           heldTrap := none, asyncTrap := [], releases := [], waiting := false, acquire := none, inh := false, failure := none }

/-- The end of a task frees its slot last. -/
theorem freeHolder_last (u : State) (w : Who) (killed : Bool) :
    ∃ (t : State) (tcmn phn : Nat), u.freeHolder w killed = (t.modHolder w Holder.ended).slotFreed w tcmn phn := ⟨_, _, _, rfl⟩

/-- What the end of a task leaves in its slot (R41, R165). -/
theorem freeHolder_slot (u : State) (w : Who) (killed : Bool) :
    let h := (u.freeHolder w killed).holder w
    (h.state = .free ∨ h.state = .reserved) ∧ h.failure = none ∧ h.deadl = BitVec.allOnes 64 ∧ h.loops = [] ∧ h.inh = false := by
  obtain ⟨t, tcmn, phn, last⟩ := freeHolder_last u w killed
  rw [last]
  rcases slotFreed_holder (t.modHolder w Holder.ended) w tcmn phn with own | ⟨k, own⟩ <;> rw [own, holder_modHolder_same]
  · exact ⟨.inl rfl, rfl, rfl, rfl, rfl⟩
  · exact ⟨.inr rfl, rfl, rfl, rfl, rfl⟩

/-- A core that rests is free. -/
theorem restCore_free (s : State) (w : Who) : ((s.restCore w).holder w).state = .free := by
  rw [State.restCore, holder_modHolder_same]

/-- Settles O31: each instruction by what it finds, TEND by whether its task is done. -/
theorem smallSystemInstructionsAndTaskEnd : Obligations.SmallSystemInstructionsAndTaskEnd := by
  refine ⟨fun s d a => ⟨nop_ready s, fun hr => ?_, fun hr => ?_, winbeg_ready s, winend_ready s⟩, fun s hr => ?_⟩
  · obtain ⟨bound, pending, empties⟩ := sete_ready s d hr
    refine ⟨bound, pending, fun hb ha => ⟨s.me.setAvail (.s d) .empty, empties hb ha, fun hd => ?_, fun r => ?_, fun r hrd => ?_⟩⟩
    · exact setAvail_same _ _ _ (by simpa using hd)
    · exact setAvail_rd ..
    · exact setAvail_other _ _ _ _ (by simpa using hrd)
  · refine ⟨_, compS_ready s .plain [] d _ hr, ?_⟩
    obtain ⟨small, bit0, bit1⟩ := tstf_bits (s.testFull s.cur (.s a))
      (!(s.cur.core == .loader || s.cur.core == .storer) && s.testFull s.cur (.v a)) _ rfl
    refine ⟨small, fun hb => by rw [bit0, testFull_unbound s _ hb], fun hb hl hs => ?_⟩
    have compute : (!(s.cur.core == .loader || s.cur.core == .storer)) = true := by simp [hl, hs]
    rw [bit1, compute, Bool.true_and, testFull_unbound s _ hb]
  · refine ⟨fun hc => ⟨?_, ?_, ?_, ?_, ?_⟩, fun hc hf => ⟨fun hu => ⟨?_, restCore_free ..⟩, fun hu => ?_⟩, haltTeam_state, freeHolder_slot⟩
    · exact fun f hf hw => tend_failed s hr hc f hf hw
    · intro hf out hw
      rw [tend_waits s hr hc (.inl hf) out, if_neg (by simp [hw])]
    · intro out hw none phasers
      rw [tend_waits s hr hc (.inr hw) out, if_pos ⟨hw, by simpa using none, phasers⟩]
    · exact fun hf ⟨done, room⟩ none => (tend_ends s hr hc (.inl hf) _ rfl done room).1 none
    · exact fun hf ⟨done, room⟩ f some => (tend_ends s hr hc hf _ rfl done room).2 f some
    · rw [tend_access s hr hc hf, if_pos hu]
    · rw [tend_access s hr hc hf, if_neg hu]

end Sys2Proof.Machine
end

section
/-! PROOFS. An access at its near home (R88, R89, R225, R278, R304, R334): when it goes on, what it does there, and the granules and bytes
of a range. -/
namespace Sys2Proof.Machine

/-! ## Arrival -/

section
variable (s : State) (p : AccPart) (hn : ∀ off, p.place ≠ .far off)
include hn

/-- A notification of a copy engine leaves its station once the stores before it are performed (R234, R278). -/
theorem accessAtHome_unsent (he : p.acc.eng = 2 ∧ p.sent = false) : exec (.accessAtHome p) s =
    if s.accDone p.acc p.acc.op then .next (s.later (.accessAtHome { p with sent := true })) else .next s.wait := by
  have unsent : (decide (p.acc.eng = 2) && !p.sent) = true := by simpa using he
  change execAccessAtHome p s = _
  unfold execAccessAtHome
  split
  · exact absurd ‹_› (hn _)
  · rw [if_pos unsent]

variable (he : ¬ (p.acc.eng = 2 ∧ p.sent = false))
include he

/-- What meets a bank whose format is being written waits, and has arrived (R225). -/
theorem accessAtHome_behind (hb : s.behindFormat p = true) : exec (.accessAtHome p) s =
    if p.acc.eng = 2 ∨ p.sent = true then .next s.wait
    else .next (s.again (s.now + 1) (.accessAtHome { p with sent := true })) := by
  have sent : ¬ (decide (p.acc.eng = 2) && !p.sent) = true := by simpa using he
  change execAccessAtHome p s = _
  unfold execAccessAtHome
  split
  · exact absurd ‹_› (hn _)
  · rw [if_neg sent, if_pos hb, apply_ite Host.Outcome.next]
    simp only [Bool.or_eq_true, decide_eq_true_eq]

/-- Any other arrives. -/
theorem accessAtHome_arrives (hb : s.behindFormat p = false) : exec (.accessAtHome p) s = .next (s.arrive p) := by
  have sent : ¬ (decide (p.acc.eng = 2) && !p.sent) = true := by simpa using he
  change execAccessAtHome p s = _
  unfold execAccessAtHome
  split
  · exact absurd ‹_› (hn _)
  · rw [if_neg sent, if_neg (by rw [hb]; decide)]

end

/-- Only what meets a scratchpad waits for a format. -/
theorem behindFormat_pool (s : State) (p : AccPart) (st off : Nat) (hp : p.place = .pool st off) : s.behindFormat p = false := by
  simp only [State.behindFormat, hp]

/-- A place whose home makes no check of its own: a commons, a scratchpad, or the station's own pool outside the half of a window that is
not addressable. -/
def State.plainHome (s : State) (p : AccPart) : Prop :=
  (∃ d off, p.place = .commons d off) ∨ (∃ cl off, p.place = .spad cl off) ∨
  (∃ st off, p.place = .pool st off ∧ p.acc.eng ≠ 5 ∧ p.acc.eng ≠ 2 ∧ (s.station st).hiddenHalf off p.size = false ∧
    ∀ n, s.regionOf p.acc.who p.addr.toNat ≠ some (.remote n))

theorem plainHome_near (s : State) (p : AccPart) (hp : s.plainHome p) : ∀ off, p.place ≠ .far off := by
  rintro off h
  rcases hp with ⟨d, o, e⟩ | ⟨cl, o, e⟩ | ⟨st, o, e, -⟩ <;> rw [h] at e <;> exact absurd e (by simp)

theorem arrive_plainHome (s : State) (p : AccPart) (hp : s.plainHome p) : s.arrive p = s.arriveNear p := by
  rcases hp with ⟨d, off, e⟩ | ⟨cl, off, e⟩ | ⟨st, off, e, h5, h2, half, own⟩
  · simp only [State.arrive, e]
  · simp only [State.arrive, e]
  · simp [State.arrive, e, h5, h2, half]

theorem remoteElement_one (s : State) (p : AccPart) : exec (.remoteElementAccess [p]) s = .next (s.arrive p) := rfl

theorem remoteElement_more (s : State) (p q : AccPart) (r : List AccPart) : exec (.remoteElementAccess (p :: q :: r)) s =
    .next ((s.arrive p).again s.now (.remoteElementAccess (q :: r))) := rfl

/-- An access that may not be performed waits (R89). -/
theorem arriveNear_waits (s : State) (p : AccPart) (h : s.mayPerform s.waiting p = false) :
    s.arriveNear p = { s with waiting := s.waiting ++ [p] } := by
  rw [State.arriveNear, if_neg (by rw [h]; decide)]

/-- One that may is performed, and the waiting ones that may follow (R89). -/
theorem arriveNear_goes (s : State) (p : AccPart) (h : s.mayPerform s.waiting p = true) :
    s.arriveNear p = State.serveWaiting (s.performRaw p).waiting.length (s.performRaw p) := by
  rw [State.arriveNear, if_pos h]

/-! ## Performance where there is no plane bank (R36, R87, R88) -/

/-- An access that issued as a typed one, in a scratchpad. -/
def State.typedInSpad (s : State) (p : AccPart) : Prop :=
  (∃ cl off, p.place = .spad cl off) ∧ p.acc.eng = 0 ∧
  ((p.kind = .load ∧ ∃ u ∈ (s.holder p.acc.who).unsettled, u.op = p.acc.op ∧ ∃ d, u.kind = .vector d true) ∨
   (p.kind = .store ∧ p.data.length ≠ p.size))

theorem typedAccess_iff (s : State) (p : AccPart) : s.typedAccess p = true ↔
    (p.kind = .load ∧ ∃ u ∈ (s.holder p.acc.who).unsettled, u.op = p.acc.op ∧ ∃ d, u.kind = .vector d true) ∨
    (p.kind = .store ∧ p.data.length ≠ p.size) := by
  have vector : ∀ k : LoadKind, (match k with | .vector _ true => true | _ => false) = true ↔ ∃ d, k = .vector d true := by
    intro k
    cases k with
    | vector d typed => cases typed <;> simp
    | _ => simp
  unfold State.typedAccess
  cases p.kind with
  | load =>
    simp only [List.any_eq_true, Bool.and_eq_true, beq_iff_eq, true_and, reduceCtorEq, false_and, or_false]
    exact exists_congr fun u => and_congr_right fun _ => and_congr_right fun _ => vector u.kind
  | _ => simp

theorem wrongForm_iff (s : State) (p : AccPart) (hb : s.bankOf p.place = none) : s.wrongForm p = true ↔ s.typedInSpad p := by
  have spad : (match p.place with | .spad _ _ => true | _ => false) = true ↔ ∃ cl off, p.place = .spad cl off := by
    cases p.place <;> simp
  simp only [State.wrongForm, hb, State.typedInSpad, Bool.and_eq_true, beq_iff_eq, typedAccess_iff, and_assoc]
  exact and_congr spad Iff.rfl

section
variable (s : State) (p : AccPart) (hb : s.bankOf p.place = none)
include hb

/-- A typed access where there is no plane bank any more is refused (log entry 175). -/
theorem performRaw_refused (h : s.typedInSpad p) : s.performRaw p = s.failPart p (accessTrap p.addr) (poisonBank p) := by
  rw [State.performRaw, if_pos ((wrongForm_iff s p hb).2 h)]

/-- Any other is performed. -/
theorem performRaw_plain (h : ¬ s.typedInSpad p) : s.performRaw p = s.performPlain p := by
  rw [State.performRaw, if_neg (fun w => h ((wrongForm_iff s p hb).1 w)), hb]

/-- A load is performed by its qualifier (R36, R87, R88). -/
theorem performPlain_load (hk : p.kind = .load) : s.performPlain p =
    if p.qual = .tryfDrain ∧ s.fullAt (partAt p) p.size = false then
      s.partBack p.acc.who p.acc.op p.off [] (some (trapOf 0x02 p.addr))
    else if s.poisonedAt (partAt p) p.size = true then s.partBack p.acc.who p.acc.op p.off [] (some (trapOf 0x06 p.addr))
    else if p.qual = .takeFillw then
      (s.partBack p.acc.who p.acc.op p.off (memRead s.mem (partAt p) p.size) none).takeAt p
    else s.partBack p.acc.who p.acc.op p.off (memRead s.mem (partAt p) p.size) none := by
  simp only [State.performPlain, hk, hb, State.failPart, emptyAtHome, poisonTrap, Bool.and_eq_true, decide_eq_true_eq, Bool.not_eq_true',
    State.readAt]

/-- A store is performed, and then its effect on the granules takes place (R88). -/
theorem performPlain_store (hk : p.kind = .store) :
    let u := (s.writeAt (partAt p) p.data).storeDone p.acc.who p.acc.op
    (p.qual = .plain → s.performPlain p = u) ∧
    (p.qual = .waitfFill ∨ p.qual = .takeFillw → s.performPlain p = u.fillAt (partAt p) p.size) ∧
    (p.qual = .tryfDrain → s.performPlain p = u.drainAt (partAt p) p.size) := by
  refine ⟨fun hq => ?_, fun hq => ?_, fun hq => ?_⟩
  · simp only [State.performPlain, hk, hb, hq]
  · rcases hq with hq | hq <;> simp only [State.performPlain, hk, hb, hq]
  · simp only [State.performPlain, hk, hb, hq]

omit hb

/-- A returning atomic reads and writes its bytes, unless they are poisoned (R376). -/
theorem performPlain_amo (o : AmoOp) (wide : Bool) (hk : p.kind = .amo o wide) : s.performPlain p =
    if s.poisonedAt (partAt p) p.size = true then s.partBack p.acc.who p.acc.op p.off [] (some (trapOf 0x06 p.addr))
    else (s.writeAt (partAt p) (amoBytes o wide (memRead s.mem (partAt p) p.size) p.data)).partBack p.acc.who p.acc.op p.off
      (memRead s.mem (partAt p) p.size) none := by
  simp only [State.performPlain, hk, State.failPart, poisonTrap, State.readAt]

/-- A reduction of bytes that are not poisoned. -/
theorem performPlain_red (o : AmoOp) (wide : Bool) (hk : p.kind = .red o wide) (hp : s.poisonedAt (partAt p) p.size = false) :
    s.performPlain p =
      (s.writeAt (partAt p) (amoBytes o wide (memRead s.mem (partAt p) p.size) p.data)).storeDone p.acc.who p.acc.op := by
  simp only [State.performPlain, hk, hp, Bool.false_eq_true, if_false, State.readAt]

end

/-! ## An access to another station's pool (R304, R369, R372) -/

/-- A load or a returning atomic that is not performed ends with its trap. -/
theorem failPart_returning (s : State) (p : AccPart) (t : TrapInfo) (bank : Nat) (hk : p.kind = .load ∨ ∃ o wide, p.kind = .amo o wide) :
    s.failPart p t bank = s.partBack p.acc.who p.acc.op p.off [] (some t) := by
  rcases hk with hk | ⟨o, wide, hk⟩ <;> simp only [State.failPart, hk]

section
variable (s : State) (p : AccPart) (st off n : Nat) (hp : p.place = .pool st off)
  (hr : s.regionOf p.acc.who p.addr.toNat = some (.remote n))
include hp hr

/-- A station that is shuttered, or has another rank, does not take the access. -/
theorem arrive_undeliverable (h : (s.station st).shut = true ∨ n ≠ st) :
    s.arrive p = s.failPart p (trapOf 0x0F (BitVec.ofNat 64 n)) (homeBank p.acc.who.st) := by
  have test : ((s.station st).shut || some n != some (rankOf st)) = true := by
    rcases h with h | h <;> simp [h, rankOf]
  simp only [State.arrive, hp, hr, Option.isSome_some, Bool.true_and, test, if_true, undeliverable, Option.getD_some]

/-- Bytes outside the station's TCM may not be reached. -/
theorem arrive_outside (hs : (s.station st).shut = false) (hn : n = st)
    (h : ¬ ((s.station st).app1 * 8192 ≤ off ∧ off + p.size ≤ (s.station st).app2 * 8192)) :
    s.arrive p = s.failPart p (trapOf 0x04 p.addr) (stationBank st) := by
  have test : ((s.station st).shut || some n != some (rankOf st)) = false := by simp [hs, hn, rankOf]
  have tcm : (!(decide ((s.station st).app1 * 8192 ≤ off) && decide (off + p.size ≤ (s.station st).app2 * 8192))) = true := by
    rw [← Bool.decide_and, Bool.not_eq_true', decide_eq_false_iff_not]
    exact h
  simp only [State.arrive, hp, hr, Option.isSome_some, Bool.true_and, test, Bool.false_eq_true, if_false, tcm, if_true, accessTrap]

end

/-! ## Granules and bytes of a range (R21, R88) -/

/-- A range filled: no granule of it is empty, and no other changes. -/
theorem mem_fillAt (s : State) (a n g : Nat) : g ∈ (s.fillAt a n).empties ↔ g ∈ s.empties ∧ g ∉ blocks 16 a n := by
  simp [State.fillAt, Config.granuleSize]

open Sys2Proof.Laws in
/-- A range drained: every granule of it is empty, and no other changes. -/
theorem mem_drainAt (s : State) (a n g : Nat) : g ∈ (s.drainAt a n).empties ↔ g ∈ s.empties ∨ g ∈ blocks 16 a n := by
  simp only [State.drainAt, mem_foldl_setIns, Config.granuleSize]

/-- The bytes of a range are those written. -/
theorem memGet_writeAt_in (s : State) (a i : Nat) (bs : List Byte) (h : i < bs.length) :
    memGet (s.writeAt a bs).mem (a + i) = bs[i] := by
  rw [writeAt_mem, memGet_memWrite, if_pos (by omega), Nat.add_sub_cancel_left]
  simp [h]

/-- No other byte changes. -/
theorem memGet_writeAt_out (s : State) (a x : Nat) (bs : List Byte) (h : x < a ∨ a + bs.length ≤ x) :
    memGet (s.writeAt a bs).mem x = memGet s.mem x := by
  rw [writeAt_mem, memGet_memWrite, if_neg (by omega)]

open Sys2Proof.Laws in
/-- Settles O16: arrival, then performance by kind and qualifier; the granules and bytes of a range; the checks of another station. -/
theorem accessAtNearHome : Obligations.AccessAtNearHome := by
  refine ⟨fun s p hb hp => ?_, fun s a n g x bs p => ⟨rfl, rfl, mem_fillAt .., mem_drainAt .., rfl, rfl, memGet_writeAt_out s a x bs,
    fun i => memGet_writeAt_in s a i bs, rfl, mem_blocks 16 a n g (by decide)⟩, fun s p st off n hp => ?_⟩
  · intro a gs full empty holdsBack poisoned who op unsent early late
    have near := plainHome_near s p hp
    have arrives : ¬ early → exec (.accessAtHome p) s = .next (s.arriveNear p) := fun he => by
      rw [accessAtHome_arrives s p near (fun u => he (.inl u)) (by simpa using fun b => he (.inr b)), arrive_plainHome s p hp]
    have element : exec (.remoteElementAccess [p]) s = .next (s.arriveNear p) := by
      rw [remoteElement_one, arrive_plainHome s p hp]
    have place : partAt p = a := by
      rcases hp with ⟨d, o, e⟩ | ⟨cl, o, e⟩ | ⟨st, o, e, -⟩ <;> simp only [partAt, a, e, placeAt]
    refine ⟨fun u => accessAtHome_unsent s p near u, fun u b => accessAtHome_behind s p near u b, fun back => ?_, fun may => ?_⟩
    · have waits := arriveNear_waits s p (by rw [← Bool.not_eq_true, may_iff]; exact not_not.2 back)
      rw [← waits]
      exact ⟨arrives, element⟩
    · intro goes
      have performed : ∀ u, s.performRaw p = u → goes u := fun u hu => by
        have now := arriveNear_goes s p ((may_iff s p).2 may)
        rw [hu] at now
        exact ⟨fun he => (arrives he).trans (congrArg _ now), element.trans (congrArg _ now)⟩
      have poisons : s.poisonedAt (partAt p) p.size = true ↔ poisoned := by rw [poisoned_iff, place]
      have fulls : s.fullAt (partAt p) p.size = true ↔ full := full_iff ..
      refine ⟨fun hl hk => performed _ ?_, fun hl cl off e hk => performed _ ?_, fun hl => ?_⟩
      · rw [performRaw_refused s p hb hl, failPart_returning _ _ _ _ (.inl hk), accessTrap]
      · rw [performRaw_refused s p hb hl]
        simp only [State.failPart, hk, poisonBank, e, accessTrap, trapOf]
      have raw := performRaw_plain s p hb hl
      have load := fun hk => raw.trans (performPlain_load s p hb hk)
      have goesOn : p.qual ≠ .tryfDrain ∨ full → ¬ (p.qual = .tryfDrain ∧ s.fullAt (partAt p) p.size = false) := by
        rintro (hq | hf) ⟨h1, h2⟩
        · exact hq h1
        · rw [fulls.2 hf] at h2
          exact absurd h2 (by decide)
      refine ⟨fun hk hq hf => performed _ ?_, fun hk hf hp => performed _ ?_, fun hk hf hp => performed _ ?_, fun hk => performed _ ?_,
        fun o wide hk hp => performed _ ?_, fun o wide hk hp => performed _ ?_, fun o wide hk hp => performed _ ?_⟩
      · rw [load hk, if_pos ⟨hq, by rw [← Bool.not_eq_true, fulls]; exact hf⟩]
      · rw [load hk, if_neg (goesOn hf), if_pos (poisons.2 hp)]
      · rw [load hk, if_neg (goesOn hf), if_neg (mt poisons.1 hp), place]
      · obtain ⟨plain, fills, drains⟩ := performPlain_store s p hb hk
        rw [place] at plain fills drains
        cases hq : p.qual with
        | plain => exact raw.trans (plain hq)
        | waitfFill => exact raw.trans (fills (.inl hq))
        | takeFillw => exact raw.trans (fills (.inr hq))
        | tryfDrain => exact raw.trans (drains hq)
      · rw [raw, performPlain_amo s p o wide hk, if_pos (poisons.2 hp)]
      · rw [raw, performPlain_amo s p o wide hk, if_neg (mt poisons.1 hp), place]
      · rw [raw, performPlain_red s p o wide hk (by simpa using mt poisons.1 hp), place]
  · refine ⟨remoteElement_more s p, remoteElement_one s p, fun hr hk hsent => ?_⟩
    have fails : ∀ t bank, s.arrive p = s.failPart p t bank →
        exec (.accessAtHome p) s = .next (s.partBack p.acc.who p.acc.op p.off [] (some t)) ∧
        exec (.remoteElementAccess [p]) s = .next (s.partBack p.acc.who p.acc.op p.off [] (some t)) := fun t bank ha => by
      have sent : ¬ (p.acc.eng = 2 ∧ p.sent = false) := fun ⟨h1, h2⟩ => by
        rw [hsent h1] at h2
        exact absurd h2 (by decide)
      rw [accessAtHome_arrives s p (by simp [hp]) sent (behindFormat_pool s p st off hp), remoteElement_one, ha,
        failPart_returning s p t bank hk]
      exact ⟨rfl, rfl⟩
    exact ⟨fun h => fails _ _ (arrive_undeliverable s p st off n hp hr h),
      fun hs hn h => fails _ _ (arrive_outside s p st off n hp hr hs hn h)⟩

end Sys2Proof.Machine
end

section
/-! PROOFS. Uncorrectable errors, the end of a station, its self-test and appeals, and power gating (R36, R308, R311, R360, R363, R364, R370,
R373, R374). -/
namespace Sys2Proof.Machine

/-! ## Error records (R360, R361, R431) -/

/-- A record enters its own bank. -/
theorem record_bank_same (s : State) (key cls kind sub : Nat) (a y c : Word) :
    (s.record key cls kind sub a y c).bank key =
      bankTake { valid := true, ovf := false, cls := cls, kind := kind, subcode := sub, count := 0, addr := a, syndrome := y, context := c,
                 order := s.errOrder } (s.bank key) := by
  rw [State.bank, State.record, look_put_same]

/-- Every other bank stays. -/
theorem record_bank_other (s : State) (key cls kind sub : Nat) (a y c : Word) (k : Nat) (hk : k ≠ key) :
    (s.record key cls kind sub a y c).bank k = s.bank k := by
  rw [State.bank, State.record, look_put_other _ _ _ _ _ hk, ← State.bank]

/-- What an uncorrected record, with its escalation, leaves as it was (R431). -/
structure Recorded (s t : State) : Prop where
  rest : t = { s with banks := t.banks, errOrder := t.errOrder, noticesDue := t.noticesDue }

theorem recordUncorrected_recorded (s : State) (key kind sub : Nat) (a y c : Word) :
    Recorded s (s.recordUncorrected key kind sub a y c) := by
  unfold State.recordUncorrected
  simp only
  split
  · exact ⟨rfl⟩
  · split <;> exact ⟨rfl⟩

/-- The escalation leaves the bank of the record: its copy goes to another one. -/
theorem recordUncorrected_bank (s : State) (key kind sub : Nat) (a y c : Word) :
    (s.recordUncorrected key kind sub a y c).bank key = (s.record key uncorrected kind sub a y c).bank key := by
  unfold State.recordUncorrected
  simp only
  split
  · rfl
  · split
    · rfl
    · rename_i own notice
      refine record_bank_other _ _ _ _ _ _ _ _ _ (fun e => own ?_)
      simpa [e] using notice

/-- The mark of one line. -/
theorem mem_poisonAt_line (s : State) (a n : Nat) : n ∈ (s.poisonAt (a / 128 * 128) 1).poison ↔ n ∈ s.poison ∨ n = a / 128 := by
  simp only [State.poisonAt, Laws.mem_foldl_setIns, Config.lineSize, Laws.mem_blocks _ _ _ _ (show 0 < 128 by decide)]
  exact or_congr Iff.rfl (by omega)

/-! ## UNCORRECTABLE_ERROR (R36, R308, R363, R436) -/

/-- An uncorrectable error of the storage of a line: it is recorded, and marks a line that has a poison bit. -/
def State.uncorrectable (s : State) (base key : Nat) (addr : Word) (bit : Bool) : State :=
  let t := s.recordUncorrected key 0x07 0 addr 0 0
  if bit then t.poisonAt (base / 128 * 128) 1 else t

/-- What such an error leaves. -/
structure Marked (s t : State) (base key : Nat) (addr : Word) (bit : Bool) : Prop where
  mem : t.mem = s.mem
  stations : t.stations = s.stations
  agenda : t.agenda = s.agenda
  keeps : ∀ l ∈ s.poison, l ∈ t.poison
  marks : bit = true → base / 128 ∈ t.poison
  bank : t.bank key = (s.record key uncorrected 0x07 0 addr 0 0).bank key

theorem uncorrectable_marked (s : State) (base key : Nat) (addr : Word) (bit : Bool) :
    Marked s (s.uncorrectable base key addr bit) base key addr bit := by
  have own := recordUncorrected_bank s key 0x07 0 addr 0 0
  have recorded := (recordUncorrected_recorded s key 0x07 0 addr 0 0).rest
  unfold State.uncorrectable
  generalize s.recordUncorrected key 0x07 0 addr 0 0 = u at own recorded
  have poison : u.poison = s.poison := by rw [recorded]
  have marks := fun n => mem_poisonAt_line u base n
  rw [poison] at marks
  cases bit
  · exact ⟨by rw [recorded]; rfl, by rw [recorded]; rfl, by rw [recorded]; rfl, fun l h => poison ▸ h,
      fun h => absurd h (by decide), own⟩
  · exact ⟨by rw [recorded]; rfl, by rw [recorded]; rfl, by rw [recorded]; rfl, fun l h => (marks l).2 (.inl h),
      fun _ => (marks _).2 (.inr rfl), own⟩

theorem error_pool (s : State) (st l : Nat) : exec (.uncorrectableError { line := .pool st l, fixed := false }) s =
    .next (s.uncorrectable (Config.poolAt st + l) (stationBank st) (BitVec.ofNat 64 (l / 128 * 128))
      (inArea (s.station st).app1 (s.station st).app2 (s.station st).app3 (l / 8192))) := rfl

theorem error_spad (s : State) (cl l : Nat) : exec (.uncorrectableError { line := .spad cl l, fixed := false }) s =
    .next (s.uncorrectable (Config.spadAt cl + l) (clusterBank cl)
      (BitVec.ofNat 64 ((0x40000000 + cl * 0x400000 + l) / 128 * 128)) true) := rfl

theorem error_commons (s : State) (d l : Nat) : exec (.uncorrectableError { line := .commons d l, fixed := false }) s =
    .next (s.uncorrectable (Config.commonsAt d + l) (clusterBank (64 * d))
      (BitVec.ofNat 64 ((0x20000000 + d * 0x4000000 + l) / 128 * 128)) true) := rfl

theorem error_phys (s : State) (l : Nat) : exec (.uncorrectableError { line := .phys l, fixed := false }) s =
    .next (s.uncorrectable (Config.physAt l) (sliceBank (homeSlice l)) (BitVec.ofNat 64 (l / 128 * 128)) true) := rfl

/-- An error that was corrected is recorded only. -/
theorem error_spad_corrected (s : State) (cl l : Nat) : exec (.uncorrectableError { line := .spad cl l, fixed := true }) s =
    .next (s.record (clusterBank cl) corrected 0x07 0 (BitVec.ofNat 64 ((0x40000000 + cl * 0x400000 + l) / 128 * 128)) 0 0) := rfl

theorem error_phys_corrected (s : State) (l : Nat) : exec (.uncorrectableError { line := .phys l, fixed := true }) s =
    .next (s.record (sliceBank (homeSlice l)) corrected 0x07 0 (BitVec.ofNat 64 (l / 128 * 128)) 0 0) := rfl

/-! ## The end of a station (R363, R364) -/

/-- The notes of a station that ends, to those of some neighbours that it holds to be live. -/
def State.shutNotes (s : State) (st : Nat) (l : List (Nat × Nat)) : State :=
  l.foldl (fun s e => if ((s.station st).neighbour e.1).shut then s
    else s.later (.heartbeatReceived e.2 (opposite e.1) (s.heartbeat st e.1 true))) s

/-- They are all on the agenda, which alone changes. -/
theorem shutNotes_agenda (s : State) (st : Nat) (l : List (Nat × Nat)) :
    s.shutNotes st l = { s with agenda := (s.shutNotes st l).agenda } ∧ (∀ e, e ∈ s.agenda → e ∈ (s.shutNotes st l).agenda) ∧
    ∀ e ∈ l, ((s.station st).neighbour e.1).shut = false →
      ⟨s.now + 1, Instr.heartbeatReceived e.2 (opposite e.1) (s.heartbeat st e.1 true)⟩ ∈ (s.shutNotes st l).agenda := by
  induction l generalizing s with
  | nil => exact ⟨rfl, fun _ h => h, fun e he => absurd he (by simp)⟩
  | cons a r ih =>
    by_cases ha : ((s.station st).neighbour a.1).shut = true
    · have step : s.shutNotes st (a :: r) = s.shutNotes st r := congrArg (fun t => State.shutNotes t st r) (if_pos ha)
      rw [step]
      obtain ⟨rest, keeps, notes⟩ := ih s
      refine ⟨rest, keeps, fun e he hs => ?_⟩
      rcases List.mem_cons.1 he with rfl | he
      · rw [ha] at hs
        exact absurd hs (by decide)
      · exact notes e he hs
    · have step : s.shutNotes st (a :: r) =
          (s.later (.heartbeatReceived a.2 (opposite a.1) (s.heartbeat st a.1 true))).shutNotes st r :=
        congrArg (fun t => State.shutNotes t st r) (if_neg ha)
      rw [step]
      obtain ⟨rest, keeps, notes⟩ := ih (s.later (.heartbeatReceived a.2 (opposite a.1) (s.heartbeat st a.1 true)))
      refine ⟨rest, fun e he => keeps e (List.mem_append_left _ he), fun e he hs => ?_⟩
      rcases List.mem_cons.1 he with rfl | he
      · exact keeps _ (List.mem_append_right _ (List.mem_singleton.2 rfl))
      · exact notes e he hs

/-- A station that ends, with WHY (R364). -/
def Station.ends (x : Station) (why : Nat) : Station :=
  { x with shut := true, shutWhy := why, sealed := true, shutPeriod := x.epoch % 0x10000, shutFrom := x.epoch }

/-- What STATION KILL does to a live station (R364). -/
structure Killed (s t : State) (st why : Nat) : Prop where
  station : t.station st = (s.station st).ends why
  others : ∀ n, n ≠ st → t.station n = s.station n
  mem : t.mem = s.mem
  banks : t.banks = s.banks
  notes : ∀ e ∈ neighboursOf st, ((s.station st).neighbour e.1).shut = false →
    ∃ h : Heartbeat, h.shutNote = true ∧ h.valid = true ∧ ⟨s.now + 1, Instr.heartbeatReceived e.2 (opposite e.1) h⟩ ∈ t.agenda

theorem stationKill_eq (s : State) (st why : Nat) (h : (s.station st).shut = false) :
    s.stationKill st why = (s.modStation st (fun x => x.ends why)).shutNotes st (neighboursOf st) := if_neg (by rw [h]; decide)

theorem stationKill_live (s : State) (st why : Nat) (h : (s.station st).shut = false) : Killed s (s.stationKill st why) st why := by
  rw [stationKill_eq s st why h]
  obtain ⟨rest, -, notes⟩ := shutNotes_agenda (s.modStation st (fun x => x.ends why)) st (neighboursOf st)
  have stations : ∀ n, ((s.modStation st (fun x => x.ends why)).shutNotes st (neighboursOf st)).station n =
      (s.modStation st (fun x => x.ends why)).station n := fun n => by rw [rest]; rfl
  refine ⟨(stations st).trans (station_modStation_same ..), fun n hn => (stations n).trans (station_modStation_other _ _ _ _ hn),
    by rw [rest]; rfl, by rw [rest]; rfl,
    fun e he hs => ⟨(s.modStation st (fun x => x.ends why)).heartbeat st e.1 true, rfl, rfl, notes e he ?_⟩⟩
  rw [station_modStation_same]
  exact hs

theorem stationKill_shut (s : State) (st why : Nat) (h : (s.station st).shut = true) : s.stationKill st why = s := if_pos h

/-- A core state error records its kind in the station's own bank, and ends the station (R363). -/
theorem coreStateError_live (s : State) (st : Nat) (h : (s.station st).shut = false) : ∃ t, exec (.coreStateError st) s = .next t ∧
    Killed (s.recordUncorrected (stationBank st) 0x08 0 0 0 0) t st 2 := by
  have recorded := (recordUncorrected_recorded s (stationBank st) 0x08 0 0 0 0).rest
  refine ⟨_, rfl, stationKill_live _ _ _ ?_⟩
  rw [recorded]
  exact h

/-! ## The self-test and the appeals (R370, R373, R374) -/

theorem shutTest_nothing (s : State) (st : Nat) (h : (s.station st).shut = false ∨ (s.station st).shutWhy = 5) : s.shutTest st = s := by
  rcases h with h | h <;> simp [State.shutTest, h]

section
variable (s : State) (st : Nat) (hs : (s.station st).shut = true) (hw : (s.station st).shutWhy ≠ 5)
include hs hw

/-- After two appeals the station is locked. -/
theorem shutTest_locks (h : 2 ≤ (s.station st).appeals.length) :
    s.shutTest st = s.modStation st (fun y => { y with shutWhy := 5 }) := by
  simp [State.shutTest, hs, hw, h]

/-- Before that, its self-test and its next appeal start. -/
theorem shutTest_starts (h : (s.station st).appeals.length < 2) :
    let t := s.shutTest st
    t.station st = { s.station st with testing := true, appealing := false,
                                       appeals := (s.station st).appeals ++ [s.clock (dieOf st)] } ∧
    t.mem = s.mem ∧ (∀ n, n ≠ st → t.station n = s.station n) ∧
    t.agenda = s.agenda.filter (fun e => match e.ev with | .selfTestDone n _ => n != st | _ => true) ++
      [⟨s.now + 2 ^ 22, .selfTestDone st true⟩] ++ [⟨s.now + 4320000000000, .appealAgeing st⟩] := by
  have test : (!(s.station st).shut || decide ((s.station st).shutWhy = 5)) = false := by simp [hs, hw]
  simp only [State.shutTest, test, Bool.false_eq_true, if_false, if_neg (show ¬ 2 ≤ (s.station st).appeals.length by omega)]
  refine ⟨?_, rfl, fun n hn => ?_, rfl⟩
  · rw [station_laterAt, station_laterAt, station_modStation_same]
    rfl
  · rw [station_laterAt, station_laterAt, station_modStation_other _ _ _ _ hn]
    rfl

end

/-- The step of a station's own self-test, among all steps. -/
theorem selfTest_kept (e : Instr) (st : Nat) : (match e with | .selfTestDone n _ => n != st | _ => true) = true ↔
    ∀ b, e ≠ .selfTestDone st b := by
  cases e with
  | selfTestDone n b => simp [bne_iff_ne]
  | _ => simp

section
variable (s : State) (st : Nat) (pass : Bool)

theorem selfTestDone_idle (h : (s.station st).testing = false) : exec (.selfTestDone st pass) s = .next s := by
  change execSelfTestDone st pass s = _
  simp [execSelfTestDone, h]

variable (h : (s.station st).testing = true)
include h

theorem selfTestDone_early (hc : s.clock (dieOf st) < (s.station st).appeals.getLastD 0 + 2 ^ 22) :
    exec (.selfTestDone st pass) s = .next s.wait := by
  change execSelfTestDone st pass s = _
  simp only [execSelfTestDone, h, Bool.not_true, Bool.false_eq_true, if_false, if_pos hc]

/-- The end of the self-test: its record, and a station that is clear and appeals, or one that is as before. -/
theorem selfTestDone_ends (hc : (s.station st).appeals.getLastD 0 + 2 ^ 22 ≤ s.clock (dieOf st)) :
    exec (.selfTestDone st pass) s =
      let t := s.record (clusterBank (clusterOf st)) deferred 0x0B (if pass then 1 else 2) (BitVec.ofNat 64 (rankOf st)) 0 0
      .next (if pass then (t.clearAt (Config.poolAt st) (8192 * (s.station st).app1)).modStation st Station.cleared
        else t.modStation st (fun y => { y with testing := false })) := by
  change execSelfTestDone st pass s = _
  simp only [execSelfTestDone, h, Bool.not_true, Bool.false_eq_true, if_false, if_neg (show ¬ _ < _ from Nat.not_lt.2 hc)]
  cases pass <;> rfl

end

/-- The holders of a station that is clear. -/
theorem cleared_core (x : Station) (c : Core) : x.cleared.cores[coreIx c] = Holder.reset := by
  simp [Station.cleared]

/-! ## Power gating (R311) -/

section
variable (s : State) (st : Nat)

theorem powerGating_busy (h : s.quiescent st = false) : exec (.powerGating st) s = .next s.wait := by
  change execPowerGating st s = _
  simp [execPowerGating, h]

variable (h : s.quiescent st = true) (hl : (s.station st).l1 = [])
include h hl

theorem powerGating_gates (ho : ∀ e ∈ s.owners, e.2 ≠ st) :
    exec (.powerGating st) s = .next (s.modStation st (fun y => { y with gated := true })) := by
  have none : s.owners.any (fun e => e.2 == st) = false := by simpa using ho
  change execPowerGating st s = _
  simp only [execPowerGating, h, hl, none, Bool.not_true, Bool.false_eq_true, if_false, List.foldl_nil]

theorem powerGating_owes (ho : ∃ e ∈ s.owners, e.2 = st) : exec (.powerGating st) s = .next s.wait := by
  have some : s.owners.any (fun e => e.2 == st) = true := by simpa using ho
  change execPowerGating st s = _
  simp only [execPowerGating, h, hl, some, Bool.not_true, Bool.false_eq_true, if_false, List.foldl_nil, if_true, List.isEmpty_nil]

end

/-! ## The ageing of appeals (R370) -/

section
variable (s : State) (st : Nat)

theorem appealAgeing_old (h : ∃ a ∈ (s.station st).appeals, a + 4320000000000 < s.clock (dieOf st)) :
    exec (.appealAgeing st) s = .next (s.modStation st (fun y =>
      { y with appeals := y.appeals.filter (fun a => !decide (a + 4320000000000 < s.clock (dieOf st))) })) := by
  have old : (s.station st).appeals.any (fun a => decide (a + 4320000000000 < s.clock (dieOf st))) = true := by simpa using h
  change execAppealAgeing st s = _
  simp only [execAppealAgeing, old, if_true]

theorem appealAgeing_young (h : ∀ a ∈ (s.station st).appeals, s.clock (dieOf st) ≤ a + 4320000000000) :
    exec (.appealAgeing st) s = if (s.station st).appeals = [] then .next s else .next s.wait := by
  have young : (s.station st).appeals.any (fun a => decide (a + 4320000000000 < s.clock (dieOf st))) = false := by simpa using h
  change execAppealAgeing st s = _
  simp only [execAppealAgeing, young, Bool.false_eq_true, if_false, List.isEmpty_iff]

end

/-- Settles O48: each event by its cases. -/
theorem errorAndAppealEvents : Obligations.ErrorAndAppealEvents := by
  intro s st line pass x now mine
  refine ⟨?_, fun cl l e => e ▸ error_spad_corrected s cl l, fun l e => e ▸ error_phys_corrected s l, fun hst hlive why i hi => ?_,
    fun h => congrArg _ (stationKill_shut s st 4 h), fun h => congrArg _ (shutTest_nothing s st h), fun hs hw => ⟨fun h => ?_, fun h => ?_⟩,
    selfTestDone_idle s st pass, selfTestDone_early s st pass, fun ht hc => ?_, appealAgeing_old s st, fun h hn => ?_, fun h => ?_,
    powerGating_busy s st, powerGating_gates s st, powerGating_owes s st⟩
  · cases line with
    | pool n l =>
      obtain ⟨memory, stations, agenda, keeps, -, -⟩ := uncorrectable_marked s _ _ _ _
      exact ⟨_, error_pool s n l, memory, stations, agenda, keeps, nofun, nofun, nofun⟩
    | spad cl l =>
      obtain ⟨memory, stations, agenda, keeps, marks, bank⟩ := uncorrectable_marked s _ _ _ _
      exact ⟨_, error_spad s cl l, memory, stations, agenda, keeps, fun _ _ e => by cases e; exact ⟨marks rfl, bank⟩, nofun, nofun⟩
    | commons d l =>
      obtain ⟨memory, stations, agenda, keeps, marks, -⟩ := uncorrectable_marked s _ _ _ _
      exact ⟨_, error_commons s d l, memory, stations, agenda, keeps, nofun, fun _ _ e => by cases e; exact marks rfl, nofun⟩
    | phys l =>
      obtain ⟨memory, stations, agenda, keeps, marks, bank⟩ := uncorrectable_marked s _ _ _ _
      exact ⟨_, error_phys s l, memory, stations, agenda, keeps, nofun, nofun, fun _ e => by cases e; exact ⟨marks rfl, bank⟩⟩
  · rcases hi with ⟨rfl, rfl⟩ | ⟨rfl, rfl⟩
    · have recorded := (recordUncorrected_recorded s (stationBank st) 0x08 0 0 0 0).rest
      have own := recordUncorrected_bank s (stationBank st) 0x08 0 0 0 0
      obtain ⟨t, ht, killed⟩ := coreStateError_live s st hlive
      generalize s.recordUncorrected (stationBank st) 0x08 0 0 0 0 = u at recorded own killed
      obtain ⟨station, others, memory, banks, notes⟩ := killed
      have same : ∀ n, u.station n = s.station n := fun n => by rw [recorded]; rfl
      have now : u.now = s.now := by rw [recorded]
      rw [same] at station notes
      rw [now] at notes
      refine ⟨t, ht, by rw [station]; rfl, by rw [station]; rfl, by rw [station]; rfl, by rw [station]; rfl, ?_,
        fun n hn => (others n hn).trans (same n), fun _ => ?_, notes⟩
      · rw [memory, recorded]
      · rw [← own, State.bank, banks]
        rfl
    · obtain ⟨station, others, memory, banks, notes⟩ := stationKill_live s st 4 hlive
      exact ⟨_, rfl, by rw [station]; rfl, by rw [station]; rfl, by rw [station]; rfl, by rw [station]; rfl, memory, others,
        fun h => absurd h (by decide), notes⟩
  · exact congrArg _ (shutTest_locks s st hs hw h)
  · obtain ⟨station, memory, others, agenda⟩ := shutTest_starts s st hs hw h
    refine ⟨_, rfl, station, memory, others, fun e => ?_⟩
    rw [agenda, List.mem_append, List.mem_append, List.mem_filter, selfTest_kept, List.mem_singleton, List.mem_singleton, or_assoc]
  · have ends := selfTestDone_ends s st pass ht hc
    cases pass
    · simp only [Bool.false_eq_true, if_false] at ends
      exact ⟨_, ends, rfl, by simp, by simp [x], fun h => absurd h (by decide), fun _ => ⟨rfl, by simp [x]⟩⟩
    · simp only [if_true] at ends
      refine ⟨_, ends, rfl, by simp [Station.cleared], by simp [Station.cleared, x], fun _ => ⟨?_, ?_, ?_, fun c => ?_⟩,
        fun h => absurd h (by decide)⟩
      · simp [Station.cleared]
      · simp [Station.cleared]
      · simp [Station.cleared]
      · rw [State.holder, station_modStation_same]
        exact cleared_core ..
  · rw [appealAgeing_young s st h, if_neg hn]
  · have none : (s.station st).appeals = [] := h
    rw [appealAgeing_young s st (by simp [none]), if_pos none]

end Sys2Proof.Machine
end

section
/-! PROOFS. The debugger's halt (R34, R159). The state below shows where the save of one context ends: a push that it makes final sends
whatever the holder's stores have queued (R238), and what that is may reach another holder. -/
namespace Sys2Proof.Machine

/-- The halt of some holders that may be saved: each context is saved, and its holder is HALTED. -/
def State.haltAll (s : State) (ws : List Who) : State :=
  ws.foldl (fun t w => (t.saveContext w).modHolder w (fun h => { h with state := .halted ((s.holder w).state == .parked) })) s

theorem debugHalt_halts (s : State) (st : Nat) (hh : (s.station st).halted = true)
    (hr : (s.holdersIn st (fun x => x == .run || x == .parked)).all s.saveReady = true) :
    exec (.debugHalt st) s = .next (s.haltAll (s.holdersIn st (fun x => x == .run || x == .parked))) := by
  change execDebugHalt st s = _
  simp only [execDebugHalt, hh, hr, Bool.not_true, Bool.false_eq_true, if_false]
  rfl

/-- A load of slot 1 of station 0 that is parked at a slice. -/
def parkedLoad : AccPart :=
  { strayFetch with acc := { strayFetch.acc with who := { st := 0, core := .slot1 } }, kind := .load, addr := 0x2000000000, place := .far 0 }

/-- Slot 1 of station 0, with that load unsettled and a push through an output stream that waits for it; slot 0's fetch is queued
behind a store. -/
def pushingHolder : Holder :=
  { fetchingHolder with
    unsettled := [{ op := 0, pc := 0xC000, addr := 0x2000000000, kind := .scalar 1 8 false, qual := false, left := 1, buf := [], trap := none,
                    parked := 1, snap := default, since := 0, checks := [], pushes := [{ port := 0, idx := 0, pc := 0xC000, val := 0 }] }] }

/-- That slot next to slot 0, which runs its task, in a station that is to be halted and whose rank 1 is SHUT. -/
def halting : State :=
  ((({ State.reset with parked := [{ part := parkedLoad, slice := 0, at_ := 0, walk := false }] } : State).modStation 0 (fun x =>
    { x with ranks := [(1, 0x4001)], halted := true })).setHolder { st := 0, core := .slot0 } { Holder.reset with state := .run, pc := 0xC000 }
    ).setHolder { st := 0, core := .slot1 } pushingHolder

theorem halting_holders : halting.holdersIn 0 (fun x => x == .run || x == .parked) =
    [{ st := 0, core := .slot0 }, { st := 0, core := .slot1 }] := by decide +kernel

theorem halting_ready : (halting.holdersIn 0 (fun x => x == .run || x == .parked)).all halting.saveReady = true := by decide +kernel

theorem halting_frees : ((halting.haltAll [{ st := 0, core := .slot0 }, { st := 0, core := .slot1 }]).holder { st := 0, core := .slot0 }).state =
    .free := by decide +kernel

/-- Refutes O60: the statement says of every state that a halt leaves each holder that ran or was parked HALTED. In `halting` the save
of slot 1's context sends the fetch, which fails; slot 0, which is HALTED already, takes its trap without a vector, and is FREE. -/
theorem not_registerEvents : ¬ Obligations.RegisterEvents := by
  intro h
  obtain ⟨-, -, -, -, -, -, -, -, -, -, -, -, -, -, -, -, -, -, -, -, -, -, -, -, debugger⟩ :=
    h halting 0 0 0 0 { st := 0, core := .slot0 } [] 0 0 false
  obtain ⟨-, -, halts, -, -⟩ := debugger
  have ready := halting_ready
  obtain ⟨t, steps, halted, -⟩ := halts rfl (List.all_eq_true.1 ready)
  rw [debugHalt_halts halting 0 rfl ready, halting_holders] at steps
  injection steps with steps
  rw [← steps] at halted
  have slot0 : ({ st := 0, core := .slot0 } : Who) ∈ halting.holdersIn 0 (fun x => x == .run || x == .parked) := by
    rw [halting_holders]
    exact List.mem_cons_self
  have state := halted _ slot0
  rw [halting_frees] at state
  exact absurd state (by decide)

end Sys2Proof.Machine
end

section
/-! SUPPORT. The round trip of the encoder (R42 to R71): a lemma for each layout of a word that several instructions share, which
takes what the map of R46 answers for a word by its fields, and the instructions that have a layout of their own. -/
namespace Sys2Proof

@[simp] theorem put_getElem_above {n : Nat} (x : BitVec n) (h : BitVec 32) (s : Nat) (hs : s < 32) (hn : n ≤ s) :
    (put x h)[s] = h[s - n] := by
  rw [← BitVec.getLsbD_eq_getElem, ← BitVec.getLsbD_eq_getElem, put_bit_above x h s hn hs]

@[simp] theorem put_getElem_below {n : Nat} (x : BitVec n) (h : BitVec 32) (s : Nat) (hs : s < 32) (hn : s < n) (h32 : n ≤ 32) :
    (put x h)[s] = x[s] := by
  rw [← BitVec.getLsbD_eq_getElem, ← BitVec.getLsbD_eq_getElem, put_bit_below x h s hn h32]

/-! ## Shared layouts -/

/-- The layout of two registers, three marks and an 8-bit operation (ALU). -/
theorem regs_decodes {M : BitVec 32} {op : BitVec 8} {f : Reg → Reg → Reg → Bool → Bool → Bool → Instr}
    (hf : ∀ w : BitVec 32, w.extractLsb' 26 6 = M.extractLsb' 0 6 → w.extractLsb' 0 8 = op →
      decodeMap w = some (f (w.extractLsb' 21 5) (w.extractLsb' 16 5) (w.extractLsb' 11 5) (w.getLsbD 10) (w.getLsbD 9)
        (w.getLsbD 8)))
    (d a b : Reg) (ka kb w : Bool) :
    decodeMap (M |> put d |> put a |> put b |> put (BitVec.ofBool ka) |> put (BitVec.ofBool kb) |> put (BitVec.ofBool w)
      |> put op) = some (f d a b ka kb w) := by
  simp [hf, put_above, put_below]

/-- The layout of one register and an 8-bit operation (ALU). -/
theorem unary_decodes {M : BitVec 32} {op : BitVec 8} {f : Reg → Reg → Bool → Instr}
    (hf : ∀ w : BitVec 32, w.extractLsb' 26 6 = M.extractLsb' 0 6 → w.extractLsb' 0 8 = op →
      (isZero w 11 5 && isZero w 8 2) = true →
      decodeMap w = some (f (w.extractLsb' 21 5) (w.extractLsb' 16 5) (w.getLsbD 10)))
    (d a : Reg) (ka : Bool) :
    decodeMap (M |> put d |> put a |> put 0#5 |> put (BitVec.ofBool ka) |> put 0#2 |> put op) = some (f d a ka) := by
  simp [hf, isZero, put_above, put_below]

/-- The layout of a register and a width (EXTS, EXTZ). -/
theorem extend_decodes {M : BitVec 32} {op : BitVec 8} {f : Reg → Reg → Reg → Bool → Bool → Instr}
    (hf : ∀ w : BitVec 32, w.extractLsb' 26 6 = M.extractLsb' 0 6 → w.extractLsb' 0 8 = op → isZero w 8 1 = true →
      decodeMap w = some (f (w.extractLsb' 21 5) (w.extractLsb' 16 5) (w.extractLsb' 11 5) (w.getLsbD 10) (w.getLsbD 9)))
    (d a b : Reg) (ka kb : Bool) :
    decodeMap (M |> put d |> put a |> put b |> put (BitVec.ofBool ka) |> put (BitVec.ofBool kb) |> put 0#1 |> put op) =
      some (f d a b ka kb) := by
  simp [hf, isZero, put_above, put_below]

/-- The layout of two registers and a rounding field (FPU). -/
theorem rounded_decodes {M : BitVec 32} {op : BitVec 5} {f : Reg → Reg → Reg → Bool → Bool → Bool → Rm → Instr}
    (hf : ∀ (w : BitVec 32) (rm : Rm), w.extractLsb' 26 6 = M.extractLsb' 0 6 → w.extractLsb' 0 5 = op →
      rmOf (w.extractLsb' 5 3) = some rm →
      decodeMap w = some (f (w.extractLsb' 21 5) (w.extractLsb' 16 5) (w.extractLsb' 11 5) (w.getLsbD 10) (w.getLsbD 9)
        (w.getLsbD 8) rm))
    (d a b : Reg) (ka kb p : Bool) (rm : Rm) :
    decodeMap (M |> put d |> put a |> put b |> put (BitVec.ofBool ka) |> put (BitVec.ofBool kb) |> put (BitVec.ofBool p)
      |> put (rmBits rm) |> put op) = some (f d a b ka kb p rm) := by
  rw [hf _ rm] <;> simp [rmOf_bits, put_above, put_below]

/-- The layout of two registers and no rounding (FPU). -/
theorem unrounded_decodes {M : BitVec 32} {op : BitVec 5} {f : Reg → Reg → Reg → Bool → Bool → Bool → Instr}
    (hf : ∀ w : BitVec 32, w.extractLsb' 26 6 = M.extractLsb' 0 6 → w.extractLsb' 0 5 = op → isZero w 5 3 = true →
      decodeMap w = some (f (w.extractLsb' 21 5) (w.extractLsb' 16 5) (w.extractLsb' 11 5) (w.getLsbD 10) (w.getLsbD 9)
        (w.getLsbD 8)))
    (d a b : Reg) (ka kb p : Bool) :
    decodeMap (M |> put d |> put a |> put b |> put (BitVec.ofBool ka) |> put (BitVec.ofBool kb) |> put (BitVec.ofBool p)
      |> put 0#3 |> put op) = some (f d a b ka kb p) := by
  simp [hf, isZero, put_above, put_below]

/-- The layout of a conversion (FPU). -/
theorem fcvt_decodes {M : BitVec 32} {op : BitVec 5} {f : Reg → Reg → Bool → Bool → Bool → Rm → Instr}
    (hf : ∀ (w : BitVec 32) (rm : Rm), w.extractLsb' 26 6 = M.extractLsb' 0 6 → w.extractLsb' 0 5 = op →
      (isZero w 12 4 && isZero w 9 1) = true → rmOf (w.extractLsb' 5 3) = some rm →
      decodeMap w = some (f (w.extractLsb' 21 5) (w.extractLsb' 16 5) (w.getLsbD 11) (w.getLsbD 10) (w.getLsbD 8) rm))
    (d a : Reg) (t ka p : Bool) (rm : Rm) :
    decodeMap (M |> put d |> put a |> put 0#4 |> put (BitVec.ofBool t) |> put (BitVec.ofBool ka) |> put 0#1
      |> put (BitVec.ofBool p) |> put (rmBits rm) |> put op) = some (f d a t ka p rm) := by
  rw [hf _ rm] <;> simp [isZero, rmOf_bits, put_above, put_below]

/-- The layout of a register and a 15-bit immediate. -/
theorem imm15_decodes {M : BitVec 32} {f : Reg → Reg → Bool → BitVec 15 → Instr}
    (hf : ∀ w : BitVec 32, w.extractLsb' 26 6 = M.extractLsb' 0 6 →
      decodeMap w = some (f (w.extractLsb' 21 5) (w.extractLsb' 16 5) (w.getLsbD 15) (w.extractLsb' 0 15)))
    (d a : Reg) (ka : Bool) (i : BitVec 15) :
    decodeMap (M |> put d |> put a |> put (BitVec.ofBool ka) |> put i) = some (f d a ka i) := by
  simp [hf, put_above, put_below]

/-- The layout of a shift by an immediate. -/
theorem shift_decodes {M : BitVec 32} {op : BitVec 2} {f : Reg → Reg → Bool → Bool → BitVec 6 → Instr}
    (hf : ∀ w : BitVec 32, w.extractLsb' 26 6 = M.extractLsb' 0 6 → w.extractLsb' 13 2 = op → isZero w 7 6 = true →
      decodeMap w = some (f (w.extractLsb' 21 5) (w.extractLsb' 16 5) (w.getLsbD 15) (w.getLsbD 6) (w.extractLsb' 0 6)))
    (d a : Reg) (ka w : Bool) (n : BitVec 6) :
    decodeMap (M |> put d |> put a |> put (BitVec.ofBool ka) |> put op |> put 0#6 |> put (BitVec.ofBool w) |> put n) =
      some (f d a ka w n) := by
  simp [hf, isZero, put_above, put_below]

/-- The layout of a 21-bit immediate. -/
theorem imm21_decodes {M : BitVec 32} {f : Reg → BitVec 21 → Instr}
    (hf : ∀ w : BitVec 32, w.extractLsb' 26 6 = M.extractLsb' 0 6 →
      decodeMap w = some (f (w.extractLsb' 21 5) (w.extractLsb' 0 21)))
    (d : Reg) (i : BitVec 21) :
    decodeMap (M |> put d |> put i) = some (f d i) := by
  simp [hf, put_above, put_below]

/-- The layout of a load or store with its qualifier. -/
theorem access_decodes {M : BitVec 32} {f : Reg → Reg → Bool → Qual → BitVec 13 → Instr}
    (hf : ∀ w : BitVec 32, w.extractLsb' 26 6 = M.extractLsb' 0 6 →
      decodeMap w = some (f (w.extractLsb' 21 5) (w.extractLsb' 16 5) (w.getLsbD 15) (qualOf (w.extractLsb' 13 2))
        (w.extractLsb' 0 13)))
    (d a : Reg) (k : Bool) (q : Qual) (o : BitVec 13) :
    decodeMap (M |> put d |> put a |> put (BitVec.ofBool k) |> put (qualBits q) |> put o) = some (f d a k q o) := by
  simp [hf, qualOf_bits, put_above, put_below]

/-- The layout of a branch on two registers. -/
theorem branch_decodes {M : BitVec 32} {op : BitVec 3} {f : Reg → Reg → Bool → Bool → BitVec 11 → Instr}
    (hf : ∀ w : BitVec 32, w.extractLsb' 26 6 = M.extractLsb' 0 6 → w.extractLsb' 23 3 = op →
      decodeMap w = some (f (w.extractLsb' 18 5) (w.extractLsb' 13 5) (w.getLsbD 12) (w.getLsbD 11) (w.extractLsb' 0 11)))
    (a b : Reg) (ka kb : Bool) (o : BitVec 11) :
    decodeMap (M |> put op |> put a |> put b |> put (BitVec.ofBool ka) |> put (BitVec.ofBool kb) |> put o) =
      some (f a b ka kb o) := by
  simp [hf, put_above, put_below]

/-- The layout of two sources, lane by lane. -/
theorem lanes_decodes {M : BitVec 32} {op : BitVec 5} {f : Reg → Reg → Reg → Ew → MReg → Bool → Instr}
    (hf : ∀ w : BitVec 32, w.extractLsb' 26 6 = M.extractLsb' 0 6 → w.extractLsb' 0 5 = op →
      decodeMap w = some (f (w.extractLsb' 21 5) (w.extractLsb' 16 5) (w.extractLsb' 11 5) (ewOf (w.extractLsb' 9 2))
        (w.extractLsb' 6 3) (w.getLsbD 5)))
    (d a b : Reg) (e : Ew) (m : MReg) (k : Bool) :
    decodeMap (M |> put d |> put a |> put b |> put (ewBits e) |> put m |> put (BitVec.ofBool k) |> put op) =
      some (f d a b e m k) := by
  simp [hf, ewOf_bits, put_above, put_below]

/-- The layout of two sources into a mask register. -/
theorem laneTest_decodes {M : BitVec 32} {op : BitVec 5} {f : MReg → Reg → Reg → Ew → MReg → Bool → Instr}
    (hf : ∀ w : BitVec 32, w.extractLsb' 26 6 = M.extractLsb' 0 6 → w.extractLsb' 0 5 = op → isZero w 24 2 = true →
      decodeMap w = some (f (w.extractLsb' 21 3) (w.extractLsb' 16 5) (w.extractLsb' 11 5) (ewOf (w.extractLsb' 9 2))
        (w.extractLsb' 6 3) (w.getLsbD 5)))
    (d : MReg) (a b : Reg) (e : Ew) (m : MReg) (k : Bool) :
    decodeMap (M |> put 0#2 |> put d |> put a |> put b |> put (ewBits e) |> put m |> put (BitVec.ofBool k) |> put op) =
      some (f d a b e m k) := by
  simp [hf, ewOf_bits, isZero, put_above, put_below]

/-- The layout of one source, lane by lane. -/
theorem laneUnary_decodes {M : BitVec 32} {op : BitVec 5} {f : Reg → Reg → Ew → MReg → Bool → Instr}
    (hf : ∀ w : BitVec 32, w.extractLsb' 26 6 = M.extractLsb' 0 6 → w.extractLsb' 0 5 = op → isZero w 11 5 = true →
      decodeMap w = some (f (w.extractLsb' 21 5) (w.extractLsb' 16 5) (ewOf (w.extractLsb' 9 2)) (w.extractLsb' 6 3) (w.getLsbD 5)))
    (d a : Reg) (e : Ew) (m : MReg) (k : Bool) :
    decodeMap (M |> put d |> put a |> put 0#5 |> put (ewBits e) |> put m |> put (BitVec.ofBool k) |> put op) =
      some (f d a e m k) := by
  simp [hf, ewOf_bits, isZero, put_above, put_below]

/-- The layout of a dot product. -/
theorem dot4_decodes {M : BitVec 32} {op : BitVec 5} {f : Reg → Reg → Reg → Bool → MReg → Bool → Instr}
    (hf : ∀ w : BitVec 32, w.extractLsb' 26 6 = M.extractLsb' 0 6 → w.extractLsb' 0 5 = op → isZero w 10 1 = true →
      decodeMap w = some (f (w.extractLsb' 21 5) (w.extractLsb' 16 5) (w.extractLsb' 11 5) (w.getLsbD 9) (w.extractLsb' 6 3)
        (w.getLsbD 5)))
    (d a b : Reg) (e : Bool) (m : MReg) (k : Bool) :
    decodeMap (M |> put d |> put a |> put b |> put 0#1 |> put (BitVec.ofBool e) |> put m |> put (BitVec.ofBool k) |> put op) =
      some (f d a b e m k) := by
  simp [hf, isZero, put_above, put_below]

/-- The layout of a reduction or scan. -/
theorem reduce_decodes {M : BitVec 32} {op : BitVec 5} {f : Reg → Reg → RedOp → Ew → MReg → Bool → Instr}
    (hf : ∀ w : BitVec 32, w.extractLsb' 26 6 = M.extractLsb' 0 6 → w.extractLsb' 0 5 = op → isZero w 14 2 = true →
      decodeMap w = some (f (w.extractLsb' 21 5) (w.extractLsb' 16 5) (redOf (w.extractLsb' 11 3)) (ewOf (w.extractLsb' 9 2))
        (w.extractLsb' 6 3) (w.getLsbD 5)))
    (d a : Reg) (o : RedOp) (e : Ew) (m : MReg) (k : Bool) :
    decodeMap (M |> put d |> put a |> put 0#2 |> put (redBits o) |> put (ewBits e) |> put m |> put (BitVec.ofBool k) |> put op) =
      some (f d a o e m k) := by
  simp [hf, ewOf_bits, redOf_bits, isZero, put_above, put_below]

/-- The layout of a mask register from a register. -/
theorem maskFromReg_decodes {M : BitVec 32} {op : BitVec 5} {f : MReg → Reg → MReg → Bool → Instr}
    (hf : ∀ w : BitVec 32, w.extractLsb' 26 6 = M.extractLsb' 0 6 → w.extractLsb' 0 5 = op →
      (isZero w 24 2 && isZero w 9 7) = true →
      decodeMap w = some (f (w.extractLsb' 21 3) (w.extractLsb' 16 5) (w.extractLsb' 6 3) (w.getLsbD 5)))
    (d : MReg) (a : Reg) (m : MReg) (k : Bool) :
    decodeMap (M |> put 0#2 |> put d |> put a |> put 0#7 |> put m |> put (BitVec.ofBool k) |> put op) = some (f d a m k) := by
  simp [hf, isZero, put_above, put_below]

/-- The layout of two mask registers into one. -/
theorem maskOp_decodes {M : BitVec 32} {op : BitVec 5} {f : MReg → MReg → MReg → MReg → Bool → Instr}
    (hf : ∀ w : BitVec 32, w.extractLsb' 26 6 = M.extractLsb' 0 6 → w.extractLsb' 0 5 = op →
      (isZero w 24 2 && isZero w 19 2 && isZero w 14 2 && isZero w 9 2) = true →
      decodeMap w = some (f (w.extractLsb' 21 3) (w.extractLsb' 16 3) (w.extractLsb' 11 3) (w.extractLsb' 6 3) (w.getLsbD 5)))
    (d a b m : MReg) (k : Bool) :
    decodeMap (M |> put 0#2 |> put d |> put 0#2 |> put a |> put 0#2 |> put b |> put 0#2 |> put m |> put (BitVec.ofBool k)
      |> put op) = some (f d a b m k) := by
  simp [hf, isZero, put_above, put_below]

/-- The layout of a mask register into a scalar one. -/
theorem maskToReg_decodes {M : BitVec 32} {op : BitVec 5} {f : Reg → MReg → Bool → Instr}
    (hf : ∀ w : BitVec 32, w.extractLsb' 26 6 = M.extractLsb' 0 6 → w.extractLsb' 0 5 = op →
      (isZero w 19 2 && isZero w 6 10) = true →
      decodeMap w = some (f (w.extractLsb' 21 5) (w.extractLsb' 16 3) (w.getLsbD 5)))
    (d : Reg) (a : MReg) (k : Bool) :
    decodeMap (M |> put d |> put 0#2 |> put a |> put 0#10 |> put (BitVec.ofBool k) |> put op) = some (f d a k) := by
  simp [hf, isZero, put_above, put_below]

/-- The layout of an engine command of two registers. -/
theorem engTwo_decodes {M : BitVec 32} {u : BitVec 3} {op : BitVec 8} {f : Reg → Reg → Bool → Bool → Instr}
    (hf : ∀ w : BitVec 32, w.extractLsb' 26 6 = M.extractLsb' 0 6 → w.extractLsb' 23 3 = u → w.extractLsb' 15 8 = op →
      isZero w 0 3 = true →
      decodeMap w = some (f (w.extractLsb' 10 5) (w.extractLsb' 5 5) (w.getLsbD 4) (w.getLsbD 3)))
    (a b : Reg) (ka kb : Bool) :
    decodeMap (M |> put u |> put op |> put a |> put b |> put (BitVec.ofBool ka) |> put (BitVec.ofBool kb) |> put 0#3) =
      some (f a b ka kb) := by
  simp [hf, isZero, put_above, put_below]

/-- The layout of an engine command that reads back. -/
theorem engRead_decodes {M : BitVec 32} {u : BitVec 3} {op : BitVec 8} {f : Reg → Reg → Bool → Instr}
    (hf : ∀ w : BitVec 32, w.extractLsb' 26 6 = M.extractLsb' 0 6 → w.extractLsb' 23 3 = u → w.extractLsb' 15 8 = op →
      isZero w 0 4 = true →
      decodeMap w = some (f (w.extractLsb' 10 5) (w.extractLsb' 5 5) (w.getLsbD 4)))
    (a b : Reg) (ka : Bool) :
    decodeMap (M |> put u |> put op |> put a |> put b |> put (BitVec.ofBool ka) |> put 0#4) = some (f a b ka) := by
  simp [hf, isZero, put_above, put_below]

/-- The layout of an engine command of one register. -/
theorem engOne_decodes {M : BitVec 32} {u : BitVec 3} {op : BitVec 8} {f : Reg → Bool → Instr}
    (hf : ∀ w : BitVec 32, w.extractLsb' 26 6 = M.extractLsb' 0 6 → w.extractLsb' 23 3 = u → w.extractLsb' 15 8 = op →
      (isZero w 5 5 && isZero w 0 4) = true →
      decodeMap w = some (f (w.extractLsb' 10 5) (w.getLsbD 4)))
    (a : Reg) (ka : Bool) :
    decodeMap (M |> put u |> put op |> put a |> put 0#5 |> put (BitVec.ofBool ka) |> put 0#4) = some (f a ka) := by
  simp [hf, isZero, put_above, put_below]

/-- The layout of an engine command with a destination alone. -/
theorem engPop_decodes {M : BitVec 32} {u : BitVec 3} {op : BitVec 8} {f : Reg → Instr}
    (hf : ∀ w : BitVec 32, w.extractLsb' 26 6 = M.extractLsb' 0 6 → w.extractLsb' 23 3 = u → w.extractLsb' 15 8 = op →
      (isZero w 10 5 && isZero w 0 5) = true →
      decodeMap w = some (f (w.extractLsb' 5 5)))
    (b : Reg) :
    decodeMap (M |> put u |> put op |> put 0#5 |> put b |> put 0#5) = some (f b) := by
  simp [hf, isZero, put_above, put_below]

/-- The layout of an engine command with a 3-bit field. -/
theorem engTile_decodes {M : BitVec 32} {u : BitVec 3} {op : BitVec 8} {f : Reg → Reg → Bool → Bool → MReg → Instr}
    (hf : ∀ w : BitVec 32, w.extractLsb' 26 6 = M.extractLsb' 0 6 → w.extractLsb' 23 3 = u → w.extractLsb' 15 8 = op →
      decodeMap w = some (f (w.extractLsb' 10 5) (w.extractLsb' 5 5) (w.getLsbD 4) (w.getLsbD 3) (w.extractLsb' 0 3)))
    (a b : Reg) (ka kb : Bool) (t : MReg) :
    decodeMap (M |> put u |> put op |> put a |> put b |> put (BitVec.ofBool ka) |> put (BitVec.ofBool kb) |> put t) =
      some (f a b ka kb t) := by
  simp [hf, put_above, put_below]

/-- The layout of an atomic that returns. -/
theorem atomic_decodes {M : BitVec 32} {op : BitVec 5} {f : Reg → Reg → Reg → Bool → Bool → Bool → Bool → Bool → Instr}
    (hf : ∀ w : BitVec 32, w.extractLsb' 26 6 = M.extractLsb' 0 6 → w.extractLsb' 0 5 = op → isZero w 8 1 = true →
      decodeMap w = some (f (w.extractLsb' 21 5) (w.extractLsb' 16 5) (w.extractLsb' 11 5) (w.getLsbD 10) (w.getLsbD 9)
        (w.getLsbD 7) (w.getLsbD 6) (w.getLsbD 5)))
    (d a b : Reg) (ka kb w aq rl : Bool) :
    decodeMap (M |> put d |> put a |> put b |> put (BitVec.ofBool ka) |> put (BitVec.ofBool kb) |> put 0#1
      |> put (BitVec.ofBool w) |> put (BitVec.ofBool aq) |> put (BitVec.ofBool rl) |> put op) = some (f d a b ka kb w aq rl) := by
  simp [hf, isZero, put_above, put_below]

/-- The layout of an atomic that does not. -/
theorem reduction_decodes {M : BitVec 32} {op : BitVec 5} {f : Reg → Reg → Bool → Bool → Bool → Bool → Instr}
    (hf : ∀ w : BitVec 32, w.extractLsb' 26 6 = M.extractLsb' 0 6 → w.extractLsb' 0 5 = op →
      (isZero w 21 5 && isZero w 8 1 && isZero w 6 1) = true →
      decodeMap w = some (f (w.extractLsb' 16 5) (w.extractLsb' 11 5) (w.getLsbD 10) (w.getLsbD 9) (w.getLsbD 7) (w.getLsbD 5)))
    (a b : Reg) (ka kb w rl : Bool) :
    decodeMap (M |> put 0#5 |> put a |> put b |> put (BitVec.ofBool ka) |> put (BitVec.ofBool kb) |> put 0#1
      |> put (BitVec.ofBool w) |> put 0#1 |> put (BitVec.ofBool rl) |> put op) = some (f a b ka kb w rl) := by
  simp [hf, isZero, put_above, put_below]

/-- The layout of a code of 10 bits. -/
theorem trapCode_decodes {M : BitVec 32} {op : BitVec 9} {f : BitVec 10 → Instr}
    (hf : ∀ w : BitVec 32, w.extractLsb' 26 6 = M.extractLsb' 0 6 → w.extractLsb' 0 9 = op →
      (isZero w 21 5 && isZero w 9 2) = true →
      decodeMap w = some (f (w.extractLsb' 11 10)))
    (c : BitVec 10) :
    decodeMap (M |> put 0#5 |> put c |> put 0#2 |> put op) = some (f c) := by
  simp [hf, isZero, put_above, put_below]

/-- The layout of a control register. -/
theorem controlReg_decodes {M : BitVec 32} {op : BitVec 9} {f : Reg → BitVec 10 → Instr}
    (hf : ∀ w : BitVec 32, w.extractLsb' 26 6 = M.extractLsb' 0 6 → w.extractLsb' 0 9 = op → isZero w 9 2 = true →
      decodeMap w = some (f (w.extractLsb' 21 5) (w.extractLsb' 11 10)))
    (d : Reg) (c : BitVec 10) :
    decodeMap (M |> put d |> put c |> put 0#2 |> put op) = some (f d c) := by
  simp [hf, isZero, put_above, put_below]

/-- The layout of an address. -/
theorem lineOp_decodes {M : BitVec 32} {op : BitVec 9} {f : Reg → Bool → Instr}
    (hf : ∀ w : BitVec 32, w.extractLsb' 26 6 = M.extractLsb' 0 6 → w.extractLsb' 0 9 = op →
      (isZero w 21 5 && isZero w 11 5 && isZero w 9 1) = true →
      decodeMap w = some (f (w.extractLsb' 16 5) (w.getLsbD 10)))
    (a : Reg) (ka : Bool) :
    decodeMap (M |> put 0#5 |> put a |> put 0#5 |> put (BitVec.ofBool ka) |> put 0#1 |> put op) = some (f a ka) := by
  simp [hf, isZero, put_above, put_below]

/-! ## Layouts of one instruction -/

theorem fsqrt_decodes (d a : Reg) (ka p : Bool) (rm : Rm) :
    decodeMap (2#32 |> put d |> put a |> put 0#5 |> put (BitVec.ofBool ka) |> put 0#1 |> put (BitVec.ofBool p) |> put (rmBits rm)
      |> put 4#5) = some (.fsqrt d a ka p rm) := by
  simp [map_Fpu, decodeFpu, rmOf_bits, isZero, put_above, put_below]

theorem fclass_decodes (d a : Reg) (ka p : Bool) :
    decodeMap (2#32 |> put d |> put a |> put 0#5 |> put (BitVec.ofBool ka) |> put 0#1 |> put (BitVec.ofBool p) |> put 0#3
      |> put 12#5) = some (.fclass d a ka p) := by
  simp [map_Fpu, decodeFpu, isZero, put_above, put_below]

theorem fcvtw_decodes (d a f : Reg) (ka p : Bool) (rm : Rm) :
    decodeMap (2#32 |> put d |> put a |> put f |> put (BitVec.ofBool ka) |> put 0#1 |> put (BitVec.ofBool p) |> put (rmBits rm)
      |> put 17#5) = some (.fcvtw d a f ka p rm) := by
  simp [map_Fpu, decodeFpu, rmOf_bits, isZero, put_above, put_below]

theorem bf_decodes (a : Reg) (o : BitVec 11) :
    decodeMap (28#32 |> put 6#3 |> put a |> put 0#7 |> put o) = some (.bf a o) := by
  simp [map_Br, decodeBr, isZero, put_above, put_below]

theorem vwiden_decodes (d a : Reg) (u : Bool) (e : Ew) (m : MReg) (k : Bool) :
    decodeMap (32#32 |> put d |> put a |> put 0#4 |> put (BitVec.ofBool u) |> put (ewBits e) |> put m |> put (BitVec.ofBool k)
      |> put 28#5) = some (.vwiden d a u e m k) := by
  simp [map_Vi, decodeVi, ewOf_bits, isZero, put_above, put_below]

theorem vnarrow_decodes (d a : Reg) (u : BitVec 2) (e : Ew) (m : MReg) (k : Bool) :
    decodeMap (32#32 |> put d |> put a |> put 0#3 |> put u |> put (ewBits e) |> put m |> put (BitVec.ofBool k)
      |> put 29#5) = some (.vnarrow d a u e m k) := by
  simp [map_Vi, decodeVi, ewOf_bits, isZero, put_above, put_below]

theorem vbrank_decodes (d : Reg) (a : MReg) (e : Ew) (m : MReg) (k : Bool) :
    decodeMap (36#32 |> put d |> put 0#2 |> put a |> put 0#5 |> put (ewBits e) |> put m |> put (BitVec.ofBool k)
      |> put 10#5) = some (.vbrank d a e m k) := by
  simp [map_Vx, decodeVx, ewOf_bits, isZero, put_above, put_below]

theorem vnz_decodes (d : MReg) (a : Reg) (e : Ew) (m : MReg) (k : Bool) :
    decodeMap (36#32 |> put 0#2 |> put d |> put a |> put 0#5 |> put (ewBits e) |> put m |> put (BitVec.ofBool k)
      |> put 12#5) = some (.vnz d a e m k) := by
  simp [map_Vx, decodeVx, ewOf_bits, isZero, put_above, put_below]

theorem vcvt_decodes (d a f : Reg) (e : Ew) (dir k : Bool) :
    decodeMap (36#32 |> put d |> put a |> put f |> put (ewBits e) |> put (BitVec.ofBool dir) |> put 0#2 |> put (BitVec.ofBool k)
      |> put 14#5) = some (.vcvt d a f e dir k) := by
  simp [map_Vx, decodeVx, ewOf_bits, isZero, put_above, put_below]

theorem vidx_decodes (d : Reg) (e : Ew) (m : MReg) (k : Bool) :
    decodeMap (36#32 |> put d |> put 0#10 |> put (ewBits e) |> put m |> put (BitVec.ofBool k)
      |> put 15#5) = some (.vidx d e m k) := by
  simp [map_Vx, decodeVx, ewOf_bits, isZero, put_above, put_below]

theorem mnot_decodes (d a m : MReg) (k : Bool) :
    decodeMap (37#32 |> put 0#2 |> put d |> put 0#2 |> put a |> put 0#7 |> put m |> put (BitVec.ofBool k)
      |> put 4#5) = some (.mnot d a m k) := by
  simp [map_Vm, decodeVm, isZero, put_above, put_below]

theorem mfroms_decodes (d : MReg) (a b : Reg) (m : MReg) (k : Bool) :
    decodeMap (37#32 |> put 0#2 |> put d |> put a |> put b |> put 0#2 |> put m |> put (BitVec.ofBool k)
      |> put 7#5) = some (.mfroms d a b m k) := by
  simp [map_Vm, decodeVm, isZero, put_above, put_below]

theorem mtos_decodes (d : Reg) (a : MReg) (b : Reg) (k : Bool) :
    decodeMap (37#32 |> put d |> put 0#2 |> put a |> put b |> put 0#5 |> put (BitVec.ofBool k)
      |> put 8#5) = some (.mtos d a b k) := by
  simp [map_Vm, decodeVm, isZero, put_above, put_below]

theorem mzero_decodes (t : MReg) :
    decodeMap (48#32 |> put 3#3 |> put 1#8 |> put 0#12 |> put t) = some (.mzero t) := by
  simp [map_Eng, eng_Mtx, decodeEngMtx, isZero, put_above, put_below]

theorem fence_decodes (kind : FenceKind) (scope : Scope) :
    decodeMap (50#32 |> put 0#8 |> put (kindBits kind) |> put 0#2 |> put (scopeBits scope) |> put 0#2
      |> put 0#9) = some (.fence kind scope) := by
  simp [map_Sys, decodeSys, kindOf_bits, scopeOf_bits, isZero, put_above, put_below]

theorem sete_decodes (d : Reg) :
    decodeMap (50#32 |> put d |> put 0#12 |> put 8#9) = some (.sete d) := by
  simp [map_Sys, decodeSys, isZero, put_above, put_below]

theorem tstf_decodes (d a : Reg) :
    decodeMap (50#32 |> put d |> put a |> put 0#7 |> put 9#9) = some (.tstf d a) := by
  simp [map_Sys, decodeSys, isZero, put_above, put_below]

theorem pref_decodes (a : Reg) (hint : Hint) (ka : Bool) :
    decodeMap (50#32 |> put 0#5 |> put a |> put 0#3 |> put (hintBits hint) |> put (BitVec.ofBool ka) |> put 0#1
      |> put 15#9) = some (.pref a hint ka) := by
  simp [map_Sys, decodeSys, hintOf_bits, isZero, put_above, put_below]

theorem migr_decodes (a b : Reg) (ka kb : Bool) :
    decodeMap (50#32 |> put 0#5 |> put a |> put b |> put (BitVec.ofBool ka) |> put (BitVec.ofBool kb)
      |> put 16#9) = some (.migr a b ka kb) := by
  simp [map_Sys, decodeSys, isZero, put_above, put_below]

theorem errrd_decodes (d a : Reg) (ka : Bool) :
    decodeMap (50#32 |> put d |> put a |> put 0#5 |> put (BitVec.ofBool ka) |> put 0#1 |> put 17#9) = some (.errrd d a ka) := by
  simp [map_Sys, decodeSys, isZero, put_above, put_below]

theorem sigchk_decodes (s : BitVec 15) :
    decodeMap (51#32 |> put 0#11 |> put s) = some (.sigchk s) := by
  simp [decodeMap, isZero, put_above, put_below]

theorem loopi_decodes (l n : BitVec 10) : decodeMap (31#32 |> put 0#6 |> put l |> put n) = some (.loopi l n) := by
  simp [map_Lp, decodeLp, isZero, put_above, put_below]

/-- A LOOP is told from a LOOPI by its register, which is not s0 (R55). -/
theorem loop_decodes (a : Reg) (ka : Bool) (l : BitVec 10) (ha : a ≠ 0#5) :
    decodeMap (31#32 |> put a |> put (BitVec.ofBool ka) |> put l |> put 0#10) = some (.loop a ka l) := by
  simp [map_Lp, decodeLp, isZero, ha, put_above, put_below]

theorem cinvLine_decodes (a : Reg) (ka : Bool) :
    decodeMap (50#32 |> put 0#5 |> put a |> put 0#5 |> put (BitVec.ofBool ka) |> put 0#1 |> put 14#9) = some (.cinvLine a ka) := by
  simp [map_Sys, decodeSys, isZero, put_above, put_below]

/-- The map of R46 gives every well-formed instruction for its own word. -/
theorem decodeMap_encode (i : Instr) (hw : i.wf = true) : decodeMap (encode i) = some i := by
  cases i
  case add | sub | and | or | xor | andn | orn | sll | srl | sra | rol | ror | slt | sltu | seq | min | max | minu | maxu | mul |
      mulh | mulhu | div | divu | rem | remu => exact regs_decodes (fun w hm ho => by rw [map_Alu w hm, decodeAlu, ho]; rfl) ..
  case clz | ctz | popc | brev | bswap =>
    exact unary_decodes (fun w hm ho hz => by rw [map_Alu w hm, decodeAlu, ho]; exact if_pos hz) ..
  case exts | extz => exact extend_decodes (fun w hm ho hz => by rw [map_Alu w hm, decodeAlu, ho]; exact if_pos hz) ..
  case fadd | fsub | fmul | fdiv | ffma | ffms =>
    exact rounded_decodes (fun w rm hm ho hr => by rw [map_Fpu w hm, decodeFpu, ho, hr]; rfl) ..
  case fsqrt => exact fsqrt_decodes ..
  case fmin | fmax | feq | flt | fle =>
    exact unrounded_decodes (fun w hm ho hz => by rw [map_Fpu w hm, decodeFpu, ho]; exact if_pos hz) ..
  case fclass => exact fclass_decodes ..
  case fcvtis | fcvtin | fcvtfs | fcvtfn =>
    exact fcvt_decodes (fun w rm hm ho hz hr => by rw [map_Fpu w hm, decodeFpu, ho, hr]; exact if_pos hz) ..
  case fcvtw => exact fcvtw_decodes ..
  case addi | andi | ori | xori | slti | sltiu | jalr => exact imm15_decodes (fun w hm => by rw [decodeMap, hm]; rfl) ..
  case slli | srli | srai | roli => exact shift_decodes (fun w hm ho hz => by rw [map_Shi w hm, decodeShi, ho]; exact if_pos hz) ..
  case lui | addpc | jal => exact imm21_decodes (fun w hm => by rw [decodeMap, hm]; rfl) ..
  case lb | lbu | lh | lhu | lw | lwu | ld | sb | sh | sw | sd | vld | vst =>
    exact access_decodes (fun w hm => by rw [decodeMap, hm]; rfl) ..
  case beq | bne | blt | bge | bltu | bgeu => exact branch_decodes (fun w hm ho => by rw [map_Br w hm, decodeBr, ho]; rfl) ..
  case bf => exact bf_decodes ..
  case vadd | vsub | vmul | vmulh | vmulhn | vmin | vmax | vminn | vmaxn | vand | vor | vxor | vandn | vsll | vsrl | vsra | vsel |
      vadds | vsubs | vaddsn => exact lanes_decodes (fun w hm ho => by rw [map_Vi w hm, decodeVi, ho]; rfl) ..
  case vaddS | vsubS | vmulS | vmulhS | vmulhnS | vminS | vmaxS | vminnS | vmaxnS | vandS | vorS | vxorS | vandnS | vsllS | vsrlS
      | vsraS | vselS | vaddsS | vsubsS | vaddsnS =>
    exact lanes_decodes (fun w hm ho => by rw [map_Vis w hm, decodeVis, ho]; rfl) ..
  case vfadd | vfsub | vfmul | vfdiv | vfma | vfms | vfmin | vfmax =>
    exact lanes_decodes (fun w hm ho => by rw [map_Vf w hm, decodeVf, ho]; rfl) ..
  case vfaddS | vfsubS | vfmulS | vfdivS | vfmaS | vfmsS | vfminS | vfmaxS =>
    exact lanes_decodes (fun w hm ho => by rw [map_Vfs w hm, decodeVfs, ho]; rfl) ..
  case vperm | vext | vins | vrand | vslide => exact lanes_decodes (fun w hm ho => by rw [map_Vx w hm, decodeVx, ho]; rfl) ..
  case vldx | vstx => exact lanes_decodes (fun w hm ho => by rw [map_Vgs w hm, decodeVgs, ho]; rfl) ..
  case vseq | vslt | vsltn => exact laneTest_decodes (fun w hm ho hz => by rw [map_Vi w hm, decodeVi, ho]; exact if_pos hz) ..
  case vseqS | vsltS | vsltnS => exact laneTest_decodes (fun w hm ho hz => by rw [map_Vis w hm, decodeVis, ho]; exact if_pos hz) ..
  case vfeq | vflt | vfle => exact laneTest_decodes (fun w hm ho hz => by rw [map_Vf w hm, decodeVf, ho]; exact if_pos hz) ..
  case vfeqS | vfltS | vfleS => exact laneTest_decodes (fun w hm ho hz => by rw [map_Vfs w hm, decodeVfs, ho]; exact if_pos hz) ..
  case vabs | vpopc | vclz => exact laneUnary_decodes (fun w hm ho hz => by rw [map_Vi w hm, decodeVi, ho]; exact if_pos hz) ..
  case vfsqrt | vfrcp | vfexp2 | vflog2 | vfabs | vfneg | vfclass =>
    exact laneUnary_decodes (fun w hm ho hz => by rw [map_Vf w hm, decodeVf, ho]; exact if_pos hz) ..
  case vsort | vbcast | vcmpr | vexpd | vbpfx =>
    exact laneUnary_decodes (fun w hm ho hz => by rw [map_Vx w hm, decodeVx, ho]; exact if_pos hz) ..
  case vdot4 | vdot4n => exact dot4_decodes (fun w hm ho hz => by rw [map_Vi w hm, decodeVi, ho]; exact if_pos hz) ..
  case vdot4S | vdot4nS => exact dot4_decodes (fun w hm ho hz => by rw [map_Vis w hm, decodeVis, ho]; exact if_pos hz) ..
  case vwiden => exact vwiden_decodes ..
  case vnarrow => exact vnarrow_decodes ..
  case vred | vscan => exact reduce_decodes (fun w hm ho hz => by rw [map_Vx w hm, decodeVx, ho]; exact if_pos hz) ..
  case vbmask => exact maskFromReg_decodes (fun w hm ho hz => by rw [map_Vx w hm, decodeVx, ho]; exact if_pos hz) ..
  case msetn => exact maskFromReg_decodes (fun w hm ho hz => by rw [map_Vm w hm, decodeVm, ho]; exact if_pos hz) ..
  case vbrank => exact vbrank_decodes ..
  case vnz => exact vnz_decodes ..
  case vcvt => exact vcvt_decodes ..
  case vidx => exact vidx_decodes ..
  case mand | mor | mxor | mandn => exact maskOp_decodes (fun w hm ho hz => by rw [map_Vm w hm, decodeVm, ho]; exact if_pos hz) ..
  case mnot => exact mnot_decodes ..
  case mpopc | mfirst => exact maskToReg_decodes (fun w hm ho hz => by rw [map_Vm w hm, decodeVm, ho]; exact if_pos hz) ..
  case mfroms => exact mfroms_decodes ..
  case mtos => exact mtos_decodes ..
  case send | sendr | sendv | reply | mbind | mseal | rankwr =>
    exact engTwo_decodes (fun w hm hu ho hz => by rw [map_Eng w hm, eng_Msg w hu, decodeEngMsg, ho]; exact if_pos hz) ..
  case pjoin | dqpush | garm | thrbind =>
    exact engTwo_decodes (fun w hm hu ho hz => by rw [map_Eng w hm, eng_Sync w hu, decodeEngSync, ho]; exact if_pos hz) ..
  case qbind | bufdef =>
    exact engTwo_decodes (fun w hm hu ho hz => by rw [map_Eng w hm, eng_Copy w hu, decodeEngCopy, ho]; exact if_pos hz) ..
  case sghash | sglead | sgscat | sgsum | sgsel =>
    exact engTwo_decodes (fun w hm hu ho hz => by rw [map_Eng w hm, eng_Sig w hu, decodeEngSig, ho]; exact if_pos hz) ..
  case xdef | xset | xdep | xsamp | xbudg =>
    exact engTwo_decodes (fun w hm hu ho hz => by rw [map_Eng w hm, eng_Xing w hu, decodeEngXing, ho]; exact if_pos hz) ..
  case ecfg => exact engTwo_decodes (fun w hm hu ho hz => by rw [map_Eng w hm, eng_Gen w hu, decodeEngGen, ho]; exact if_pos hz) ..
  case rankrd =>
    exact engRead_decodes (fun w hm hu ho hz => by rw [map_Eng w hm, eng_Msg w hu, decodeEngMsg, ho]; exact if_pos hz) ..
  case pwait | psigw | pqry | dqsteal =>
    exact engRead_decodes (fun w hm hu ho hz => by rw [map_Eng w hm, eng_Sync w hu, decodeEngSync, ho]; exact if_pos hz) ..
  case erd => exact engRead_decodes (fun w hm hu ho hz => by rw [map_Eng w hm, eng_Gen w hu, decodeEngGen, ho]; exact if_pos hz) ..
  case rankmv =>
    exact engOne_decodes (fun w hm hu ho hz => by rw [map_Eng w hm, eng_Msg w hu, decodeEngMsg, ho]; exact if_pos hz) ..
  case pleave | psig | dqsplit | gdec | tdead | tclass =>
    exact engOne_decodes (fun w hm hu ho hz => by rw [map_Eng w hm, eng_Sync w hu, decodeEngSync, ho]; exact if_pos hz) ..
  case prel | publish | ringeos =>
    exact engOne_decodes (fun w hm hu ho hz => by rw [map_Eng w hm, eng_Copy w hu, decodeEngCopy, ho]; exact if_pos hz) ..
  case mctx => exact engOne_decodes (fun w hm hu ho hz => by rw [map_Eng w hm, eng_Mtx w hu, decodeEngMtx, ho]; exact if_pos hz) ..
  case sgroom =>
    exact engOne_decodes (fun w hm hu ho hz => by rw [map_Eng w hm, eng_Sig w hu, decodeEngSig, ho]; exact if_pos hz) ..
  case xnext | xpost | xcurf =>
    exact engOne_decodes (fun w hm hu ho hz => by rw [map_Eng w hm, eng_Xing w hu, decodeEngXing, ho]; exact if_pos hz) ..
  case edrain =>
    exact engOne_decodes (fun w hm hu ho hz => by rw [map_Eng w hm, eng_Gen w hu, decodeEngGen, ho]; exact if_pos hz) ..
  case dqpop =>
    exact engPop_decodes (fun w hm hu ho hz => by rw [map_Eng w hm, eng_Sync w hu, decodeEngSync, ho]; exact if_pos hz) ..
  case xpop =>
    exact engPop_decodes (fun w hm hu ho hz => by rw [map_Eng w hm, eng_Xing w hu, decodeEngXing, ho]; exact if_pos hz) ..
  case cpy | cpym | cpyg | strm | cpoll =>
    exact engTile_decodes (fun w hm hu ho => by rw [map_Eng w hm, eng_Copy w hu, decodeEngCopy, ho]; rfl) ..
  case mmul | mdrain => exact engTile_decodes (fun w hm hu ho => by rw [map_Eng w hm, eng_Mtx w hu, decodeEngMtx, ho]; rfl) ..
  case mzero => exact mzero_decodes ..
  case mopen | mclose | mpark | munpark => rfl
  case amadd | amand | amor | amxor | ammin | ammax | amminn | ammaxn | amswp | amcas | amfadd | amfmin | amfmax =>
    exact atomic_decodes (fun w hm ho hz => by rw [map_Amo w hm, decodeAmo, ho]; exact if_pos hz) ..
  case redadd | redand | redor | redxor | redmin | redmax | redminn | redmaxn | redfadd | redfmin | redfmax =>
    exact reduction_decodes (fun w hm ho hz => by rw [map_Amo w hm, decodeAmo, ho]; exact if_pos hz) ..
  case fence => exact fence_decodes ..
  case tend | tret | winbeg | winend | nop => rfl
  case trap | brk => exact trapCode_decodes (fun w hm ho hz => by rw [map_Sys w hm, decodeSys, ho]; exact if_pos hz) ..
  case crr | crw | crs | crc => exact controlReg_decodes (fun w hm ho hz => by rw [map_Sys w hm, decodeSys, ho]; exact if_pos hz) ..
  case sete => exact sete_decodes ..
  case tstf => exact tstf_decodes ..
  case cflush | errclr => exact lineOp_decodes (fun w hm ho hz => by rw [map_Sys w hm, decodeSys, ho]; exact if_pos hz) ..
  case pref => exact pref_decodes ..
  case migr => exact migr_decodes ..
  case errrd => exact errrd_decodes ..
  case sigchk => exact sigchk_decodes ..
  case cinvL1 | cinvIcache => rfl
  case cinvLine => exact cinvLine_decodes ..
  case loopi => exact loopi_decodes ..
  case loop a ka l =>
    have ha : (a != 0 && l != 0) = true := hw
    exact loop_decodes a ka l (by simpa using (Bool.and_eq_true_iff.1 ha).1)
  all_goals exact absurd hw Bool.false_ne_true

/-- Settles O1: each word is evaluated. -/
theorem decodeWords : Obligations.DecodeWords :=
  ⟨rfl, rfl, rfl, rfl, rfl, rfl, rfl, rfl, rfl, rfl, rfl, rfl, rfl, rfl, rfl⟩

/-- Settles O2: the map of R46 gives the instruction for its own word, and `decode` lets a well-formed one pass. -/
theorem everyInstructionRoundTrips : Obligations.EveryInstructionRoundTrips :=
  fun i hw => decode_of (decodeMap_encode i hw) hw

end Sys2Proof
end

section
/-! SUPPORT. O5 fails: its hypothesis, that the current core exists, is asked of instruction words only. -/
namespace Sys2Proof.Machine

/-- Reset, with a core that the module does not have as the current one. -/
def strayCore : State := { State.reset with cur := { st := 8192, core := .slot0 } }

/-- LOOPI with length 0 is no instruction word and no other step; its issue asks for the core all the same. -/
theorem exec_loopi_strayCore : exec (.loopi 0 0) strayCore = .fault (.noSuchHolder 8192) := rfl

/-- Refutes O5: the statement asks for an existing core only where the instruction is a word. LOOPI with length 0 is an `Instr` that
is no word (a body has 1 to 1,023 instructions) and no other step, so a core the module does not have is allowed, and there its
issue faults. -/
theorem not_nothingIsRefused : ¬ Obligations.NothingIsRefused := by
  intro h
  obtain ⟨t, ht⟩ := h (.loopi 0 0) strayCore (fun hw => absurd hw (by decide))
  rw [exec_loopi_strayCore] at ht
  cases ht

end Sys2Proof.Machine
end

section
/-! SUPPORT. The base profile (R44, R47): what every instruction outside it comes to on a core that has only the base profile. -/
namespace Sys2Proof.Machine

/-- The current core is of the base profile, and nothing holds its instruction (R43, R47). -/
structure State.BaseTurn (s : State) : Prop where
  exists_ : whoExists s.cur = true
  base : isBase s.cur.core = true
  free : s.me.holds .plain = false

/-- The outcome of an instruction that traps ILLEGAL (R44). -/
def State.illegal (s : State) : Out := .next (s.trapNow (illegalOf s.me))

/-! ## Issue and the shared operations -/

section
variable {s : State} (h : s.BaseTurn)
include h

theorem issueIf_illegal {c : IssueClass} {ill : Bool} {u : Uses} {body : State → Res (State × PcFlow)} (hc : c.base = false) :
    s.issueIf c ill u body = s.illegal := by
  have hf : s.me.holds { base := false, hold := false, rel := false, mem := false } = false := h.free
  simp [State.issueIf, State.illegal, h.exists_, h.base, hc, hf]

theorem issue_illegal {c : IssueClass} {u : Uses} {body : State → Res (State × PcFlow)} (hc : c.base = false) :
    s.issue c u body = s.illegal := issueIf_illegal h hc

theorem compS_illegal {c : IssueClass} {srcs : List (RegName × Bool)} {d : Reg} {x : Word} (hc : c.base = false) :
    s.compS c srcs d x = s.illegal := issue_illegal h hc

theorem fpu_illegal {d : Reg} {srcs : List (RegName × Bool)} {r : Nat × Nat} :
    s.fpu d srcs r = s.illegal := issue_illegal h rfl
theorem fpu2_illegal {d a b : Reg} {ka kb p : Bool} {rm : Rm} {f : Rm → Value → Value → FRes} :
    s.fpu2 d a b ka kb p rm f = s.illegal := fpu_illegal h
theorem fpu3_illegal {d a b : Reg} {ka kb p : Bool} {rm : Rm} {f : Rm → Value → Value → Value → FRes} :
    s.fpu3 d a b ka kb p rm f = s.illegal := fpu_illegal h

theorem fcmp_illegal {d a b : Reg} {ka kb p : Bool} {f : Value → Value → Bool × Nat} :
    s.fcmp d a b ka kb p f = s.illegal := fpu_illegal h

theorem fconv_illegal {d a : Reg} {ka : Bool} {r : Nat × Nat} :
    s.fconv d a ka r = s.illegal := fpu_illegal h

theorem vmap_illegal {d : Reg} {srcs : List (RegName × Bool)} {w : Nat} {m : MReg} {k : Bool} {f : Nat → BitVec w × Nat} :
    s.vmap d srcs w m k f = s.illegal := issue_illegal h rfl

theorem vmaskOp_illegal {d : MReg} {srcs : List (RegName × Bool)} {w : Nat} {m : MReg} {f : Nat → Bool × Nat} :
    s.vmaskOp d srcs w m f = s.illegal := issue_illegal h rfl

theorem vint_illegal {d a : Reg} {n : RegName} {e : Ew} {m : MReg} {k : Bool} {f : (w : Nat) → BitVec w → BitVec w → BitVec w ×
    Nat} :
    s.vint d a n e m k f = s.illegal := vmap_illegal h

theorem vint1_illegal {d a : Reg} {e : Ew} {m : MReg} {k : Bool} {f : (w : Nat) → BitVec w → BitVec w} :
    s.vint1 d a e m k f = s.illegal := vmap_illegal h

theorem vicmp_illegal {d : MReg} {a : Reg} {n : RegName} {e : Ew} {m : MReg} {k : Bool} {f : (w : Nat) → BitVec w → BitVec w →
    Bool} :
    s.vicmp d a n e m k f = s.illegal := vmaskOp_illegal h

theorem vselect_illegal {d a : Reg} {n : RegName} {e : Ew} {m : MReg} {k : Bool} :
    s.vselect d a n e m k = s.illegal := issue_illegal h rfl

theorem vdot_illegal {d a : Reg} {n : RegName} {e : Bool} {m : MReg} {k signed : Bool} :
    s.vdot d a n e m k signed = s.illegal := vmap_illegal h

theorem vfloat_illegal {d a : Reg} {n : RegName} {e : Ew} {m : MReg} {k : Bool} {f : Rm → Value → Value → FRes} :
    s.vfloat d a n e m k f = s.illegal := vmap_illegal h

theorem vfused_illegal {d a : Reg} {n : RegName} {e : Ew} {m : MReg} {k : Bool} {f : Rm → Value → Value → Value → FRes} :
    s.vfused d a n e m k f = s.illegal := vmap_illegal h

theorem vfcmp_illegal {d : MReg} {a : Reg} {n : RegName} {e : Ew} {m : MReg} {k : Bool} {f : Value → Value → Bool × Nat} :
    s.vfcmp d a n e m k f = s.illegal := vmaskOp_illegal h

theorem vfloat1_illegal {d a : Reg} {e : Ew} {m : MReg} {k : Bool} {f : FFmt → Rm → Nat → Nat × Nat} :
    s.vfloat1 d a e m k f = s.illegal := vmap_illegal h

theorem vmove_illegal {d : Reg} {srcs : List (RegName × Bool)} {w : Nat} {m : MReg} {k : Bool} {f : Nat → BitVec w} :
    s.vmove d srcs w m k f = s.illegal := vmap_illegal h

theorem vm_illegal {d : MReg} {srcs : List (RegName × Bool)} {m : MReg} {x : MWord} :
    s.vm d srcs m x = s.illegal := issue_illegal h rfl

theorem sending_illegal {k : SendKind} {a b : Reg} {ka kb : Bool} :
    s.sending k a b ka kb = s.illegal := issue_illegal h rfl

theorem mtxIssue_illegal {u : Uses} {body : State → Res (State × PcFlow)} :
    s.mtxIssue u body = s.illegal := issue_illegal h rfl

theorem sigIssue_illegal {k : SigKind} {a b : Reg} {ka kb : Bool} {two : Bool} :
    s.sigIssue k a b ka kb two = s.illegal := issue_illegal h rfl

theorem xing_illegal {u : Uses} {body : State → Res (State × PcFlow)} :
    s.xing u body = s.illegal := issue_illegal h rfl

theorem atomic_illegal {op : AmoOp} {d a b : Reg} {ka kb wide aq rl : Bool} :
    s.atomic op d a b ka kb wide aq rl = s.illegal := issue_illegal h rfl

theorem reduction_illegal {op : AmoOp} {a b : Reg} {ka kb wide rl : Bool} :
    s.reduction op a b ka kb wide rl = s.illegal := issue_illegal h rfl

end

/-! ## The instructions outside the base profile -/

/-- The instructions outside the base profile (R47): the FPU, the vector instructions, the atomics, WINBEG and WINEND, and the
commands of the engines MSG, MTX, SIG and XING. -/
def computeOnly : Instr → Bool
  | .fadd .. | .fsub .. | .fmul .. | .fdiv .. | .fsqrt .. | .ffma .. | .ffms .. | .fmin .. | .fmax .. | .feq .. | .flt .. |
    .fle .. | .fclass .. | .fcvtis .. | .fcvtin .. | .fcvtfs .. | .fcvtfn .. | .fcvtw .. => true
  | .vadd .. | .vsub .. | .vmul .. | .vmulh .. | .vmulhn .. | .vmin .. | .vmax .. | .vminn .. | .vmaxn .. | .vand .. | .vor .. |
    .vxor .. | .vandn .. | .vsll .. | .vsrl .. | .vsra .. | .vseq .. | .vslt .. | .vsltn .. | .vsel .. | .vabs .. | .vadds .. |
    .vsubs .. | .vaddsn .. | .vdot4 .. | .vdot4n .. | .vpopc .. | .vclz .. | .vwiden .. | .vnarrow .. => true
  | .vaddS .. | .vsubS .. | .vmulS .. | .vmulhS .. | .vmulhnS .. | .vminS .. | .vmaxS .. | .vminnS .. | .vmaxnS .. | .vandS .. |
    .vorS .. | .vxorS .. | .vandnS .. | .vsllS .. | .vsrlS .. | .vsraS .. | .vseqS .. | .vsltS .. | .vsltnS .. | .vselS .. |
    .vaddsS .. | .vsubsS .. | .vaddsnS .. | .vdot4S .. | .vdot4nS .. => true
  | .vfadd .. | .vfsub .. | .vfmul .. | .vfdiv .. | .vfma .. | .vfms .. | .vfmin .. | .vfmax .. | .vfeq .. | .vflt .. |
    .vfle .. | .vfsqrt .. | .vfrcp .. | .vfexp2 .. | .vflog2 .. | .vfabs .. | .vfneg .. | .vfclass .. => true
  | .vfaddS .. | .vfsubS .. | .vfmulS .. | .vfdivS .. | .vfmaS .. | .vfmsS .. | .vfminS .. | .vfmaxS .. | .vfeqS .. |
    .vfltS .. | .vfleS .. => true
  | .vred .. | .vscan .. | .vsort .. | .vperm .. | .vbcast .. | .vext .. | .vins .. | .vcmpr .. | .vexpd .. | .vbmask .. |
    .vbrank .. | .vbpfx .. | .vnz .. | .vrand .. | .vcvt .. | .vidx .. | .vslide .. => true
  | .mand .. | .mor .. | .mxor .. | .mandn .. | .mnot .. | .mpopc .. | .mfirst .. | .mfroms .. | .mtos .. | .msetn .. => true
  | .vldx .. | .vstx .. => true
  | .send .. | .sendr .. | .sendv .. | .reply .. | .mbind .. | .mseal .. | .rankrd .. | .rankwr .. | .rankmv .. => true
  | .mmul .. | .mzero .. | .mdrain .. | .mopen .. | .mclose .. | .mctx .. | .mpark .. | .munpark .. => true
  | .sghash .. | .sgroom .. | .sglead .. | .sgscat .. | .sgsum .. | .sgsel .. => true
  | .xdef .. | .xset .. | .xnext .. | .xpost .. | .xpop .. | .xcurf .. | .xdep .. | .xsamp .. | .xbudg .. => true
  | .amadd .. | .amand .. | .amor .. | .amxor .. | .ammin .. | .ammax .. | .amminn .. | .ammaxn .. | .amswp .. | .amcas .. |
    .amfadd .. | .amfmin .. | .amfmax .. | .redadd .. | .redand .. | .redor .. | .redxor .. | .redmin .. | .redmax .. |
    .redminn .. | .redmaxn .. | .redfadd .. | .redfmin .. | .redfmax .. => true
  | .vld .. | .vst .. | .winbeg .. | .winend .. => true
  | _ => false

/-- An instruction outside the base profile traps ILLEGAL on a core that has only the base profile. Where an instruction issues without
a shared operation in between, `delta exec` first shows its own function: the unifier would unfold both sides at once. -/
theorem exec_computeOnly {s : State} (h : s.BaseTurn) (i : Instr) (hi : computeOnly i = true) : exec i s = s.illegal := by
  cases i
  case fadd | fsub | fmul | fdiv | fmin | fmax => delta exec; dsimp only; exact fpu2_illegal h
  case fsqrt | fclass | fcvtis | fcvtin | fcvtfs | fcvtfn | fcvtw => exact fconv_illegal h
  case ffma | ffms => exact fpu3_illegal h
  case feq | flt | fle => exact fcmp_illegal h
  case vadd | vsub | vmul | vmulh | vmulhn | vmin | vmax | vminn | vmaxn | vand | vor | vxor | vandn | vsll | vsrl | vsra |
      vadds | vsubs | vaddsn | vaddS | vsubS | vmulS | vmulhS | vmulhnS | vminS | vmaxS | vminnS | vmaxnS | vandS | vorS |
      vxorS | vandnS | vsllS | vsrlS | vsraS | vaddsS | vsubsS | vaddsnS => exact vint_illegal h
  case vseq | vslt | vsltn | vseqS | vsltS | vsltnS => delta exec; dsimp only; exact vicmp_illegal h
  case vsel | vselS => exact vselect_illegal h
  case vabs | vpopc | vclz => delta exec; dsimp only; exact vint1_illegal h
  case vdot4 | vdot4n | vdot4S | vdot4nS => exact vdot_illegal h
  case vwiden | vins | vcmpr | vldx | vstx | mbind | mseal | rankrd | rankwr | rankmv | mpark | vld | vst | winbeg | winend |
      vred | vscan | vsort => delta exec; dsimp only; exact issue_illegal h rfl
  case vnarrow => exact vmap_illegal h
  case vfadd | vfsub | vfmul | vfdiv | vfmin | vfmax | vfaddS | vfsubS | vfmulS | vfdivS | vfminS | vfmaxS =>
    delta exec; dsimp only; exact vfloat_illegal h
  case vfma | vfms | vfmaS | vfmsS => exact vfused_illegal h
  case vfeq | vflt | vfle | vfeqS | vfltS | vfleS => exact vfcmp_illegal h
  case vfsqrt | vfrcp | vfexp2 | vflog2 | vfabs | vfneg | vfclass => delta exec; dsimp only; exact vfloat1_illegal h
  case vperm | vbcast | vexpd | vbrank | vbpfx | vrand | vidx | vslide => exact vmove_illegal h
  case vext | mpopc | mfirst | mtos => exact compS_illegal h rfl
  case vbmask | vnz => exact vmaskOp_illegal h
  case vcvt => delta exec; dsimp only; unfold execVcvt; exact issueIf_illegal h rfl
  case mand | mor | mxor | mandn | mnot | mfroms | msetn => exact vm_illegal h
  case send | sendr | sendv | reply => exact sending_illegal h
  case mmul | mzero | mopen | mclose | mctx | munpark | mdrain => delta exec; dsimp only; exact mtxIssue_illegal h
  case sghash | sgroom | sglead | sgscat | sgsum | sgsel => exact sigIssue_illegal h
  case xdef | xset | xnext | xpost | xpop | xcurf | xdep | xsamp | xbudg => delta exec; dsimp only; exact xing_illegal h
  case amadd | amand | amor | amxor | ammin | ammax | amminn | ammaxn | amswp | amcas | amfadd | amfmin | amfmax =>
    exact atomic_illegal h
  case redadd | redand | redor | redxor | redmin | redmax | redminn | redmaxn | redfadd | redfmin | redfmax =>
    exact reduction_illegal h
  all_goals exact absurd hi Bool.false_ne_true

/-! ## What the map decodes to -/

theorem all_computeOnly_guard {c : Bool} {o : Option Instr} (h : o.all computeOnly = true) :
    (if c then o else none).all computeOnly = true := by
  cases c
  · rfl
  · exact h
theorem all_computeOnly_map {α : Type} {o : Option α} {f : α → Instr} (h : ∀ x, computeOnly (f x) = true) :
    (o.map f).all computeOnly = true := by
  cases o
  · rfl
  · exact h _

theorem decodeFpu_computeOnly (w : BitVec 32) : (decodeFpu w).all computeOnly = true := by
  unfold decodeFpu
  split
  case h_5 | h_14 | h_15 | h_16 | h_17 | h_18 => exact all_computeOnly_guard (all_computeOnly_map fun _ => rfl)
  case h_8 | h_9 | h_10 | h_11 | h_12 | h_13 => exact all_computeOnly_guard rfl
  case h_19 => rfl
  all_goals exact all_computeOnly_map fun _ => rfl

theorem decodeVi_computeOnly (w : BitVec 32) : (decodeVi w).all computeOnly = true := by
  unfold decodeVi
  split
  case h_17 | h_18 | h_19 | h_21 | h_25 | h_26 | h_27 | h_28 | h_29 | h_30 => exact all_computeOnly_guard rfl
  all_goals rfl

theorem decodeVis_computeOnly (w : BitVec 32) : (decodeVis w).all computeOnly = true := by
  unfold decodeVis
  split
  case h_17 | h_18 | h_19 | h_24 | h_25 => exact all_computeOnly_guard rfl
  all_goals rfl

theorem decodeVf_computeOnly (w : BitVec 32) : (decodeVf w).all computeOnly = true := by
  unfold decodeVf
  split
  case h_1 | h_2 | h_3 | h_4 | h_5 | h_6 | h_7 | h_8 | h_19 => rfl
  all_goals exact all_computeOnly_guard rfl

theorem decodeVfs_computeOnly (w : BitVec 32) : (decodeVfs w).all computeOnly = true := by
  unfold decodeVfs
  split
  case h_9 | h_10 | h_11 => exact all_computeOnly_guard rfl
  all_goals rfl

theorem decodeVx_computeOnly (w : BitVec 32) : (decodeVx w).all computeOnly = true := by
  unfold decodeVx
  split
  case h_4 | h_6 | h_7 | h_14 | h_17 | h_18 => rfl
  all_goals exact all_computeOnly_guard rfl

theorem decodeVm_computeOnly (w : BitVec 32) : (decodeVm w).all computeOnly = true := by
  unfold decodeVm
  split
  case h_11 => rfl
  all_goals exact all_computeOnly_guard rfl

theorem decodeVgs_computeOnly (w : BitVec 32) : (decodeVgs w).all computeOnly = true := by
  unfold decodeVgs
  split
  all_goals rfl

theorem decodeEngMsg_computeOnly (w : BitVec 32) : (decodeEngMsg w).all computeOnly = true := by
  unfold decodeEngMsg
  split
  case h_10 => rfl
  all_goals exact all_computeOnly_guard rfl

theorem decodeEngMtx_computeOnly (w : BitVec 32) : (decodeEngMtx w).all computeOnly = true := by
  unfold decodeEngMtx
  split
  case h_1 | h_3 | h_9 => rfl
  all_goals exact all_computeOnly_guard rfl

theorem decodeEngSig_computeOnly (w : BitVec 32) : (decodeEngSig w).all computeOnly = true := by
  unfold decodeEngSig
  split
  case h_7 => rfl
  all_goals exact all_computeOnly_guard rfl

theorem decodeEngXing_computeOnly (w : BitVec 32) : (decodeEngXing w).all computeOnly = true := by
  unfold decodeEngXing
  split
  case h_10 => rfl
  all_goals exact all_computeOnly_guard rfl

theorem decodeAmo_computeOnly (w : BitVec 32) : (decodeAmo w).all computeOnly = true := by
  unfold decodeAmo
  split
  case h_25 => rfl
  all_goals exact all_computeOnly_guard rfl

theorem decodeEng_computeOnly (w : BitVec 32) (hu : (w.extractLsb' 23 3).toNat ∈ [0, 3, 4, 5]) :
    (decodeEng w).all computeOnly = true := by
  unfold decodeEng
  simp only [List.mem_cons, List.not_mem_nil, or_false] at hu
  rcases hu with hu | hu | hu | hu <;> rw [hu]
  · exact decodeEngMsg_computeOnly w
  · exact decodeEngMtx_computeOnly w
  · exact decodeEngSig_computeOnly w
  · exact decodeEngXing_computeOnly w

theorem decodeSys_computeOnly (w : BitVec 32) (ho : (w.extractLsb' 0 9).toNat ∈ [0x0A, 0x0B]) :
    (decodeSys w).all computeOnly = true := by
  unfold decodeSys
  simp only [List.mem_cons, List.not_mem_nil, or_false] at ho
  rcases ho with ho | ho <;> rw [ho] <;> exact all_computeOnly_guard rfl

/-- The majors of the vector instructions (R46). -/
theorem decodeMap_vector (w : BitVec 32) (hl : 0x20 ≤ (w.extractLsb' 26 6).toNat) (hu : (w.extractLsb' 26 6).toNat ≤ 0x28) :
    (decodeMap w).all computeOnly = true := by
  unfold decodeMap
  generalize (w.extractLsb' 26 6).toNat = major at hl hu
  interval_cases major
  · exact decodeVi_computeOnly w
  · exact decodeVis_computeOnly w
  · exact decodeVf_computeOnly w
  · exact decodeVfs_computeOnly w
  · exact decodeVx_computeOnly w
  · exact decodeVm_computeOnly w
  · rfl
  · rfl
  · exact decodeVgs_computeOnly w

/-- The majors, engines and operations that the statement of O6 names decode to instructions outside the base profile only. -/
theorem decodeMap_computeOnly (w : BitVec 32)
    (hm : (w.extractLsb' 26 6).toNat = 0x02 ∨ (0x20 ≤ (w.extractLsb' 26 6).toNat ∧ (w.extractLsb' 26 6).toNat ≤ 0x28) ∨
      (w.extractLsb' 26 6).toNat = 0x31 ∨
      ((w.extractLsb' 26 6).toNat = 0x30 ∧ (w.extractLsb' 23 3).toNat ∈ [0, 3, 4, 5]) ∨
      ((w.extractLsb' 26 6).toNat = 0x32 ∧ (w.extractLsb' 0 9).toNat ∈ [0x0A, 0x0B])) :
    (decodeMap w).all computeOnly = true := by
  rcases hm with hm | ⟨hl, hu⟩ | hm | ⟨hm, hu⟩ | ⟨hm, ho⟩
  case inr.inl => exact decodeMap_vector w hl hu
  all_goals unfold decodeMap; rw [hm]
  · exact decodeFpu_computeOnly w
  · exact decodeAmo_computeOnly w
  · exact decodeEng_computeOnly w hu
  · exact decodeSys_computeOnly w ho

/-- Settles O6: the word of the instruction decodes to it (R42), so it is one that the map has outside the base profile, and the issue
of every such instruction checks the profile before anything else. -/
theorem baseProfile : Obligations.BaseProfile := by
  intro i s hw hc hb hf major hm
  have hi : (decodeMap (encode i)).all computeOnly = true := decodeMap_computeOnly (encode i) hm
  rw [decodeMap_encode i hw] at hi
  exact exec_computeOnly ⟨hc, hb, hf⟩ i hi

end Sys2Proof.Machine
end

section
/-! SUPPORT. The lane operations of VI and VIS (R106 to R108) in plain integer arithmetic. -/
namespace Sys2Proof.Machine

/-- A clamp to a range that is not empty, and SAT where the clamp changed the value (R106). -/
theorem clampTo_eq {w : Nat} {lo hi : Int} (h : lo ≤ hi) (v : Int) :
    clampTo w lo hi v = (BitVec.ofInt w (max lo (min hi v)), if lo ≤ v ∧ v ≤ hi then 0 else 32) := by
  rw [clampTo]
  split
  next hlo => rw [max_eq_left (by omega), if_neg (by omega)]; rfl
  next hlo =>
    split
    next hhi => rw [min_eq_left (by omega), max_eq_right h, if_neg (by omega)]; rfl
    next hhi => rw [min_eq_right (by omega), max_eq_right (by omega), if_pos (by omega)]

theorem signedRange_nonempty (w : Nat) : -2 ^ (w - 1) ≤ (2 ^ (w - 1) - 1 : Int) := by
  have := Int.pow_pos (n := 2) (m := w - 1) (by decide)
  omega

theorem unsignedRange_nonempty (w : Nat) : 0 ≤ (2 ^ w - 1 : Int) := by
  have := Int.pow_pos (n := 2) (m := w) (by decide)
  omega

theorem absOp_eq {w : Nat} (x : BitVec w) : absOp w x = BitVec.ofNat w x.toInt.natAbs := by
  rw [absOp, ← BitVec.ofInt_natCast]
  split
  next h => rw [Int.ofNat_natAbs_of_nonpos (by omega), BitVec.ofInt_neg, BitVec.ofInt_toInt]
  next h => rw [Int.natAbs_of_nonneg (by omega), BitVec.ofInt_toInt]

theorem length_filter_eq_sum (p : Nat → Bool) (l : List Nat) : (l.filter p).length = (l.map (fun i => (p i).toNat)).sum := by
  induction l with
  | nil => rfl
  | cons i l ih => cases h : p i <;> simp [h, ih, Nat.add_comm]

/-- VPOPC counts the bits (R106). -/
theorem popcNat_eq {w : Nat} (x : BitVec w) :
    popcNat w x.toNat = ((List.range w).map (fun j => (x.getLsbD j).toNat)).sum := length_filter_eq_sum ..

/-- The length of a run of numbers from 0 that a predicate lets pass, when it stops at `k`. -/
theorem length_takeWhile_range {p : Nat → Bool} {k m : Nat} (hp : ∀ j < k, p j = true) (hk : p k = false) :
    ((List.range (k + (m + 1))).takeWhile p).length = k := by
  have hr : (List.range (m + 1)).map (k + ·) = k :: (List.range m).map (k + ·.succ) := by
    simp [List.range_succ_eq_map, List.map_map, Function.comp_def]
  rw [List.range_add, List.takeWhile_append_of_pos (by simpa using hp), hr, List.takeWhile_cons_of_neg (by simp [hk])]
  simp

/-- VCLZ counts the zeros from the top (R106). -/
theorem clzOp_eq {w : Nat} (x : BitVec w) :
    clzOp w x = BitVec.ofNat w ((List.range w).takeWhile (fun j => !x.getLsbD (w - 1 - j))).length := by
  rw [clzOp]
  congr 1
  split
  next h => rw [List.takeWhile_eq_self_iff.2 (by simp [h]), List.length_range]
  next h =>
    have h0 : x.toNat ≠ 0 := fun e => h (BitVec.eq_of_toNat_eq e)
    have hlog : x.toNat.log2 < w := (Nat.log2_lt h0).2 x.isLt
    obtain ⟨m, hm⟩ : ∃ m, w = (w - 1 - x.toNat.log2) + (m + 1) := ⟨x.toNat.log2, by omega⟩
    have hzero : ∀ j < w - 1 - x.toNat.log2, (!x.getLsbD (w - 1 - j)) = true := fun j hj => by
      have : x.toNat < 2 ^ (w - 1 - j) :=
        Nat.lt_of_lt_of_le Nat.lt_log2_self (Nat.pow_le_pow_right (by decide) (by omega))
      simp [BitVec.getLsbD, Nat.testBit_lt_two_pow this]
    have hone : (!x.getLsbD (w - 1 - (w - 1 - x.toNat.log2))) = false := by
      rw [show w - 1 - (w - 1 - x.toNat.log2) = x.toNat.log2 by omega, BitVec.getLsbD, Nat.testBit_log2 h0]; rfl
    have := length_takeWhile_range (m := m) hzero hone
    rw [← hm] at this
    exact this.symm

/-! ## Shared operations, in the words of the statement -/

/-- The two forms of an operation of two operands: the outcomes are those of the lanes of `op`, whose second operand is the lane of
vb or the low bits of the scalar (R104). -/
def State.bothForms (s : State) (d a b : Reg) (w : Nat) (m : MReg) (k : Bool) (op : BitVec w → BitVec w → BitVec w × Nat)
    (vector scalar : Out) : Prop :=
  (s.ready .compute ⟨[(.v a, k), (.v b, k)] ++ mergeSrc d m k, [.v d]⟩ = true →
    s.vectorResult d [(.v a, k), (.v b, k)] w m k (fun i => op (elem w (s.valV s.cur a) i) (elem w (s.valV s.cur b) i)) vector) ∧
  (s.ready .compute ⟨[(.v a, k), (.s b, k)] ++ mergeSrc d m k, [.v d]⟩ = true →
    s.vectorResult d [(.v a, k), (.s b, k)] w m k (fun i => op (elem w (s.valV s.cur a) i) ((s.valS s.cur b).setWidth w)) scalar)

/-- The two forms of a comparison into a mask register (R106). -/
def State.bothTests (s : State) (d : MReg) (a b : Reg) (w : Nat) (m : MReg) (k : Bool) (op : BitVec w → BitVec w → Bool)
    (vector scalar : Out) : Prop :=
  (s.ready .compute ⟨[(.v a, k), (.v b, k)], []⟩ = true →
    s.maskResult d [(.v a, k), (.v b, k)] w m (fun i => (op (elem w (s.valV s.cur a) i) (elem w (s.valV s.cur b) i), 0)) vector) ∧
  (s.ready .compute ⟨[(.v a, k), (.s b, k)], []⟩ = true →
    s.maskResult d [(.v a, k), (.s b, k)] w m (fun i => (op (elem w (s.valV s.cur a) i) ((s.valS s.cur b).setWidth w), 0)) scalar)

section
variable {s : State} {d a b : Reg} {e : Ew} {m : MReg} {k : Bool}

theorem vint_bothForms {f : (w : Nat) → BitVec w → BitVec w → BitVec w × Nat}
    {op : BitVec (ewBits e) → BitVec (ewBits e) → BitVec (ewBits e) × Nat} (hf : ∀ x y, f (ewBits e) x y = op x y) :
    s.bothForms d a b (ewBits e) m k op (s.vint d a (.v b) e m k f) (s.vint d a (.s b) e m k f) := by
  obtain rfl : f (ewBits e) = op := funext fun x => funext (hf x)
  exact ⟨fun h => vmap_result s d _ _ m k _ h (ewBits_fits e), fun h => vmap_result s d _ _ m k _ h (ewBits_fits e)⟩

/-- An operation that raises no flag, by the integer it gives modulo 2^w. -/
theorem vint_pure_bothForms {f : (w : Nat) → BitVec w → BitVec w → BitVec w} {op : BitVec (ewBits e) → BitVec (ewBits e) → Int}
    (hf : ∀ x y, f (ewBits e) x y = BitVec.ofInt (ewBits e) (op x y)) :
    s.bothForms d a b (ewBits e) m k (fun x y => (BitVec.ofInt (ewBits e) (op x y), 0)) (s.vint d a (.v b) e m k (pureOp f))
      (s.vint d a (.s b) e m k (pureOp f)) := vint_bothForms fun x y => congrArg (·, 0) (hf x y)

/-- An operation that raises no flag, by the natural number it gives modulo 2^w. -/
theorem vint_nat_bothForms {f : (w : Nat) → BitVec w → BitVec w → BitVec w} {op : BitVec (ewBits e) → BitVec (ewBits e) → Nat}
    (hf : ∀ x y, f (ewBits e) x y = BitVec.ofNat (ewBits e) (op x y)) :
    s.bothForms d a b (ewBits e) m k (fun x y => (BitVec.ofInt (ewBits e) (op x y), 0)) (s.vint d a (.v b) e m k (pureOp f))
      (s.vint d a (.s b) e m k (pureOp f)) := vint_pure_bothForms fun x y => (hf x y).trans (BitVec.ofInt_natCast _ _).symm

theorem vicmp_bothTests {d : MReg} {f : (w : Nat) → BitVec w → BitVec w → Bool} {op : BitVec (ewBits e) → BitVec (ewBits e) → Bool}
    (hf : ∀ x y, f (ewBits e) x y = op x y) :
    s.bothTests d a b (ewBits e) m k op (s.vicmp d a (.v b) e m k f) (s.vicmp d a (.s b) e m k f) := by
  obtain rfl : f (ewBits e) = op := funext fun x => funext (hf x)
  exact ⟨fun h => vmaskOp_result s d _ _ m _ h, fun h => vmaskOp_result s d _ _ m _ h⟩

theorem vint1_result {f : (w : Nat) → BitVec w → BitVec w} {op : BitVec (ewBits e) → BitVec (ewBits e)}
    (hf : ∀ x, f (ewBits e) x = op x) (h : s.ready .compute ⟨[(.v a, k)] ++ mergeSrc d m k, [.v d]⟩ = true) :
    s.vectorResult d [(.v a, k)] (ewBits e) m k (fun i => (op (elem (ewBits e) (s.valV s.cur a) i), 0)) (s.vint1 d a e m k f) := by
  obtain rfl : f (ewBits e) = op := funext hf
  exact vmap_result s d _ _ m k _ h (ewBits_fits e)

/-- VSEL takes va where the mask is set and the b operand elsewhere (R106). -/
theorem vselect_result {n : RegName} (h : s.ready .compute ⟨[(.v a, k), (n, k)], [.v d]⟩ = true) :
    ∃ v, s.vselect d a n e m k = .next (s.wroteV [(.v a, k), (n, k)] d v) ∧
      ∀ i, i < 2048 / ewBits e →
        elem (ewBits e) v i =
          if enabled (s.me.rdm m) (ewBits e) i then elem (ewBits e) (s.valV s.cur a) i else s.lane n (ewBits e) i :=
  ⟨_, by rw [State.vselect, issue_ready _ _ _ _ h, finish_go]; rfl, fun i hi => elem_buildV _ _ i (ewBits_fits e i hi) hi⟩

end

/-! ## The saturating operations -/

theorem addsOp_eq {w : Nat} (x y : BitVec w) : addsOp w x y =
    (BitVec.ofInt w (max (-2 ^ (w - 1)) (min (2 ^ (w - 1) - 1) (x.toInt + y.toInt))),
      if -2 ^ (w - 1) ≤ x.toInt + y.toInt ∧ x.toInt + y.toInt ≤ 2 ^ (w - 1) - 1 then 0 else 32) :=
  clampTo_eq (signedRange_nonempty w) _

theorem subsOp_eq {w : Nat} (x y : BitVec w) : subsOp w x y =
    (BitVec.ofInt w (max (-2 ^ (w - 1)) (min (2 ^ (w - 1) - 1) (x.toInt - y.toInt))),
      if -2 ^ (w - 1) ≤ x.toInt - y.toInt ∧ x.toInt - y.toInt ≤ 2 ^ (w - 1) - 1 then 0 else 32) :=
  clampTo_eq (signedRange_nonempty w) _

theorem addsnOp_eq {w : Nat} (x y : BitVec w) : addsnOp w x y =
    (BitVec.ofInt w (max 0 (min (2 ^ w - 1) ((x.toNat : Int) + y.toNat))),
      if 0 ≤ (x.toNat : Int) + y.toNat ∧ (x.toNat : Int) + y.toNat ≤ 2 ^ w - 1 then 0 else 32) :=
  clampTo_eq (unsignedRange_nonempty w) _

/-! ## Comparisons -/

theorem seq_eq {w : Nat} (x y : BitVec w) : (x == y) = decide (x.toNat = y.toNat) := by
  rw [beq_eq_decide, decide_eq_decide, BitVec.toNat_inj]

/-! ## Dot products and changes of width -/

/-- The b operand of VDOT4: the element of a vector register, or the same field of the scalar for every lane (R107). -/
def State.dotLane (s : State) (n : RegName) (w j t : Nat) : BitVec w :=
  match n with
  | .v r => elem w (s.valV s.cur r) (4 * j + t)
  | .s r => (s.valS s.cur r).extractLsb' (t * w) w

/-- The integer that a narrow element of VDOT4 or VDOT4N stands for (R107). -/
def dotNum (signed : Bool) {w : Nat} (x : BitVec w) : Int := if signed then x.toInt else x.toNat

/-- An element of va at twice its width (R108). -/
def State.wideLane (s : State) (a : Reg) (unsigned : Bool) (w i : Nat) : BitVec (2 * w) :=
  if unsigned then (elem w (s.valV s.cur a) i).setWidth (2 * w) else (elem w (s.valV s.cur a) i).signExtend (2 * w)

/-- One register of the pair that VWIDEN writes: the wide elements from `base` on, over the old ones (R108). -/
def State.widened (s : State) (a : Reg) (unsigned : Bool) (w : Nat) (m : MReg) (old : VWord) (base : Nat) : VWord :=
  buildV (2 * w) (fun i => if enabled (s.me.rdm m) w (base + i) then s.wideLane a unsigned w (base + i) else elem (2 * w) old i)

/-- An element of the pair va, va + 1 (R108). -/
def State.pairLane (s : State) (a : Reg) (w i : Nat) : BitVec w :=
  if i < 2048 / w then elem w (s.valV s.cur a) i else elem w (s.valV s.cur (a + 1)) (i - 2048 / w)

/-- The registers that VWIDEN reads: a merge reads the pair it writes (R104). -/
def widenSrcs (d a : Reg) (m : MReg) (k : Bool) : List (RegName × Bool) :=
  (.v a, k) :: (if m = 0 then [] else [(.v d, k), (.v (d + 1), k)])

theorem narrowOp_eq {w : Nat} (u : BitVec 2) (y : BitVec w) : narrowOp u w y =
    if u = 0 then (BitVec.ofInt (w / 2) (max (-2 ^ (w / 2 - 1)) (min (2 ^ (w / 2 - 1) - 1) y.toInt)),
      if -2 ^ (w / 2 - 1) ≤ y.toInt ∧ y.toInt ≤ 2 ^ (w / 2 - 1) - 1 then 0 else 32)
    else if u = 1 then (BitVec.ofInt (w / 2) (max 0 (min (2 ^ (w / 2) - 1) y.toNat)),
      if 0 ≤ (y.toNat : Int) ∧ (y.toNat : Int) ≤ 2 ^ (w / 2) - 1 then 0 else 32)
    else (y.setWidth (w / 2), 0) := by
  rw [narrowOp, clampTo_eq (signedRange_nonempty _), clampTo_eq (unsignedRange_nonempty _)]

section
variable {s : State} {d a : Reg} {e : Ew} {m : MReg} {k : Bool}

/-- VDOT4 and VDOT4N sum four products (R107). -/
theorem vdot_result {n : RegName} {narrow signed : Bool}
    (h : s.ready .compute ⟨[(.v a, k), (n, k)] ++ mergeSrc d m k, [.v d]⟩ = true) :
    let w := if narrow then 16 else 8
    let p (j t : Nat) : Int := dotNum signed (elem w (s.valV s.cur a) (4 * j + t)) * dotNum signed (s.dotLane n w j t)
    s.vectorResult d [(.v a, k), (n, k)] (4 * w) m k (fun j => (BitVec.ofInt (4 * w) (p j 0 + p j 1 + p j 2 + p j 3), 0))
      (s.vdot d a n narrow m k signed) := by
  intro w p
  have hsum (j : Nat) : p j 0 + p j 1 + p j 2 + p j 3 = ((List.range 4).map (p j)).sum := by
    rw [show List.range 4 = [0, 1, 2, 3] from rfl]
    simp only [List.map_cons, List.map_nil, List.sum_cons, List.sum_nil]
    omega
  simp only [hsum]
  refine vmap_result s d _ _ m k _ h fun i hi => ?_
  cases narrow <;> simp [w] at hi ⊢ <;> omega

/-- VWIDEN writes the wide elements of va into a pair (R108). -/
theorem vwiden_result {unsigned : Bool} (h : s.ready .compute ⟨widenSrcs d a m k, [.v d, .v (d + 1)]⟩ = true) :
    let w := ewBits e
    let n := 2048 / (2 * w)
    ∃ lo hi, execVwiden d a unsigned e m k s =
        .next ((((s.popAll s.cur (widenSrcs d a m k)).writeV s.cur d lo).writeV s.cur (d + 1) hi).retire s.cur .next) ∧
      ∀ i, i < n →
        elem (2 * w) lo i = (if enabled (s.me.rdm m) w i then s.wideLane a unsigned w i else elem (2 * w) (s.valV s.cur d) i) ∧
        elem (2 * w) hi i =
          (if enabled (s.me.rdm m) w (n + i) then s.wideLane a unsigned w (n + i) else elem (2 * w) (s.valV s.cur (d + 1)) i) := by
  intro w n
  refine ⟨s.widened a unsigned w m (s.valV s.cur d) 0, s.widened a unsigned w m (s.valV s.cur (d + 1)) (2048 / w / 2), ?_,
    fun i hi => ?_⟩
  · exact issue_ready _ _ _ _ h
  · have hfit : (i + 1) * (2 * w) ≤ 2048 := by
      cases e <;> simp [n, w, ewBits] at hi ⊢ <;> omega
    have hn : 2048 / w / 2 = n := by rw [Nat.div_div_eq_div_mul, Nat.mul_comm]
    rw [State.widened, State.widened, elem_buildV _ _ i hfit hi, elem_buildV _ _ i hfit hi, Nat.zero_add, hn]
    exact ⟨rfl, rfl⟩

/-- VNARROW takes the elements of a pair at half their width (R108). -/
theorem vnarrow_result {u : BitVec 2} (he : e ≠ .b8)
    (h : s.ready .compute ⟨[(.v a, k), (.v (a + 1), k)] ++ mergeSrc d m k, [.v d]⟩ = true) :
    s.vectorResult d [(.v a, k), (.v (a + 1), k)] (ewBits e / 2) m k (fun i => narrowOp u (ewBits e) (s.pairLane a (ewBits e) i))
      (execVnarrow d a u e m k s) := by
  refine vmap_result s d _ _ m k _ h fun i hi => ?_
  cases e <;> simp [ewBits] at he hi ⊢ <;> omega
end

/-- Settles O18: the operations of VI and VIS share their lanes; each one's value is that of its lane function, in integers. -/
theorem vectorIntegerResults : Obligations.VectorIntegerResults := by
  refine ⟨fun s d a b e m k => ?_, fun s d a b e m k => ?_, fun s d a b e m k => ?_, fun s d a b e m k narrow unsigned u => ?_⟩
  · have int {f op} := @vint_pure_bothForms s d a b e m k f op
    have nat {f op} := @vint_nat_bothForms s d a b e m k f op
    exact ⟨(nat addOp_int :), (int subOp_int :), (nat mulOp_int :), (int mulhOp_int :), (nat mulhuOp_int :), (int minOp_int :),
      (int maxOp_int :), (nat minuOp_int :), (nat maxuOp_int :), (nat andOp_int :), (nat orOp_int :), (nat xorOp_int :),
      (nat andnOp_int :), (nat sllOp_int :), (nat srlOp_int :), (int sraOp_int :)⟩
  · have lanes {f op} := @vint_bothForms s d a b e m k f op
    exact ⟨(lanes addsOp_eq :), (lanes subsOp_eq :), (lanes addsnOp_eq :)⟩
  · have lanes {f op} := @vicmp_bothTests s a b e m k d f op
    exact ⟨lanes (f := fun _ x y => x == y) seq_eq, lanes (f := fun _ x y => x.slt y) (fun _ _ => BitVec.slt_eq_decide ..),
      lanes (f := fun _ x y => x.ult y) (fun _ _ => BitVec.ult_eq_decide ..)⟩
  · have unary {f op} := @vint1_result s d a e m k f op
    refine ⟨fun h => vselect_result h, fun h => vselect_result h, fun h => ⟨?_, ?_, ?_⟩, ⟨fun h => ⟨?_, ?_⟩, fun h => ⟨?_, ?_⟩⟩,
      fun _ h => ?_, fun he h => ?_⟩
    · exact (unary absOp_eq h :)
    · exact (unary (f := fun w x => BitVec.ofNat w (popcNat w x.toNat)) (fun x => congrArg _ (popcNat_eq x)) h :)
    · exact (unary clzOp_eq h :)
    · exact vdot_result (signed := true) h
    · exact vdot_result (signed := false) h
    · exact vdot_result (signed := true) h
    · exact vdot_result (signed := false) h
    · exact vwiden_result h
    · have := vnarrow_result (u := u) he h
      simp only [narrowOp_eq] at this
      exact this

end Sys2Proof.Machine
end

section
/-! SUPPORT. Fields of a number of bytes (R3). -/
namespace Sys2Proof.Machine

/-- The bytes from an offset on. -/
theorem leNat_drop (l : List Byte) (i : Nat) : leNat (l.drop i) = leNat l / 256 ^ i := by
  induction i generalizing l with
  | zero => simp
  | succ i ih =>
    cases l with
    | nil => simp [leNat]
    | cons b r =>
      have hb := b.isLt
      rw [List.drop_succ_cons, ih, leNat, Nat.pow_succ, Nat.mul_comm (256 ^ i), ← Nat.div_div_eq_div_mul,
        show (b.toNat + 256 * leNat r) / 256 = leNat r by omega]

/-- The lowest bytes. -/
theorem leNat_take (l : List Byte) (n : Nat) : leNat (l.take n) = leNat l % 256 ^ n := by
  induction n generalizing l with
  | zero => simp [leNat, Nat.mod_one]
  | succ n ih =>
    cases l with
    | nil => simp [leNat]
    | cons b r =>
      have hb := b.isLt
      rw [List.take_succ_cons, leNat, leNat, ih, Nat.pow_succ, Nat.mul_comm (256 ^ n), Nat.mod_mul,
        show (b.toNat + 256 * leNat r) % 256 = b.toNat by omega, show (b.toNat + 256 * leNat r) / 256 = leNat r by omega]

/-- A field of whole bytes holds the bytes of its place. -/
theorem extractLsb'_leNat (l : List Byte) (w i n : Nat) (hw : i + n ≤ w) :
    (BitVec.ofNat (8 * w) (leNat l)).extractLsb' (8 * i) (8 * n) = BitVec.ofNat (8 * n) (leNat ((l.drop i).take n)) := by
  apply BitVec.eq_of_toNat_eq
  rw [BitVec.extractLsb'_toNat, BitVec.toNat_ofNat, BitVec.toNat_ofNat, leNat_take, leNat_drop, Nat.shiftRight_eq_div_pow,
    Nat.pow_mul, Nat.pow_mul, Nat.pow_mul, show 2 ^ 8 = 256 from rfl, show w = i + (w - i) by omega, Nat.pow_add,
    Nat.mod_mul_right_div_self, Nat.mod_mod_of_dvd _ (Nat.pow_dvd_pow _ (by omega)), Nat.mod_mod]

/-- The bytes of a number, lowest first. -/
theorem leBytes_eq_map (n x : Nat) : leBytes x n = (List.range n).map (fun i => BitVec.ofNat 8 (x / 256 ^ i)) := by
  induction n generalizing x with
  | zero => rfl
  | succ n ih =>
    rw [leBytes, ih, List.range_succ_eq_map, List.map_cons, List.map_map, Nat.pow_zero, Nat.div_one]
    congr 2
    funext i
    rw [Function.comp_apply, Nat.pow_succ, Nat.mul_comm, Nat.div_div_eq_div_mul]

/-- The bytes of a word are its fields of eight bits. -/
theorem leBytes_toNat {w : Nat} (x : BitVec w) (n : Nat) :
    leBytes x.toNat n = (List.range n).map (fun i => x.extractLsb' (8 * i) 8) := by
  rw [leBytes_eq_map]
  congr 1
  funext i
  apply BitVec.eq_of_toNat_eq
  rw [BitVec.extractLsb'_toNat, BitVec.toNat_ofNat, Nat.shiftRight_eq_div_pow, Nat.pow_mul]

end Sys2Proof.Machine
end

section
/-! PROOFS. The results of the ALU and of the operations with an immediate (R72 to R76). -/
namespace Sys2Proof.Machine

/-! ## Operations between registers (R72, R73) -/

/-- The width of an ALU operation (R72). -/
theorem alu_width (f : (n : Nat) → BitVec n → BitVec n → BitVec n) (w : Bool) (x y : Word) :
    alu f w x y = (f (if w then 32 else 64) (x.setWidth _) (y.setWidth _)).signExtend 64 := by
  cases w <;> simp [alu]

section
variable {s : State} {d a b : Reg} {ka kb w : Bool} (h : s.ready .plain ⟨[(.s a, ka), (.s b, kb)], [.s d]⟩ = true)
include h

theorem rr_ready (f : Word → Word → Word) :
    s.rr d a b ka kb f = .next (s.wrote [(.s a, ka), (.s b, kb)] d (f (s.valS s.cur a) (s.valS s.cur b))) :=
  compS_ready s .plain _ d _ h

/-- An ALU operation by the integer it gives modulo 2^w. -/
theorem rr_int {f : (n : Nat) → BitVec n → BitVec n → BitVec n}
    {op : BitVec (if w then 32 else 64) → BitVec (if w then 32 else 64) → Int} (hf : ∀ x y, f _ x y = BitVec.ofInt _ (op x y)) :
    s.rr d a b ka kb (alu f w) = .next (s.wrote [(.s a, ka), (.s b, kb)] d
      ((BitVec.ofInt (if w then 32 else 64) (op ((s.valS s.cur a).setWidth _) ((s.valS s.cur b).setWidth _))).signExtend 64)) := by
  rw [rr_ready h, alu_width, hf]

/-- An ALU operation by the natural number it gives modulo 2^w. -/
theorem rr_nat {f : (n : Nat) → BitVec n → BitVec n → BitVec n}
    {op : BitVec (if w then 32 else 64) → BitVec (if w then 32 else 64) → Nat} (hf : ∀ x y, f _ x y = BitVec.ofNat _ (op x y)) :
    s.rr d a b ka kb (alu f w) = .next (s.wrote [(.s a, ka), (.s b, kb)] d ((BitVec.ofInt (if w then 32 else 64)
      (op ((s.valS s.cur a).setWidth _) ((s.valS s.cur b).setWidth _) : Nat)).signExtend 64)) :=
  rr_int h (op := fun x y => (op x y : Int)) fun x y => (hf x y).trans (BitVec.ofInt_natCast _ _).symm

end

/-! ## Counts, reversals and extensions (R72) -/

/-- CLZ: the top bit that is set lies `clz64` bits below bit 64. -/
theorem clz64_spec (x : Word) : clz64 x ≤ 64 ∧ x.toNat < 2 ^ (64 - clz64 x) ∧ (clz64 x < 64 → 2 ^ (63 - clz64 x) ≤ x.toNat) := by
  unfold clz64
  split
  next h => simp [h]
  next h =>
    have hx : x.toNat ≠ 0 := fun e => h (BitVec.eq_of_toNat_eq e)
    have top : x.toNat.log2 < 64 := (Nat.log2_lt hx).2 x.isLt
    refine ⟨by omega, ?_, fun _ => ?_⟩
    · rw [show 64 - (63 - x.toNat.log2) = x.toNat.log2 + 1 by omega]
      exact Nat.lt_log2_self
    · rw [show 63 - (63 - x.toNat.log2) = x.toNat.log2 by omega]
      exact Nat.log2_self_le hx

/-- CTZ: the lowest bit that is set. -/
theorem ctz64_spec (x : Word) : ctz64 x ≤ 64 ∧ (∀ i, i < ctz64 x → x.getLsbD i = false) ∧
    (ctz64 x < 64 → x.getLsbD (ctz64 x) = true) := by
  unfold ctz64
  cases h : (List.range 64).find? (fun i => x.getLsbD i) with
  | none =>
    have zero := List.find?_eq_none.1 h
    exact ⟨Nat.le_refl _, fun i hi => by simpa using zero i (List.mem_range.2 hi), fun hc => absurd hc (Nat.lt_irrefl _)⟩
  | some c =>
    have least := List.find?_range_eq_some.1 h
    have hc : c < 64 := by simpa using least.2.1
    exact ⟨Nat.le_of_lt hc, fun i hi => by simpa using least.2.2 i hi, fun _ => least.1⟩

/-- POPC counts the bits. -/
theorem popc64_eq (x : Word) : popc64 x = ((List.range 64).map (fun i => (x.getLsbD i).toNat)).sum := length_filter_eq_sum ..

theorem getLsbD_brev64 (x : Word) (i : Nat) (hi : i < 64) : (brev64 x).getLsbD i = x.getLsbD (63 - i) := by
  rw [brev64, BitVec.getLsbD_reverse, BitVec.getMsbD_eq_getLsbD]
  simp [hi]

/-- BSWAP: the bytes in the other order. -/
theorem extractLsb'_bswap64 (x : Word) (i : Nat) (hi : i < 8) :
    (bswap64 x).extractLsb' (8 * i) 8 = x.extractLsb' (8 * (7 - i)) 8 := by
  have hl : i < (leBytes x.toNat 8).reverse.length := by rw [List.length_reverse, leBytes_length]; exact hi
  have field := extractLsb'_leNat (leBytes x.toNat 8).reverse 8 i 1 (by omega)
  rw [bswap64, field, List.take_one_drop_eq_of_lt_length hl]
  apply BitVec.eq_of_toNat_eq
  simp [leNat, leBytes_toNat]

/-- EXTS and EXTZ keep the low n bits, n being the low seven bits of the width (R72). -/
theorem extWidth_eq (signed : Bool) (x y : Word) : extWidth signed x y =
    if y.toNat % 128 = 0 then 0 else if 64 ≤ y.toNat % 128 then x
    else if signed then (x.setWidth (y.toNat % 128)).signExtend 64 else BitVec.ofNat 64 (x.toNat % 2 ^ (y.toNat % 128)) := by
  have field : bitsOf y 6 0 = y.toNat % 128 := rfl
  rw [extWidth, field, sext64, zext64]
  simp only [BitVec.ofNat_toNat]

/-! ## Operations with an immediate (R74 to R76) -/

/-- A sign-extended offset in units of 2^k (R7). -/
theorem signExtend_shiftLeft {n : Nat} (o : BitVec n) (k : Nat) :
    o.signExtend 64 <<< k = BitVec.ofInt 64 (o.toInt * 2 ^ k) := by
  have power : BitVec.twoPow 64 k = BitVec.ofInt 64 (2 ^ k) := by
    apply BitVec.eq_of_toNat_eq
    rw [BitVec.toNat_twoPow, ← BitVec.toNat_ofNat, ← BitVec.ofInt_natCast]
    simp
  rw [BitVec.shiftLeft_eq_mul_twoPow, BitVec.ofInt_mul, power]
  rfl

theorem toInt_imm15 (i : BitVec 15) : (imm15 i).toInt = i.toInt := BitVec.toInt_signExtend_of_le (by decide)

section
variable {s : State} {d a : Reg} {ka : Bool} (h : s.ready .plain ⟨[(.s a, ka)], [.s d]⟩ = true)
include h

theorem r1_ready (f : Word → Word) : s.r1 d a ka f = .next (s.wrote [(.s a, ka)] d (f (s.valS s.cur a))) :=
  compS_ready s .plain _ d _ h

/-- An operation with an immediate by the integer it gives modulo 2^64. -/
theorem r1_int {f : Word → Word} {op : Word → Int} (hf : ∀ x, f x = BitVec.ofInt 64 (op x)) :
    s.r1 d a ka f = .next (s.wrote [(.s a, ka)] d (BitVec.ofInt 64 (op (s.valS s.cur a)))) := by
  rw [r1_ready h, hf]

/-- A shift by an immediate by the integer it gives modulo 2^w (R75). -/
theorem r1_shift {f : (n : Nat) → BitVec n → BitVec n → BitVec n} {w : Bool} {n : BitVec 6}
    {op : BitVec (if w then 32 else 64) → Nat → Int} (hf : ∀ x y, f _ x y = BitVec.ofInt _ (op x (y.toNat % if w then 32 else 64)))
    (hn : w = true → n.toNat < 32) :
    s.r1 d a ka (fun x => alu f w x (n.setWidth 64)) = .next (s.wrote [(.s a, ka)] d
      ((BitVec.ofInt (if w then 32 else 64) (op ((s.valS s.cur a).setWidth _) n.toNat)).signExtend 64)) := by
  have amount : ((n.setWidth 64).setWidth (if w then 32 else 64)).toNat % (if w then 32 else 64) = n.toNat := by
    cases w with
    | true => have := hn rfl; simp; omega
    | false => have := n.isLt; simp; omega
  rw [r1_ready h, alu_width, hf, amount]

end


/-- Settles O9: each result from the arithmetic of its operation at every width, or from what its count or reversal means. -/
theorem scalarIntegerResults : Obligations.ScalarIntegerResults := by
  refine ⟨fun s d a b ka kb w h => ?_, fun s d a b ka kb => ⟨fun h => ⟨?_, ?_, ?_, ?_, ?_⟩, fun h => ⟨?_, ?_⟩⟩,
    fun s d a ka w i n j => ⟨fun h => ⟨?_, ?_, ?_, ?_, ?_, ?_, fun hn => ⟨?_, ?_, ?_, ?_⟩⟩, fun h => ⟨?_, ?_⟩⟩⟩
  · have int {f op} := @rr_int s d a b ka kb w h f op
    have nat {f op} := @rr_nat s d a b ka kb w h f op
    exact ⟨(nat addOp_int :), (int subOp_int :), (nat andOp_int :), (nat orOp_int :), (nat xorOp_int :), (nat andnOp_int :),
      (nat ornOp_int :), (nat sllOp_int :), (nat srlOp_int :), (int sraOp_int :), (nat rolOp_int :), (nat rorOp_int :),
      (nat sltOp_int :), (nat sltuOp_int :), (nat seqOp_int :), (int minOp_int :), (int maxOp_int :), (nat minuOp_int :),
      (nat maxuOp_int :), (nat mulOp_int :), (int mulhOp_int :), (nat mulhuOp_int :), (int divOp_int :), (int divuOp_int :),
      (int remOp_int :), (nat remuOp_int :)⟩
  · exact ⟨_, r1_ready h (fun x => BitVec.ofNat 64 (clz64 x)), clz64_spec _⟩
  · exact ⟨_, r1_ready h (fun x => BitVec.ofNat 64 (ctz64 x)), ctz64_spec _⟩
  · rw [← popc64_eq]
    exact r1_ready h (fun x => BitVec.ofNat 64 (popc64 x))
  · exact ⟨_, r1_ready h brev64, getLsbD_brev64 _⟩
  · exact ⟨_, r1_ready h bswap64, extractLsb'_bswap64 _⟩
  · exact (rr_ready h _).trans (by rw [extWidth_eq]; rfl)
  · exact (rr_ready h _).trans (by rw [extWidth_eq]; rfl)
  · exact r1_int h (f := fun x => x + imm15 i) (op := fun x => (x.toNat : Int) + i.toInt) fun x => by
      rw [BitVec.ofInt_add, BitVec.ofInt_natCast, BitVec.ofNat_toNat, BitVec.setWidth_eq]; rfl
  · exact r1_int h (f := fun x => x &&& imm15 i) (op := fun x => (x.toNat &&& (imm15 i).toNat : Nat)) fun x =>
      (andOp_int x _).trans (BitVec.ofInt_natCast ..).symm
  · exact r1_int h (f := fun x => x ||| imm15 i) (op := fun x => (x.toNat ||| (imm15 i).toNat : Nat)) fun x =>
      (orOp_int x _).trans (BitVec.ofInt_natCast ..).symm
  · exact r1_int h (f := fun x => x ^^^ imm15 i) (op := fun x => (x.toNat ^^^ (imm15 i).toNat : Nat)) fun x =>
      (xorOp_int x _).trans (BitVec.ofInt_natCast ..).symm
  · exact r1_int h (f := fun x => bit1 64 (x.slt (imm15 i))) (op := fun x => if x.toInt < i.toInt then 1 else 0) fun x =>
      (sltOp_int x _).trans (by rw [toInt_imm15]; split <;> rfl)
  · exact r1_int h (f := fun x => bit1 64 (x.ult (imm15 i))) (op := fun x => if x.toNat < (imm15 i).toNat then 1 else 0) fun x =>
      (sltuOp_int x _).trans (by split <;> rfl)
  · exact r1_shift h (op := fun x k => (x.toNat * 2 ^ k : Nat)) (fun x y => (sllOp_int x y).trans (BitVec.ofInt_natCast ..).symm) hn
  · exact r1_shift h (op := fun x k => (x.toNat / 2 ^ k : Nat)) (fun x y => (srlOp_int x y).trans (BitVec.ofInt_natCast ..).symm) hn
  · exact r1_shift h (op := fun x k => x.toInt / 2 ^ k) sraOp_int hn
  · exact r1_shift h (op := fun x k => (x.toNat * 2 ^ k + x.toNat / 2 ^ ((if w then 32 else 64) - k) : Nat))
      (fun x y => (rolOp_int x y).trans (BitVec.ofInt_natCast ..).symm) hn
  · exact (compS_ready s .plain [] d _ h).trans (by rw [signExtend_shiftLeft])
  · exact (compS_ready s .plain [] d _ h).trans (by rw [signExtend_shiftLeft]; rfl)

end Sys2Proof.Machine
end

section
/-! PROOFS. Branches and jumps (R93, R94). -/
namespace Sys2Proof.Machine

theorem wordOffset_eq {n : Nat} (o : BitVec n) : wordOffset o = BitVec.ofInt 64 (o.toInt * 4) := signExtend_shiftLeft o 2

/-- A ready branch goes to its target when its condition holds, and else on (R93). -/
theorem branch_ready {s : State} {a b : Reg} {ka kb : Bool} {o : BitVec 11} {c : Word → Word → Bool} {p : Prop} [Decidable p]
    (h : s.ready .plain ⟨[(.s a, ka), (.s b, kb)], []⟩ = true) (hc : c (s.valS s.cur a) (s.valS s.cur b) = decide p) :
    s.branch a b ka kb o c = .next ((s.popAll s.cur [(.s a, ka), (.s b, kb)]).retire s.cur
      (if p then .taken (s.me.pc + BitVec.ofInt 64 (o.toInt * 4)) else .next)) := by
  rw [State.branch, issue_ready _ _ _ _ h, finish_go, wordOffset_eq, hc]
  simp only [decide_eq_true_eq]

/-- A word address is one whose two low bits are 0 (R42). -/
theorem wordAddress_iff (x : Word) : (bitsOf x 1 0 == 0) = decide (x.toNat % 4 = 0) := by
  rw [beq_eq_decide]; rfl

/-- Settles O11: the condition of each branch in numbers, and the target of each jump. -/
theorem branchAndJumpTargets : Obligations.BranchAndJumpTargets := by
  refine fun s d a b ka kb o j i => ⟨fun h => ?_, fun h => ?_, fun h => ?_, fun h => ?_⟩
  · refine ⟨branch_ready (c := fun x y => x == y) h ?_, branch_ready (c := fun x y => x != y) h ?_,
      branch_ready (c := fun x y => x.slt y) h ?_, branch_ready (c := fun x y => !x.slt y) h ?_,
      branch_ready (c := fun x y => x.ult y) h ?_, branch_ready (c := fun x y => !x.ult y) h ?_⟩
    · exact beq_eq_decide ..
    · simp [bne, beq_eq_decide]
    · exact BitVec.slt_eq_decide ..
    · simp only [BitVec.slt_eq_decide, ← decide_not, Int.not_lt]
    · exact BitVec.ult_eq_decide ..
    · simp only [BitVec.ult_eq_decide, ← decide_not, Nat.not_lt]
  · have tests : exec (.bf a o) s = execBf a o s := rfl
    rw [tests, execBf, issue_ready _ _ _ _ h, finish_go, wordOffset_eq]
    rfl
  · have jump : exec (.jal d j) s = execJal d j s := rfl
    rw [jump, execJal, issue_ready _ _ _ _ h, finish_go, wordOffset_eq, popAll_nil]
  · intro target
    have jump : exec (.jalr d a ka i) s = execJalr d a ka i s := rfl
    have ht : s.valS s.cur a + imm15 i = target := rfl
    rw [jump, execJalr, issue_ready _ _ _ _ h, ht, wordAddress_iff]
    by_cases aligned : target.toNat % 4 = 0
    · rw [if_pos aligned, decide_eq_true aligned]; rfl
    · rw [if_neg aligned, decide_eq_false aligned]; rfl

end Sys2Proof.Machine
end

section
/-! PROOFS. Hardware loops (R95 to R98). -/
namespace Sys2Proof.Machine

/-- The instruction goes on where its encoding may not stand: it traps ILLEGAL before its sources are read (R43). -/
theorem issueIf_refused {s : State} {c : IssueClass} {u v : Uses} {body : State → Res (State × PcFlow)}
    (h : s.ready c v = true) : s.issueIf c true u body = .next (s.trapNow (illegalOf s.me)) := by
  obtain ⟨exists_, -, free, -, -⟩ := (ready_iff s c v).1 h
  simp only [State.issueIf, exists_, holds_less _ _ free, Bool.not_true, Bool.false_eq_true, if_false, Bool.or_true, if_true]

/-- A loop may begin: fewer than four are on the stack, and its body ends within the innermost unfrozen one's (R96). -/
theorem loopRefused_iff (h : Holder) (l : BitVec 10) : h.loopRefused l = false ↔ h.loops.length < 4 ∧
    ∀ e ∈ h.loops.head?, e.frozen = true ∨ (h.pc + 4 + BitVec.ofNat 64 (4 * (l.toNat - 1))).toNat ≤ (lastOf e).toNat := by
  unfold Holder.loopRefused
  rcases h.loops with _ | ⟨e, r⟩
  · simp [innermost]
  · simp only [Bool.or_eq_false_iff, decide_eq_false_iff_not, Nat.not_le, List.head?_cons, Option.mem_some_iff, forall_eq']
    cases hf : e.frozen <;> simp [innermost, hf]

/-- What LOOP and LOOPI do to the state (R96): the body is entered with its entry pushed, or skipped for a count of 0. -/
def State.entersLoop (t : State) (w : Who) (l : BitVec 10) (n : Nat) : State :=
  let pc := (t.holder w).pc
  if n = 0 then t.retire w (.skip (pc + 4 + BitVec.ofNat 64 (4 * l.toNat)))
  else (t.modHolder w (fun h => { h with loops := { start := pc + 4, len := l.toNat, count := n, frozen := false } :: h.loops })).retire
    w .enter

theorem finish_beginLoop (s t : State) (l : BitVec 10) (n : Nat) :
    s.finish (.go (t.beginLoop s.cur l n)) = .next (t.entersLoop s.cur l n) := by
  by_cases hn : n = 0 <;> simp [State.beginLoop, State.entersLoop, hn]

/-- The count of LOOP is the low half of its register (R96). -/
theorem loopCount_eq (x : Word) : bitsOf x 31 0 = x.toNat % 2 ^ 32 := rfl

section
variable {s : State} {a : Reg} {ka : Bool} {l n : BitVec 10}

theorem exec_loop_enters (h : s.ready .plain ⟨[(.s a, ka)], []⟩ = true) (hf : s.me.loopRefused l = false) :
    exec (.loop a ka l) s = .next ((s.popAll s.cur [(.s a, ka)]).entersLoop s.cur l ((s.valS s.cur a).toNat % 2 ^ 32)) := by
  have loop : exec (.loop a ka l) s = execLoop a ka l s := rfl
  rw [loop, execLoop, hf, issueIf_ready _ _ _ _ h, finish_beginLoop, loopCount_eq]

theorem exec_loopi_enters (h : s.ready .plain ⟨[], []⟩ = true) (hf : s.me.loopRefused l = false) :
    exec (.loopi l n) s = .next (s.entersLoop s.cur l n.toNat) := by
  have loopi : exec (.loopi l n) s = execLoopi l n s := rfl
  rw [loopi, execLoopi, hf, issueIf_ready _ _ _ _ h, finish_beginLoop, popAll_nil]

theorem exec_loops_refused (h : s.ready .plain ⟨[], []⟩ = true) (hf : s.me.loopRefused l = true) :
    exec (.loop a ka l) s = .next (s.trapNow (illegalOf s.me)) ∧ exec (.loopi l n) s = .next (s.trapNow (illegalOf s.me)) := by
  have loop : exec (.loop a ka l) s = execLoop a ka l s := rfl
  have loopi : exec (.loopi l n) s = execLoopi l n s := rfl
  rw [loop, loopi, execLoop, execLoopi, hf, issueIf_refused h, issueIf_refused h]
  exact ⟨rfl, rfl⟩

end

/-- What the boundary of an instruction that takes no transfer leaves of the PC and the loops (R97). -/
theorem advance_next (h : Holder) :
    (h.advance .next).pc = ((endIteration h.pc h.loops).2).getD (h.pc + 4) ∧ (h.advance .next).loops = (endIteration h.pc h.loops).1 := by
  unfold Holder.advance
  dsimp only
  rcases endIteration h.pc h.loops with ⟨l, _ | start⟩ <;> exact ⟨rfl, rfl⟩

/-- A loop's body holds an address (R97). -/
theorem loopHolds_iff (e : LoopEntry) (t : Word) :
    loopHolds e t = true ↔ e.start.toNat ≤ t.toNat ∧ t.toNat ≤ e.start.toNat + 4 * (e.len - 1) := by
  simp [loopHolds]

/-- Settles O12: the issue of LOOP and LOOPI, and the boundary from what the end of an iteration and a transfer pop. -/
theorem hardwareLoops : Obligations.HardwareLoops := by
  refine ⟨fun s a ka l n => ?_, fun h l r t => ⟨fun hl => ?_, fun hl stays => ?_, fun hl thawed ends more => ?_,
    fun hl thawed ends last => ?_, rfl, ?_⟩⟩
  · intro lastWord fits entered
    have fit : s.me.loopRefused l = false ↔ fits := loopRefused_iff s.me l
    exact ⟨fun h hf => exec_loop_enters h (fit.2 hf), fun h hf => exec_loopi_enters h (fit.2 hf),
      fun h hf => exec_loops_refused h (Bool.eq_true_of_not_eq_false (mt fit.1 hf))⟩
  · rw [(advance_next h).1, (advance_next h).2, hl]; exact ⟨rfl, rfl⟩
  · rw [(advance_next h).1, (advance_next h).2, hl, endIteration_stay h.pc l r stays]; exact ⟨rfl, rfl⟩
  · rw [(advance_next h).1, (advance_next h).2, hl, endIteration_again h.pc l r thawed ends more]; exact ⟨rfl, rfl⟩
  · rw [(advance_next h).1, (advance_next h).2, hl, endIteration_ends h.pc l r thawed ends last, (advance_next _).1,
      (advance_next _).2]
    exact ⟨rfl, rfl⟩
  · obtain ⟨gone, all, popped, kept⟩ := popOutside_spec t h.loops
    simp only [← Bool.not_eq_true, loopHolds_iff] at popped kept
    simp only [← loopHolds_iff]
    refine ⟨gone, popOutside t h.loops, all, rfl, ?_, ?_⟩
    · simpa [loopHolds_iff] using popped
    · simpa [loopHolds_iff] using kept

end Sys2Proof.Machine
end

section
/-! PROOFS. The floating-point unit (R77 to R84). -/
namespace Sys2Proof.Machine

/-- How an FPU instruction ends (R79): its result written and its flags added, or FPTRAP where one of them is enabled. -/
def State.fpuOut (s : State) (d : Reg) (srcs : List (RegName × Bool)) (bits raised : Nat) : Out :=
  let t := s.popAll s.cur srcs
  if raised &&& ((t.holder s.cur).fctl.toNat / 256 % 32) = 0 then
    .next (((t.modHolder s.cur (fun h => { h with fflags := h.fflags ||| BitVec.ofNat 64 raised })).writeS s.cur d
      (BitVec.ofNat 64 bits)).retire s.cur .next)
  else .next (s.trapNow (trapOf 0x0C (BitVec.ofNat 64 raised)))

/-- The rounding mode of an FPU instruction (R77, R82). -/
theorem fpuMode_eq (h : Holder) (rm : Rm) : h.fpuMode rm = if rm = .dyn then rmOfField (h.fctl.toNat % 8) else rm := by
  cases rm <;> rfl

theorem fmtOf_width (p : Bool) : (fmtOf p).width = if p then 64 else 32 := by cases p <;> rfl

/-- The operand that a register holds (R81). -/
theorem fval_eq (s : State) (p : Bool) (r : Reg) :
    s.fval (fmtOf p) r = (fmtOf p).decode ((s.valS s.cur r).toNat % 2 ^ (if p then 64 else 32)) := by
  rw [State.fval, fmtOf_width]

/-! ## Comparisons (R82) -/

theorem isNan_of_isSnan (x : Value) (h : x.isSnan = true) : x.isNan = true := by
  cases x with
  | nan => rfl
  | inf | fin => exact absurd h Bool.false_ne_true

theorem fEq_eq (x y : Value) : fEq x y =
    (!(x.isNan || y.isNan) && numEq x y, if x.isSnan || y.isSnan then 16 else 0) := by
  cases h : x.isNan || y.isNan with
  | true => simp [fEq, h, flNV]
  | false =>
    have quiet : (x.isSnan || y.isSnan) = false := by
      rw [Bool.or_eq_false_iff] at h ⊢
      exact ⟨Bool.eq_false_of_not_eq_true (fun e => by simp [isNan_of_isSnan x e] at h),
        Bool.eq_false_of_not_eq_true (fun e => by simp [isNan_of_isSnan y e] at h)⟩
    simp [fEq, h, quiet]

theorem fLt_eq (x y : Value) : fLt x y =
    (!(x.isNan || y.isNan) && numLt x y && !numEq x y, if x.isNan || y.isNan then 16 else 0) := by
  cases h : x.isNan || y.isNan <;> simp [fLt, h, flNV]

theorem fLe_eq (x y : Value) : fLe x y =
    (!(x.isNan || y.isNan) && (numLt x y || numEq x y), if x.isNan || y.isNan then 16 else 0) := by
  cases h : x.isNan || y.isNan <;> simp [fLe, h, flNV]

/-! ## Conversions (R82, R83) -/

/-- The two's complement value of the low bits of a word. -/
theorem twos_toNat {n : Nat} (x : BitVec n) (w : Nat) (hw : 0 < w) : twos w x.toNat = (x.setWidth w).toInt := by
  have half : 2 ^ w = 2 * 2 ^ (w - 1) := by rw [← Nat.pow_succ']; congr 1; omega
  have power : ((2 ^ w : Nat) : Int) = 2 ^ w := by simp
  rw [twos, BitVec.toInt_eq_toNat_cond, BitVec.toNat_setWidth]
  split <;> split <;> omega

theorem ofInteger_signed (wide : Bool) (x : Word) :
    ofInteger true wide x = numOfInt (if wide then x.toInt else (x.setWidth 32).toInt) := by
  cases wide
  · exact congrArg numOfInt (twos_toNat x 32 (by decide))
  · exact congrArg numOfInt ((twos_toNat x 64 (by decide)).trans (by rw [BitVec.setWidth_eq]; rfl))

theorem ofInteger_unsigned (wide : Bool) (x : Word) :
    ofInteger false wide x = numOfInt ((if wide then x.toNat else (x.setWidth 32).toNat : Nat) : Int) := by
  cases wide
  · rfl
  · exact congrArg (fun n : Nat => numOfInt (n : Int)) (Nat.mod_eq_of_lt x.isLt)

/-- The range of a signed result (R83). -/
theorem toInteger_signed (wide : Bool) (rm : Rm) (x : Value) : toInteger true wide rm x =
    let r := toIntRange rm (if wide then -2 ^ 63 else -2 ^ 31) (if wide then 2 ^ 63 - 1 else 2 ^ 31 - 1) x
    ((BitVec.ofInt 64 r.1).toNat, r.2) := by
  cases wide <;> rfl

/-- The range of an unsigned result (R83). -/
theorem toInteger_unsigned (wide : Bool) (rm : Rm) (x : Value) : toInteger false wide rm x =
    let r := toIntRange rm 0 (if wide then 2 ^ 64 - 1 else 2 ^ 32 - 1) x
    ((BitVec.ofInt 64 r.1).toNat, r.2) := by
  cases wide <;> rfl

/-! ## The instructions, shape by shape -/

section
variable {s : State} {d a b : Reg} {ka kb p : Bool} {rm : Rm}

theorem fpu_out {srcs : List (RegName × Bool)} (h : s.ready .compute ⟨srcs, [.s d]⟩ = true) (r : Nat × Nat) :
    s.fpu d srcs r = s.fpuOut d srcs r.1 r.2 := fpu_ready s d srcs r h

theorem fpu2_out (h : s.ready .compute ⟨[(.s a, ka), (.s b, kb)], [.s d]⟩ = true) (f : Rm → Value → Value → FRes) :
    s.fpu2 d a b ka kb p rm f =
      let r := f (s.me.fpuMode rm) (s.fval (fmtOf p) a) (s.fval (fmtOf p) b)
      s.fpuOut d [(.s a, ka), (.s b, kb)] ((fmtOf p).round (s.me.fpuMode rm) r.1).1
        (r.2 ||| ((fmtOf p).round (s.me.fpuMode rm) r.1).2) := fpu_out h _

theorem fpu3_out (h : s.ready .compute ⟨[(.s a, ka), (.s b, kb), (.s d, false)], [.s d]⟩ = true)
    (f : Rm → Value → Value → Value → FRes) :
    s.fpu3 d a b ka kb p rm f =
      let r := f (s.me.fpuMode rm) (s.fval (fmtOf p) a) (s.fval (fmtOf p) b) (s.fval (fmtOf p) d)
      s.fpuOut d [(.s a, ka), (.s b, kb), (.s d, false)] ((fmtOf p).round (s.me.fpuMode rm) r.1).1
        (r.2 ||| ((fmtOf p).round (s.me.fpuMode rm) r.1).2) := fpu_out h _

theorem fcmp_out (h : s.ready .compute ⟨[(.s a, ka), (.s b, kb)], [.s d]⟩ = true) (f : Value → Value → Bool × Nat) :
    s.fcmp d a b ka kb p f =
      let r := f (s.fval (fmtOf p) a) (s.fval (fmtOf p) b)
      s.fpuOut d [(.s a, ka), (.s b, kb)] (if r.1 then 1 else 0) r.2 := fpu_out h _

end

/-- Settles O13: every FPU instruction ends as `fpuOut` says with its own result and flags. -/
theorem fpuResults : Obligations.FpuResults := by
  refine ⟨fun s d a b ka kb p rm => ?_, fun s d a b c ka kb p wide rm => ?_⟩
  · intro f m num x y z out s1 s2 s3
    have mode : s.me.fpuMode rm = m := fpuMode_eq s.me rm
    have operand (r : Reg) : s.fval (fmtOf p) r = num r := fval_eq s p r
    refine ⟨fun h => ?_, fun h => ?_, fun h => ?_⟩
    · have two (g) : s.fpu2 d a b ka kb p rm g = out s2 (g m x y) := by
        rw [fpu2_out h, mode, operand, operand]; rfl
      exact ⟨two fAdd, two fSub, two fun _ => fMul, two fun _ => fDiv⟩
    · have root : exec (.fsqrt d a ka p rm) s = s.fpu d s1 ((fmtOf p).finish (s.me.fpuMode rm) (fSqrt (s.fval (fmtOf p) a))) := rfl
      rw [root, fpu_out h, mode, operand]; rfl
    · have three (g) : s.fpu3 d a b ka kb p rm g = out s3 (g m x y z) := by
        rw [fpu3_out h, mode, operand, operand, operand]; rfl
      exact ⟨three fFma, three fFms⟩
  · intro f m raw x y out s1 s2 anyNan anySnan integer number
    have mode : s.me.fpuMode rm = m := fpuMode_eq s.me rm
    have operand (r : Reg) : s.fval (fmtOf p) r = f.decode (raw r) := fval_eq s p r
    refine ⟨fun h => ?_, fun h => ?_⟩
    · have extreme (max : Bool) : s.fpu2 d a b ka kb p .rne (fun _ => fMinMax max) =
          out s2 (f.round .rne (fMinMax max x y).1).1 ((fMinMax max x y).2 ||| (f.round .rne (fMinMax max x y).1).2) := by
        rw [fpu2_out h, operand, operand]; rfl
      have compare {g : Value → Value → Bool × Nat} {r : Bool × Nat} (hg : g x y = r) :
          s.fcmp d a b ka kb p g = out s2 (if r.1 then 1 else 0) r.2 := by
        rw [fcmp_out h, operand, operand, ← hg]; rfl
      exact ⟨extreme false, extreme true, compare (fEq_eq x y), compare (fLt_eq x y), compare (fLe_eq x y)⟩
    · have convert {r t : Nat × Nat} (hr : r = t) : s.fconv d a ka r = out s1 t.1 t.2 := hr ▸ fpu_out h r
      have mask : ((2 ^ (fmtOf p).classOf ((s.valS s.cur a).toNat % 2 ^ (fmtOf p).width), 0) : Nat × Nat) =
          (2 ^ f.classOf (raw a), 0) := by rw [fmtOf_width]; rfl
      have toSigned := (congrArg₂ (toInteger true wide) mode (operand a)).trans (toInteger_signed wide m x)
      have toUnsigned := (congrArg₂ (toInteger false wide) mode (operand a)).trans (toInteger_unsigned wide m x)
      have ofSigned := congrArg₂ (fmtOf p).round mode (ofInteger_signed wide (s.valS s.cur a))
      have ofUnsigned := congrArg₂ (fmtOf p).round mode (ofInteger_unsigned wide (s.valS s.cur a))
      have widened (g : FFmt) (hg : codeFloat c.toNat = some g) :=
        congrArg₂ (fmtOf p).round mode (congrArg (fun o : Option FFmt => s.fval (o.getD fp32) a) hg)
      exact ⟨convert mask, convert toSigned, convert toUnsigned, convert ofSigned, convert ofUnsigned,
        fun g hg => convert (widened g hg)⟩

end Sys2Proof.Machine
end

section
/-! PROOFS. The issue of scalar loads and stores (R85 to R92). -/
namespace Sys2Proof.Machine

/-- How an issue ends whose access is checked first (R85, R87, R89): the checks of the address, then what follows them. -/
theorem finish_checkAccess (s t : State) (w : Who) (a : Word) (n align : Nat) (q : Qual) (typed : Bool)
    (body : Unit → Res (State × PcFlow)) :
    s.finish ((t.checkAccess w a n align q typed).bind body) =
      if a.toNat % align ≠ 0 then .next (s.trapNow (trapOf 0x03 a))
      else match t.accessFault w a n q typed with
        | some e => .next (s.trapNow e)
        | none => if t.accessWaits w a q = true then .next s.wait else s.finish (body ()) := by
  unfold State.checkAccess
  by_cases aligned : a.toNat % align = 0
  · simp only [aligned, bne_self_eq_false, Bool.false_eq_true, if_false, ne_eq, not_true_eq_false]
    cases t.accessFault w a n q typed with
    | some e => rfl
    | none => cases t.accessWaits w a q <;> rfl
  · simp only [bne_iff_ne, ne_eq, aligned, not_false_eq_true, if_true]
    rfl

section
variable {s : State} {d a : Reg} {k : Bool} {q : Qual} {o : BitVec 13}

/-- A ready scalar load (R85, R86, R90). -/
theorem scalarLoad_ready (h : s.ready .load ⟨[(.s a, k)], [.s d]⟩ = true) (size : Nat) (signed : Bool) :
    s.scalarLoad d a k q o size signed =
      let addr := s.memAddr a o
      let t := s.popAll s.cur [(.s a, k)]
      if addr.toNat % size ≠ 0 then .next (s.trapNow (trapOf 0x03 addr))
      else match t.accessFault s.cur addr size q false with
        | some e => .next (s.trapNow e)
        | none =>
          if t.accessWaits s.cur addr q = true then .next s.wait
          else .next ((t.startLoad s.cur (.scalar d size signed) addr q
            (t.partsOf (t.ownAccess s.cur) .load addr size q [])).retire s.cur .load) := by
  rw [State.scalarLoad, issue_ready _ _ _ _ h, finish_checkAccess]
  rfl

/-- A ready scalar store (R85, R86, R92, log entry 30). -/
theorem scalarStore_ready (h : s.ready .store ⟨[(.s a, k), (.s d, k)], []⟩ = true) (size : Nat) :
    s.scalarStore d a k q o size =
      let addr := s.memAddr a o
      let t := s.popAll s.cur [(.s a, k), (.s d, k)]
      let data := leBytes (s.valS s.cur d).toNat size
      if addr.toNat % size ≠ 0 then .next (s.trapNow (trapOf 0x03 addr))
      else match t.accessFault s.cur addr size q false with
        | some e => .next (s.trapNow e)
        | none =>
          if t.accessWaits s.cur addr q = true then .next s.wait
          else if t.windowWaits s.cur (t.placeOf s.cur addr.toNat) = true then .next s.wait
          else match t.windowRefuses (t.placeOf s.cur addr.toNat) data with
            | some e => .next (s.trapNow e)
            | none => .next ((t.startStore s.cur addr false q
                (t.partsOf (t.ownAccess s.cur) .store addr size q data)).retire s.cur .next) := by
  rw [State.scalarStore, issue_ready _ _ _ _ h, finish_checkAccess]
  generalize s.popAll s.cur [(.s a, k), (.s d, k)] = t
  dsimp only
  cases t.windowWaits s.cur (t.placeOf s.cur (s.memAddr a o).toNat) with
  | true => rfl
  | false => cases t.windowRefuses (t.placeOf s.cur (s.memAddr a o).toNat) (leBytes (s.valS s.cur d).toNat size) <;> rfl

end

/-- Settles O15: each load and store is the shared one of its size, whose checks come in the order of the statement. -/
theorem scalarLoadsAndStoresIssue : Obligations.ScalarLoadsAndStoresIssue := by
  refine ⟨fun s d a k q o h => ?_, fun s d a k q o h => ?_⟩
  · have load := scalarLoad_ready (q := q) (o := o) h
    exact ⟨load 1 true, load 1 false, load 2 true, load 2 false, load 4 true, load 4 false, load 8 false⟩
  · have store := scalarStore_ready (q := q) (o := o) h
    simp only [leBytes_toNat] at store
    exact ⟨store 1, store 2, store 4, store 8⟩

end Sys2Proof.Machine
end

section
/-! PROOFS. The instructions that hold for the loads before them (R90). -/
namespace Sys2Proof.Machine

/-- The current core is one that the module has, and a load of it is unsettled (R90). -/
structure State.LoadsOut (s : State) : Prop where
  exists_ : whoExists s.cur = true
  out : s.me.unsettled ≠ []

/-- The current core has the instructions outside the base profile (R47). -/
def State.full (s : State) : Prop := isBase s.cur.core = false

/-! ## Issue and the shared operations -/

section
variable {s : State} (h : s.LoadsOut)
include h

/-- An instruction that holds waits while a load is unsettled, on a core that has it. -/
theorem issue_waits {c : IssueClass} {u : Uses} {body : State → Res (State × PcFlow)} (hc : c.hold = true)
    (hb : isBase s.cur.core = true → c.base = true) : s.issue c u body = .next s.wait := by
  have profile : (isBase s.cur.core && !c.base || false) = false := by
    cases hk : isBase s.cur.core
    · rfl
    · simp [hb hk]
  have held : s.me.holds c = true := by simp [Holder.holds, hc, h.out]
  simp only [State.issue, State.issueIf, h.exists_, profile, held, Bool.not_true, Bool.false_eq_true, if_false, if_true, ite_self]

theorem issue_store_waits {u : Uses} {body : State → Res (State × PcFlow)} : s.issue .store u body = .next s.wait :=
  issue_waits h rfl fun _ => rfl

theorem issue_held_waits {u : Uses} {body : State → Res (State × PcFlow)} : s.issue .held u body = .next s.wait :=
  issue_waits h rfl fun _ => rfl

theorem scalarStore_waits {d a : Reg} {k : Bool} {q : Qual} {o : BitVec 13} {size : Nat} :
    s.scalarStore d a k q o size = .next s.wait := issue_store_waits h

theorem sync_waits {op : Nat} {u : Uses} {body : State → Res (State × PcFlow)} : s.sync op u body = .next s.wait :=
  issue_store_waits h

theorem phaserLoad_waits {n : Nat} {op : PhaserCmd} {a b : Reg} {ka acq : Bool} {modes : List Nat} {kind : LoadKind} :
    s.phaserLoad n op a b ka acq modes kind = .next s.wait := sync_waits h

theorem copying_waits {k : CopyKind} {a b : Reg} {ka kb : Bool} {t : BitVec 3} : s.copying k a b ka kb t = .next s.wait :=
  issue_store_waits h

theorem crModify_waits {d : Reg} {c : BitVec 10} {f : Word → Word → Word} : s.crModify d c f = .next s.wait :=
  issue_held_waits h

variable (hf : s.full)
include hf

theorem issue_vstore_waits {u : Uses} {body : State → Res (State × PcFlow)} : s.issue .vstore u body = .next s.wait :=
  issue_waits h rfl fun hb => absurd hb (by rw [hf]; exact Bool.false_ne_true)

theorem issue_vheld_waits {u : Uses} {body : State → Res (State × PcFlow)} : s.issue .vheld u body = .next s.wait :=
  issue_waits h rfl fun hb => absurd hb (by rw [hf]; exact Bool.false_ne_true)

theorem sending_waits {k : SendKind} {a b : Reg} {ka kb : Bool} : s.sending k a b ka kb = .next s.wait := issue_vstore_waits h hf

theorem mtxIssue_waits {u : Uses} {body : State → Res (State × PcFlow)} : s.mtxIssue u body = .next s.wait :=
  issue_vstore_waits h hf

theorem sigIssue_waits {k : SigKind} {a b : Reg} {ka kb : Bool} {two : Bool} : s.sigIssue k a b ka kb two = .next s.wait :=
  issue_vstore_waits h hf

theorem xing_waits {u : Uses} {body : State → Res (State × PcFlow)} : s.xing u body = .next s.wait := issue_vstore_waits h hf

theorem atomic_waits {op : AmoOp} {d a b : Reg} {ka kb wide aq rl : Bool} : s.atomic op d a b ka kb wide aq rl = .next s.wait :=
  issue_vstore_waits h hf

theorem reduction_waits {op : AmoOp} {a b : Reg} {ka kb wide rl : Bool} : s.reduction op a b ka kb wide rl = .next s.wait :=
  issue_vstore_waits h hf

end

/-! ## The instructions that hold -/

/-- The instructions of the base profile that hold (R47, R90): the scalar stores, the commands of the engines SYNC, COPY and GEN, TRAP,
BREAK, CRW, CRS and CRC. -/
def baseHolds : Instr → Bool
  | .sb .. | .sh .. | .sw .. | .sd .. => true
  | .pjoin .. | .pleave .. | .psig .. | .pwait .. | .psigw .. | .pqry .. | .dqpush .. | .dqpop .. | .dqsplit .. | .dqsteal .. |
    .gdec .. | .garm .. | .tdead .. | .tclass .. | .thrbind .. => true
  | .cpy .. | .cpym .. | .cpyg .. | .strm .. | .qbind .. | .prel .. | .bufdef .. | .publish .. | .cpoll .. | .ringeos .. => true
  | .ecfg .. | .erd .. | .edrain .. => true
  | .trap .. | .crw .. | .crs .. | .crc .. | .brk .. => true
  | _ => false

/-- The instructions outside the base profile that hold: the vector stores, the atomics and reductions, the commands of the engines
MSG, MTX, SIG and XING, and WINBEG. -/
def computeHolds : Instr → Bool
  | .vst .. | .vstx .. | .winbeg .. => true
  | .send .. | .sendr .. | .sendv .. | .reply .. | .mbind .. | .mseal .. | .rankrd .. | .rankwr .. | .rankmv .. => true
  | .mmul .. | .mzero .. | .mdrain .. | .mopen .. | .mclose .. | .mctx .. | .mpark .. | .munpark .. => true
  | .sghash .. | .sgroom .. | .sglead .. | .sgscat .. | .sgsum .. | .sgsel .. => true
  | .xdef .. | .xset .. | .xnext .. | .xpost .. | .xpop .. | .xcurf .. | .xdep .. | .xsamp .. | .xbudg .. => true
  | .amadd .. | .amand .. | .amor .. | .amxor .. | .ammin .. | .ammax .. | .amminn .. | .ammaxn .. | .amswp .. | .amcas .. |
    .amfadd .. | .amfmin .. | .amfmax .. | .redadd .. | .redand .. | .redor .. | .redxor .. | .redmin .. | .redmax .. |
    .redminn .. | .redmaxn .. | .redfadd .. | .redfmin .. | .redfmax .. => true
  | _ => false

theorem exec_baseHolds {s : State} (h : s.LoadsOut) (i : Instr) (hi : baseHolds i = true) : exec i s = .next s.wait := by
  cases i
  case sb | sh | sw | sd => exact scalarStore_waits h
  case pwait | psigw | pqry => delta exec; dsimp only; exact phaserLoad_waits h
  case cpy | cpyg => exact copying_waits h
  case pjoin | pleave | psig | dqpush | dqpop | dqsplit | dqsteal | gdec | garm | tdead | tclass | thrbind =>
    delta exec; dsimp only; exact sync_waits h
  case cpym | strm | qbind | prel | bufdef | publish | cpoll | ringeos | ecfg | erd | edrain =>
    delta exec; dsimp only; exact issue_store_waits h
  case crw | crs | crc => delta exec; dsimp only; exact crModify_waits h
  case trap | brk => delta exec; dsimp only; exact issue_held_waits h
  all_goals exact absurd hi Bool.false_ne_true

theorem exec_computeHolds {s : State} (h : s.LoadsOut) (hf : s.full) (i : Instr) (hi : computeHolds i = true) :
    exec i s = .next s.wait := by
  cases i
  case vst | vstx | mbind | mseal | rankrd | rankwr | rankmv | mpark => delta exec; dsimp only; exact issue_vstore_waits h hf
  case winbeg => delta exec; dsimp only; exact issue_vheld_waits h hf
  case send | sendr | sendv | reply => exact sending_waits h hf
  case mmul | mzero | mopen | mclose | mctx | munpark | mdrain => delta exec; dsimp only; exact mtxIssue_waits h hf
  case sghash | sgroom | sglead | sgscat | sgsum | sgsel => exact sigIssue_waits h hf
  case xdef | xset | xnext | xpost | xpop | xcurf | xdep | xsamp | xbudg => delta exec; dsimp only; exact xing_waits h hf
  case amadd | amand | amor | amxor | ammin | ammax | amminn | ammaxn | amswp | amcas | amfadd | amfmin | amfmax =>
    exact atomic_waits h hf
  case redadd | redand | redor | redxor | redmin | redmax | redminn | redmaxn | redfadd | redfmin | redfmax =>
    exact reduction_waits h hf
  all_goals exact absurd hi Bool.false_ne_true

/-! ## What the map decodes to -/

theorem all_guard {p : Instr → Bool} {c : Bool} {o : Option Instr} (h : o.all p = true) : (if c then o else none).all p = true := by
  cases c
  · rfl
  · exact h

theorem decodeEngSync_holds (w : BitVec 32) : (decodeEngSync w).all baseHolds = true := by
  unfold decodeEngSync
  split
  case h_16 => rfl
  all_goals exact all_guard rfl

theorem decodeEngCopy_holds (w : BitVec 32) : (decodeEngCopy w).all baseHolds = true := by
  unfold decodeEngCopy
  split
  case h_1 | h_2 | h_3 | h_4 | h_9 | h_11 => rfl
  all_goals exact all_guard rfl

theorem decodeEngGen_holds (w : BitVec 32) : (decodeEngGen w).all baseHolds = true := by
  unfold decodeEngGen
  split
  case h_4 => rfl
  all_goals exact all_guard rfl

theorem decodeEngMsg_holds (w : BitVec 32) : (decodeEngMsg w).all computeHolds = true := by
  unfold decodeEngMsg
  split
  case h_10 => rfl
  all_goals exact all_guard rfl

theorem decodeEngMtx_holds (w : BitVec 32) : (decodeEngMtx w).all computeHolds = true := by
  unfold decodeEngMtx
  split
  case h_1 | h_3 | h_9 => rfl
  all_goals exact all_guard rfl

theorem decodeEngSig_holds (w : BitVec 32) : (decodeEngSig w).all computeHolds = true := by
  unfold decodeEngSig
  split
  case h_7 => rfl
  all_goals exact all_guard rfl

theorem decodeEngXing_holds (w : BitVec 32) : (decodeEngXing w).all computeHolds = true := by
  unfold decodeEngXing
  split
  case h_10 => rfl
  all_goals exact all_guard rfl

theorem decodeAmo_holds (w : BitVec 32) : (decodeAmo w).all computeHolds = true := by
  unfold decodeAmo
  split
  case h_25 => rfl
  all_goals exact all_guard rfl

/-- The units of the base profile are SYNC, COPY and GEN (R47). -/
theorem decodeEng_holds (w : BitVec 32) :
    ((w.extractLsb' 23 3).toNat ∈ [0, 3, 4, 5] → (decodeEng w).all computeHolds = true) ∧
    ((w.extractLsb' 23 3).toNat ∉ [0, 3, 4, 5] → (decodeEng w).all baseHolds = true) := by
  unfold decodeEng
  generalize (w.extractLsb' 23 3).toNat = engine
  split
  · exact ⟨fun _ => decodeEngMsg_holds w, fun hn => absurd (by decide) hn⟩
  · exact ⟨fun hy => absurd hy (by decide), fun _ => decodeEngSync_holds w⟩
  · exact ⟨fun hy => absurd hy (by decide), fun _ => decodeEngCopy_holds w⟩
  · exact ⟨fun _ => decodeEngMtx_holds w, fun hn => absurd (by decide) hn⟩
  · exact ⟨fun _ => decodeEngSig_holds w, fun hn => absurd (by decide) hn⟩
  · exact ⟨fun _ => decodeEngXing_holds w, fun hn => absurd (by decide) hn⟩
  · exact ⟨fun hy => absurd hy (by decide), fun _ => decodeEngGen_holds w⟩
  · exact ⟨fun _ => rfl, fun _ => rfl⟩

theorem decodeSys_holds (w : BitVec 32) (ho : (w.extractLsb' 0 9).toNat ∈ [3, 5, 6, 7, 0x0C]) :
    (decodeSys w).all baseHolds = true := by
  unfold decodeSys
  simp only [List.mem_cons, List.not_mem_nil, or_false] at ho
  rcases ho with ho | ho | ho | ho | ho <;> rw [ho] <;> exact all_guard rfl

theorem decodeSys_winbeg (w : BitVec 32) (ho : (w.extractLsb' 0 9).toNat = 0x0A) : (decodeSys w).all computeHolds = true := by
  unfold decodeSys
  rw [ho]
  exact all_guard rfl

theorem decodeVgs_store (w : BitVec 32) (ho : (w.extractLsb' 0 5).toNat = 1) : (decodeVgs w).all computeHolds = true := by
  unfold decodeVgs
  rw [ho]
  rfl

/-- The majors of the scalar stores (R46). -/
theorem decodeMap_scalarStore (w : BitVec 32) (hl : 0x18 ≤ (w.extractLsb' 26 6).toNat) (hu : (w.extractLsb' 26 6).toNat ≤ 0x1B) :
    (decodeMap w).all baseHolds = true := by
  unfold decodeMap
  generalize (w.extractLsb' 26 6).toNat = major at hl hu
  interval_cases major <;> rfl

/-- The instructions outside the base profile that the statement of O7 names by their encodings. -/
theorem decodeMap_computeHolds (w : BitVec 32)
    (hm : (w.extractLsb' 26 6).toNat = 0x27 ∨ ((w.extractLsb' 26 6).toNat = 0x28 ∧ (w.extractLsb' 0 5).toNat = 1) ∨
      (w.extractLsb' 26 6).toNat = 0x31 ∨ ((w.extractLsb' 26 6).toNat = 0x30 ∧ (w.extractLsb' 23 3).toNat ∈ [0, 3, 4, 5]) ∨
      ((w.extractLsb' 26 6).toNat = 0x32 ∧ (w.extractLsb' 0 9).toNat = 0x0A)) : (decodeMap w).all computeHolds = true := by
  rcases hm with hm | ⟨hm, ho⟩ | hm | ⟨hm, ho⟩ | ⟨hm, ho⟩
  · unfold decodeMap; rw [hm]; rfl
  · rw [map_Vgs w (BitVec.eq_of_toNat_eq hm)]; exact decodeVgs_store w ho
  · rw [map_Amo w (BitVec.eq_of_toNat_eq hm)]; exact decodeAmo_holds w
  · rw [map_Eng w (BitVec.eq_of_toNat_eq hm)]; exact (decodeEng_holds w).1 ho
  · rw [map_Sys w (BitVec.eq_of_toNat_eq hm)]; exact decodeSys_winbeg w ho

/-- Those of the base profile. -/
theorem decodeMap_baseHolds (w : BitVec 32)
    (hm : (0x18 ≤ (w.extractLsb' 26 6).toNat ∧ (w.extractLsb' 26 6).toNat ≤ 0x1B) ∨
      ((w.extractLsb' 26 6).toNat = 0x30 ∧ (w.extractLsb' 23 3).toNat ∉ [0, 3, 4, 5]) ∨
      ((w.extractLsb' 26 6).toNat = 0x32 ∧ (w.extractLsb' 0 9).toNat ∈ [3, 5, 6, 7, 0x0C])) : (decodeMap w).all baseHolds = true := by
  rcases hm with ⟨hl, hu⟩ | ⟨hm, ho⟩ | ⟨hm, ho⟩
  · exact decodeMap_scalarStore w hl hu
  · rw [map_Eng w (BitVec.eq_of_toNat_eq hm)]; exact (decodeEng_holds w).2 ho
  · rw [map_Sys w (BitVec.eq_of_toNat_eq hm)]; exact decodeSys_holds w ho

/-! ## FENCE (R341) -/

/-- What a fence that is no rel fence does while a load is unsettled and no failure is to be reported: it marks its holder as
waiting, once. -/
def State.fenceWaits (s : State) : Out :=
  if s.me.waiting then .next s.wait else .next (s.modHolder s.cur (fun h => { h with waiting := true }))

theorem exec_fence_marks {s : State} (h : s.LoadsOut) (free : s.me.holds .plain = false) {kind : FenceKind} {scope : Scope}
    (hk : kind ≠ .rel) (hf : s.me.waiting = true ∨ s.me.failure = none) : exec (.fence kind scope) s = s.fenceWaits := by
  have fence : exec (.fence kind scope) s = execFence kind scope s := rfl
  have silent : (if s.me.waiting then none else s.me.failureTrap) = none := by
    rcases hf with hf | hf
    · rw [if_pos hf]
    · rw [Holder.failureTrap, hf, Option.map_none, ite_self]
  have out : s.me.unsettled.isEmpty = false := by simpa using h.out
  have sources : s.popAll s.cur (⟨[], []⟩ : Uses).srcs = s := rfl
  rw [fence, execFence, issue_registers s .plain ⟨[], []⟩ _ h.exists_ (fun _ => rfl) free, sources]
  simp only [State.checkSrcs, State.checkDsts, bind_go, silent, out, State.fenceWaits]
  cases kind with
  | rel => exact absurd rfl hk
  | acq | full => cases s.me.waiting <;> rfl

/-- A fence that is no rel fence, with a load unsettled and no failure to report at once: nothing but its own mark changes. -/
theorem exec_fence_waits {s : State} (h : s.LoadsOut) {kind : FenceKind} {scope : Scope} (hk : kind ≠ .rel)
    (hf : s.me.waiting = true ∨ s.me.failure = none) :
    ∃ t, exec (.fence kind scope) s = .next t ∧ t.me.pc = s.me.pc ∧ t.me.unsettled = s.me.unsettled ∧ t.mem = s.mem := by
  cases free : s.me.holds .plain with
  | true =>
    have held : execFence kind scope s = .next s.wait := by
      have held' : s.me.holds { base := true, hold := false, rel := false, mem := false } = true := free
      simp [execFence, State.issue, State.issueIf, h.exists_, IssueClass.plain, held']
    exact ⟨s.wait, held, rfl, rfl, rfl⟩
  | false =>
    rw [exec_fence_marks h free hk hf, State.fenceWaits]
    split
    · exact ⟨_, rfl, rfl, rfl, rfl⟩
    · refine ⟨_, rfl, ?_, ?_, rfl⟩ <;> simp [State.me]

/-- Settles O7: each instruction that the statement names by its encoding decodes to one that holds, and such an issue waits before
anything of it takes place; a fence marks itself as waiting at most. -/
theorem holdingInstructionsWait : Obligations.HoldingInstructionsWait := by
  intro i s hw hc hu major outside
  have h : s.LoadsOut := ⟨hc, hu⟩
  refine ⟨fun profile holding => ?_, fun kind scope => exec_fence_waits h⟩
  have full (ho : outside) : s.full := Bool.eq_false_of_not_eq_true fun hb => profile hb ho
  have base := decodeMap_baseHolds (encode i)
  have compute := decodeMap_computeHolds (encode i)
  rw [decodeMap_encode i hw] at base compute
  rcases holding with stores | hm | hm | hm | ⟨hm, ho⟩ | ⟨hm, ho⟩
  · exact exec_baseHolds h i (base (.inl stores))
  · exact exec_computeHolds h (full (.inl hm)) i (compute (.inl hm))
  · by_cases unit : ((encode i).extractLsb' 23 3).toNat ∈ [0, 3, 4, 5]
    · exact exec_computeHolds h (full (.inr (.inr (.inr (.inl ⟨hm, unit⟩))))) i (compute (.inr (.inr (.inr (.inl ⟨hm, unit⟩)))))
    · exact exec_baseHolds h i (base (.inr (.inl ⟨hm, unit⟩)))
  · exact exec_computeHolds h (full (.inr (.inr (.inl hm)))) i (compute (.inr (.inr (.inl hm))))
  · exact exec_computeHolds h (full (.inr (.inl hm))) i (compute (.inr (.inl ⟨hm, ho⟩)))
  · by_cases window : ((encode i).extractLsb' 0 9).toNat = 0x0A
    · exact exec_computeHolds h (full (.inr (.inr (.inr (.inr ⟨hm, window⟩))))) i (compute (.inr (.inr (.inr (.inr ⟨hm, window⟩)))))
    · refine exec_baseHolds h i (base (.inr (.inr ⟨hm, ?_⟩)))
      simp only [List.mem_cons, List.not_mem_nil, or_false] at ho ⊢
      omega

end Sys2Proof.Machine
end

section
/-! PROOFS. The landing of a load (R90, R91, R238). The state below shows where the statement of O17 is too wide: with a load, what the
holder has pushed past it becomes final, and a push through an output stream sends whatever the holder's stores have queued. -/
namespace Sys2Proof.Machine

/-- An answer that has come back, with a push past it through port 0. -/
def pushedPast : Unsettled :=
  { op := 0, pc := 0xC000, addr := 0, kind := .answer, qual := false, left := 0, buf := [], trap := none, parked := 0,
    snap := fetchingHolder.snapshot [], since := 0, checks := [], pushes := [{ port := 0, idx := 0, pc := 0xC000, val := 0 }] }

/-- The slot of `fetching`, whose stores have a fetch queued, with that answer unsettled. -/
def landingFetch : State :=
  fetching.setHolder { st := 0, core := .slot0 } { fetchingHolder with unsettled := [pushedPast] }

/-- The byte that an outcome leaves at an address, if it is a next state. -/
def byteLeft (o : Out) (a : Nat) : Option Byte :=
  match o with
  | .next t => some (memGet t.mem a)
  | _ => none

/-- The answer settles and the push becomes final: the fetch that goes out with it fails, its trap finds no vector, and the kill of
the task closes the parked batch. -/
theorem landingFetch_writes_memory : memGet landingFetch.mem (parkAt 0 + 0x20000) = 1 ∧
    byteLeft (execLoadLands { st := 0, core := .slot0 } 0 landingFetch) (parkAt 0 + 0x20000) = some 0 := by decide +kernel

/-- Refutes O17: the statement says of every state that a load which lands leaves memory as it was. In `landingFetch` it does not. -/
theorem not_loadsLand : ¬ Obligations.LoadsLand := by
  intro h
  have own : landingFetch.holder { st := 0, core := .slot0 } = { fetchingHolder with unsettled := [pushedPast] } :=
    holder_setHolder_same ..
  obtain ⟨-, lands⟩ := h.1 landingFetch { st := 0, core := .slot0 } 0 pushedPast (by rw [own]; rfl) rfl rfl
    (fun n hn => absurd hn List.not_mem_nil)
  obtain ⟨settles, -⟩ := lands (fun d hd => LoadKind.noConfusion hd)
  obtain ⟨t, steps, ⟨memory, -⟩, -⟩ := settles (by rw [own]; rfl) rfl
  obtain ⟨before, after⟩ := landingFetch_writes_memory
  have landed : execLoadLands { st := 0, core := .slot0 } 0 landingFetch = .next t := steps
  rw [landed] at after
  have same : some (memGet t.mem (parkAt 0 + 0x20000)) = some 0 := after
  rw [memory, before] at same
  exact absurd same (by decide)

end Sys2Proof.Machine
end

section
/-! PROOFS. Rounding to a multiple of a power of two (R83, R135): what `roundMag` keeps, and when it goes up. -/
namespace Sys2Proof.Machine

/-! ## Multiples of a power of two -/

theorem real_false (m : Nat) (e : Int) : ((real false m e : ℚ) : ℝ) = m * 2 ^ e := by simp [real]

theorem real_lt_real {k m : Nat} (e : Int) : ((real false k e : ℚ) : ℝ) < (real false m e : ℚ) ↔ k < m := by
  rw [real_false, real_false, mul_lt_mul_iff_of_pos_right (by positivity), Nat.cast_lt]

theorem real_le_real {k m : Nat} (e : Int) : ((real false k e : ℚ) : ℝ) ≤ (real false m e : ℚ) ↔ k ≤ m := by
  rw [← not_lt, real_lt_real, not_lt]

theorem real_eq_real {k m : Nat} (e : Int) : ((real false k e : ℚ) : ℝ) = (real false m e : ℚ) ↔ k = m := by
  simp only [le_antisymm_iff, real_le_real]

/-- A multiple of a power of two is one of every lower power. -/
theorem real_lower (k n : Nat) (e : Int) : real false (k * 2 ^ n) e = real false k (e + n) := by
  rw [real, real, zpow_add₀ (by norm_num), zpow_natCast]
  push_cast
  ring

theorem real_double (k : Nat) (e : Int) : real false (2 * k) (e - 1) = real false k e := by
  have lower := real_lower k 1 (e - 1)
  rwa [pow_one, Nat.mul_comm, Nat.cast_one, sub_add_cancel] at lower

/-- The middle between two neighbours. -/
theorem real_middle (k : Nat) (e : Int) :
    (((real false k e : ℚ) : ℝ) + (real false (k + 1) e : ℚ)) / 2 = (real false (2 * k + 1) (e - 1) : ℚ) := by
  rw [← real_double k, ← real_double (k + 1), real_false, real_false, real_false]
  push_cast
  ring

/-! ## What is kept, and what is added -/

/-- The multiple of 2^(e + sh) at or below m × 2^e. -/
def kept (m : Nat) (sh : Int) : Nat := if sh ≤ 0 then m * 2 ^ (-sh).toNat else m / 2 ^ sh.toNat

/-- A positive number y rounded to a multiple of 2^c, of which k is the one at or below it: to q, which is k or the next one (R135,
step 3). -/
structure RoundedTo (rm : Rm) (neg : Bool) (c : Int) (y : ℝ) (k q : Nat) (inexact : Bool) : Prop where
  le : ((real false k c : ℚ) : ℝ) ≤ y
  lt : y < (real false (k + 1) c : ℚ)
  inexact_iff : inexact = true ↔ ((real false k c : ℚ) : ℝ) < y
  up : ((real false k c : ℚ) : ℝ) < y → goesUp rm neg (k % 2 == 1) (real false k c) (real false (k + 1) c) y → q = k + 1
  down : ¬ (((real false k c : ℚ) : ℝ) < y ∧ goesUp rm neg (k % 2 == 1) (real false k c) (real false (k + 1) c) y) → q = k

theorem roundMag_up (rm : Rm) (neg : Bool) (m : Nat) (e : Int) (sh : Int) (h : sh ≤ 0) :
    RoundedTo rm neg (e + sh) (real false m e : ℚ) (kept m sh) (roundMag rm neg m sh).1 (roundMag rm neg m sh).2 := by
  have exact_ : real false (kept m sh) (e + sh) = real false m e := by
    rw [kept, if_pos h, real_lower]
    congr 1
    omega
  rw [roundMag, if_pos h]
  refine ⟨by rw [exact_], ?_, by rw [exact_]; simp, fun hlt => absurd hlt (by rw [exact_]; exact lt_irrefl _), fun _ => ?_⟩
  · rw [← exact_, real_lt_real]; omega
  · rw [kept, if_pos h]

/-- Whether the low part r of d goes up, above an even or odd multiple (R135, step 3). -/
def partUp (rm : Rm) (neg odd : Bool) (d r : Nat) : Bool :=
  match rm with
  | .rne => decide (d < 2 * r) || (2 * r == d && odd)
  | .rtz => false
  | .rdn => neg && r != 0
  | .rup => !neg && r != 0
  | .rma => decide (d ≤ 2 * r)
  | .dyn => false

theorem roundMag_pos (rm : Rm) (neg : Bool) (m : Nat) {sh : Int} (h : 0 < sh) : roundMag rm neg m sh =
    (if partUp rm neg (m / 2 ^ sh.toNat % 2 == 1) (2 ^ sh.toNat) (m % 2 ^ sh.toNat) then m / 2 ^ sh.toNat + 1 else m / 2 ^ sh.toNat,
      m % 2 ^ sh.toNat != 0) := by
  rw [roundMag, if_neg (by omega)]
  cases rm <;> rfl

theorem partUp_iff (rm : Rm) (neg odd : Bool) (k r n : Nat) (e : Int) (hr : r ≠ 0) :
    partUp rm neg odd (2 ^ n) r = true ↔
      goesUp rm neg odd (real false k (e + n)) (real false (k + 1) (e + n)) (real false (k * 2 ^ n + r) e : ℚ) := by
  have middle : (((real false k (e + n) : ℚ) : ℝ) + (real false (k + 1) (e + n) : ℚ)) / 2 =
      (real false ((2 * k + 1) * 2 ^ n) (e - 1) : ℚ) := by
    rw [real_middle, real_lower, sub_add_eq_add_sub]
  have value : real false (k * 2 ^ n + r) e = real false (2 * (k * 2 ^ n + r)) (e - 1) := (real_double _ _).symm
  have odd_ : (2 * k + 1) * 2 ^ n = 2 * (k * 2 ^ n) + 2 ^ n := by ring
  cases rm with
  | rtz | dyn => simp [partUp, goesUp]
  | rdn | rup => simp [partUp, goesUp, hr]
  | rne =>
    simp only [partUp, goesUp, middle, value, real_lt_real, real_eq_real, odd_, Bool.or_eq_true, Bool.and_eq_true, decide_eq_true_eq,
      beq_iff_eq]
    generalize 2 ^ n = d
    refine or_congr (by omega) (and_congr_left fun _ => by omega)
  | rma =>
    simp only [partUp, goesUp, middle, value, real_le_real, odd_, decide_eq_true_eq]
    generalize 2 ^ n = d
    omega

theorem partUp_zero (rm : Rm) (neg odd : Bool) {d : Nat} (hd : 0 < d) : partUp rm neg odd d 0 = false := by
  cases rm <;> simp [partUp] <;> omega

/-- `roundMag` rounds to a multiple of 2^(e + sh). -/
theorem roundMag_rounds (rm : Rm) (neg : Bool) (m : Nat) (e sh : Int) :
    RoundedTo rm neg (e + sh) (real false m e : ℚ) (kept m sh) (roundMag rm neg m sh).1 (roundMag rm neg m sh).2 := by
  by_cases h : sh ≤ 0
  · exact roundMag_up rm neg m e sh h
  · obtain ⟨n, rfl⟩ : ∃ n : Nat, sh = n := ⟨sh.toNat, by omega⟩
    have positive : 0 < 2 ^ n := Nat.two_pow_pos n
    have parts := Nat.div_add_mod' m (2 ^ n)
    have small := Nat.mod_lt m positive
    rw [roundMag_pos rm neg m (by omega), kept, if_neg h, Int.toNat_natCast]
    generalize m / 2 ^ n = k at parts
    generalize m % 2 ^ n = r at parts small
    subst parts
    have below : ((real false k (e + n) : ℚ) : ℝ) < (real false (k * 2 ^ n + r) e : ℚ) ↔ r ≠ 0 := by
      rw [← real_lower, real_lt_real]; omega
    refine ⟨?_, ?_, by rw [below]; simp, fun lt goes => ?_, fun stays => ?_⟩
    · rw [← real_lower, real_le_real]; omega
    · rw [← real_lower, real_lt_real]; linarith
    · exact if_pos ((partUp_iff rm neg _ k r n e (below.1 lt)).2 goes)
    · refine if_neg fun up => stays ?_
      have hr : r ≠ 0 := by
        rintro rfl
        rw [partUp_zero rm neg _ positive] at up
        exact absurd up (by decide)
      exact ⟨below.2 hr, (partUp_iff rm neg _ k r n e hr).1 up⟩

/-! ## Numbers that compare alike -/

/-- Two numbers compare alike with every multiple of 2^c. -/
def Agrees (c : Int) (x y : ℝ) : Prop := ∀ (j : Nat) (b : Int), c ≤ b →
  (((real false j b : ℚ) : ℝ) < y ↔ ((real false j b : ℚ) : ℝ) < x) ∧ (y < (real false j b : ℚ) ↔ x < (real false j b : ℚ))

theorem Agrees.refl (c : Int) (x : ℝ) : Agrees c x x := fun _ _ _ => ⟨Iff.rfl, Iff.rfl⟩

/-- An odd multiple of a power of two compares with the multiples of a higher one as all that lies between its neighbours. -/
theorem agrees_odd {m : Nat} {e : Int} {y : ℝ} (lo : ((real false (2 * m) e : ℚ) : ℝ) < y) (hi : y < (real false (2 * m + 2) e : ℚ)) :
    Agrees (e + 1) (real false (2 * m + 1) e : ℚ) y := by
  intro j b hb
  obtain ⟨n, rfl⟩ : ∃ n : Nat, b = e + 1 + n := ⟨(b - (e + 1)).toNat, by omega⟩
  have even : real false j (e + 1 + n) = real false (2 * (j * 2 ^ n)) e := by
    rw [← real_lower, ← real_double, add_sub_cancel_right]
  rw [even, real_lt_real, real_lt_real]
  refine ⟨⟨fun h => ?_, fun h => ?_⟩, ⟨fun h => ?_, fun h => ?_⟩⟩
  · have := (real_lt_real e).1 (h.trans hi); omega
  · exact lt_of_le_of_lt ((real_le_real e).2 (by omega)) lo
  · have := (real_lt_real e).1 (lo.trans h); omega
  · exact lt_of_lt_of_le hi ((real_le_real e).2 (by omega))

section
variable {c b : Int} {x y : ℝ} (h : Agrees c x y) (hb : c ≤ b) (j : Nat)
include h hb

theorem Agrees.lt : ((real false j b : ℚ) : ℝ) < y ↔ ((real false j b : ℚ) : ℝ) < x := (h j b hb).1
theorem Agrees.gt : y < (real false j b : ℚ) ↔ x < (real false j b : ℚ) := (h j b hb).2
theorem Agrees.le : ((real false j b : ℚ) : ℝ) ≤ y ↔ ((real false j b : ℚ) : ℝ) ≤ x := by
  rw [← not_lt, h.gt hb, not_lt]
theorem Agrees.eq : y = (real false j b : ℚ) ↔ x = (real false j b : ℚ) := by
  rw [eq_iff_le_not_lt, eq_iff_le_not_lt, h.gt hb, ← not_lt, h.lt hb, not_lt]

end

/-- Numbers that compare alike with the multiples and the middles between them go up alike. -/
theorem Agrees.goesUp_iff {c b : Int} {x y : ℝ} (h : Agrees c x y) (hb : c ≤ b - 1) (rm : Rm) (neg odd : Bool) (k : Nat) :
    goesUp rm neg odd (real false k b) (real false (k + 1) b) y ↔ goesUp rm neg odd (real false k b) (real false (k + 1) b) x := by
  cases rm <;> simp only [goesUp, real_middle, h.lt hb, h.eq hb, h.le hb]

theorem RoundedTo.lt_of_lt {rm : Rm} {neg : Bool} {c : Int} {y : ℝ} {k q : Nat} {inexact : Bool}
    (r : RoundedTo rm neg c y k q inexact) {n : Nat} (h : y < (real false n c : ℚ)) : k < n :=
  (real_lt_real c).1 (r.le.trans_lt h)

theorem RoundedTo.le_of_le {rm : Rm} {neg : Bool} {c : Int} {y : ℝ} {k q : Nat} {inexact : Bool}
    (r : RoundedTo rm neg c y k q inexact) {n : Nat} (h : ((real false n c : ℚ) : ℝ) ≤ y) : n ≤ k :=
  Nat.lt_succ_iff.1 ((real_lt_real c).1 (h.trans_lt r.lt))

theorem RoundedTo.eq_or {rm : Rm} {neg : Bool} {c : Int} {y : ℝ} {k q : Nat} {inexact : Bool}
    (r : RoundedTo rm neg c y k q inexact) : q = k ∨ q = k + 1 := by
  by_cases h : ((real false k c : ℚ) : ℝ) < y ∧ goesUp rm neg (k % 2 == 1) (real false k c) (real false (k + 1) c) y
  · exact .inr (r.up h.1 h.2)
  · exact .inl (r.down h)

/-- They are rounded alike. -/
theorem RoundedTo.of_agrees {rm : Rm} {neg : Bool} {c b : Int} {x y : ℝ} {k q : Nat} {inexact : Bool}
    (r : RoundedTo rm neg b x k q inexact) (h : Agrees c x y) (hb : c ≤ b - 1) : RoundedTo rm neg b y k q inexact := by
  have hb' : c ≤ b := by omega
  refine ⟨(h.le hb' _).2 r.le, (h.gt hb' _).2 r.lt, r.inexact_iff.trans (h.lt hb' _).symm, ?_, ?_⟩
  · rw [h.lt hb', h.goesUp_iff hb]; exact r.up
  · rw [h.lt hb', h.goesUp_iff hb]; exact r.down

end Sys2Proof.Machine
end

section
/-! PROOFS. Round of R135 in a format: the row of its table a number lies in, the bits, and the flags. -/
namespace Sys2Proof.Machine

theorem real_one_le_real_one {a b : Int} (h : a ≤ b) : ((real false 1 a : ℚ) : ℝ) ≤ (real false 1 b : ℚ) := by
  rw [real_false, real_false]
  exact mul_le_mul_of_nonneg_left (zpow_le_zpow_right₀ (by norm_num) h) (by norm_num)

/-! ## The numbers of a format -/

/-- The place of the last bit of a number from 2^top on, below 2^(top + 1), in a format. -/
def FFmt.lastPlace (f : FFmt) (top : Int) : Int := max top (1 - (f.bias : Int)) - f.mb

/-- The exponent bits, less one, of a normal number from 2^top on; 0 for a subnormal one. -/
def FFmt.row (f : FFmt) (top : Int) : Nat := (max top (1 - (f.bias : Int)) + f.bias - 1).toNat

theorem FFmt.row_lastPlace (f : FFmt) (top : Int) : (f.row top : Int) + 1 - f.bias - f.mb = f.lastPlace top := by
  rw [row, lastPlace]; omega

/-- The numbers of a row are the multiples of its last place, the first of the next row included. -/
theorem FFmt.magnitude_row (f : FFmt) {E q : Nat} (h : E = 0 ∨ 2 ^ f.mb ≤ q) (hq : q ≤ 2 ^ (f.mb + 1)) :
    f.magnitude (E * 2 ^ f.mb + q) = real false q ((E : Int) + 1 - f.bias - f.mb) := by
  have positive : 0 < 2 ^ f.mb := Nat.two_pow_pos _
  rw [pow_succ] at hq
  by_cases small : q < 2 ^ f.mb
  · obtain rfl : E = 0 := by omega
    simp [magnitude, real, small]
  · obtain ⟨r, rfl⟩ : ∃ r, q = 2 ^ f.mb + r := ⟨q - 2 ^ f.mb, by omega⟩
    have split_ : E * 2 ^ f.mb + (2 ^ f.mb + r) = r + 2 ^ f.mb * (E + 1) := by ring
    rw [magnitude, if_neg (by omega), split_, Nat.add_mul_mod_self_left, Nat.add_mul_div_left _ _ positive]
    by_cases next_ : r = 2 ^ f.mb
    · subst next_
      have one : ((2 ^ f.mb / 2 ^ f.mb + (E + 1) : Nat) : Int) - f.bias - f.mb = ((E : Int) + 1 - f.bias - f.mb) + 1 := by
        rw [Nat.div_self positive]; push_cast; ring
      rw [one, zpow_add₀ (by norm_num), real, Nat.mod_self]
      push_cast
      ring
    · rw [Nat.mod_eq_of_lt (by omega), Nat.div_eq_of_lt (by omega), real]
      push_cast
      ring_nf

theorem FFmt.row_eq_zero_or (f : FFmt) {rm : Rm} {neg inexact : Bool} {top : Int} {y : ℝ} {k q : Nat}
    (lo : ((real false 1 top : ℚ) : ℝ) ≤ y) (grid : RoundedTo rm neg (f.lastPlace top) y k q inexact) :
    f.row top = 0 ∨ 2 ^ f.mb ≤ k := by
  by_cases h : top < 1 - (f.bias : Int)
  · left; rw [row]; omega
  · right
    refine grid.le_of_le ?_
    rwa [lastPlace, max_eq_left (by omega), ← one_mul (2 ^ f.mb), real_lower, sub_add_cancel]

section
variable {rm : Rm} {neg inexact inexact' : Bool} {top : Int} {y : ℝ} {k k' q q' : Nat}
variable (lo : ((real false 1 top : ℚ) : ℝ) ≤ y) (hi : y < (real false 1 (top + 1) : ℚ))

include hi in
theorem FFmt.kept_lt (f : FFmt) (grid : RoundedTo rm neg (f.lastPlace top) y k q inexact) : k < 2 ^ (f.mb + 1) := by
  refine grid.lt_of_lt (hi.trans_le ?_)
  obtain ⟨n, hn⟩ : ∃ n : Nat, max top (1 - (f.bias : Int)) = top + n := ⟨(max top (1 - (f.bias : Int)) - top).toNat, by omega⟩
  have same : real false 1 (top + 1 + n) = real false (2 ^ (f.mb + 1)) (f.lastPlace top) := by
    rw [lastPlace, hn, ← one_mul (2 ^ (f.mb + 1)), real_lower]; congr 1; push_cast; ring
  rw [← same]
  exact real_one_le_real_one (by omega)

/-! ## What is tiny after rounding (R79) -/

/-- Whether a number from 2^top on, which is q' with an exponent of every size allowed, is tiny. -/
def FFmt.tinyAfter (f : FFmt) (top : Int) (q' : Nat) : Bool :=
  decide (top < 1 - (f.bias : Int)) && !(top == 1 - (f.bias : Int) - 1 && q' == 2 ^ (f.mb + 1))

theorem FFmt.normal_eq (f : FFmt) : (2 : ℚ) ^ (1 - (f.bias : Int)) = real false 1 (1 - f.bias) := by simp [real]

theorem FFmt.last_eq (f : FFmt) :
    (2 : ℚ) ^ (1 - (f.bias : Int)) - 2 ^ (-(f.bias : Int) - f.mb) = real false (2 ^ (f.mb + 1) - 1) (-(f.bias : Int) - f.mb) := by
  have split_ : 1 - (f.bias : Int) = -(f.bias : Int) - f.mb + ((f.mb + 1 : Nat) : Int) := by push_cast; ring
  rw [split_, zpow_add₀ (by norm_num), zpow_natCast, real, Nat.cast_sub Nat.one_le_two_pow]
  push_cast
  ring_nf

include lo hi in
theorem FFmt.tinyAfter_iff (f : FFmt) (free : RoundedTo rm neg (top - f.mb) y k' q' inexact') :
    f.tinyAfter top q' = true ↔ f.tiny rm neg y := by
  rw [tinyAfter, tiny, f.last_eq, f.normal_eq]
  rcases lt_trichotomy top (-(f.bias : Int)) with below | at_ | above
  · have small : y ≤ (real false (2 ^ (f.mb + 1) - 1) (-(f.bias : Int) - f.mb) : ℚ) := by
      have half : real false 1 (-(f.bias : Int)) = real false (2 ^ f.mb) (-(f.bias : Int) - f.mb) := by
        rw [← one_mul (2 ^ f.mb), real_lower, sub_add_cancel]
      have := Nat.one_le_two_pow (n := f.mb)
      refine (hi.le.trans (real_one_le_real_one (show top + 1 ≤ -(f.bias : Int) by omega))).trans ?_
      rw [half, real_le_real, pow_succ]
      omega
    have normal := hi.trans_le (real_one_le_real_one (show top + 1 ≤ 1 - (f.bias : Int) by omega))
    simp only [normal, not_lt.2 small, false_and, not_false_eq_true, and_self, iff_true]
    simp [show top < 1 - (f.bias : Int) by omega, below.ne]
  · have normal : real false 1 (1 - (f.bias : Int)) = real false (2 ^ (f.mb + 1) - 1 + 1) (-(f.bias : Int) - f.mb) := by
      rw [Nat.sub_add_cancel Nat.one_le_two_pow, ← one_mul (2 ^ (f.mb + 1)), real_lower]; congr 1; push_cast; ring
    rw [at_, show -(f.bias : Int) + 1 = 1 - f.bias by ring] at hi
    rw [at_] at free ⊢
    have odd_ : ((2 ^ (f.mb + 1) - 1) % 2 == 1) = true := by
      have := Nat.one_le_two_pow (n := f.mb)
      rw [pow_succ, beq_iff_eq]; omega
    have k_lt := free.lt_of_lt (normal ▸ hi)
    have q_or := free.eq_or
    have goes : q' = 2 ^ (f.mb + 1) ↔ ((real false (2 ^ (f.mb + 1) - 1) (-(f.bias : Int) - f.mb) : ℚ) : ℝ) < y ∧
        goesUp rm neg true (real false (2 ^ (f.mb + 1) - 1) (-(f.bias : Int) - f.mb)) (real false 1 (1 - (f.bias : Int))) y := by
      have := Nat.one_le_two_pow (n := f.mb + 1)
      rw [normal, ← odd_]
      constructor
      · intro hq
        obtain rfl : k' = 2 ^ (f.mb + 1) - 1 := by omega
        by_contra stays
        have := free.down stays
        omega
      · rintro ⟨lt, up⟩
        obtain rfl : k' = 2 ^ (f.mb + 1) - 1 := by
          have := free.le_of_le lt.le
          omega
        have := free.up lt up
        omega
    rw [← goes]
    simp [hi]
  · have normal := (real_one_le_real_one (show 1 - (f.bias : Int) ≤ top by omega)).trans lo
    simp [not_lt.2 normal, show ¬ top < 1 - (f.bias : Int) by omega]

/-! ## The bits and the flags -/

/-- What Round gives of a number from 2^top on, below 2^(top + 1), that is q multiples of its last place, and q' with an exponent of
every size allowed. -/
def FFmt.placed (f : FFmt) (rm : Rm) (neg : Bool) (top : Int) (q : Nat) (inexact : Bool) (q' : Nat) : Nat × Nat :=
  if f.maxBits < f.row top * 2 ^ f.mb + q then (f.signed neg (f.beyond rm neg), flOF + flNX)
  else (f.signed neg (f.row top * 2 ^ f.mb + q), if inexact then (if f.tinyAfter top q' then flNX + flUF else flNX) else 0)

theorem FFmt.round_fin (f : FFmt) (rm : Rm) (neg : Bool) {m : Nat} (hm : m ≠ 0) (e : Int) : f.round rm (.fin neg m e) =
    f.placed rm neg (Nat.log2 m + e) (roundMag rm neg m (f.lastPlace (Nat.log2 m + e) - e)).1
      (roundMag rm neg m (f.lastPlace (Nat.log2 m + e) - e)).2 (roundMag rm neg m (Nat.log2 m + e - f.mb - e)).1 := by
  have place : (if (Nat.log2 m : Int) + e < 1 - f.bias then 1 - (f.bias : Int) else Nat.log2 m + e) - f.mb =
      f.lastPlace (Nat.log2 m + e) := by
    rw [lastPlace]; split <;> omega
  have row_ : (f.lastPlace (Nat.log2 m + e) + f.mb + f.bias - 1).toNat = f.row (Nat.log2 m + e) := by
    rw [lastPlace, row, sub_add_cancel]
  simp only [round, if_neg hm, place, row_, placed]
  split
  · cases hs : f.special <;> cases rm <;> simp [beyond, hs]
  · rfl

include lo hi in
theorem FFmt.placed_rounds (f : FFmt) (hmb : 1 ≤ f.mb) (grid : RoundedTo rm neg (f.lastPlace top) y k q inexact)
    (free : RoundedTo rm neg (top - f.mb) y k' q' inexact') : f.Rounds rm neg y (f.placed rm neg top q inexact q') := by
  have k_lt := f.kept_lt hi grid
  have row_or := f.row_eq_zero_or lo grid
  have here : f.magnitude (f.row top * 2 ^ f.mb + k) = real false k (f.lastPlace top) := by
    rw [f.magnitude_row row_or k_lt.le, f.row_lastPlace]
  have next_ : f.magnitude (f.row top * 2 ^ f.mb + k + 1) = real false (k + 1) (f.lastPlace top) := by
    rw [Nat.add_assoc, f.magnitude_row (row_or.imp_right (Nat.le_succ_of_le ·)) k_lt, f.row_lastPlace]
  have parity : (f.row top * 2 ^ f.mb + k) % 2 = k % 2 := by
    obtain ⟨n, hn⟩ : ∃ n, f.mb = n + 1 := ⟨f.mb - 1, by omega⟩
    rw [hn, pow_succ, ← Nat.mul_assoc]; omega
  refine ⟨f.row top * 2 ^ f.mb + k, f.row top * 2 ^ f.mb + q, ?_⟩
  rw [here, next_, parity]
  refine ⟨grid.le, grid.lt, fun h => ?_, fun lt => ⟨fun up => ?_, fun stays => ?_⟩, fun fits => ⟨?_, fun h => ?_, fun lt => ?_⟩,
    fun beyond_ => ?_⟩
  · rw [grid.down fun lt => lt.1.ne' h]
  · rw [grid.up lt up, Nat.add_assoc]
  · rw [grid.down fun h => stays h.2]
  · rw [placed, if_neg (by omega)]
  · have exact_ : ¬ inexact = true := fun i => (grid.inexact_iff.1 i).ne' h
    rw [placed, if_neg (by omega)]
    simp [exact_]
  · rw [placed, if_neg (by omega), ← f.tinyAfter_iff lo hi free, grid.inexact_iff.2 lt]
    constructor <;> intro t <;> simp [t]
  · rw [placed, if_pos (by omega)]; simp

end

/-- Round rounds every number that compares alike with the number given, down to half the last place. -/
theorem FFmt.round_rounds (f : FFmt) (hmb : 1 ≤ f.mb) (rm : Rm) (neg : Bool) {m : Nat} (hm : m ≠ 0) {e c : Int} {y : ℝ}
    (h : Agrees c (real false m e : ℚ) y) (hc : c < Nat.log2 m + e - f.mb) : f.Rounds rm neg y (f.round rm (.fin neg m e)) := by
  have lo : ((real false 1 (Nat.log2 m + e) : ℚ) : ℝ) ≤ y := by
    rw [h.le (by omega), add_comm, ← real_lower, one_mul, real_le_real]
    exact Nat.log2_self_le hm
  have hi : y < (real false 1 (Nat.log2 m + e + 1) : ℚ) := by
    rw [h.gt (by omega), add_assoc, add_comm, add_assoc, add_comm 1 _, ← Nat.cast_succ, ← real_lower, one_mul, real_lt_real]
    exact Nat.lt_log2_self
  rw [f.round_fin rm neg hm]
  have grid := roundMag_rounds rm neg m e (f.lastPlace (Nat.log2 m + e) - e)
  have free := roundMag_rounds rm neg m e (Nat.log2 m + e - f.mb - e)
  rw [add_sub_cancel] at grid free
  have least : Nat.log2 m + e - f.mb ≤ f.lastPlace (Nat.log2 m + e) := by rw [FFmt.lastPlace]; omega
  exact f.placed_rounds lo hi hmb (grid.of_agrees h (by omega)) (free.of_agrees h (by omega))

end Sys2Proof.Machine
end

section
/-! PROOFS. The exact sums and products, and the quotients and roots with a sticky bit (R80, R82). -/
namespace Sys2Proof.Machine

/-! ## A sticky bit -/

/-- A number cut to a multiple of a power of two, with one more bit for what was cut off, compares with all higher multiples as the
number itself. -/
theorem agrees_sticky {q : Nat} {e : Int} {y : ℝ} {whole : Prop} [Decidable whole] (whole_iff : whole ↔ y = q * 2 ^ (e + 1))
    (le : q * 2 ^ (e + 1) ≤ y) (lt : y < (q + 1) * 2 ^ (e + 1)) :
    Agrees (e + 1) (real false (2 * q + if whole then 0 else 1) e : ℚ) y := by
  have lower (j : Nat) : ((real false (2 * j) e : ℚ) : ℝ) = j * 2 ^ (e + 1) := by
    rw [← real_false, ← real_double j, add_sub_cancel_right]
  by_cases h : whole
  · rw [if_pos h, Nat.add_zero, lower, ← whole_iff.1 h]
    exact Agrees.refl _ _
  · rw [if_neg h]
    refine agrees_odd ?_ ?_
    · rw [lower]
      exact lt_of_le_of_ne le fun same => h (whole_iff.2 same.symm)
    · rw [show 2 * q + 2 = 2 * (q + 1) by ring, lower]
      exact_mod_cast lt

theorem le_log2_sticky {n q s : Nat} (h : 2 ^ n ≤ q) : n + 1 ≤ Nat.log2 (2 * q + s) := by
  have positive := Nat.two_pow_pos n
  rw [Nat.le_log2 (by omega), pow_succ]
  omega

/-! ## Quotients -/

theorem fDiv_fin (a b : Bool) (m k : Nat) (e g : Int) (hk : k ≠ 0) : fDiv (.fin a m e) (.fin b k g) =
    (.fin (a != b) (2 * (m * 2 ^ (130 + Nat.log2 k) / k) + if m * 2 ^ (130 + Nat.log2 k) % k = 0 then 0 else 1)
      (e - g - (130 + Nat.log2 k : Nat) - 1), 0) := by
  simp [fDiv, nanOf, Value.isNan, Value.divExact, hk]

theorem quotient_agrees {n k : Nat} (hk : k ≠ 0) (e : Int) :
    Agrees (e + 1) (real false (2 * (n / k) + if n % k = 0 then 0 else 1) e : ℚ) ((n / k : ℝ) * 2 ^ (e + 1)) := by
  have positive : (0 : ℝ) < k := by positivity
  have power : (0 : ℝ) < 2 ^ (e + 1) := by positivity
  have parts : (n : ℝ) = k * (n / k : Nat) + (n % k : Nat) := by exact_mod_cast (Nat.div_add_mod n k).symm
  have small : ((n % k : Nat) : ℝ) < k := by exact_mod_cast Nat.mod_lt n (Nat.pos_of_ne_zero hk)
  have quotient : (n / k : ℝ) = (n / k : Nat) + (n % k : Nat) / k := by rw [parts]; field_simp
  rw [quotient]
  refine agrees_sticky ?_ ?_ ?_
  · rw [mul_left_inj' power.ne', add_eq_left, div_eq_zero_iff]
    simp [hk]
  · exact mul_le_mul_of_nonneg_right (le_add_of_nonneg_right (by positivity)) power.le
  · exact mul_lt_mul_of_pos_right (by rw [add_lt_add_iff_left, div_lt_one positive]; exact small) power

theorem FFmt.fDiv_rounds (f : FFmt) (hmb : 1 ≤ f.mb) (hmb' : f.mb ≤ 52) (rm : Rm) (a b : Bool) {m k : Nat} (e g : Int) (hm : m ≠ 0)
    (hk : k ≠ 0) : f.Rounds rm (a != b) (real false m e / real false k g : ℚ) (f.round rm (fDiv (.fin a m e) (.fin b k g)).1) := by
  rw [fDiv_fin a b m k e g hk]
  have long : 2 ^ 129 ≤ m * 2 ^ (130 + Nat.log2 k) / k := by
    rw [Nat.le_div_iff_mul_le (Nat.pos_of_ne_zero hk)]
    calc 2 ^ 129 * k ≤ 2 ^ 129 * 2 ^ (Nat.log2 k + 1) := Nat.mul_le_mul_left _ Nat.lt_log2_self.le
      _ = 1 * 2 ^ (130 + Nat.log2 k) := by rw [← pow_add, one_mul]; congr 1; omega
      _ ≤ m * 2 ^ (130 + Nat.log2 k) := Nat.mul_le_mul_right _ (Nat.pos_of_ne_zero hm)
  have value : ((real false m e / real false k g : ℚ) : ℝ) =
      ((m * 2 ^ (130 + Nat.log2 k) : Nat) / k : ℝ) * 2 ^ (e - g - (130 + Nat.log2 k : Nat) - 1 + 1) := by
    rw [Rat.cast_div, real_false, real_false, sub_add_cancel, zpow_sub₀ (by norm_num), zpow_sub₀ (by norm_num), zpow_natCast]
    push_cast
    field_simp
  have := le_log2_sticky (s := if m * 2 ^ (130 + Nat.log2 k) % k = 0 then 0 else 1) long
  rw [value]
  exact f.round_rounds hmb rm _ (by omega) (quotient_agrees hk _) (by omega)

/-! ## Roots -/

theorem isqrtFrom_eq_sqrt (n k r : Nat) (le : r * r ≤ n) (lt : n < (r + 2 ^ (k + 1)) * (r + 2 ^ (k + 1))) :
    isqrtFrom n k r = Nat.sqrt n := by
  induction k generalizing r with
  | zero =>
    rw [isqrtFrom]
    split
    case isTrue up => exact Nat.eq_sqrt.2 ⟨up, by simpa using lt⟩
    case isFalse stays => exact Nat.eq_sqrt.2 ⟨le, by omega⟩
  | succ k ih =>
    rw [isqrtFrom]
    split
    case isTrue up => exact ih _ up (by rwa [Nat.add_assoc, ← Nat.two_mul, ← pow_succ'])
    case isFalse stays => exact ih _ le (by omega)

theorem isqrt_eq_sqrt (n : Nat) : isqrt n = Nat.sqrt n := by
  refine isqrtFrom_eq_sqrt n _ 0 (by omega) ?_
  rw [Nat.zero_add, ← pow_add]
  exact Nat.lt_log2_self.trans_le (Nat.pow_le_pow_right (by decide) (by omega))

theorem root_agrees (w : Nat) (e : Int) :
    Agrees (e + 1) (real false (2 * isqrt w + if isqrt w * isqrt w = w then 0 else 1) e : ℚ) (Real.sqrt w * 2 ^ (e + 1)) := by
  have power : (0 : ℝ) < 2 ^ (e + 1) := by positivity
  rw [isqrt_eq_sqrt]
  refine agrees_sticky ?_ ?_ ?_
  · rw [mul_left_inj' power.ne', Real.sqrt_eq_iff_mul_self_eq (by positivity) (by positivity)]
    exact_mod_cast eq_comm
  · exact mul_le_mul_of_nonneg_right Real.nat_sqrt_le_real_sqrt power.le
  · exact mul_lt_mul_of_pos_right Real.real_sqrt_lt_nat_sqrt_succ power

/-- The significand and the exponent with the exponent made even. -/
theorem fSqrt_fin {m : Nat} (e : Int) (hm : m ≠ 0) : ∃ (w : Nat) (h : Int), 2 ^ 130 * 2 ^ 130 ≤ w ∧ (m : ℝ) * 2 ^ e = w * (2 ^ (h + 1)) ^ 2 ∧
    fSqrt (.fin false m e) = (.fin false (2 * isqrt w + if isqrt w * isqrt w = w then 0 else 1) h, 0) := by
  have eq_ : ∃ (m' : Nat) (e' : Int), 1 ≤ m' ∧ e' % 2 = 0 ∧ (m : ℝ) * 2 ^ e = m' * 2 ^ e' ∧
      (if e % 2 = 0 then (m, e) else (2 * m, e - 1)) = (m', e') := by
    by_cases even : e % 2 = 0
    · exact ⟨m, e, by omega, even, rfl, if_pos even⟩
    · refine ⟨2 * m, e - 1, by omega, by omega, ?_, if_neg even⟩
      rw [zpow_sub₀ (by norm_num)]
      push_cast
      field_simp
  obtain ⟨m', e', positive, even, value, pair⟩ := eq_
  refine ⟨m' * (2 ^ 130 * 2 ^ 130), e' / 2 - 130 - 1, Nat.le_mul_of_pos_left _ positive, ?_, ?_⟩
  · obtain ⟨i, rfl⟩ : ∃ i, e' = 2 * i := ⟨e' / 2, by omega⟩
    have power : (2 : ℝ) ^ (130 : Int) = 2 ^ 130 := zpow_natCast _ 130
    rw [value, Int.mul_ediv_cancel_left _ (by decide), sub_add_cancel, zpow_sub₀ (by norm_num), zpow_mul', div_pow, power]
    rw [Nat.cast_mul, Nat.cast_mul, Nat.cast_pow, Nat.cast_ofNat, ← sq, mul_assoc, mul_div_cancel₀ _ (by positivity), zpow_ofNat]
  · have none : nanOf [.fin false m e] = none := rfl
    rw [fSqrt, none, Option.getD_none, Value.sqrtExact, if_neg hm, if_neg Bool.false_ne_true, pair, ← pow_add]

theorem FFmt.fSqrt_rounds (f : FFmt) (hmb : 1 ≤ f.mb) (hmb' : f.mb ≤ 52) (rm : Rm) {m : Nat} (e : Int) (hm : m ≠ 0) :
    (fSqrt (.fin false m e)).2 = 0 ∧
    f.Rounds rm false (Real.sqrt (real false m e : ℚ)) (f.round rm (fSqrt (.fin false m e)).1) := by
  obtain ⟨w, h, wide, value, result⟩ := fSqrt_fin e hm
  have long : 2 ^ 130 ≤ isqrt w := by
    rw [isqrt_eq_sqrt, Nat.le_sqrt]
    exact wide
  have := le_log2_sticky (s := if isqrt w * isqrt w = w then 0 else 1) long
  rw [result, real_false, value, Real.sqrt_mul (by positivity), Real.sqrt_sq (by positivity)]
  exact ⟨rfl, f.round_rounds hmb rm _ (by omega) (root_agrees w h) (by omega)⟩

/-! ## Sums and products -/

theorem real_atExp (a : Bool) (m : Nat) {e e0 : Int} (h : e0 ≤ e) : real a m e = (atExp a m e e0 : ℚ) * 2 ^ e0 := by
  obtain ⟨n, rfl⟩ : ∃ n : Nat, e = e0 + n := ⟨(e - e0).toNat, by omega⟩
  rw [real, atExp, zpow_add₀ (by norm_num), add_sub_cancel_left, Int.toNat_natCast, zpow_natCast]
  cases a <;> simp <;> ring

theorem real_natAbs (v e : Int) : real (decide (v < 0)) v.natAbs e = (v : ℚ) * 2 ^ e := by
  rcases lt_or_ge v 0 with h | h
  · have abs_ : ((v.natAbs : Int) : ℚ) = ((-v : Int) : ℚ) := by rw [Int.ofNat_natAbs_of_nonpos h.le]
    rw [Int.cast_natCast] at abs_
    simp [real, h, abs_]
  · have abs_ : ((v.natAbs : Int) : ℚ) = (v : ℚ) := by rw [Int.natAbs_of_nonneg h]
    rw [Int.cast_natCast] at abs_
    simp [real, not_lt.2 h, abs_]

theorem fAdd_fin (rm : Rm) (a b : Bool) {m : Nat} (k : Nat) (e g : Int) (hm : m ≠ 0) :
    ∃ v e0 : Int, real a m e + real b k g = (v : ℚ) * 2 ^ e0 ∧ fAdd rm (.fin a m e) (.fin b k g) =
      if v = 0 then (.fin (decide (rm = .rdn)) 0 0, 0) else (.fin (decide (v < 0)) v.natAbs e0, 0) := by
  have least : (if e < g then e else g) ≤ e ∧ (if e < g then e else g) ≤ g := by split <;> omega
  refine ⟨atExp a m e (if e < g then e else g) + atExp b k g (if e < g then e else g), if e < g then e else g, ?_, ?_⟩
  · rw [real_atExp a m least.1, real_atExp b k least.2, Int.cast_add, add_mul]
  · have none : nanOf [.fin a m e, .fin b k g] = none := rfl
    simp [fAdd, none, Value.addExact, hm]

theorem fAdd_exact (rm : Rm) (a b : Bool) {m : Nat} (k : Nat) (e g : Int) (hm : m ≠ 0) :
    (real a m e + real b k g ≠ 0 → ∃ n j h, fAdd rm (.fin a m e) (.fin b k g) = (.fin n j h, 0) ∧
      real n j h = real a m e + real b k g) ∧
    (real a m e + real b k g = 0 → fAdd rm (.fin a m e) (.fin b k g) = (.fin (decide (rm = .rdn)) 0 0, 0)) := by
  obtain ⟨v, e0, sum, result⟩ := fAdd_fin rm a b k e g hm
  rw [sum, result]
  have zero_iff : (v : ℚ) * 2 ^ e0 = 0 ↔ v = 0 := by simp [zpow_ne_zero]
  rw [Ne, zero_iff]
  refine ⟨fun h => ⟨_, _, _, if_neg h, real_natAbs v e0⟩, fun h => if_pos h⟩

theorem fMul_exact (a b : Bool) (m k : Nat) (e g : Int) :
    ∃ j h, fMul (.fin a m e) (.fin b k g) = (.fin (a != b) j h, 0) ∧ real false j h = real false m e * real false k g := by
  refine ⟨m * k, e + g, rfl, ?_⟩
  rw [real, real, real, zpow_add₀ (by norm_num)]
  push_cast
  ring

end Sys2Proof.Machine
end

section
/-! PROOFS. Numbers rounded to integers (R83, R121), and the bits of zeros, infinities and NaN (R133 to R135). -/
namespace Sys2Proof.Machine

/-! ## Integers -/

theorem real_zero_exp (k : Nat) : real false k 0 = k := by simp [real]

theorem lt_ratCast_iff {k : Nat} {x : ℚ} : ((real false k 0 : ℚ) : ℝ) < (x : ℝ) ↔ (k : ℚ) < x := by
  rw [real_zero_exp, Rat.cast_lt]

/-- What goes up to the next integer under the two modes to the nearest. -/
theorem goesUp_nearest {rm : Rm} (h : rm = .rne ∨ rm = .rma) (neg odd : Bool) (k : Nat) (x : ℚ) :
    goesUp rm neg odd (real false k 0) (real false (k + 1) 0) x ↔ (k + 1 / 2 : ℚ) < x ∨ (x = k + 1 / 2 ∧ (rm = .rne → odd = true)) := by
  have middle : (((real false k 0 : ℚ) : ℝ) + (real false (k + 1) 0 : ℚ)) / 2 = ((k + 1 / 2 : ℚ) : ℝ) := by
    rw [real_zero_exp, real_zero_exp]; push_cast; ring
  rcases h with rfl | rfl
  · simp only [goesUp, middle, Rat.cast_lt, Rat.cast_inj, true_imp_iff]
  · simp only [goesUp, middle, Rat.cast_le, reduceCtorEq, false_imp_iff, and_true]
    rw [le_iff_lt_or_eq, eq_comm (a := x)]

theorem real_signed (neg : Bool) (m : Nat) (e : Int) : real neg m e = if neg then -real false m e else real false m e := by
  cases neg <;> simp [real]

section
variable {rm : Rm} {neg inexact : Bool} {x : ℚ} {k q : Nat} (r : RoundedTo rm neg 0 (x : ℝ) k q inexact)
include r

theorem RoundedTo.floor_eq : ⌊x⌋ = k := by
  have le := r.le
  have lt := r.lt
  rw [real_zero_exp] at le lt
  rw [Int.floor_eq_iff]
  constructor
  · exact_mod_cast le
  · exact_mod_cast lt

theorem RoundedTo.ceil_eq : ⌈x⌉ = if (k : ℚ) < x then (k : Int) + 1 else k := by
  have le := Int.floor_le x
  have lt := Int.lt_floor_add_one x
  rw [r.floor_eq] at le lt
  rw [Int.ceil_eq_iff]
  push_cast at le lt
  split
  · push_cast; constructor <;> linarith
  · rw [Int.cast_natCast]; constructor <;> linarith

theorem RoundedTo.eq_iff_not_inexact : (q : ℚ) = x ↔ ¬ inexact = true := by
  have lt := Int.lt_floor_add_one x
  rw [r.floor_eq, Int.cast_natCast] at lt
  rw [r.inexact_iff, lt_ratCast_iff, not_lt]
  constructor
  · rintro rfl
    rcases r.eq_or with same | next_
    · rw [same]
    · rw [next_] at lt
      push_cast at lt
      exact absurd lt (lt_irrefl _)
  · intro le
    rw [r.down fun up => not_le.2 (lt_ratCast_iff.1 up.1) le]
    have := Int.floor_le x
    rw [r.floor_eq, Int.cast_natCast] at this
    exact le_antisymm this le

theorem RoundedTo.eq_floor (stays : ¬ goesUp rm neg (k % 2 == 1) (real false k 0) (real false (k + 1) 0) x) : (q : Int) = ⌊x⌋ := by
  rw [r.floor_eq, r.down fun up => stays up.2]

theorem RoundedTo.eq_ceil (up : goesUp rm neg (k % 2 == 1) (real false k 0) (real false (k + 1) 0) x) : (q : Int) = ⌈x⌉ := by
  rw [r.ceil_eq]
  split
  case isTrue lt => rw [r.up (lt_ratCast_iff.2 lt) up, Nat.cast_succ]
  case isFalse stays => rw [r.down fun h => stays (lt_ratCast_iff.1 h.1)]

/-- To the nearest: the distance, and what becomes of a middle. -/
theorem RoundedTo.nearest (h : rm = .rne ∨ rm = .rma) : |x - q| ≤ 1 / 2 ∧
    (|x - q| = 1 / 2 → (rm = .rne → q % 2 = 0) ∧ (rm = .rma → x < q)) := by
  have le := Int.floor_le x
  have lt := Int.lt_floor_add_one x
  rw [r.floor_eq, Int.cast_natCast] at le lt
  have up := r.up
  have down := r.down
  rw [lt_ratCast_iff, goesUp_nearest h] at up down
  rcases lt_trichotomy x (k + 1 / 2) with below | middle | above
  · rw [down fun up => up.2.elim below.not_gt fun same => below.ne same.1, abs_of_nonneg (by linarith)]
    exact ⟨by linarith, fun half => by linarith⟩
  · have gap : |x - (k : ℚ)| = 1 / 2 ∧ |x - ((k + 1 : Nat) : ℚ)| = 1 / 2 := by
      rw [middle, Nat.cast_succ, abs_of_nonneg (by linarith), abs_of_nonpos (by linarith)]
      constructor <;> ring
    have lt_next : x < ((k + 1 : Nat) : ℚ) := by rw [Nat.cast_succ]; exact lt
    by_cases goes : rm = .rne → (k % 2 == 1) = true
    · rw [up (by linarith) (.inr ⟨middle, goes⟩)]
      refine ⟨gap.2.le, fun _ => ⟨fun hrm => ?_, fun _ => lt_next⟩⟩
      have := beq_iff_eq.1 (goes hrm)
      omega
    · rw [down fun h => h.2.elim (fun above => above.ne' middle) fun tie => goes tie.2]
      refine ⟨gap.1.le, fun _ => ⟨fun _ => ?_, fun hrm => absurd (fun rne => absurd (rne.symm.trans hrm) (by decide)) goes⟩⟩
      have : ¬ k % 2 = 1 := fun odd_ => goes fun _ => beq_iff_eq.2 odd_
      omega
  · rw [up (by linarith) (.inl above), Nat.cast_succ, abs_sub_comm, abs_of_nonneg (by linarith)]
    exact ⟨by linarith, fun half => by linarith⟩

/-- Rounded to an integer with its sign. -/
theorem RoundedTo.roundsToInt (hrm : rm ≠ .dyn) (hx : 0 ≤ x) :
    RoundsToInt rm (if neg then -x else x) (if neg then -(q : Int) else q) := by
  have distance : |(if neg then -x else x) - ((if neg then -(q : Int) else q : Int) : ℚ)| = |x - q| := by
    cases neg
    · simp
    · rw [abs_sub_comm x]; simp [add_comm, sub_eq_add_neg]
  cases rm with
  | dyn => exact absurd rfl hrm
  | rne =>
    obtain ⟨near, tie⟩ := r.nearest (.inl rfl)
    rw [RoundsToInt, distance]
    refine ⟨near, fun half => ?_⟩
    have := (tie half).1 rfl
    split <;> omega
  | rma =>
    obtain ⟨near, tie⟩ := r.nearest (.inr rfl)
    rw [RoundsToInt, distance]
    refine ⟨near, fun half => ?_⟩
    have := (tie half).2 rfl
    cases neg <;> simpa [abs_of_nonneg hx] using this
  | rtz =>
    have q_eq := r.eq_floor id
    cases neg
    · simp [RoundsToInt, hx, q_eq]
    · by_cases zero : x = 0
      · simp [RoundsToInt, zero, q_eq]
      · have positive : ¬ 0 ≤ -x := by rw [neg_nonneg, not_le]; exact lt_of_le_of_ne hx (Ne.symm zero)
        simp only [RoundsToInt, if_true, if_neg positive, Int.ceil_neg, q_eq]
  | rdn =>
    cases neg
    · exact r.eq_floor Bool.false_ne_true
    · simp [RoundsToInt, Int.floor_neg, r.eq_ceil rfl]
  | rup =>
    cases neg
    · exact r.eq_ceil rfl
    · simp [RoundsToInt, Int.ceil_neg, r.eq_floor Bool.true_eq_false.mp]

end

theorem toIntRange_fin (rm : Rm) (hrm : rm ≠ .dyn) (lo hi : Int) (neg : Bool) (m : Nat) (e : Int) :
    ∃ n, RoundsToInt rm (real neg m e) n ∧ toIntRange rm lo hi (.fin neg m e) =
      if n < lo then (lo, 16) else if hi < n then (hi, 16) else (n, if (n : ℚ) = real neg m e then 0 else 1) := by
  have r := roundMag_rounds rm neg m e (-e)
  rw [add_neg_cancel] at r
  have exact_iff : (((if neg then -((roundMag rm neg m (-e)).1 : Int) else (roundMag rm neg m (-e)).1 : Int) : ℚ) = real neg m e) ↔
      ¬ (roundMag rm neg m (-e)).2 = true := by
    rw [← r.eq_iff_not_inexact, real_signed]
    cases neg <;> simp
  refine ⟨if neg then -((roundMag rm neg m (-e)).1 : Int) else (roundMag rm neg m (-e)).1, ?_, ?_⟩
  · rw [real_signed]
    exact r.roundsToInt hrm (by rw [real]; simp; positivity)
  · simp only [exact_iff, toIntRange, roundInt, flNV, flNX, ite_not]
    rfl

/-! ## The fields of an element's bits -/

section
variable (f : FFmt) {b : Nat} (h : b < 2 ^ f.width)

theorem FFmt.width_sub_one : f.width - 1 = f.eb + f.mb := by rw [width]; omega

theorem FFmt.exponent_field (b : Nat) : b / 2 ^ f.mb % 2 ^ f.eb = b % 2 ^ (f.width - 1) / 2 ^ f.mb := by
  rw [width_sub_one, Nat.add_comm, pow_add, Nat.mod_mul_right_div_self]

theorem FFmt.fraction_field (b : Nat) : b % 2 ^ f.mb = b % 2 ^ (f.width - 1) % 2 ^ f.mb := by
  rw [width_sub_one, pow_add, Nat.mod_mod_of_dvd _ (Nat.dvd_mul_left _ _)]

include h in
theorem FFmt.sign_field : b / 2 ^ (f.eb + f.mb) % 2 = 1 ↔ 2 ^ (f.width - 1) ≤ b := by
  rw [width, Nat.add_assoc, pow_add, pow_one] at h
  rw [width_sub_one, Nat.mod_eq_of_lt (Nat.div_lt_of_lt_mul (by omega))]
  have := Nat.two_pow_pos (f.eb + f.mb)
  have one_le := Nat.le_div_iff_mul_le (x := 1) (y := b) this
  have lt_two := Nat.div_lt_of_lt_mul (m := b) (n := 2 ^ (f.eb + f.mb)) (k := 2) (by omega)
  omega

end

/-- What the formats of R133 have in common. -/
theorem format_bounds {f : FFmt} (hf : f ∈ [fp4, fp6a, fp6b, fp8a, fp8b, fp16, bf16, fp32, fp64]) :
    1 ≤ f.mb ∧ f.mb ≤ 52 ∧ 1 ≤ f.eb := by
  simp only [List.mem_cons, List.not_mem_nil, or_false] at hf
  rcases hf with rfl | rfl | rfl | rfl | rfl | rfl | rfl | rfl | rfl <;> decide

/-! ## Which bits are infinities and NaN -/

section
variable (f : FFmt) (heb : 1 ≤ f.eb) {k : Nat} (hk : k < 2 ^ (f.eb + f.mb))

include heb in
/-- The bits of infinity follow those of the largest finite number. -/
theorem FFmt.maxBits_ieee (hs : f.special = .ieee) : f.maxBits + 1 = (2 ^ f.eb - 1) * 2 ^ f.mb := by
  have two_le : 2 ^ 1 ≤ 2 ^ f.eb := Nat.pow_le_pow_right (by decide) heb
  have positive : 0 < (2 ^ f.eb - 1) * 2 ^ f.mb := Nat.mul_pos (by omega) (Nat.two_pow_pos _)
  simp only [maxBits, hs]
  omega

include heb hk in
theorem FFmt.exponent_ones_iff (hs : f.special = .ieee) : k / 2 ^ f.mb = 2 ^ f.eb - 1 ↔ f.maxBits < k := by
  have upper : k / 2 ^ f.mb < 2 ^ f.eb := Nat.div_lt_of_lt_mul (by rwa [← pow_add, Nat.add_comm])
  rw [← Nat.succ_le_iff, Nat.succ_eq_add_one, f.maxBits_ieee heb hs, ← Nat.le_div_iff_mul_le (Nat.two_pow_pos _)]
  omega

include heb in
theorem FFmt.infinity_bits_iff (hs : f.special = .ieee) :
    k / 2 ^ f.mb = 2 ^ f.eb - 1 ∧ k % 2 ^ f.mb = 0 ↔ k = f.maxBits + 1 := by
  rw [f.maxBits_ieee heb hs]
  constructor
  · rintro ⟨exponent, fraction⟩
    rw [← exponent, Nat.div_mul_cancel (Nat.dvd_of_mod_eq_zero fraction)]
  · rintro rfl
    rw [Nat.mul_div_cancel _ (Nat.two_pow_pos _), Nat.mul_mod_left]
    exact ⟨rfl, rfl⟩

include heb hk in
theorem FFmt.all_ones_iff (hs : f.special = .nanOnly) :
    k / 2 ^ f.mb = 2 ^ f.eb - 1 ∧ k % 2 ^ f.mb = 2 ^ f.mb - 1 ↔ f.maxBits < k := by
  have two_le : 2 ^ 1 ≤ 2 ^ f.eb := Nat.pow_le_pow_right (by decide) heb
  have positive := Nat.two_pow_pos f.mb
  obtain ⟨n, hn⟩ : ∃ n, 2 ^ f.eb = n + 1 := ⟨2 ^ f.eb - 1, by omega⟩
  have row_pos : 1 * 2 ^ f.mb ≤ n * 2 ^ f.mb := Nat.mul_le_mul_right _ (by omega)
  rw [Nat.div_mod_unique positive]
  simp only [maxBits, hs]
  rw [pow_add, hn, Nat.succ_mul] at hk ⊢
  rw [Nat.add_sub_cancel, Nat.mul_comm (2 ^ f.mb)]
  omega

end

/-! ## Elements decoded (R133, R134) -/

section
variable (f : FFmt) (heb : 1 ≤ f.eb) {b : Nat} (hb : b < 2 ^ f.width)

include hb in
theorem FFmt.decode_eq : f.decode b =
    let k := b % 2 ^ (f.width - 1)
    let neg := decide (2 ^ (f.width - 1) ≤ b)
    if f.special = .ieee ∧ k / 2 ^ f.mb = 2 ^ f.eb - 1 then
      if k % 2 ^ f.mb = 0 then .inf neg else .nan neg (decide (k % 2 ^ f.mb < 2 ^ (f.mb - 1))) (k % 2 ^ f.mb * 2 ^ (52 - f.mb))
    else if f.special = .nanOnly ∧ k / 2 ^ f.mb = 2 ^ f.eb - 1 ∧ k % 2 ^ f.mb = 2 ^ f.mb - 1 then
      .nan neg false (k % 2 ^ f.mb * 2 ^ (52 - f.mb))
    else if k / 2 ^ f.mb = 0 then .fin neg (k % 2 ^ f.mb) (1 - (f.bias : Int) - f.mb)
    else .fin neg (2 ^ f.mb + k % 2 ^ f.mb) ((k / 2 ^ f.mb : Nat) - (f.bias : Int) - f.mb) := by
  simp only [decode, f.exponent_field b, f.fraction_field b, f.sign_field hb, Bool.and_eq_true, decide_eq_true_eq, and_assoc]

theorem FFmt.magnitude_bits : b % 2 ^ (f.width - 1) < 2 ^ (f.eb + f.mb) := by
  rw [width_sub_one]; exact Nat.mod_lt _ (Nat.two_pow_pos _)

include heb hb

theorem FFmt.decode_fin (hk : b % 2 ^ (f.width - 1) ≤ f.maxBits) :
    ∃ m e, f.decode b = .fin (decide (2 ^ (f.width - 1) ≤ b)) m e ∧ real false m e = f.magnitude (b % 2 ^ (f.width - 1)) := by
  have not_ieee : ¬ (f.special = .ieee ∧ b % 2 ^ (f.width - 1) / 2 ^ f.mb = 2 ^ f.eb - 1) := fun h =>
    absurd ((f.exponent_ones_iff heb f.magnitude_bits h.1).1 h.2) (not_lt.2 hk)
  have not_nan : ¬ (f.special = .nanOnly ∧ b % 2 ^ (f.width - 1) / 2 ^ f.mb = 2 ^ f.eb - 1 ∧
      b % 2 ^ (f.width - 1) % 2 ^ f.mb = 2 ^ f.mb - 1) := fun h =>
    absurd ((f.all_ones_iff heb f.magnitude_bits h.1).1 h.2) (not_lt.2 hk)
  rw [f.decode_eq hb]
  simp only [if_neg not_ieee, if_neg not_nan, magnitude, Nat.div_eq_zero_iff_lt (Nat.two_pow_pos f.mb)]
  split
  case isTrue small => exact ⟨_, _, rfl, by rw [real, Nat.mod_eq_of_lt small]; simp⟩
  case isFalse normal => exact ⟨_, _, rfl, by simp [real]⟩

theorem FFmt.decode_inf (hs : f.special = .ieee) (hk : b % 2 ^ (f.width - 1) = f.maxBits + 1) :
    f.decode b = .inf (decide (2 ^ (f.width - 1) ≤ b)) := by
  obtain ⟨exponent, fraction⟩ := (f.infinity_bits_iff heb hs).2 hk
  rw [f.decode_eq hb]
  simp only [hs, exponent, fraction, and_self, if_true]

theorem FFmt.decode_nan (hk : f.maxBits < b % 2 ^ (f.width - 1)) (hinf : f.special = .ieee → b % 2 ^ (f.width - 1) ≠ f.maxBits + 1) :
    f.decode b = .nan (decide (2 ^ (f.width - 1) ≤ b))
      (decide (f.special = .ieee) && decide (b % 2 ^ (f.width - 1) % 2 ^ f.mb < 2 ^ (f.mb - 1)))
      (b % 2 ^ (f.width - 1) % 2 ^ f.mb * 2 ^ (52 - f.mb)) := by
  rw [f.decode_eq hb]
  cases hs : f.special with
  | ieee =>
    have exponent := (f.exponent_ones_iff heb f.magnitude_bits hs).2 hk
    have fraction : b % 2 ^ (f.width - 1) % 2 ^ f.mb ≠ 0 := fun zero => hinf hs ((f.infinity_bits_iff heb hs).1 ⟨exponent, zero⟩)
    simp only [exponent, fraction, and_self, if_true, if_false, decide_true, Bool.true_and]
  | nanOnly =>
    have ones := (f.all_ones_iff heb f.magnitude_bits hs).2 hk
    simp [ones]
  | none =>
    have most : f.maxBits = 2 ^ (f.eb + f.mb) - 1 := by simp [maxBits, hs]
    have := f.magnitude_bits (b := b)
    omega

end

/-! ## Infinities and NaN rounded (R134, R135) -/

section
variable (f : FFmt) (rm : Rm) (neg : Bool)

theorem FFmt.signed_eq (x : Nat) : f.signed neg x = (if neg then 2 ^ (f.width - 1) else 0) + x := by
  rw [width_sub_one, signed]

theorem FFmt.round_zero (e : Int) : f.round rm (.fin neg 0 e) = (f.signed neg 0, 0) := rfl

theorem FFmt.round_inf (heb : 1 ≤ f.eb) : f.round rm (.inf neg) =
    if f.special = .ieee then (f.signed neg (f.maxBits + 1), 0) else (f.signed neg f.maxBits, 16) := by
  cases hs : f.special with
  | ieee => rw [f.maxBits_ieee heb hs]; simp [round, hs]
  | nanOnly | none => simp [round, hs, flNV]

/-- The top bit of a fraction set. -/
theorem lor_top_bit {n x : Nat} (hx : x < 2 ^ (n + 1)) : (if x / 2 ^ n % 2 = 1 then x else x + 2 ^ n) = x ||| 2 ^ n := by
  have lt_two : x / 2 ^ n < 2 := Nat.div_lt_of_lt_mul (by rwa [← pow_succ])
  split
  case isTrue set_ =>
    refine Nat.eq_of_testBit_eq fun i => ?_
    rw [Nat.testBit_or, Nat.testBit_two_pow]
    by_cases same : n = i
    · subst same
      simp [Nat.testBit_eq_decide_div_mod_eq, set_]
    · simp [same]
  case isFalse clear =>
    have zero : x / 2 ^ n = 0 := by
      generalize x / 2 ^ n = t at lt_two clear
      omega
    have small : x < 2 ^ n := (Nat.div_eq_zero_iff_lt (Nat.two_pow_pos n)).1 zero
    rw [Nat.lor_comm, Nat.add_comm]
    simpa using Nat.two_pow_add_eq_or_of_lt small 1

theorem FFmt.round_nan (hmb : 1 ≤ f.mb) (hmb' : f.mb ≤ 52) (heb : 1 ≤ f.eb) (sig : Bool) {frac : Nat} (hfrac : frac < 2 ^ 52) :
    (f.special = .ieee → f.round rm (.nan neg sig frac) =
      (f.signed neg (f.maxBits + 1 + (frac / 2 ^ (52 - f.mb) ||| 2 ^ (f.mb - 1))), if sig then 16 else 0)) ∧
    (f.special = .nanOnly → f.round rm (.nan neg sig frac) = (f.signed neg (f.maxBits + 1), if sig then 16 else 0)) ∧
    (f.special = .none → f.round rm (.nan neg sig frac) = (0, 16)) := by
  refine ⟨fun hs => ?_, fun hs => ?_, fun hs => ?_⟩
  · have top_lt : frac / 2 ^ (52 - f.mb) < 2 ^ (f.mb - 1 + 1) := by
      refine Nat.div_lt_of_lt_mul ?_
      rwa [← pow_add, show 52 - f.mb + (f.mb - 1 + 1) = 52 by omega]
    rw [f.maxBits_ieee heb hs, ← lor_top_bit top_lt]
    simp only [round, hs, flNV]
  · have two_le : 2 ^ 1 ≤ 2 ^ (f.eb + f.mb) := Nat.pow_le_pow_right (by decide) (by omega)
    have most : f.maxBits + 1 = 2 ^ (f.eb + f.mb) - 1 := by simp only [maxBits, hs]; omega
    simp only [round, qnan, hs, most, flNV]
  · simp only [round, hs, flNV]

end

/-- Settles O23: each number is cut to a multiple of its row's last place, and every number that is cut off compares with the middles
as the number itself does. -/
theorem roundingValues : Obligations.RoundingValues := by
  intro f rm hf hrm
  obtain ⟨hmb, hmb', heb⟩ := format_bounds hf
  refine ⟨f.signed_eq, fun b hb => ⟨f.decode_fin heb hb, f.decode_inf heb hb, f.decode_nan heb hb⟩, ?_, f.round_zero rm,
    fun neg => f.round_inf rm neg heb, fun neg sig frac hfrac => f.round_nan rm neg hmb hmb' heb sig hfrac, ?_, ?_⟩
  · intro neg m e hm
    exact f.round_rounds hmb rm neg hm (Agrees.refl _ _) (sub_one_lt _)
  · intro a m e b k g hm hk
    obtain ⟨sum, zero_sum⟩ := fAdd_exact rm a b k e g hm
    refine ⟨sum, zero_sum, fMul_exact a b m k e g, ?_, f.fDiv_rounds hmb hmb' rm a b e g hm hk, f.fSqrt_rounds hmb hmb' rm e hm⟩
    rw [fDiv_fin a b m k e g hk]
  · exact fun lo hi => ⟨fun neg m e => toIntRange_fin rm hrm lo hi neg m e, fun neg => rfl, fun neg sig frac => rfl⟩

end Sys2Proof.Machine
end

section
/-! PROOFS. The vector floating operations (R101, R109 to R111): the lanes of each shape of instruction. -/
namespace Sys2Proof.Machine

section
variable {s : State} {d a b : Reg} {e : Ew} {m : MReg} {k : Bool}

/-- An operation of two operands rounds once under VCTL.RM in each lane (R101, R109). -/
theorem vfloat_result {n : RegName} (f : Rm → Value → Value → FRes)
    (h : s.ready .compute ⟨[(.v a, k), (n, k)] ++ mergeSrc d m k, [.v d]⟩ = true) :
    s.vectorResult d [(.v a, k), (n, k)] (ewFmt e).width m k
      (fun i => laneOf (ewFmt e).width ((ewFmt e).finish (rmOfField (s.me.vctl.toNat % 8))
        (f (rmOfField (s.me.vctl.toNat % 8)) (laneNum (ewFmt e) (elem (ewFmt e).width (s.valV s.cur a) i))
          (laneNum (ewFmt e) (s.lane n (ewFmt e).width i)))))
      (s.vfloat d a n e m k f) := vmap_result s d _ _ m k _ h (ewFmt_fits e)

/-- A fused operation reads vd under every mask (R110). -/
theorem vfused_result {n : RegName} (f : Rm → Value → Value → Value → FRes)
    (h : s.ready .compute ⟨[(.v a, k), (n, k), (.v d, k)] ++ mergeSrc d m k, [.v d]⟩ = true) :
    s.vectorResult d [(.v a, k), (n, k), (.v d, k)] (ewFmt e).width m k
      (fun i => laneOf (ewFmt e).width ((ewFmt e).finish (rmOfField (s.me.vctl.toNat % 8))
        (f (rmOfField (s.me.vctl.toNat % 8)) (laneNum (ewFmt e) (elem (ewFmt e).width (s.valV s.cur a) i))
          (laneNum (ewFmt e) (s.lane n (ewFmt e).width i)) (laneNum (ewFmt e) (elem (ewFmt e).width (s.valV s.cur d) i)))))
      (s.vfused d a n e m k f) := vmap_result s d _ _ m k _ h (ewFmt_fits e)

/-- A comparison tests each pair of lanes as `op` does (R110). -/
theorem vfcmp_result {d : MReg} {n : RegName} {f op : Value → Value → Bool × Nat} (hf : ∀ x y, f x y = op x y)
    (h : s.ready .compute ⟨[(.v a, k), (n, k)], []⟩ = true) :
    s.maskResult d [(.v a, k), (n, k)] (ewFmt e).width m
      (fun i => op (laneNum (ewFmt e) (elem (ewFmt e).width (s.valV s.cur a) i)) (laneNum (ewFmt e) (s.lane n (ewFmt e).width i)))
      (s.vfcmp d a n e m k f) := by
  obtain rfl : f = op := funext fun x => funext (hf x)
  exact vmaskOp_result s d _ _ m _ h

/-- An operation of one operand works on the bits of each lane (R110). -/
theorem vfloat1_result (f : FFmt → Rm → Nat → Nat × Nat) (h : s.ready .compute ⟨[(.v a, k)] ++ mergeSrc d m k, [.v d]⟩ = true) :
    s.vectorResult d [(.v a, k)] (ewFmt e).width m k
      (fun i => laneOf (ewFmt e).width
        (f (ewFmt e) (rmOfField (s.me.vctl.toNat % 8)) (elem (ewFmt e).width (s.valV s.cur a) i).toNat))
      (s.vfloat1 d a e m k f) := vmap_result s d _ _ m k _ h (ewFmt_fits e)

end

/-- Settles O19: each instruction is one of the four shapes above with its own lane function, in both forms. -/
theorem vectorFloatResults : Obligations.VectorFloatResults := by
  refine ⟨fun s d a b e m k => ?_, fun s d a b e m k => ?_, fun s d a e m k => ?_⟩
  · intro g w rm x z rounded lanes
    have two (f : Rm → Value → Value → FRes) :
        lanes (fun i y => f rm (x i) y) false (s.vfloat d a (.v b) e m k f) (s.vfloat d a (.s b) e m k f) :=
      ⟨vfloat_result f, vfloat_result f⟩
    have three (f : Rm → Value → Value → Value → FRes) :
        lanes (fun i y => f rm (x i) y (z i)) true (s.vfused d a (.v b) e m k f) (s.vfused d a (.s b) e m k f) :=
      ⟨vfused_result f, vfused_result f⟩
    exact ⟨two fAdd, two fSub, two fun _ => fMul, two fun _ => fDiv, two fun _ => fMinMax false, two fun _ => fMinMax true,
      three fFma, three fFms⟩
  · intro g w x lanes nan nv
    have tests {f op : Value → Value → Bool × Nat} (hf : ∀ x y, f x y = op x y) :
        lanes op (s.vfcmp d a (.v b) e m k f) (s.vfcmp d a (.s b) e m k f) := ⟨vfcmp_result hf, vfcmp_result hf⟩
    exact ⟨tests fEq_eq, tests fLt_eq, tests fLe_eq⟩
  · intro g w rm bits x rounded h is
    have one (f : FFmt → Rm → Nat → Nat × Nat) : is (fun i => laneOf w (f g rm (bits i))) (s.vfloat1 d a e m k f) :=
      vfloat1_result f h
    exact ⟨one vfSqrt, one vfRcp, one fun g rm x => fExp2 g rm (g.decode x), one fun g rm x => fLog2 g rm (g.decode x),
      one vfAbs, one vfNeg, one vfClass⟩

end Sys2Proof.Machine
end

section
/-! SUPPORT. The tree of pairs and the doubling network (R113, R114) as functions of level and lane. -/
namespace Sys2Proof.Machine

variable {w : Nat} (f : BitVec w → BitVec w → BitVec w × Nat)

/-! ## The tree of pairs (R113) -/

/-- The nodes of the next level of the tree of pairs, from the nodes of one level. -/
def pairNodes (v : Nat → Option (BitVec w)) (j : Nat) : Option (BitVec w) := (redCombine f (v (2 * j)) (v (2 * j + 1))).1

/-- The flags that the nodes of the next level raise, `n` of them. -/
def pairFlags (v : Nat → Option (BitVec w)) (n : Nat) : Nat :=
  allFlags ((List.range n).map (fun j => (redCombine f (v (2 * j)) (v (2 * j + 1))).2))

/-- The nodes of level t over the elements `v` (R113). -/
def treeNodes (v : Nat → Option (BitVec w)) : Nat → Nat → Option (BitVec w)
  | 0 => v
  | t + 1 => pairNodes f (treeNodes v t)

theorem treeNodes_pairNodes (v : Nat → Option (BitVec w)) (t : Nat) : treeNodes f (pairNodes f v) t = treeNodes f v (t + 1) := by
  induction t with
  | zero => rfl
  | succ t ih => rw [treeNodes, ih]; rfl

theorem redLevel_cons (x y : Option (BitVec w)) (r : List (Option (BitVec w))) : redLevel f (x :: y :: r) =
    ((redCombine f x y).1 :: (redLevel f r).1, (redCombine f x y).2 ||| (redLevel f r).2) := rfl

theorem redTree_succ (k : Nat) (l : List (Option (BitVec w))) : redTree f (k + 1) l =
    ((redTree f k (redLevel f l).1).1, (redLevel f l).2 ||| (redTree f k (redLevel f l).1).2) := rfl

theorem redLevel_range (n : Nat) (v : Nat → Option (BitVec w)) :
    redLevel f ((List.range (2 * n)).map v) = ((List.range n).map (pairNodes f v), pairFlags f v n) := by
  induction n generalizing v with
  | zero => rfl
  | succ n ih =>
    have pairs : (List.range (2 * (n + 1))).map v = v 0 :: v 1 :: (List.range (2 * n)).map (fun i => v (i + 2)) := by
      rw [Nat.mul_succ, List.range_succ_eq_map, List.range_succ_eq_map]
      simp [Function.comp_def]
    rw [pairs, redLevel_cons, ih, List.range_succ_eq_map, List.map_cons, List.map_map, pairFlags, pairFlags, List.range_succ_eq_map,
      List.map_cons, List.map_map, allFlags_cons]
    rfl

theorem redTree_range (k : Nat) (v : Nat → Option (BitVec w)) :
    redTree f k ((List.range (2 ^ k)).map v) = (treeNodes f v k 0,
      allFlags ((List.range k).map (fun t => pairFlags f (treeNodes f v t) (2 ^ k / 2 ^ (t + 1))))) := by
  induction k generalizing v with
  | zero => simp [redTree, treeNodes, allFlags]
  | succ k ih =>
    have half (t : Nat) : 2 ^ (k + 1) / 2 ^ (t + 1) = 2 ^ k / 2 ^ t := by
      rw [pow_succ, pow_succ, Nat.mul_div_mul_right _ _ (by decide)]
    rw [redTree_succ, pow_succ', redLevel_range, ih, ← pow_succ', treeNodes_pairNodes, List.range_succ_eq_map, List.map_cons, List.map_map,
      allFlags_cons]
    simp only [half, pow_zero, Nat.div_one, treeNodes_pairNodes, Function.comp_def]
    rfl

/-! ## The doubling network (R114) -/

/-- The elements after the stage that combines lanes `d` apart, the lower one first. -/
def stageLanes (d : Nat) (v : Nat → Option (BitVec w)) (i : Nat) : Option (BitVec w) :=
  if d ≤ i then (redCombine f (v (i - d)) (v i)).1 else v i

/-- The flags that this stage raises over `n` lanes. -/
def stageFlags (d : Nat) (v : Nat → Option (BitVec w)) (n : Nat) : Nat :=
  allFlags ((List.range (n - d)).map (fun i => (redCombine f (v i) (v (i + d))).2))

/-- The elements `v` after t stages, of which the first combines lanes 2^t0 apart (R114). -/
def scanLanes (t0 : Nat) (v : Nat → Option (BitVec w)) : Nat → Nat → Option (BitVec w)
  | 0 => v
  | t + 1 => stageLanes f (2 ^ (t0 + t)) (scanLanes t0 v t)

theorem scanLanes_stageLanes (t0 : Nat) (v : Nat → Option (BitVec w)) (t : Nat) :
    scanLanes f (t0 + 1) (stageLanes f (2 ^ t0) v) t = scanLanes f t0 v (t + 1) := by
  induction t with
  | zero => rfl
  | succ t ih => rw [scanLanes, ih, Nat.add_right_comm, Nat.add_assoc]; rfl

theorem scanStage_range {d n : Nat} (h : d ≤ n) (v : Nat → Option (BitVec w)) :
    scanStage f d ((List.range n).map v) = ((List.range n).map (stageLanes f d v), stageFlags f d v n) := by
  obtain ⟨r, rfl⟩ := Nat.exists_eq_add_of_le h
  have later : ((List.range (d + r)).map v).drop d = (List.range r).map (fun i => v (i + d)) := by
    simp [List.range_add, Function.comp_def, Nat.add_comm]
  have pairs : (((List.range (d + r)).map v).drop d).zipWith (fun y x => redCombine f x y) ((List.range (d + r)).map v) =
      (List.range r).map (fun i => redCombine f (v i) (v (i + d))) := by
    rw [later, Nat.add_comm d r, List.range_add, List.map_append]
    apply List.ext_getElem <;> simp +contextual
  have firsts : ((List.range (d + r)).map v).take d ++ (List.range r).map (fun i => (redCombine f (v i) (v (i + d))).1) =
      (List.range (d + r)).map (stageLanes f d v) := by
    rw [List.range_add, List.map_append, List.map_append, List.take_left' (by simp)]
    congr 1
    · exact List.map_congr_left fun i hi => (if_neg (not_le.2 (List.mem_range.1 hi))).symm
    · simp [stageLanes, Function.comp_def, Nat.add_comm]
  rw [scanStage]
  simp only [pairs, List.map_map, Function.comp_def, firsts, stageFlags, Nat.add_sub_cancel_left]

theorem scanAll_succ (k d : Nat) (l : List (Option (BitVec w))) : scanAll f (k + 1) d l =
    ((scanAll f k (2 * d) (scanStage f d l).1).1, (scanStage f d l).2 ||| (scanAll f k (2 * d) (scanStage f d l).1).2) := rfl

theorem scanAll_range {n : Nat} (k t0 : Nat) (v : Nat → Option (BitVec w)) (h : ∀ t < k, 2 ^ (t0 + t) ≤ n) :
    scanAll f k (2 ^ t0) ((List.range n).map v) = ((List.range n).map (scanLanes f t0 v k),
      allFlags ((List.range k).map (fun t => stageFlags f (2 ^ (t0 + t)) (scanLanes f t0 v t) n))) := by
  induction k generalizing t0 v with
  | zero => rfl
  | succ k ih =>
    have rest := ih (t0 + 1) (stageLanes f (2 ^ t0) v) fun t ht => by
      rw [Nat.add_assoc, Nat.add_comm 1]; exact h (t + 1) (by omega)
    have least : 2 ^ t0 ≤ n := h 0 (by omega)
    rw [scanAll_succ, scanStage_range f least, ← pow_succ', rest, List.range_succ_eq_map, List.map_cons, List.map_map,
      allFlags_cons, scanLanes_stageLanes]
    simp only [scanLanes_stageLanes, Nat.add_assoc, Nat.add_comm 1, Function.comp_def]
    rfl

/-! ## A register's elements as a function of the lane -/

theorem list_eq_map_range {α : Type} (d : α) (xs : List α) : xs = (List.range xs.length).map (fun i => (xs[i]?).getD d) := by
  apply List.ext_getElem <;> simp +contextual

theorem lanes_pow {w : Nat} (h : w = 8 ∨ w = 16 ∨ w = 32 ∨ w = 64) : 2048 / w = 2 ^ Nat.log2 (2048 / w) := by
  rcases h with rfl | rfl | rfl | rfl <;> decide

theorem ewBits_cases (e : Ew) : ewBits e = 8 ∨ ewBits e = 16 ∨ ewBits e = 32 ∨ ewBits e = 64 := by cases e <;> decide

theorem redWidth_cases (o : RedOp) (e : Ew) : redWidth o e = 8 ∨ redWidth o e = 16 ∨ redWidth o e = 32 ∨ redWidth o e = 64 := by
  cases o <;> cases e <;> decide

theorem redWidth_fits (o : RedOp) (e : Ew) (i : Nat) (h : i < 2048 / redWidth o e) : (i + 1) * redWidth o e ≤ 2048 := by
  rcases redWidth_cases o e with hw | hw | hw | hw <;> rw [hw] at h ⊢ <;> omega

/-! ## Integer sums -/

/-- The sum of the elements below lane i. -/
def sumBelow (xs : List (Option (BitVec w))) (i : Nat) : BitVec w := Laws.sumv (xs.take i)

theorem sumBelow_succ {xs : List (Option (BitVec w))} {i : Nat} (h : i < xs.length) :
    sumBelow xs (i + 1) = sumBelow xs i + ((xs[i]?).getD none).getD 0 := by
  rw [sumBelow, sumBelow, List.take_add_one, Laws.sumv_append, List.getElem?_eq_getElem h]
  simp [Laws.sumv]

/-- After t stages a lane holds the sum of the 2^t elements up to it (R114). -/
theorem scanLanes_add (e : Ew) (rm : Rm) (xs : List (Option (BitVec w))) (t i : Nat) (h : i < xs.length) :
    (scanLanes (redNode .add e rm w) 0 (fun i => (xs[i]?).getD none) t i).getD 0 = sumBelow xs (i + 1) - sumBelow xs (i + 1 - 2 ^ t) := by
  induction t generalizing i with
  | zero => rw [scanLanes, pow_zero, Nat.add_sub_cancel, sumBelow_succ h, BitVec.add_comm, BitVec.add_sub_cancel]
  | succ t ih =>
    rw [scanLanes, Nat.zero_add, stageLanes]
    split
    case isTrue lower =>
      have positive := Nat.two_pow_pos t
      have below := ih (i - 2 ^ t) (by omega)
      rw [(Laws.combine_add e rm w _ _).1, below, ih i h, show i - 2 ^ t + 1 = i + 1 - 2 ^ t by omega, Nat.sub_sub, ← Nat.two_mul,
        ← pow_succ']
      ring
    case isFalse first =>
      rw [ih i h, pow_succ, show i + 1 - 2 ^ t = 0 by omega, show i + 1 - 2 ^ t * 2 = 0 by omega]

end Sys2Proof.Machine
end

section
/-! PROOFS. VRED and VSCAN (R112 to R114). -/
namespace Sys2Proof.Machine

/-- A node of two present values (R112). -/
theorem redNode_eq {w : Nat} (o : RedOp) (e : Ew) (rm : Rm) (x y : BitVec w) :
    redNode o e rm w x y =
      let g := ewFmt e
      let rounded (r : FRes) : BitVec w × Nat := (BitVec.ofNat w (g.round rm r.1).1, r.2 ||| (g.round rm r.1).2)
      match o with
      | .add => (BitVec.ofNat w (x.toNat + y.toNat), 0)
      | .min => (BitVec.ofInt w (min x.toInt y.toInt), 0)
      | .max => (BitVec.ofInt w (max x.toInt y.toInt), 0)
      | .minn => (BitVec.ofNat w (min x.toNat y.toNat), 0)
      | .maxn => (BitVec.ofNat w (max x.toNat y.toNat), 0)
      | .fadd => rounded (fAdd rm (g.decode x.toNat) (g.decode y.toNat))
      | .fmin => rounded (fMinMax false (g.decode x.toNat) (g.decode y.toNat))
      | .fmax => rounded (fMinMax true (g.decode x.toNat) (g.decode y.toNat)) := by
  cases o with
  | add => exact congrArg (·, 0) (addOp_int x y)
  | min => exact congrArg (·, 0) (minOp_int x y)
  | max => exact congrArg (·, 0) (maxOp_int x y)
  | minn => exact congrArg (·, 0) (minuOp_int x y)
  | maxn => exact congrArg (·, 0) (maxuOp_int x y)
  | fadd | fmin | fmax => rfl

/-! ## The instructions -/

theorem execVred_eq (d a : Reg) (o : RedOp) (e : Ew) (m : MReg) (k : Bool) (s : State) :
    let w := redWidth o e
    let r := redTree (redNode o e s.me.vecMode w) (Nat.log2 (2048 / w)) (presentElems w (s.me.rdm m) (s.valV s.cur a))
    execVred d a o e m k s = s.issue .compute ⟨[(.v a, k)], [.v d]⟩ (fun t => (t.raiseV s.cur [r.2]).bind (fun u =>
      .go (u.writeV s.cur d ((r.1.getD (redIdentity o e w)).setWidth 2048), .next))) := rfl

theorem execVscan_eq (d a : Reg) (o : RedOp) (e : Ew) (m : MReg) (k : Bool) (s : State) :
    let w := redWidth o e
    let ys := scanAll (redNode o e s.me.vecMode w) (Nat.log2 (2048 / w)) 1 (presentElems w (s.me.rdm m) (s.valV s.cur a))
    execVscan d a o e m k s = s.issue .compute ⟨(.v a, k) :: mergeSrc d m k, [.v d]⟩ (fun t => (t.raiseV s.cur [ys.2]).bind (fun u =>
      .go (u.writeV s.cur d (mergeV w (s.me.rdm m) (s.valV s.cur d) (fun i => ((ys.1[i]?).getD none).getD 0)), .next))) := rfl

/-! ## The tree and the network over the elements of a register -/

section
variable {w : Nat} (hw : w = 8 ∨ w = 16 ∨ w = 32 ∨ w = 64) (f : BitVec w → BitVec w → BitVec w × Nat) {xs : List (Option (BitVec w))}
  (hxs : xs.length = 2048 / w)
include hw hxs

theorem redTree_lanes : redTree f (Nat.log2 (2048 / w)) xs = (treeNodes f (fun i => (xs[i]?).getD none) (Nat.log2 (2048 / w)) 0,
    allFlags ((List.range (Nat.log2 (2048 / w))).map (fun t =>
      pairFlags f (treeNodes f (fun i => (xs[i]?).getD none) t) (2048 / w / 2 ^ (t + 1))))) := by
  have lanes := lanes_pow hw
  have tree := redTree_range f (Nat.log2 (2048 / w)) (fun i => (xs[i]?).getD none)
  rwa [← lanes, ← hxs, ← list_eq_map_range none xs, hxs] at tree

theorem scanAll_lanes : scanAll f (Nat.log2 (2048 / w)) 1 xs =
    ((List.range (2048 / w)).map (scanLanes f 0 (fun i => (xs[i]?).getD none) (Nat.log2 (2048 / w))),
      allFlags ((List.range (Nat.log2 (2048 / w))).map (fun t =>
        stageFlags f (2 ^ t) (scanLanes f 0 (fun i => (xs[i]?).getD none) t) (2048 / w)))) := by
  have lanes := lanes_pow hw
  have scan := scanAll_range f (n := 2048 / w) (Nat.log2 (2048 / w)) 0 (fun i => (xs[i]?).getD none) fun t ht => by
    rw [lanes, Nat.zero_add]; exact Nat.pow_le_pow_right (by decide) ht.le
  simp only [Nat.zero_add] at scan
  rwa [← hxs, ← list_eq_map_range none xs, hxs] at scan

theorem scanAll_lane {i : Nat} (hi : i < 2048 / w) : (((scanAll f (Nat.log2 (2048 / w)) 1 xs).1)[i]?).getD none =
    scanLanes f 0 (fun i => (xs[i]?).getD none) (Nat.log2 (2048 / w)) i := by
  rw [scanAll_lanes hw f hxs, List.getElem?_map, List.getElem?_range hi]; rfl

theorem scanAll_add (e : Ew) (rm : Rm) {i : Nat} (hi : i < 2048 / w) :
    ((((scanAll (redNode .add e rm w) (Nat.log2 (2048 / w)) 1 xs).1)[i]?).getD none).getD 0 = Laws.sumv (xs.take (i + 1)) := by
  have lanes := lanes_pow hw
  rw [scanAll_lane hw _ hxs hi, scanLanes_add e rm xs _ i (hxs ▸ hi), ← lanes, show i + 1 - 2048 / w = 0 by omega]
  simp [sumBelow, Laws.sumv]

theorem redTree_add (e : Ew) (rm : Rm) : ((redTree (redNode .add e rm w) (Nat.log2 (2048 / w)) xs).1).getD 0 = Laws.sumv xs ∧
    (redTree (redNode .add e rm w) (Nat.log2 (2048 / w)) xs).2 = 0 := by
  have lanes := lanes_pow hw
  have length := hxs.trans lanes
  refine Laws.tree_add e rm w _ xs (List.ne_nil_of_length_pos ?_) length.le
  rw [length]
  exact Nat.two_pow_pos _

end

/-- Settles O20: the lists of the model are the levels and the stages lane by lane, and sums of an interval of lanes add up. -/
theorem reductionsAndScans : Obligations.ReductionsAndScans := by
  refine ⟨fun s d a o e m k => ⟨fun h => ?_, fun h => ?_⟩, fun o e rm xs hxs => ?_, fun e rm xs hxs => ?_⟩
  · exact flagged_of _ _ _ _ _ _ (fun u => (u.writeV s.cur d _, .next)) _ ((execVred_eq d a o e m k s).trans (issue_ready _ _ _ _ h))
      fun u hu => hu
  · exact flagged_of _ _ _ _ _ _ (fun u => (u.writeV s.cur d (mergeV _ (s.me.rdm m) (s.valV s.cur d) _), .next)) _
      ((execVscan_eq d a o e m k s).trans (issue_ready _ _ _ _ h))
      fun u hu => ⟨_, hu, fun i hi => elem_mergeV _ _ _ _ i (redWidth_fits o e i hi) hi⟩
  · intro w depth g rounded node comb f flags
    have node_eq (x y : BitVec w) : f x y = node x y := (redNode_eq o e rm x y).trans (by cases o <;> rfl)
    have comb_eq : redCombine f = comb := by
      funext x y
      rcases x with _ | x
      · rfl
      · rcases y with _ | y
        · rfl
        · exact congrArg (fun n => (some n.1, n.2)) (node_eq x y)
    have wide := redWidth_cases o e
    rw [← comb_eq]
    refine ⟨⟨treeNodes f (fun i => (xs[i]?).getD none), fun _ => rfl, fun _ _ => rfl, ?_⟩,
      ⟨scanLanes f 0 (fun i => (xs[i]?).getD none), fun _ => rfl, fun t i => ?_, fun i hi => scanAll_lane wide f hxs hi, ?_⟩⟩
    · rw [redTree_lanes wide f hxs]
      exact ⟨rfl, rfl⟩
    · rw [scanLanes, Nat.zero_add]; rfl
    · rw [scanAll_lanes wide f hxs]; rfl
  · intro w f sum
    have sum_eq (l : List (Option (BitVec w))) : sum l = Laws.sumv l := Laws.sumv_nat l
    obtain ⟨total, silent⟩ := redTree_add (ewBits_cases e) hxs e rm
    exact ⟨total.trans (sum_eq xs).symm, silent, fun i hi _ => (scanAll_add (ewBits_cases e) hxs e rm (hxs ▸ hi)).trans (sum_eq _).symm⟩

end Sys2Proof.Machine
end

section
/-! SUPPORT. VSORT's order of the lanes (R115): the sort by insertion, and the two runs it is put together from. -/
namespace Sys2Proof.Machine

/-- Lane i comes before lane j: its key is greater, or the same and i is lower (R115). -/
def sortsBefore (key : Nat → Nat) (i j : Nat) : Prop := key j < key i ∨ (key j = key i ∧ i < j)

theorem sortInsert_perm (key : Nat → Nat) (l : List Nat) (i : Nat) : (sortInsert key l i).Perm (i :: l) := by
  refine List.perm_middle.trans (List.Perm.cons i ?_)
  rw [List.takeWhile_append_dropWhile]

/-- What the insertion leaves behind the new lane has lower keys. -/
theorem key_lt_of_mem_dropWhile {key : Nat → Nat} {l : List Nat} (sorted : l.Pairwise (sortsBefore key)) {i j : Nat}
    (h : j ∈ l.dropWhile (fun j => decide (key i ≤ key j))) : key j < key i := by
  induction l with
  | nil => simp at h
  | cons x l ih =>
    obtain ⟨first, rest⟩ := List.pairwise_cons.1 sorted
    by_cases hx : key i ≤ key x
    · rw [List.dropWhile_cons_of_pos (by simpa using hx)] at h
      exact ih rest h
    · rw [List.dropWhile_cons_of_neg (by simpa using hx)] at h
      rcases List.mem_cons.1 h with rfl | h
      · omega
      · have := first j h
        rw [sortsBefore] at this
        omega

theorem sortInsert_sorted {key : Nat → Nat} {l : List Nat} (sorted : l.Pairwise (sortsBefore key)) {i : Nat} (last : ∀ j ∈ l, j < i) :
    (sortInsert key l i).Pairwise (sortsBefore key) := by
  have before (j : Nat) (h : j ∈ l.takeWhile (fun j => decide (key i ≤ key j))) : sortsBefore key j i := by
    have le : key i ≤ key j := by simpa using List.mem_takeWhile_imp h
    have lt := last j ((List.takeWhile_sublist _).subset h)
    rw [sortsBefore]
    omega
  have after (j : Nat) (h : j ∈ l.dropWhile (fun j => decide (key i ≤ key j))) : sortsBefore key i j :=
    .inl (key_lt_of_mem_dropWhile sorted h)
  have halves := List.pairwise_append.1 (List.takeWhile_append_dropWhile ▸ sorted :
    (l.takeWhile (fun j => decide (key i ≤ key j)) ++ l.dropWhile (fun j => decide (key i ≤ key j))).Pairwise (sortsBefore key))
  obtain ⟨low, high, across⟩ := halves
  refine List.pairwise_append.2 ⟨low, List.pairwise_cons.2 ⟨after, high⟩, fun j hj x hx => ?_⟩
  rcases List.mem_cons.1 hx with rfl | hx
  · exact before j hj
  · exact across j hj x hx

theorem sortLanes_append (key : Nat → Nat) (l : List Nat) (i : Nat) :
    sortLanes key (l ++ [i]) = sortInsert key (sortLanes key l) i := List.foldl_concat ..

theorem sortLanes_perm (key : Nat → Nat) (l : List Nat) : (sortLanes key l).Perm l := by
  induction l using List.reverseRecOn with
  | nil => exact List.Perm.refl _
  | append_singleton l i ih =>
    rw [sortLanes_append]
    exact (sortInsert_perm key _ i).trans ((ih.cons i).trans (List.perm_append_singleton i l).symm)

theorem sortLanes_sorted (key : Nat → Nat) {l : List Nat} (ascending : l.Pairwise (· < ·)) :
    (sortLanes key l).Pairwise (sortsBefore key) := by
  induction l using List.reverseRecOn with
  | nil => exact List.Pairwise.nil
  | append_singleton l i ih =>
    obtain ⟨below, _, last⟩ := List.pairwise_append.1 ascending
    rw [sortLanes_append]
    exact sortInsert_sorted (ih below) fun j hj => last j ((sortLanes_perm key l).mem_iff.1 hj) i (List.mem_singleton_self i)

/-- The order that VSORT gives `n` lanes, of which `on` are enabled (R115). -/
def sortOrder (key : Nat → Nat) (on : Nat → Bool) (n : Nat) : List Nat :=
  sortLanes key ((List.range n).filter on) ++ (List.range n).filter (fun i => !on i)

theorem sortOrder_perm (key : Nat → Nat) (on : Nat → Bool) (n : Nat) : (sortOrder key on n).Perm (List.range n) :=
  ((sortLanes_perm key _).append_right _).trans (List.filter_append_perm on _)

/-- Enabled lanes come first and in order of their keys, the others after them in order of their numbers (R115). -/
def laneOrder (key : Nat → Nat) (on : Nat → Bool) (i j : Nat) : Prop :=
  (on j = true → on i = true) ∧ (on i = true → on j = true → sortsBefore key i j) ∧ (on i = false → i < j)

theorem sortOrder_ordered (key : Nat → Nat) (on : Nat → Bool) (n : Nat) : (sortOrder key on n).Pairwise (laneOrder key on) := by
  have enabled_ (i : Nat) (h : i ∈ sortLanes key ((List.range n).filter on)) : on i = true :=
    (List.mem_filter.1 ((sortLanes_perm key _).mem_iff.1 h)).2
  have disabled (i : Nat) (h : i ∈ (List.range n).filter (fun i => !on i)) : on i = false := by
    simpa using (List.mem_filter.1 h).2
  have ascending (p : Nat → Bool) : ((List.range n).filter p).Pairwise (· < ·) := List.pairwise_lt_range.filter p
  refine List.pairwise_append.2 ⟨?_, ?_, fun i hi j hj => ?_⟩
  · refine (sortLanes_sorted key (ascending on)).imp_of_mem fun {i j} hi hj before => ⟨fun _ => enabled_ i hi, fun _ _ => before, ?_⟩
    exact fun off => absurd (enabled_ i hi) (by simp [off])
  · refine (ascending _).imp_of_mem fun {i j} hi hj lt => ⟨fun onj => ?_, fun oni => ?_, fun _ => lt⟩
    · exact absurd onj (by simp [disabled j hj])
    · exact absurd oni (by simp [disabled i hi])
  · have oni := enabled_ i hi
    have offj := disabled j hj
    exact ⟨fun _ => oni, fun _ onj => absurd onj (by simp [offj]), fun off => absurd oni (by simp [off])⟩

theorem sortOrder_getD (key : Nat → Nat) (on : Nat → Bool) {n j l : Nat} (hjl : j < l) (hl : l < n) :
    laneOrder key on ((sortOrder key on n).getD j 0) ((sortOrder key on n).getD l 0) := by
  have length : (sortOrder key on n).length = n := by rw [(sortOrder_perm key on n).length_eq, List.length_range]
  have pair := List.pairwise_iff_getElem.1 (sortOrder_ordered key on n) j l (by omega) (by omega) hjl
  rwa [List.getD_eq_getElem _ _ (by omega), List.getD_eq_getElem _ _ (by omega)]

theorem vsort_result {s : State} {d a : Reg} {e : Ew} {m : MReg} {k : Bool} (h : s.ready .compute ⟨[(.v a, k)], [.v d, .v (d + 1)]⟩ = true) :
    let w := (ewFmt e).width
    let order := sortOrder (fun i => totalKey w (elem w (s.valV s.cur a) i)) (enabled (s.me.rdm m) w) (2048 / w)
    execVsort d a e m k s = .next ((((s.popAll s.cur [(.v a, k)]).writeV s.cur d
      (buildV w (fun i => elem w (s.valV s.cur a) (order.getD i 0)))).writeV s.cur (d + 1)
      (buildV w (fun i => BitVec.ofNat w (order.getD i 0)))).retire s.cur .next) := issue_ready _ _ _ _ h

end Sys2Proof.Machine
end

section
/-! PROOFS. The element moves, VSORT, bitmaps, VCVT and the mask operations (R115 to R122). -/
namespace Sys2Proof.Machine

/-! ## Element moves (R116) -/

/-- An element move takes f in each enabled lane. -/
theorem vmove_result {s : State} {d : Reg} {srcs : List (RegName × Bool)} {e : Ew} {m : MReg} {k : Bool}
    {f g : Nat → BitVec (ewBits e)} (hf : ∀ i, f i = g i) (h : s.ready .compute ⟨srcs ++ mergeSrc d m k, [.v d]⟩ = true) :
    s.vectorResult d srcs (ewBits e) m k (fun i => (g i, 0)) (s.vmove d srcs (ewBits e) m k f) := by
  obtain rfl : f = g := funext hf
  exact vmap_result s d _ _ m k _ h (ewBits_fits e)

/-- The place of an enabled lane among the enabled ones. -/
theorem filter_range_getElem? {on : Nat → Bool} {n j : Nat} (hj : j < n) (onj : on j = true) :
    ((List.range n).filter on)[((List.range j).filter on).length]? = some j := by
  obtain ⟨r, rfl⟩ : ∃ r, n = j + (r + 1) := ⟨n - j - 1, by omega⟩
  have later : (List.range (r + 1)).map (j + ·) = j :: (List.range r).map (fun i => j + (i + 1)) := by
    rw [List.range_succ_eq_map]; simp [Function.comp_def]
  rw [List.range_add, List.filter_append, later, List.filter_cons_of_pos onj, List.getElem?_append_right (le_refl _), Nat.sub_self]
  rfl

section
variable {s : State} {d a b : Reg} {e : Ew} {m : MReg} {k : Bool}

/-- VEXT reads one enabled element. -/
theorem vext_result (h : s.ready .compute ⟨[(.v a, k), (.s b, k)], [.s d]⟩ = true) :
    let w := ewBits e
    let j := (s.valS s.cur b).toNat
    execVext d a b e m k s = .next (s.wrote [(.v a, k), (.s b, k)] d
      (if j < 2048 / w ∧ enabled (s.me.rdm m) w j = true then (elem w (s.valV s.cur a) j).signExtend 64 else 0)) := by
  intro w j
  have tests : (j < 2048 / w ∧ enabled (s.me.rdm m) w j = true) ↔ (decide (j < 2048 / w) && enabled (s.me.rdm m) w j) = true := by
    rw [Bool.and_eq_true, decide_eq_true_eq]
  simp only [tests]
  exact compS_ready s _ _ d _ h

/-- VINS replaces one enabled element. -/
theorem vins_result (h : s.ready .compute ⟨[(.s a, k), (.s b, k), (.v d, k)], [.v d]⟩ = true) :
    let w := ewBits e
    ∃ v, execVins d a b e m k s = .next (s.wroteV [(.s a, k), (.s b, k), (.v d, k)] d v) ∧
      ∀ i, i < 2048 / w → elem w v i =
        if i = (s.valS s.cur b).toNat ∧ enabled (s.me.rdm m) w i = true then (s.valS s.cur a).setWidth w
        else elem w (s.valV s.cur d) i := by
  intro w
  refine ⟨_, issue_ready _ _ _ _ h, fun i hi => ?_⟩
  rw [elem_buildV _ _ i (ewBits_fits e i hi) hi]
  simp only [Bool.and_eq_true, decide_eq_true_eq]
  rfl

/-- VCMPR packs the enabled elements, the rest of the register is 0. -/
theorem vcmpr_result (h : s.ready .compute ⟨[(.v a, k)], [.v d]⟩ = true) :
    let w := ewBits e
    let n := 2048 / w
    let on := enabled (s.me.rdm m) w
    ∃ v, execVcmpr d a e m k s = .next (s.wroteV [(.v a, k)] d v) ∧
      (∀ j, j < n → on j = true → elem w v ((List.range j).filter on).length = elem w (s.valV s.cur a) j) ∧
      (∀ i, i < n → ((List.range n).filter on).length ≤ i → elem w v i = 0) := by
  intro w n on
  refine ⟨_, issue_ready _ _ _ _ h, fun j hj onj => ?_, fun i hi behind => ?_⟩
  · have before : ((List.range j).filter on).length < n :=
      ((List.length_filter_le _ _).trans_eq List.length_range).trans_lt hj
    rw [elem_buildV _ _ _ (ewBits_fits e _ before) before, enabledLanes]
    simp only [on, w, n] at *
    rw [filter_range_getElem? hj onj]
  · rw [elem_buildV _ _ i (ewBits_fits e i hi) hi, enabledLanes]
    simp only [on, w, n] at *
    rw [List.getElem?_eq_none behind]

end

/-! ## VCVT (R119 to R121) -/

/-- The end of an instruction whose lanes raise the flags `fl`, one number for each lane (R102, R103). -/
theorem flagged_of_list {s : State} {srcs : List (RegName × Bool)} {fl : List Nat} {o : Out} (go : State → State × PcFlow)
    (ho : o = s.finish (((s.popAll s.cur srcs).raiseV s.cur fl).bind (fun u => .go (go u)))) :
    s.flagged srcs fl.length (fun _ => true) (fun i => fl.getD i 0) o
      (fun u => o = .next ((go u).1.retire s.cur (go u).2)) := by
  refine flagged_of _ _ _ _ _ _ go _ ?_ fun u hu => hu
  have lanes : fl = (List.range fl.length).map (fun i => if true = true then fl.getD i 0 else 0) := by
    apply List.ext_getElem <;> simp +contextual
  rw [← lanes]
  exact ho

theorem execVcvt_in (d a : Reg) (f : BitVec 5) (e : Ew) (k : Bool) (s : State) :
    let ls := cvtIn f.toNat (ewFmt e) s.me.vecMode (cbtNat (s.station s.cur.st).cbt) (s.valV s.cur a)
    execVcvt d a f e false k s = s.issue .compute ⟨[(.v a, k)], [.v d]⟩ (fun t => (t.raiseV s.cur (ls.map (·.2))).bind (fun u =>
      .go (u.writeV s.cur d (BitVec.ofNat 2048 (packNat (ewFmt e).width (ls.map (·.1)))), .next))) := rfl

theorem execVcvt_out (d a : Reg) (f : BitVec 5) (e : Ew) (k : Bool) (s : State) :
    let r := cvtOut f.toNat (ewFmt e) s.me.vecMode (s.valV s.cur a)
    execVcvt d a f e true k s = s.issueIf .compute (f == 0x16) ⟨[(.v a, k)], [.v d]⟩ (fun t =>
      (t.raiseV s.cur r.2).bind (fun u => .go (u.writeV s.cur d r.1, .next))) := rfl

section
variable {s : State} {d a : Reg} {f : BitVec 5} {e : Ew} {k : Bool} (h : s.ready .compute ⟨[(.v a, k)], [.v d]⟩ = true)
include h

theorem vcvt_in_result : let g := ewFmt e
    let ls := cvtIn f.toNat g (rmOfField (s.me.vctl.toNat % 8)) (cbtNat (s.station s.cur.st).cbt) (s.valV s.cur a)
    s.flagged [(.v a, k)] ls.length (fun _ => true) (fun i => (ls.getD i (0, 0)).2) (execVcvt d a f e false k s)
      (fun t => execVcvt d a f e false k s =
        .next ((t.writeV s.cur d (BitVec.ofNat 2048 (packNat g.width (ls.map (·.1))))).retire s.cur .next)) := by
  intro g ls
  have flags := flagged_of_list (fl := ls.map (·.2))
    (fun u => (u.writeV s.cur d (BitVec.ofNat 2048 (packNat g.width (ls.map (·.1)))), .next))
    ((execVcvt_in d a f e k s).trans (issue_ready _ _ _ _ h))
  have second (i : Nat) : (ls.map (·.2)).getD i 0 = (ls.getD i (0, 0)).2 := List.getD_map (d := (0, 0)) ..
  simpa only [List.length_map, second] using flags

theorem vcvt_out_result (hf : f ≠ 0x16) : let r := cvtOut f.toNat (ewFmt e) (rmOfField (s.me.vctl.toNat % 8)) (s.valV s.cur a)
    s.flagged [(.v a, k)] r.2.length (fun _ => true) (fun i => r.2.getD i 0) (execVcvt d a f e true k s)
      (fun t => execVcvt d a f e true k s = .next ((t.writeV s.cur d r.1).retire s.cur .next)) := by
  intro r
  refine flagged_of_list (fun u => (u.writeV s.cur d r.1, .next)) ?_
  rw [execVcvt_out, beq_false_of_ne hf]
  exact issueIf_ready _ _ _ _ h

theorem vcvt_out_codebook (hf : f = 0x16) :
    execVcvt d a f e true k s = .next (s.trapNow (trapOf 0x01 (s.me.ir.setWidth 64))) := by
  rw [execVcvt_out, beq_iff_eq.2 hf]
  exact issueIf_refused h

end

/-! ## Mask operations (R122) -/

section
variable {s : State} {d m : MReg} {srcs : List (RegName × Bool)}

/-- A mask operation gives `f`, bit by bit, where the governing mask is 1. -/
theorem vm_result {x : MWord} {f : Nat → Bool} (hx : ∀ i, i < 256 → x.getLsbD i = f i) (h : s.ready .compute ⟨srcs, []⟩ = true) :
    ∃ z, s.vm d srcs m x = .next (s.wroteM srcs d z) ∧
      ∀ i, i < 256 → z.getLsbD i = if (s.me.rdm m).getLsbD i then f i else (s.me.rdm d).getLsbD i := by
  refine ⟨_, issue_ready _ _ _ _ h, fun i hi => ?_⟩
  rw [← hx i hi]
  cases on : (s.me.rdm m).getLsbD i <;> simp [BitVec.getLsbD_or, BitVec.getLsbD_and, hi, on, -BitVec.getLsbD_eq_getElem]

end

theorem getLsbD_quarter (x : MWord) (y : Word) {q i : Nat} (hi : i < 256) :
    ((x &&& ~~~(BitVec.ofNat 256 (2 ^ 64 - 1) <<< (64 * q))) ||| (y.setWidth 256 <<< (64 * q))).getLsbD i =
      if i / 64 = q then y.getLsbD (i % 64) else x.getLsbD i := by
  have field : (BitVec.ofNat 256 (2 ^ 64 - 1)).getLsbD (i - 64 * q) = decide (i - 64 * q < 64) := by
    rw [BitVec.getLsbD_ofNat, Nat.testBit_two_pow_sub_one]
    simp; omega
  have high (n : Nat) (hn : 64 ≤ n) : y.getLsbD n = false := BitVec.getLsbD_of_ge y n hn
  simp only [BitVec.getLsbD_or, BitVec.getLsbD_and, BitVec.getLsbD_not, BitVec.getLsbD_shiftLeft, BitVec.getLsbD_setWidth, field, hi,
    decide_true, Bool.true_and]
  by_cases inside : i / 64 = q
  · rw [if_pos inside, show i - 64 * q = i % 64 by omega]
    simp [show ¬ i < 64 * q by omega, show i % 64 < 64 by omega, show i % 64 < 256 by omega]
  · rw [if_neg inside]
    by_cases low : i < 64 * q
    · simp [low]
    · simp [low, show ¬ i - 64 * q < 64 by omega, high (i - 64 * q) (by omega)]

/-- MFIRST finds the lowest 1, or gives 256 (R122). -/
theorem find?_range_getD (p : Nat → Bool) (n : Nat) : let c := ((List.range n).find? p).getD n
    c ≤ n ∧ (∀ i, i < c → p i = false) ∧ (c < n → p c = true) := by
  intro c
  cases found : (List.range n).find? p with
  | none =>
    have c_eq : c = n := by simp [c, found]
    rw [c_eq]
    refine ⟨le_refl n, fun i hi => ?_, fun h => absurd h (lt_irrefl n)⟩
    simpa using List.find?_eq_none.1 found i (List.mem_range.2 hi)
  | some j =>
    have c_eq : c = j := by simp [c, found]
    rw [c_eq]
    obtain ⟨hp, hj, before⟩ := List.find?_range_eq_some.1 found
    refine ⟨(List.mem_range.1 hj).le, fun i hi => by simpa using before i hi, fun _ => hp⟩

/-- Settles O22: each element move is a lane function, VSORT an order of the lanes, each mask operation a function of bits. -/
theorem elementMovesSortBitmapsAndMasks : Obligations.ElementMovesSortBitmapsAndMasks := by
  refine ⟨fun s d a b e m k => ?_, fun s d a e m k => ?_, fun s d a dm am e m k f => ?_, fun s d a b m r q k => ?_⟩
  · intro w n on x moves
    have move {srcs f} (g) (hf : ∀ i, f i = g i) : moves srcs g (s.vmove d srcs w m k f) := vmove_result hf
    refine ⟨move _ fun i => ?_, move _ fun _ => rfl, move _ fun _ => rfl, move _ fun i => ?_, move _ fun _ => rfl, move _ fun _ => rfl,
      move _ fun _ => rfl, vext_result, vins_result, vcmpr_result⟩
    · simp only [← not_lt, ite_not]; rfl
    · simp only [Bool.and_eq_true, decide_eq_true_eq, n]; norm_cast
  · intro w n on x key h
    refine ⟨_, _, _, sortOrder_perm key on n, vsort_result h, fun j hj => ?_, fun j l hjl hl => sortOrder_getD key on hjl hl⟩
    exact ⟨elem_buildV _ _ j (ewFmt_fits e j hj) hj, elem_buildV _ _ j (ewFmt_fits e j hj) hj⟩
  · intro w g rm
    refine ⟨fun h => ⟨vmaskOp_result s dm _ _ m _ h, ?_⟩, fun h => vmove_result (fun _ => rfl) h, fun h => ⟨vcvt_in_result h, vcvt_out_result h,
      vcvt_out_codebook h⟩⟩
    have nonzero (i : Nat) : (elem w (s.valV s.cur a) i != 0) = decide (elem w (s.valV s.cur a) i ≠ 0) := by
      rw [bne, beq_eq_decide, decide_not]
    simp only [← nonzero]
    exact vmaskOp_result s dm _ _ m _ h
  · intro x y under quarter
    have mask {srcs z} (f) (hz : ∀ i, i < 256 → BitVec.getLsbD z i = f i) : under srcs f (s.vm d srcs m z) := vm_result hz
    refine ⟨mask _ fun i hi => ?_, mask _ fun i hi => ?_, mask _ fun i hi => ?_, mask _ fun i hi => ?_, mask _ fun i hi => ?_,
      mask _ fun i hi => getLsbD_quarter _ _ hi, mask _ fun i hi => getLsbD_buildM _ i hi, fun h => ⟨compS_ready s _ _ r _ h, _,
      compS_ready s _ _ r _ h, find?_range_getD (fun i => x.getLsbD i) 256⟩, fun h => ?_⟩
    · exact BitVec.getLsbD_and
    · exact BitVec.getLsbD_or
    · exact BitVec.getLsbD_xor
    · simp [hi, x, y]
    · simp [hi, x]
    · have field : (x >>> (64 * quarter)).setWidth 64 = x.extractLsb' (64 * quarter) 64 := BitVec.eq_of_toNat_eq (by simp)
      rw [← field]
      exact compS_ready s _ _ r _ h

end Sys2Proof.Machine
end

section
/-! PROOFS. The issue of vector loads and stores, gathers and scatters (R123 to R128, R230). -/
namespace Sys2Proof.Machine

/-- The address of the VMEM format (R123). -/
theorem vmemAddr_eq (s : State) (a : Reg) (o : BitVec 13) : s.vmemAddr a o = s.valS s.cur a + BitVec.ofInt 64 (o.toInt * 32) := by
  rw [State.vmemAddr, BitVec.ofInt_mul]; rfl

theorem vctlTw_eq (v : Word) : bitsOf v 18 17 = v.toNat / 2 ^ 17 % 4 := bitsOf_eq v 18 17

/-! ## 256 bytes outside TYPED banks (R123 to R125) -/

section
variable {s : State} {d a : Reg} {k : Bool} {q : Qual} {o : BitVec 13}

theorem execVld_plain (h : s.ready .vload ⟨[(.s a, k)], [.v d]⟩ = true) :
    let addr := s.vmemAddr a o
    let t := s.popAll s.cur [(.s a, k)]
    t.typedBank s.cur addr = none →
    execVld d a k q o s = s.finish ((t.checkAccess s.cur addr 256 32 q false).bind (fun _ =>
      .go (t.startLoad s.cur (.vector d false) addr q (t.partsOf (t.ownAccess s.cur) .load addr 256 q []), .load))) := by
  intro addr t bank
  rw [execVld, issue_ready _ _ _ _ h]
  simp only [t, addr] at bank
  simp only [bank]
  rfl

theorem execVst_plain (h : s.ready .vstore ⟨[(.v d, k), (.s a, k)], []⟩ = true) :
    let addr := s.vmemAddr a o
    let t := s.popAll s.cur [(.v d, k), (.s a, k)]
    t.typedBank s.cur addr = none →
    execVst d a k q o s = s.finish ((t.checkAccess s.cur addr 256 32 q false).bind (fun _ =>
      .go (t.startStore s.cur addr false q (t.partsOf (t.ownAccess s.cur) .store addr 256 q
        ((List.range 256).map (fun i => (s.valV s.cur d).extractLsb' (8 * i) 8))), .next))) := by
  intro addr t bank
  rw [execVst, issue_ready _ _ _ _ h]
  simp only [t, addr] at bank
  simp only [bank, leBytes_toNat]
  rfl

/-! ## TYPED banks (R125, R230) -/

/-- The checks of an access to a TYPED bank in their order: the address, the bank, the access itself. -/
theorem finish_typed {s t : State} {w : Who} {addr : Word} {n : Nat} {q : Qual} {legal : Prop} {ok : Bool} (hok : ok = true ↔ legal)
    {body : Unit → Res (State × PcFlow)} {r : Out}
    (hr : r = s.finish ((need (addr.toNat % 32 == 0) (alignOf addr)).bind (fun _ => (need ok (accessTrap addr)).bind (fun _ =>
      (t.checkAccess w addr n 32 q true).bind body)))) :
    (addr.toNat % 32 ≠ 0 → r = .next (s.trapNow (trapOf 0x03 addr))) ∧
    (addr.toNat % 32 = 0 → ¬ legal → r = .next (s.trapNow (trapOf 0x04 addr))) ∧
    (addr.toNat % 32 = 0 → legal → ∀ e, t.accessFault w addr n q true = some e → r = .next (s.trapNow e)) ∧
    (addr.toNat % 32 = 0 → legal → t.accessFault w addr n q true = none → t.accessWaits w addr q = true → r = .next s.wait) ∧
    (addr.toNat % 32 = 0 → legal → t.accessFault w addr n q true = none → t.accessWaits w addr q = false → r = s.finish (body ())) := by
  have passed (aligned : addr.toNat % 32 = 0) (l : legal) : r = s.finish ((t.checkAccess w addr n 32 q true).bind body) := by
    simp only [hr, aligned, hok.2 l, beq_self_eq_true, need_true, bind_go]
  refine ⟨fun crooked => ?_, fun aligned illegal => ?_, fun aligned l e fault => ?_, fun aligned l free waits => ?_,
    fun aligned l free goes => ?_⟩
  · simp only [hr, beq_false_of_ne crooked, need_false, bind_trap]; rfl
  · have refused : ok = false := Bool.eq_false_of_not_eq_true fun h => illegal (hok.1 h)
    simp only [hr, aligned, refused, beq_self_eq_true, need_true, bind_go, need_false, bind_trap]; rfl
  · rw [passed aligned l, finish_checkAccess, if_neg (not_not.2 aligned), fault]
  · rw [passed aligned l, finish_checkAccess, if_neg (not_not.2 aligned), free]
    exact if_pos waits
  · rw [passed aligned l, finish_checkAccess, if_neg (not_not.2 aligned), free]
    exact if_neg (by simp [goes])

theorem typedLoad_legal (f : BankFmt) (off n : Nat) : (!typedRefuses f off n q false) = true ↔ q = .plain ∧ typedFits f off n = true := by
  simp [typedRefuses]

theorem typedStore_legal (f : BankFmt) (off n : Nat) :
    (!typedRefuses f off n q true) = true ↔ q = .plain ∧ typedFits f off n = true ∧ f.fmt ≠ 0x16 := by
  simp [typedRefuses, and_assoc]

theorem execVld_typed {f : BankFmt} {off : Nat} (h : s.ready .vload ⟨[(.s a, k)], [.v d]⟩ = true) :
    let addr := s.vmemAddr a o
    let t := s.popAll s.cur [(.s a, k)]
    let n := twLanes (t.me.vctl.toNat / 2 ^ 17 % 4)
    t.typedBank s.cur addr = some (f, off) →
    execVld d a k q o s = s.finish ((need (addr.toNat % 32 == 0) (alignOf addr)).bind (fun _ =>
      (need (!typedRefuses f off n q false) (accessTrap addr)).bind (fun _ => (t.checkAccess s.cur addr n 32 q true).bind (fun _ =>
        .go (t.startLoad s.cur (.vector d true) addr q (t.partsOf (t.ownAccess s.cur) .load addr n q []), .load))))) := by
  intro addr t n bank
  rw [execVld, issue_ready _ _ _ _ h]
  simp only [t, addr] at bank
  simp only [bank, vctlTw_eq]
  rfl

theorem execVst_typed {f : BankFmt} {off : Nat} (h : s.ready .vstore ⟨[(.v d, k), (.s a, k)], []⟩ = true) :
    let addr := s.vmemAddr a o
    let t := s.popAll s.cur [(.v d, k), (.s a, k)]
    let tw := t.me.vctl.toNat / 2 ^ 17 % 4
    let n := twLanes tw
    let st := typedStore f tw (rmOfField (t.me.vctl.toNat % 8)) (s.valV s.cur d)
    t.typedBank s.cur addr = some (f, off) →
    execVst d a k q o s = s.finish ((need (addr.toNat % 32 == 0) (alignOf addr)).bind (fun _ =>
      (need (!typedRefuses f off n q true) (accessTrap addr)).bind (fun _ => (t.checkAccess s.cur addr n 32 q true).bind (fun _ =>
        (t.raiseV s.cur st.2).bind (fun u => .go (u.startStore s.cur addr false q
          ((u.partsOf (u.ownAccess s.cur) .store addr n q []).map (fun p => { p with data := st.1 })), .next)))))) := by
  intro addr t tw n st bank
  rw [execVst, issue_ready _ _ _ _ h]
  simp only [t, addr] at bank
  simp only [bank, vctlTw_eq]
  rfl

end

/-! ## Gathers and scatters (R126 to R128) -/

/-- The address of an element (R126). -/
theorem elemAddr_eq (s : State) (a b : Reg) (w i : Nat) :
    s.elemAddr a b w i = s.valS s.cur b + BitVec.ofNat 64 ((elem w (s.valV s.cur a) i).toNat * (w / 8)) := by
  rw [State.elemAddr, BitVec.ofNat_mul, BitVec.ofNat_toNat]

theorem checkElems_go (t : State) (w : Who) (n : Nat) {l : List Word} (free : ∀ a ∈ l, t.accessFault w a n .plain false = none) :
    t.checkElems w n l = .go () := by
  induction l with
  | nil => rfl
  | cons a l ih =>
    rw [State.checkElems, free a List.mem_cons_self]
    exact ih fun b hb => free b (List.mem_cons_of_mem a hb)

theorem checkElems_trap (t : State) (w : Who) (n : Nat) {pre : List Word} (post : List Word) {a : Word} {x : TrapInfo}
    (free : ∀ b ∈ pre, t.accessFault w b n .plain false = none) (fault : t.accessFault w a n .plain false = some x) :
    t.checkElems w n (pre ++ a :: post) = .trap x := by
  induction pre with
  | nil => rw [List.nil_append, State.checkElems, fault]
  | cons b pre ih =>
    rw [List.cons_append, State.checkElems, free b List.mem_cons_self]
    exact ih fun c hc => free c (List.mem_cons_of_mem b hc)

/-- The checks of a gather or scatter in their order: the base, the elements from the lowest lane on, what they wait for. With no
element enabled nothing is accessed. -/
theorem finish_elems {s t : State} {w : Who} {n : Nat} {base : Word} {on : List Nat} {addr : Nat → Word} {x y : State × PcFlow} {r : Out}
    (hr : r = s.finish ((need (base.toNat % n == 0) (alignOf base)).bind (fun _ => (t.checkElems w n (on.map addr)).bind (fun _ =>
      (await ((on.map addr).all (fun a => !t.accessWaits w a .plain) && t.elemRoom w ((on.map addr).map BitVec.toNat))).bind (fun _ =>
        if on.isEmpty then .go x else .go y))))) :
    let waits : Prop := (∃ i ∈ on, t.accessWaits w (addr i) .plain = true) ∨ t.elemRoom w (on.map (fun i => (addr i).toNat)) = false
    (base.toNat % n ≠ 0 → r = .next (s.trapNow (trapOf 0x03 base))) ∧
    (base.toNat % n = 0 → ∀ pre i post x, on = pre ++ i :: post → (∀ j ∈ pre, t.accessFault w (addr j) n .plain false = none) →
      t.accessFault w (addr i) n .plain false = some x → r = .next (s.trapNow x)) ∧
    (base.toNat % n = 0 → (∀ i ∈ on, t.accessFault w (addr i) n .plain false = none) →
      (waits → r = .next s.wait) ∧
      (¬ waits → r = if on = [] then .next (x.1.retire s.cur x.2) else .next (y.1.retire s.cur y.2))) := by
  intro waits
  refine ⟨fun crooked => ?_, fun aligned pre i post x parts free fault => ?_, fun aligned free => ?_⟩
  · simp only [hr, beq_false_of_ne crooked, need_false, bind_trap]; rfl
  · have trap : t.checkElems w n (on.map addr) = .trap x := by
      simp only [parts, List.map_append, List.map_cons]
      exact checkElems_trap t w n _ (by simpa using free) fault
    simp only [hr, aligned, beq_self_eq_true, need_true, bind_go, trap, bind_trap]; rfl
  · have goes : t.checkElems w n (on.map addr) = .go () := checkElems_go t w n (by simpa using free)
    have waits_iff : ((on.map addr).all (fun a => !t.accessWaits w a .plain) && t.elemRoom w ((on.map addr).map BitVec.toNat)) = true ↔
        ¬ waits := by
      simp [waits, Function.comp_def]
    simp only [hr, aligned, beq_self_eq_true, need_true, bind_go, goes]
    refine ⟨fun h => ?_, fun h => ?_⟩
    · rw [Bool.eq_false_of_not_eq_true fun e => waits_iff.1 e h]; rfl
    · rw [waits_iff.2 h]
      cases on <;> rfl

section
variable {s : State} {d a b : Reg} {e : Ew} {m : MReg} {k : Bool}

theorem execVldx_ready (h : s.ready .vload ⟨[(.v a, k), (.s b, k)] ++ mergeSrc d m k, [.v d]⟩ = true) :
    let w := ewBits e
    let n := w / 8
    let on := enabledLanes w (s.me.rdm m)
    let addr := s.elemAddr a b w
    let base := s.valS s.cur b
    let t := s.popAll s.cur ([(.v a, k), (.s b, k)] ++ mergeSrc d m k)
    let ps := t.elemParts .load n (on.map (fun i => (i, addr i, [])))
    execVldx d a b e m k s = s.finish ((need (base.toNat % n == 0) (alignOf base)).bind (fun _ =>
      (t.checkElems s.cur n (on.map addr)).bind (fun _ =>
        (await ((on.map addr).all (fun x => !t.accessWaits s.cur x .plain) &&
          t.elemRoom s.cur ((on.map addr).map BitVec.toNat))).bind (fun _ =>
            if on.isEmpty then .go (t.writeV s.cur d (s.valV s.cur d), .next)
            else .go (((t.addUnsettled s.cur (.gather d n on) base false ps.length).bump).startElems s.cur ps, .load))))) := by
  intro w n on addr base t ps
  rw [execVldx, issue_ready _ _ _ _ h]

theorem execVstx_ready (h : s.ready .vstore ⟨[(.v d, k), (.v a, k), (.s b, k)], []⟩ = true) :
    let w := ewBits e
    let n := w / 8
    let on := enabledLanes w (s.me.rdm m)
    let addr := s.elemAddr a b w
    let base := s.valS s.cur b
    let t := s.popAll s.cur [(.v d, k), (.v a, k), (.s b, k)]
    let ps := t.elemParts .store n (on.map (fun i => (i, addr i, leBytes (elem w (s.valV s.cur d) i).toNat n)))
    execVstx d a b e m k s = s.finish ((need (base.toNat % n == 0) (alignOf base)).bind (fun _ =>
      (t.checkElems s.cur n (on.map addr)).bind (fun _ =>
        (await ((on.map addr).all (fun x => !t.accessWaits s.cur x .plain) &&
          t.elemRoom s.cur ((on.map addr).map BitVec.toNat))).bind (fun _ =>
            if on.isEmpty then .go (t, .next)
            else .go (((t.addStore s.cur base false false ps.length).bump).startElems s.cur ps, .next))))) := by
  intro w n on addr base t ps
  rw [execVstx, issue_ready _ _ _ _ h]

end

/-- Settles O26: each instruction is its checks in their order, then what it sends. -/
theorem vectorAccessesIssue : Obligations.VectorAccessesIssue := by
  refine ⟨fun s d a k q o => ?_, fun s d a k q o f off => ?_, fun s d a b e m k => ?_⟩
  · intro addr checked
    have address : s.vmemAddr a o = addr := vmemAddr_eq s a o
    refine ⟨?_, ?_⟩
    · intro h t bank
      refine (execVld_plain h (by rw [address]; exact bank)).trans ?_
      rw [address]
      exact finish_checkAccess ..
    · intro h t bank
      refine (execVst_plain h (by rw [address]; exact bank)).trans ?_
      rw [address]
      exact finish_checkAccess ..
  · intro addr checked
    have address : s.vmemAddr a o = addr := vmemAddr_eq s a o
    refine ⟨?_, ?_⟩
    · intro h t bank n
      have load : exec (.vld d a k q o) s = _ := execVld_typed h (by rw [address]; exact bank)
      rw [address] at load
      exact finish_typed (typedLoad_legal f off n) load
    · intro h t bank tw n st
      have store : exec (.vst d a k q o) s = _ := execVst_typed h (by rw [address]; exact bank)
      rw [address] at store
      obtain ⟨crooked, illegal, fault, waits, goes⟩ := finish_typed (typedStore_legal f off n) store
      exact ⟨crooked, illegal, fault, waits, fun aligned legal free ready => flagged_of_list _ (goes aligned legal free ready)⟩
  · intro w n base on addr parts waits checked
    have address : s.elemAddr a b w = addr := funext (elemAddr_eq s a b w)
    refine ⟨?_, ?_⟩
    · intro srcs h t
      have gather : exec (.vldx d a b e m k) s = _ := execVldx_ready h
      rw [address] at gather
      exact finish_elems gather
    · intro srcs data h t
      have scatter : exec (.vstx d a b e m k) s = _ := execVstx_ready h
      rw [address] at scatter
      exact finish_elems scatter

end Sys2Proof.Machine
end

section
namespace Sys2Proof.Machine

/-- A NaN whose fraction has more than the 52 bits that a value has elsewhere in the model. The statement admits it, as it speaks of
every list of values. -/
def wideNan : Value := .nan false false (2 ^ 60)

/-- The element of format 0x0D that `wideNan` becomes does not fit the eight bits of an element. -/
theorem encodeElem_wideNan : (encodeElem 0x0D .rne wideNan).1 = 1150 := by decide

/-- Refutes O57: the clause on packed rows speaks of every list of values. `encodeElem` keeps the upper bits of a NaN's fraction as they
are, so for `wideNan`, whose fraction has 61 bits, the element of format 0x0D is 1,150, and a field of eight bits of the row is less
than 256. -/
theorem not_copiedValues : ¬ Obligations.CopiedValues := by
  intro holds
  obtain ⟨-, -, fields, -⟩ := holds default 0 0 default
  have field := fields 0x0D [wideNan] (by decide) (by decide) 0 (by decide)
  have small : leNat (packRow 0x0D [wideNan]) / 2 ^ (0 * codeBits 0x0D) % 2 ^ codeBits 0x0D < 256 := Nat.mod_lt _ (by decide)
  have large : (encodeElem 0x0D .rne ([wideNan].getD 0 (.fin false 0 0))).1 = 1150 := encodeElem_wideNan
  rw [field, large] at small
  exact absurd small (by decide)

end Sys2Proof.Machine
end

section
/-! SUPPORT. Numbers packed into fields (R3, R119), and the elements of the formats (R132, R133, R138): their widths, what they decode to
and what a value is converted to. -/
namespace Sys2Proof.Machine

/-! ## Fields of packed numbers -/

theorem packNat_lt (b : Nat) (l : List Nat) : packNat b l < 2 ^ (b * l.length) := by
  induction l with
  | nil => simp [packNat]
  | cons x r ih =>
    have low : x % 2 ^ b < 2 ^ b := Nat.mod_lt _ (Nat.two_pow_pos b)
    rw [packNat_cons, List.length_cons, Nat.mul_succ, Nat.pow_add, Nat.mul_comm (2 ^ (b * r.length))]
    calc x % 2 ^ b + 2 ^ b * packNat b r < 2 ^ b * (packNat b r + 1) := by rw [Nat.mul_succ]; omega
      _ ≤ 2 ^ b * 2 ^ (b * r.length) := Nat.mul_le_mul_left _ ih

/-- A number packed at its own place. -/
theorem packNat_getElem {b : Nat} {l : List Nat} {k x : Nat} (h : l[k]? = some x) (hx : x < 2 ^ b) :
    packNat b l / 2 ^ (b * k) % 2 ^ b = x := by
  rw [Nat.mul_comm b, packNat_field, List.getD_eq_getElem?_getD, h, Option.getD_some, Nat.mod_eq_of_lt hx]

/-- What lies above a field does not matter to it. -/
theorem field_below (x y : Nat) {p q n : Nat} (h : p + q ≤ n) : (x + y * 2 ^ n) / 2 ^ p % 2 ^ q = x / 2 ^ p % 2 ^ q := by
  obtain ⟨r, rfl⟩ := Nat.exists_eq_add_of_le h
  rw [Nat.pow_add, Nat.pow_add, show y * (2 ^ p * 2 ^ q * 2 ^ r) = 2 ^ p * (2 ^ q * (y * 2 ^ r)) by ring,
    Nat.add_mul_div_left _ _ (Nat.two_pow_pos p), Nat.add_mul_mod_self_left]

/-- What lies below a field does not matter to it. -/
theorem field_above {x n : Nat} (y p q : Nat) (h : x < 2 ^ n) : (x + y * 2 ^ n) / 2 ^ (n + p) % 2 ^ q = y / 2 ^ p % 2 ^ q := by
  rw [Nat.pow_add, ← Nat.div_div_eq_div_mul, Nat.add_mul_div_right _ _ (Nat.two_pow_pos n), Nat.div_eq_of_lt h, Nat.zero_add]

theorem twos_eq (b x : Nat) (hb : 0 < b) : twos b x = (BitVec.ofNat b x).toInt := by
  have whole := twos_toNat (BitVec.ofNat b x) b hb
  rw [BitVec.setWidth_eq, BitVec.toNat_ofNat] at whole
  rw [← whole, twos, twos, Nat.mod_mod]

/-- The low bits of an integer's two's complement. -/
theorem ofInt_toNat_mod (v : Int) {b n : Nat} (h : b ≤ n) : (BitVec.ofInt n v).toNat % 2 ^ b = (BitVec.ofInt b v).toNat := by
  have power (k : Nat) : ((2 ^ k : Nat) : Int) = 2 ^ k := by simp
  have divides : (2 ^ b : Int) ∣ 2 ^ n := pow_dvd_pow 2 h
  apply Int.natCast_inj.1
  rw [Int.natCast_emod, BitVec.toNat_ofInt, BitVec.toNat_ofInt, power, power,
    Int.toNat_of_nonneg (Int.emod_nonneg _ (by positivity)), Int.toNat_of_nonneg (Int.emod_nonneg _ (by positivity)),
    Int.emod_emod_of_dvd _ divides]

/-! ## Rounded elements fit their width (R133 to R135) -/

/-- A NaN's fraction lies in its 52 bits, as that of every element does. -/
def Value.fracFits : Value → Prop
  | .nan _ _ frac => frac < 2 ^ 52
  | _ => True

section
variable {f : FFmt}

theorem FFmt.maxBits_lt (f : FFmt) : f.maxBits < 2 ^ (f.eb + f.mb) := by
  have all := Nat.two_pow_pos (f.eb + f.mb)
  have row : (2 ^ f.eb - 1) * 2 ^ f.mb ≤ 2 ^ (f.eb + f.mb) := by
    rw [Nat.pow_add]; exact Nat.mul_le_mul_right _ (Nat.sub_le ..)
  unfold maxBits
  split <;> omega

theorem FFmt.infBits_lt (heb : 1 ≤ f.eb) (hs : f.special = .ieee) : f.maxBits + 1 + 2 ^ f.mb ≤ 2 ^ (f.eb + f.mb) := by
  have positive := Nat.two_pow_pos f.eb
  rw [f.maxBits_ieee heb hs, ← Nat.succ_mul, Nat.succ_eq_add_one, Nat.sub_add_cancel positive, Nat.pow_add]

theorem FFmt.signed_lt (f : FFmt) (neg : Bool) {x : Nat} (h : x < 2 ^ (f.eb + f.mb)) : f.signed neg x < 2 ^ f.width := by
  have double : 2 ^ f.width = 2 * 2 ^ (f.eb + f.mb) := by rw [width, Nat.add_assoc, Nat.pow_add, pow_one]
  rw [signed, double]
  split <;> omega

theorem FFmt.beyond_lt (heb : 1 ≤ f.eb) (rm : Rm) (neg : Bool) : f.beyond rm neg < 2 ^ (f.eb + f.mb) := by
  have most := f.maxBits_lt
  have power := Nat.two_pow_pos f.mb
  cases hs : f.special with
  | ieee =>
    have inf := FFmt.infBits_lt heb hs
    cases rm <;> cases neg <;> simp [beyond, hs] <;> omega
  | nanOnly | none => simpa [beyond, hs] using most

theorem FFmt.round_lt (hmb : 1 ≤ f.mb) (hmb' : f.mb ≤ 52) (heb : 1 ≤ f.eb) (rm : Rm) {x : Value} (hx : x.fracFits) :
    (f.round rm x).1 < 2 ^ f.width := by
  have most := f.maxBits_lt
  have power := Nat.two_pow_pos f.mb
  cases x with
  | nan neg sig frac =>
    obtain ⟨ieee, nanOnly, none⟩ := f.round_nan rm neg hmb hmb' heb sig hx
    cases hs : f.special with
    | ieee =>
      have inf := FFmt.infBits_lt heb hs
      have top : frac / 2 ^ (52 - f.mb) < 2 ^ f.mb :=
        Nat.div_lt_of_lt_mul (by rw [← Nat.pow_add, Nat.sub_add_cancel hmb']; exact hx)
      have quiet := Nat.or_lt_two_pow top (Nat.pow_lt_pow_right (by decide) (by omega : f.mb - 1 < f.mb))
      rw [ieee hs]
      exact f.signed_lt neg (by omega)
    | nanOnly =>
      have two_le : 2 ^ 1 ≤ 2 ^ (f.eb + f.mb) := Nat.pow_le_pow_right (by decide) (by omega)
      rw [nanOnly hs]
      exact f.signed_lt neg (by simp only [maxBits, hs]; omega)
    | none => rw [none hs]; exact Nat.two_pow_pos _
  | inf neg =>
    rw [f.round_inf rm neg heb]
    split
    case isTrue hs => exact f.signed_lt neg (by have := FFmt.infBits_lt heb hs; omega)
    case isFalse => exact f.signed_lt neg most
  | fin neg m e =>
    by_cases hm : m = 0
    · subst hm
      exact f.signed_lt neg (Nat.two_pow_pos _)
    · rw [f.round_fin rm neg hm, placed]
      split
      · exact f.signed_lt neg (FFmt.beyond_lt heb rm neg)
      · exact f.signed_lt neg (by omega)

theorem FFmt.decode_fracFits (hmb' : f.mb ≤ 52) (b : Nat) : (f.decode b).fracFits := by
  have frac : b % 2 ^ f.mb * 2 ^ (52 - f.mb) < 2 ^ 52 := by
    calc b % 2 ^ f.mb * 2 ^ (52 - f.mb) < 2 ^ f.mb * 2 ^ (52 - f.mb) :=
          Nat.mul_lt_mul_of_pos_right (Nat.mod_lt _ (Nat.two_pow_pos _)) (Nat.two_pow_pos _)
      _ = 2 ^ 52 := by rw [← Nat.pow_add, Nat.add_sub_cancel' hmb']
  simp only [decode]
  split_ifs <;> first | exact trivial | exact frac

end

theorem Value.scale_fracFits {x : Value} (h : x.fracFits) (k : Int) : (x.scale k).fracFits := by cases x <;> exact h

/-! ## The formats by their codes (R132, R133, R138) -/

/-- The floating formats, and that their elements are as wide as R119 says. -/
theorem codeFloat_format {c : Nat} {f : FFmt} (h : codeFloat c = some f) :
    f ∈ [fp4, fp6a, fp6b, fp8a, fp8b, fp16, bf16, fp32, fp64] ∧ f.width = codeBits c := by
  unfold codeFloat at h
  split at h <;> cases h <;> decide

theorem codeBits_pos (c : Nat) : 0 < codeBits c := by unfold codeBits; split <;> decide

theorem codeBits_le (c : Nat) : codeBits c ≤ 64 := by unfold codeBits; split <;> decide

theorem codeScaled_iff (c : Nat) : codeScaled c = true ↔ 0x10 ≤ c ∧ c ≤ 0x16 := by simp [codeScaled]

/-! ## What an element stands for (R132, R133, R138) -/

theorem decodeElem_float {c : Nat} {f : FFmt} (h : codeFloat c = some f) (x : Nat) : decodeElem c x = f.decode x := by
  rw [decodeElem, h]

theorem decodeElem_unsigned {c x : Nat} (h : c ∈ [0x01, 0x05, 0x07, 0x19]) (hx : x < 2 ^ codeBits c) : decodeElem c x = numOfInt x := by
  have low : x % 2 ^ codeBits c = x := Nat.mod_eq_of_lt hx
  simp only [List.mem_cons, List.not_mem_nil, or_false] at h
  rcases h with rfl | rfl | rfl | rfl <;> exact congrArg (fun n : Nat => numOfInt n) low

theorem decodeElem_signed {c x : Nat} (h : c ∈ [0x02, 0x04, 0x06, 0x08, 0x18, 0x1A]) :
    decodeElem c x = numOfInt (BitVec.ofNat (codeBits c) x).toInt := by
  rw [← twos_eq _ _ (codeBits_pos c)]
  simp only [List.mem_cons, List.not_mem_nil, or_false] at h
  rcases h with rfl | rfl | rfl | rfl | rfl | rfl <;> rfl

theorem decodeElem_int1 {x : Nat} (hx : x < 2) : decodeElem 0x00 x = numOfInt (1 - 2 * x) := by
  obtain rfl | rfl : x = 0 ∨ x = 1 := by omega
  · rfl
  · rfl

theorem decodeElem_tern {x : Nat} (hx : x < 4) :
    decodeElem 0x03 x = if x = 2 then .nan false true 0 else numOfInt (BitVec.ofNat 2 x).toInt := by
  have low : x % 4 = x := Nat.mod_eq_of_lt hx
  rw [← twos_eq _ _ (by decide)]
  simp [decodeElem, codeFloat, low]

theorem decodeElem_mxint (x : Nat) : decodeElem 0x15 x = (numOfInt (BitVec.ofNat 8 x).toInt).scale (-6) := by
  rw [← twos_eq _ _ (by decide)]; rfl

/-- The weights of a codebook entry (R139). -/
theorem decodeCB2_getD (cbt : Nat) {idx j : Nat} (hidx : idx < 2 ^ 16) (hj : j < 8) :
    let mag : Nat := cbt / 2 ^ (24 * (idx / 256)) % 2 ^ 24 / 2 ^ (3 * j) % 8
    let sign (i : Nat) : Nat := idx / 2 ^ (i + 1) % 2
    let sg : Nat := if j = 7 then ((List.range 7).map sign).sum % 2 else sign j
    (decodeCB2 cbt idx).getD j 0 = (1 - 2 * (sg : Int)) * 2 * mag + (idx % 2 : Nat) := by
  intro mag sign sg
  have entry : idx / 256 % 256 = idx / 256 := Nat.mod_eq_of_lt (by omega)
  have sg_eq : sg = 0 ∨ sg = 1 := by
    simp only [sg, sign]
    split <;> omega
  have weight : (decodeCB2 cbt idx).getD j 0 = (if sg = 1 then -(2 * (mag : Int)) else 2 * mag) + (idx % 2 : Nat) := by
    rw [decodeCB2, entry, List.getD_eq_getElem?_getD, List.getElem?_map, List.getElem?_range hj]
    rfl
  rw [weight]
  rcases sg_eq with h | h <;> simp [h]

/-! ## What a value is converted to (R121) -/

section
variable {c : Nat} {rm : Rm}

theorem encodeElem_float {f : FFmt} (h : codeFloat c = some f) (x : Value) : encodeElem c rm x = f.round rm x := by
  simp only [encodeElem, h]

/-- The integer formats but INT1 saturate to a range (R121, R132). -/
theorem encodeElem_range (hf : codeFloat c = none) (hc : c ≠ 0x00) (x : Value) :
    encodeElem c rm x = ((BitVec.ofInt (codeBits c) (toIntRange rm (codeRange c).1 (codeRange c).2 x).1).toNat,
      (toIntRange rm (codeRange c).1 (codeRange c).2 x).2) := by
  simp only [encodeElem, hf, if_neg hc, ofInt_toNat_mod _ (codeBits_le c)]

theorem codeRange_unsigned (h : c ∈ [0x01, 0x05, 0x07, 0x19]) :
    codeFloat c = none ∧ c ≠ 0x00 ∧ codeRange c = (0, 2 ^ codeBits c - 1) := by
  simp only [List.mem_cons, List.not_mem_nil, or_false] at h
  rcases h with rfl | rfl | rfl | rfl <;> decide

theorem codeRange_signed (h : c ∈ [0x02, 0x04, 0x06, 0x08, 0x18, 0x1A]) :
    codeFloat c = none ∧ c ≠ 0x00 ∧ codeRange c = (-2 ^ (codeBits c - 1), 2 ^ (codeBits c - 1) - 1) := by
  simp only [List.mem_cons, List.not_mem_nil, or_false] at h
  rcases h with rfl | rfl | rfl | rfl | rfl | rfl <;> decide

theorem numEq_one_iff (m : Nat) (e : Int) : numEq (.fin false m e) (numOfInt 1) = true ↔ real false m e = 1 := by
  have least : (if e < 0 then e else 0) ≤ e ∧ (if e < 0 then e else 0) ≤ 0 := by split <;> omega
  have one : (1 : ℚ) = real false 1 0 := by simp [real]
  have power : (2 : ℚ) ^ (if e < 0 then e else 0) ≠ 0 := zpow_ne_zero _ (by norm_num)
  rw [one, real_atExp false m least.1, real_atExp false 1 least.2, mul_left_inj' power, Int.cast_inj]
  exact beq_iff_eq

theorem encodeElem_int1_nan (neg sig : Bool) (frac : Nat) : encodeElem 0x00 rm (.nan neg sig frac) = (0, 16) := rfl

theorem encodeElem_int1_inf (neg : Bool) : encodeElem 0x00 rm (.inf neg) = (if neg then 1 else 0, 16) := rfl

/-- INT1 keeps the sign of a nonzero number, and is exact for 1 and −1 (R121, R132). -/
theorem encodeElem_int1_fin (neg : Bool) (n : Nat) (e : Int) : encodeElem 0x00 rm (.fin neg n e) =
    (if real neg n e < 0 then 1 else 0, if real neg n e = 1 ∨ real neg n e = -1 then 0 else 1) := by
  have size_pos : 0 ≤ real false n e := by simp [real]; positivity
  have size_zero : real false n e = 0 ↔ n = 0 := by simp [real, zpow_ne_zero]
  have below : real neg n e < 0 ↔ (neg && n != 0) = true := by
    rw [real_signed]
    cases neg
    · simpa using size_pos
    · simp [lt_iff_le_and_ne, size_pos, size_zero]
  have one : (real neg n e = 1 ∨ real neg n e = -1) ↔ numEq (.fin false n e) (numOfInt 1) = true := by
    rw [numEq_one_iff, real_signed]
    cases neg
    · simp only [Bool.false_eq_true, if_false, or_iff_left_iff_imp]
      intro h; linarith
    · simp only [if_true, neg_inj, or_iff_right_iff_imp]
      intro h; linarith
  simp only [below, one]
  rfl

theorem encodeElem_lt (hc : c < 0x1C) {x : Value} (hx : x.fracFits) : (encodeElem c rm x).1 < 2 ^ codeBits c := by
  cases hf : codeFloat c with
  | some f =>
    obtain ⟨hmem, width⟩ := codeFloat_format hf
    obtain ⟨hmb, hmb', heb⟩ := format_bounds hmem
    rw [encodeElem_float hf, ← width]
    exact FFmt.round_lt hmb hmb' heb rm hx
  | none =>
    by_cases h0 : c = 0x00
    · subst h0
      cases x with
      | nan => rw [encodeElem_int1_nan]; decide
      | inf neg => rw [encodeElem_int1_inf]; cases neg <;> decide
      | fin neg n e => rw [encodeElem_int1_fin]; dsimp only; split <;> decide
    · rw [encodeElem_range hf h0]
      exact BitVec.isLt _

end

end Sys2Proof.Machine
end

section
/-! SUPPORT. Blocks of 32 values with a common scale (R121, R137, R138). -/
namespace Sys2Proof.Machine

/-! ## Sizes -/

/-- Whether a value is a number. -/
def Value.finite : Value → Bool
  | .fin _ _ _ => true
  | _ => false

/-- The number a finite value stands for, without its sign. -/
def Value.size : Value → ℚ
  | .fin _ n e => real false n e
  | _ => 0

theorem Value.finite_iff (x : Value) : x.finite = true ↔ ∃ neg m e, x = .fin neg m e := by
  cases x <;> simp [Value.finite]

theorem real_pos {m : Nat} (e : Int) (hm : m ≠ 0) : 0 < real false m e := by
  rw [real]
  have : (0 : ℚ) < m := by exact_mod_cast Nat.pos_of_ne_zero hm
  simp only [Bool.false_eq_true, if_false, one_mul]
  positivity

theorem real_zero (e : Int) : real false 0 e = 0 := by simp [real]

/-- The power of two at or below a number (R121). -/
theorem floorLog2_spec {m : Nat} (e : Int) (hm : m ≠ 0) :
    (2 : ℚ) ^ floorLog2 m e ≤ real false m e ∧ real false m e < 2 ^ (floorLog2 m e + 1) := by
  have lo : ((2 ^ Nat.log2 m : Nat) : ℚ) ≤ m := by exact_mod_cast Nat.log2_self_le hm
  have hi : (m : ℚ) < (2 ^ (Nat.log2 m + 1) : Nat) := by exact_mod_cast Nat.lt_log2_self
  have power : (0 : ℚ) < 2 ^ e := by positivity
  rw [floorLog2, add_right_comm, zpow_add₀ (by norm_num), zpow_add₀ (by norm_num), ← Nat.cast_succ, zpow_natCast, zpow_natCast]
  simp only [real, Bool.false_eq_true, if_false, one_mul]
  push_cast at lo hi
  exact ⟨mul_le_mul_of_nonneg_right lo power.le, mul_lt_mul_of_pos_right hi power⟩

theorem le_of_zpow_lt {s t : Int} {x : ℚ} (lo : (2 : ℚ) ^ s ≤ x) (hi : x < 2 ^ (t + 1)) : s ≤ t := by
  have := (zpow_lt_zpow_iff_right₀ (by norm_num : (1 : ℚ) < 2)).1 (lo.trans_lt hi)
  omega

/-! ## The scale of a block (R121) -/

/-- The greater of an exponent found so far and that of a value; zeros do not count. -/
def topStep (t : Option Int) (x : Value) : Option Int :=
  match x with
  | .fin _ m e => if m = 0 then t else
    match t with
    | none => some (floorLog2 m e)
    | some k => some (if k < floorLog2 m e then floorLog2 m e else k)
  | _ => t

/-- The greatest exponent of the values, none where all are zero. -/
def blockTop (xs : List Value) : Option Int := xs.foldl topStep none

/-- The exponent that a block's scale byte stands for. -/
def blockExp (c : Nat) (xs : List Value) : Int :=
  match blockTop xs with
  | none => -127
  | some k => let v := k - codeEmax c; if v < -127 then -127 else if 127 < v then 127 else v

/-- One element of a block with the scale 2^X, and its flags. -/
def blockElem (c : Nat) (rm : Rm) (X : Int) (x : Value) : Nat × Nat :=
  match codeFloat c with
  | some f => f.round rm (x.scale (-X))
  | none =>
    match x with
    | .fin n m e =>
      let (v, inexact) := roundInt rm n m (e - (X - 6))
      if v < -128 then (128, flOF + flNX) else if 127 < v then (127, flOF + flNX)
      else ((BitVec.ofInt 8 v).toNat, if inexact then flNX else 0)
    | _ => (0, flNV)

theorem encodeBlock_eq (c : Nat) (rm : Rm) (xs : List Value) : encodeBlock c rm xs =
    if xs.any (fun x => !x.finite) then (xs.map (fun _ => 0), 0xFF, xs.map (fun x => if x.finite then 0 else flNV))
    else (xs.map (fun x => (blockElem c rm (blockExp c xs) x).1), (blockExp c xs + 127).toNat,
      xs.map (fun x => (blockElem c rm (blockExp c xs) x).2)) := by
  have test : (fun x : Value => match x with | .fin _ _ _ => false | _ => true) = (fun x => !x.finite) := by
    funext x; cases x <;> rfl
  have flag : (fun x : Value => match x with | .fin _ _ _ => 0 | _ => flNV) = (fun x => if x.finite then 0 else flNV) := by
    funext x; cases x <;> rfl
  have parts : encodeBlock c rm xs =
      if xs.any (fun x => match x with | .fin _ _ _ => false | _ => true) then
        (xs.map (fun _ => 0), 0xFF, xs.map (fun x => match x with | .fin _ _ _ => 0 | _ => flNV))
      else ((xs.map (blockElem c rm (blockExp c xs))).map (·.1), (blockExp c xs + 127).toNat,
        (xs.map (blockElem c rm (blockExp c xs))).map (·.2)) := rfl
  rw [parts, test, flag, List.map_map, List.map_map]
  rfl

/-- The greatest exponent is that of a value, and none is greater. -/
theorem blockTop_spec (xs : List Value) :
    (∀ neg m e, .fin neg m e ∈ xs → m ≠ 0 → ∃ k, blockTop xs = some k ∧ floorLog2 m e ≤ k) ∧
    (∀ k, blockTop xs = some k → ∃ neg m e, .fin neg m e ∈ xs ∧ m ≠ 0 ∧ floorLog2 m e = k) := by
  induction xs using List.reverseRecOn with
  | nil => simp [blockTop]
  | append_singleton xs x ih =>
    obtain ⟨above, found⟩ := ih
    have last : blockTop (xs ++ [x]) = topStep (blockTop xs) x := List.foldl_concat ..
    have keeps (same : topStep (blockTop xs) x = blockTop xs) (zero : ∀ neg m e, x = .fin neg m e → m = 0) :
        (∀ neg m e, .fin neg m e ∈ xs ++ [x] → m ≠ 0 → ∃ k, blockTop (xs ++ [x]) = some k ∧ floorLog2 m e ≤ k) ∧
        (∀ k, blockTop (xs ++ [x]) = some k → ∃ neg m e, .fin neg m e ∈ xs ++ [x] ∧ m ≠ 0 ∧ floorLog2 m e = k) := by
      rw [last, same]
      refine ⟨fun neg m e h hm => ?_, fun k h => ?_⟩
      · rcases List.mem_append.1 h with h | h
        · exact above neg m e h hm
        · exact absurd (zero neg m e (List.mem_singleton.1 h).symm) hm
      · obtain ⟨neg, m, e, h, rest⟩ := found k h
        exact ⟨neg, m, e, List.mem_append_left _ h, rest⟩
    cases x with
    | nan | inf => exact keeps rfl (by simp)
    | fin neg m e =>
      by_cases hm : m = 0
      · subst hm
        exact keeps rfl fun _ _ _ h => by cases h; rfl
      · have step : topStep (blockTop xs) (.fin neg m e) = some ((blockTop xs).elim (floorLog2 m e) (fun k => max k (floorLog2 m e))) := by
          simp only [topStep, if_neg hm]
          cases blockTop xs with
          | none => rfl
          | some k =>
            dsimp only [Option.elim]
            split <;> congr 1 <;> omega
        rw [last, step]
        refine ⟨fun neg' m' e' h hm' => ⟨_, rfl, ?_⟩, fun k h => ?_⟩
        · rcases List.mem_append.1 h with h | h
          · obtain ⟨k, hk, le⟩ := above neg' m' e' h hm'
            rw [hk]
            exact le.trans (le_max_left _ _)
          · cases List.mem_singleton.1 h
            cases blockTop xs with
            | none => exact le_refl _
            | some k => exact le_max_right _ _
        · obtain rfl := Option.some.inj h
          have here : Value.fin neg m e ∈ xs ++ [.fin neg m e] := List.mem_append_right _ (List.mem_singleton_self _)
          cases hk : blockTop xs with
          | none => exact ⟨neg, m, e, here, hm, rfl⟩
          | some k =>
            rcases max_choice k (floorLog2 m e) with greater | greater
            · obtain ⟨neg', m', e', h', rest⟩ := found k hk
              exact ⟨neg', m', e', List.mem_append_left _ h', by rwa [Option.elim, greater]⟩
            · exact ⟨neg, m, e, here, hm, by rw [Option.elim, greater]⟩

theorem blockExp_some {c : Nat} {xs : List Value} {k : Int} (h : blockTop xs = some k) :
    blockExp c xs = max (-127) (min 127 (k - codeEmax c)) := by
  rw [blockExp, h]
  dsimp only
  split
  · omega
  · split <;> omega

theorem blockExp_range (c : Nat) (xs : List Value) : -127 ≤ blockExp c xs ∧ blockExp c xs ≤ 127 := by
  cases h : blockTop xs with
  | none => simp [blockExp, h]
  | some k => rw [blockExp_some h]; omega

/-- The scale of a block of zeros. -/
theorem blockExp_zero (c : Nat) {xs : List Value} (h : ∀ x ∈ xs, x.size = 0) : blockExp c xs = -127 := by
  cases top : blockTop xs with
  | none => simp [blockExp, top]
  | some k =>
    obtain ⟨neg, m, e, mem, hm, -⟩ := (blockTop_spec xs).2 k top
    exact absurd (h _ mem) (real_pos e hm).ne'

/-- The scale of a block by its largest number. -/
theorem blockExp_max (c : Nat) {xs : List Value} {x : Value} {t : Int} (hx : x ∈ xs) (most : ∀ y ∈ xs, y.size ≤ x.size)
    (lo : (2 : ℚ) ^ t ≤ x.size) (hi : x.size < 2 ^ (t + 1)) : blockExp c xs = max (-127) (min 127 (t - codeEmax c)) := by
  have positive : 0 < x.size := lt_of_lt_of_le (by positivity) lo
  obtain ⟨above, found⟩ := blockTop_spec xs
  cases x with
  | nan | inf => exact absurd positive (lt_irrefl _)
  | fin neg m e =>
    have hm : m ≠ 0 := by
      rintro rfl
      exact absurd (real_zero e) positive.ne'
    obtain ⟨k, top, le⟩ := above neg m e hx hm
    obtain ⟨neg', m', e', mem, hm', rfl⟩ := found k top
    have here := floorLog2_spec e hm
    have there := floorLog2_spec e' hm'
    have le_k : t ≤ floorLog2 m e := le_of_zpow_lt lo here.2
    have k_le : floorLog2 m' e' ≤ t := le_of_zpow_lt (there.1.trans (most _ mem)) hi
    rw [blockExp_some top, show floorLog2 m' e' = t by omega]

/-! ## The elements of a block -/

/-- A number rounded to an integer, and whether that changed it (R83). -/
theorem roundInt_spec {rm : Rm} (hrm : rm ≠ .dyn) (neg : Bool) (m : Nat) (e : Int) :
    RoundsToInt rm (real neg m e) (roundInt rm neg m e).1 ∧
    ((roundInt rm neg m e).2 = false ↔ ((roundInt rm neg m e).1 : ℚ) = real neg m e) := by
  obtain ⟨n, rounds, result⟩ := toIntRange_fin rm hrm (roundInt rm neg m e).1 (roundInt rm neg m e).1 neg m e
  have itself : toIntRange rm (roundInt rm neg m e).1 (roundInt rm neg m e).1 (.fin neg m e) =
      ((roundInt rm neg m e).1, if (roundInt rm neg m e).2 then 1 else 0) := by
    simp only [toIntRange, lt_irrefl, if_false, flNX]
  rw [itself] at result
  have same : n = (roundInt rm neg m e).1 := by
    rcases lt_trichotomy n (roundInt rm neg m e).1 with lt | eq | gt
    · rw [if_pos lt] at result
      have := (Prod.ext_iff.1 result).2
      dsimp only at this
      split at this <;> omega
    · exact eq
    · rw [if_neg (not_lt.2 gt.le), if_pos gt] at result
      have := (Prod.ext_iff.1 result).2
      dsimp only at this
      split at this <;> omega
  subst same
  refine ⟨rounds, ?_⟩
  rw [if_neg (lt_irrefl _), if_neg (lt_irrefl _)] at result
  have flag := (Prod.ext_iff.1 result).2
  dsimp only at flag
  cases h : (roundInt rm neg m e).2 <;> simp_all

theorem blockElem_float {c : Nat} {f : FFmt} (h : codeFloat c = some f) (rm : Rm) (X : Int) (x : Value) :
    blockElem c rm X x = f.round rm (x.scale (-X)) := by simp only [blockElem, h]

/-- An element of MXINT8 saturates (R121, R138). -/
theorem blockElem_mxint {rm : Rm} (hrm : rm ≠ .dyn) (X : Int) (neg : Bool) (n : Nat) (e : Int) :
    ∃ i, RoundsToInt rm (real neg n (e - (X - 6))) i ∧ blockElem 0x15 rm X (.fin neg n e) =
      ((BitVec.ofInt 8 (max (-128) (min 127 i))).toNat,
        if i < -128 ∨ 127 < i then 5 else if (i : ℚ) = real neg n (e - (X - 6)) then 0 else 1) := by
  obtain ⟨rounds, exact_⟩ := roundInt_spec hrm neg n (e - (X - 6))
  have elem_ : blockElem 0x15 rm X (.fin neg n e) =
      if (roundInt rm neg n (e - (X - 6))).1 < -128 then (128, 5) else if 127 < (roundInt rm neg n (e - (X - 6))).1 then (127, 5)
      else ((BitVec.ofInt 8 (roundInt rm neg n (e - (X - 6))).1).toNat, if (roundInt rm neg n (e - (X - 6))).2 then 1 else 0) := rfl
  refine ⟨_, rounds, ?_⟩
  simp only [elem_, ← exact_]
  generalize roundInt rm neg n (e - (X - 6)) = r
  obtain ⟨i, inexact⟩ := r
  dsimp only
  by_cases below : i < -128
  · rw [if_pos below, if_pos (.inl below), max_eq_left (by omega)]; rfl
  · by_cases above : 127 < i
    · rw [if_neg below, if_pos above, if_pos (.inr above), min_eq_left (by omega)]; rfl
    · rw [if_neg below, if_neg above, if_neg (not_or.2 ⟨below, above⟩), min_eq_right (by omega), max_eq_right (by omega)]
      cases inexact <;> rfl

theorem blockElem_lt {c : Nat} (lo : 0x10 ≤ c) (hi : c ≤ 0x15) (rm : Rm) (X : Int) {x : Value} (hx : x.fracFits) :
    (blockElem c rm X x).1 < 2 ^ codeBits c := by
  cases hf : codeFloat c with
  | some f =>
    obtain ⟨hmem, width⟩ := codeFloat_format hf
    obtain ⟨hmb, hmb', heb⟩ := format_bounds hmem
    rw [blockElem_float hf, ← width]
    exact FFmt.round_lt hmb hmb' heb rm (Value.scale_fracFits hx _)
  | none =>
    obtain rfl : c = 0x15 := by
      interval_cases c <;> first | rfl | exact absurd hf (by decide)
    cases x with
    | nan | inf => exact Nat.two_pow_pos _
    | fin neg m e =>
      simp only [blockElem, codeFloat]
      split
      · decide
      · split
        · decide
        · exact BitVec.isLt _

end Sys2Proof.Machine
end

section
/-! O25. What VCVT converts (R119 to R121). -/
namespace Sys2Proof.Machine

/-- Field k of a register that is packed in fields of b bits. -/
def packedField (b : Nat) (y : VWord) (k : Nat) : Nat := y.toNat / 2 ^ (b * k) % 2 ^ b

/-- Byte k of a register from a byte offset. -/
def byteFrom (first : Nat) (y : VWord) (k : Nat) : Nat := y.toNat / 2 ^ (8 * (first + k)) % 256

section
variable {c : Nat} {g : FFmt} {rm : Rm} {x : VWord} {k : Nat}

/-! ## How many elements -/

theorem cvtCount_fits (c : Nat) (g : FFmt) : codeBits c * cvtCount c g ≤ 2048 :=
  (Nat.mul_le_mul_left _ (Nat.min_le_right ..)).trans (Nat.mul_div_le ..)

theorem elements_below_scales (c m : Nat) : codeBits c * m ≤ 8 * scaleAt c m := by
  rw [scaleAt, packBits, Nat.mul_comm]
  omega

/-- A block-scaled register is whole blocks, and their scales lie in it. -/
theorem cvtCount_blocks (lo : 0x10 ≤ c) (hi : c ≤ 0x15) (hg : g ∈ [bf16, fp16, fp32, fp64]) :
    32 * (cvtCount c g / 32) = cvtCount c g ∧ 8 * scaleAt c (cvtCount c g) + 8 * (cvtCount c g / 32) ≤ 2048 := by
  simp only [List.mem_cons, List.not_mem_nil, or_false] at hg
  interval_cases c <;> rcases hg with rfl | rfl | rfl | rfl <;> decide

/-! ## Direction 0 (R120) -/

/-- What element k of the packed register stands for. -/
def cvtValue (c : Nat) (g : FFmt) (cbt : Nat) (x : VWord) (k : Nat) : Value :=
  if c = 0x16 then
    withScale (byteFrom (scaleAt c (cvtCount c g)) x (k / 32))
      ((numOfInt ((decodeCB2 cbt (x.toNat / 2 ^ (16 * (k / 8)) % 2 ^ 16)).getD (k % 8) 0)).scale (-1))
  else if codeScaled c then
    withScale (byteFrom (scaleAt c (cvtCount c g)) x (k / 32)) (decodeElem c (packedField (codeBits c) x k))
  else decodeElem c (packedField (codeBits c) x k)

theorem cvtIn_length (c : Nat) (g : FFmt) (rm : Rm) (cbt : Nat) (x : VWord) : (cvtIn c g rm cbt x).length = cvtCount c g := by
  simp [cvtIn, unpack]

theorem cvtIn_getElem (hk : k < cvtCount c g) (cbt : Nat) :
    (cvtIn c g rm cbt x)[k]? = some (g.round rm (cvtValue c g cbt x k)) := by
  have byte (j : Nat) : (elem 8 x (scaleAt c (cvtCount c g) + j)).toNat = byteFrom (scaleAt c (cvtCount c g)) x j := by
    rw [elem, BitVec.extractLsb'_toNat, Nat.shiftRight_eq_div_pow, byteFrom, Nat.mul_comm]
  rw [cvtIn, unpack, List.getElem?_map, List.getElem?_map, List.getElem?_range hk]
  simp only [Option.map_some, byte, Nat.mul_comm k]
  rfl

theorem cvtValue_plain (h : c < 0x10 ∨ 0x16 < c) (cbt : Nat) : cvtValue c g cbt x k = decodeElem c (packedField (codeBits c) x k) := by
  have plain : ¬ codeScaled c = true := by rw [codeScaled_iff]; omega
  rw [cvtValue, if_neg (by omega), if_neg plain]

theorem cvtValue_scaled (lo : 0x10 ≤ c) (hi : c ≤ 0x15) (cbt : Nat) : cvtValue c g cbt x k =
    withScale (byteFrom (scaleAt c (cvtCount c g)) x (k / 32)) (decodeElem c (packedField (codeBits c) x k)) := by
  rw [cvtValue, if_neg (by omega), if_pos ((codeScaled_iff c).2 (by omega))]

/-- The element of INT-TERN without a meaning is a signalling NaN. -/
theorem round_ternNan (hg : g ∈ [bf16, fp16, fp32, fp64]) (rm : Rm) :
    g.round rm (.nan false true 0) = (g.maxBits + 1 + 2 ^ (g.mb - 1), 16) := by
  simp only [List.mem_cons, List.not_mem_nil, or_false] at hg
  rcases hg with rfl | rfl | rfl | rfl <;> rfl

/-! ## Direction 1 (R121) -/

/-- The value that element k of the register is converted from. -/
def cvtLane (g : FFmt) (x : VWord) (k : Nat) : Value := g.decode (elem g.width x k).toNat

/-- The values of block j. -/
def cvtBlock (g : FFmt) (x : VWord) (j : Nat) : List Value := (List.range 32).map (fun i => cvtLane g x (32 * j + i))

theorem ofNat_packNat {b : Nat} {l : List Nat} (h : b * l.length ≤ 2048) : (BitVec.ofNat 2048 (packNat b l)).toNat = packNat b l := by
  rw [BitVec.toNat_ofNat, Nat.mod_eq_of_lt ((packNat_lt b l).trans_le (Nat.pow_le_pow_right (by decide) h))]

theorem cvtLane_fracFits (hg : g ∈ [bf16, fp16, fp32, fp64]) (x : VWord) (k : Nat) : (cvtLane g x k).fracFits := by
  have all : g ∈ [fp4, fp6a, fp6b, fp8a, fp8b, fp16, bf16, fp32, fp64] := by
    simp only [List.mem_cons, List.not_mem_nil, or_false] at hg
    rcases hg with rfl | rfl | rfl | rfl <;> decide
  exact FFmt.decode_fracFits (format_bounds all).2.1 _

/-- A register of a format without scales: its elements and their flags, and zeros above. -/
theorem cvtOut_plain (hc : c < 0x1C) (plain : c < 0x10 ∨ 0x16 < c) (hg : g ∈ [bf16, fp16, fp32, fp64]) (rm : Rm) (x : VWord) :
    (cvtOut c g rm x).2.length = cvtCount c g ∧ (cvtOut c g rm x).1.toNat < 2 ^ (8 * scaleAt c (cvtCount c g)) ∧
    ∀ k, k < cvtCount c g → packedField (codeBits c) (cvtOut c g rm x).1 k = (encodeElem c rm (cvtLane g x k)).1 ∧
      (cvtOut c g rm x).2[k]? = some (encodeElem c rm (cvtLane g x k)).2 := by
  have unscaled : ¬ codeScaled c = true := by rw [codeScaled_iff]; omega
  have parts : cvtOut c g rm x =
      (BitVec.ofNat 2048 (packNat (codeBits c) ((List.range (cvtCount c g)).map (fun k => (encodeElem c rm (cvtLane g x k)).1))),
        (List.range (cvtCount c g)).map (fun k => (encodeElem c rm (cvtLane g x k)).2)) := by
    simp only [cvtOut, if_neg unscaled, List.map_map]
    rfl
  have length : codeBits c * ((List.range (cvtCount c g)).map (fun k => (encodeElem c rm (cvtLane g x k)).1)).length ≤ 2048 := by
    simpa using cvtCount_fits c g
  rw [parts]
  dsimp only
  refine ⟨by simp, ?_, fun k hk => ⟨?_, by simp [hk]⟩⟩
  · rw [ofNat_packNat length]
    refine (packNat_lt _ _).trans_le (Nat.pow_le_pow_right (by decide) ?_)
    simpa using elements_below_scales c (cvtCount c g)
  · rw [packedField, ofNat_packNat length]
    exact packNat_getElem (by simp [hk]) (encodeElem_lt hc (cvtLane_fracFits hg x k))

theorem flatten_blocks {n : Nat} (f : Nat → List Nat) (h : ∀ j, (f j).length = 32) :
    ((List.range n).map f).flatten.length = 32 * n ∧
    ∀ k, k < 32 * n → ((List.range n).map f).flatten[k]? = (f (k / 32))[k % 32]? := by
  induction n with
  | zero => simp
  | succ n ih =>
    obtain ⟨length, get⟩ := ih
    rw [List.range_succ, List.map_append, List.flatten_append, List.map_singleton, List.flatten_singleton]
    refine ⟨by rw [List.length_append, length, h]; omega, fun k hk => ?_⟩
    by_cases below : k < 32 * n
    · rw [List.getElem?_append_left (by omega), get k below]
    · rw [List.getElem?_append_right (by omega), length, show k / 32 = n by omega, show k % 32 = k - 32 * n by omega]

theorem take_drop_block {n j : Nat} (v : Nat → Value) (h : 32 * j + 32 ≤ n) :
    (((List.range n).map v).drop (32 * j)).take 32 = (List.range 32).map (fun i => v (32 * j + i)) := by
  apply List.ext_getElem
  · simp; omega
  · intro i _ _
    simp

theorem encodeBlock_lost {xs : List Value} (h : ∃ v ∈ xs, v.finite = false) : encodeBlock c rm xs =
    (xs.map (fun _ => 0), 255, xs.map (fun v => if v.finite then 0 else 16)) := by
  rw [encodeBlock_eq, if_pos (by simpa using h)]
  rfl

theorem encodeBlock_kept {xs : List Value} (h : ∀ v ∈ xs, v.finite = true) : encodeBlock c rm xs =
    (xs.map (fun v => (blockElem c rm (blockExp c xs) v).1), (blockExp c xs + 127).toNat,
      xs.map (fun v => (blockElem c rm (blockExp c xs) v).2)) := by
  rw [encodeBlock_eq, if_neg (by simpa using h)]

theorem encodeBlock_length (c : Nat) (rm : Rm) (xs : List Value) :
    (encodeBlock c rm xs).1.length = xs.length ∧ (encodeBlock c rm xs).2.2.length = xs.length := by
  rw [encodeBlock_eq]
  split <;> simp

/-- The elements and the scale of a block fit their fields. -/
theorem encodeBlock_fits (lo : 0x10 ≤ c) (hi : c ≤ 0x15) (rm : Rm) {xs : List Value} (h : ∀ v ∈ xs, v.fracFits) :
    (∀ e ∈ (encodeBlock c rm xs).1, e < 2 ^ codeBits c) ∧ (encodeBlock c rm xs).2.1 < 2 ^ 8 := by
  rw [encodeBlock_eq]
  split
  · exact ⟨by simp, show 255 < 2 ^ 8 by decide⟩
  · have range := blockExp_range c xs
    refine ⟨fun e he => ?_, by dsimp only; omega⟩
    obtain ⟨v, hv, rfl⟩ := List.mem_map.1 he
    exact blockElem_lt lo hi rm _ (h v hv)

/-- The conversion of block j. -/
def cvtCode (c : Nat) (g : FFmt) (rm : Rm) (x : VWord) (j : Nat) : List Nat × Nat × List Nat := encodeBlock c rm (cvtBlock g x j)

/-- The elements of all blocks, their scales, and their flags. -/
def cvtElems (c : Nat) (g : FFmt) (rm : Rm) (x : VWord) : List Nat :=
  ((List.range (cvtCount c g / 32)).map (fun j => (cvtCode c g rm x j).1)).flatten

def cvtScales (c : Nat) (g : FFmt) (rm : Rm) (x : VWord) : List Nat :=
  (List.range (cvtCount c g / 32)).map (fun j => (cvtCode c g rm x j).2.1)

def cvtFlags (c : Nat) (g : FFmt) (rm : Rm) (x : VWord) : List Nat :=
  ((List.range (cvtCount c g / 32)).map (fun j => (cvtCode c g rm x j).2.2)).flatten

theorem cvtOut_blocks (lo : 0x10 ≤ c) (hi : c ≤ 0x15) (rm : Rm) (x : VWord) : cvtOut c g rm x =
    (BitVec.ofNat 2048 (packNat (codeBits c) (cvtElems c g rm x) +
      packNat 8 (cvtScales c g rm x) * 2 ^ (8 * scaleAt c (cvtCount c g))), cvtFlags c g rm x) := by
  have blocks : (List.range (cvtCount c g / 32)).map (fun j => encodeBlock c rm
      ((((List.range (cvtCount c g)).map (fun i => g.decode (elem g.width x i).toNat)).drop (32 * j)).take 32)) =
      (List.range (cvtCount c g / 32)).map (cvtCode c g rm x) := by
    refine List.map_congr_left fun j hj => ?_
    have := List.mem_range.1 hj
    exact congrArg (encodeBlock c rm) (take_drop_block (cvtLane g x) (by omega))
  rw [cvtOut]
  dsimp only
  rw [if_pos ((codeScaled_iff c).2 (by omega)), blocks, List.map_map, List.map_map, List.map_map]
  rfl

theorem cvtCode_length (c : Nat) (g : FFmt) (rm : Rm) (x : VWord) (j : Nat) :
    (cvtCode c g rm x j).1.length = 32 ∧ (cvtCode c g rm x j).2.2.length = 32 := by
  obtain ⟨elems, flags⟩ := encodeBlock_length c rm (cvtBlock g x j)
  have length : (cvtBlock g x j).length = 32 := by simp [cvtBlock]
  exact ⟨elems.trans length, flags.trans length⟩

theorem cvtCode_fits (lo : 0x10 ≤ c) (hi : c ≤ 0x15) (hg : g ∈ [bf16, fp16, fp32, fp64]) (rm : Rm) (x : VWord) (j : Nat) :
    (∀ e ∈ (cvtCode c g rm x j).1, e < 2 ^ codeBits c) ∧ (cvtCode c g rm x j).2.1 < 2 ^ 8 := by
  refine encodeBlock_fits lo hi rm fun v hv => ?_
  obtain ⟨i, -, rfl⟩ := List.mem_map.1 hv
  exact cvtLane_fracFits hg x _

theorem cvtElems_lt (lo : 0x10 ≤ c) (hi : c ≤ 0x15) (hg : g ∈ [bf16, fp16, fp32, fp64]) (rm : Rm) (x : VWord) :
    packNat (codeBits c) (cvtElems c g rm x) < 2 ^ (8 * scaleAt c (cvtCount c g)) := by
  refine (packNat_lt _ _).trans_le (Nat.pow_le_pow_right (by decide) ?_)
  rw [cvtElems, (flatten_blocks _ fun j => (cvtCode_length c g rm x j).1).1, (cvtCount_blocks lo hi hg).1]
  exact elements_below_scales c _

theorem cvtScales_lt (c : Nat) (g : FFmt) (rm : Rm) (x : VWord) : packNat 8 (cvtScales c g rm x) < 2 ^ (cvtCount c g / 32 * 8) := by
  have fits := packNat_lt 8 (cvtScales c g rm x)
  have length : (cvtScales c g rm x).length = cvtCount c g / 32 := by simp [cvtScales]
  rwa [length, Nat.mul_comm 8] at fits

/-- The scales begin behind the elements, and fit the register. -/
theorem cvtOut_toNat (lo : 0x10 ≤ c) (hi : c ≤ 0x15) (hg : g ∈ [bf16, fp16, fp32, fp64]) (rm : Rm) (x : VWord) :
    (cvtOut c g rm x).1.toNat = packNat (codeBits c) (cvtElems c g rm x) +
      packNat 8 (cvtScales c g rm x) * 2 ^ (8 * scaleAt c (cvtCount c g)) ∧
    (cvtOut c g rm x).1.toNat < 2 ^ (8 * scaleAt c (cvtCount c g) + cvtCount c g / 32 * 8) := by
  have elems := cvtElems_lt lo hi hg rm x
  have scales := cvtScales_lt c g rm x
  have room := (cvtCount_blocks lo hi hg).2
  rw [cvtOut_blocks lo hi]
  dsimp only
  generalize packNat (codeBits c) (cvtElems c g rm x) = e at *
  generalize packNat 8 (cvtScales c g rm x) = s at *
  generalize 8 * scaleAt c (cvtCount c g) = n at *
  have fits : e + s * 2 ^ n < 2 ^ (n + cvtCount c g / 32 * 8) := by
    calc e + s * 2 ^ n < (s + 1) * 2 ^ n := by rw [Nat.add_mul, one_mul, Nat.add_comm]; exact Nat.add_lt_add_left elems _
      _ ≤ 2 ^ (cvtCount c g / 32 * 8) * 2 ^ n := Nat.mul_le_mul_right _ scales
      _ = 2 ^ (n + cvtCount c g / 32 * 8) := by rw [Nat.mul_comm, Nat.pow_add]
  have inside : n + cvtCount c g / 32 * 8 ≤ 2048 := by omega
  have value : (BitVec.ofNat 2048 (e + s * 2 ^ n)).toNat = e + s * 2 ^ n := by
    rw [BitVec.toNat_ofNat, Nat.mod_eq_of_lt (fits.trans_le (Nat.pow_le_pow_right (by decide) inside))]
  exact ⟨value, by rwa [value]⟩

/-- A register of a format with scales: the elements and flags of its blocks, the scale of each block behind them, and zeros above. -/
theorem cvtOut_scaled (lo : 0x10 ≤ c) (hi : c ≤ 0x15) (hg : g ∈ [bf16, fp16, fp32, fp64]) (rm : Rm) (x : VWord)
    (hk : k < cvtCount c g) :
    (cvtCode c g rm x (k / 32)).1[k % 32]? = some (packedField (codeBits c) (cvtOut c g rm x).1 k) ∧
    (cvtOut c g rm x).2[k]? = (cvtCode c g rm x (k / 32)).2.2[k % 32]? ∧
    byteFrom (scaleAt c (cvtCount c g)) (cvtOut c g rm x).1 (k / 32) = (cvtCode c g rm x (k / 32)).2.1 := by
  have whole := (cvtCount_blocks lo hi hg).1
  have below := elements_below_scales c (cvtCount c g)
  obtain ⟨value, -⟩ := cvtOut_toNat lo hi hg rm x
  obtain ⟨elems_fit, scale_fits⟩ := cvtCode_fits lo hi hg rm x (k / 32)
  refine ⟨?_, ?_, ?_⟩
  · have inside : k % 32 < (cvtCode c g rm x (k / 32)).1.length := by rw [(cvtCode_length ..).1]; omega
    have top : codeBits c * k + codeBits c ≤ 8 * scaleAt c (cvtCount c g) :=
      (Nat.mul_le_mul_left (codeBits c) (show k + 1 ≤ cvtCount c g from hk)).trans below
    have elem_at : (cvtElems c g rm x)[k]? = some (cvtCode c g rm x (k / 32)).1[k % 32] := by
      rw [cvtElems, (flatten_blocks _ fun j => (cvtCode_length c g rm x j).1).2 k (by omega), List.getElem?_eq_getElem inside]
    rw [packedField, value, field_below _ _ top, packNat_getElem elem_at (elems_fit _ (List.getElem_mem inside)),
      List.getElem?_eq_getElem inside]
  · rw [cvtOut_blocks lo hi]
    exact (flatten_blocks _ fun j => (cvtCode_length c g rm x j).2).2 k (by omega)
  · have scale_at : (cvtScales c g rm x)[k / 32]? = some (cvtCode c g rm x (k / 32)).2.1 := by
      rw [cvtScales, List.getElem?_map, List.getElem?_range (by omega), Option.map_some]
    rw [byteFrom, value, Nat.mul_add]
    exact (field_above _ _ 8 (cvtElems_lt lo hi hg rm x)).trans (packNat_getElem scale_at scale_fits)

end

end Sys2Proof.Machine
end

section
namespace Sys2Proof.Machine

section
variable {c : Nat} {g : FFmt} {rm : Rm} {x : VWord} {k : Nat}

theorem cvtBlock_getElem (g : FFmt) (x : VWord) (k : Nat) : (cvtBlock g x (k / 32))[k % 32]? = some (cvtLane g x k) := by
  rw [cvtBlock, List.getElem?_map, List.getElem?_range (by omega), Option.map_some, Nat.div_add_mod]

/-- A block that has a NaN or an infinity is lost whole (R121). -/
theorem cvtOut_lost (lo : 0x10 ≤ c) (hi : c ≤ 0x15) (hg : g ∈ [bf16, fp16, fp32, fp64]) (rm : Rm) (hk : k < cvtCount c g)
    (h : ∃ v ∈ cvtBlock g x (k / 32), v.finite = false) :
    byteFrom (scaleAt c (cvtCount c g)) (cvtOut c g rm x).1 (k / 32) = 255 ∧
    packedField (codeBits c) (cvtOut c g rm x).1 k = 0 ∧
    (cvtOut c g rm x).2[k]? = some (if (cvtLane g x k).finite then 0 else 16) := by
  obtain ⟨elem_, flag, scale⟩ := cvtOut_scaled lo hi hg rm x hk
  rw [cvtCode, encodeBlock_lost h] at elem_ flag scale
  dsimp only at elem_ flag scale
  rw [List.getElem?_map, cvtBlock_getElem] at elem_ flag
  exact ⟨scale, (Option.some.inj elem_).symm, flag⟩

/-- A block of numbers has the scale of its largest, and each element is rounded in that scale (R121). -/
theorem cvtOut_kept (lo : 0x10 ≤ c) (hi : c ≤ 0x15) (hg : g ∈ [bf16, fp16, fp32, fp64]) (rm : Rm) (hk : k < cvtCount c g)
    (h : ∀ v ∈ cvtBlock g x (k / 32), v.finite = true) :
    let X := blockExp c (cvtBlock g x (k / 32))
    byteFrom (scaleAt c (cvtCount c g)) (cvtOut c g rm x).1 (k / 32) = (X + 127).toNat ∧
    packedField (codeBits c) (cvtOut c g rm x).1 k = (blockElem c rm X (cvtLane g x k)).1 ∧
    (cvtOut c g rm x).2[k]? = some (blockElem c rm X (cvtLane g x k)).2 := by
  obtain ⟨elem_, flag, scale⟩ := cvtOut_scaled lo hi hg rm x hk
  rw [cvtCode, encodeBlock_kept h] at elem_ flag scale
  dsimp only at elem_ flag scale
  rw [List.getElem?_map, cvtBlock_getElem] at elem_ flag
  exact ⟨scale, (Option.some.inj elem_).symm, flag⟩

theorem codeEmax_eq (lo : 0x10 ≤ c) (hi : c ≤ 0x15) : codeEmax c = [8, 15, 2, 4, 2, 0].getD (c - 0x10) 0 := by
  interval_cases c <;> rfl

end

/-- Settles O25: each format's element by its table, and each block by its scale. -/
theorem conversionValues : Obligations.ConversionValues := by
  intro c g rm cbt x hc hg hrm
  have mem_block (k i : Nat) (hi : i < 32) : cvtLane g x (k / 32 * 32 + i) ∈ cvtBlock g x (k / 32) :=
    List.mem_map.2 ⟨i, List.mem_range.2 hi, by rw [Nat.mul_comm 32]⟩
  have of_block (k : Nat) (v : Value) (hv : v ∈ cvtBlock g x (k / 32)) : ∃ i, i < 32 ∧ v = cvtLane g x (k / 32 * 32 + i) := by
    obtain ⟨i, hi, rfl⟩ := List.mem_map.1 hv
    exact ⟨i, List.mem_range.1 hi, by rw [Nat.mul_comm 32]⟩
  refine ⟨by decide, by decide, ⟨cvtIn_length c g rm cbt x, fun k hk => ?_⟩, fun hcb => ?_⟩
  · have lane := cvtIn_getElem (rm := rm) (x := x) hk cbt
    have raw_lt : packedField (codeBits c) x k < 2 ^ codeBits c := Nat.mod_lt _ (Nat.two_pow_pos _)
    refine ⟨fun f hf plain => ?_, fun f hf lo hi => ?_, ?_, ?_, fun h => ?_, fun h => ?_, ?_, ?_, ?_⟩
    · rw [lane, cvtValue_plain plain, decodeElem_float hf]; rfl
    · rw [lane, cvtValue_scaled lo (by omega), decodeElem_float hf]; rfl
    · rintro rfl
      rw [lane, cvtValue_scaled (by decide) (by decide), decodeElem_mxint]; rfl
    · rintro rfl
      rw [lane, cvtValue_plain (by decide), decodeElem_int1 raw_lt]; rfl
    · rw [lane, cvtValue_plain (by revert h; simp; omega), decodeElem_unsigned h raw_lt]; rfl
    · rw [lane, cvtValue_plain (by revert h; simp; omega), decodeElem_signed h]; rfl
    · rintro rfl hraw
      rw [lane, cvtValue_plain (by decide), decodeElem_tern raw_lt,
        if_neg (show packedField (codeBits 3) x k ≠ 2 from hraw)]; rfl
    · rintro rfl hraw
      rw [lane, cvtValue_plain (by decide), decodeElem_tern raw_lt,
        if_pos (show packedField (codeBits 3) x k = 2 from hraw), round_ternNan hg]
    · rintro rfl
      rw [lane, cvtValue, if_pos rfl, decodeCB2_getD cbt (Nat.mod_lt _ (by decide)) (Nat.mod_lt _ (by decide))]; rfl
  · by_cases plain : c < 0x10 ∨ 0x16 < c
    · obtain ⟨length, fits, gives⟩ := cvtOut_plain hc plain hg rm x
      refine ⟨length, ?_, fun k hk => ?_⟩
      · rw [if_neg (by omega)]; exact fits
      · obtain ⟨bits, flag⟩ := gives k hk
        have range {lo hi : Int} (hf : codeFloat c = none) (h0 : c ≠ 0x00) (hr : codeRange c = (lo, hi)) :
            packedField (codeBits c) (cvtOut c g rm x).1 k =
              (BitVec.ofInt (codeBits c) (toIntRange rm lo hi (cvtLane g x k)).1).toNat ∧
            (cvtOut c g rm x).2[k]? = some (toIntRange rm lo hi (cvtLane g x k)).2 := by
          rw [encodeElem_range hf h0, hr] at bits flag
          exact ⟨bits, flag⟩
        refine ⟨fun f hf _ => ?_, ?_, ⟨fun h => ?_, fun h => ?_, ?_⟩, fun _ _ => by omega⟩
        · rw [encodeElem_float hf] at bits flag
          exact ⟨bits, flag⟩
        · rintro rfl
          refine ⟨fun neg sig frac h => ?_, fun neg h => ?_, fun neg n e h => ?_⟩
          all_goals rw [show cvtLane g x k = _ from h] at bits flag
          · exact ⟨bits, flag⟩
          · exact ⟨bits, flag⟩
          · rw [encodeElem_int1_fin] at bits flag
            exact ⟨bits, flag⟩
        · obtain ⟨hf, h0, hr⟩ := codeRange_unsigned h
          exact range hf h0 hr
        · obtain ⟨hf, h0, hr⟩ := codeRange_signed h
          exact range hf h0 hr
        · rintro rfl
          exact range rfl (by decide) rfl
    · have lo : 0x10 ≤ c := by omega
      have hi : c ≤ 0x15 := by omega
      refine ⟨?_, ?_, fun k hk => ⟨fun _ _ _ => by omega, fun _ => by omega, ⟨?_, ?_, fun _ => by omega⟩, fun _ _ => ⟨?_, ?_⟩⟩⟩
      · rw [cvtOut_blocks lo hi]
        dsimp only
        rw [cvtFlags, (flatten_blocks _ fun j => (cvtCode_length c g rm x j).2).1]
        exact (cvtCount_blocks lo hi hg).1
      · rw [if_pos ⟨lo, hi⟩]
        exact (cvtOut_toNat lo hi hg rm x).2
      · intro h
        simp at h
        omega
      · intro h
        simp at h
        omega
      · rintro ⟨i, hi32, notFinite⟩
        have lost : (cvtLane g x (k / 32 * 32 + i)).finite = false := notFinite
        obtain ⟨scale, bits, flag⟩ := cvtOut_lost lo hi hg rm hk ⟨_, mem_block k i hi32, lost⟩
        exact ⟨scale, bits, flag⟩
      · intro finite
        have kept : ∀ v ∈ cvtBlock g x (k / 32), v.finite = true := by
          intro v hv
          obtain ⟨i, hi32, rfl⟩ := of_block k v hv
          exact finite i hi32
        obtain ⟨scale, bits, flag⟩ := cvtOut_kept lo hi hg rm hk kept
        have range := blockExp_range c (cvtBlock g x (k / 32))
        refine ⟨blockExp c (cvtBlock g x (k / 32)), ?_, fun zeros => ?_, fun i t hi32 most low high => ?_, fun f hf => ?_, ?_⟩
        · refine (congrArg Int.ofNat scale).trans ?_
          exact Int.toNat_of_nonneg (by omega)
        · refine blockExp_zero c fun v hv => ?_
          obtain ⟨i, hi32, rfl⟩ := of_block k v hv
          exact zeros i hi32
        · rw [← codeEmax_eq lo hi]
          refine blockExp_max c (mem_block k i hi32) (fun v hv => ?_) low high
          obtain ⟨j, hj, rfl⟩ := of_block k v hv
          exact most j hj
        · rw [blockElem_float hf] at bits flag
          exact ⟨bits, flag⟩
        · rintro rfl neg n e h
          rw [show cvtLane g x k = _ from h] at bits flag
          obtain ⟨i, rounds, result⟩ := blockElem_mxint hrm (blockExp 0x15 (cvtBlock g x (k / 32))) neg n e
          rw [result] at bits flag
          exact ⟨i, rounds, bits, flag⟩

end Sys2Proof.Machine
end

section
/-! SUPPORT. Round of R135 is monotone: what two ends of an enclosure round to alike, all between them rounds to. -/
namespace Sys2Proof.Machine

/-! ## The numbers of a format in their order -/

theorem FFmt.magnitude_strictMono (f : FFmt) : StrictMono f.magnitude := by
  refine strictMono_nat_of_lt_succ fun k => ?_
  have power := Nat.two_pow_pos f.mb
  obtain ⟨E, q, row, low, split_⟩ : ∃ E q, (E = 0 ∨ 2 ^ f.mb ≤ q) ∧ q < 2 ^ (f.mb + 1) ∧ k = E * 2 ^ f.mb + q := by
    rw [pow_succ]
    by_cases small : k < 2 ^ f.mb
    · exact ⟨0, k, .inl rfl, by omega, by simp⟩
    · have rest := Nat.mod_lt k power
      have whole := Nat.div_add_mod k (2 ^ f.mb)
      have one_le : 1 ≤ k / 2 ^ f.mb := (Nat.one_le_div_iff power).2 (by omega)
      refine ⟨k / 2 ^ f.mb - 1, 2 ^ f.mb + k % 2 ^ f.mb, .inr (by omega), by omega, ?_⟩
      rw [Nat.sub_mul, Nat.mul_comm]
      have := Nat.mul_le_mul_left (2 ^ f.mb) one_le
      omega
  rw [split_, Nat.add_assoc, f.magnitude_row row low.le, f.magnitude_row (by omega) (by omega)]
  have order := (real_lt_real (k := q) (m := q + 1) ((E : Int) + 1 - f.bias - f.mb)).2 (by omega)
  exact_mod_cast order

section
variable {f : FFmt} {rm : Rm} {neg : Bool} {x y z : ℝ} {a r : Nat × Nat}

/-- What goes up takes all above it along. -/
theorem goesUp_mono {odd : Bool} {lo hi : ℚ} (xy : x ≤ y) (h : goesUp rm neg odd lo hi x) : goesUp rm neg odd lo hi y := by
  cases rm with
  | rne =>
    rcases h with above | ⟨middle, last⟩
    · exact .inl (above.trans_le xy)
    · rcases xy.lt_or_eq with lt | rfl
      · exact .inl (middle ▸ lt)
      · exact .inr ⟨middle, last⟩
  | rma => exact le_trans h xy
  | rtz | dyn => exact h
  | rdn | rup => exact h

/-- What is tiny takes all below it along. -/
theorem FFmt.tiny_mono (xy : x ≤ y) (h : f.tiny rm neg y) : f.tiny rm neg x :=
  ⟨xy.trans_lt h.1, fun up => h.2 ⟨up.1.trans_le xy, goesUp_mono xy up.2⟩⟩

/-! ## Round taken apart -/

/-- The number k below y, and the number q that y is rounded to. -/
structure FFmt.Cell (f : FFmt) (rm : Rm) (neg : Bool) (y : ℝ) (k q : Nat) : Prop where
  le : (f.magnitude k : ℝ) ≤ y
  lt : y < (f.magnitude (k + 1) : ℝ)
  same : y = (f.magnitude k : ℝ) → q = k
  up : (f.magnitude k : ℝ) < y → goesUp rm neg (k % 2 == 1) (f.magnitude k) (f.magnitude (k + 1)) y → q = k + 1
  down : (f.magnitude k : ℝ) < y → ¬ goesUp rm neg (k % 2 == 1) (f.magnitude k) (f.magnitude (k + 1)) y → q = k

/-- The flags of a number with k below it that is rounded to a finite one. -/
def FFmt.Flags (f : FFmt) (rm : Rm) (neg : Bool) (y : ℝ) (k fl : Nat) : Prop :=
  (y = (f.magnitude k : ℝ) → fl = 0) ∧
  ((f.magnitude k : ℝ) < y → (f.tiny rm neg y → fl = 3) ∧ (¬ f.tiny rm neg y → fl = 1))

theorem FFmt.rounds_iff : f.Rounds rm neg y r ↔ ∃ k q, f.Cell rm neg y k q ∧
    (q ≤ f.maxBits → r.1 = f.signed neg q ∧ f.Flags rm neg y k r.2) ∧
    (f.maxBits < q → r.1 = f.signed neg (f.beyond rm neg) ∧ r.2 = 5) := by
  constructor
  · rintro ⟨k, q, le, lt, same, other, finite, above⟩
    exact ⟨k, q, ⟨le, lt, same, fun h => (other h).1, fun h => (other h).2⟩, finite, above⟩
  · rintro ⟨k, q, ⟨le, lt, same, up, down⟩, finite, above⟩
    exact ⟨k, q, le, lt, same, fun h => ⟨up h, down h⟩, finite, above⟩

section
variable {k q k' q' : Nat}

theorem FFmt.Cell.eq_or (h : f.Cell rm neg y k q) : q = k ∨ q = k + 1 := by
  rcases h.le.eq_or_lt with same | lt
  · exact .inl (h.same same.symm)
  · by_cases up : goesUp rm neg (k % 2 == 1) (f.magnitude k) (f.magnitude (k + 1)) y
    · exact .inr (h.up lt up)
    · exact .inl (h.down lt up)

theorem FFmt.Cell.below_mono (hx : f.Cell rm neg x k q) (hy : f.Cell rm neg y k' q') (xy : x ≤ y) : k ≤ k' := by
  have lt : (f.magnitude k : ℝ) < (f.magnitude (k' + 1) : ℝ) := hx.le.trans_lt (xy.trans_lt hy.lt)
  have := f.magnitude_strictMono.lt_iff_lt.1 (Rat.cast_lt.1 lt)
  omega

/-- Rounding keeps the order. -/
theorem FFmt.Cell.mono (hx : f.Cell rm neg x k q) (hy : f.Cell rm neg y k' q') (xy : x ≤ y) : q ≤ q' := by
  have below := hx.below_mono hy xy
  have qx := hx.eq_or
  have qy := hy.eq_or
  by_cases cell : k = k'
  · subst cell
    rcases hx.le.eq_or_lt with same | lt
    · have := hx.same same.symm
      omega
    · by_cases up : goesUp rm neg (k % 2 == 1) (f.magnitude k) (f.magnitude (k + 1)) x
      · rw [hx.up lt up, hy.up (lt.trans_le xy) (goesUp_mono xy up)]
      · rw [hx.down lt up]
        omega
  · omega

theorem FFmt.Flags.cases {fl : Nat} (h : f.Flags rm neg y k fl) (le : (f.magnitude k : ℝ) ≤ y) :
    (y = (f.magnitude k : ℝ) ∧ fl = 0) ∨ ((f.magnitude k : ℝ) < y ∧ f.tiny rm neg y ∧ fl = 3) ∨
    ((f.magnitude k : ℝ) < y ∧ ¬ f.tiny rm neg y ∧ fl = 1) := by
  obtain ⟨exact_, inexact⟩ := h
  rcases le.eq_or_lt with same | lt
  · exact .inl ⟨same.symm, exact_ same.symm⟩
  · by_cases tiny : f.tiny rm neg y
    · exact .inr (.inl ⟨lt, tiny, (inexact lt).1 tiny⟩)
    · exact .inr (.inr ⟨lt, tiny, (inexact lt).2 tiny⟩)

end

theorem FFmt.signed_inj {a b : Nat} (h : f.signed neg a = f.signed neg b) : a = b := by
  rw [f.signed_eq, f.signed_eq] at h
  omega

/-- A number between two that are rounded alike is rounded as they are, if it is none of the format's. -/
theorem FFmt.Rounds.between (hx : f.Rounds rm neg x a) (hz : f.Rounds rm neg z a) (hy : f.Rounds rm neg y r) (xy : x < y) (yz : y < z)
    (never : ∀ k, y ≠ (f.magnitude k : ℝ)) : r = a := by
  obtain ⟨kx, qx, cx, finx, overx⟩ := rounds_iff.1 hx
  obtain ⟨ky, qy, cy, finy, overy⟩ := rounds_iff.1 hy
  obtain ⟨kz, qz, cz, finz, overz⟩ := rounds_iff.1 hz
  have xy_le := cx.mono cy xy.le
  have yz_le := cy.mono cz yz.le
  by_cases beyond : f.maxBits < qx
  · obtain ⟨bits, flags⟩ := overx beyond
    obtain ⟨bits', flags'⟩ := overy (by omega)
    exact Prod.ext (bits'.trans bits.symm) (flags'.trans flags.symm)
  · obtain ⟨bits, flags⟩ := finx (by omega)
    have fx := flags.cases cx.le
    have inside : qz ≤ f.maxBits := by
      by_contra out
      have := (overz (by omega)).2
      omega
    obtain ⟨bitsz, flagsz⟩ := finz inside
    have fz := flagsz.cases cz.le
    obtain ⟨bitsy, flagsy⟩ := finy (by omega)
    have fy := flagsy.cases cy.le
    have qxz : qx = qz := signed_inj (bits.symm.trans bitsz)
    have qxy : qx = qy := by omega
    have tiny_xy : f.tiny rm neg y → f.tiny rm neg x := tiny_mono xy.le
    have tiny_yz : f.tiny rm neg z → f.tiny rm neg y := tiny_mono yz.le
    have differ : ¬ (x = (f.magnitude kx : ℝ) ∧ z = (f.magnitude kz : ℝ)) := by
      rintro ⟨hx', hz'⟩
      rw [cx.same hx', cz.same hz'] at qxz
      rw [qxz, ← hz'] at hx'
      exact absurd (xy.trans yz) (by rw [hx']; exact lt_irrefl _)
    refine Prod.ext (by rw [bitsy, bits, qxy]) ?_
    rcases fy with ⟨same, -⟩ | ⟨-, tiny, fly⟩ | ⟨-, notTiny, fly⟩
    · exact absurd same (never ky)
    · have tx := tiny_xy tiny
      rcases fx with ⟨same, flx⟩ | ⟨-, -, flx⟩ | ⟨-, notTiny, -⟩
      · rcases fz with ⟨samez, -⟩ | ⟨-, -, flz⟩ | ⟨-, -, flz⟩
        · exact absurd ⟨same, samez⟩ differ
        · omega
        · omega
      · omega
      · exact absurd tx notTiny
    · have tz : ¬ f.tiny rm neg z := fun t => notTiny (tiny_yz t)
      rcases fz with ⟨same, flz⟩ | ⟨-, tiny, -⟩ | ⟨-, -, flz⟩
      · rcases fx with ⟨samex, -⟩ | ⟨-, -, flx⟩ | ⟨-, -, flx⟩
        · exact absurd ⟨samex, same⟩ differ
        · omega
        · omega
      · exact absurd tiny tz
      · omega

/-! ## Enclosures -/

/-- What lies strictly between two multiples of a power of two far below a number's last place is rounded as their middle. -/
theorem FFmt.rounds_odd (hmb : 1 ≤ f.mb) {m : Nat} {e : Int} (big : 2 ^ (f.mb + 2) ≤ m) (lo : (m : ℝ) * 2 ^ e < y)
    (hi : y < (m + 1) * 2 ^ e) : f.Rounds rm neg y (f.round rm (.fin neg (2 * m + 1) (e - 1))) := by
  have even (j : Nat) : ((real false (2 * j) (e - 1) : ℚ) : ℝ) = j * 2 ^ e := by rw [real_double, real_false]
  have agrees := agrees_odd (m := m) (e := e - 1) (y := y) (by rwa [even])
    (by rw [show 2 * m + 2 = 2 * (m + 1) by ring, even]; push_cast; exact hi)
  refine f.round_rounds hmb rm neg (by omega) agrees ?_
  have := (Nat.le_log2 (n := 2 * m + 1) (k := f.mb + 2) (by omega)).2 (by omega)
  omega

/-- Where both ends of an enclosure are rounded alike, so is what it encloses. -/
theorem FFmt.rounds_of_enclosed (hmb : 1 ≤ f.mb) {lo w : Nat} {e : Int} (h : roundEnclosed f rm neg lo w e = some r)
    (big : 2 ^ (f.mb + 2) ≤ lo) (irrational : Irrational y) (lo_le : (lo : ℝ) * 2 ^ e ≤ y) (hi : y < (lo + w + 1) * 2 ^ e) :
    f.Rounds rm neg y r := by
  have unit : (0 : ℝ) < 2 ^ e := by positivity
  have alike : f.round rm (.fin neg (2 * lo + 1) (e - 1)) = r ∧ f.round rm (.fin neg (2 * (lo + w) + 1) (e - 1)) = r := by
    simp only [roundEnclosed] at h
    split at h
    case isTrue same => exact ⟨Option.some.inj h, same.symm.trans (Option.some.inj h)⟩
    case isFalse => cases h
  have middle (m : Nat) (hm : lo ≤ m) : f.Rounds rm neg ((m + 1 / 2) * 2 ^ e) (f.round rm (.fin neg (2 * m + 1) (e - 1))) :=
    rounds_odd hmb (big.trans hm) (by nlinarith) (by nlinarith)
  obtain ⟨m, low, high⟩ : ∃ m : Nat, (m : ℝ) * 2 ^ e < y ∧ y < (m + 1) * 2 ^ e := by
    have positive : 0 ≤ y / 2 ^ e := div_nonneg ((by positivity : (0 : ℝ) ≤ lo * 2 ^ e).trans lo_le) unit.le
    refine ⟨⌊y / 2 ^ e⌋₊, lt_of_le_of_ne ((le_div_iff₀ unit).1 (Nat.floor_le positive)) fun same => ?_,
      (div_lt_iff₀ unit).1 (Nat.lt_floor_add_one _)⟩
    rw [← real_false] at same
    exact irrational ⟨_, same⟩
  have lo_m : lo ≤ m := by
    have : (lo : ℝ) < m + 1 := lt_of_mul_lt_mul_right (lo_le.trans_lt high) unit.le
    exact Nat.lt_succ_iff.1 (by exact_mod_cast this)
  have m_hi : m ≤ lo + w := by
    have : (m : ℝ) < lo + w + 1 := lt_of_mul_lt_mul_right (low.trans hi) unit.le
    exact Nat.lt_succ_iff.1 (by exact_mod_cast this)
  have here := rounds_odd (f := f) (rm := rm) (neg := neg) hmb (big.trans lo_m) low high
  by_cases first : lo = m
  · subst first
    rwa [alike.1] at here
  by_cases last : m = lo + w
  · subst last
    rwa [alike.2] at here
  have below := middle lo le_rfl
  have above := middle (lo + w) (Nat.le_add_right ..)
  rw [alike.1] at below
  rw [alike.2] at above
  have lo_lt : (lo : ℝ) + 1 ≤ m := by exact_mod_cast (by omega : lo + 1 ≤ m)
  have lt_hi : (m : ℝ) + 1 ≤ (lo + w : Nat) := by exact_mod_cast (by omega : m + 1 ≤ lo + w)
  have same := below.between above here (by nlinarith) (by nlinarith) fun k eq => irrational ⟨_, eq.symm⟩
  rwa [same] at here

/-- Every positive number is rounded to something. -/
theorem FFmt.exists_rounds (hmb : 1 ≤ f.mb) (rm : Rm) (neg : Bool) (hy : 0 < y) : ∃ r, f.Rounds rm neg y r := by
  obtain ⟨n, hn⟩ := pow_unbounded_of_one_lt ((2 : ℝ) ^ (f.mb + 2) / y) (by norm_num : (1 : ℝ) < 2)
  have large : (2 : ℝ) ^ (f.mb + 2) < y * 2 ^ n := by rwa [div_lt_iff₀' hy] at hn
  have unit : (0 : ℝ) < 2 ^ (-(n : Int) - 1 + 1) := by positivity
  have scale : y / 2 ^ (-(n : Int) - 1 + 1) = y * 2 ^ n := by
    rw [sub_add_cancel, zpow_neg, zpow_natCast, div_inv_eq_mul]
  have le : (⌊y * 2 ^ n⌋₊ : ℝ) * 2 ^ (-(n : Int) - 1 + 1) ≤ y := by
    rw [← le_div_iff₀ unit, scale]
    exact Nat.floor_le (by positivity)
  have lt : y < (⌊y * 2 ^ n⌋₊ + 1) * 2 ^ (-(n : Int) - 1 + 1) := by
    rw [← div_lt_iff₀ unit, scale]
    exact Nat.lt_floor_add_one _
  have big : 2 ^ (f.mb + 2) ≤ ⌊y * 2 ^ n⌋₊ := Nat.le_floor (by push_cast; exact large.le)
  classical
  have agrees := agrees_sticky (whole := y = (⌊y * 2 ^ n⌋₊ : ℝ) * 2 ^ (-(n : Int) - 1 + 1)) Iff.rfl le lt
  have positive := Nat.two_pow_pos (f.mb + 2)
  refine ⟨_, f.round_rounds hmb rm neg (by omega) agrees ?_⟩
  have := (Nat.le_log2 (n := 2 * ⌊y * 2 ^ n⌋₊ + if y = (⌊y * 2 ^ n⌋₊ : ℝ) * 2 ^ (-(n : Int) - 1 + 1) then 0 else 1) (k := f.mb + 2)
    (by omega)).2 (by omega)
  omega

end

end Sys2Proof.Machine
end

section
/-! SUPPORT. VFEXP2 (R110, R111): the power far out and near 1, and the enclosure of a power between integers. -/
namespace Sys2Proof.Machine

section
variable {f : FFmt} {rm : Rm} {neg : Bool} {x y : ℝ} {a r : Nat × Nat}

/-! ## Beyond the format -/

/-- All that is beyond the largest number of a format is rounded alike. -/
theorem FFmt.Rounds.eq_of_large (hy : f.Rounds rm neg y r) (large : (f.magnitude (f.maxBits + 1) : ℝ) ≤ y) :
    r = (f.signed neg (f.beyond rm neg), 5) := by
  obtain ⟨k, q, cell, -, above⟩ := rounds_iff.1 hy
  have below : f.maxBits + 1 < k + 1 := f.magnitude_strictMono.lt_iff_lt.1 (Rat.cast_lt.1 (large.trans_lt cell.lt))
  obtain ⟨bits, flags⟩ := above (by have := cell.eq_or; omega)
  exact Prod.ext bits flags

theorem FFmt.magnitude_zero (f : FFmt) : f.magnitude 0 = 0 := by simp [magnitude]

theorem FFmt.magnitude_one (f : FFmt) (hmb : 1 ≤ f.mb) : f.magnitude 1 = 2 ^ (1 - (f.bias : Int) - f.mb) := by
  have : 1 < 2 ^ f.mb := Nat.one_lt_two_pow (by omega)
  simp [magnitude, this]

theorem FFmt.one_le_maxBits (f : FFmt) (hmb : 1 ≤ f.mb) (heb : 1 ≤ f.eb) : 1 ≤ f.maxBits := by
  have mant : 2 ^ 1 ≤ 2 ^ f.mb := Nat.pow_le_pow_right (by decide) hmb
  have all : 2 ^ 2 ≤ 2 ^ (f.eb + f.mb) := Nat.pow_le_pow_right (by decide) (by omega)
  cases hs : f.special with
  | ieee =>
    have most := f.maxBits_ieee heb hs
    have row : 1 * 2 ^ f.mb ≤ (2 ^ f.eb - 1) * 2 ^ f.mb :=
      Nat.mul_le_mul_right _ (by have : 2 ^ 1 ≤ 2 ^ f.eb := Nat.pow_le_pow_right (by decide) heb; omega)
    omega
  | nanOnly | none => simp only [maxBits, hs]; omega

/-- All positive numbers below half the smallest one of a format are rounded alike. -/
theorem FFmt.Rounds.eq_of_small (hmb : 1 ≤ f.mb) (heb : 1 ≤ f.eb) (hx : f.Rounds rm neg x a) (hy : f.Rounds rm neg y r)
    (x_pos : 0 < x) (y_pos : 0 < y) (x_lt : x < (f.magnitude 1 : ℝ) / 2) (y_lt : y < (f.magnitude 1 : ℝ) / 2) : r = a := by
  have one_pos : (0 : ℝ) < (f.magnitude 1 : ℝ) := by linarith
  have tiny {z : ℝ} (lt : z < (f.magnitude 1 : ℝ) / 2) : f.tiny rm neg z := by
    have half : (f.magnitude 1 : ℝ) / 2 = 2 ^ (-(f.bias : Int) - f.mb) := by
      rw [f.magnitude_one hmb, show 1 - (f.bias : Int) - f.mb = -(f.bias : Int) - f.mb + 1 by ring]
      push_cast
      rw [zpow_add₀ (by norm_num)]
      ring
    have normal : 2 * (2 : ℝ) ^ (-(f.bias : Int) - f.mb) ≤ 2 ^ (1 - (f.bias : Int)) := by
      rw [← zpow_one_add₀ (by norm_num)]
      exact zpow_le_zpow_right₀ (by norm_num) (by omega)
    have unit : (0 : ℝ) < 2 ^ (-(f.bias : Int) - f.mb) := by positivity
    rw [half] at lt
    refine ⟨?_, fun up => ?_⟩
    · push_cast; linarith
    · have := up.1
      push_cast at this
      linarith
  have cellZero {z : ℝ} {k q : Nat} (cell : f.Cell rm neg z k q) (pos : 0 < z) (lt : z < (f.magnitude 1 : ℝ) / 2) :
      k = 0 ∧ q = if rm = .rdn ∧ neg = true ∨ rm = .rup ∧ neg = false then 1 else 0 := by
    have below : k < 1 := f.magnitude_strictMono.lt_iff_lt.1 (Rat.cast_lt.1 (cell.le.trans_lt (lt.trans (by linarith))))
    obtain rfl : k = 0 := by omega
    have zero_lt : (f.magnitude 0 : ℝ) < z := by rw [f.magnitude_zero]; exact_mod_cast pos
    have middle : ((f.magnitude 0 : ℝ) + (f.magnitude (0 + 1) : ℝ)) / 2 = (f.magnitude 1 : ℝ) / 2 := by
      rw [f.magnitude_zero]; simp
    have goes : goesUp rm neg (0 % 2 == 1) (f.magnitude 0) (f.magnitude (0 + 1)) z ↔
        (rm = .rdn ∧ neg = true ∨ rm = .rup ∧ neg = false) := by
      cases rm with
      | rne => simp only [goesUp, middle]; simp [not_lt.2 lt.le]
      | rma => simp only [goesUp, middle]; simp [not_le.2 lt]
      | rtz | dyn | rdn | rup => simp [goesUp]
    refine ⟨rfl, ?_⟩
    split
    case isTrue up => exact cell.up zero_lt (goes.2 up)
    case isFalse stays => exact cell.down zero_lt fun up => stays (goes.1 up)
  obtain ⟨k, q, cx, finx, -⟩ := rounds_iff.1 hx
  obtain ⟨k', q', cy, finy, -⟩ := rounds_iff.1 hy
  obtain ⟨rfl, qx⟩ := cellZero cx x_pos x_lt
  obtain ⟨rfl, qy⟩ := cellZero cy y_pos y_lt
  have inside : q ≤ f.maxBits ∧ q' ≤ f.maxBits := by
    have := f.one_le_maxBits hmb heb
    constructor
    · rw [qx]; split <;> omega
    · rw [qy]; split <;> omega
  have zero_lt {z : ℝ} (pos : 0 < z) : (f.magnitude 0 : ℝ) < z := by rw [f.magnitude_zero]; exact_mod_cast pos
  obtain ⟨bits, flags⟩ := finx inside.1
  obtain ⟨bits', flags'⟩ := finy inside.2
  refine Prod.ext (by rw [bits, bits', qx, qy]) ?_
  rw [((flags.2 (zero_lt x_pos)).1 (tiny x_lt)), ((flags'.2 (zero_lt y_pos)).1 (tiny y_lt))]

end

/-- How large and how small the numbers of the formats of VFEXP2 are. -/
theorem lanes_range {f : FFmt} (hf : f ∈ [bf16, fp16, fp32, fp64]) :
    (f.magnitude (f.maxBits + 1) : ℝ) ≤ 2 ^ (1024 : Int) ∧ (2 : ℝ) ^ (-1074 : Int) ≤ f.magnitude 1 := by
  have all : f ∈ [fp4, fp6a, fp6b, fp8a, fp8b, fp16, bf16, fp32, fp64] ∧ f.special = .ieee ∧
      ((2 ^ f.eb - 1 : Nat) : Int) - f.bias ≤ 1024 ∧ (f.bias : Int) + f.mb ≤ 1075 ∧ 1 ≤ 2 ^ f.eb - 1 := by
    simp only [List.mem_cons, List.not_mem_nil, or_false] at hf
    rcases hf with rfl | rfl | rfl | rfl <;> decide
  obtain ⟨mem, ieee, top, bottom, one_le⟩ := all
  obtain ⟨hmb, -, heb⟩ := format_bounds mem
  constructor
  · have power := Nat.two_pow_pos f.mb
    have row : f.maxBits + 1 = (2 ^ f.eb - 1 - 1) * 2 ^ f.mb + 2 ^ f.mb := by
      rw [f.maxBits_ieee heb ieee, Nat.sub_one_mul (2 ^ f.eb - 1), Nat.sub_add_cancel]
      exact Nat.le_mul_of_pos_left _ one_le
    rw [row, f.magnitude_row (.inr le_rfl) (Nat.pow_le_pow_right (by decide) (by omega)), ← one_mul (2 ^ f.mb), real_lower]
    rw [real_false, Nat.cast_one, one_mul]
    exact zpow_le_zpow_right₀ (by norm_num) (by omega)
  · rw [f.magnitude_one hmb, Rat.cast_zpow, Rat.cast_ofNat]
    exact zpow_le_zpow_right₀ (by norm_num) (by omega)

/-! ## The power near 1 -/

theorem abs_two_rpow_sub_one_lt {y : ℝ} (h : |y| ≤ 1) (hy : y ≠ 0) : |(2 : ℝ) ^ y - 1| < 2 * |y| := by
  have positive : 0 < |y| := abs_pos.2 hy
  have up {z : ℝ} (z0 : 0 ≤ z) (z1 : z ≤ 1) : (2 : ℝ) ^ z ≤ 1 + z := by
    have := rpow_one_add_le_one_add_mul_self (s := 1) (by norm_num) z0 z1
    norm_num at this
    exact this
  rcases lt_or_gt_of_ne hy with below | above
  · rw [abs_of_neg below] at h positive ⊢
    have inverse : (2 : ℝ) ^ y * 2 ^ (-y) = 1 := by rw [← Real.rpow_add (by norm_num)]; simp
    have le := up positive.le h
    have pos : (0 : ℝ) < 2 ^ y := by positivity
    have lt_one : (2 : ℝ) ^ y < 1 := Real.rpow_lt_one_of_one_lt_of_neg (by norm_num) below
    rw [abs_of_neg (by linarith)]
    nlinarith
  · rw [abs_of_pos above] at h ⊢
    have le := up above.le h
    have one_lt : (1 : ℝ) < 2 ^ y := Real.one_lt_rpow (by norm_num) above
    rw [abs_of_pos (by linarith)]
    linarith

/-! ## The power by square roots (R111) -/

/-- One root: at most two units of the last place are lost. -/
theorem isqrt_bounds {p r : Nat} {ρ : ℝ} (hρ : 1 ≤ ρ) (low : (r : ℝ) ≤ ρ * 2 ^ p) (high : ρ * 2 ^ p < r + 2) (unit : 2 ^ p ≤ r) :
    ((isqrt (r * 2 ^ p) : Nat) : ℝ) ≤ √ρ * 2 ^ p ∧ √ρ * 2 ^ p < (isqrt (r * 2 ^ p) : Nat) + 2 ∧ 2 ^ p ≤ isqrt (r * 2 ^ p) := by
  have power : (0 : ℝ) < 2 ^ p := by positivity
  have root : 1 ≤ √ρ := Real.one_le_sqrt.2 hρ
  have square : √ρ * √ρ = ρ := Real.mul_self_sqrt (by linarith)
  have unit_le : (2 : ℝ) ^ p ≤ r := by exact_mod_cast unit
  rw [isqrt_eq_sqrt]
  have below : ((Nat.sqrt (r * 2 ^ p) : Nat) : ℝ) * Nat.sqrt (r * 2 ^ p) ≤ r * 2 ^ p := by exact_mod_cast Nat.sqrt_le (r * 2 ^ p)
  have above : (r * 2 ^ p : ℝ) < (Nat.sqrt (r * 2 ^ p) + 1) * (Nat.sqrt (r * 2 ^ p) + 1) := by
    exact_mod_cast Nat.lt_succ_sqrt (r * 2 ^ p)
  have nat_le : 2 ^ p ≤ Nat.sqrt (r * 2 ^ p) := Nat.le_sqrt.2 (Nat.mul_le_mul_right _ unit)
  have le : (2 : ℝ) ^ p ≤ (Nat.sqrt (r * 2 ^ p) : Nat) := by exact_mod_cast nat_le
  refine ⟨?_, ?_, nat_le⟩
  · refine nonneg_le_nonneg_of_sq_le_sq (by positivity) (below.trans ?_)
    calc (r : ℝ) * 2 ^ p ≤ ρ * 2 ^ p * 2 ^ p := mul_le_mul_of_nonneg_right low power.le
      _ = √ρ * 2 ^ p * (√ρ * 2 ^ p) := by linear_combination -((2 : ℝ) ^ p * 2 ^ p) * square
  · refine lt_of_mul_self_lt_mul_self₀ (by positivity) ?_
    have stretch : √ρ * 2 ^ p * (√ρ * 2 ^ p) < (r + 2) * 2 ^ p := by
      calc √ρ * 2 ^ p * (√ρ * 2 ^ p) = ρ * 2 ^ p * 2 ^ p := by linear_combination ((2 : ℝ) ^ p * 2 ^ p) * square
        _ < (r + 2) * 2 ^ p := mul_lt_mul_of_pos_right high power
    linarith

/-- One factor: what was lost before grows with it, and at most three units of the last place are lost anew. -/
theorem product_bounds {p acc r : Nat} {α ρ E : ℝ} (hα : 1 ≤ α) (hρ : 1 ≤ ρ) (r_low : (r : ℝ) ≤ ρ * 2 ^ p) (r_high : ρ * 2 ^ p < r + 2)
    (low : (acc : ℝ) ≤ α * 2 ^ p) (high : α * 2 ^ p ≤ acc + E * α) :
    ((acc * r / 2 ^ p : Nat) : ℝ) ≤ α * ρ * 2 ^ p ∧ α * ρ * 2 ^ p ≤ (acc * r / 2 ^ p : Nat) + (E + 3) * (α * ρ) := by
  have power : (0 : ℝ) < 2 ^ p := by positivity
  have below : ((acc * r / 2 ^ p : Nat) : ℝ) * 2 ^ p ≤ acc * r := by exact_mod_cast Nat.div_mul_le_self (acc * r) (2 ^ p)
  have above : (acc * r : ℝ) < ((acc * r / 2 ^ p : Nat) + 1) * 2 ^ p := by
    have next_ := Nat.lt_div_mul_add (a := acc * r) (Nat.two_pow_pos p)
    rw [← Nat.succ_mul] at next_
    exact_mod_cast next_
  have acc0 : (0 : ℝ) ≤ acc := Nat.cast_nonneg _
  have r0 : (0 : ℝ) ≤ r := Nat.cast_nonneg _
  constructor
  · refine le_of_mul_le_mul_right ?_ power
    calc ((acc * r / 2 ^ p : Nat) : ℝ) * 2 ^ p ≤ acc * r := below
      _ ≤ α * 2 ^ p * (ρ * 2 ^ p) := mul_le_mul low r_low r0 (by positivity)
      _ = α * ρ * 2 ^ p * 2 ^ p := by ring
  · refine le_of_mul_le_mul_right ?_ power
    have one_le : 1 ≤ α * ρ := one_le_mul_of_one_le_of_one_le hα hρ
    have factor : α ≤ α * ρ := le_mul_of_one_le_right (by linarith) hρ
    calc α * ρ * 2 ^ p * 2 ^ p = (α * 2 ^ p) * (ρ * 2 ^ p) := by ring
      _ ≤ (acc + E * α) * (ρ * 2 ^ p) := mul_le_mul_of_nonneg_right high (by positivity)
      _ = acc * (ρ * 2 ^ p) + E * (α * ρ) * 2 ^ p := by ring
      _ ≤ acc * (r + 2) + E * (α * ρ) * 2 ^ p := by nlinarith
      _ ≤ ((acc * r / 2 ^ p : Nat) + 1) * 2 ^ p + 2 * (α * 2 ^ p) + E * (α * ρ) * 2 ^ p := by linarith
      _ ≤ ((acc * r / 2 ^ p : Nat) + (E + 3) * (α * ρ)) * 2 ^ p := by nlinarith

/-- The bits of a fraction from the highest down, each with its own root of the base. -/
theorem exp2Frac_bounds (p f : Nat) {k r acc i : Nat} {α ρ : ℝ} (hα : 1 ≤ α) (hρ : 1 ≤ ρ) (r_low : (r : ℝ) ≤ ρ * 2 ^ p)
    (r_high : ρ * 2 ^ p < r + 2) (unit : 2 ^ p ≤ r) (low : (acc : ℝ) ≤ α * 2 ^ p) (high : α * 2 ^ p ≤ acc + (3 * i : Nat) * α) :
    let B := α * ρ ^ (((f % 2 ^ k : Nat) : ℝ) / 2 ^ k)
    acc ≤ exp2Frac p f k r acc ∧ (exp2Frac p f k r acc : ℝ) ≤ B * 2 ^ p ∧ B * 2 ^ p ≤ exp2Frac p f k r acc + (3 * (i + k) : Nat) * B := by
  induction k generalizing r acc i α ρ with
  | zero =>
    push_cast at high
    simpa [exp2Frac, Nat.mod_one] using ⟨low, high⟩
  | succ k ih =>
    have root : 1 ≤ √ρ := Real.one_le_sqrt.2 hρ
    obtain ⟨root_low, root_high, root_unit⟩ := isqrt_bounds hρ r_low r_high unit
    have half (z : ℝ) : ρ ^ (z / 2) = √ρ ^ z := by
      rw [Real.sqrt_eq_rpow, ← Real.rpow_mul (by linarith), show z / 2 = 1 / 2 * z by ring]
    have split_ : f % 2 ^ (k + 1) = f % 2 ^ k + 2 ^ k * (f / 2 ^ k % 2) := by rw [pow_succ, Nat.mod_mul]
    rw [exp2Frac]
    dsimp only
    by_cases bit : f / 2 ^ k % 2 = 1
    · have exponent : ρ ^ (((f % 2 ^ (k + 1) : Nat) : ℝ) / 2 ^ (k + 1)) = √ρ * √ρ ^ (((f % 2 ^ k : Nat) : ℝ) / 2 ^ k) := by
        rw [split_, bit, pow_succ, ← div_div, half, ← Real.rpow_one_add' (by linarith) (by positivity)]
        congr 1
        push_cast
        field_simp
        ring
      obtain ⟨acc_low, acc_high⟩ := product_bounds hα root root_low root_high low high
      have grows : acc ≤ acc * isqrt (r * 2 ^ p) / 2 ^ p :=
        (Nat.le_div_iff_mul_le (Nat.two_pow_pos p)).2 (Nat.mul_le_mul_left _ root_unit)
      have next_ := ih (i := i + 1) (one_le_mul_of_one_le_of_one_le hα root) root root_low root_high root_unit acc_low
        (by push_cast at acc_high ⊢; linarith)
      rw [if_pos bit, exponent, ← mul_assoc]
      obtain ⟨more, le, ge⟩ := next_
      exact ⟨grows.trans more, le, by rwa [show i + (k + 1) = i + 1 + k by ring]⟩
    · have zero : f / 2 ^ k % 2 = 0 := by omega
      have exponent : ρ ^ (((f % 2 ^ (k + 1) : Nat) : ℝ) / 2 ^ (k + 1)) = √ρ ^ (((f % 2 ^ k : Nat) : ℝ) / 2 ^ k) := by
        rw [split_, zero, pow_succ, ← div_div, half, Nat.mul_zero, Nat.add_zero]
      have wider : α * 2 ^ p ≤ acc + (3 * (i + 1) : Nat) * α := by push_cast at high ⊢; linarith
      obtain ⟨more, le, ge⟩ := ih (i := i + 1) hα root root_low root_high root_unit low wider
      rw [if_neg bit, exponent]
      exact ⟨more, le, by rwa [show i + (k + 1) = i + 1 + k by ring]⟩

/-- The enclosure of 2^(fr / 2^k) that the model takes. -/
theorem exp2Frac_encloses (p : Nat) {fr k : Nat} (hfr : fr < 2 ^ k) (hk : 1 ≤ k) :
    let lo := exp2Frac p fr k (2 * 2 ^ p) (2 ^ p)
    2 ^ p ≤ lo ∧ (lo : ℝ) ≤ 2 ^ ((fr : ℝ) / 2 ^ k) * 2 ^ p ∧ (2 : ℝ) ^ ((fr : ℝ) / 2 ^ k) * 2 ^ p < lo + (16 * k : Nat) + 1 := by
  have bounds := exp2Frac_bounds p fr (k := k) (r := 2 * 2 ^ p) (acc := 2 ^ p) (i := 0) (α := 1) (ρ := 2) le_rfl (by norm_num)
    (by push_cast; rfl) (by push_cast; linarith) (by omega) (by push_cast; linarith) (by push_cast; linarith)
  rw [Nat.mod_eq_of_lt hfr, one_mul] at bounds
  obtain ⟨unit, low, high⟩ := bounds
  have lt_two : (2 : ℝ) ^ ((fr : ℝ) / 2 ^ k) < 2 := by
    refine (Real.rpow_lt_rpow_of_exponent_lt (y := (fr : ℝ) / 2 ^ k) (z := 1) (by norm_num) ?_).trans_eq (Real.rpow_one _)
    rw [div_lt_one (by positivity)]
    exact_mod_cast hfr
  have steps : (1 : ℝ) ≤ k := by exact_mod_cast hk
  refine ⟨unit, low, high.trans_lt ?_⟩
  push_cast
  nlinarith

end Sys2Proof.Machine
end

section
/-! SUPPORT. VFEXP2 by its cases (R110, R111). -/
namespace Sys2Proof.Machine

/-! ## Powers between integers -/

/-- A power of two between 1 and 2 is irrational when its exponent is a dyadic fraction. -/
theorem irrational_dyadic_power {fr k : Nat} (h0 : fr ≠ 0) (hfr : fr < 2 ^ k) : Irrational ((2 : ℝ) ^ ((fr : ℝ) / 2 ^ k)) := by
  have whole : ((2 : ℝ) ^ ((fr : ℝ) / 2 ^ k)) ^ (2 ^ k) = ((2 ^ fr : Int) : ℝ) := by
    rw [← Real.rpow_mul_natCast (by norm_num)]
    push_cast
    rw [div_mul_cancel₀ _ (by positivity), Real.rpow_natCast]
  refine irrational_nrt_of_notint_nrt _ _ whole ?_ (Nat.two_pow_pos k)
  rintro ⟨i, hi⟩
  have one_lt : (1 : ℝ) < i := by
    rw [← hi]
    exact Real.one_lt_rpow (by norm_num) (div_pos (by exact_mod_cast Nat.pos_of_ne_zero h0) (by positivity))
  have lt_two : (i : ℝ) < 2 := by
    rw [← hi]
    refine (Real.rpow_lt_rpow_of_exponent_lt (y := (fr : ℝ) / 2 ^ k) (z := 1) (by norm_num) ?_).trans_eq (Real.rpow_one _)
    rw [div_lt_one (by positivity)]
    exact_mod_cast hfr
  have : 1 < i ∧ i < 2 := ⟨by exact_mod_cast one_lt, by exact_mod_cast lt_two⟩
  omega

/-- The integer and the fraction of an exponent. -/
theorem two_rpow_split (v : Int) (k : Nat) :
    (2 : ℝ) ^ ((v : ℝ) / 2 ^ k) = 2 ^ (v / 2 ^ k) * 2 ^ (((v % 2 ^ k).toNat : ℝ) / 2 ^ k) := by
  have nonneg : 0 ≤ v % 2 ^ k := Int.emod_nonneg _ (by positivity)
  have rest : (((v % 2 ^ k).toNat : Nat) : ℝ) = ((v % 2 ^ k : Int) : ℝ) := by exact_mod_cast congrArg (Int.cast : Int → ℝ) (Int.toNat_of_nonneg nonneg)
  have whole : (v : ℝ) = 2 ^ k * ((v / 2 ^ k : Int) : ℝ) + ((v % 2 ^ k : Int) : ℝ) := by exact_mod_cast (Int.mul_ediv_add_emod v (2 ^ k)).symm
  rw [rest, ← Real.rpow_intCast, ← Real.rpow_add (by norm_num), whole]
  congr 1
  field_simp

theorem exp2Try_succ (f : FFmt) (rm : Rm) (n : Int) (fr k fuel p : Nat) : exp2Try f rm n fr k (fuel + 1) p =
    (roundEnclosed f rm false (exp2Frac p fr k (2 * 2 ^ p) (2 ^ p)) (16 * k) (n - p)).getD (exp2Try f rm n fr k fuel (2 * p)) := by
  conv_lhs => unfold exp2Try
  cases roundEnclosed f rm false (exp2Frac p fr k (2 * 2 ^ p) (2 ^ p)) (16 * k) (n - p) <;> rfl

theorem exp2Try_rounds {f : FFmt} {rm : Rm} {n : Int} {fr k : Nat} {Q : Nat × Nat → Prop}
    (good : ∀ p, 256 ≤ p → ∀ r, roundEnclosed f rm false (exp2Frac p fr k (2 * 2 ^ p) (2 ^ p)) (16 * k) (n - p) = some r → Q r)
    {fuel p : Nat} (hp : 256 ≤ p) (decided : ∃ i, i < fuel ∧
      (roundEnclosed f rm false (exp2Frac (p * 2 ^ i) fr k (2 * 2 ^ (p * 2 ^ i)) (2 ^ (p * 2 ^ i))) (16 * k) (n - (p * 2 ^ i : Nat))).isSome = true) :
    Q (exp2Try f rm n fr k fuel p) := by
  induction fuel generalizing p with
  | zero =>
    obtain ⟨i, hi, -⟩ := decided
    omega
  | succ fuel ih =>
    rw [exp2Try_succ]
    cases h : roundEnclosed f rm false (exp2Frac p fr k (2 * 2 ^ p) (2 ^ p)) (16 * k) (n - p) with
    | some r => exact good p hp r h
    | none =>
      refine ih (by omega) ?_
      obtain ⟨i, hi, found⟩ := decided
      cases i with
      | zero => simp [h] at found
      | succ i =>
        have later : 2 * p * 2 ^ i = p * 2 ^ (i + 1) := by ring
        exact ⟨i, by omega, later ▸ found⟩

section
variable {f : FFmt} {rm : Rm}

/-- An enclosure of a power that is none of an integer. -/
theorem exp2Frac_rounds (hmb : 1 ≤ f.mb) (hmb' : f.mb ≤ 52) {v : Int} {k : Nat} (hfr : (v % 2 ^ k).toNat ≠ 0) {p : Nat} (hp : 256 ≤ p)
    {r : Nat × Nat} (h : roundEnclosed f rm false (exp2Frac p (v % 2 ^ k).toNat k (2 * 2 ^ p) (2 ^ p)) (16 * k) (v / 2 ^ k - p) = some r) :
    f.Rounds rm false ((2 : ℝ) ^ ((v : ℝ) / 2 ^ k)) r := by
  have fr_lt : (v % 2 ^ k).toNat < 2 ^ k := by
    have := Int.emod_lt_of_pos v (by positivity : (0 : Int) < 2 ^ k)
    have cast : ((2 ^ k : Nat) : Int) = 2 ^ k := by simp
    omega
  have hk : 1 ≤ k := by
    by_contra zero
    obtain rfl : k = 0 := by omega
    omega
  obtain ⟨unit, low, high⟩ := exp2Frac_encloses p fr_lt hk
  have irrational := irrational_dyadic_power hfr fr_lt
  rw [two_rpow_split]
  have scale (z : ℝ) : z * 2 ^ (v / 2 ^ k - (p : Int)) = 2 ^ (v / 2 ^ k) * (z / 2 ^ p) := by
    rw [zpow_sub₀ (by norm_num), zpow_natCast]
    ring
  have power : (0 : ℝ) < 2 ^ (v / 2 ^ k) := by positivity
  have units : (0 : ℝ) < 2 ^ p := by positivity
  refine FFmt.rounds_of_enclosed hmb h ((Nat.pow_le_pow_right (by decide) (by omega)).trans unit) ?_ ?_ ?_
  · have := irrational.ratCast_mul (q := 2 ^ (v / 2 ^ k)) (by positivity)
    rwa [Rat.cast_zpow, Rat.cast_ofNat] at this
  · rw [scale]
    exact mul_le_mul_of_nonneg_left ((div_le_iff₀ units).2 low) power.le
  · rw [scale]
    exact mul_lt_mul_of_pos_left ((lt_div_iff₀ units).2 high) power

/-- A power of an integer. -/
theorem rounds_two_zpow (hmb : 1 ≤ f.mb) (rm : Rm) (n : Int) : f.Rounds rm false ((2 : ℝ) ^ (n : ℝ)) (f.round rm (.fin false 1 n)) := by
  have exact_ : ((real false 1 n : ℚ) : ℝ) = 2 ^ (n : ℝ) := by rw [real_false, Real.rpow_intCast]; simp
  have same := f.round_rounds hmb rm false one_ne_zero (Agrees.refl (n - f.mb - 1) ((real false 1 n : ℚ) : ℝ))
    (by rw [show Nat.log2 1 = 0 by decide]; omega)
  rwa [exact_] at same

/-! ## Powers near 1 and far out -/

theorem Agrees.swap {c : Int} {x y z : ℝ} (hy : Agrees c x y) (hz : Agrees c x z) : Agrees c y z := fun j _ hb =>
  ⟨(hz.lt hb j).trans (hy.lt hb j).symm, (hz.gt hb j).trans (hy.gt hb j).symm⟩

/-- A number just above 1 or just below it is rounded as every other. -/
theorem rounds_near_one (hmb : 1 ≤ f.mb) (hmb' : f.mb ≤ 52) (rm : Rm) (below : Bool) {y : ℝ}
    (side : if below then y < 1 else 1 < y) (near : |y - 1| < 2 ^ (-54 : Int)) :
    f.Rounds rm false y (f.round rm (.fin false (if below then 2 ^ 200 - 1 else 2 ^ 200 + 1) (-200))) := by
  obtain ⟨low, high⟩ := abs_lt.1 near
  cases below with
  | true =>
    have alike {z : ℝ} (lt : z < 1) (gt : 1 - 2 ^ (-54 : Int) < z) :
        Agrees (-55 + 1) (real false (2 * (2 ^ 54 - 1) + 1) (-55) : ℚ) z :=
      agrees_odd (m := 2 ^ 54 - 1) (e := -55) (y := z) (by rw [real_false]; norm_num at gt ⊢; linarith) (by rw [real_false]; norm_num; exact lt)
    refine f.round_rounds hmb rm false (by decide) (Agrees.swap (alike ?_ ?_) (alike side (by linarith))) ?_
    · rw [real_false]; norm_num
    · rw [real_false]; norm_num
    · have top : Nat.log2 (2 ^ 200 - 1) = 199 := (Nat.log2_eq_iff (by norm_num)).2 ⟨by norm_num, by norm_num⟩
      rw [if_pos rfl, top]; omega
  | false =>
    have alike {z : ℝ} (gt : 1 < z) (lt : z < 1 + 2 ^ (-54 : Int)) :
        Agrees (-55 + 1) (real false (2 * 2 ^ 54 + 1) (-55) : ℚ) z :=
      agrees_odd (m := 2 ^ 54) (e := -55) (y := z) (by rw [real_false]; norm_num; exact gt) (by rw [real_false]; norm_num at lt ⊢; linarith)
    refine f.round_rounds hmb rm false (by decide) (Agrees.swap (alike ?_ ?_) (alike side (by linarith))) ?_
    · rw [real_false]; norm_num
    · rw [real_false]; norm_num
    · have top : Nat.log2 (2 ^ 200 + 1) = 200 := (Nat.log2_eq_iff (by norm_num)).2 ⟨by norm_num, by norm_num⟩
      rw [if_neg Bool.false_ne_true, top]; omega

theorem three_zpow (n : Int) : (2 : ℝ) ^ n ≤ ((3 : Nat) : ℝ) * 2 ^ n ∧ ((3 : Nat) : ℝ) * 2 ^ n < 2 ^ (n + 2) := by
  have positive : (0 : ℝ) < 2 ^ n := by positivity
  have four : (2 : ℝ) ^ (n + 2) = 4 * 2 ^ n := by rw [zpow_add₀ (by norm_num)]; ring
  push_cast
  constructor <;> linarith

/-- A power far beyond a format, or far below it, is rounded as every other. -/
theorem rounds_far_power (hf : f ∈ [bf16, fp16, fp32, fp64]) (hmb : 1 ≤ f.mb) (heb : 1 ≤ f.eb) (rm : Rm) (below : Bool) {y : ℝ}
    (far : if below then y ≤ -5000 else 5000 ≤ y) :
    f.Rounds rm false (2 ^ y) (f.round rm (.fin false 3 (if below then -5000 else 5000))) := by
  obtain ⟨large, small⟩ := lanes_range hf
  obtain ⟨r, rounds⟩ := FFmt.exists_rounds (f := f) hmb rm false (y := (2 : ℝ) ^ y) (by positivity)
  have three := f.round_rounds hmb rm false (by decide : (3 : Nat) ≠ 0)
    (Agrees.refl (-f.mb - 5001) ((real false 3 (if below then -5000 else 5000) : ℚ) : ℝ))
    (by rw [show Nat.log2 3 = 1 by decide]; split <;> omega)
  rw [real_false] at three
  have power (n : Int) : (2 : ℝ) ^ (n : ℝ) = 2 ^ n := Real.rpow_intCast 2 n
  cases below with
  | true =>
    have half : (2 : ℝ) ^ (-1075 : Int) ≤ (f.magnitude 1 : ℝ) / 2 := by
      rw [show (-1074 : Int) = -1075 + 1 by norm_num, zpow_add₀ (by norm_num), zpow_one] at small
      linarith
    have y_lt : (2 : ℝ) ^ y < 2 ^ (-1075 : Int) := by
      rw [← power]
      refine Real.rpow_lt_rpow_of_exponent_lt (by norm_num) ?_
      have : y ≤ -5000 := far
      push_cast
      linarith
    have three_lt : ((3 : Nat) : ℝ) * 2 ^ (-5000 : Int) < 2 ^ (-1075 : Int) :=
      (three_zpow _).2.trans_le (zpow_le_zpow_right₀ (by norm_num) (by norm_num))
    have same := three.eq_of_small hmb heb rounds (by positivity) (by positivity) (three_lt.trans_le half) (y_lt.trans_le half)
    rwa [same] at rounds
  | false =>
    have y_ge : (2 : ℝ) ^ (1024 : Int) ≤ 2 ^ y := by
      rw [← power]
      refine Real.rpow_le_rpow_of_exponent_le (by norm_num) ?_
      have : 5000 ≤ y := far
      push_cast
      linarith
    have three_ge : (2 : ℝ) ^ (1024 : Int) ≤ ((3 : Nat) : ℝ) * 2 ^ (5000 : Int) :=
      (zpow_le_zpow_right₀ (by norm_num) (by norm_num)).trans (three_zpow _).1
    have same := (rounds.eq_of_large (large.trans y_ge)).trans (three.eq_of_large (large.trans three_ge)).symm
    rwa [same] at rounds

/-! ## The cases together -/

/-- The size of a number by its top bit. -/
theorem abs_real_bounds (neg : Bool) {m : Nat} (e : Int) (hm : m ≠ 0) :
    (2 : ℝ) ^ (Nat.log2 m + e) ≤ |((real neg m e : ℚ) : ℝ)| ∧ |((real neg m e : ℚ) : ℝ)| < 2 ^ (Nat.log2 m + e + 1) := by
  have size : |((real neg m e : ℚ) : ℝ)| = (real false m e : ℚ) := by
    have nonneg : (0 : ℝ) ≤ (real false m e : ℚ) := by rw [real_false]; positivity
    rw [real_signed]
    cases neg
    · exact abs_of_nonneg nonneg
    · rw [if_pos rfl, Rat.cast_neg, abs_neg, abs_of_nonneg nonneg]
  obtain ⟨low, high⟩ := floorLog2_spec e hm
  have low' := (Rat.cast_le (K := ℝ)).2 low
  have high' := (Rat.cast_lt (K := ℝ)).2 high
  rw [Rat.cast_zpow, Rat.cast_ofNat] at low' high'
  rw [size]
  exact ⟨low', high'⟩

theorem real_ne_zero (neg : Bool) {m : Nat} (e : Int) (hm : m ≠ 0) : ((real neg m e : ℚ) : ℝ) ≠ 0 := by
  have := (abs_real_bounds neg e hm).1
  exact abs_pos.1 (lt_of_lt_of_le (by positivity) this)

theorem real_neg_iff (neg : Bool) {m : Nat} (e : Int) (hm : m ≠ 0) : ((real neg m e : ℚ) : ℝ) < 0 ↔ neg = true := by
  have positive := real_pos e hm
  rw [real_signed]
  cases neg <;> simp [positive, le_of_lt positive]

/-- The number as an integer over a power of two. -/
theorem real_eq_div (neg : Bool) (m : Nat) {e : Int} (he : e < 0) :
    ((real neg m e : ℚ) : ℝ) = ((if neg then -(m : Int) else m : Int) : ℝ) / 2 ^ (-e).toNat := by
  obtain ⟨k, rfl⟩ : ∃ k : Nat, e = -k := ⟨(-e).toNat, by omega⟩
  rw [neg_neg, Int.toNat_natCast, real, zpow_neg, zpow_natCast]
  cases neg <;> push_cast <;> simp [div_eq_mul_inv]

/-- VFEXP2 of a number (R110, R111), where an enclosure decides if one is needed. -/
theorem fExp2_rounds (hf : f ∈ [bf16, fp16, fp32, fp64]) (hmb : 1 ≤ f.mb) (hmb' : f.mb ≤ 52) (heb : 1 ≤ f.eb) (neg : Bool) (m : Nat) (e : Int)
    (settled : (∃ i : Int, real neg m e = i) ∨ Nat.log2 m + e < -100 ∨ 12 < Nat.log2 m + e ∨
      ∃ i, i < 4 ∧ (roundEnclosed f rm false (exp2Frac (256 * 2 ^ i) ((if neg then -(m : Int) else m) % 2 ^ (-e).toNat).toNat (-e).toNat
        (2 * 2 ^ (256 * 2 ^ i)) (2 ^ (256 * 2 ^ i))) (16 * (-e).toNat)
        ((if neg then -(m : Int) else m) / 2 ^ (-e).toNat - (256 * 2 ^ i : Nat))).isSome = true) :
    f.Rounds rm false ((2 : ℝ) ^ ((real neg m e : ℚ) : ℝ)) (fExp2 f rm (.fin neg m e)) := by
  by_cases hm : m = 0
  · subst hm
    have one := rounds_two_zpow (f := f) hmb rm 0
    rw [show ((real neg 0 e : ℚ) : ℝ) = ((0 : Int) : ℝ) by simp [real]]
    exact one
  obtain ⟨low, high⟩ := abs_real_bounds neg e hm
  have nonzero := real_ne_zero neg e hm
  have sign := real_neg_iff neg e hm
  simp only [fExp2, if_neg hm]
  by_cases near : (Nat.log2 m : Int) + e < -100
  · rw [if_pos near]
    have size : |((real neg m e : ℚ) : ℝ)| < 2 ^ (-100 : Int) := high.trans_le (zpow_le_zpow_right₀ (by norm_num) (by omega))
    have small : (2 : ℝ) ^ (-100 : Int) ≤ 1 := by norm_num
    refine rounds_near_one hmb hmb' rm neg ?_ ((abs_two_rpow_sub_one_lt (size.le.trans small) nonzero).trans_le ?_)
    · split
      case isTrue h => exact Real.rpow_lt_one_of_one_lt_of_neg (by norm_num) (sign.2 h)
      case isFalse h =>
        exact Real.one_lt_rpow (by norm_num) (lt_of_le_of_ne (not_lt.1 fun below => h (sign.1 below)) nonzero.symm)
    · refine (mul_le_mul_of_nonneg_left size.le (by norm_num)).trans ?_
      norm_num
  rw [if_neg near]
  by_cases far : 12 < (Nat.log2 m : Int) + e
  · rw [if_pos far]
    have size : (5000 : ℝ) ≤ |((real neg m e : ℚ) : ℝ)| := by
      refine le_trans ?_ ((zpow_le_zpow_right₀ (by norm_num) (show (13 : Int) ≤ Nat.log2 m + e by omega)).trans low)
      norm_num
    refine rounds_far_power hf hmb heb rm neg ?_
    split
    case isTrue h => rw [abs_of_neg (sign.2 h)] at size; linarith
    case isFalse h => rwa [abs_of_nonneg (not_lt.1 fun below => h (sign.1 below))] at size
  rw [if_neg far]
  by_cases whole : 0 ≤ e
  · rw [if_pos whole]
    have value := real_atExp neg m whole
    rw [zpow_zero, mul_one] at value
    rw [value, Rat.cast_intCast]
    exact rounds_two_zpow hmb rm _
  rw [if_neg whole, real_eq_div neg m (by omega)]
  by_cases exact_ : ((if neg then -(m : Int) else m) % 2 ^ (-e).toNat).toNat = 0
  · rw [if_pos exact_, two_rpow_split, exact_]
    simpa [Real.rpow_intCast] using rounds_two_zpow (f := f) hmb rm ((if neg then -(m : Int) else m) / 2 ^ (-e).toNat)
  rw [if_neg exact_]
  refine exp2Try_rounds (fun p hp r h => exp2Frac_rounds hmb hmb' exact_ hp h) le_rfl ?_
  rcases settled with ⟨i, hi⟩ | h | h | found
  · refine absurd ?_ exact_
    have value := real_eq_div neg m (e := e) (by omega)
    rw [hi, Rat.cast_intCast, eq_div_iff (by positivity)] at value
    have multiple : i * 2 ^ (-e).toNat = if neg then -(m : Int) else m := by exact_mod_cast value
    rw [← multiple, Int.mul_emod_left]
    rfl
  · exact absurd h near
  · exact absurd h far
  · exact found

end

end Sys2Proof.Machine
end

section
/-! SUPPORT. VFLOG2 (R110, R111): the bits of a logarithm by squaring, and their enclosure. -/
namespace Sys2Proof.Machine

/-! ## Logarithms to base 2 -/

/-- log2 1 + x for a small x lies between x and 2 x. -/
theorem logb_one_add_le {x : ℝ} (h : 0 ≤ x) : Real.logb 2 (1 + x) ≤ 2 * x := by
  have half := Real.log_two_gt_d9
  rw [Real.logb, div_le_iff₀ (by linarith)]
  have := Real.log_le_sub_one_of_pos (show 0 < 1 + x by linarith)
  nlinarith

theorem le_logb_one_add {x : ℝ} (h0 : 0 ≤ x) (h1 : x ≤ 1) : x ≤ Real.logb 2 (1 + x) := by
  rw [Real.le_logb_iff_rpow_le (by norm_num) (by linarith)]
  have := rpow_one_add_le_one_add_mul_self (s := 1) (by norm_num) h0 h1
  norm_num at this
  exact this

theorem logb_one_sub_le {x : ℝ} (h0 : 0 ≤ x) (h1 : x < 1) : Real.logb 2 (1 - x) ≤ -x := by
  have pos : 0 < Real.log 2 := Real.log_pos (by norm_num)
  have le_one := Real.log_two_lt_d9
  rw [Real.logb, div_le_iff₀ pos]
  have := Real.log_le_sub_one_of_pos (show 0 < 1 - x by linarith)
  nlinarith

/-- The logarithm that the squaring takes on: that of Y / 2^w. -/
noncomputable def fracLog (w Y : Nat) : ℝ := Real.logb 2 ((Y : ℝ) / 2 ^ w)

section
variable {w Y : Nat}

theorem fracLog_range (low : 2 ^ w ≤ Y) (high : Y < 2 ^ (w + 1)) : 0 ≤ fracLog w Y ∧ fracLog w Y < 1 := by
  have unit : (0 : ℝ) < 2 ^ w := by positivity
  have low' : (2 : ℝ) ^ w ≤ Y := by exact_mod_cast low
  have high' : (Y : ℝ) < 2 ^ (w + 1) := by exact_mod_cast high
  rw [pow_succ] at high'
  constructor
  · exact Real.logb_nonneg (by norm_num) ((one_le_div unit).2 low')
  · rw [fracLog, Real.logb_lt_iff_lt_rpow (by norm_num) (div_pos (by linarith) unit), Real.rpow_one, div_lt_iff₀ unit]
    linarith

/-- A square cut to the last place: at most 2 / 2^w of the logarithm is lost. -/
theorem fracLog_square (low : 2 ^ w ≤ Y) {s Z : Nat} (le : Z * 2 ^ (w + s) ≤ Y * Y) (lt : Y * Y < (Z + 1) * 2 ^ (w + s)) (unit : 2 ^ w ≤ Z) :
    s + fracLog w Z ≤ 2 * fracLog w Y ∧ 2 * fracLog w Y ≤ s + fracLog w Z + 2 / 2 ^ w := by
  have power : (0 : ℝ) < 2 ^ w := by positivity
  have unit' : (2 : ℝ) ^ w ≤ Z := by exact_mod_cast unit
  have Z_pos : (0 : ℝ) < Z := by linarith
  have Y_pos : (0 : ℝ) < Y := power.trans_le (by exact_mod_cast low)
  have le' : (Z * 2 ^ (w + s) : ℝ) ≤ Y * Y := by exact_mod_cast le
  have lt' : (Y * Y : ℝ) < (Z + 1) * 2 ^ (w + s) := by exact_mod_cast lt
  have double : 2 * fracLog w Y = Real.logb 2 (Y * Y / (2 ^ w * 2 ^ w)) := by
    rw [fracLog, two_mul, ← Real.logb_mul (by positivity) (by positivity), div_mul_div_comm]
  have shifted (t : ℝ) (ht : 0 < t) : s + Real.logb 2 (t / 2 ^ w) = Real.logb 2 (t * 2 ^ (w + s) / (2 ^ w * 2 ^ w)) := by
    have pow_log : (s : ℝ) = Real.logb 2 (2 ^ s) := by rw [Real.logb_pow, Real.logb_self_eq_one (by norm_num), mul_one]
    rw [pow_log, ← Real.logb_mul (by positivity) (by positivity)]
    congr 1
    rw [pow_add]
    field_simp
  rw [double, fracLog, shifted _ Z_pos]
  constructor
  · exact Real.logb_le_logb_of_le (by norm_num) (by positivity) (div_le_div_of_nonneg_right le' (by positivity))
  · have next_ : Real.logb 2 (((Z : ℝ) + 1) * 2 ^ (w + s) / (2 ^ w * 2 ^ w)) =
        Real.logb 2 ((Z : ℝ) * 2 ^ (w + s) / (2 ^ w * 2 ^ w)) + Real.logb 2 (1 + 1 / Z) := by
      rw [← Real.logb_mul (by positivity) (by positivity)]
      congr 1
      field_simp
    have lost : Real.logb 2 (1 + 1 / Z) ≤ 2 / 2 ^ w := by
      refine (logb_one_add_le (by positivity)).trans ?_
      rw [mul_one_div]
      exact div_le_div_of_nonneg_left (by norm_num) power unit'
    refine (Real.logb_le_logb_of_le (by norm_num) (by positivity) (div_le_div_of_nonneg_right lt'.le (by positivity))).trans ?_
    rw [next_]
    linarith

/-- The bits of a logarithm by squaring: what remains, and what is lost. -/
theorem log2Bits_bounds (k : Nat) {acc : Nat} (low : 2 ^ w ≤ Y) (high : Y < 2 ^ (w + 1)) :
    ∃ Z, 2 ^ w ≤ Z ∧ Z < 2 ^ (w + 1) ∧ (log2Bits w k Y acc : ℝ) + fracLog w Z ≤ 2 ^ k * (acc + fracLog w Y) ∧
      2 ^ k * (acc + fracLog w Y) ≤ log2Bits w k Y acc + fracLog w Z + (2 ^ k - 1) * (2 / 2 ^ w) := by
  induction k generalizing Y acc with
  | zero => exact ⟨Y, low, high, by simp [log2Bits], by simp [log2Bits]⟩
  | succ k ih =>
    have square_low : 2 ^ w * 2 ^ w ≤ Y * Y := Nat.mul_le_mul low low
    have square_high : Y * Y < 2 ^ (w + 1) * 2 ^ (w + 1) := Nat.mul_lt_mul'' high high
    have power := Nat.two_pow_pos w
    obtain ⟨s, Z, s_le, step, unit, top, le, lt⟩ : ∃ s Z, s ≤ 1 ∧ log2Bits w (k + 1) Y acc = log2Bits w k Z (2 * acc + s) ∧
        2 ^ w ≤ Z ∧ Z < 2 ^ (w + 1) ∧ Z * 2 ^ (w + s) ≤ Y * Y ∧ Y * Y < (Z + 1) * 2 ^ (w + s) := by
      rw [log2Bits]
      by_cases carry : 2 ^ (w + 1) ≤ Y * Y / 2 ^ w
      · have halved : Y * Y / 2 ^ w / 2 = Y * Y / 2 ^ (w + 1) := by rw [Nat.div_div_eq_div_mul, pow_succ]
        refine ⟨1, Y * Y / 2 ^ (w + 1), le_rfl, by rw [if_pos carry, halved], ?_, ?_, Nat.div_mul_le_self .., ?_⟩
        · rw [← halved, Nat.le_div_iff_mul_le (by decide), ← pow_succ]
          exact carry
        · exact Nat.div_lt_of_lt_mul square_high
        · exact Nat.lt_mul_of_div_lt (Nat.lt_succ_self _) (Nat.two_pow_pos _)
      · refine ⟨0, Y * Y / 2 ^ w, by decide, by rw [if_neg carry]; rfl, ?_, by omega, Nat.div_mul_le_self .., ?_⟩
        · exact (Nat.le_div_iff_mul_le power).2 square_low
        · exact Nat.lt_mul_of_div_lt (Nat.lt_succ_self _) (Nat.two_pow_pos _)
    obtain ⟨below, above⟩ := fracLog_square low le lt unit
    obtain ⟨R, R_low, R_high, lower, upper⟩ := ih (acc := 2 * acc + s) unit top
    have power_pos : (0 : ℝ) < 2 ^ k := by positivity
    push_cast at lower upper
    refine ⟨R, R_low, R_high, ?_, ?_⟩
    · rw [step, pow_succ]
      nlinarith
    · rw [step, pow_succ]
      nlinarith

theorem log2Bits_lt (k : Nat) {acc : Nat} (low : 2 ^ w ≤ Y) (high : Y < 2 ^ (w + 1)) : (log2Bits w k Y acc : ℝ) < 2 ^ k * (acc + 1) := by
  obtain ⟨Z, Z_low, Z_high, lower, -⟩ := log2Bits_bounds k (acc := acc) low high
  have here := (fracLog_range low high).2
  have there := (fracLog_range Z_low Z_high).1
  have power_pos : (0 : ℝ) < 2 ^ k := by positivity
  nlinarith

end

end Sys2Proof.Machine
end

section
/-! SUPPORT. VFLOG2 by its cases (R110, R111). -/
namespace Sys2Proof.Machine

theorem irrational_logb {m : Nat} (hm : m ≠ 0) (h : m ≠ 2 ^ Nat.log2 m) : Irrational (Real.logb 2 m) := by
  rintro ⟨q, hq⟩
  have m_pos : (0 : ℝ) < m := by exact_mod_cast Nat.pos_of_ne_zero hm
  have nonneg : 0 ≤ q := by
    have : (0 : ℝ) ≤ q := by
      rw [hq]
      exact Real.logb_nonneg (by norm_num) (by exact_mod_cast Nat.one_le_iff_ne_zero.2 hm)
    exact_mod_cast this
  have value : (2 : ℝ) ^ (q : ℝ) = m := by rw [hq]; exact Real.rpow_logb (by norm_num) (by norm_num) m_pos
  have num_eq : (q : ℝ) * (q.den : ℝ) = (q.num.toNat : ℝ) := by
    have toNat : ((q.num.toNat : Nat) : Int) = q.num := Int.toNat_of_nonneg (Rat.num_nonneg.2 nonneg)
    have : (q * q.den : ℚ) = q.num := Rat.mul_den_eq_num q
    rw [← toNat] at this
    exact_mod_cast congrArg (Rat.cast : ℚ → ℝ) this
  have powers : m ^ q.den = 2 ^ q.num.toNat := by
    have real_ : (m : ℝ) ^ q.den = 2 ^ q.num.toNat := by
      rw [← value, ← Real.rpow_mul_natCast (by norm_num), num_eq, Real.rpow_natCast]
    exact_mod_cast real_
  obtain ⟨i, -, hi⟩ := (Nat.dvd_prime_pow Nat.prime_two).1 (powers ▸ dvd_pow_self m q.den_ne_zero)
  exact h (by rw [hi, Nat.log2_two_pow])

section
variable {m : Nat} {e : Int}

/-- The logarithm of a number, by its top bit and what follows it. -/
theorem logb_real (hm : m ≠ 0) (e : Int) : Real.logb 2 (real false m e : ℚ) = e + Real.logb 2 m := by
  have m_pos : (0 : ℝ) < m := by exact_mod_cast Nat.pos_of_ne_zero hm
  rw [real_false, Real.logb_mul m_pos.ne' (by positivity), ← Real.rpow_intCast, Real.logb_rpow (by norm_num) (by norm_num), add_comm]

theorem fracLog_eq (hm : m ≠ 0) (t s : Nat) : fracLog (s + t) (m * 2 ^ s) = Real.logb 2 m - t := by
  have m_pos : (0 : ℝ) < m := by exact_mod_cast Nat.pos_of_ne_zero hm
  have cancel : ((m * 2 ^ s : Nat) : ℝ) / 2 ^ (s + t) = m / 2 ^ t := by
    push_cast
    rw [pow_add]
    field_simp
  rw [fracLog, cancel, Real.logb_div m_pos.ne' (by positivity), Real.logb_pow, Real.logb_self_eq_one (by norm_num), mul_one]

/-- The logarithm in fixed point that the model takes. -/
def logFixed (n : Int) (m t p : Nat) : Int := n * 2 ^ p + log2Bits (p + 60 + t) p (m * 2 ^ (p + 60)) 0

theorem squaring_loss_le {p w : Nat} (h : p + 1 ≤ w) : ((2 : ℝ) ^ p - 1) * (2 / 2 ^ w) ≤ 1 := by
  have wider : (2 : ℝ) ^ (p + 1) ≤ 2 ^ w := pow_le_pow_right₀ (by norm_num) h
  rw [mul_div_assoc', div_le_one (by positivity)]
  rw [pow_succ] at wider
  linarith

theorem logFixed_bounds (hm : m ≠ 0) (e : Int) (p : Nat) :
    (logFixed (e + Nat.log2 m) m (Nat.log2 m) p : ℝ) ≤ 2 ^ p * Real.logb 2 (real false m e : ℚ) ∧
    2 ^ p * Real.logb 2 (real false m e : ℚ) < logFixed (e + Nat.log2 m) m (Nat.log2 m) p + 2 := by
  have low : 2 ^ (p + 60 + Nat.log2 m) ≤ m * 2 ^ (p + 60) := by
    rw [Nat.add_comm, pow_add]
    exact Nat.mul_le_mul_right _ (Nat.log2_self_le hm)
  have high : m * 2 ^ (p + 60) < 2 ^ (p + 60 + Nat.log2 m + 1) := by
    calc m * 2 ^ (p + 60) < 2 ^ (Nat.log2 m + 1) * 2 ^ (p + 60) := Nat.mul_lt_mul_of_pos_right Nat.lt_log2_self (Nat.two_pow_pos _)
      _ = 2 ^ (p + 60 + Nat.log2 m + 1) := by rw [← pow_add]; congr 1; omega
  obtain ⟨Z, Z_low, Z_high, lower, upper⟩ := log2Bits_bounds p (acc := 0) low high
  obtain ⟨rest_low, rest_high⟩ := fracLog_range Z_low Z_high
  have value := fracLog_eq hm (Nat.log2 m) (p + 60)
  have lost := squaring_loss_le (p := p) (w := p + 60 + Nat.log2 m) (by omega)
  rw [value] at lower upper
  rw [logb_real hm, logFixed]
  generalize log2Bits (p + 60 + Nat.log2 m) p (m * 2 ^ (p + 60)) 0 = bits at *
  push_cast at lower upper ⊢
  constructor <;> linarith

/-- A logarithm is far from 0 where the number is none of the powers of two. -/
theorem logb_far (hm : m ≠ 0) (h : m ≠ 2 ^ Nat.log2 m) (e : Int) :
    (0 ≤ e + Nat.log2 m → 1 / 2 ^ (Nat.log2 m + 1) ≤ Real.logb 2 (real false m e : ℚ)) ∧
    (e + Nat.log2 m < 0 → Real.logb 2 (real false m e : ℚ) ≤ -(1 / 2 ^ (Nat.log2 m + 1))) := by
  have m_pos : (0 : ℝ) < m := by exact_mod_cast Nat.pos_of_ne_zero hm
  have low := Nat.log2_self_le hm
  have high := Nat.lt_log2_self (n := m)
  rw [logb_real hm]
  generalize Nat.log2 m = t at *
  have power : (0 : ℝ) < 2 ^ t := by positivity
  have base (s : Nat) : Real.logb 2 m = s + Real.logb 2 (m / 2 ^ s) := by
    rw [Real.logb_div m_pos.ne' (by positivity), Real.logb_pow, Real.logb_self_eq_one (by norm_num)]
    ring
  constructor
  · intro nonneg
    have nonneg' : (0 : ℝ) ≤ e + t := by exact_mod_cast nonneg
    have next_ : (2 : ℝ) ^ t + 1 ≤ m := by exact_mod_cast (by omega : 2 ^ t + 1 ≤ m)
    have unit_le : (1 : ℝ) ≤ 2 ^ t := one_le_pow₀ (by norm_num)
    have step : Real.logb 2 (1 + 1 / 2 ^ t) ≤ Real.logb 2 (m / 2 ^ t) := by
      refine Real.logb_le_logb_of_le (by norm_num) (by positivity) ?_
      rw [le_div_iff₀ power, add_mul, one_div_mul_cancel power.ne']
      linarith
    have far := le_logb_one_add (x := 1 / 2 ^ t) (by positivity) ((div_le_one power).2 unit_le)
    have half : (1 : ℝ) / 2 ^ (t + 1) ≤ 1 / 2 ^ t :=
      one_div_le_one_div_of_le power (pow_le_pow_right₀ (by norm_num) (Nat.le_succ t))
    rw [base t]
    linarith
  · intro negative
    have negative' : (e : ℝ) + (t + 1 : Nat) ≤ 0 := by exact_mod_cast (by omega : e + (t + 1 : Nat) ≤ 0)
    have next_ : (m : ℝ) + 1 ≤ 2 ^ (t + 1) := by exact_mod_cast (by omega : m + 1 ≤ 2 ^ (t + 1))
    have power' : (0 : ℝ) < 2 ^ (t + 1) := by positivity
    have step : Real.logb 2 (m / 2 ^ (t + 1)) ≤ Real.logb 2 (1 - 1 / 2 ^ (t + 1)) := by
      refine Real.logb_le_logb_of_le (by norm_num) (by positivity) ?_
      rw [div_le_iff₀ power', sub_mul, one_div_mul_cancel power'.ne']
      linarith
    have far := logb_one_sub_le (x := 1 / 2 ^ (t + 1)) (by positivity)
      ((div_lt_one power').2 (one_lt_pow₀ (by norm_num) (by omega)))
    rw [base (t + 1)]
    linarith

/-! ## The enclosure -/

variable {f : FFmt} {rm : Rm}

/-- The enclosure of a logarithm at precision p. -/
def logEnclosed (f : FFmt) (rm : Rm) (n : Int) (m t p : Nat) : Option (Nat × Nat) :=
  roundEnclosed f rm (decide (logFixed n m t p < 0))
    (if logFixed n m t p < 0 then (logFixed n m t p + 3).natAbs else (logFixed n m t p).natAbs) 3 (-p)

/-- One precision of VFLOG2, and what is done where it does not decide. -/
def logStep (f : FFmt) (rm : Rm) (n : Int) (m t k : Nat) (rest : Bool → Nat → Nat × Nat) : Nat × Nat :=
  let w := k + 60 + t
  let v : Int := n * 2 ^ k + log2Bits w k (m * 2 ^ (w - t)) 0
  let (neg, lo) := if v < 0 then (true, (v + 3).natAbs) else (false, v.natAbs)
  match roundEnclosed f rm neg lo 3 (-k) with
  | some r => r
  | none => rest neg lo

theorem log2Try_zero (f : FFmt) (rm : Rm) (n : Int) (m t k : Nat) :
    log2Try f rm n m t 0 k = logStep f rm n m t k (fun neg lo => f.round rm (.fin neg (2 * lo + 1) (-k - 1))) := by
  delta log2Try logStep
  rfl

theorem log2Try_succ (f : FFmt) (rm : Rm) (n : Int) (m t fuel k : Nat) :
    log2Try f rm n m t (fuel + 1) k = logStep f rm n m t k (fun _ _ => log2Try f rm n m t fuel (2 * k)) := by
  delta log2Try logStep
  rfl

theorem logStep_eq (n : Int) (m t k : Nat) (rest : Bool → Nat → Nat × Nat) :
    (∀ r, logEnclosed f rm n m t k = some r → logStep f rm n m t k rest = r) ∧
    (logEnclosed f rm n m t k = none → ∃ neg lo, logStep f rm n m t k rest = rest neg lo) := by
  have fixed : n * 2 ^ k + (log2Bits (k + 60 + t) k (m * 2 ^ (k + 60 + t - t)) 0 : Int) = logFixed n m t k := by
    rw [Nat.add_sub_cancel, logFixed]
  delta logStep
  simp only [logEnclosed, fixed]
  generalize logFixed n m t k = v
  by_cases negative : v < 0
  · simp only [if_pos negative, decide_eq_true negative]
    exact ⟨fun r h => by rw [h], fun h => ⟨_, _, by rw [h]⟩⟩
  · simp only [if_neg negative, decide_eq_false negative]
    exact ⟨fun r h => by rw [h], fun h => ⟨_, _, by rw [h]⟩⟩

theorem log2Try_found {n : Int} {t k : Nat} {r : Nat × Nat} (h : logEnclosed f rm n m t k = some r) (fuel : Nat) :
    log2Try f rm n m t fuel k = r := by
  cases fuel with
  | zero => rw [log2Try_zero]; exact (logStep_eq n m t k _).1 r h
  | succ fuel => rw [log2Try_succ]; exact (logStep_eq n m t k _).1 r h

theorem log2Try_next {n : Int} {t k : Nat} (h : logEnclosed f rm n m t k = none) (fuel : Nat) :
    log2Try f rm n m t (fuel + 1) k = log2Try f rm n m t fuel (2 * k) := by
  obtain ⟨neg, lo, next_⟩ := (logStep_eq n m t k (fun _ _ => log2Try f rm n m t fuel (2 * k))).2 h
  rw [log2Try_succ, next_]

theorem log2Try_rounds {n : Int} {t : Nat} {Q : Nat × Nat → Prop}
    (good : ∀ p, 320 ≤ p → ∀ r, logEnclosed f rm n m t p = some r → Q r) {fuel p : Nat} (hp : 320 ≤ p)
    (found : ∃ i, i < fuel + 1 ∧ (logEnclosed f rm n m t (p * 2 ^ i)).isSome = true) : Q (log2Try f rm n m t fuel p) := by
  induction fuel generalizing p with
  | zero =>
    obtain ⟨i, hi, some_⟩ := found
    obtain rfl : i = 0 := by omega
    rw [pow_zero, mul_one] at some_
    obtain ⟨r, h⟩ := Option.isSome_iff_exists.1 some_
    rw [log2Try_found h]
    exact good p hp r h
  | succ fuel ih =>
    cases h : logEnclosed f rm n m t p with
    | some r =>
      rw [log2Try_found h]
      exact good p hp r h
    | none =>
      rw [log2Try_next h]
      refine ih (by omega) ?_
      obtain ⟨i, hi, some_⟩ := found
      cases i with
      | zero => simp [h] at some_
      | succ i =>
        have later : 2 * p * 2 ^ i = p * 2 ^ (i + 1) := by ring
        exact ⟨i, by omega, later ▸ some_⟩

theorem logb_neg_iff (hm : m ≠ 0) (e : Int) : Real.logb 2 (real false m e : ℚ) < 0 ↔ real false m e < 1 := by
  have pos : (0 : ℝ) < (real false m e : ℚ) := by exact_mod_cast real_pos e hm
  rw [Real.logb_neg_iff (by norm_num) pos]
  exact_mod_cast Iff.rfl

theorem logEnclosed_rounds (hmb : 1 ≤ f.mb) (hmb' : f.mb ≤ 52) (hm : m ≠ 0) (small : m < 2 ^ 53) (h : m ≠ 2 ^ Nat.log2 m) {p : Nat}
    (hp : 320 ≤ p) {r : Nat × Nat} (found : logEnclosed f rm (e + Nat.log2 m) m (Nat.log2 m) p = some r) :
    f.Rounds rm (decide (real false m e < 1)) |Real.logb 2 (real false m e : ℚ)| r := by
  obtain ⟨low, high⟩ := logFixed_bounds hm e p
  obtain ⟨above, below⟩ := logb_far hm h e
  have irrational : Irrational |Real.logb 2 (real false m e : ℚ)| := by
    have base : Irrational (Real.logb 2 (real false m e : ℚ)) := by
      rw [logb_real hm]
      exact (irrational_logb hm h).intCast_add e
    rcases abs_choice (Real.logb 2 (real false m e : ℚ)) with same | flipped
    · rwa [same]
    · rw [flipped]; exact base.neg
  have sign := logb_neg_iff hm e
  rw [logEnclosed] at found
  generalize logFixed (e + Nat.log2 m) m (Nat.log2 m) p = v at *
  generalize Real.logb 2 (real false m e : ℚ) = L at *
  have top : Nat.log2 m ≤ 52 := Nat.lt_succ_iff.1 ((Nat.log2_lt hm).2 small)
  have power : (0 : ℝ) < 2 ^ p := by positivity
  have far : (2 : ℝ) ^ 60 ≤ 2 ^ p * (1 / 2 ^ (Nat.log2 m + 1)) := by
    rw [mul_one_div, le_div_iff₀ (by positivity), ← pow_add]
    exact pow_le_pow_right₀ (by norm_num) (by omega)
  have scale (z : ℝ) : z * 2 ^ (-(p : Int)) = z / 2 ^ p := by rw [zpow_neg, zpow_natCast, div_eq_mul_inv]
  have wide : 2 ^ (f.mb + 2) ≤ 2 ^ 54 := Nat.pow_le_pow_right (by decide) (by omega)
  by_cases negative : e + Nat.log2 m < 0
  · have L_le := mul_le_mul_of_nonneg_left (below negative) power.le
    have L_neg : L < 0 := by
      have : (0 : ℝ) < 2 ^ p * (1 / 2 ^ (Nat.log2 m + 1)) := by positivity
      nlinarith
    have v_le : v ≤ -2 ^ 60 := by
      have : (v : ℝ) ≤ -2 ^ 60 := by linarith
      exact_mod_cast this
    have v_neg : v < 0 := by omega
    rw [decide_eq_true v_neg, if_pos v_neg] at found
    rw [decide_eq_true (sign.1 L_neg), abs_of_neg L_neg] at *
    have lo_eq : (((v + 3).natAbs : Nat) : ℝ) = -v - 3 := by
      rw [Nat.cast_natAbs, abs_of_neg (by omega)]
      push_cast
      ring
    refine FFmt.rounds_of_enclosed hmb found (by omega) irrational ?_ ?_
    · rw [scale, lo_eq, div_le_iff₀ power]
      linarith
    · rw [scale, lo_eq, lt_div_iff₀ power]
      push_cast
      linarith
  · have L_ge := mul_le_mul_of_nonneg_left (above (by omega)) power.le
    have L_pos : 0 < L := lt_of_lt_of_le (by positivity) (above (by omega))
    have v_ge : 2 ^ 60 - 2 ≤ v := by
      have : (2 : ℝ) ^ 60 - 2 ≤ v := by linarith
      exact_mod_cast this
    have v_nonneg : ¬ v < 0 := by omega
    rw [decide_eq_false v_nonneg, if_neg v_nonneg] at found
    rw [decide_eq_false fun lt => (sign.2 lt).not_gt L_pos, abs_of_pos L_pos] at *
    have lo_eq : ((v.natAbs : Nat) : ℝ) = v := by
      rw [Nat.cast_natAbs, abs_of_nonneg (by omega)]
    refine FFmt.rounds_of_enclosed hmb found (by omega) irrational ?_ ?_
    · rw [scale, lo_eq, div_le_iff₀ power]
      linarith
    · rw [scale, lo_eq, lt_div_iff₀ power]
      push_cast
      linarith

end

end Sys2Proof.Machine
end

section
/-! O24. VFEXP2 and VFLOG2 (R110, R111, R136). -/
namespace Sys2Proof.Machine

section
variable {f : FFmt} {rm : Rm} {m : Nat} {e : Int}

/-- The logarithm of a power of two. -/
theorem logb_real_two_pow (t : Nat) (e : Int) : Real.logb 2 (real false (2 ^ t) e : ℚ) = ((e + t : Int) : ℝ) := by
  rw [logb_real (Nat.two_pow_pos t).ne']
  push_cast
  rw [Real.logb_pow, Real.logb_self_eq_one (by norm_num), mul_one]

/-- A number that is a power of two has only its top bit. -/
theorem eq_two_pow_of_real (hm : m ≠ 0) {i : Int} (h : real false m e = 2 ^ i) : m = 2 ^ Nat.log2 m := by
  by_contra other
  refine (irrational_logb hm other) ⟨((i - e : Int) : ℚ), ?_⟩
  have log := logb_real hm e
  rw [h, Rat.cast_zpow, Rat.cast_ofNat, ← Real.rpow_intCast, Real.logb_rpow (by norm_num) (by norm_num)] at log
  push_cast
  linarith

theorem fLog2_pos (f : FFmt) (rm : Rm) (e : Int) (hm : m ≠ 0) : fLog2 f rm (.fin false m e) =
    if m = 2 ^ Nat.log2 m then f.round rm (numOfInt (e + Nat.log2 m)) else log2Try f rm (e + Nat.log2 m) m (Nat.log2 m) 3 320 := by
  simp only [fLog2, if_neg hm, Bool.false_eq_true, if_false]

/-- The logarithm of 1 is 0, exactly. -/
theorem fLog2_one (f : FFmt) (rm : Rm) {neg : Bool} (h : real neg m e = 1) : fLog2 f rm (.fin neg m e) = (0, 0) := by
  have hm : m ≠ 0 := by
    rintro rfl
    simp [real] at h
  obtain rfl : neg = false := by
    cases neg with
    | false => rfl
    | true =>
      have := real_pos e hm
      rw [real_signed, if_pos rfl] at h
      linarith
  have power := eq_two_pow_of_real (i := 0) hm (by rw [h, zpow_zero])
  have exponent : e + (Nat.log2 m : Int) = 0 := by
    have log := logb_real_two_pow (Nat.log2 m) e
    rw [← power, h, Rat.cast_one, Real.logb_one] at log
    exact_mod_cast log.symm
  rw [fLog2_pos f rm e hm, if_pos power, exponent]
  rfl

/-- VFLOG2 of a positive number but 1 (R110, R111), where an enclosure decides if one is needed. -/
theorem fLog2_rounds (hmb : 1 ≤ f.mb) (hmb' : f.mb ≤ 52) (hm : m ≠ 0) (small : m < 2 ^ 53) (h1 : real false m e ≠ 1)
    (settled : (∃ i : Int, real false m e = 2 ^ i) ∨
      ∃ i, i < 4 ∧ (logEnclosed f rm (e + Nat.log2 m) m (Nat.log2 m) (320 * 2 ^ i)).isSome = true) :
    f.Rounds rm (decide (real false m e < 1)) |Real.logb 2 (real false m e : ℚ)| (fLog2 f rm (.fin false m e)) := by
  rw [fLog2_pos f rm e hm]
  by_cases power : m = 2 ^ Nat.log2 m
  · rw [if_pos power]
    have log := logb_real_two_pow (Nat.log2 m) e
    rw [← power] at log
    have sign := logb_neg_iff hm e
    rw [log] at sign ⊢
    generalize e + (Nat.log2 m : Int) = n at *
    have negative : n < 0 ↔ real false m e < 1 := by rw [← sign]; exact_mod_cast Iff.rfl
    have nonzero : n.natAbs ≠ 0 := by
      intro zero
      obtain rfl : n = 0 := Int.natAbs_eq_zero.1 zero
      have positive : (0 : ℝ) < (real false m e : ℚ) := by exact_mod_cast real_pos e hm
      rw [Int.cast_zero, Real.logb_eq_zero] at log
      rcases log with h | h | h | h | h | h
      · norm_num at h
      · norm_num at h
      · norm_num at h
      · exact positive.ne' h
      · exact h1 (by exact_mod_cast h)
      · linarith
    have exact_ : ((real false n.natAbs 0 : ℚ) : ℝ) = |(n : ℝ)| := by
      rw [real_false, zpow_zero, mul_one, Nat.cast_natAbs, Int.cast_abs]
    have rounds := f.round_rounds hmb rm (decide (real false m e < 1)) nonzero
      (Agrees.refl (-f.mb - 1) ((real false n.natAbs 0 : ℚ) : ℝ)) (by omega)
    rw [exact_] at rounds
    rwa [numOfInt, decide_eq_decide.2 negative]
  · rw [if_neg power]
    refine log2Try_rounds (fun p hp r h => logEnclosed_rounds hmb hmb' hm small power hp h) le_rfl ?_
    rcases settled with ⟨i, hi⟩ | found
    · exact absurd (eq_two_pow_of_real hm hi) power
    · exact found

/-- A number of a format has no more than 53 bits. -/
theorem FFmt.decode_fin_lt {neg : Bool} {b : Nat} (hmb' : f.mb ≤ 52) (h : f.decode b = .fin neg m e) : m < 2 ^ 53 := by
  have frac : b % 2 ^ f.mb < 2 ^ f.mb := Nat.mod_lt _ (Nat.two_pow_pos _)
  have wide : 2 ^ f.mb ≤ 2 ^ 52 := Nat.pow_le_pow_right (by decide) hmb'
  simp only [decode] at h
  split_ifs at h <;> cases h <;> omega

end

/-- One of four precisions, each the double of the one before. -/
theorem doubled_of_mem {P : Nat → Prop} {p : Nat} (h : ∃ q ∈ [p, 2 * p, 4 * p, 8 * p], P q) : ∃ i, i < 4 ∧ P (p * 2 ^ i) := by
  obtain ⟨q, mem, hq⟩ := h
  simp only [List.mem_cons, List.not_mem_nil, or_false] at mem
  rcases mem with rfl | rfl | rfl | rfl
  · exact ⟨0, by decide, by simpa using hq⟩
  · exact ⟨1, by decide, by rwa [pow_one, Nat.mul_comm]⟩
  · exact ⟨2, by decide, by rwa [Nat.mul_comm]⟩
  · exact ⟨3, by decide, by rwa [Nat.mul_comm]⟩

/-- Settles O24: an enclosure that decides holds the power or the logarithm, which is irrational where one is needed; the other values
are exact, near 1 or far out. -/
theorem exponentialAndLogarithmValues : Obligations.ExponentialAndLogarithmValues := by
  intro f rm b hf hrm hb x inf
  have lanes : f ∈ [fp4, fp6a, fp6b, fp8a, fp8b, fp16, bf16, fp32, fp64] ∧ f.special = .ieee := by
    simp only [List.mem_cons, List.not_mem_nil, or_false] at hf
    rcases hf with rfl | rfl | rfl | rfl <;> decide
  obtain ⟨mem, ieee⟩ := lanes
  obtain ⟨hmb, hmb', heb⟩ := format_bounds mem
  have quiet : f.qnan = inf + 2 ^ (f.mb - 1) := by
    simp only [inf, FFmt.qnan, ieee, f.maxBits_ieee heb ieee]
  have infinite (neg : Bool) : f.round rm (.inf neg) = (f.signed neg inf, 0) := by rw [f.round_inf rm neg heb, if_pos ieee]
  have plain (n : Nat) : f.signed false n = n := Nat.zero_add n
  refine ⟨fun neg sig frac hx => ?_, fun hx => ?_, fun hx => ?_, fun neg m e hx => ?_⟩
  · rw [hx]
    exact ⟨rfl, rfl⟩
  · rw [hx]
    refine ⟨?_, by simp only [fLog2, if_true, quiet]; rfl⟩
    simp only [fExp2, if_true, f.round_zero, plain]
  · rw [hx]
    simp only [fExp2, fLog2, Bool.false_eq_true, if_false, infinite, plain, and_self]
  · have small := FFmt.decode_fin_lt hmb' hx
    intro y top k v decided
    rw [hx]
    refine ⟨fun settled => ?_, ?_, ?_, fun one => fLog2_one f rm one, ?_⟩
    · refine fExp2_rounds hf hmb hmb' heb neg m e (settled.imp_right (Or.imp_right (Or.imp_right fun h => ?_)))
      exact doubled_of_mem (p := 256) h
    · rintro rfl
      simp only [fLog2, if_true, infinite]
      rfl
    · intro hm negative
      simp only [fLog2, if_neg hm, negative, if_true, quiet]
      rfl
    · rintro rfl hm h1 t found settled
      refine fLog2_rounds hmb hmb' hm small h1 (settled.imp_right fun h => ?_)
      exact doubled_of_mem (p := 320) h

end Sys2Proof.Machine
end

section
/-! PROOFS. Matrix commands and signature commands as they are performed, and the deliveries of the crossing unit (R144, R145, R213,
R245, R250 to R254, R402, R411, R412). -/
namespace Sys2Proof.Machine

/-! ## Tables -/

theorem find?_put_same {α : Type} (x : α) (n : Nat) (l : List (Nat × α)) : find? (put n x l) n = some x := by
  induction l with
  | nil => simp [put, find?]
  | cons e r ih =>
    obtain ⟨k, v⟩ := e
    rcases Nat.lt_trichotomy n k with lt | rfl | gt
    · simp [put, find?, lt]
    · simp [put, find?]
    · simp [put, find?, ih, Nat.lt_asymm gt, Nat.ne_of_gt gt, Nat.ne_of_lt gt]

/-- Entries of other keys do not hide those behind them. -/
theorem look_append_other {α : Type} (d : α) {l : List (Nat × α)} {n : Nat} (h : ∀ e ∈ l, e.1 ≠ n) (m : List (Nat × α)) :
    look d (l ++ m) n = look d m n := by
  induction l with
  | nil => rfl
  | cons e r ih =>
    obtain ⟨k, v⟩ := e
    have other : ¬ k = n := h (k, v) List.mem_cons_self
    simp only [List.cons_append, look, if_neg other]
    exact ih fun e he => h e (List.mem_cons_of_mem _ he)

theorem look_absent {α : Type} (d : α) {l : List (Nat × α)} {n : Nat} (h : ∀ e ∈ l, e.1 ≠ n) : look d l n = d := by
  rw [← List.append_nil l, look_append_other d h]
  rfl

/-! ## Tiles (R249) -/

/-- A list of elements without those that are +0, before entries of other keys, gives each element. -/
theorem look_listed (f : Nat → BitVec 32) (b i : Nat) {m : List (Nat × BitVec 32)} (hm : ∀ e ∈ m, e.1 ≠ b + i) (l : List Nat) :
    look 0#32 (l.filterMap (fun k => if f k = 0 then none else some (b + k, f k)) ++ m) (b + i) = if i ∈ l then f i else 0 := by
  induction l with
  | nil => exact look_absent 0#32 hm
  | cons k r ih =>
    by_cases zero : f k = 0
    · simp only [List.filterMap_cons, if_pos zero, ih]
      by_cases e : k = i
      · subst e
        simp [zero]
      · simp [Ne.symm e]
    · simp only [List.filterMap_cons, if_neg zero, List.cons_append, look, ih]
      by_cases e : k = i
      · subst e
        simp
      · simp [e, Ne.symm e]

/-- A tile that was written reads as what was written. -/
theorem accAt_setTile (x : Station) (t : Nat) (f : Nat → BitVec 32) {i : Nat} (hi : i < 8192) : (x.setTile t f).accAt t i = f i := by
  have below : ∀ e ∈ x.acc.filter (fun e => decide (e.1 < 8192 * t)), e.1 ≠ 8192 * t + i := fun e he => by
    have := of_decide_eq_true (List.mem_filter.1 he).2
    omega
  have above : ∀ e ∈ x.acc.filter (fun e => decide (8192 * t + 8192 ≤ e.1)), e.1 ≠ 8192 * t + i := fun e he => by
    have := of_decide_eq_true (List.mem_filter.1 he).2
    omega
  rw [Station.accAt, Station.setTile, List.append_assoc, look_append_other _ below, look_listed f _ _ above,
    if_pos (List.mem_range.2 hi)]

/-! ## The contexts' queues -/

@[simp] theorem mtx_setMtx (x : Station) (c1 : Bool) (q : List MtxCmd) : (x.setMtx c1 q).mtx c1 = q := by cases c1 <;> rfl
@[simp] theorem acc_setMtx (x : Station) (c1 : Bool) (q : List MtxCmd) : (x.setMtx c1 q).acc = x.acc := by cases c1 <;> rfl
@[simp] theorem cores_setMtx (x : Station) (c1 : Bool) (q : List MtxCmd) : (x.setMtx c1 q).cores = x.cores := by cases c1 <;> rfl
@[simp] theorem batch0_setMtx (x : Station) (c1 : Bool) (q : List MtxCmd) : (x.setMtx c1 q).batch0 = x.batch0 := by cases c1 <;> rfl
@[simp] theorem restoring_setMtx (x : Station) (c1 : Bool) (q : List MtxCmd) : (x.setMtx c1 q).restoring = x.restoring := by
  cases c1 <;> rfl
@[simp] theorem parkedBy_setMtx (x : Station) (c1 : Bool) (q : List MtxCmd) : (x.setMtx c1 q).parkedBy = x.parkedBy := by
  cases c1 <;> rfl
@[simp] theorem parking_setMtx (x : Station) (c1 : Bool) (q : List MtxCmd) : (x.setMtx c1 q).parking = x.parking := by
  cases c1 <;> rfl
@[simp] theorem mtx_setTile (x : Station) (t : Nat) (f : Nat → BitVec 32) (c1 : Bool) : (x.setTile t f).mtx c1 = x.mtx c1 := rfl
@[simp] theorem restoring_setTile (x : Station) (t : Nat) (f : Nat → BitVec 32) : (x.setTile t f).restoring = x.restoring := rfl

/-! ## Completion of a matrix command -/

/-- What a command that is complete leaves of a station, its holders and memory (R213, R252), where context 0 does not wait to be restored. -/
structure Completed (s t : State) (st : Nat) (c1 : Bool) : Prop where
  queue : (t.station st).mtx c1 = ((s.station st).mtx c1).tail
  acc : (t.station st).acc = (s.station st).acc
  batch : (t.station st).batch0 = (s.station st).batch0 ∨ (t.station st).batch0 = none
  parkedBy : (t.station st).parkedBy = (s.station st).parkedBy
  parking : (t.station st).parking = (s.station st).parking
  holder : ∀ w, t.holder w = s.holder w
  mem : t.mem = s.mem

/-- The command at the head leaves its queue. -/
theorem completed_tail (s : State) (st : Nat) (c1 : Bool) :
    Completed s (s.modStation st (fun x => x.setMtx c1 (x.mtx c1).tail)) st c1 := by
  constructor <;> simp [holder_modStation]

/-- The batch that waits to close is closed, or all stays. -/
theorem Completed.settle {s t : State} {st : Nat} {c1 : Bool} (h : Completed s t st c1) (hr : (t.station st).restoring = false) :
    Completed s (t.mtxSettle st) st c1 := by
  simp only [State.mtxSettle, hr, Bool.false_and, Bool.false_eq_true, if_false]
  split
  · have holders : ∀ w, (t.modStation st (fun y => { y with batch0 := none, closing0 := false })).holder w = t.holder w :=
      fun w => holder_modStation _ _ _ _ rfl
    refine ⟨?_, ?_, .inr ?_, ?_, ?_, fun w => (holders w).trans (h.holder w), h.mem⟩ <;> rw [station_modStation_same]
    · exact h.queue
    · exact h.acc
    · exact h.parkedBy
    · exact h.parking
  · exact h

theorem Completed.mtxLater {s t : State} {st : Nat} {c1 : Bool} (h : Completed s t st c1) : Completed s (t.mtxLater st c1) st c1 :=
  ⟨h.queue, h.acc, h.batch, h.parkedBy, h.parking, h.holder, h.mem⟩

theorem mtxDone_completed (s : State) (st : Nat) (c1 : Bool) (hr : (s.station st).restoring = false) :
    Completed s (s.mtxDone st c1) st c1 := by
  have settled := (completed_tail s st c1).settle (by simp [hr])
  unfold State.mtxDone
  dsimp only
  split
  · exact settled
  · exact settled.mtxLater

/-! ## When a command goes on (R213, R242, R246) -/

/-- A command goes on once its stores are performed and no closed bank holds it, a drain also once no PUBLISH is before it. -/
theorem mtxGoes_iff (s : State) (c : MtxCmd) (hr : c.retry = none) :
    let w := workOfTask c.who c.acc.task
    s.mtxGoes c = true ↔ c.ready = true ∧ s.storesDone (some (w, c.id)) = true ∧
      s.engBehind c.id (fun cl b => s.mtxInBank cl b c) = false ∧
      ((∃ dst stride t, c.kind = .drain dst stride t) → s.publishBefore w c.id = false) := by
  have ready : retryAhead s.now c.retry = false := by rw [hr]; rfl
  simp only [State.mtxGoes, ready]
  cases c.kind with
  | drain dst stride t => simp [and_assoc]
  | _ => simp [and_assoc]

theorem yields_iff (s : State) (st : Nat) (c1 : Bool) :
    s.yields st c1 = true ↔ c1 = false ∧ ∃ k l, (s.station st).mtx1 = k :: l ∧ s.mtxGoes k = true := by
  unfold State.yields
  cases (s.station st).mtx1 with
  | nil => simp
  | cons k l => simp [and_comm]

/-! ## MTX_COMMAND_PERFORM -/

theorem mtxCommandPerform_idle (s : State) (st ctx : Nat) (h : (s.station st).mtx (ctx != 0) = []) :
    exec (.mtxCommandPerform st ctx) s = .next s := by
  change execMtxCommandPerform st ctx s = _
  simp only [execMtxCommandPerform, h]

section
variable {s : State} {st ctx : Nat} {c1 : Bool} {c : MtxCmd} {rest : List MtxCmd} (hc : (ctx != 0) = c1)
  (head : (s.station st).mtx c1 = c :: rest)
include hc head

theorem mtxCommandPerform_waits (h : s.mtxGoes c = false ∨ s.yields st c1 = true) :
    exec (.mtxCommandPerform st ctx) s = .next s.wait := by
  have waits : (!s.mtxGoes c || s.yields st c1) = true := by simpa using h
  change execMtxCommandPerform st ctx s = _
  simp only [execMtxCommandPerform, hc, head, waits, if_true]

variable (goes : s.mtxGoes c = true) (stays : s.yields st c1 = false)
include goes stays

theorem mtxCommandPerform_zero {t : Nat} (kind : c.kind = .zero t) : exec (.mtxCommandPerform st ctx) s =
    .next ((s.modStation st (fun x => x.setTile t (fun _ => 0))).mtxDone st c1) := by
  change execMtxCommandPerform st ctx s = _
  simp [execMtxCommandPerform, hc, head, goes, stays, kind]

theorem mtxCommandPerform_multiplied {a b : Word} {t : Nat} (kind : c.kind = .mul a b t) (complete : c.regs.kg ≤ c.step) :
    exec (.mtxCommandPerform st ctx) s = .next (s.mtxDone st c1) := by
  change execMtxCommandPerform st ctx s = _
  simp [execMtxCommandPerform, hc, head, goes, stays, kind, complete]

theorem mtxCommandPerform_group {a b : Word} {t ba bb : Nat} {fa fb : BankFmt} (kind : c.kind = .mul a b t)
    (more : c.step < c.regs.kg) (bankA : s.ownBank c.who a.toNat = some (ba, fa)) (bankB : s.ownBank c.who b.toNat = some (bb, fb)) :
    exec (.mtxCommandPerform st ctx) s = .next (((s.addGroup st t (clusterOf st) ba bb fa fb c.step).setMtxHead st c1
      { c with step := c.step + 1 }).mtxLater st c1) := by
  change execMtxCommandPerform st ctx s = _
  simp [execMtxCommandPerform, hc, head, goes, stays, kind, Nat.not_le.2 more, bankA, bankB]

theorem mtxCommandPerform_drained {dst stride : Word} {t : Nat} (kind : c.kind = .drain dst stride t) (complete : 64 ≤ c.step) :
    exec (.mtxCommandPerform st ctx) s = .next (s.mtxDone st c1) := by
  change execMtxCommandPerform st ctx s = _
  simp [execMtxCommandPerform, hc, head, goes, stays, kind, complete]

theorem mtxCommandPerform_row {dst stride : Word} {t : Nat} (kind : c.kind = .drain dst stride t) (more : c.step < 64) :
    exec (.mtxCommandPerform st ctx) s = .next ((s.drainRow st c1 c dst stride t).getD s.wait) := by
  change execMtxCommandPerform st ctx s = _
  simp only [execMtxCommandPerform, hc, head, goes, stays, kind, Bool.not_true, Bool.or_self, Bool.false_eq_true, if_false,
    if_neg (Nat.not_le.2 more)]
  cases s.drainRow st c1 c dst stride t <;> rfl

theorem mtxCommandPerform_park {n : Nat} (kind : c.kind = .park n) (holds : (s.holder c.who).acquire = some c.id) :
    exec (.mtxCommandPerform st ctx) s = .next (((s.parkNow st n).mtxRelease c.who c.id).mtxDone st c1) := by
  change execMtxCommandPerform st ctx s = _
  simp [execMtxCommandPerform, hc, head, goes, stays, kind, holds]

theorem mtxCommandPerform_unpark {n : Nat} (kind : c.kind = .unpark n) :
    exec (.mtxCommandPerform st ctx) s = .next (((s.unparkNow st).mtxRelease c.who c.id).mtxDone st c1) := by
  change execMtxCommandPerform st ctx s = _
  simp [execMtxCommandPerform, hc, head, goes, stays, kind]

end

/-- What is added to an element of row `r` and column `k` is the sum of the row's group of A and the column's group of B (R144). -/
theorem accAt_addGroup (s : State) (st t cl ba bb : Nat) (fa fb : BankFmt) (g : Nat) {r k : Nat} (hr : r < 64) (hk : k < 128) :
    ((s.addGroup st t cl ba bb fa fb g).station st).accAt t (128 * r + k) = macStep ((s.station st).accAt t (128 * r + k))
      (groupSum fa.fmt fb.fmt (s.engGroup cl ba fa (groupIx fa r g)).1 (s.engGroup cl bb fb (groupIx fb k g)).1) := by
  have row : (128 * r + k) / 128 = r := by omega
  have column : (128 * r + k) % 128 = k := by omega
  rw [State.addGroup, station_modStation_same, accAt_setTile _ _ _ (by omega)]
  simp only [row, column]
  simp [hr, hk]

theorem mtx_addGroup (s : State) (st t cl ba bb : Nat) (fa fb : BankFmt) (g : Nat) (c1 : Bool) :
    ((s.addGroup st t cl ba bb fa fb g).station st).mtx c1 = (s.station st).mtx c1 := by
  rw [State.addGroup, station_modStation_same, mtx_setTile]

theorem station_setMtxHead {s : State} {st : Nat} {c1 : Bool} {c : MtxCmd} {rest : List MtxCmd}
    (head : (s.station st).mtx c1 = c :: rest) (k : MtxCmd) :
    (s.setMtxHead st c1 k).station st = (s.station st).setMtx c1 (k :: rest) := by
  rw [State.setMtxHead, station_modStation_same, head]

/-! ## Parking (R254) -/

theorem mtxRelease_released (s : State) (w : Who) (id : Nat) (h : (s.holder w).acquire = some id) :
    ((s.mtxRelease w id).holder w).acquire = none := by
  rw [State.mtxRelease, holder_modHolder_same, if_pos h]

/-- The release of a slot leaves of a station all but its cores. -/
theorem station_mtxRelease (s : State) (w : Who) (id n : Nat) :
    ∃ cores, (s.mtxRelease w id).station n = { s.station n with cores := cores } := by
  by_cases e : n = w.st
  · subst e
    exact ⟨_, station_modHolder_same ..⟩
  · exact ⟨(s.station n).cores, station_modHolder_other _ _ _ _ e⟩

/-- Parking writes memory and the batch state of its station, nothing else. -/
theorem parkNow_eq (s : State) (st n : Nat) : ∃ a bytes, s.parkNow st n =
    (s.writeAt a bytes).modStation st (fun x => { x with batch0 := none, parkedBy := some n, parking := none }) := ⟨_, _, rfl⟩

theorem station_parkNow (s : State) (st n : Nat) :
    (s.parkNow st n).station st = { s.station st with batch0 := none, parkedBy := some n, parking := none } := by
  obtain ⟨a, bytes, parks⟩ := parkNow_eq s st n
  rw [parks, station_modStation_same, station_writeAt]

theorem holder_parkNow (s : State) (st n : Nat) (w : Who) : (s.parkNow st n).holder w = s.holder w := by
  obtain ⟨a, bytes, parks⟩ := parkNow_eq s st n
  rw [parks, holder_modStation _ _ _ _ (by rfl), holder_writeAt]

/-! ## SIG_COMMAND_PERFORM -/

theorem engFault_nothing (s : State) (a : Access) : s.engFault a [] none = (s, none) := by simp [State.engFault]

theorem sigCommandPerform_idle (s : State) (st : Nat) (h : (s.station st).sigs = []) : exec (.sigCommandPerform st) s = .next s := by
  change execSigCommandPerform st s = _
  simp only [execSigCommandPerform, h]

section
variable {s : State} {st : Nat} {c : SigCmd} {rest : List SigCmd} (head : (s.station st).sigs = c :: rest)
include head

theorem sigCommandPerform_waits (h : s.storesDone (some (workOfTask c.who c.acc.task, c.id)) = false ∨
      s.publishBefore (workOfTask c.who c.acc.task) c.id = true ∨ s.engBehind c.id (fun cl b => s.sigInBank cl b c) = true) :
    exec (.sigCommandPerform st) s = .next s.wait := by
  change execSigCommandPerform st s = _
  rcases h with h | h | h <;> simp [execSigCommandPerform, head, h]

theorem sigCommandPerform_blocked (h : ({ cmd := c, s := s, faults := [] } : SigRun).run = none) :
    exec (.sigCommandPerform st) s = .next s.wait := by
  change execSigCommandPerform st s = _
  simp [execSigCommandPerform, head, h]

/-- A command whose run meets no fault is performed whole and leaves the unit. -/
theorem sigCommandPerform_whole (hr : c.retry = none) (stores : s.storesDone (some (workOfTask c.who c.acc.task, c.id)) = true)
    (publish : s.publishBefore (workOfTask c.who c.acc.task) c.id = false)
    (bank : s.engBehind c.id (fun cl b => s.sigInBank cl b c) = false) {r : SigRun}
    (h : ({ cmd := c, s := s, faults := [] } : SigRun).run = some r) (clean : r.faults = []) :
    exec (.sigCommandPerform st) s =
      let t := r.s.modStation st (fun y => { y with sigs := rest })
      .next (if rest = [] then t else t.later (.sigCommandPerform st)) := by
  have ready : retryAhead s.now c.retry = false := by rw [hr]; rfl
  have none : s.engFault c.acc r.faults.eraseDups c.retry = (s, none) := by rw [clean, hr]; exact engFault_nothing s c.acc
  change execSigCommandPerform st s = _
  simp [execSigCommandPerform, head, ready, stores, publish, bank, h, none]

end

/-! ## CROSSING_DELIVERY (R402, R411, R412) -/

theorem mustHold_iff (u : Crossing) (d : Delivery) :
    u.mustHold d = true ↔ ∃ r t, u.var? d.var = some r ∧ r.posted = some t ∧ t ≤ d.t := by
  unfold Crossing.mustHold
  cases u.var? d.var with
  | none => simp
  | some r => cases posted : r.posted <;> simp [posted]

section
variable {u : Crossing} {d : Delivery}

/-- A delivery that must wait enters the pool. -/
theorem deliver_held (h : u.mustHold d = true) : u.start.deliver d = { u.start with u := { u with pool := u.pool ++ [d] } } := by
  obtain ⟨r, -, known, -⟩ := (mustHold_iff u d).1 h
  simp [XStep.deliver, Crossing.start, known, h]

/-- A delivery to a variable that is not defined leaves its record alone. -/
theorem deliver_unknown (h : u.var? d.var = none) : u.start.deliver d = u.start.note 0xC9 d.var 0 := by
  simp [XStep.deliver, Crossing.start, h]

/-- A delivery that need not wait is applied, and the variable's posting is renewed. -/
theorem deliver_applied {r : XVar} (known : u.var? d.var = some r) (h : u.mustHold d = false) :
    u.start.deliver d = (u.start.apply d.var r d).postAll d.var := by
  simp [XStep.deliver, Crossing.start, known, h]

end

section
variable (x : XStep) (v : Nat) (r : XVar)

theorem setVar_var : (x.setVar v r).u.var? v = some r := find?_put_same ..

/-- XNEXT sets the time of the variable's next event and sends nothing. -/
theorem next_unit : (x.next v r).u = (x.setVar v { r with tn := (r.nextTime x.u.dtmin).1 }).u ∧ (x.next v r).out = x.out := by
  unfold XStep.next
  dsimp only
  split <;> exact ⟨rfl, rfl⟩

/-- A record that the first delivery of a later time has moved there: its value is extrapolated, its slope added to (R402, R412). -/
def XVar.moved (d : Delivery) : XVar :=
  { r with x := extrapolate r.x r.s (d.t - r.tl : Nat), tl := d.t, same := [d], sbase := r.s, s := addSlope r.s d.d }

theorem apply_later {d : Delivery} (after : r.tl < d.t) : x.apply v r d = x.next v (r.moved d) := by
  simp [XStep.apply, XVar.moved, Nat.lt_asymm after, Nat.ne_of_gt after, after, insertDelivery]

/-- Where the pool is empty a posting releases nothing. -/
theorem postAll_alone (known : x.u.var? v = some r) (empty : x.u.pool = []) :
    x.postAll v = x.setVar v { r with posted := r.tn } := by
  simp [XStep.postAll, empty, XStep.post, known]

end

/-- The record that a delivery after the record's time leaves, where no other delivery is held. -/
theorem deliver_later {u : Crossing} {d : Delivery} {r : XVar} (known : u.var? d.var = some r) (unposted : r.posted = none)
    (after : r.tl < d.t) (empty : u.pool = []) :
    ∃ tn, (u.start.deliver d).u.var? d.var = some { r.moved d with tn := tn, posted := tn } ∧ (u.start.deliver d).out = [] := by
  have applies : u.mustHold d = false := by simp [Crossing.mustHold, known, unposted]
  obtain ⟨unit, sent⟩ := next_unit u.start d.var (r.moved d)
  have named : (u.start.next d.var (r.moved d)).u.var? d.var = some { r.moved d with tn := ((r.moved d).nextTime u.dtmin).1 } := by
    rw [unit]
    exact setVar_var ..
  rw [deliver_applied known applies, apply_later _ _ _ after, postAll_alone _ _ _ named (by rw [unit]; exact empty)]
  exact ⟨_, setVar_var .., sent⟩

/-- A step of the unit that sends nothing leaves the unit as the step made it. -/
theorem station_xstep (s : State) (st : Nat) (x : XStep) (h : x.out = []) :
    (s.xstep st x).station st = { s.station st with xing := x.u } := by
  have records : ∀ (l : List (Nat × Nat × Word)) (t : State), (l.foldl (fun (t : State) r =>
      t.record (stationBank st) deferred 0x04 r.1 (BitVec.ofNat 64 r.2.1) r.2.2 0) t).station st = t.station st := by
    intro l
    induction l with
    | nil => exact fun _ => rfl
    | cons a l ih => exact fun t => (ih _).trans (station_record ..)
  simp only [State.xstep, h, List.foldl_nil, records, station_modStation_same]

section
variable {s : State} {d : Delivery}

theorem crossingDelivery_returned (h : 8192 ≤ d.dst ∨ (s.station d.dst).shut = true) :
    exec (.crossingDelivery d) s = .next (s.returnDelivery d) := by
  change execCrossingDelivery d s = _
  rw [execCrossingDelivery, if_pos (by simpa using h)]

variable (exists_ : d.dst < 8192) (live : (s.station d.dst).shut = false)
include exists_ live

theorem crossingDelivery_waits (h : (s.station d.dst).xing.mustHold d = true) (full : 1024 ≤ (s.station d.dst).xing.pool.length) :
    exec (.crossingDelivery d) s = .next s.wait := by
  change execCrossingDelivery d s = _
  simp [execCrossingDelivery, live, Nat.not_le.2 exists_, h, full]

theorem crossingDelivery_arrives (h : (s.station d.dst).xing.mustHold d = true → (s.station d.dst).xing.pool.length < 1024) :
    exec (.crossingDelivery d) s = .next (s.xstep d.dst ((s.station d.dst).xing.start.deliver d)) := by
  have room : ((s.station d.dst).xing.mustHold d && decide (1024 ≤ (s.station d.dst).xing.pool.length)) = false := by
    simpa using h
  change execCrossingDelivery d s = _
  simp [execCrossingDelivery, live, Nat.not_le.2 exists_, room]

end

/-! ## The statement -/

/-- MZERO: its tile is clear, and it has left its queue. -/
theorem zero_clears {s : State} {st : Nat} {c1 : Bool} {c : MtxCmd} {rest : List MtxCmd} (head : (s.station st).mtx c1 = c :: rest)
    (hr : (s.station st).restoring = false) (t : Nat) :
    let u := (s.modStation st (fun x => x.setTile t (fun _ => 0))).mtxDone st c1
    (u.station st).mtx c1 = rest ∧ u.mem = s.mem ∧ ∀ i, i < 8192 → (u.station st).accAt t i = 0 := by
  have done := mtxDone_completed (s.modStation st (fun x => x.setTile t (fun _ => 0))) st c1 (by simp [hr])
  refine ⟨done.queue.trans (by simp [head]), done.mem, fun i hi => ?_⟩
  rw [Station.accAt, done.acc, station_modStation_same]
  exact accAt_setTile _ _ _ hi

/-- One K-group of MMUL: every element has its group's sum added, and the command goes on to the next group. -/
theorem group_adds {s : State} {st : Nat} {c1 : Bool} {c : MtxCmd} {rest : List MtxCmd} (head : (s.station st).mtx c1 = c :: rest)
    (t cl ba bb : Nat) (fa fb : BankFmt) :
    let u := ((s.addGroup st t cl ba bb fa fb c.step).setMtxHead st c1 { c with step := c.step + 1 }).mtxLater st c1
    (u.station st).mtx c1 = { c with step := c.step + 1 } :: rest ∧
    ∀ r k, r < 64 → k < 128 → (u.station st).accAt t (128 * r + k) = macStep ((s.station st).accAt t (128 * r + k))
      (groupSum fa.fmt fb.fmt (s.engGroup cl ba fa (groupIx fa r c.step)).1 (s.engGroup cl bb fb (groupIx fb k c.step)).1) := by
  intro u
  have station := station_setMtxHead ((mtx_addGroup s st t cl ba bb fa fb c.step c1).trans head) { c with step := c.step + 1 }
  have here : u.station st = _ := station
  refine ⟨by rw [here, mtx_setMtx], fun r k hr hk => ?_⟩
  rw [here, Station.accAt, acc_setMtx]
  exact accAt_addGroup s st t cl ba bb fa fb c.step hr hk

/-- MPARK: the batch is parked, and the slot that held it goes on. -/
theorem park_parks {s : State} {st : Nat} {c1 : Bool} {c : MtxCmd} (hr : (s.station st).restoring = false) (n : Nat)
    (holds : (s.holder c.who).acquire = some c.id) :
    let u := ((s.parkNow st n).mtxRelease c.who c.id).mtxDone st c1
    (u.station st).batch0 = none ∧ (u.station st).parkedBy = some n ∧ (u.station st).parking = none ∧
      (u.holder c.who).acquire = none := by
  obtain ⟨cores, released⟩ := station_mtxRelease (s.parkNow st n) c.who c.id st
  rw [station_parkNow] at released
  have done := mtxDone_completed ((s.parkNow st n).mtxRelease c.who c.id) st c1 (by rw [released]; exact hr)
  have acquired : ((s.parkNow st n).holder c.who).acquire = some c.id := by rw [holder_parkNow, holds]
  refine ⟨?_, by rw [done.parkedBy, released], by rw [done.parking, released], ?_⟩
  · rcases done.batch with same | closed
    · rw [same, released]
    · exact closed
  · rw [done.holder]
    exact mtxRelease_released _ _ _ acquired

/-- Settles O56: the matrix commands by their kinds, the signature command by what its run gives, the delivery by its variable. -/
theorem matrixSignatureAndDeliveryEvents : Obligations.MatrixSignatureAndDeliveryEvents := by
  intro s st ctx d x c1 perform
  have hc : (ctx != 0) = c1 := Bool.eq_iff_iff.2 (by simp [c1])
  refine ⟨fun h => mtxCommandPerform_idle s st ctx (hc ▸ h), fun c rest head hr => ⟨mtxGoes_iff s c hr, yields_iff s st c1,
    mtxCommandPerform_waits hc head, fun goes stays restored => ?_⟩, sigCommandPerform_idle s st, fun c rest head hr =>
    ⟨sigCommandPerform_waits head, fun stores publish bank => ⟨fun r run clean => ?_, sigCommandPerform_blocked head⟩⟩, ?_⟩
  · refine ⟨fun t kind => ⟨_, mtxCommandPerform_zero hc head goes stays kind, zero_clears head restored t⟩,
      fun a b t => mtxCommandPerform_multiplied hc head goes stays,
      fun a b t ba fa bb fb kind more bankA bankB =>
        ⟨_, mtxCommandPerform_group hc head goes stays kind more bankA bankB, group_adds head t (clusterOf st) ba bb fa fb⟩,
      fun dst stride t kind => ⟨mtxCommandPerform_drained hc head goes stays kind, fun more => ?_⟩,
      fun n kind holds => ⟨_, mtxCommandPerform_park hc head goes stays kind holds, park_parks restored n holds⟩,
      fun n => mtxCommandPerform_unpark hc head goes stays⟩
    have row := mtxCommandPerform_row hc head goes stays kind more
    exact ⟨fun u drained => row.trans (by rw [drained]; rfl), fun blocked => row.trans (by rw [blocked]; rfl)⟩
  · have whole := sigCommandPerform_whole head hr stores publish bank run clean
    exact ⟨fun last => whole.trans (congrArg _ (if_pos last)), fun more => whole.trans (congrArg _ (if_neg more))⟩
  · intro y posted waits
    have held : y.xing.mustHold d = true ↔ waits := by
      rw [mustHold_iff]
      cases known : y.xing.var? d.var <;> simp [waits, posted, known]
    refine ⟨crossingDelivery_returned, fun hd live => ⟨fun w => crossingDelivery_waits hd live (held.2 w), fun w room => ?_,
      fun unknown => ?_, fun r known unposted after _ empty => ?_⟩⟩
    · refine ⟨_, crossingDelivery_arrives hd live (fun _ => room), ?_⟩
      rw [deliver_held (held.2 w)]
      exact ⟨by rw [station_xstep _ _ _ rfl], rfl, rfl⟩
    · refine ⟨_, crossingDelivery_arrives hd live (fun h => ?_), ?_⟩
      · obtain ⟨r, -, known, -⟩ := (mustHold_iff _ _).1 h
        exact absurd (unknown.symm.trans known) (by simp)
      · rw [deliver_unknown unknown]
        exact ⟨by rw [station_xstep _ _ _ rfl]; rfl, rfl⟩
    · obtain ⟨tn, record, sent⟩ := deliver_later known unposted after empty
      have arrives := crossingDelivery_arrives hd live (fun _ => by rw [empty]; decide)
      refine ⟨_, { r.moved d with tn := tn, posted := tn }, arrives, ?_, rfl, ?_, rfl, rfl, rfl⟩
      · rw [station_xstep _ _ _ sent]
        exact record
      · exact congrArg (extrapolate r.x r.s) (Int.ofNat_sub (Nat.le_of_lt after))

end Sys2Proof.Machine
end

section
/-! PROOFS. The return from a trap (R354, R383), the instructions that trap (R159, R382), and the control-flow signature (R356 to
R359, R396). -/
namespace Sys2Proof.Machine

/-! ## Boundaries that the meaning itself has set -/

/-- A boundary without a move of the PC counts the instruction, and no more (R90). -/
theorem retire_done_holder (s : State) (w : Who) : (s.retire w .done).holder w =
    { s.holder w with unsettled := bumpLast (s.holder w).unsettled, waiting := false } := by
  rw [retire_holder _ _ _ (by decide)]
  rfl

/-- A trap of an instruction that waits for the loads before it is taken at once (R90). -/
theorem trapNow_held (s : State) (t : TrapInfo) (h : s.me.unsettled = []) : s.trapNow t = s.takeTrap s.cur s.me.pc t 0 := by
  simp [State.trapNow, h]

/-! ## TRET (R354, R383) -/

section
variable {s : State} (hr : s.ready .held ⟨[], []⟩ = true)
include hr

theorem tret_outside (hi : s.me.inh = false) : exec .tret s = .next (s.trapNow (trapOf 0x01 (s.me.ir.setWidth 64))) := by
  change execTret s = _
  rw [execTret, issue_ready _ _ _ _ hr, popAll_nil, hi]
  rfl

/-- In a handler, with context 0 parked by the slot and not on its way back (R256). -/
theorem tret_parked (hi : s.me.inh = true) (hp : (s.station s.cur.st).parkedBy = some (slotNumber s.cur.core))
    (ho : (s.station s.cur.st).restoring = false) (hc : s.cur.core ∈ taskCores) :
    exec .tret s = .next (s.trapNow (trapOf 0x08 0x36A)) := by
  change execTret s = _
  have parker : (s.station s.cur.st).parker = some (slotNumber s.cur.core) := by simp [Station.parker, ho, hp]
  rw [execTret, issue_ready _ _ _ _ hr, popAll_nil, hi, parker]
  simp only [beq_self_eq_true, List.contains_iff_mem.2 hc, Bool.and_self, Bool.not_true, need_true, need_false, bind_go, bind_trap,
    finish_trap]
  rfl

/-- In a handler, where the slot has nothing parked: the return. -/
theorem tret_returns (hi : s.me.inh = true) (hp : (s.station s.cur.st).parkedBy ≠ some (slotNumber s.cur.core) ∨
    (s.station s.cur.st).restoring = true ∨ s.cur.core ∉ taskCores) :
    exec .tret s = .next ((s.modHolder s.cur Holder.leaveTrap).retire s.cur .done) := by
  change execTret s = _
  have free : ((s.station s.cur.st).parker == some (slotNumber s.cur.core) && taskCores.contains s.cur.core) = false := by
    rcases hp with hp | hp | hp
    · cases ho : (s.station s.cur.st).restoring <;> simp [Station.parker, ho, hp]
    · simp [Station.parker, hp]
    · simp [hp]
  rw [execTret, issue_ready _ _ _ _ hr, popAll_nil, hi, free]
  rfl

end

/-- What the return leaves of the loops: the interrupted code's, thawed, but for the innermost ones whose bodies do not hold EPC. -/
theorem leaveTrap_loops (h : Holder) :
    ∃ gone, (h.loops.drop (h.loops.length - h.loopsAt)).map (fun l => { l with frozen := false }) = gone ++ h.leaveTrap.loops ∧
      (∀ e ∈ gone, ¬ (e.start.toNat ≤ h.epc.toNat ∧ h.epc.toNat ≤ e.start.toNat + 4 * (e.len - 1))) ∧
      (∀ e ∈ h.leaveTrap.loops.head?, e.start.toNat ≤ h.epc.toNat ∧ h.epc.toNat ≤ e.start.toNat + 4 * (e.len - 1)) := by
  let thawed := (h.loops.drop (h.loops.length - h.loopsAt)).map (fun l => { l with frozen := false })
  obtain ⟨gone, parts, pops, keeps⟩ := popOutside_spec h.epc thawed
  refine ⟨gone, parts, fun e he => ?_, fun e he => ?_⟩
  · rw [← loopHolds_iff, (pops e he).2]
    decide
  · have thaw : e.frozen = false := by
      have mem : e ∈ thawed := by
        rw [parts]
        exact List.mem_append_right _ (List.mem_of_mem_head? he)
      obtain ⟨l, -, rfl⟩ := List.mem_map.1 mem
      rfl
    rcases keeps e he with frozen | holds
    · rw [thaw] at frozen
      exact absurd frozen (by decide)
    · exact (loopHolds_iff _ _).1 holds

/-! ## TRAP and BREAK (R159, R382) -/

section
variable {s : State} (c : BitVec 10) (hr : s.ready .held ⟨[], []⟩ = true)
include hr

theorem trap_takes : exec (.trap c) s = .next (s.takeTrap s.cur s.me.pc (trapOf 0x0D (c.setWidth 64)) 0) := by
  change execTrap c s = _
  rw [execTrap, issue_ready _ _ _ _ hr, finish_trap, trapNow_held _ _ (ready_held_unsettled s _ hr)]

theorem brk_takes (h : s.dbgctl = false ∨ 8192 ≤ s.cur.st) :
    exec (.brk c) s = .next (s.takeTrap s.cur s.me.pc (trapOf 0x0E (c.setWidth 64)) 0) := by
  change execBrk c s = _
  have runs : (s.dbgctl && decide (s.cur.st < 8192)) = false := by
    rcases h with h | h
    · simp [h]
    · simp [Nat.not_lt.2 h]
  rw [execBrk, issue_ready _ _ _ _ hr, popAll_nil, runs]
  simp only [Bool.false_eq_true, if_false, finish_trap, trapNow_held _ _ (ready_held_unsettled s _ hr)]

theorem brk_halts (hd : s.dbgctl = true) (hs : s.cur.st < 8192) : exec (.brk c) s =
    .next (((s.modStation s.cur.st (fun x => { x with halted := true })).later (.debugHalt s.cur.st)).retire s.cur .next) := by
  change execBrk c s = _
  rw [execBrk, issue_ready _ _ _ _ hr, popAll_nil, hd]
  simp only [decide_eq_true hs, Bool.and_self, if_true, finish_go]

end

/-! ## The fold (R356, R357) and SIGCHK (R359, R396) -/

/-- The fold of a token of 22 bits, by its two halves. -/
theorem foldToken_halves (acc : BitVec 15) (t : Nat) : foldToken acc t =
    (acc <<< 5 ||| acc >>> 10) ^^^ (BitVec.ofNat 15 (t % 2 ^ 15) ^^^ BitVec.ofNat 15 (t / 2 ^ 15)) := by
  have low : BitVec.ofNat 15 (t % 2 ^ 15) = BitVec.ofNat 15 t := by
    apply BitVec.eq_of_toNat_eq
    simp
  rw [low, foldToken, Nat.shiftRight_eq_div_pow]
  rfl

/-- A SIGCHK behind unsettled loads is kept with the youngest of them. -/
theorem mem_addCheck (c : Word × BitVec 15 × BitVec 15) (l : List Unsettled) (hl : l ≠ []) :
    ∃ u ∈ bumpLast (addCheck c l), c ∈ u.checks := by
  induction l with
  | nil => exact absurd rfl hl
  | cons u r ih =>
    cases r with
    | nil => exact ⟨_, List.mem_singleton_self _, by simp⟩
    | cons v r =>
      obtain ⟨w, hw, hc⟩ := ih (by simp)
      have keeps : bumpLast (addCheck c (u :: v :: r)) = u :: bumpLast (addCheck c (v :: r)) := by
        cases r <;> rfl
      exact ⟨w, keeps ▸ List.mem_cons_of_mem _ hw, hc⟩

/-- The holder after a SIGCHK that goes on. -/
def Holder.passedCheck (h : Holder) : Holder := { h.advance .next with sigacc := 0 }

theorem passedCheck_kept (h : Holder) : h.passedCheck.pc = (h.advance .next).pc ∧ h.passedCheck.s = h.s ∧
    h.passedCheck.unsettled = h.unsettled := by
  unfold Holder.passedCheck Holder.advance
  dsimp only
  rcases endIteration h.pc h.loops with ⟨l, _ | start⟩ <;> exact ⟨rfl, rfl, rfl⟩

/-- The boundary moves the PC alike, whatever loads are outstanding. -/
theorem advance_pc_unsettled (h : Holder) (us : List Unsettled) :
    (({ h with unsettled := us } : Holder).advance .next).pc = (h.advance .next).pc := by
  rw [(advance_next _).1, (advance_next _).1]

section
variable {s : State} {e : BitVec 15} (hr : s.ready .plain ⟨[], []⟩ = true)
include hr

theorem sigchk_matches (he : s.me.sigacc = e) :
    exec (.sigchk e) s = .next ((s.modHolder s.cur Holder.passedCheck).retire s.cur .done) := by
  change execSigchk e s = _
  rw [execSigchk, issue_ready _ _ _ _ hr, popAll_nil]
  simp only [if_pos he, finish_go]
  rfl

theorem sigchk_fails (he : s.me.sigacc ≠ e) (hu : s.me.unsettled = []) :
    exec (.sigchk e) s = .next (s.sigMismatch s.cur s.me.pc e s.me.sigacc) := by
  change execSigchk e s = _
  rw [execSigchk, issue_ready _ _ _ _ hr, popAll_nil]
  simp only [if_neg he, hu, List.isEmpty_nil, if_true, finish_go]
  rfl

theorem sigchk_defers (he : s.me.sigacc ≠ e) (hu : s.me.unsettled ≠ []) :
    exec (.sigchk e) s = .next ((s.modHolder s.cur (fun k =>
      { k with unsettled := addCheck (s.me.pc, e, s.me.sigacc) k.unsettled }.passedCheck)).retire s.cur .done) := by
  change execSigchk e s = _
  rw [execSigchk, issue_ready _ _ _ _ hr, popAll_nil]
  have some : s.me.unsettled.isEmpty = false := by simpa using hu
  simp only [if_neg he, some, Bool.false_eq_true, if_false, finish_go]
  rfl

end

/-- Settles O29: TRET, TRAP, BREAK and SIGCHK case by case, and the fold by the halves of its token. -/
theorem trapReturnTrapsAndSignatures : Obligations.TrapReturnTrapsAndSignatures := by
  refine ⟨fun s hr => ⟨tret_outside hr, fun hi hp ho hc => tret_parked hr hi hp ho hc, fun hi hp => ?_⟩,
    fun s c hr => ⟨trap_takes c hr, brk_takes c hr, brk_halts c hr⟩, fun acc t _ => foldToken_halves acc t,
    fun s e hr hst => ⟨fun he => ?_, fun he hu => ?_, fun he hu => ?_⟩⟩
  · refine ⟨_, tret_returns hr hi hp, ?_⟩
    rw [retire_done_holder, holder_modHolder_same, retire_mem]
    exact ⟨rfl, rfl, rfl, rfl, rfl, rfl, rfl, rfl, leaveTrap_loops _⟩
  · refine ⟨_, sigchk_matches hr he, ?_⟩
    rw [retire_done_holder, holder_modHolder_same, retire_mem]
    obtain ⟨pc, registers, -⟩ := passedCheck_kept (s.holder s.cur)
    exact ⟨rfl, pc, registers, rfl⟩
  · rw [sigchk_fails hr he hu, State.sigMismatch]
    simp only [if_pos hst, Nat.reducePow]
  · refine ⟨_, sigchk_defers hr he hu, ?_⟩
    rw [retire_done_holder, holder_modHolder_same]
    obtain ⟨pc, -, kept⟩ := passedCheck_kept { s.holder s.cur with
      unsettled := addCheck (s.me.pc, e, s.me.sigacc) (s.holder s.cur).unsettled }
    refine ⟨rfl, pc.trans (advance_pc_unsettled _ _), ?_⟩
    simp only [kept]
    exact mem_addCheck _ _ hu

end Sys2Proof.Machine
end

section
/-! PROOFS. The sending commands (R187, R191, R193) and the message they post (R150, R197, R425). -/
namespace Sys2Proof.Machine

/-! ## SEND, SENDR, SENDV and REPLY at issue (R191) -/

/-- What follows the checks of the header: the registers it names are read, and the message is posted once there is room (R191, R199). -/
def State.sendOut (s t : State) (k : SendKind) (h : Word) (srcs : List (RegName × Bool)) (payload : List Word) (deadline : Word)
    (dest : Nat) : Out :=
  match t.checkSrcs s.cur srcs with
  | .trap e => .next (s.trapNow e)
  | .wait => .next s.wait
  | .go _ =>
    if 16 ≤ (t.station s.cur.st).outq.length ∨ t.rankFull s.cur.st dest = true then .next s.wait
    else .next (((t.popAll s.cur srcs).postMsg k h payload deadline).retire s.cur .next)

/-- What a sending command reads after its header, and what it sends. -/
def sendSrcs (k : SendKind) (a b : Reg) (kb : Bool) (n : Nat) : List (RegName × Bool) :=
  if k = .sendv then (if n = 0 then [] else [(RegName.v b, kb)])
  else ((sendRegs k b n).filter (· != a)).map (fun r => (RegName.s r, kb))

def State.sendPayload (s : State) (k : SendKind) (b : Reg) (n : Nat) : List Word :=
  let regs := (sendRegs k b n).map (fun r => s.valS s.cur r)
  match k with
  | .send | .reply => regs
  | .sendr => regs.drop 1
  | .sendv => (List.range n).map (fun i => BitVec.ofNat 64 ((s.valV s.cur b).toNat / 2 ^ (64 * i)))

def State.sendDeadline (s : State) (k : SendKind) (b : Reg) (n : Nat) : Word :=
  if k = .sendr then ((sendRegs k b n).map (fun r => s.valS s.cur r)).headD 0 else noDeadline

def State.sendDest (s : State) (k : SendKind) (h : Word) : Nat :=
  if k = .reply then (match s.me.task with | some x => x.srcRank | none => 0) else hdrDest h

theorem finish_need (s : State) (c : Bool) (e : TrapInfo) (f : Unit → Res (State × PcFlow)) :
    s.finish ((need c e).bind f) = if c = false then .next (s.trapNow e) else s.finish (f ()) := by
  cases c <;> rfl

/-- The checks of a ready sending command, in their order. -/
theorem sending_ready (s : State) (k : SendKind) (a b : Reg) (ka kb : Bool) (hr : s.ready .vstore ⟨[(.s a, ka)], []⟩ = true) :
    let h := s.valS s.cur a
    let n := h.toNat / 2 ^ 36 % 16
    let engine (sub : Nat) : Out := .next (s.trapNow (trapOf 0x08 (BitVec.ofNat 64 sub)))
    s.sending k a b ka kb =
      if h.toNat / 2 ^ 48 % 8 ≠ 0 then engine 0x01
      else if 8 < n then engine 0x02
      else if h.toNat / 2 ^ 40 % 256 = 255 then engine 0x04
      else if sendFits k b n = false then engine 0x03
      else s.sendOut (s.popAll s.cur [(.s a, ka)]) k h (sendSrcs k a b kb n) (s.sendPayload k b n) (s.sendDeadline k b n)
        (s.sendDest k h) := by
  intro h n engine
  have class_ : bitsOf h 50 48 = h.toNat / 2 ^ 48 % 8 := bitsOf_eq h 50 48
  have handler : hdrHandler h = h.toNat / 2 ^ 40 % 256 := bitsOf_eq h 47 40
  have length : hdrLen h = n := bitsOf_eq h 39 36
  rw [State.sending, issue_ready _ _ _ _ hr]
  simp only [finish_need]
  rw [show s.valS s.cur a = h from rfl, length, handler, class_]
  refine if_congr (by simp) rfl (if_congr (by simp) rfl (if_congr (by simp) rfl (if_congr Iff.rfl rfl ?_)))
  rw [State.sendOut]
  change s.finish (((s.popAll s.cur [(.s a, ka)]).checkSrcs s.cur (sendSrcs k a b kb n)).bind _) = _
  cases (s.popAll s.cur [(.s a, ka)]).checkSrcs s.cur (sendSrcs k a b kb n) with
  | trap e => rfl
  | wait => rfl
  | go _ =>
    by_cases room : 16 ≤ ((s.popAll s.cur [(.s a, ka)]).station s.cur.st).outq.length ∨
        (s.popAll s.cur [(.s a, ka)]).rankFull s.cur.st (s.sendDest k h) = true
    · have full : (decide (((s.popAll s.cur [(.s a, ka)]).station s.cur.st).outq.length < 16) &&
          !(s.popAll s.cur [(.s a, ka)]).rankFull s.cur.st (s.sendDest k h)) = false := by
        rcases room with room | room
        · simp [Nat.not_lt.2 room]
        · simp [room]
      simp only [if_pos room]
      change s.finish ((await (_ && !(s.popAll s.cur [(.s a, ka)]).rankFull s.cur.st (s.sendDest k h))).bind _) = _
      rw [full]
      rfl
    · have free : (decide (((s.popAll s.cur [(.s a, ka)]).station s.cur.st).outq.length < 16) &&
          !(s.popAll s.cur [(.s a, ka)]).rankFull s.cur.st (s.sendDest k h)) = true := by
        simpa [not_or] using room
      simp only [if_neg room]
      change s.finish ((await (_ && !(s.popAll s.cur [(.s a, ka)]).rankFull s.cur.st (s.sendDest k h))).bind _) = _
      rw [free]
      rfl

/-- The words that SENDV sends are the low ones of its vector register. -/
theorem vectorWord_eq (v : VWord) (i : Nat) : BitVec.ofNat 64 (v.toNat / 2 ^ (64 * i)) = v.extractLsb' (64 * i) 64 := by
  rw [BitVec.extractLsb', Nat.shiftRight_eq_div_pow]

/-! ## The message posted (R150, R191, R197, R425) -/

/-- A header with the sender's rank in it. -/
theorem setField_src (h : Word) (st : Nat) (hst : st < 8192) :
    (setField h 30 18 st).toNat / 2 ^ 18 % 2 ^ 13 = st ∧ (setField h 30 18 st).toNat / 2 ^ 31 = h.toNat / 2 ^ 31 ∧
    (setField h 30 18 st).toNat % 2 ^ 18 = h.toNat % 2 ^ 18 := by
  have field : bitsOf h 30 18 = h.toNat / 2 ^ 18 % 2 ^ 13 := bitsOf_eq h 30 18
  have hlt := h.isLt
  have value : (setField h 30 18 st).toNat = h.toNat - h.toNat / 2 ^ 18 % 2 ^ 13 * 2 ^ 18 + st * 2 ^ 18 := by
    rw [setField, BitVec.toNat_ofNat, field]
    simp only [Nat.reducePow, Nat.reduceAdd, Nat.reduceSub] at hlt ⊢
    omega
  rw [value]
  omega

/-- The destination stands above the sender's rank. -/
theorem hdrDest_setField_src (h : Word) (st : Nat) (hst : st < 8192) : hdrDest (setField h 30 18 st) = h.toNat / 2 ^ 51 := by
  obtain ⟨-, high, -⟩ := setField_src h st hst
  rw [hdrDest, bitsOf_top _ _ (by decide)]
  omega

/-- The message of a SEND to a rank that is neither in transit nor SHUT. -/
def State.sentMsg (s : State) (h : Word) (payload : List Word) (deadline : Word) (dst : Nat) : Msg :=
  { source := .task s.cur s.ops, sender := s.me.taskid, why := 0, left := false, dst := dst,
    header := setField h 30 18 (rankOf s.cur.st), payload := payload, tilec := s.me.tilec, deadline := deadline,
    ep := s.prio (hdrClass h), cv := false, cctr := 0, jseq := (s.nextSeq (dieOf s.cur.st)).1, reply := none, gang := none }

theorem postMsg_send (s : State) (h : Word) (payload : List Word) (deadline : Word) (hst : s.cur.st < 8192)
    (ht : rankTransit ((s.station s.cur.st).rankEntry (h.toNat / 2 ^ 51)) = false)
    (hs : rankShut ((s.station s.cur.st).rankEntry (h.toNat / 2 ^ 51)) = false) :
    s.postMsg .send h payload deadline = ((s.nextSeq (dieOf s.cur.st)).2.bump.modStation s.cur.st (fun x =>
      { x with outq := x.outq ++ [s.ops] })).later (.messageArrival (s.sentMsg h payload deadline
        (rankCoord ((s.station s.cur.st).rankEntry (h.toNat / 2 ^ 51))))) := by
  have dest : hdrDest (setField h 30 18 (rankOf s.cur.st)) = h.toNat / 2 ^ 51 := hdrDest_setField_src h s.cur.st hst
  have entry (t : State) (f : Station → Station) (hf : (f (t.station s.cur.st)).ranks = (s.station s.cur.st).ranks) (n : Nat) :
      ((t.modStation s.cur.st f).station s.cur.st).rankEntry n = (s.station s.cur.st).rankEntry n := by
    rw [station_modStation_same, Station.rankEntry, hf, Station.rankEntry]
  rw [State.postMsg]
  simp only [reduceCtorEq, if_false, dest, ht, Bool.false_eq_true, State.routeMsg]
  rw [entry _ _ rfl, ht, hs]
  rfl

/-- Whether the registers after the header lie within s0 to s31, as the statement says it. -/
theorem sendFits_eq (b : Reg) (n : Nat) : sendFits .send b n = (n = 0 || decide (b.toNat + n - 1 ≤ 31)) ∧
    sendFits .reply b n = (n = 0 || decide (b.toNat + n - 1 ≤ 31)) := by
  have zero : (n == 0) = decide (n = 0) := rfl
  simp only [sendFits, zero, and_self]

/-- The header's register is read once (log entry 52). -/
theorem sendSrcs_eq (k : SendKind) (a b : Reg) (kb : Bool) (n : Nat) (hk : k ≠ .sendv) :
    sendSrcs k a b kb n = ((sendRegs k b n).filter (fun r => r ≠ a)).map (fun r => (RegName.s r, kb)) := by
  rw [sendSrcs, if_neg hk]
  congr 2
  funext r
  rw [Bool.eq_iff_iff]
  simp

theorem noDeadline_eq : noDeadline = BitVec.allOnes 64 := by decide

/-- Settles O34: the four commands by their checks, which are one, and the message of a SEND field by field. -/
theorem sendingCommands : Obligations.SendingCommands := by
  refine ⟨fun s a b ka kb hr => ⟨?_, ?_, ?_, ?_⟩, fun s h payload deadline hst ht hs => ?_⟩
  · have sends := sending_ready s .send a b ka kb hr
    simp only [(sendFits_eq b _).1, sendSrcs_eq .send a b kb _ (by decide), State.sendDeadline, reduceCtorEq, if_false, noDeadline_eq,
      State.sendDest, hdrDest, bitsOf_top _ 51 (by decide)] at sends
    exact sends
  · have replies := sending_ready s .reply a b ka kb hr
    simp only [(sendFits_eq b _).2, sendSrcs_eq .reply a b kb _ (by decide), State.sendDeadline, reduceCtorEq, if_false, noDeadline_eq] at replies
    exact replies
  · have sends := sending_ready s .sendr a b ka kb hr
    simp only [sendSrcs_eq .sendr a b kb _ (by decide), State.sendDest, reduceCtorEq, if_false, hdrDest, bitsOf_top _ 51 (by decide)] at sends
    exact sends
  · have sends := sending_ready s .sendv a b ka kb hr
    simp only [State.sendPayload, vectorWord_eq, State.sendDeadline, reduceCtorEq, if_false, noDeadline_eq, State.sendDest, hdrDest,
      bitsOf_top _ 51 (by decide)] at sends
    exact sends
  · obtain ⟨src, high, low⟩ := setField_src h s.cur.st hst
    simp only [postMsg_send s h payload deadline hst ht hs]
    refine ⟨_, rfl, rfl, rfl, rfl, rfl, src, high, low, rfl, ?_, rfl, rfl, rfl, ?_, rfl, rfl⟩
    · exact congrArg s.prio (bitsOf_eq h 34 31)
    · rw [station_later, station_modStation_same]
      rfl

end Sys2Proof.Machine
end

section
/-! PROOFS. What the tellings of the module leave as it was: heads and flits counted at routers (R366), gauges and the records they count
(R153, R176), values that come back (R91), priorities told (R171); and doublewords of memory read after writes of others. -/
namespace Sys2Proof.Machine

/-! ## Doublewords in memory -/

/-- A read sees of the memory the bytes it reads. -/
theorem memRead_congr {m m' : Memory} {a n : Nat} (h : ∀ x, a ≤ x → x < a + n → memGet m x = memGet m' x) :
    memRead m a n = memRead m' a n := by
  induction n generalizing a with
  | zero => rfl
  | succ n ih => rw [memRead, memRead, h a (by omega) (by omega), ih fun x h1 h2 => h x (by omega) (by omega)]

theorem memGet_memWrite_other {bs : List Byte} {m : Memory} {a b : Nat} (h : b < a ∨ a + bs.length ≤ b) :
    memGet (memWrite m a bs) b = memGet m b := by
  rw [memGet_memWrite, if_neg (by omega)]

theorem memRead_memWrite_other {bs : List Byte} {m : Memory} {a b n : Nat} (h : b + n ≤ a ∨ a + bs.length ≤ b) :
    memRead (memWrite m a bs) b n = memRead m b n :=
  memRead_congr fun x h1 h2 => memGet_memWrite_other (by omega)

/-- Bytes before others of one write. -/
theorem memWrite_append (m : Memory) (a : Nat) (bs cs : List Byte) :
    memWrite m a (bs ++ cs) = memWrite (memWrite m a bs) (a + bs.length) cs := by
  induction bs generalizing m a with
  | nil => rfl
  | cons b r ih =>
    rw [List.cons_append, memWrite, ih, memWrite, List.length_cons, Nat.add_assoc, Nat.add_comm 1]

/-- Writing what stands there changes no byte. -/
theorem memGet_memWrite_memRead (m : Memory) (a n x : Nat) : memGet (memWrite m a (memRead m a n)) x = memGet m x := by
  induction n generalizing m a with
  | zero => rfl
  | succ n ih =>
    have same : ∀ y, memGet (memPut a (memGet m a) m) y = memGet m y := fun y => by
      rw [memGet_memPut]
      split
      · next e => rw [e]
      · rfl
    rw [memRead, memWrite, memRead_congr fun y _ _ => (same y).symm, ih, same]

theorem leBytes_leNat (bs : List Byte) : leBytes (leNat bs) bs.length = bs := by
  induction bs with
  | nil => rfl
  | cons b r ih =>
    have low : BitVec.ofNat 8 (b.toNat + 256 * leNat r) = b := by
      apply BitVec.eq_of_toNat_eq
      have := b.isLt
      rw [BitVec.toNat_ofNat]
      omega
    have high : (b.toNat + 256 * leNat r) / 256 = leNat r := by
      have := b.isLt
      omega
    rw [leNat, List.length_cons, leBytes, low, high, ih]

theorem leNat_lt (bs : List Byte) : leNat bs < 256 ^ bs.length := by
  induction bs with
  | nil => simp [leNat]
  | cons b r ih =>
    have := b.isLt
    rw [leNat, List.length_cons, Nat.pow_succ]
    omega

/-- The bytes of the doubleword that stands at an address. -/
theorem leBytes_wordAt (s : State) (a : Nat) : leBytes (s.wordAt a).toNat 8 = memRead s.mem a 8 := by
  have length : (memRead s.mem a 8).length = 8 := memRead_length ..
  have small := leNat_lt (memRead s.mem a 8)
  rw [length] at small
  have value : (s.wordAt a).toNat = leNat (memRead s.mem a 8) := by
    rw [State.wordAt, leWord, State.readAt, BitVec.toNat_ofNat]
    exact Nat.mod_eq_of_lt small
  rw [value]
  conv_lhs => rw [← length]
  exact leBytes_leNat _

/-- A doubleword reads as it was written. -/
theorem leWord_leBytes (v : Word) : leWord (leBytes v.toNat 8) = v := by
  apply BitVec.eq_of_toNat_eq
  have := v.isLt
  rw [leWord, leNat_leBytes, BitVec.toNat_ofNat]
  omega

theorem wordAt_write_same (s : State) (a : Nat) (v : Word) : (s.writeAt a (leBytes v.toNat 8)).wordAt a = v := by
  have read := memRead_memWrite (leBytes v.toNat 8) s.mem a
  rw [leBytes_length] at read
  rw [State.wordAt, State.readAt, writeAt_mem, read, leWord_leBytes]

theorem wordAt_congr {s t : State} {a : Nat} (h : ∀ x, a ≤ x → x < a + 8 → memGet t.mem x = memGet s.mem x) : t.wordAt a = s.wordAt a := by
  rw [State.wordAt, State.wordAt, State.readAt, State.readAt, memRead_congr h]

theorem wordAt_write_other (s : State) {a b : Nat} {bs : List Byte} (h : b + 8 ≤ a ∨ a + bs.length ≤ b) :
    (s.writeAt a bs).wordAt b = s.wordAt b :=
  wordAt_congr fun x h1 h2 => by rw [writeAt_mem, memGet_memWrite_other (by omega)]

/-! ## Heads and flits (R365, R366) -/

/-- Only the counts of routers differ. -/
structure Routed (s t : State) : Prop where
  rest : t = { s with stations := t.stations }
  station : ∀ n, t.station n = { s.station n with neighbours := (t.station n).neighbours }

theorem Routed.refl (s : State) : Routed s s := ⟨rfl, fun _ => rfl⟩

theorem Routed.modNeighbour {s t : State} (h : Routed s t) (n d : Nat) (f : Neighbour → Neighbour) :
    Routed s (t.modStation n (fun x => x.modNeighbour d f)) := by
  refine ⟨by rw [State.modStation, State.setStation, h.rest], fun k => ?_⟩
  by_cases e : k = n
  · subst e
    rw [station_modStation_same, Station.modNeighbour]
    split
    · rw [h.station k]
    · exact h.station k
  · rw [station_modStation_other _ _ _ _ e]
    exact h.station k

theorem Routed.foldl {α : Type} {s t : State} (l : List α) {f : State → α → State} (hf : ∀ u a, Routed s u → Routed s (f u a))
    (h : Routed s t) : Routed s (l.foldl f t) := by
  induction l generalizing t with
  | nil => exact h
  | cons a r ih => exact ih (hf _ _ h)

theorem Routed.headHop {s t : State} (h : Routed s t) (a b : Nat) : Routed s (t.headHop a b) := by
  unfold State.headHop
  split
  · exact h
  · exact (h.modNeighbour ..).modNeighbour ..

theorem Routed.flitsAlong {s t : State} (h : Routed s t) (a n : Nat) (w : List Nat) : Routed s (t.flitsAlong a n w) := by
  refine Routed.foldl _ (fun u e hu => ?_) h
  split
  · exact hu.modNeighbour ..
  · exact hu

theorem messageSent_routed (s : State) (st dst : Nat) (urgent : Bool) (words : Nat) : Routed s (s.messageSent st dst urgent words) := by
  have head : Routed s (s.headSent st dst) := by
    unfold State.headSent
    split
    · exact .refl s
    · exact Routed.foldl _ (fun _ _ h => h.headHop ..) (.refl s)
  unfold State.messageSent
  dsimp only
  split
  · exact head.flitsAlong ..
  · exact head

/-! ## Gauges (R175, R176) and record 0 of a mailbox (R153) -/

/-- Only thresholds differ, and the launches of those that have fired are on the agenda. -/
structure Gauged (s t : State) : Prop where
  rest : t = { s with stations := t.stations, agenda := t.agenda }
  station : ∀ n, t.station n = { s.station n with thresholds := (t.station n).thresholds }
  agenda : ∀ e ∈ s.agenda, e ∈ t.agenda

theorem Gauged.refl (s : State) : Gauged s s := ⟨rfl, fun _ => rfl, fun _ h => h⟩

theorem Gauged.now {s t : State} (h : Gauged s t) : t.now = s.now := by rw [h.rest]
theorem Gauged.dies {s t : State} (h : Gauged s t) : t.dies = s.dies := by rw [h.rest]
theorem Gauged.mem {s t : State} (h : Gauged s t) : t.mem = s.mem := by rw [h.rest]

theorem Gauged.foldl {α : Type} {s t : State} (l : List α) {f : State → α → State} (hf : ∀ u a, Gauged s u → Gauged s (f u a))
    (h : Gauged s t) : Gauged s (l.foldl f t) := by
  induction l generalizing t with
  | nil => exact h
  | cons a r ih => exact ih (hf _ _ h)

theorem Gauged.crossed {s t : State} (h : Gauged s t) (st n : Nat) (fire : Bool) (x : Threshold) (c : Word) :
    Gauged s (t.crossed st n fire x c) := by
  unfold State.crossed
  split
  · exact ⟨by rw [State.later, h.rest], h.station, fun e he => List.mem_append_left _ (h.agenda e he)⟩
  · exact h

theorem Gauged.modThresholds {s t : State} (h : Gauged s t) (st : Nat) (f : Station → List (Nat × Threshold)) :
    Gauged s (t.modStation st (fun x => { x with thresholds := f x })) := by
  refine ⟨by rw [State.modStation, State.setStation, h.rest], fun k => ?_, h.agenda⟩
  by_cases e : k = st
  · subst e
    rw [station_modStation_same, h.station k]
  · rw [station_modStation_other _ _ _ _ e]
    exact h.station k

theorem gauge_gauged (s : State) (st ev v : Nat) : Gauged s (s.gauge st ev v) :=
  Gauged.foldl _ (fun _ _ h => (h.modThresholds st _).crossed ..) (.refl s)

/-- Where no threshold is set a gauge tells nothing. -/
theorem gauge_none (s : State) (st ev v : Nat) (h : (s.station st).thresholds = []) : s.gauge st ev v = s := by
  rw [State.gauge, h]
  rfl

/-- What record 0 of a mailbox says (R153). -/
def Station.mailWord (x : Station) : Nat :=
  x.recordsInUse % 65536 + (x.mail.filter (fun r => !r.ret && !r.urg)).length % 65536 * 2 ^ 16 +
    (x.mail.filter (fun r => !r.ret && r.urg)).length % 65536 * 2 ^ 32

theorem mailStatus_eq (s : State) (st : Nat) : s.mailStatus st =
    (s.writeAt (s.recordAt st 0) (leBytes (s.station st).mailWord 8)).gauge st 0x20 (s.station st).recordsInUse := by
  unfold State.mailStatus Station.mailWord
  rfl

theorem mailStatus_gauged (s : State) (st : Nat) :
    Gauged (s.writeAt (s.recordAt st 0) (leBytes (s.station st).mailWord 8)) (s.mailStatus st) := by
  rw [mailStatus_eq]
  exact gauge_gauged ..

theorem mailStatus_station (s : State) (st n : Nat) :
    (s.mailStatus st).station n = { s.station n with thresholds := ((s.mailStatus st).station n).thresholds } := by
  have h := (mailStatus_gauged s st).station n
  rwa [station_writeAt] at h

theorem mailStatus_none (s : State) (st : Nat) (h : (s.station st).thresholds = []) :
    s.mailStatus st = s.writeAt (s.recordAt st 0) (leBytes (s.station st).mailWord 8) := by
  rw [mailStatus_eq, gauge_none]
  rw [station_writeAt, h]

@[simp] theorem mailStatus_now (s : State) (st : Nat) : (s.mailStatus st).now = s.now :=
  (mailStatus_gauged s st).now.trans (writeAt_now s _ _)

@[simp] theorem mailStatus_dies (s : State) (st : Nat) : (s.mailStatus st).dies = s.dies :=
  (mailStatus_gauged s st).dies.trans (writeAt_dies s _ _)

/-- A record that becomes free leaves the others (R153). -/
theorem freeRecord_mail (s : State) (st i : Nat) :
    ((s.freeRecord st i).station st).mail = (s.station st).mail.filter (fun r => r.idx != i) := by
  rw [State.freeRecord, mailStatus_station, station_modStation_same]
  rfl

/-! ## Values that come back (R90, R91) -/

/-- A part that comes back changes the record of its instruction, and may let it land. -/
theorem partBack_cases (s : State) (who : Who) (op off : Nat) (bs : List Byte) (tr : Option TrapInfo) :
    s.partBack who op off bs tr = s ∨ ∃ us, s.partBack who op off bs tr = s.modHolder who (fun h => { h with unsettled := us }) ∨
      s.partBack who op off bs tr = (s.modHolder who (fun h => { h with unsettled := us })).later (.loadLands who op) := by
  unfold State.partBack
  dsimp only
  split
  · exact .inl rfl
  · split
    · exact .inr ⟨_, .inr rfl⟩
    · exact .inr ⟨_, .inl rfl⟩

/-- Only the records of what is outstanding differ, and what may land is on the agenda. -/
structure Answered (s t : State) : Prop where
  rest : t = { s with stations := t.stations, agenda := t.agenda }
  station : ∀ n, t.station n = { s.station n with cores := (t.station n).cores }
  holder : ∀ w, t.holder w = { s.holder w with unsettled := (t.holder w).unsettled }

theorem Answered.refl (s : State) : Answered s s := ⟨rfl, fun _ => rfl, fun _ => rfl⟩

theorem Answered.modUnsettled (s : State) (who : Who) (us : List Unsettled) :
    Answered s (s.modHolder who (fun h => { h with unsettled := us })) := by
  refine ⟨rfl, fun n => ?_, fun w => ?_⟩
  · by_cases e : n = who.st
    · subst e
      rw [station_modHolder_same]
      rfl
    · rw [station_modHolder_other _ _ _ _ e]
  · by_cases e : w = who
    · subst e
      rw [holder_modHolder_same]
    · rw [holder_modHolder_other _ _ _ _ e]

theorem partBack_answered (s : State) (who : Who) (op off : Nat) (bs : List Byte) (tr : Option TrapInfo) :
    Answered s (s.partBack who op off bs tr) := by
  rcases partBack_cases s who op off bs tr with e | ⟨us, e | e⟩
  · rw [e]
    exact .refl s
  · rw [e]
    exact .modUnsettled ..
  · rw [e]
    obtain ⟨-, station, holder⟩ := Answered.modUnsettled s who us
    exact ⟨rfl, station, holder⟩

@[simp] theorem partBack_mem (s : State) (who : Who) (op off : Nat) (bs : List Byte) (tr : Option TrapInfo) :
    (s.partBack who op off bs tr).mem = s.mem := by
  rw [(partBack_answered ..).rest]

theorem partBack_station (s : State) (who : Who) (op off : Nat) (bs : List Byte) (tr : Option TrapInfo) (n : Nat) :
    (s.partBack who op off bs tr).station n =
      { s.station n with cores := ((s.partBack who op off bs tr).station n).cores } := (partBack_answered ..).station n

theorem partBack_holder (s : State) (who : Who) (op off : Nat) (bs : List Byte) (tr : Option TrapInfo) (w : Who) :
    (s.partBack who op off bs tr).holder w =
      { s.holder w with unsettled := ((s.partBack who op off bs tr).holder w).unsettled } := (partBack_answered ..).holder w

/-! ## Priorities told (R171) -/

/-- Holders are told by steps on the agenda. -/
theorem noticeEp_agenda (s : State) (ws : List Who) : s.noticeEp ws = { s with agenda := (s.noticeEp ws).agenda } := by
  induction ws generalizing s with
  | nil => rfl
  | cons w r ih =>
    have step : s.noticeEp (w :: r) =
      (if (s.holder w).state != .free && s.formEp w != (s.holder w).ep then s.later (.epRaise (.holder w)) else s).noticeEp r := rfl
    rw [step]
    split
    · rw [ih]
      rfl
    · exact ih s

@[simp] theorem noticeEp_mem (s : State) (ws : List Who) : (s.noticeEp ws).mem = s.mem := by rw [noticeEp_agenda]
@[simp] theorem station_noticeEp (s : State) (ws : List Who) (n : Nat) : (s.noticeEp ws).station n = s.station n := by
  rw [noticeEp_agenda]
  rfl
@[simp] theorem holder_noticeEp (s : State) (ws : List Who) (w : Who) : (s.noticeEp ws).holder w = s.holder w := by
  rw [noticeEp_agenda]
  rfl

end Sys2Proof.Machine
end

section
/-! PROOFS. Messages that leave, arrive and come back (R152 to R154, R191, R194, R196, R369, R371). -/
namespace Sys2Proof.Machine

theorem wordBytes_cons (w : Word) (ws : List Word) : wordBytes (w :: ws) = leBytes w.toNat 8 ++ wordBytes ws := by
  rw [wordBytes, wordBytes, List.map_cons, List.flatten_cons]

/-- The first bytes of what is written. -/
theorem memRead_leBytes_append (m : Memory) (a v n : Nat) (bs : List Byte) :
    memRead (memWrite m a (leBytes v n ++ bs)) a n = leBytes v n := by
  have read := memRead_memWrite (leBytes v n) m a
  rw [leBytes_length] at read
  rw [memWrite_append, memRead_memWrite_other (.inl (by rw [leBytes_length])), read]

/-! ## A message leaves its station (R191) -/

section
variable {s : State} {m : Msg} {w : Who} {op : Nat} (hl : m.left = false) (hs : m.source = .task w op)
include hl hs

theorem messageArrival_held (hd : s.storesDone (some (workOfTask w m.sender, op)) = false) :
    exec (.messageArrival m) s = .next s.wait := by
  change execMessageArrival m s = _
  simp only [execMessageArrival, hl, hs, hd, Bool.not_false, if_true]

theorem messageArrival_leaves (hd : s.storesDone (some (workOfTask w m.sender, op)) = true) : exec (.messageArrival m) s =
    .next (((s.modStation w.st (fun x => { x with outq := x.outq.filter (· != op) })).messageSent w.st m.dst
      (hdrUrg m.header) m.payload.length).later (.messageArrival { m with left := true })) := by
  change execMessageArrival m s = _
  simp only [execMessageArrival, hl, hs, hd, Bool.not_true, Bool.false_eq_true, if_false]

end

/-! ## A message arrives (R152, R153, R194, R196, R369, R424) -/

/-- Which records a message may take first. -/
def recKindOf (m : Msg) : RecKind :=
  if m.header.getLsbD 35 then .urgent else if m.source = .self then .own else .general

theorem recKindOf_eq (m : Msg) :
    (if hdrUrg m.header then RecKind.urgent else if m.source == .self then .own else .general) = recKindOf m := by
  simp only [recKindOf, hdrUrg, beq_iff_eq]

section
variable {s : State} {m : Msg} (hl : m.left = true) (hw : m.why = 0)
include hl hw

theorem messageArrival_host (hd : m.dst = 8193) : exec (.messageArrival m) s = .next (s.hostReply m (m.reply.getD 0)) := by
  change execMessageArrival m s = _
  simp only [execMessageArrival, hl, hw, hd, bne_self_eq_false, Bool.false_eq_true, if_false, if_true]

/-- A rank that is SHUT (R194). -/
theorem messageArrival_shutRank (hd : m.dst = 8192) :
    exec (.messageArrival m) s = .next (s.returnMsg (m.header.toNat / 2 ^ 18 % 2 ^ 13) m 1) := by
  change execMessageArrival m s = _
  have src : hdrSrc m.header = m.header.toNat / 2 ^ 18 % 2 ^ 13 := bitsOf_eq m.header 30 18
  rw [← src]
  simp only [execMessageArrival, hl, hw, hd, bne_self_eq_false, Bool.false_eq_true, if_false, if_true, Nat.reduceEqDiff]

variable (hd : m.dst < 8192)
include hd

theorem messageArrival_sealed (hx : (s.station m.dst).shut = true ∨ (s.station m.dst).sealed = true) :
    exec (.messageArrival m) s = .next ((s.cancelMember m).returnMsg m.dst m 2) := by
  change execMessageArrival m s = _
  have off : ((s.station m.dst).shut || (s.station m.dst).sealed) = true := by simpa using hx
  simp only [execMessageArrival, hl, hw, off, bne_self_eq_false, Bool.false_eq_true, if_false, if_true, if_neg (Nat.ne_of_lt hd),
    if_neg (show ¬ m.dst = 8193 by omega)]

variable (h1 : (s.station m.dst).shut = false) (h2 : (s.station m.dst).sealed = false)
include h1 h2

/-- What a message comes to at a station that takes messages. -/
theorem messageArrival_open : exec (.messageArrival m) s =
    if (s.station m.dst).pend then .next s.wait
    else if s.holdsSeq m.dst m.jseq || s.ended m then .next s
    else if (s.station m.dst).refuses (m.header.toNat / 2 ^ 40 % 256) m.gang.isSome then .next ((s.cancelMember m).returnMsg m.dst m 3)
    else if (s.station m.dst).seals.contains (m.header.toNat / 2 ^ 40 % 256) then .next ((s.cancelMember m).returnMsg m.dst m 4)
    else match (s.station m.dst).freeRecord (recKindOf m) with
      | none => .next s.wait
      | some i =>
        let gang := m.gang.map (fun g => (g.1, g.2, (m.payload.getD 2 0).toNat))
        if m.jseq != 0 then
          match s.journalAccept (dieOf m.dst) m with
          | none => .next s.wait
          | some t => .next (t.placeLaunch m i gang)
        else .next (s.placeLaunch m i gang) := by
  change execMessageArrival m s = _
  have handler : hdrHandler m.header = m.header.toNat / 2 ^ 40 % 256 := bitsOf_eq m.header 47 40
  rw [← handler, ← recKindOf_eq m]
  simp only [execMessageArrival, hl, hw, h1, h2, bne_self_eq_false, Bool.false_eq_true, if_false, if_neg (Nat.ne_of_lt hd),
    if_neg (show ¬ m.dst = 8193 by omega), Bool.or_self] <;> rfl

end

/-- A station without thresholds is told of a record that entered (R153). -/
theorem mailStatus_later_none {s : State} {st : Nat} (h : (s.station st).thresholds = []) (e : Instr) :
    (((s.mailStatus st).later e).station st = s.station st) ∧
      ((s.mailStatus st).later e).agenda = s.agenda ++ [{ due := s.now + 1, ev := e }] := by
  rw [mailStatus_none s st h, station_later, station_writeAt, later_agenda, writeAt_agenda, writeAt_now]
  exact ⟨rfl, rfl⟩

/-- A launch enters a record of a station without thresholds (R153). -/
theorem placeLaunch_enters (s : State) (m : Msg) (i : Nat) (h : (s.station m.dst).thresholds = []) : ∃ r,
    ((s.placeLaunch m i none).station m.dst).mail = (s.station m.dst).mail ++ [r] ∧ r.idx = i ∧ r.urg = m.header.getLsbD 35 ∧
    r.ret = false ∧ r.order = (s.station m.dst).arrivals ∧ r.sender = m.sender ∧
    ((s.placeLaunch m i none).station m.dst).arrivals = (s.station m.dst).arrivals + 1 ∧
    (s.placeLaunch m i none).agenda =
      s.agenda ++ [{ due := s.now + 1, ev := (if m.header.getLsbD 35 then .urgentLaunch m.dst else .launch m.dst) }] := by
  refine ⟨{ idx := i, urg := hdrUrg m.header, ret := false, order := (s.station m.dst).arrivals, own := m.source == .self,
            reply := m.reply, gang := none, sender := m.sender }, ?_⟩
  have entered := mailStatus_later_none (s := (s.writeAt (s.recordAt m.dst i) (wordBytes (msgWords m s.time ++ [0, 0]))).modStation m.dst
    (fun y => { y with
      mail := y.mail ++ [{ idx := i, urg := hdrUrg m.header, ret := false, order := (s.station m.dst).arrivals, own := m.source == .self,
                           reply := m.reply, gang := none, sender := m.sender }],
      arrivals := y.arrivals + 1 })) (st := m.dst) (by rw [station_modStation_same, station_writeAt, h])
    (if hdrUrg m.header then .urgentLaunch m.dst else .launch m.dst)
  rw [station_modStation_same, station_writeAt, modStation_agenda, modStation_now, writeAt_agenda, writeAt_now] at entered
  obtain ⟨station, agenda⟩ := entered
  rw [State.placeLaunch, station]
  exact ⟨rfl, rfl, rfl, rfl, rfl, rfl, rfl, agenda⟩

/-! ## A message comes back (R371) -/

section
variable {s : State} {m : Msg} (hl : m.left = true) (hw : m.why ≠ 0)
include hl hw

theorem messageArrival_returns : exec (.messageArrival m) s = .next (s.placeReturn m) := by
  change execMessageArrival m s = _
  have back : (m.why != 0) = true := by simpa using hw
  simp only [execMessageArrival, hl, back, if_true]

end

theorem placeReturn_lost {s : State} {m : Msg} (h : 8192 ≤ m.dst ∨ (s.station m.dst).shut = true) : s.placeReturn m = s := by
  have lost : (decide (8192 ≤ m.dst) || (s.station m.dst).shut) = true := by simpa using h
  simp only [State.placeReturn, lost, if_true]

section
variable {s : State} {m : Msg} (hd : m.dst < 8192) (hx : (s.station m.dst).shut = false)
include hd hx

theorem placeReturn_waits (h : (s.station m.dst).pend = true ∨ (s.station m.dst).freeRecord .own = none) : s.placeReturn m = s.wait := by
  rw [State.placeReturn]
  simp only [hx, Nat.not_le.2 hd, decide_false, Bool.or_self, Bool.false_eq_true, if_false]
  rcases h with h | h
  · rw [if_pos h]
  · simp only [h, ite_self]

theorem placeReturn_enters {i : Nat} (hp : (s.station m.dst).pend = false) (hf : (s.station m.dst).freeRecord .own = some i) :
    ∃ r, ((s.placeReturn m).station m.dst).mail = (s.station m.dst).mail ++ [r] ∧ r.idx = i ∧ r.ret = true ∧ r.sender = m.sender ∧
      ((s.placeReturn m).station m.dst).returns = (s.station m.dst).returns + 1 ∧
      { due := s.now + 1, ev := Instr.returnServe m.dst i } ∈ (s.placeReturn m).agenda := by
  refine ⟨{ idx := i, urg := false, ret := true, order := (s.station m.dst).arrivals, own := m.source == .self,
            reply := m.reply, gang := none, sender := m.sender }, ?_⟩
  rw [State.placeReturn]
  simp only [hx, hp, hf, Nat.not_le.2 hd, decide_false, Bool.or_self, Bool.false_eq_true, if_false, station_later, later_agenda,
    mailStatus_now, modStation_now, writeAt_now, true_and]
  rw [mailStatus_station, station_modStation_same]
  exact ⟨rfl, rfl, List.mem_append_right _ (List.mem_singleton_self _)⟩

end

/-! ## RETURN_SERVE (R371) -/

/-- What the innkeeper does with a return: the record is free and the station counts one less. -/
def State.served (s : State) (st n : Nat) : State := (s.modStation st (fun x => { x with returns := x.returns - 1 })).freeRecord st n

theorem returnServe_none {s : State} {st n : Nat} (h : (s.station st).mail.find? (fun r => r.idx == n && r.ret) = none) :
    exec (.returnServe st n) s = .next s := by
  change execReturnServe st n s = _
  simp only [execReturnServe, h]

section
variable {s : State} {st n : Nat} {r : MailRec} (hr : (s.station st).mail.find? (fun r => r.idx == n && r.ret) = some r)
include hr

/-- Of a task that has not ended. -/
theorem returnServe_live (h : ∃ c ∈ taskCores, (s.holder { st := st, core := c }).state ≠ .free ∧
    (s.holder { st := st, core := c }).state ≠ .reserved ∧ (s.holder { st := st, core := c }).taskid = r.sender) :
    exec (.returnServe st n) s = .next (s.served st n) := by
  change execReturnServe st n s = _
  have runs : taskCores.any (fun c => (s.holder { st := st, core := c }).state != .free &&
      (s.holder { st := st, core := c }).state != .reserved && (s.holder { st := st, core := c }).taskid == r.sender) = true := by
    simpa [and_assoc] using h
  simp only [execReturnServe, hr, runs, Bool.not_true, Bool.false_eq_true, if_false]
  rfl

/-- An orphan whose rank has not been re-pointed since. -/
theorem returnServe_drops (h : ∀ c ∈ taskCores, (s.holder { st := st, core := c }).taskid ≠ r.sender)
    (ht : ∀ t, find? s.repointed (hdrDest (s.recordMsg st r).header) = some t → t < (wordOf (s.recordWords st r.idx) 15).toNat) :
    exec (.returnServe st n) s = .next ((s.served st n).record (clusterBank (clusterOf st)) deferred 0x10 0
      (BitVec.ofNat 64 (hdrDest (s.recordMsg st r).header)) 0 0) := by
  change execReturnServe st n s = _
  have ended : taskCores.any (fun c => (s.holder { st := st, core := c }).state != .free &&
      (s.holder { st := st, core := c }).state != .reserved && (s.holder { st := st, core := c }).taskid == r.sender) = false := by
    refine List.any_eq_false.2 fun c hc => ?_
    simp [h c hc]
  have stays : (find? s.repointed (hdrDest (s.recordMsg st r).header)).any (fun t =>
      decide ((wordOf (s.recordWords st r.idx) 15).toNat ≤ t)) = false := by
    cases hf : find? s.repointed (hdrDest (s.recordMsg st r).header) with
    | none => rfl
    | some t => simpa using ht t hf
  simp only [execReturnServe, hr, ended, stays, Bool.not_false, if_true, Bool.false_eq_true, if_false]
  rfl

end

/-- A message that is routed leaves the records of every station (R197). -/
theorem routeMsg_mail (s : State) (st rank : Nat) (m : Msg) (n : Nat) : ((s.routeMsg st rank m).station n).mail = (s.station n).mail := by
  unfold State.routeMsg
  dsimp only
  split
  · by_cases e : n = st
    · subst e
      rw [station_modStation_same]
    · rw [station_modStation_other _ _ _ _ e]
  · rfl

/-- A record served is free, whatever becomes of its message. -/
theorem served_free (s : State) (st n : Nat) : ((s.served st n).station st).mail.all (fun r => r.idx != n || !r.ret) = true := by
  rw [State.served, freeRecord_mail]
  refine List.all_eq_true.2 fun r hr => ?_
  rw [(List.mem_filter.1 hr).2, Bool.true_or]

theorem returnServe_frees (s : State) (st n : Nat) :
    ∃ t, exec (.returnServe st n) s = .next t ∧ (t.station st).mail.all (fun r => r.idx != n || !r.ret) = true := by
  cases hr : (s.station st).mail.find? (fun r => r.idx == n && r.ret) with
  | none =>
    refine ⟨s, returnServe_none hr, List.all_eq_true.2 fun r h => ?_⟩
    have other := List.find?_eq_none.1 hr r h
    simpa [← imp_iff_not_or] using other
  | some r =>
    have free := served_free s st n
    change ∃ t, execReturnServe st n s = .next t ∧ _
    simp only [execReturnServe, hr]
    split
    · split
      · refine ⟨_, rfl, ?_⟩
        split
        · exact free
        · rw [routeMsg_mail]
          exact free
      · exact ⟨_, rfl, free⟩
    · exact ⟨_, rfl, free⟩

/-- Settles O50: a message that leaves, arrives or comes back, and the serving of returns, case by case. -/
theorem messageEvents : Obligations.MessageEvents := by
  intro s m x handler urgent kind back
  refine ⟨fun w op hl hs => ⟨messageArrival_held hl hs, fun hd => ?_⟩,
    fun hl hw => ⟨fun hd => ?_, messageArrival_shutRank hl hw, fun hd => ⟨messageArrival_sealed hl hw hd, ?_, ?_, ?_⟩⟩,
    fun hl hw => ⟨fun h => ?_, fun hd hx h => ?_, fun i hd hx hp hf => ?_⟩, fun st n h => ?_, fun st n r hr h => returnServe_live hr h,
    fun st n r hr h ht => returnServe_drops hr h ht, returnServe_frees s⟩
  · have routed := messageSent_routed (s.modStation w.st (fun x => { x with outq := x.outq.filter (· != op) })) w.st m.dst
      (hdrUrg m.header) m.payload.length
    refine ⟨_, messageArrival_leaves hl hs hd, ?_, ?_, ?_⟩
    · rw [station_later, routed.station, station_modStation_same]
    · rw [later_mem, routed.rest]
      rfl
    · rw [later_agenda, routed.rest]
      rfl
  · refine ⟨_, messageArrival_host hl hw hd, writeAt_stations .., writeAt_agenda .., ?_⟩
    rw [State.hostReply, writeAt_mem, List.append_assoc, List.singleton_append, wordBytes_cons]
    exact memRead_leBytes_append ..
  · intro h1 h2 hp
    rw [messageArrival_open hl hw hd h1 h2, if_pos hp]
  · intro h1 h2 hp h
    have seen : (s.holdsSeq m.dst m.jseq || s.ended m) = true := by simpa using h
    rw [messageArrival_open hl hw hd h1 h2, if_neg (by rw [hp]; decide), if_pos seen]
  · intro h1 h2 hp hq he
    have fresh : ¬ (s.holdsSeq m.dst m.jseq || s.ended m) = true := by simp [hq, he]
    rw [messageArrival_open hl hw hd h1 h2, if_neg (by rw [hp]; decide), if_neg fresh]
    refine ⟨fun hr => if_pos hr, fun hr hs => ?_, fun hr hs hf => ?_, fun i hr hs hf hj hg ht => ?_⟩
    · rw [if_neg (by rw [hr]; decide), if_pos (List.contains_iff_mem.2 hs)]
    · rw [if_neg (by rw [hr]; decide), if_neg (fun h => hs (List.contains_iff_mem.1 h)),
        show (s.station m.dst).freeRecord (recKindOf m) = _ from hf]
    · obtain ⟨r, entered⟩ := placeLaunch_enters s m i ht
      refine ⟨_, r, ?_, entered⟩
      rw [if_neg (by rw [hr]; decide), if_neg (fun h => hs (List.contains_iff_mem.1 h)),
        show (s.station m.dst).freeRecord (recKindOf m) = _ from hf]
      simp only [hj, hg, bne_self_eq_false, Bool.false_eq_true, if_false, Option.map_none]
  · rw [messageArrival_returns hl hw, placeReturn_lost h]
  · rw [messageArrival_returns hl hw, placeReturn_waits hd hx h]
  · obtain ⟨r, entered⟩ := placeReturn_enters hd hx hp hf
    exact ⟨_, r, messageArrival_returns hl hw, entered⟩
  · refine returnServe_none (List.find?_eq_none.2 fun r hr => ?_)
    simpa using h r hr

end Sys2Proof.Machine
end

section
/-! PROOFS. Launches of normal and urgent messages, deadlines, the masked window, thresholds and held failures (R154, R157 to R160,
R172, R173, R176, R300, R351). -/
namespace Sys2Proof.Machine

theorem hdrHandler_eq (h : Word) : hdrHandler h = h.toNat / 2 ^ 40 % 256 := bitsOf_eq h 47 40
theorem hdrClass_eq (h : Word) : hdrClass h = h.toNat / 2 ^ 31 % 16 := bitsOf_eq h 34 31

/-! ## LAUNCH (R157, R172) -/

theorem launch_nothing {s : State} {st : Nat}
    (h : (s.station st).shut = true ∨ ∀ r ∈ (s.station st).mail, r.ret = true ∨ r.urg = true) : exec (.launch st) s = .next s := by
  change execLaunch st s = _
  have idle : ((s.station st).shut || !(s.station st).mail.any (fun r => !r.ret && !r.urg)) = true := by
    rcases h with h | h
    · rw [h, Bool.true_or]
    · have none_ : (s.station st).mail.any (fun r => !r.ret && !r.urg) = false :=
        List.any_eq_false.2 fun r hr => by rcases h r hr with e | e <;> simp [e]
      rw [none_, Bool.not_false, Bool.or_true]
  simp only [execLaunch, idle, if_true]

section
variable {s : State} {st : Nat} (hs : (s.station st).shut = false) (hm : ∃ r ∈ (s.station st).mail, r.ret = false ∧ r.urg = false)
include hs hm

theorem launch_some : ((s.station st).shut || !(s.station st).mail.any (fun r => !r.ret && !r.urg)) = false := by
  obtain ⟨r, hr, h1, h2⟩ := hm
  have found : (s.station st).mail.any (fun r => !r.ret && !r.urg) = true := List.any_eq_true.2 ⟨r, hr, by simp [h1, h2]⟩
  rw [hs, found]
  rfl

theorem launch_pending (hp : (s.station st).pend = true) : exec (.launch st) s = .next s.wait := by
  change execLaunch st s = _
  simp only [execLaunch, launch_some hs hm, hp, Bool.false_eq_true, if_false, if_true]

variable (hp : (s.station st).pend = false)
include hp

theorem launch_none (hc : s.chooseLaunch st = none) : exec (.launch st) s = .next s.wait := by
  change execLaunch st s = _
  simp only [execLaunch, launch_some hs hm, hp, hc, Bool.false_eq_true, if_false]

variable {r : MailRec} {rs : List (Nat × Nat × Nat)} (hc : s.chooseLaunch st = some (r, rs))
include hc

theorem launch_refused (hr : (s.station st).refuses ((s.recordMsg st r).header.toNat / 2 ^ 40 % 256) r.gang.isSome = true)
    (hj : (s.recordMsg st r).jseq = 0) : exec (.launch st) s =
      .next ((((s.modStation st (fun y => { y with rounds := rs })).freeRecord st r.idx).cancelMember (s.recordMsg st r)).returnMsg st
        (s.recordMsg st r) 3) := by
  change execLaunch st s = _
  rw [← hdrHandler_eq] at hr
  simp only [execLaunch, launch_some hs hm, hp, hc, hr, hj, Bool.false_eq_true, if_false, if_true]

variable (hr : (s.station st).refuses ((s.recordMsg st r).header.toNat / 2 ^ 40 % 256) r.gang.isSome = false)
include hr

theorem launch_overdue (hd : (s.recordMsg st r).deadline.toNat ≤ s.now) : exec (.launch st) s =
    .next ((((s.modStation st (fun y => { y with rounds := rs })).freeRecord st r.idx).cancelMember (s.recordMsg st r)).killAtLaunch st
      (s.recordMsg st r)) := by
  change execLaunch st s = _
  rw [← hdrHandler_eq] at hr
  simp only [execLaunch, launch_some hs hm, hp, hc, hr, hd, Bool.false_eq_true, if_false, if_true]

variable (hd : s.now < (s.recordMsg st r).deadline.toNat)
include hd

theorem launch_full (hf : s.slotFor st r.gang = none) : exec (.launch st) s = .next s.wait := by
  change execLaunch st s = _
  rw [← hdrHandler_eq] at hr
  simp only [execLaunch, launch_some hs hm, hp, hc, hr, hf, Nat.not_le.2 hd, Bool.false_eq_true, if_false]

theorem launch_starts {c : Core} (hf : s.slotFor st r.gang = some c) : exec (.launch st) s =
    .next (((s.modStation st (fun y => { y with rounds := rs })).startTask st c r .run).freeRecord st r.idx) := by
  change execLaunch st s = _
  rw [← hdrHandler_eq] at hr
  simp only [execLaunch, launch_some hs hm, hp, hc, hr, hf, Nat.not_le.2 hd, Bool.false_eq_true, if_false]

end

/-! ## A task starts (R15, R26, R129) -/

theorem station_congr {s t : State} (h : t.stations = s.stations) (n : Nat) : t.station n = s.station n := by
  rw [State.station, h, State.station]

theorem holder_congr {s t : State} (h : t.stations = s.stations) (w : Who) : t.holder w = s.holder w := by
  rw [State.holder, station_congr h, State.holder]

/-- A task has its core and its station has counted it, whatever else its start changes. -/
structure Begun (w : Who) (k : Holder) (n : Nat) (t : State) : Prop where
  holder : t.holder w = k
  launches : (t.station w.st).launches = n
  gated : (t.station w.st).gated = false

theorem Begun.stations {w : Who} {k : Holder} {n : Nat} {s t : State} (h : Begun w k n s) (e : t.stations = s.stations) : Begun w k n t :=
  ⟨(holder_congr e w).trans h.holder, by rw [station_congr e, h.launches], by rw [station_congr e, h.gated]⟩

theorem Begun.setHolder {w : Who} {k : Holder} {n : Nat} {t : State} (h : Begun w k n t) {c : Core} (hc : w.core ≠ c) (l : Holder) :
    Begun w k n (t.setHolder { st := w.st, core := c } l) := by
  have same : (t.setHolder { st := w.st, core := c } l).station w.st = (t.station w.st).setCore c l := station_modStation_same ..
  refine ⟨?_, by rw [same]; exact h.launches, by rw [same]; exact h.gated⟩
  rw [holder_setHolder_other _ _ _ _ (fun e => hc (congrArg Who.core e)), h.holder]

/-- What the core of a task holds when it starts. -/
def State.taskHolder (s : State) (st : Nat) (core : Core) (r : MailRec) (state : HolderState) : Holder :=
  let m := s.recordMsg st r
  let e := (s.station st).handler (hdrHandler m.header)
  { ((s.holder { st := st, core := core }).launched m.header m.payload (entryCode e)) with
    state := state, tvec := wordAddr (entryTvec e),
    taskid := BitVec.ofNat 64 (rankOf st * 2 ^ 51 + slotNumber core * 2 ^ 48 + ((s.station st).launches + 1) % 2 ^ 48),
    tilec := m.tilec, cls := hdrClass m.header, deadl := m.deadline, ep := Nat.max m.ep (s.prio (hdrClass m.header)),
    task := some
      { header := m.header, payload := m.payload, srcRank := hdrSrc m.header, reply := r.reply, tcmn := entryTcmn e, phn := entryPhn e,
        loader := core != .urgent && entryLd e, storer := core != .urgent && entrySt e,
        cctr := if m.cv then some m.cctr else none, jseq := m.jseq, gang := r.gang } }

/-- The loader or the storer of a slot starts with its task (R38). -/
def State.startWith (s : State) (st : Nat) (core : Core) (m : Msg) (b : Bool) (c : Core) (off : Nat) : State :=
  if b then
    s.setHolder { st := st, core := c } { (s.holder { st := st, core := c }).launched m.header m.payload (BitVec.ofNat 64 (4 * off)) with
      serves := slotNumber core }
  else s

/-- The journal's entry of a task that starts says where (R426). -/
def State.startJournal (s : State) (st : Nat) (m : Msg) : State :=
  match s.journal.find? (fun j => j.seq == m.jseq && m.jseq != 0) with
  | some j =>
    let t := s.markEntry j.die j.idx 2 (rankOf st)
    { t with journal := t.journal.map (fun k => if k.seq == j.seq then { k with launched := true, station := rankOf st } else k) }
  | none => s

/-- A gang's member that starts takes its seat (R165). -/
def State.startSeat (s : State) (st : Nat) (core : Core) (gang : Option (Nat × Nat × Nat)) : State :=
  match gang with
  | some (die, g, _) => s.modDie die (fun d => { d with running := d.running.map (fun q : Gang =>
      if q.index = g then { q with members := seatMember (st, slotNumber core) q.members } else q) })
  | none => s

/-- The task is in its core, and its station has counted it. -/
def State.seated (s : State) (st : Nat) (core : Core) (r : MailRec) (state : HolderState) : State :=
  (s.modStation st (fun x => { x with launches := x.launches + 1, gated := false })).setHolder { st := st, core := core }
    (s.taskHolder st core r state)

/-- What has changed when a task has started, but for its deadline. -/
def State.started (s : State) (st : Nat) (core : Core) (r : MailRec) (state : HolderState) : State :=
  let m := s.recordMsg st r
  let e := (s.station st).handler (hdrHandler m.header)
  let s2 := (s.seated st core r state).startWith st core m (core != .urgent && entryLd e) .loader (entryLdoff e)
  let s3 := s2.startWith st core m (core != .urgent && entrySt e) .storer (entryStoff e)
  (s3.startJournal st m).startSeat st core r.gang

theorem handler_counted (x : Station) (k n : Nat) : Station.handler { x with launches := k, gated := false } n = x.handler n := rfl

theorem startTask_eq (s : State) (st : Nat) (core : Core) (r : MailRec) (state : HolderState) : s.startTask st core r state =
    if (s.recordMsg st r).deadline = noDeadline then s.started st core r state
    else (s.started st core r state).laterAt (s.recordMsg st r).deadline.toNat
      (.deadlineExpiry { st := st, core := core } (s.taskHolder st core r state).taskid) := by
  have old : (s.modStation st (fun x => { x with launches := x.launches + 1, gated := false })).holder { st := st, core := core } =
      s.holder { st := st, core := core } := holder_modStation _ _ _ _ rfl
  simp only [State.startTask, old, State.started, State.startWith, State.startJournal, State.startSeat, State.taskHolder,
    State.seated, station_modStation_same, handler_counted] <;> rfl

theorem seated_begun (s : State) (st : Nat) (core : Core) (r : MailRec) (state : HolderState) :
    Begun { st := st, core := core } (s.taskHolder st core r state) ((s.station st).launches + 1) (s.seated st core r state) := by
  have same : (s.seated st core r state).station st =
      Station.setCore { s.station st with launches := (s.station st).launches + 1, gated := false } core (s.taskHolder st core r state) := by
    rw [State.seated, State.setHolder, station_modStation_same, station_modStation_same]
  exact ⟨holder_setHolder_same .., by rw [same]; rfl, by rw [same]; rfl⟩

theorem Begun.startWith {w : Who} {k : Holder} {n : Nat} {t : State} (h : Begun w k n t) {c : Core} (hc : w.core ≠ c) (core : Core)
    (m : Msg) (b : Bool) (off : Nat) : Begun w k n (t.startWith w.st core m b c off) := by
  unfold State.startWith
  split
  · exact h.setHolder hc _
  · exact h

theorem startJournal_stations (s : State) (st : Nat) (m : Msg) : (s.startJournal st m).stations = s.stations := by
  unfold State.startJournal
  split <;> rfl

theorem startSeat_stations (s : State) (st : Nat) (core : Core) (gang : Option (Nat × Nat × Nat)) :
    (s.startSeat st core gang).stations = s.stations := by
  unfold State.startSeat
  split <;> rfl

theorem started_begun (s : State) {st : Nat} {core : Core} (r : MailRec) (state : HolderState) (hc : core ∈ taskCores) :
    Begun { st := st, core := core } (s.taskHolder st core r state) ((s.station st).launches + 1) (s.started st core r state) := by
  have loader : core ≠ .loader := by rintro rfl; exact absurd hc (by decide)
  have storer : core ≠ .storer := by rintro rfl; exact absurd hc (by decide)
  unfold State.started
  exact ((((seated_begun s st core r state).startWith loader ..).startWith storer ..).stations (startJournal_stations ..)).stations
    (startSeat_stations ..)

theorem startTask_begun (s : State) {st : Nat} {core : Core} (r : MailRec) (state : HolderState) (hc : core ∈ taskCores) :
    Begun { st := st, core := core } (s.taskHolder st core r state) ((s.station st).launches + 1) (s.startTask st core r state) := by
  rw [startTask_eq]
  split
  · exact started_begun s r state hc
  · exact (started_begun s r state hc).stations rfl

/-- A task's deadline is on the agenda (R172). -/
theorem startTask_deadline (s : State) (st : Nat) (core : Core) (r : MailRec) (state : HolderState)
    (h : (s.recordMsg st r).deadline ≠ noDeadline) :
    { due := (s.recordMsg st r).deadline.toNat,
      ev := Instr.deadlineExpiry { st := st, core := core } (s.taskHolder st core r state).taskid } ∈
        (s.startTask st core r state).agenda := by
  rw [startTask_eq, if_neg h, laterAt_agenda]
  exact List.mem_append_right _ (List.mem_singleton_self _)

/-! ## The urgent bank (R158 to R160) -/

theorem urgentLaunch_nothing {s : State} {st : Nat} (h : ∀ r ∈ (s.station st).mail, r.ret = true ∨ r.urg = false) :
    exec (.urgentLaunch st) s = .next s := by
  change execUrgentLaunch st s = _
  have none_ : (s.station st).mail.filter (fun r => !r.ret && r.urg) = [] :=
    List.filter_eq_nil_iff.2 fun r hr => by rcases h r hr with e | e <;> simp [e]
  simp only [execUrgentLaunch, none_, List.foldl_nil]

section
variable {s : State} {st : Nat} {r : MailRec} (hm : (s.station st).mail = [r]) (h1 : r.ret = false) (h2 : r.urg = true)
include hm h1 h2

/-- What the only urgent message of a station comes to. -/
theorem urgentLaunch_single : exec (.urgentLaunch st) s =
    if (s.station st).shut then .next s
    else if (s.station st).pend || (s.holder { st := st, core := .urgent }).state != .free then .next s.wait
    else if (s.station st).refuses ((s.recordMsg st r).header.toNat / 2 ^ 40 % 256) r.gang.isSome then
      .next (((if (s.recordMsg st r).jseq = 0 then s else s.journalRetire (s.recordMsg st r).jseq).freeRecord st r.idx).returnMsg st
        (s.recordMsg st r) 3)
    else if (s.recordMsg st r).deadline.toNat ≤ s.now then .next ((s.freeRecord st r.idx).killAtLaunch st (s.recordMsg st r))
    else .next ((((s.leaveReserved st r.gang).startTask st .urgent r .pending).freeRecord st r.idx).later (.urgentRun st)) := by
  change execUrgentLaunch st s = _
  have only : (s.station st).mail.filter (fun r => !r.ret && r.urg) = [r] := by simp [hm, h1, h2]
  rw [← hdrHandler_eq]
  simp only [execUrgentLaunch, only, List.foldl_cons, List.foldl_nil]

end

theorem urgentRun_idle {s : State} {st : Nat} (h : (s.holder { st := st, core := .urgent }).state ≠ .pending) :
    exec (.urgentRun st) s = .next s := by
  change execUrgentRun st s = _
  have other : ((s.holder { st := st, core := .urgent }).state != .pending) = true := by simpa using h
  simp only [execUrgentRun, other, if_true]

theorem windows_iff (s : State) (st : Nat) : (List.range 4).any (fun n => (s.holder { st := st, core := slotOf n }).window.isSome) = true ↔
    ∃ k, k < 4 ∧ (s.holder { st := st, core := slotOf k }).window ≠ none := by
  simp [Option.isSome_iff_ne_none]

section
variable {s : State} {st : Nat} (h : (s.holder { st := st, core := .urgent }).state = .pending)
include h

theorem urgentRun_pending : exec (.urgentRun st) s =
    if (List.range 4).any (fun n => (s.holder { st := st, core := slotOf n }).window.isSome) then .next s.wait
    else if (s.holder { st := st, core := .urgent }).deadl.toNat ≤ s.now then .next (s.deadlineKill { st := st, core := .urgent })
    else .next (s.modHolder { st := st, core := .urgent } (fun k => { k with state := .run })) := by
  change execUrgentRun st s = _
  simp only [execUrgentRun, h, bne_self_eq_false, Bool.false_eq_true, if_false]

end

/-! ## Deadlines (R172, R173) and the masked window (R160, R300) -/

section
variable {s : State} {who : Who} {task : Word}

theorem deadlineExpiry_not (h : ¬ ((s.holder who).taskid = task ∧ (s.holder who).state ≠ .free ∧ (s.holder who).state ≠ .reserved ∧
    (s.holder who).deadl.toNat ≤ s.now)) : exec (.deadlineExpiry who task) s = .next s := by
  change execDeadlineExpiry who task s = _
  have off : ((s.holder who).taskid != task || decide ((s.holder who).state = .free) || decide ((s.holder who).state = .reserved) ||
      decide (s.now < (s.holder who).deadl.toNat)) = true := by
    by_contra on
    exact h (by simpa [and_assoc] using on)
  simp only [execDeadlineExpiry, off, if_true]

variable (h1 : (s.holder who).taskid = task) (h2 : (s.holder who).state ≠ .free) (h3 : (s.holder who).state ≠ .reserved)
  (h4 : (s.holder who).deadl.toNat ≤ s.now)
include h1 h2 h3 h4

theorem deadlineExpiry_due : ((s.holder who).taskid != task || decide ((s.holder who).state = .free) ||
    decide ((s.holder who).state = .reserved) || decide (s.now < (s.holder who).deadl.toNat)) = false := by
  simp [h1, h2, h3, h4]

theorem deadlineExpiry_halted {b : Bool} (h : (s.holder who).state = .halted b) : exec (.deadlineExpiry who task) s = .next s.wait := by
  change execDeadlineExpiry who task s = _
  rw [execDeadlineExpiry, if_neg (by rw [deadlineExpiry_due h1 h2 h3 h4]; decide), h]

theorem deadlineExpiry_kills (h : ∀ b, (s.holder who).state ≠ .halted b) : exec (.deadlineExpiry who task) s =
    .next ((s.record (homeBank who.st) deferred 0x03 0x0B (s.holder who).pc 0 (s.holder who).taskid).kill who false) := by
  change execDeadlineExpiry who task s = _
  rw [execDeadlineExpiry, if_neg (by rw [deadlineExpiry_due h1 h2 h3 h4]; decide)]
  split
  · next b e => exact absurd e (h b)
  · rfl

end

section
variable {s : State} {who : Who} {opened : Nat}

theorem maskwinExpiry_closed (h : (s.holder who).window ≠ some opened) : exec (.maskwinExpiry who opened) s = .next s := by
  change execMaskwinExpiry who opened s = _
  have other : ((s.holder who).window != some opened) = true := by simpa using h
  simp only [execMaskwinExpiry, other, if_true]

variable (h : (s.holder who).window = some opened)
include h

theorem maskwinExpiry_early (hc : s.clock (dieOf who.st) < opened + 512) : exec (.maskwinExpiry who opened) s = .next s.wait := by
  change execMaskwinExpiry who opened s = _
  simp only [execMaskwinExpiry, h, hc, bne_self_eq_false, Bool.false_eq_true, if_false, if_true]

theorem maskwinExpiry_traps (hc : opened + 512 ≤ s.clock (dieOf who.st)) : exec (.maskwinExpiry who opened) s =
    .next ((s.closeWindow who).modHolder who (fun h => { h with asyncTrap := h.asyncTrap ++ [(trapOf 0x10 0, 0)] })) := by
  change execMaskwinExpiry who opened s = _
  simp only [execMaskwinExpiry, h, Nat.not_lt.2 hc, bne_self_eq_false, Bool.false_eq_true, if_false]
  rfl

end

/-- A window that closes leaves the rest of its holder and the memory (R300). -/
theorem closeWindow_holder (s : State) (who : Who) : (s.closeWindow who).holder who = { s.holder who with window := none } := by
  unfold State.closeWindow
  dsimp only
  split
  · rw [holder_modStation _ _ _ _ rfl, holder_modHolder_same]
  · rw [holder_modHolder_same]

theorem closeWindow_mem (s : State) (who : Who) : (s.closeWindow who).mem = s.mem := by
  unfold State.closeWindow
  dsimp only
  split <;> rfl

/-! ## THRESHOLD_FIRE (R155, R176) -/

/-- The fields of a header of the station itself (R155). -/
theorem selfHeader_toNat {st handler len cls : Nat} (urg : Bool) (h1 : st < 8192) (h2 : handler < 256) (h3 : len < 16) (h4 : cls < 16) :
    (selfHeader st handler len cls urg).toNat =
      st * 2 ^ 51 + handler * 2 ^ 40 + len * 2 ^ 36 + urg.toNat * 2 ^ 35 + cls * 2 ^ 31 + st * 2 ^ 18 := by
  have bit : (if urg then 2 ^ 35 else 0) = urg.toNat * 2 ^ 35 := by cases urg <;> rfl
  have small : urg.toNat ≤ 1 := Bool.toNat_le urg
  rw [selfHeader, bit, BitVec.toNat_ofNat, rankOf]
  omega

theorem getLsbD_eq_decide {n : Nat} (x : BitVec n) (i : Nat) : x.getLsbD i = decide (x.toNat / 2 ^ i % 2 = 1) := by
  rw [BitVec.getLsbD, Nat.testBit_eq_decide_div_mod_eq]

/-- Settles O51: launches, the urgent bank, deadlines, the masked window, thresholds and held failures, case by case. -/
theorem launchAndExpiryEvents : Obligations.LaunchAndExpiryEvents := by
  intro s st who task opened n count time x urgent windows
  refine ⟨launch_nothing, fun hs hm => ⟨launch_pending hs hm, launch_none hs hm, fun r rs hp hc => ⟨launch_refused hs hm hp hc,
      launch_overdue hs hm hp hc, launch_full hs hm hp hc, fun c hr hd hf => launch_starts hs hm hp hc hr hd hf⟩⟩,
    fun t c r k => ?_, urgentLaunch_nothing, fun r hm h1 h2 => ?_, urgentRun_idle, fun hp => ?_,
    ⟨deadlineExpiry_not, fun b ⟨h1, h2, h3, h4⟩ h => deadlineExpiry_halted h1 h2 h3 h4 h,
      fun ⟨h1, h2, h3, h4⟩ h => deadlineExpiry_kills h1 h2 h3 h4 h, maskwinExpiry_closed, maskwinExpiry_early, fun h hc => ?_, rfl⟩,
    fun urg cls handler h1 h2 h3 => ?_⟩
  · intro m e u h _ hc
    have task : c ∈ taskCores := by simpa [taskCores] using hc
    obtain ⟨holder, launches, gated⟩ := startTask_begun t r k task
    have is : h = t.taskHolder st c r k := holder
    have handler : e = (t.station st).handler (hdrHandler m.header) := by rw [hdrHandler_eq]
    rw [is, handler, ← hdrClass_eq]
    refine ⟨rfl, rfl, rfl, rfl, rfl, rfl, rfl, rfl, rfl, rfl, rfl, launches, gated, ?_, fun hd => startTask_deadline t st c r k hd⟩
    exact BitVec.toNat_ofNat ..
  · have single := urgentLaunch_single hm h1 h2
    refine ⟨fun hs => ?_, fun hs h => ?_, fun hs hp hf => ?_⟩
    · rw [single, if_pos hs]
    · have busy : ((s.station st).pend || (s.holder { st := st, core := .urgent }).state != .free) = true := by simpa using h
      rw [single, if_neg (by rw [hs]; decide), if_pos busy]
    · have free : ((s.station st).pend || (s.holder { st := st, core := .urgent }).state != .free) = false := by
        simpa using And.intro hp hf
      rw [single, if_neg (by rw [hs]; decide), if_neg (by rw [free]; decide)]
      refine ⟨fun hr hj => ?_, fun hr hd => ?_, fun hr hd => ?_⟩
      · rw [if_pos hr, if_pos hj]
      · rw [if_neg (by rw [hr]; decide), if_pos hd]
      · rw [if_neg (by rw [hr]; decide), if_neg (Nat.not_le.2 hd)]
  · rw [urgentRun_pending hp]
    refine ⟨fun hw => if_pos ((windows_iff s st).2 hw), fun hw hd => ?_, fun hw hd => ?_⟩
    · rw [if_neg (fun h => hw ((windows_iff s st).1 h)), if_pos hd]
    · rw [if_neg (fun h => hw ((windows_iff s st).1 h)), if_neg (Nat.not_le.2 hd)]
  · refine ⟨_, maskwinExpiry_traps h hc, ?_, ?_, closeWindow_mem s who, ?_⟩ <;> rw [holder_modHolder_same, closeWindow_holder]
  · have value := selfHeader_toNat (len := 3) urg h1 h3 (by decide) h2
    have bit := Bool.toNat_le urg
    have at51 : (selfHeader st handler 3 cls urg).toNat / 2 ^ 51 = st := by omega
    have at40 : (selfHeader st handler 3 cls urg).toNat / 2 ^ 40 = st * 2 ^ 11 + handler := by omega
    have at36 : (selfHeader st handler 3 cls urg).toNat / 2 ^ 36 = (st * 2 ^ 11 + handler) * 2 ^ 4 + 3 := by omega
    have at35 : (selfHeader st handler 3 cls urg).toNat / 2 ^ 35 = ((st * 2 ^ 11 + handler) * 2 ^ 4 + 3) * 2 + urg.toNat := by omega
    have at31 : (selfHeader st handler 3 cls urg).toNat / 2 ^ 31 = (((st * 2 ^ 11 + handler) * 2 ^ 4 + 3) * 2 + urg.toNat) * 2 ^ 4 + cls := by
      omega
    have class_ : (selfHeader st handler 3 cls urg).toNat / 2 ^ 31 % 16 = cls := by
      rw [at31]
      omega
    refine ⟨_, rfl, rfl, rfl, rfl, rfl, at51, ?_, ?_, ?_, class_, ?_, rfl⟩
    · rw [at40]
      omega
    · rw [at36]
      omega
    · rw [getLsbD_eq_decide, at35]
      cases urg
      · exact decide_eq_false (by rw [Bool.toNat_false]; omega)
      · exact decide_eq_true (by rw [Bool.toNat_true]; omega)
    · exact congrArg s.prio ((hdrClass_eq _).trans class_)

end Sys2Proof.Machine
end

section
/-! PROOFS. Phaser operations at their home, effective priorities told, and steals (R171, R177 to R181, R201 to R205, R372). -/
namespace Sys2Proof.Machine

/-! ## A phaser command on its way (R201, R202, R372) -/

theorem releases_iff (c : PhaserCmd) : (match c with | .leave | .sig | .sigw => true | _ => false) = true ↔ c = .leave ∨ c = .sig ∨ c = .sigw := by
  cases c <;> simp

section
variable {s : State} {o : PhaserOp} (hs : o.sent = false)
include hs

theorem phaserOp_held (hr : o.cmd = .leave ∨ o.cmd = .sig ∨ o.cmd = .sigw)
    (hd : s.storesDone (some (workOfTask o.who o.task, o.op)) = false) : exec (.phaserOpAtHome o) s = .next s.wait := by
  change execPhaserOpAtHome o s = _
  have release := (releases_iff o.cmd).2 hr
  unfold execPhaserOpAtHome
  dsimp only
  rw [hs, Bool.not_false, if_pos rfl, if_pos]
  rw [hd, Bool.not_false, Bool.and_true]
  exact release

theorem phaserOp_leaves (h : o.cmd = .leave ∨ o.cmd = .sig ∨ o.cmd = .sigw → s.storesDone (some (workOfTask o.who o.task, o.op)) = true) :
    exec (.phaserOpAtHome o) s = .next (s.later (.phaserOpAtHome { o with sent := true })) := by
  change execPhaserOpAtHome o s = _
  unfold execPhaserOpAtHome
  dsimp only
  rw [hs, Bool.not_false, if_pos rfl, if_neg]
  intro hold
  obtain ⟨release, undone⟩ := Bool.and_eq_true_iff.1 hold
  rw [h ((releases_iff o.cmd).1 release)] at undone
  exact absurd undone (by decide)

end

section
variable {s : State} {o : PhaserOp}

theorem phaserOp_there (h1 : o.home < 8192) (h2 : (s.station o.home).shut = false) (h3 : o.rank = o.home) :
    ¬ (decide (8192 ≤ o.home) || (s.station o.home).shut || o.rank != rankOf o.home) = true := by
  simp [rankOf, h1, h2, h3]

theorem phaserOp_live (hl : ∀ mode, o.cmd = .join mode → s.phaserLive o = true) :
    ¬ ((match o.cmd with | .join _ => true | _ => false) && !s.phaserLive o) = true := by
  cases hc : o.cmd with
  | join mode => rw [hl mode hc, Bool.not_true, Bool.and_false]; decide
  | _ => exact fun h => absurd h (by rw [Bool.false_and]; decide)

variable (hs : o.sent = true)
include hs

theorem phaserOp_returned (h : ¬ (o.home < 8192 ∧ (s.station o.home).shut = false ∧ o.rank = o.home)) :
    exec (.phaserOpAtHome o) s = .next (s.phaserReturned o) := by
  change execPhaserOpAtHome o s = _
  have away : (decide (8192 ≤ o.home) || (s.station o.home).shut || o.rank != rankOf o.home) = true := by
    by_contra at_
    exact h (by simpa [rankOf, and_assoc] using at_)
  unfold execPhaserOpAtHome
  dsimp only
  rw [hs, Bool.not_true, if_neg (by decide), if_pos away]

variable (h1 : o.home < 8192) (h2 : (s.station o.home).shut = false) (h3 : o.rank = o.home)
include h1 h2 h3

/-- A join of a task that has ended. -/
theorem phaserOp_dead {mode : Nat} (hj : o.cmd = .join mode) (hl : s.phaserLive o = false) : exec (.phaserOpAtHome o) s = .next s := by
  change execPhaserOpAtHome o s = _
  unfold execPhaserOpAtHome
  dsimp only
  rw [hs, Bool.not_true, if_neg (by decide), if_neg (phaserOp_there h1 h2 h3), hj, hl, Bool.not_false, Bool.and_true, if_pos rfl]

variable (hl : ∀ mode, o.cmd = .join mode → s.phaserLive o = true)
include hl

theorem phaserOp_late (hk : (s.station o.home).phLast.1 = s.clock (dieOf o.home) ∧ phaserKey o < (s.station o.home).phLast.2) :
    exec (.phaserOpAtHome o) s = .next s.wait := by
  change execPhaserOpAtHome o s = _
  unfold execPhaserOpAtHome
  dsimp only
  rw [hs, Bool.not_true, if_neg (by decide), if_neg (phaserOp_there h1 h2 h3)]
  refine (if_neg (phaserOp_live hl)).trans (if_pos ?_)
  simpa using hk

end

/-! ## Its turn at the home (R177 to R179, R201, R203) -/

/-- A command enters the list of those that wait at its home. -/
def State.phaserPlaced (s : State) (o : PhaserOp) (p : Phaser) : State :=
  (s.modStation o.home (fun x => { x with phLast := (s.clock (dieOf o.home), phaserKey o) })).setPhaser o.home o.idx
    { p with waiting := p.waiting ++ [{ op := o, signalled := false }] }

/-- The home then tries those that wait, and its members are told. -/
def State.phaserTried (s : State) (o : PhaserOp) (p : Phaser) : State :=
  let t := State.phaserRun o.home o.idx (2 * p.waiting.length + 2) (s.phaserPlaced o p)
  t.noticeEp (p.members.map (·.who) ++ ((t.station o.home).phaser o.idx).members.map (·.who))

theorem phaser_setPhaser (s : State) (home idx : Nat) (p : Phaser) : ((s.setPhaser home idx p).station home).phaser idx = p := by
  rw [State.setPhaser, station_modStation_same, Station.phaser, look_put_same]

theorem phasers_modHolder (s : State) (w : Who) (f : Holder → Holder) (n : Nat) :
    ((s.modHolder w f).station n).phasers = (s.station n).phasers := by
  by_cases e : n = w.st
  · subst e
    rw [station_modHolder_same]
    rfl
  · rw [station_modHolder_other _ _ _ _ e]

/-- The home has no more to try once a command's turn has left none that waits. -/
theorem phaserRun_once {home idx : Nat} {s t : State}
    (h : s.phaserStep home idx ((s.station home).phaser idx) [] ((s.station home).phaser idx).waiting = some t)
    (hw : ((t.station home).phaser idx).waiting = []) : State.phaserRun home idx 2 s = t := by
  have last : State.phaserRun home idx 1 t = t := by
    rw [State.phaserRun]
    simp only [hw, State.phaserStep]
  rw [State.phaserRun]
  simp only [h, last]

/-- A command that is not a leave and comes in its turn to a phaser where none waits. -/
theorem phaserOp_turn {s : State} {o : PhaserOp} (hs : o.sent = true)
    (h1 : o.home < 8192) (h2 : (s.station o.home).shut = false) (h3 : o.rank = o.home)
    (hk : ¬ ((s.station o.home).phLast.1 = s.clock (dieOf o.home) ∧ phaserKey o < (s.station o.home).phLast.2))
    (hl : ∀ mode, o.cmd = .join mode → s.phaserLive o = true) (hc : o.cmd ≠ .leave)
    {p : Phaser} (hp : (s.station o.home).phaser o.idx = p) (hw : p.waiting = []) {t : State}
    (step : (s.phaserPlaced o p).phaserStep o.home o.idx { p with waiting := [{ op := o, signalled := false }] } []
      [{ op := o, signalled := false }] = some t)
    (ht : ((t.station o.home).phaser o.idx).waiting = []) : ∃ ws, exec (.phaserOpAtHome o) s = .next (t.noticeEp ws) := by
  have placed : ((s.phaserPlaced o p).station o.home).phaser o.idx = { p with waiting := [{ op := o, signalled := false }] } := by
    rw [State.phaserPlaced, phaser_setPhaser, hw, List.nil_append]
  have run : State.phaserRun o.home o.idx 2 (s.phaserPlaced o p) = t := phaserRun_once (by rw [placed]; exact step) ht
  have stays : ¬ ((match o.cmd with | .leave => true | _ => false) && !s.phaserLive o) = true := by
    cases ho : o.cmd with
    | leave => exact absurd ho hc
    | _ => exact fun h => absurd h (by rw [Bool.false_and]; decide)
  have tried : s.phaserTried o p = t.noticeEp (p.members.map (·.who) ++ ((t.station o.home).phaser o.idx).members.map (·.who)) := by
    rw [State.phaserTried, hw, List.length_nil, run]
  refine ⟨_, Eq.trans ?_ (congrArg Host.Outcome.next tried)⟩
  change execPhaserOpAtHome o s = _
  unfold execPhaserOpAtHome
  dsimp only
  rw [hs, Bool.not_true, if_neg (by decide), if_neg (phaserOp_there h1 h2 h3)]
  refine (if_neg (phaserOp_live hl)).trans ((if_neg (by simpa using hk)).trans ?_)
  exact congrArg (fun q => Host.Outcome.next (s.phaserTried o q)) ((if_neg stays).trans hp)

/-- Who waits has no part in the advance rule (R178). -/
theorem advance_waiting (p : Phaser) (l : List PhWait) : Phaser.advance { p with waiting := l } = { p.advance with waiting := l } := by
  unfold Phaser.advance
  dsimp only
  split <;> rfl

/-- A phaser with the task of a command as its one member. -/
def Phaser.joined (p : Phaser) (o : PhaserOp) (mode : Nat) (l : List PhWait) : Phaser :=
  { phase := p.phase, members := [{ who := workOfTask o.who o.task, task := o.task, mode := mode, cnt := p.phase }], waiting := l }

theorem next_ne (x : BitVec 32) : x ≠ x + 1 := by
  intro h
  have := congrArg BitVec.toNat h
  rw [BitVec.toNat_add] at this
  have := x.isLt
  have one : (1 : BitVec 32).toNat = 1 := rfl
  omega

/-- A member that has just joined has signalled nothing. -/
theorem joined_advance (p : Phaser) (o : PhaserOp) (mode : Nat) (l : List PhWait) : (p.joined o mode l).advance = p.joined o mode l := by
  by_cases e : mode = 1 <;> simp [Phaser.advance, Phaser.joined, e]

section
variable (s : State) {o : PhaserOp} (p : Phaser)

/-- The snapshot of R203 goes back. -/
theorem phaserStep_qry (hc : o.cmd = .qry) :
    s.phaserStep o.home o.idx { p with waiting := [{ op := o, signalled := false }] } [] [{ op := o, signalled := false }] =
      some ((s.setPhaser o.home o.idx { p.advance with waiting := [] }).partBack o.who o.op 0
        (leBytes (p.snapshot o.task).toNat 8) none) := by
  rw [State.phaserStep, Phaser.turn]
  simp only [hc, advance_waiting, List.any_nil, Bool.false_eq_true, if_false]
  rfl

/-- The first member of a phaser joins at its phase. -/
theorem phaserStep_join {mode : Nat} (hc : o.cmd = .join mode) (hm : p.members = []) :
    s.phaserStep o.home o.idx { p with waiting := [{ op := o, signalled := false }] } [] [{ op := o, signalled := false }] =
      some (((s.setPhaser o.home o.idx (p.joined o mode [])).modHolder (workOfTask o.who o.task) (fun h =>
        { h with phasers := h.phasers ++ [{ rank := o.rank, idx := o.idx, mode := mode }] })).partBack o.who o.op 0 [] none) := by
  have stays := joined_advance p o mode [{ op := o, signalled := false }]
  rw [Phaser.joined] at stays
  rw [State.phaserStep, Phaser.turn]
  simp only [hc, hm, stays, List.any_nil, List.length_nil, List.nil_append, Nat.reduceLeDiff, Bool.false_eq_true, if_false]
  rfl

/-- The signal of the one signaller advances the phase. -/
theorem phaserStep_sig {m : PhMember} (hc : o.cmd = .sig) (hm : p.members = [m]) (ht : m.task = o.task) (h1 : m.mode ≠ 1)
    (hn : m.cnt = p.phase) :
    s.phaserStep o.home o.idx { p with waiting := [{ op := o, signalled := false }] } [] [{ op := o, signalled := false }] =
      some (s.setPhaser o.home o.idx { phase := p.phase + 1, members := [{ m with cnt := p.phase + 1 }], waiting := [] }) := by
  have found : Phaser.member { p with waiting := [{ op := o, signalled := false }] } o.task = some m := by
    simp [Phaser.member, hm, ht]
  have given : Phaser.advance (Phaser.setMember { p with waiting := [{ op := o, signalled := false }] } { m with cnt := p.phase + 1 }) =
      { phase := p.phase + 1, members := [{ m with cnt := p.phase + 1 }], waiting := [{ op := o, signalled := false }] } := by
    simp [Phaser.advance, Phaser.setMember, hm, h1]
  rw [State.phaserStep, Phaser.turn]
  simp only [hc, found, hn, given, next_ne, List.any_nil, List.nil_append, Bool.false_eq_true, if_false]

end

/-! ## Effective priorities (R171) -/

section
variable {s : State} {w : Who}

theorem epRaise_same (h : (s.holder w).state = .free ∨ s.formEp w = (s.holder w).ep) : exec (.epRaise (.holder w)) s = .next s := by
  change execEpRaise (.holder w) s = _
  unfold execEpRaise
  refine if_pos ?_
  simpa using h

theorem epRaise_rises (h1 : (s.holder w).state ≠ .free) (h2 : s.formEp w ≠ (s.holder w).ep) : exec (.epRaise (.holder w)) s =
    .next ((s.setHolder w { s.holder w with ep := s.formEp w }).noticeEp (s.signallersFor (s.holder w).taskid)) := by
  change execEpRaise (.holder w) s = _
  unfold execEpRaise
  refine if_neg ?_
  simpa using And.intro h1 h2

end

/-- A launch that waits for a counter takes at least its CPRI. -/
def State.raised (s : State) (id cpri : Nat) (r : Ready) : Ready :=
  if r.cctr = some id then { r with ep := Nat.max (s.prio (hdrClass r.header)) cpri } else r

/-- A dispatcher whose launches are told. -/
def State.raisedDie (s : State) (id cpri : Nat) (d : Die) : Die :=
  { d with ready := d.ready.map (s.raised id cpri), gangs := d.gangs.map (s.raised id cpri) }

theorem epRaise_counter {s : State} (id cpri : Nat) (h : s.stations = []) : exec (.epRaise (.counter id cpri)) s =
    .next { s with dies := s.dies.map (fun d => (d.1, s.raisedDie id cpri d.2)) } := by
  change execEpRaise (.counter id cpri) s = _
  unfold execEpRaise
  simp only [h, List.foldl_nil]
  rfl

theorem look_map {α : Type} (d : α) (f : α → α) (hf : f d = d) (l : List (Nat × α)) (n : Nat) :
    look d (l.map (fun e => (e.1, f e.2))) n = f (look d l n) := by
  induction l with
  | nil => simp [look, hf]
  | cons e r ih =>
    obtain ⟨k, v⟩ := e
    by_cases h : k = n
    · simp [look, h]
    · simp [look, h, ih]

/-! ## Steals (R180, R204, R205, R372) -/

section
variable {s : State} {y : Steal}

theorem steal_away (h : 8192 ≤ y.victim ∨ (s.station y.victim).shut = true ∨ y.rank ≠ y.victim) :
    (decide (8192 ≤ y.victim) || (s.station y.victim).shut || y.rank != rankOf y.victim) = true := by
  simpa [rankOf, or_assoc] using h

theorem steal_gone_own (h : 8192 ≤ y.victim ∨ (s.station y.victim).shut = true ∨ y.rank ≠ y.victim) (hw : y.who = none) :
    exec (.stealAtVictim y) s = .next s := by
  change execStealAtVictim y s = _
  rw [execStealAtVictim, if_pos (steal_away h), hw]

theorem steal_gone {w : Who} {op : Nat} (h : 8192 ≤ y.victim ∨ (s.station y.victim).shut = true ∨ y.rank ≠ y.victim)
    (hw : y.who = some (w, op)) : exec (.stealAtVictim y) s =
      .next (s.partBack w op 0 [] (some (trapOf 0x0F (BitVec.ofNat 64 y.rank)))) := by
  change execStealAtVictim y s = _
  rw [execStealAtVictim, if_pos (steal_away h), hw]
  rfl

variable (h : ¬ (8192 ≤ y.victim ∨ (s.station y.victim).shut = true ∨ y.rank ≠ y.victim))
include h

theorem steal_there : ¬ (decide (8192 ≤ y.victim) || (s.station y.victim).shut || y.rank != rankOf y.victim) = true :=
  fun e => h (by simpa [rankOf, or_assoc] using e)

theorem steal_late (hk : (s.station y.victim).dqLast.1 = s.clock (dieOf y.victim) ∧ stealKey y < (s.station y.victim).dqLast.2) :
    exec (.stealAtVictim y) s = .next s.wait := by
  change execStealAtVictim y s = _
  rw [execStealAtVictim, if_neg (steal_there h), if_pos]
  simpa [State.dequeLate] using hk

theorem steal_takes {w : Who} {op : Nat} (hk : ¬ ((s.station y.victim).dqLast.1 = s.clock (dieOf y.victim) ∧
    stealKey y < (s.station y.victim).dqLast.2)) (hw : y.who = some (w, op)) : exec (.stealAtVictim y) s =
      .next ((s.takeTop y).2.partBack w op 0 (leBytes (s.takeTop y).1.1.toNat 8 ++ leBytes (s.takeTop y).1.2 8) none) := by
  change execStealAtVictim y s = _
  rw [execStealAtVictim, if_neg (steal_there h), if_neg, hw]
  simpa [State.dequeLate] using hk

end

theorem takeTop_empty {s : State} {y : Steal} (h : (s.station y.victim).deque = []) : s.takeTop y = ((0#64, 0),
    s.modStation y.victim (fun x => { x with deque := [], dqLast := (s.clock (dieOf y.victim), stealKey y) })) := by
  simp only [State.takeTop, h, List.getLast?_nil]

/-- The larger half goes to the thief (R180). -/
theorem takeTop_half {s : State} {y : Steal} {l : List (Word × Nat)} {j : Word} {n : Nat}
    (h : (s.station y.victim).deque = l ++ [(j, n)]) (hn : 2 ≤ n) : s.takeTop y =
      ((setField j 23 0 (bitsOf j 23 0 + n / 2), n - n / 2),
        s.modStation y.victim (fun x => { x with deque := l ++ [(j, n / 2)], dqLast := (s.clock (dieOf y.victim), stealKey y) })) := by
  have half : n / 2 ≠ 0 := by omega
  simp only [State.takeTop, h, List.getLast?_append, List.getLast?_singleton, Option.some_or, List.dropLast_concat, splitEntry, half,
    if_false]

theorem setField_low_add {j : Word} {k : Nat} (h : j.toNat % 2 ^ 24 + k < 2 ^ 24) :
    (setField j 23 0 (bitsOf j 23 0 + k)).toNat = j.toNat + k := by
  have := j.isLt
  rw [setField, bitsOf_eq, BitVec.toNat_ofNat]
  omega

section
variable {s : State} {st : Nat}

theorem stealAttempt_ends (h : entryCode ((s.station st).handler 254) = 0) : exec (.stealAttempt st) s = .next s := by
  change execStealAttempt st s = _
  rw [execStealAttempt, if_pos (by rw [h]; decide)]

variable (h : entryCode ((s.station st).handler 254) ≠ 0)
include h

theorem stealAttempt_waits (hi : s.idle st = false ∨ s.clock (dieOf st) < (s.station st).stealAt + 1024) :
    exec (.stealAttempt st) s = .next s.wait := by
  change execStealAttempt st s = _
  rw [execStealAttempt, if_neg (by simpa using h), if_pos]
  simpa using hi

theorem stealAttempt_asks (hi : s.idle st = true) (hc : (s.station st).stealAt + 1024 ≤ s.clock (dieOf st)) :
    ∃ v, exec (.stealAttempt st) s = .next (((s.modStation st (fun y =>
      { y with stealNext := (y.stealNext + 1) % 15, stealAt := s.clock (dieOf st) })).sendSteal
        { thief := st, rank := rankOf v, victim := v, who := none }).laterAt (s.now + 1024) (.stealAttempt st)) := by
  refine ⟨(clusterStations (clusterOf st)).getD
    ((((clusterStations (clusterOf st)).findIdx? (· == st)).getD 0 + 1 + (s.station st).stealNext) % 16) st, ?_⟩
  change execStealAttempt st s = _
  rw [execStealAttempt, if_neg (by simpa using h), if_neg]
  simpa [hi] using hc

end

/-- A steal that is sent leaves the counts of its station's own attempts. -/
theorem sendSteal_attempts (s : State) (y : Steal) (st : Nat) : ((s.sendSteal y).station st).stealNext = (s.station st).stealNext ∧
    ((s.sendSteal y).station st).stealAt = (s.station st).stealAt := by
  unfold State.sendSteal
  dsimp only
  split
  · by_cases e : st = y.thief
    · subst e
      rw [station_modStation_same]
      exact ⟨rfl, rfl⟩
    · rw [station_modStation_other _ _ _ _ e]
      exact ⟨rfl, rfl⟩
  · exact ⟨rfl, rfl⟩

/-- Settles O52: phaser operations, effective priorities and steals, case by case. -/
theorem syncEvents : Obligations.SyncEvents := by
  intro s o y st release mine done at_ key late there ready p
  refine ⟨fun hs hr hd => phaserOp_held hs hr hd, fun hs h => phaserOp_leaves hs h, phaserOp_returned,
    fun mode hs ⟨h1, h2, h3⟩ => phaserOp_dead hs h1 h2 h3, fun hs ⟨h1, h2, h3⟩ hk hl => phaserOp_late hs h1 h2 h3 hl hk,
    fun hs ⟨⟨h1, h2, h3⟩, hk⟩ hc hw ha => ?_, fun mode hs ⟨⟨h1, h2, h3⟩, hk⟩ hc hl hw hm => ?_,
    fun m hs ⟨⟨h1, h2, h3⟩, hk⟩ hc hw hm ht hd hn => ?_, fun w => epRaise_same, fun w h1 h2 => ?_, fun id cpri hs => ?_, ?_,
    stealAttempt_ends, fun h => ⟨stealAttempt_waits h, fun hi hc => ?_⟩⟩
  · have step := phaserStep_qry (s.phaserPlaced o p) p hc
    have told : ∀ bs, (((((s.phaserPlaced o p).setPhaser o.home o.idx { p.advance with waiting := [] }).partBack o.who o.op 0 bs none).station
        o.home).phaser o.idx) = { p with waiting := [] } := fun bs => by
      rw [Station.phaser, partBack_station, ha]
      exact phaser_setPhaser ..
    obtain ⟨ws, run⟩ := phaserOp_turn hs h1 h2 h3 hk (fun mode e => by rw [hc] at e; cases e) (by rw [hc]; decide) rfl hw step (by rw [told])
    refine ⟨_, run, ?_, ?_, ?_, ?_⟩
    · rw [station_noticeEp, told]
    · rw [station_noticeEp, told]
    · rw [station_noticeEp, told]
    · rw [noticeEp_mem, partBack_mem]
      rfl
  · have step := phaserStep_join (s.phaserPlaced o p) p hc hm
    have told (f : Holder → Holder) : (((((s.phaserPlaced o p).setPhaser o.home o.idx (p.joined o mode [])).modHolder mine f).partBack o.who
        o.op 0 [] none).station o.home).phaser o.idx = p.joined o mode [] := by
      rw [Station.phaser, partBack_station, phasers_modHolder]
      exact phaser_setPhaser ..
    obtain ⟨ws, run⟩ := phaserOp_turn hs h1 h2 h3 hk (fun mode' e => by rw [hc] at e; cases e; exact hl) (by rw [hc]; exact PhaserCmd.noConfusion) rfl hw step
      (by rw [told]; rfl)
    refine ⟨_, run, ?_, ?_, ?_⟩
    · rw [station_noticeEp, told]
      rfl
    · rw [station_noticeEp, told]
      rfl
    · rw [holder_noticeEp, partBack_holder, holder_modHolder_same]
      exact List.mem_append_right _ (List.mem_singleton_self _)
  · have step := phaserStep_sig (s.phaserPlaced o p) p hc hm ht hd hn
    obtain ⟨ws, run⟩ := phaserOp_turn hs h1 h2 h3 hk (fun mode e => by rw [hc] at e; cases e) (by rw [hc]; decide) rfl hw step
      (by rw [phaser_setPhaser])
    refine ⟨_, run, ?_, ?_⟩ <;> rw [station_noticeEp, phaser_setPhaser]
  · refine ⟨_, epRaise_rises h1 h2, ?_, ?_⟩
    · rw [holder_noticeEp, holder_setHolder_same]
    · rw [noticeEp_mem, setHolder_mem]
  · refine ⟨_, epRaise_counter id cpri hs, rfl, rfl, fun d r hr hc => ⟨s.raised id cpri r, ?_, ?_⟩⟩
    · have die : State.die { s with dies := s.dies.map (fun d => (d.1, s.raisedDie id cpri d.2)) } d = s.raisedDie id cpri (s.die d) :=
        look_map Die.reset (s.raisedDie id cpri) rfl s.dies d
      rw [die]
      exact List.mem_map_of_mem hr
    · rw [State.raised, if_pos hc, hdrClass_eq]
      exact ⟨rfl, rfl⟩
  · intro v gone
    refine ⟨steal_gone_own, fun w op h hw => steal_gone h hw, fun h hk => steal_late h hk, fun w op h hk hw hd => ?_,
      fun w op j n l h hk hw hd hn hf => ?_⟩
    · refine ⟨s.modStation y.victim (fun x => { x with deque := [], dqLast := (s.clock (dieOf y.victim), stealKey y) }), ?_, ?_, rfl⟩
      · rw [steal_takes h hk hw, takeTop_empty hd]
        rfl
      · rw [station_modStation_same]
    · refine ⟨s.modStation y.victim (fun x => { x with deque := l ++ [(j, n / 2)], dqLast := (s.clock (dieOf y.victim), stealKey y) }),
        _, ?_, rfl, ?_, rfl⟩
      · rw [steal_takes h hk hw, takeTop_half hd hn, setField_low_add (by omega)]
      · rw [station_modStation_same]
  · obtain ⟨v, asks⟩ := stealAttempt_asks h hi hc
    refine ⟨_, asks, ?_, ?_, ?_⟩
    · rw [station_laterAt, (sendSteal_attempts ..).1, station_modStation_same]
    · rw [station_laterAt, (sendSteal_attempts ..).2, station_modStation_same]
    · rw [laterAt_agenda]
      exact List.mem_append_right _ (List.mem_singleton_self _)

end Sys2Proof.Machine
end

section
/-! PROOFS. Rings at their homes, and the fetches of input streams (R182 to R185, R238, R240, R273, R275). -/
namespace Sys2Proof.Machine

/-! ## The ring of a die -/

theorem ring_setRing (s : State) (die desc : Nat) (f : Die → RingState) :
    ((s.modDie die (fun d => d.setRing desc (f d))).die die).ring desc = f (s.die die) := by
  rw [die_modDie_same, Die.ring, Die.setRing, look_put_same]

/-- A push or a RINGEOS waits at its home. -/
def State.pushed (s : State) (die desc : Nat) (q : RingOp) : State :=
  s.modDie die (fun d => d.setRing desc { d.ring desc with pushes := (d.ring desc).pushes ++ [q] })

/-- A request waits at its home. -/
def State.requested (s : State) (die desc : Nat) (q : RingOp) : State :=
  s.modDie die (fun d => d.setRing desc { d.ring desc with requests := (d.ring desc).requests ++ [q] })

theorem ringWord_write_same (s : State) (die desc k : Nat) (v : Word) : (s.setRingWord die desc k v).wordAt (ringAt die desc k) = v :=
  wordAt_write_same ..

theorem ringWord_write_other (s : State) {die desc j k : Nat} (v : Word) (h : j ≠ k) :
    (s.setRingWord die desc j v).wordAt (ringAt die desc k) = s.wordAt (ringAt die desc k) := by
  refine wordAt_write_other s ?_
  rw [leBytes_length, ringAt, ringAt]
  omega

theorem setRingWord_agenda (s : State) (die desc k : Nat) (v : Word) : (s.setRingWord die desc k v).agenda = s.agenda := writeAt_agenda ..

theorem setRingWord_die (s : State) (die desc k : Nat) (v : Word) (d : Nat) : (s.setRingWord die desc k v).die d = s.die d :=
  congrArg (fun l => look Die.reset l d) (writeAt_dies s _ _)

/-! ## Marks (R182, R183) -/

/-- The producers that have ended, of a ring's MARKS, with one more. -/
def eosOf (m : Word) (idx : Nat) : Nat := m.toNat / 2 ^ 32 % 2 ^ 16 ||| 2 ^ idx

/-- MARKS with one more producer that has ended. -/
def eosMarks (m : Word) (idx : Nat) : Word :=
  BitVec.ofNat 64 (m.toNat - m.toNat / 2 ^ 32 % 2 ^ 16 * 2 ^ 32 + eosOf m idx * 2 ^ 32)

theorem eosMarks_fields {m : Word} {idx : Nat} (hi : idx < 16) : (eosMarks m idx).toNat / 2 ^ 32 % 2 ^ 16 = eosOf m idx ∧
    (eosMarks m idx).toNat % 2 ^ 32 = m.toNat % 2 ^ 32 ∧ (eosMarks m idx).toNat / 2 ^ 48 = m.toNat / 2 ^ 48 := by
  have small : eosOf m idx < 2 ^ 16 := Nat.or_lt_two_pow (Nat.mod_lt _ (by decide)) (Nat.pow_lt_pow_right (by decide) hi)
  have word := m.isLt
  have value : (eosMarks m idx).toNat = m.toNat - m.toNat / 2 ^ 32 % 2 ^ 16 * 2 ^ 32 + eosOf m idx * 2 ^ 32 := by
    refine (BitVec.toNat_ofNat ..).trans (Nat.mod_eq_of_lt ?_)
    omega
  omega

/-- A ring's producer has ended; with the last the ring is closed. -/
def State.marked (t : State) (die desc : Nat) (m : Word) (idx : Nat) (flags : Word) : State :=
  if eosOf m idx = m.toNat / 2 ^ 48 then (t.setRingWord die desc 4 (eosMarks m idx)).setRingWord die desc 7 (flags ||| 1)
  else t.setRingWord die desc 4 (eosMarks m idx)

theorem marked_marks (t : State) (die desc : Nat) (m : Word) (idx : Nat) (flags : Word) :
    (t.marked die desc m idx flags).wordAt (ringAt die desc 4) = eosMarks m idx := by
  unfold State.marked
  split
  · rw [ringWord_write_other _ _ (by decide), ringWord_write_same]
  · rw [ringWord_write_same]

theorem marked_flags (t : State) (die desc : Nat) (m : Word) (idx : Nat) (flags : Word) :
    (t.marked die desc m idx flags).wordAt (ringAt die desc 7) =
      if eosOf m idx = m.toNat / 2 ^ 48 then flags ||| 1 else t.wordAt (ringAt die desc 7) := by
  unfold State.marked
  split
  · rw [ringWord_write_same]
  · rw [ringWord_write_other _ _ (by decide)]

theorem marked_agenda (t : State) (die desc : Nat) (m : Word) (idx : Nat) (flags : Word) :
    (t.marked die desc m idx flags).agenda = t.agenda := by
  unfold State.marked
  split <;> simp only [setRingWord_agenda]

theorem marked_die (t : State) (die desc : Nat) (m : Word) (idx : Nat) (flags : Word) (d : Nat) :
    (t.marked die desc m idx flags).die d = t.die d := by
  unfold State.marked
  split <;> simp only [setRingWord_die]

/-! ## Pushes and RINGEOS (R183, R275) -/

section
variable {s : State} {die desc : Nat} (q : RingOp)

theorem pushed_ring (hp : ((s.die die).ring desc).pushes = []) : ((s.pushed die desc q).die die).ring desc = { (s.die die).ring desc with pushes := [q] } := by
  rw [State.pushed, ring_setRing, hp, List.nil_append]

/-- The push has been taken from those that wait. -/
def State.pushTaken (s : State) (die desc : Nat) (q : RingOp) : State :=
  (s.pushed die desc q).modDie die (fun d => d.setRing desc { ((s.pushed die desc q).die die).ring desc with pushes := [] })

theorem pushTaken_pushes : (((s.pushTaken die desc q).die die).ring desc).pushes = [] := by
  rw [State.pushTaken, ring_setRing]

theorem pushTaken_eq (hp : ((s.die die).ring desc).pushes = []) : s.pushTaken die desc q =
    (s.pushed die desc q).modDie die (fun d => d.setRing desc { (s.die die).ring desc with pushes := [] }) := by
  rw [State.pushTaken, pushed_ring q hp]

variable (hr : ((s.die die).ring desc).requests = []) (hp : ((s.die die).ring desc).pushes = [])
include hp

section
include hr

/-- Alone at its ring, a push has one turn. -/
theorem pushed_settle : (s.pushed die desc q).ringSettle die desc =
    ((s.pushed die desc q).ringPush1 die desc).getD (s.pushed die desc q) := by
  have none_ : (s.pushed die desc q).ringServe1 die desc = none := by
    simp only [State.ringServe1, pushed_ring q hp, hr]
  have turns : (((s.pushed die desc q).die die).ring desc).requests.length + (((s.pushed die desc q).die die).ring desc).pushes.length = 1 := by
    rw [pushed_ring q hp, hr]
    rfl
  rw [State.ringSettle, turns, State.ringRun, none_]
  cases (s.pushed die desc q).ringPush1 die desc <;> rfl

end

theorem push_full (hd : q.data ≠ []) (h : s.ringHead die desc + s.ringNent die desc ≤ s.ringTail die desc) :
    (s.pushed die desc q).ringPush1 die desc = none := by
  have data : q.data.isEmpty = false := by simpa using hd
  have full : ¬ (s.pushed die desc q).ringTail die desc < (s.pushed die desc q).ringHead die desc + (s.pushed die desc q).ringNent die desc :=
    Nat.not_lt.2 h
  simp only [State.ringPush1, pushed_ring q hp, data, full, Bool.false_eq_true, if_false]

/-- A push writes its entry and advances TAIL. -/
theorem push_room (hd : q.data ≠ []) (h : s.ringTail die desc < s.ringHead die desc + s.ringNent die desc) : ∃ s2 : State,
    (s.pushed die desc q).ringPush1 die desc = some ((s2.setRingWord die desc 3 (BitVec.ofNat 64 (s.ringTail die desc + 1))).modRingPort q
      (fun b => { b with pending := b.pending - 1 })) ∧
    s2.agenda = s.agenda ∧ s2.dies = (s.pushTaken die desc q).dies ∧
    ∀ a, commonsRef die (s.entryAddr die desc (s.ringTail die desc)) = some a →
      s2.mem = memWrite s.mem a (q.data.take (s.ringEsize die desc)) := by
  have data : q.data.isEmpty = false := by simpa using hd
  have room : (s.pushed die desc q).ringTail die desc < (s.pushed die desc q).ringHead die desc + (s.pushed die desc q).ringNent die desc := h
  have addr : (s.pushed die desc q).entryAddr die desc ((s.pushed die desc q).ringTail die desc) =
    s.entryAddr die desc (s.ringTail die desc) := rfl
  have ring := pushed_ring q hp
  refine ⟨match commonsRef die (s.entryAddr die desc (s.ringTail die desc)) with
    | some a => (s.pushTaken die desc q).writeAt a (q.data.take (s.ringEsize die desc))
    | none => s.pushTaken die desc q, ?_, ?_, ?_, ?_⟩
  · rw [State.ringPush1, ring]
    simp only [data, room, if_true, addr, Bool.false_eq_true, if_false]
    rw [pushTaken_eq q hp]
    rfl
  · cases commonsRef die (s.entryAddr die desc (s.ringTail die desc)) <;> rfl
  · cases commonsRef die (s.entryAddr die desc (s.ringTail die desc)) <;> rfl
  · intro a ha
    rw [ha]
    rfl

/-- A RINGEOS marks its producer, and closes the ring with the last. -/
theorem push_eos (hd : q.data = []) : (s.pushed die desc q).ringPush1 die desc =
    some ((s.pushTaken die desc q).marked die desc (s.ringWord die desc 4) q.idx (s.ringWord die desc 7)) := by
  have ring := pushed_ring q hp
  rw [State.ringPush1, ring]
  have word (k : Nat) : (s.pushed die desc q).ringWord die desc k = s.ringWord die desc k := rfl
  simp only [hd, List.isEmpty_nil, if_true, word]
  rw [pushTaken_eq q hp]
  rfl

end

/-! ## Leaving the station (R213, R265) -/

section
variable {s : State} {r : RingOp}

theorem ringGoes_iff : s.ringGoes r = true ↔ s.storesDone (some (workOfTask r.who r.task, r.op)) = true ∧
    s.copyTurn (workOfTask r.who r.task) r.op = true := by
  rw [State.ringGoes, State.copyReleased, Bool.and_eq_true_iff]

variable (hs : r.sent = false)
include hs

theorem ringeos_unsent : exec (.ringeosAtHome r) s =
    .next (if s.ringGoes r then s.later (.ringeosAtHome { r with sent := true }) else s.wait) := by
  change execRingeosAtHome r s = _
  rw [execRingeosAtHome, hs]
  rfl

theorem registration_unsent : exec (.ringRegistration r) s =
    .next (if s.ringGoes r then s.later (.ringRegistration { r with sent := true }) else s.wait) := by
  change execRingRegistration r s = _
  rw [execRingRegistration, hs]
  rfl

end

/-! ## Registrations (R240, R273) -/

section
variable {s : State} {r : RingOp} (hs : r.sent = true)
include hs

theorem registration_size (h : s.ringEsize r.die r.desc ≠ portBytes r.port) : exec (.ringRegistration r) s =
    .next (s.partBack r.who r.op 0 [] (some (trapOf 0x08 (BitVec.ofNat 64 (0x200 + 0x53))))) := by
  change execRingRegistration r s = _
  rw [execRingRegistration, hs, Bool.not_true, if_neg (by decide), if_pos (by simpa using h)]
  rfl

variable (h : s.ringEsize r.die r.desc = portBytes r.port)
include h

theorem registration_illegal (hl : s.ringLegal r.die r.desc = false) : exec (.ringRegistration r) s =
    .next (s.partBack r.who r.op 0 [] (some (trapOf 0x08 (BitVec.ofNat 64 (0x200 + 0x54))))) := by
  change execRingRegistration r s = _
  rw [execRingRegistration, hs, Bool.not_true, if_neg (by decide), if_neg (by simpa using h), hl, Bool.not_false, if_pos rfl]
  rfl

/-- A producer is entered among the marks, and its port bound. -/
theorem registration_binds (hl : s.ringLegal r.die r.desc = true) (hd : r.data = [1])
    (hu : ∃ u ∈ (s.holder r.who).unsettled, u.op = r.op) : exec (.ringRegistration r) s =
      .next (((s.setRingWord r.die r.desc 4 (s.ringWord r.die r.desc 4 ||| BitVec.ofNat 64 (2 ^ (r.idx + 48)))).modHolder r.who
        (fun k => k.bind (newBinding r.port true (.ring r.die r.desc r.idx)))).partBack r.who r.op 0 [] none) := by
  have waits : (s.holder r.who).unsettled.any (fun u => u.op == r.op) = true := by simpa using hu
  change execRingRegistration r s = _
  rw [execRingRegistration, hs, Bool.not_true, if_neg (by decide), if_neg (by simpa using h), hl, Bool.not_true, if_neg (by decide), hd,
    if_pos waits]
  rfl

end

/-! ## Pops (R182, R240) -/

/-- A pop that is not the end of a lap advances HEAD alone. -/
theorem ringAdvance_within {s : State} {die desc : Nat} (h : (s.ringHead die desc + 1) % s.ringNent die desc ≠ 0) :
    s.ringAdvance die desc = (s.setRingWord die desc 2 (BitVec.ofNat 64 (s.ringHead die desc + 1))).modDie die (fun d =>
      d.setRing desc { d.ring desc with handed := (d.ring desc).handed - 1 }) := by
  simp only [State.ringAdvance, h, if_false]

theorem ringAdvance_ring {s : State} {die desc : Nat} (h : (s.ringHead die desc + 1) % s.ringNent die desc ≠ 0) :
    ((s.ringAdvance die desc).die die).ring desc =
      { (s.die die).ring desc with handed := ((s.die die).ring desc).handed - 1 } := by
  rw [ringAdvance_within h, ring_setRing, setRingWord_die]

theorem ringAdvance_mem {s : State} {die desc : Nat} (h : (s.ringHead die desc + 1) % s.ringNent die desc ≠ 0) :
    (s.ringAdvance die desc).mem = (s.setRingWord die desc 2 (BitVec.ofNat 64 (s.ringHead die desc + 1))).mem := by
  rw [ringAdvance_within h, modDie_mem]

/-- The last pop of a port asks for nothing more. -/
theorem ringPop_last {s : State} {r : RingOp} (hd : r.data = [2]) :
    exec (.ringPop r) s = .next ((s.ringAdvance r.die r.desc).ringSettle r.die r.desc) := by
  have pops : (decide (r.data = [1]) || decide (r.data = [2])) = true := by rw [hd]; decide
  have rests : (decide (r.data = [2]) || decide (r.data = [3])) = true := by rw [hd]; decide
  change execRingPop r s = _
  rw [execRingPop, if_pos pops, if_pos rests]

/-- A request alone. -/
theorem ringPop_request {s : State} {r : RingOp} (hd : r.data = [0]) :
    exec (.ringPop r) s = .next ((s.requested r.die r.desc r).ringSettle r.die r.desc) := by
  have pops : ¬ (decide (r.data = [1]) || decide (r.data = [2])) = true := by rw [hd]; decide
  have rests : ¬ (decide (r.data = [2]) || decide (r.data = [3])) = true := by rw [hd]; decide
  change execRingPop r s = _
  rw [execRingPop, if_neg pops, if_neg rests]
  rfl

/-- Where nothing waits there is nothing to settle. -/
theorem ringSettle_none {s : State} {die desc : Nat} (hr : ((s.die die).ring desc).requests = [])
    (hp : ((s.die die).ring desc).pushes = []) : s.ringSettle die desc = s := by
  rw [State.ringSettle, hr, hp]
  rfl

section
variable {s : State} {die desc : Nat} (q : RingOp) (hr : ((s.die die).ring desc).requests = []) (hp : ((s.die die).ring desc).pushes = [])
include hr

theorem requested_ring : ((s.requested die desc q).die die).ring desc = { (s.die die).ring desc with requests := [q] } := by
  rw [State.requested, ring_setRing, hr, List.nil_append]

include hp

/-- A request for which no entry is there waits at its home. -/
theorem requested_settle (hb : ((s.die die).ring desc).returned = [])
    (ht : s.ringTail die desc ≤ s.ringHead die desc + ((s.die die).ring desc).handed)
    (hc : s.ringClosed die desc = false ∨ ((s.die die).ring desc).handed ≠ 0) :
    (s.requested die desc q).ringSettle die desc = s.requested die desc q := by
  have ring := requested_ring q hr
  have none_ : ¬ (s.requested die desc q).ringHead die desc + ((s.die die).ring desc).handed < (s.requested die desc q).ringTail die desc :=
    Nat.not_lt.2 ht
  have open_ : ((s.requested die desc q).ringClosed die desc && ((s.die die).ring desc).handed == 0) = false := by
    have same : (s.requested die desc q).ringClosed die desc = s.ringClosed die desc := rfl
    rw [same]
    rcases hc with hc | hc
    · rw [hc, Bool.false_and]
    · rw [beq_false_of_ne hc, Bool.and_false]
  have serves : (s.requested die desc q).ringServe1 die desc = none := by
    simp only [State.ringServe1, ring, hb, none_, open_, if_false, Bool.false_eq_true]
  have pushes : (s.requested die desc q).ringPush1 die desc = none := by
    simp only [State.ringPush1, ring, hp]
  have turns : (((s.requested die desc q).die die).ring desc).requests.length +
      (((s.requested die desc q).die die).ring desc).pushes.length = 1 := by
    rw [ring, hp]
    rfl
  rw [State.ringSettle, turns, State.ringRun, serves, pushes]

end

/-! ## Stream fetches (R238) -/

theorem streamFetch_unbound {s : State} {who : Who} {port : Nat} (h : (s.holder who).ports.find? (fun b => b.port == port) = none) :
    exec (.streamFetch who port) s = .next s := by
  change execStreamFetch who port s = _
  simp only [execStreamFetch, h]

/-- Where nothing parks there is nothing to try again. -/
theorem engFault_none {s : State} {acc : Access} {ps : List Piece} (h : ∀ p ∈ ps, p.parks = false) : s.engFault acc ps none = (s, none) := by
  have bad : ps.filter Piece.parks = [] := List.filter_eq_nil_iff.2 fun p hp => by rw [h p hp]; decide
  simp [State.engFault, bad]

/-- What a port holds once an element has been fetched. -/
def PortBinding.fetched (b : PortBinding) (e : PortElem) (more again : Bool) : PortBinding :=
  { b with next := b.next + 1, held := b.held ++ [e], ended := !more, retry := none, pending := if again then 1 else 0 }

section
variable {s : State} {who : Who} {port len rows op ceil tries : Nat} {base stride : Word} {b : PortBinding}
  (hb : (s.holder who).ports.find? (fun b => b.port == port) = some b) (ht : b.target = .stream base len rows stride op ceil tries)
include hb ht

theorem streamFetch_rests (h : b.out = true ∨ streamTotal port len rows ≤ b.next ∨ 4 ≤ b.held.length + (s.holder who).popped port) :
    exec (.streamFetch who port) s = .next (s.setHolder who ((s.holder who).setBinding { b with pending := 0 })) := by
  change execStreamFetch who port s = _
  simp only [execStreamFetch, hb, ht]
  refine if_pos ?_
  simpa [or_assoc] using h

variable (h1 : b.out = false) (h2 : b.next < streamTotal port len rows) (h3 : b.held.length + (s.holder who).popped port < 4)
  (h4 : b.retry = none)
include h1 h2 h3 h4

theorem streamFetch_waits (h : s.storesDone (some (s.worksFor who, op)) = false ∨ s.copiesBefore (s.worksFor who) op = true ∨
    s.streamBehind who (streamPieces base len stride (portBytes port) b.next) = true) :
    exec (.streamFetch who port) s = .next s.wait := by
  change execStreamFetch who port s = _
  simp only [execStreamFetch, hb, ht]
  refine (if_neg (by simp [h1, h2, h3])).trans (if_pos ?_)
  simpa [h4, retryAhead, or_assoc] using h

theorem streamFetch_fetches (h : ¬ (s.storesDone (some (s.worksFor who, op)) = false ∨ s.copiesBefore (s.worksFor who) op = true ∨
    s.streamBehind who (streamPieces base len stride (portBytes port) b.next) = true)) {ps : List Piece} {t : State}
    (hp : s.streamRefs { s.accessOf who op (s.holder who).pc 2 with ceil := ceil, tries := tries } false
      (streamPieces base len stride (portBytes port) b.next) = some (ps, t)) (hf : ∀ p ∈ ps, p.parks = false) :
    let e : PortElem := { idx := b.next, val := leVec ((t.engBytes ps).map (fun e => e.b)), trap := ps.findSome? (t.pieceTrap who) }
    let more := decide (b.next + 1 < streamTotal port len rows)
    let again := more && decide (b.held.length + (s.holder who).popped port + 1 < 4)
    let u := t.modHolder who (fun h => h.setBinding (b.fetched e more again))
    exec (.streamFetch who port) s = .next (if again then u.later (.streamFetch who port) else u) := by
  intro e more again u
  change execStreamFetch who port s = _
  simp only [execStreamFetch, hb, ht]
  refine (if_neg (by simp [h1, h2, h3])).trans ((if_neg ?_).trans ?_)
  · intro wait
    exact h (by simpa [h4, retryAhead, or_assoc] using wait)
  · simp only [h4, Option.isSome_none, hp, engFault_none hf]
    rw [← ht]
    rfl

end

/-- Settles O54: pushes, pops, RINGEOS and registrations at a ring's home, and the fetches of a stream, case by case. -/
theorem ringAndStreamEvents : Obligations.RingAndStreamEvents := by
  intro s r who port ring at_ esize nent head tail marks
  have esize_eq : s.ringEsize r.die r.desc = esize := bitsOf_top _ 48 (by decide)
  have nent_eq : s.ringNent r.die r.desc = nent := (bitsOf_eq _ 31 0).trans (by rw [Nat.pow_zero, Nat.div_one]; rfl)
  refine ⟨fun hr hp hd => ⟨fun hf => ?_, fun hf hl => ?_⟩, fun hs => ⟨fun hg => ?_, fun hg => ?_⟩, fun hs hr hp hi => ?_,
    fun hr hp hd hl hn => ?_, fun hr hp hb hd ht hc => ?_, ⟨?_, ?_, ?_⟩, streamFetch_unbound, ?_⟩
  · have full := push_full r hp hd (by rw [nent_eq]; exact hf)
    refine ⟨_, rfl, ?_⟩
    change ((s.pushed r.die r.desc r).ringSettle r.die r.desc).mem = _ ∧ ((((s.pushed r.die r.desc r).ringSettle r.die r.desc).die r.die).ring r.desc).pushes = _
    rw [pushed_settle r hr hp, full]
    exact ⟨rfl, congrArg RingState.pushes (pushed_ring r hp)⟩
  · obtain ⟨s2, room, agenda, dies, data⟩ := push_room r hp hd (by rw [nent_eq]; exact hf)
    have run : exec (.ringPush r) s = .next ((s2.setRingWord r.die r.desc 3 (BitVec.ofNat 64 (tail + 1))).modRingPort r
        (fun b => { b with pending := b.pending - 1 })) := by
      change Host.Outcome.next ((s.pushed r.die r.desc r).ringSettle r.die r.desc) = _
      rw [pushed_settle r hr hp, room]
      rfl
    refine ⟨_, run, ?_, ?_, agenda, fun a ha hlen hx => ?_⟩
    · have die : ((s2.setRingWord r.die r.desc 3 (BitVec.ofNat 64 (tail + 1))).modRingPort r (fun b => { b with pending := b.pending - 1 })).die
          r.die = (s.pushTaken r.die r.desc r).die r.die := congrArg (fun l => look Die.reset l r.die) dies
      rw [die, pushTaken_pushes]
    · have word := ringWord_write_same s2 r.die r.desc 3 (BitVec.ofNat 64 (tail + 1))
      refine (congrArg BitVec.toNat word).trans ?_
      rw [BitVec.toNat_ofNat, Nat.mod_eq_of_lt hl]
    · have place : s.entryAddr r.die r.desc (s.ringTail r.die r.desc) = (s.wordAt (at_ 0)).toNat + tail % nent * esize := by
        rw [State.entryAddr, nent_eq, esize_eq]
        rfl
      rw [← place] at ha
      have written : s2.mem = memWrite s.mem a r.data := by
        rw [data a ha, esize_eq, ← hlen, List.take_length]
      have read := memRead_memWrite r.data s.mem a
      rw [← written, hlen] at read
      refine Eq.trans ?_ read
      refine memRead_memWrite_other ?_
      have lo : at_ 0 = Config.commonsAt r.die + r.desc + 8 * 0 := rfl
      have hi : at_ 8 = Config.commonsAt r.die + r.desc + 8 * 8 := rfl
      rw [leBytes_length, ringAt]
      omega
  · have stays : s.ringGoes r = false := by
      rw [← Bool.not_eq_true, ringGoes_iff]
      exact hg
    rw [ringeos_unsent hs, registration_unsent hs, stays]
    exact ⟨rfl, rfl⟩
  · rw [ringeos_unsent hs, registration_unsent hs, ringGoes_iff.2 hg]
    exact ⟨rfl, rfl⟩
  · intro eos
    have run : exec (.ringeosAtHome r) s = .next ((s.pushTaken r.die r.desc { r with data := [], sent := true }).marked r.die r.desc
        (s.ringWord r.die r.desc 4) r.idx (s.ringWord r.die r.desc 7)) := by
      change execRingeosAtHome r s = _
      rw [execRingeosAtHome, hs, Bool.not_true, if_neg (by decide)]
      change Host.Outcome.next ((s.pushed r.die r.desc { r with data := [], sent := true }).ringSettle r.die r.desc) = _
      rw [pushed_settle _ hr hp, push_eos _ hp rfl, Option.getD_some]
    obtain ⟨ends, low, high⟩ := eosMarks_fields (m := s.ringWord r.die r.desc 4) hi
    have word := marked_marks (s.pushTaken r.die r.desc { r with data := [], sent := true }) r.die r.desc (s.ringWord r.die r.desc 4) r.idx
      (s.ringWord r.die r.desc 7)
    refine ⟨_, run, ?_, marked_agenda .., ?_, ?_, ?_, marked_flags ..⟩
    · rw [marked_die, pushTaken_pushes]
    · rw [show at_ 4 = ringAt r.die r.desc 4 from rfl, word]
      exact ends
    · rw [show at_ 4 = ringAt r.die r.desc 4 from rfl, word]
      exact low
    · rw [show at_ 4 = ringAt r.die r.desc 4 from rfl, word]
      exact high
  · rw [← nent_eq] at hn
    have ring_ := ringAdvance_ring (s := s) (die := r.die) (desc := r.desc) hn
    have mem := ringAdvance_mem (s := s) (die := r.die) (desc := r.desc) hn
    have run : exec (.ringPop r) s = .next (s.ringAdvance r.die r.desc) := by
      rw [ringPop_last hd, ringSettle_none (by rw [ring_]; exact hr) (by rw [ring_]; exact hp)]
    refine ⟨_, run, ?_, fun x hx => ?_, by rw [ring_]⟩
    · have word : (s.ringAdvance r.die r.desc).wordAt (ringAt r.die r.desc 2) = BitVec.ofNat 64 (s.ringHead r.die r.desc + 1) :=
        (wordAt_congr fun x _ _ => by rw [mem]).trans (ringWord_write_same s r.die r.desc 2 _)
      refine (congrArg BitVec.toNat word).trans ?_
      rw [BitVec.toNat_ofNat]
      exact Nat.mod_eq_of_lt hl
    · have lo : at_ 2 = Config.commonsAt r.die + r.desc + 8 * 2 := rfl
      have hi : at_ 3 = Config.commonsAt r.die + r.desc + 8 * 3 := rfl
      rw [mem, State.setRingWord, writeAt_mem]
      refine memGet_memWrite_other ?_
      rw [leBytes_length, ringAt]
      omega
  · have run : exec (.ringPop r) s = .next (s.requested r.die r.desc r) := by
      rw [ringPop_request hd, requested_settle r hr hp hb ht hc]
    exact ⟨_, run, congrArg RingState.requests (requested_ring r hr), rfl, rfl⟩
  · exact fun hs h => registration_size hs (by rw [esize_eq]; exact h)
  · exact fun hs h hl => registration_illegal hs (esize_eq.trans h) hl
  · intro hs h hl hd hi hu
    refine ⟨_, registration_binds hs (esize_eq.trans h) hl hd hu, ?_, newBinding r.port true (.ring r.die r.desc r.idx), ?_, rfl, rfl, rfl⟩
    · have word : State.wordAt (((s.setRingWord r.die r.desc 4 (s.ringWord r.die r.desc 4 ||| BitVec.ofNat 64 (2 ^ (r.idx + 48)))).modHolder r.who
          (fun k => k.bind (newBinding r.port true (.ring r.die r.desc r.idx)))).partBack r.who r.op 0 [] none) (at_ 4) =
          s.ringWord r.die r.desc 4 ||| BitVec.ofNat 64 (2 ^ (r.idx + 48)) :=
        (wordAt_congr fun x _ _ => by rw [partBack_mem, modHolder_mem]).trans (ringWord_write_same s r.die r.desc 4 _)
      have bit : 2 ^ (r.idx + 48) < 2 ^ 64 := Nat.pow_lt_pow_right (by decide) (by omega)
      rw [word, BitVec.toNat_or, BitVec.toNat_ofNat, Nat.mod_eq_of_lt bit]
      rfl
    · rw [partBack_holder, holder_modHolder_same]
      exact List.mem_append_right _ (List.mem_singleton_self _)
  · intro b base len rows stride op ceil tries hb ht holds
    refine ⟨streamFetch_rests hb ht, fun h1 h2 h3 h4 => ?_⟩
    intro ls work waits
    refine ⟨streamFetch_waits hb ht h1 h2 h3 h4, fun ps t hw hp hf => ?_⟩
    intro e last
    have fetches := streamFetch_fetches hb ht h1 h2 h3 h4 hw hp hf
    refine ⟨b.fetched e (decide (b.next + 1 < streamTotal port len rows)) (decide (b.next + 1 < streamTotal port len rows) &&
      decide (holds + 1 < 4)), rfl, rfl, rfl, ?_, fun h => ?_, fun h => ?_⟩
    · simp [PortBinding.fetched, last]
    · have stop : (decide (b.next + 1 < streamTotal port len rows) && decide (holds + 1 < 4)) = false := by
        by_contra go
        simp only [Bool.not_eq_false, Bool.and_eq_true, decide_eq_true_eq] at go
        omega
      rw [fetches, stop]
      exact congrArg _ (if_neg (by decide))
    · have go : (decide (b.next + 1 < streamTotal port len rows) && decide (holds + 1 < 4)) = true := by
        simp only [Bool.and_eq_true, decide_eq_true_eq]
        omega
      rw [fetches, go]
      exact congrArg _ (if_pos rfl)

end Sys2Proof.Machine
end

section
/-! PROOFS. Counters, nodes, the dispatcher, gangs and pre-emption (R130, R131, R164 to R171, R185, R206, R207). -/
namespace Sys2Proof.Machine

/-! ## Counter records (R166) -/

theorem counterAt_aligned (id : Nat) : counterAt id % 16 = 0 := by
  rw [counterAt, Config.commonsAt, Config.counterBase]
  omega

theorem setWord_same (s : State) (a : Nat) (v : Word) : (s.setWord a v).wordAt a = v := wordAt_write_same s a v

theorem setWord_other (s : State) {a b : Nat} (v : Word) (h : b + 8 ≤ a ∨ a + 8 ≤ b) : (s.setWord a v).wordAt b = s.wordAt b :=
  wordAt_write_other s (by rw [leBytes_length]; exact h)

theorem setWord_mem (s : State) (a : Nat) (v : Word) : (s.setWord a v).mem = memWrite s.mem a (leBytes v.toNat 8) := writeAt_mem ..
theorem setWord_agenda (s : State) (a : Nat) (v : Word) : (s.setWord a v).agenda = s.agenda := writeAt_agenda ..
theorem setWord_stations (s : State) (a : Nat) (v : Word) : (s.setWord a v).stations = s.stations := writeAt_stations ..

theorem setWord_memGet_other (s : State) {a x : Nat} (v : Word) (h : x < a ∨ a + 8 ≤ x) :
    memGet (s.setWord a v).mem x = memGet s.mem x := by
  rw [setWord_mem, memGet_memWrite_other (by rw [leBytes_length]; exact h)]

/-- Writing the doubleword that stands there changes nothing. -/
theorem setWord_wordAt_memGet (s : State) (a x : Nat) : memGet (s.setWord a (s.wordAt a)).mem x = memGet s.mem x := by
  rw [setWord_mem, leBytes_wordAt, memGet_memWrite_memRead]

theorem setField_count {lo : Word} {k : Nat} (h : k < 2 ^ 32) : (setField lo 31 0 k).toNat = lo.toNat - lo.toNat % 2 ^ 32 + k := by
  have := lo.isLt
  rw [setField, bitsOf_eq, BitVec.toNat_ofNat]
  omega

theorem setField_failed (w : Word) : setField w 63 63 1 = w ||| BitVec.ofNat 64 (2 ^ 63) := by
  apply BitVec.eq_of_toNat_eq
  have small := w.isLt
  have low : w.toNat % 2 ^ 63 < 2 ^ 63 := Nat.mod_lt _ (by decide)
  have set : 2 ^ 63 ||| w.toNat % 2 ^ 63 = 2 ^ 63 + w.toNat % 2 ^ 63 := by
    have := Nat.two_pow_add_eq_or_of_lt low 1
    rw [Nat.mul_one] at this
    exact this.symm
  have value : w.toNat ||| 2 ^ 63 = 2 ^ 63 + w.toNat % 2 ^ 63 := by
    by_cases top : w.toNat < 2 ^ 63
    · rw [Nat.or_comm, ← set, Nat.mod_eq_of_lt top]
    · have split : w.toNat = 2 ^ 63 ||| w.toNat % 2 ^ 63 := by
        rw [set]
        omega
      conv_lhs => rw [split]
      rw [Nat.or_comm, ← Nat.or_assoc, Nat.or_self, set]
  rw [BitVec.toNat_or, BitVec.toNat_ofNat, Nat.mod_eq_of_lt (by decide : 2 ^ 63 < 2 ^ 64), value, setField, bitsOf_eq, BitVec.toNat_ofNat]
  omega

/-! ## On the way to a counter (R130, R207) -/

section
variable {s : State} {id src : Nat} {failed : Bool} {i : Issuer} (hs : i.sent = false)
include hs

theorem unsentOf_unsent : unsentOf (some i) = some i := by simp [unsentOf, hs]

theorem counterDecrement_unsent : exec (.counterDecrement id failed src (some i)) s =
    .next (if s.storesDone (some (i.who, i.op)) then s.later (.counterDecrement id failed src (some { i with sent := true }))
      else s.wait) := by
  change execCounterDecrement id failed src (some i) s = _
  rw [execCounterDecrement, unsentOf_unsent hs]

theorem garmAtHome_unsent (count reload node failNode : Nat) : exec (.garmAtHome id count reload node failNode src (some i)) s =
    .next (if s.storesDone (some (i.who, i.op)) then s.later (.garmAtHome id count reload node failNode src (some { i with sent := true }))
      else s.wait) := by
  change execGarmAtHome id count reload node failNode src (some i) s = _
  rw [execGarmAtHome, unsentOf_unsent hs]

end

theorem unsentOf_sent {after : Option Issuer} (h : ∀ k, after = some k → k.sent = true) : unsentOf after = none := by
  cases after with
  | none => rfl
  | some k => simp [unsentOf, h k rfl]

/-! ## A decrement at its counter (R131, R166) -/

/-- The second doubleword of a counter as a decrement leaves it. -/
def State.decremented (s : State) (id : Nat) (failed : Bool) : Word :=
  if failed then setField (s.wordAt (counterAt id + 8)) 63 63 1 else s.wordAt (counterAt id + 8)

section
variable {s : State} {id src : Nat} {failed : Bool} {after : Option Issuer} (ha : unsentOf after = none)
include ha

theorem counterDecrement_zero (h : ctrCount (s.wordAt (counterAt id)) = 0) : exec (.counterDecrement id failed src after) s =
    .next ((s.setWord (counterAt id + 8) (s.decremented id failed)).nodeFault (ctrDie id) (Config.counterBase + 16 * (id % 16384)) 9 0) := by
  change execCounterDecrement id failed src after s = _
  rw [execCounterDecrement, ha]
  exact if_pos h

theorem counterDecrement_counts (h : 1 < ctrCount (s.wordAt (counterAt id))) : exec (.counterDecrement id failed src after) s =
    .next ((s.setWord (counterAt id + 8) (s.decremented id failed)).setWord (counterAt id)
      (setField (s.wordAt (counterAt id)) 31 0 (ctrCount (s.wordAt (counterAt id)) - 1))) := by
  change execCounterDecrement id failed src after s = _
  rw [execCounterDecrement, ha]
  refine (if_neg (by omega)).trans (if_pos ?_)
  simpa using Nat.ne_of_gt h

/-- A count that comes to zero and is not restored, where no node is named. -/
theorem counterDecrement_last (h : ctrCount (s.wordAt (counterAt id)) = 1) (hr : ctrReload (s.wordAt (counterAt id)) = 0)
    (hf : ctrFailed (s.decremented id failed) = false) (hn : ctrNode (s.decremented id failed) = 0) :
    exec (.counterDecrement id failed src after) s =
      .next ((s.setWord (counterAt id + 8) (s.decremented id failed)).setWord (counterAt id)
        (setField (s.wordAt (counterAt id)) 31 0 (ctrCount (s.wordAt (counterAt id)) - 1))) := by
  change execCounterDecrement id failed src after s = _
  rw [execCounterDecrement, ha]
  refine (if_neg (by omega)).trans ((if_neg (by rw [h]; decide)).trans ?_)
  have node : (if ctrFailed (s.decremented id failed) then ctrFailNode (s.decremented id failed) else ctrNode (s.decremented id failed)) = 0 := by
    rw [hf, hn]
    rfl
  have none_ (t : State) : t.evalChain (ctrDie id) src 16 (if ctrFailed (s.decremented id failed) then ctrFailNode (s.decremented id failed)
      else ctrNode (s.decremented id failed)) = some t := by
    rw [node, State.evalChain, if_pos rfl]
  change (match State.evalChain _ (ctrDie id) src 16 (if ctrFailed (s.decremented id failed) then ctrFailNode (s.decremented id failed)
      else ctrNode (s.decremented id failed)) with | none => _ | some t => _) = _
  rw [none_]
  exact if_pos hr

theorem garmAtHome_arms (count reload node failNode : Nat) : exec (.garmAtHome id count reload node failNode src after) s =
    .next (((s.setWord (counterAt id) (BitVec.ofNat 64 (reload % 2 ^ 32 * 2 ^ 32 + count % 2 ^ 32))).setWord (counterAt id + 8)
      (BitVec.ofNat 64 (failNode % 2 ^ 14 * 2 ^ 14 + node % 2 ^ 14))).sweep s) := by
  change execGarmAtHome id count reload node failNode src after s = _
  rw [execGarmAtHome, ha]

end

theorem ctrCount_eq (lo : Word) : ctrCount lo = lo.toNat % 2 ^ 32 := (bitsOf_eq lo 31 0).trans (by rw [Nat.pow_zero, Nat.div_one])
theorem ctrReload_eq (lo : Word) : ctrReload lo = lo.toNat / 2 ^ 32 := bitsOf_top lo 32 (by decide)
theorem ctrNode_eq (hi : Word) : ctrNode hi = hi.toNat % 2 ^ 14 := (bitsOf_eq hi 13 0).trans (by rw [Nat.pow_zero, Nat.div_one])

/-! ## Raises (R171) -/

/-- What the raises leave: everything but second doublewords of counters, and the steps and broadcasts that tell of them. -/
structure Raised (s t : State) : Prop where
  stations : t.stations = s.stations
  counter : ∀ id, t.wordAt (counterAt id) = s.wordAt (counterAt id)

theorem Raised.refl (s : State) : Raised s s := ⟨rfl, fun _ => rfl⟩

theorem Raised.foldl {α : Type} {s t : State} (l : List α) {f : State → α → State} (hf : ∀ u a, Raised s u → Raised s (f u a))
    (h : Raised s t) : Raised s (l.foldl f t) := by
  induction l generalizing t with
  | nil => exact h
  | cons a r ih => exact ih (hf _ _ h)

theorem Raised.setWord {s t : State} (h : Raised s t) (id : Nat) (v : Word) : Raised s (t.setWord (counterAt id + 8) v) := by
  refine ⟨(setWord_stations ..).trans h.stations, fun k => (setWord_other t v ?_).trans (h.counter k)⟩
  have := counterAt_aligned id
  have := counterAt_aligned k
  omega

theorem Raised.raiseOnce {s t : State} (h : Raised s t) (ids : List Nat) : Raised s (t.raiseOnce ids) := by
  refine Raised.foldl ids (fun u id hu => ?_) h
  dsimp only
  split
  · exact hu.setWord id _
  · exact hu

theorem Raised.raisePasses {s t : State} (h : Raised s t) (ids : List Nat) (n : Nat) : Raised s (raisePasses ids n t) := by
  induction n generalizing t with
  | zero => exact h
  | succ n ih => exact ih (h.raiseOnce ids)

theorem sweep_raised (s old : State) : Raised s (s.sweep old) := by
  unfold State.sweep
  refine Raised.foldl _ (fun u id hu => ?_) (Raised.raisePasses (.refl s) ..)
  split
  · exact ⟨hu.stations, hu.counter⟩
  · exact hu

/-- Where no counter is armed nothing is raised. -/
theorem sweep_none {s : State} (old : State) (h : s.mem = []) : s.sweep old = s := by
  have ids : s.counterIds = [] := by
    rw [State.counterIds, h]
    rfl
  rw [State.sweep, ids]
  rfl

theorem memWrite_zero (a n : Nat) : memWrite [] a (leBytes 0 n) = [] := by
  induction n generalizing a with
  | zero => rfl
  | succ n ih => exact ih (a + 1)

/-! ## The dispatcher (R170) -/

theorem dispatcherLaunch_idle {s : State} {die : Nat} (h : (s.die die).ready = []) : exec (.dispatcherLaunch die) s = .next s := by
  change execDispatcherLaunch die s = _
  rw [execDispatcherLaunch]
  exact if_pos (by rw [h]; rfl)

/-- Of one class it is that class's turn. -/
theorem chooseClass_single (rs : List (Nat × Nat × Nat)) (weight : Nat → Nat) (ep c : Nat) :
    ∃ l, chooseClass rs weight ep [c] = (c, l) := by
  by_cases h : roundOf rs ep c < weight c
  · exact ⟨_, by simp [chooseClass, h]; rfl⟩
  · exact ⟨_, by simp [chooseClass, h]; rfl⟩

/-- The only ready launch is started. -/
theorem dispatcherLaunch_single {s : State} {die : Nat} {r : Ready} (h : (s.die die).ready = [r]) : ∃ rs,
    let t := s.modDie die (fun d => { d with ready := [], rounds := rs })
    exec (.dispatcherLaunch die) s = if r.gang.isSome then .next (t.gangWaits die r) else .next (t.sendLaunch die r r.header r.payload r.tilec none) := by
  obtain ⟨rs, choice⟩ := chooseClass_single (s.die die).rounds s.weight r.ep (hdrClass r.header)
  refine ⟨rs, ?_⟩
  have taken : s.modDie die (fun d => { d with ready := d.ready.filter (fun k => k.order != r.order), rounds := rs }) =
      s.modDie die (fun d => { d with ready := [], rounds := rs }) := by
    simp [State.modDie, h]
  change execDispatcherLaunch die s = _
  rw [execDispatcherLaunch]
  refine (if_neg (by rw [h]; exact Bool.false_ne_true)).trans ?_
  simp only [h, List.foldl_cons, List.foldl_nil, Nat.max_def, Nat.zero_le, if_true, List.filter_cons, beq_self_eq_true, List.filter_nil,
    List.map_cons, List.map_nil, choice, taken]

/-! ## Gangs (R164, R165) -/

section
variable {s : State} {die : Nat}

theorem gangPlace_idle (h : (s.die die).gangs = []) : exec (.gangPlace die) s = .next s := by
  change execGangPlace die s = _
  rw [execGangPlace]
  exact if_pos (by rw [h]; rfl)

theorem pipePreempt_idle (h : (s.die die).gangs = []) : exec (.pipePreempt die) s = .next s := by
  change execPipePreempt die s = _
  rw [execPipePreempt]
  exact if_pos (by rw [h]; rfl)

theorem gangPlace_behind (h : (s.die die).gangs ≠ []) (ho : (s.die die).oldestGang = none) : exec (.gangPlace die) s = .next s.wait := by
  change execGangPlace die s = _
  rw [execGangPlace, if_neg (by simpa using h), ho]

theorem pipePreempt_behind (h : (s.die die).gangs ≠ []) (ho : (s.die die).oldestGang = none) : exec (.pipePreempt die) s = .next s.wait := by
  change execPipePreempt die s = _
  rw [execPipePreempt, if_neg (by simpa using h), ho]

variable {r : Ready} (ho : (s.die die).oldestGang = some r)
include ho

theorem gangs_of_oldest : (s.die die).gangs.isEmpty = false := by
  cases h : (s.die die).gangs with
  | nil => rw [Die.oldestGang, h] at ho; cases ho
  | cons g l => rfl

theorem gangPlace_places (h : s.now < r.deadline.toNat) : exec (.gangPlace die) s =
    match s.placeGang die r with
    | none => .next s.wait
    | some t => .next t := by
  change execGangPlace die s = _
  rw [execGangPlace, gangs_of_oldest ho, if_neg (by decide), ho]
  exact if_neg (Nat.not_le.2 h)

theorem gangPlace_overdue (h : r.deadline.toNat ≤ s.now) (hc : r.cctr = none) : exec (.gangPlace die) s =
    .next (((s.releaseSlots die).modDie die (fun d => { d with gangs := d.gangs.filter (fun k => k.index != r.index) })).record
      (clusterBank (64 * die)) deferred 0x03 0x0B 0 0 0) := by
  change execGangPlace die s = _
  rw [execGangPlace, gangs_of_oldest ho, if_neg (by decide), ho]
  refine (if_pos h).trans ?_
  rw [hc]

theorem pipePreempt_none (hv : s.victimGang die r.ep = none) : exec (.pipePreempt die) s = .next s.wait := by
  change execPipePreempt die s = _
  rw [execPipePreempt, gangs_of_oldest ho, if_neg (by decide), ho]
  simp only [hv]

/-- A gang of which no member runs gives way. -/
theorem pipePreempt_gives {q : Gang} (hv : s.victimGang die r.ep = some q) (hp : s.placeGang die r = none)
    (hm : ∀ m ∈ q.members, ∀ w, memberHolder m = some w → (s.holder w).state = .reserved) : exec (.pipePreempt die) s =
      .next (((s.modDie die (fun d => { d with running := d.running.filter (fun k => k.index != q.index) })).cancelMembers die
        q.index).gangWaits die { q.ready with lap := 0 }) := by
  have none_ : (q.members.filterMap memberHolder).filter (fun w => (s.holder w).state != .reserved) = [] := by
    refine List.filter_eq_nil_iff.2 fun w hw => ?_
    obtain ⟨m, mem, of⟩ := List.mem_filterMap.1 hw
    rw [hm m mem w of]
    decide
  change execPipePreempt die s = _
  rw [execPipePreempt, gangs_of_oldest ho, if_neg (by decide), ho]
  simp only [hv, none_, hp, Option.isSome_none, List.all_nil, Bool.not_true, Bool.or_self, Bool.false_eq_true, if_false, List.map_nil,
    List.flatten_nil, List.foldl_nil]
  rfl

end

/-- An error record depends on its bank and the order of the errors. -/
theorem record_bank_congr {s t : State} (key cls kind sub : Nat) (a y c : Word) (hb : t.banks = s.banks) (ho : t.errOrder = s.errOrder) :
    (t.record key cls kind sub a y c).bank key = (s.record key cls kind sub a y c).bank key := by
  rw [record_bank_same, record_bank_same, ho, State.bank, State.bank, hb]

/-! ## Members that are cancelled (R159, R185) -/

theorem die_modDie_other (s : State) {d e : Nat} (f : Die → Die) (h : d ≠ e) : (s.modDie e f).die d = s.die d := by
  rw [State.die, State.modDie, look_put_other _ _ _ _ _ h, ← State.die]

/-- No gang of an index runs on a die. -/
def State.runsNot (s : State) (die g : Nat) : Prop := ∀ k ∈ (s.die die).running, k.index ≠ g

theorem runsNot_congr {s t : State} {die g : Nat} (h : s.runsNot die g) (e : t.dies = s.dies) : t.runsNot die g := by
  have die_ : t.die die = s.die die := congrArg (fun l => look Die.reset l die) e
  intro k hk
  exact h k (by rwa [die_] at hk)

theorem runsNot_foldl {α : Type} {die g : Nat} (l : List α) {f : State → α → State} (hf : ∀ u a, u.runsNot die g → (f u a).runsNot die g)
    {t : State} (h : t.runsNot die g) : (l.foldl f t).runsNot die g := by
  induction l generalizing t with
  | nil => exact h
  | cons a r ih => exact ih (hf _ _ h)

theorem journalRetire_dies (s : State) (seq : Word) : (s.journalRetire seq).dies = s.dies := by
  unfold State.journalRetire
  split <;> rfl

theorem freeRecord_dies (s : State) (st i : Nat) : (s.freeRecord st i).dies = s.dies := by
  rw [State.freeRecord, mailStatus_dies, modStation_dies]

theorem ite_modHolder_dies (s : State) (w : Who) (f : Holder → Holder) (b : Bool) : (if b then s.modHolder w f else s).dies = s.dies := by
  cases b <;> rfl

theorem slotFreed_dies (s : State) (w : Who) (tcmn phn : Nat) : (s.slotFreed w tcmn phn).dies = s.dies := by
  unfold State.slotFreed
  dsimp only
  split
  · rfl
  · split
    · rfl
    · split
      · rfl
      · rw [modStation_dies]
        exact ite_modHolder_dies ..

theorem slotFreed_runsNot {t : State} {die g : Nat} (h : t.runsNot die g) (w : Who) (f : Holder → Holder) (tcmn phn : Nat) :
    ((t.modHolder w f).slotFreed w tcmn phn).runsNot die g := runsNot_congr h ((slotFreed_dies ..).trans (modHolder_dies ..))

theorem ite_runsNot {t u : State} {die g : Nat} (c : Prop) [Decidable c] (ht : t.runsNot die g) (hu : u.runsNot die g) :
    (if c then t else u).runsNot die g := by
  split
  · exact ht
  · exact hu

/-- A gang that loses a member keeps its index, or is gone. -/
theorem cancelReserved_runsNot {s : State} {die g : Nat} (w : Who) (k : Nat × Nat) (h : s.runsNot die g) :
    (s.cancelReserved w k).runsNot die g := by
  unfold State.cancelReserved
  dsimp only
  refine ite_runsNot _ (slotFreed_runsNot ?_ _ _ _ _) h
  by_cases e : die = k.1
  · subst e
    intro q hq
    rw [die_modDie_same] at hq
    obtain ⟨p, hp, rfl⟩ := List.mem_map.1 (List.mem_filter.1 hq).1
    have index : (if p.index = k.2 then { p with members := p.members.filter (fun m => m != (w.st, slotNumber w.core)) } else p).index =
        p.index := by split <;> rfl
    rw [index]
    exact h p hp
  · intro q hq
    rw [die_modDie_other _ _ e] at hq
    exact h q hq

theorem cancelMembers_runsNot {s : State} {die g : Nat} (h : s.runsNot die g) (d k : Nat) : (s.cancelMembers d k).runsNot die g := by
  unfold State.cancelMembers
  refine runsNot_foldl _ (fun t e ht => runsNot_foldl _ (fun u n hu => cancelReserved_runsNot _ _ hu) ?_) ?_
  · exact runsNot_foldl _ (fun u r hu => runsNot_congr hu ((freeRecord_dies ..).trans (journalRetire_dies ..))) ht
  · exact runsNot_foldl _ (fun u q hu => runsNot_congr hu (journalRetire_dies ..)) (runsNot_congr h rfl)

theorem mem_insertGang (r : Ready) (l : List Ready) : r ∈ insertGang r l := by
  induction l with
  | nil => exact List.mem_singleton_self r
  | cons g l ih =>
    rw [insertGang]
    split
    · exact List.mem_cons_self
    · exact List.mem_cons_of_mem g ih

theorem gangWaits_die (s : State) (die : Nat) (r : Ready) :
    (s.gangWaits die r).die die = { s.die die with gangs := insertGang r (s.die die).gangs } := by
  unfold State.gangWaits
  have told (t : State) (e : Instr) : (t.later e).die die = t.die die := rfl
  dsimp only
  split
  · rw [told, die_modDie_same]
  · rw [told, told, die_modDie_same]

/-- Settles O53: counters, arming, the dispatcher, gangs and pre-emption, case by case. -/
theorem graphEvents : Obligations.GraphEvents := by
  intro s id src die failed i after count reload node failNode sent a lo n d
  have ha := unsentOf_sent sent
  have at_ : a = counterAt id := rfl
  have aligned := counterAt_aligned id
  refine ⟨fun hs hd => ?_, fun hs hd => ?_, fun hn hf => ?_, fun hn => ?_, fun hn hr hf ht hk => ?_, ?_, dispatcherLaunch_idle,
    fun r hr hg => ?_, fun r g size hr hg => ?_, fun h => ⟨gangPlace_idle h, pipePreempt_idle h⟩,
    fun h ho => ⟨gangPlace_behind h ho, pipePreempt_behind h ho⟩, fun r ho hd => ⟨fun hp => ?_, fun t hp => ?_⟩,
    fun r ho hd hc => ?_, fun r ho hv => pipePreempt_none ho hv, fun r q ho hv hp hm => ?_⟩
  · rw [counterDecrement_unsent hs, garmAtHome_unsent hs, hd]
    exact ⟨rfl, rfl⟩
  · rw [counterDecrement_unsent hs, garmAtHome_unsent hs, hd]
    exact ⟨rfl, rfl⟩
  · refine ⟨_, counterDecrement_zero ha ((ctrCount_eq _).trans hn), fun x => ?_, ?_⟩
    · subst hf
      exact setWord_wordAt_memGet s (counterAt id + 8) x
    · rw [State.nodeFault, ← Nat.add_assoc]
      exact record_bank_congr _ _ _ _ _ _ _ rfl rfl
  · have counts : 1 < ctrCount (s.wordAt (counterAt id)) := by
      rw [ctrCount_eq]
      exact hn
    refine ⟨_, counterDecrement_counts ha counts, ?_, ?_, ?_, ?_, fun x hx => ?_⟩
    · have two : 1 < (s.wordAt (counterAt id)).toNat % 2 ^ 32 := hn
      rw [at_, setWord_same, setField_count (by rw [ctrCount_eq]; omega), ctrCount_eq]
      change _ = (s.wordAt (counterAt id)).toNat - 1
      omega
    · rw [at_, setWord_other _ _ (by omega), setWord_same, State.decremented, setField_failed]
    · rw [setWord_agenda, setWord_agenda]
    · rw [setWord_stations, setWord_stations]
    · rw [setWord_memGet_other _ _ (by omega), setWord_memGet_other _ _ (by omega)]
  · subst hf
    have failed : ctrFailed (s.decremented id false) = false := ht
    refine ⟨_, counterDecrement_last ha ((ctrCount_eq _).trans hn) ((ctrReload_eq _).trans hr) failed ((ctrNode_eq _).trans hk), ?_, ?_⟩
    · have one : (s.wordAt (counterAt id)).toNat % 2 ^ 32 = 1 := hn
      rw [at_, setWord_same, setField_count (by rw [ctrCount_eq]; omega), ctrCount_eq]
      omega
    · rw [setWord_agenda, setWord_agenda]
  · have raised := sweep_raised ((s.setWord (counterAt id) (BitVec.ofNat 64 (reload % 2 ^ 32 * 2 ^ 32 + count % 2 ^ 32))).setWord
      (counterAt id + 8) (BitVec.ofNat 64 (failNode % 2 ^ 14 * 2 ^ 14 + node % 2 ^ 14))) s
    refine ⟨_, garmAtHome_arms ha count reload node failNode, ?_, ?_, fun hm h1 h2 h3 h4 => ?_⟩
    · rw [raised.stations, setWord_stations, setWord_stations]
    · rw [at_, raised.counter, setWord_other _ _ (by omega), setWord_same, BitVec.toNat_ofNat]
      omega
    · have clear : ((s.setWord (counterAt id) (BitVec.ofNat 64 (reload % 2 ^ 32 * 2 ^ 32 + count % 2 ^ 32))).setWord
          (counterAt id + 8) (BitVec.ofNat 64 (failNode % 2 ^ 14 * 2 ^ 14 + node % 2 ^ 14))).mem = [] := by
        rw [h1, h2, h3, h4, setWord_mem, setWord_mem, hm]
        exact (congrArg (fun m => memWrite m (counterAt id + 8) (leBytes 0 8)) (memWrite_zero _ 8)).trans (memWrite_zero _ 8)
      rw [sweep_none s clear, clear]
  · obtain ⟨rs, launch⟩ := dispatcherLaunch_single hr
    rw [hg] at launch
    exact ⟨_, rs, launch, rfl⟩
  · obtain ⟨rs, launch⟩ := dispatcherLaunch_single hr
    rw [hg] at launch
    exact ⟨_, rs, launch, rfl⟩
  · rw [gangPlace_places ho hd, hp]
  · rw [gangPlace_places ho hd, hp]
  · refine ⟨_, gangPlace_overdue ho hd hc, fun k hk => ?_, rfl, record_bank_congr _ _ _ _ _ _ _ rfl rfl⟩
    have told (t : State) : (t.record (clusterBank (64 * die)) deferred 0x03 0x0B 0 0 0).die die = t.die die := rfl
    rw [told, die_modDie_same] at hk
    simpa using (List.mem_filter.1 hk).2
  · refine ⟨_, pipePreempt_gives ho hv hp hm, ?_, ?_⟩
    · rw [gangWaits_die]
      refine cancelMembers_runsNot (fun k hk => ?_) die q.index
      rw [die_modDie_same] at hk
      simpa using (List.mem_filter.1 hk).2
    · rw [gangWaits_die]
      exact ⟨_, mem_insertGang .., rfl⟩

end Sys2Proof.Machine
end

section
/-! PROOFS. The owner of the module, claims and elections (R161, R313, R428 to R431). -/
namespace Sys2Proof.Machine

/-! ## The owner's writes (R430) -/

theorem owns_iff (s : State) (m : Nat) : s.owns m = true ↔ s.vacant = false ∧ s.master = m := by
  simp [State.owns]

section
variable {s : State} {m : Nat}

theorem asOwner_owner (h : s.vacant = false ∧ s.master = m) (f : State → State) : s.asOwner m f = f s := if_pos ((owns_iff s m).2 h)

theorem asOwner_other (h : ¬ (s.vacant = false ∧ s.master = m)) (f : State → State) :
    s.asOwner m f = { s with status := s.status ||| 2 } := if_neg fun e => h ((owns_iff s m).1 e)

theorem masterPathDown_other (h : ¬ (s.vacant = false ∧ s.master = m)) : exec (.masterPathDown m) s = .next s := by
  change execMasterPathDown m s = _
  rw [execMasterPathDown, if_neg fun e => h ((owns_iff s m).1 e)]

theorem masterPathDown_owner (h : s.vacant = false ∧ s.master = m) : exec (.masterPathDown m) s = .next s.vacate := by
  change execMasterPathDown m s = _
  rw [execMasterPathDown, if_pos ((owns_iff s m).2 h)]

end

/-! ## Elections (R429) -/

theorem openElection_opens {t : State} (h : t.vacant = true ∧ t.election = none ∧ ∃ e ∈ t.claims, e.2 ≠ 0) :
    t.openElection = ({ t with election := some (t.now + 65536) } : State).laterAt (t.now + 65536) .electionEnd := by
  obtain ⟨h1, h2, e, he, hn⟩ := h
  have some_ : t.claims.any (fun e => e.2 != 0) = true := List.any_eq_true.2 ⟨e, he, by simpa using hn⟩
  rw [State.openElection, if_pos]
  rw [h1, h2, some_]
  rfl

theorem openElection_rests {t : State} (h : ¬ (t.vacant = true ∧ t.election = none ∧ ∃ e ∈ t.claims, e.2 ≠ 0)) : t.openElection = t := by
  refine if_neg fun e => h ?_
  simpa [and_assoc] using e

theorem low_claim (v : Word) : (v &&& 0xFFFFFFFF#64).toNat = v.toNat % 2 ^ 32 := by
  rw [BitVec.toNat_and]
  exact Nat.and_two_pow_sub_one_eq_mod v.toNat 32

/-- A claim is written before an election may open. -/
theorem claims_written (s : State) (m : Nat) (v : Word) : ∃ t : State, s.setClaim m v = t.openElection ∧
    (look 0 t.claims m).toNat = v.toNat % 2 ^ 32 ∧ (∀ k, k ≠ m → look 0 t.claims k = look 0 s.claims k) ∧ t.vacant = s.vacant ∧
    t.election = s.election := by
  refine ⟨{ s with claims := put m (v &&& 0xFFFFFFFF#64) s.claims }, rfl, ?_, fun k hk => look_put_other _ _ _ _ _ hk, rfl, rfl⟩
  rw [look_put_same, low_claim]

section
variable {s : State} {m k : Nat} (v : Word)

theorem claim_none (h : 4 ≤ m) : exec (.claim m v) s = .next s := by
  change execClaim m v s = _
  rw [execClaim, if_pos h]

theorem claim_own (h : m < 4) : exec (.claim m v) s = .next (s.setClaim m v) := by
  change execClaim m v s = _
  rw [execClaim, if_neg (Nat.not_le.2 h)]

theorem writeManagement_claim (h : k < 4) : exec (.registerWrite (.managementOther m (8 + 8 * k)) v) s =
    .next (if k = m then s.setClaim k v else s.asOwner m (fun s => s.setClaim k v)) := by
  have place : (decide (0x0008 ≤ 8 + 8 * k) && decide (8 + 8 * k < 0x0028) && (8 + 8 * k) % 8 == 0) = true := by
    simp only [Bool.and_eq_true, decide_eq_true_eq, beq_iff_eq]
    omega
  have index : (8 + 8 * k - 0x0008) / 8 = k := by omega
  change execRegisterWrite (.managementOther m (8 + 8 * k)) v s = _
  rw [execRegisterWrite, State.writeManagement]
  simp only [place, index, Bool.true_and, beq_iff_eq, if_true]

end

/-- One claim more is considered. -/
def State.stronger (s : State) (m : Option (Nat × Nat)) (i : Nat) : Option (Nat × Nat) :=
  let v := (look 0 s.claims i).toNat
  if v = 0 then m
  else match m with
    | none => some (i, v)
    | some (k, u) => if v < u then some (i, v) else some (k, u)

/-- The lowest nonzero claim among the first masters, the lower index of a tie. -/
def State.strongest (s : State) (n : Nat) : Option (Nat × Nat) := (List.range n).foldl s.stronger none

theorem winner_eq (s : State) : s.winner = (s.strongest 4).map (·.1) := rfl

theorem strongest_succ (s : State) (n : Nat) : s.strongest (n + 1) = s.stronger (s.strongest n) n := by
  rw [State.strongest, List.range_succ, List.foldl_append]
  rfl

/-- Whether a claim is the lowest nonzero one among the first masters. -/
def State.lowest (s : State) (n k : Nat) : Prop :=
  k < n ∧ (look 0 s.claims k).toNat ≠ 0 ∧ ∀ j, j < n → (look 0 s.claims j).toNat ≠ 0 →
    (look 0 s.claims k).toNat ≤ (look 0 s.claims j).toNat ∧ ((look 0 s.claims j).toNat = (look 0 s.claims k).toNat → k ≤ j)

theorem strongest_lowest (s : State) (n : Nat) :
    (s.strongest n = none ∧ ∀ j, j < n → (look 0 s.claims j).toNat = 0) ∨
    ∃ k, s.strongest n = some (k, (look 0 s.claims k).toNat) ∧ s.lowest n k := by
  induction n with
  | zero => exact .inl ⟨rfl, fun j hj => absurd hj (Nat.not_lt_zero j)⟩
  | succ n ih =>
    rw [strongest_succ]
    by_cases zero : (look 0 s.claims n).toNat = 0
    · have same (m : Option (Nat × Nat)) : s.stronger m n = m := if_pos zero
      rw [same]
      rcases ih with ⟨none_, all⟩ | ⟨k, some_, hk, hn, low⟩
      · exact .inl ⟨none_, fun j hj => by
          rcases Nat.lt_succ_iff_lt_or_eq.1 hj with h | rfl
          · exact all j h
          · exact zero⟩
      · refine .inr ⟨k, some_, by omega, hn, fun j hj hz => ?_⟩
        rcases Nat.lt_succ_iff_lt_or_eq.1 hj with h | rfl
        · exact low j h hz
        · exact absurd zero hz
    · rcases ih with ⟨none_, all⟩ | ⟨k, some_, hk, hn, low⟩
      · refine .inr ⟨n, by rw [none_, State.stronger, if_neg zero], by omega, zero, fun j hj hz => ?_⟩
        rcases Nat.lt_succ_iff_lt_or_eq.1 hj with h | rfl
        · exact absurd (all j h) hz
        · exact ⟨Nat.le_refl _, fun _ => Nat.le_refl _⟩
      · by_cases less : (look 0 s.claims n).toNat < (look 0 s.claims k).toNat
        · refine .inr ⟨n, by rw [some_, State.stronger, if_neg zero]; exact if_pos less, by omega, zero, fun j hj hz => ?_⟩
          rcases Nat.lt_succ_iff_lt_or_eq.1 hj with h | rfl
          · have := low j h hz
            omega
          · exact ⟨Nat.le_refl _, fun _ => Nat.le_refl _⟩
        · refine .inr ⟨k, by rw [some_, State.stronger, if_neg zero]; exact if_neg less, by omega, hn, fun j hj hz => ?_⟩
          rcases Nat.lt_succ_iff_lt_or_eq.1 hj with h | rfl
          · exact low j h hz
          · omega

theorem winner_lowest {s : State} {w : Nat} (h : s.lowest 4 w) : s.winner = some w := by
  obtain ⟨hw, hn, low⟩ := h
  rcases strongest_lowest s 4 with ⟨-, all⟩ | ⟨k, some_, hk, kn, klow⟩
  · exact absurd (all w hw) hn
  · have one := low k hk kn
    have other := klow w hw hn
    have same : k = w := by omega
    rw [winner_eq, some_, Option.map_some, same]

section
variable {s : State}

theorem electionEnd_none (h : s.election = none) : exec .electionEnd s = .next s := by
  change execElectionEnd s = _
  rw [execElectionEnd, h]

theorem electionEnd_early {t : Nat} (h : s.election = some t) (ht : s.now < t) : exec .electionEnd s = .next s.wait := by
  change execElectionEnd s = _
  rw [execElectionEnd, h]
  exact if_pos ht

theorem electionEnd_elects {t w : Nat} (h : s.election = some t) (ht : t ≤ s.now) (hw : s.winner = some w) :
    exec .electionEnd s = .next { s with vacant := false, master := w, election := none } := by
  change execElectionEnd s = _
  rw [execElectionEnd, h]
  refine (if_neg (Nat.not_lt.2 ht)).trans ?_
  rw [hw]

end

/-! ## Class records (R313) -/

section
variable {s : State} {m c : Nat} {v : Word} (h : s.vacant = false ∧ s.master = m)
include h

theorem classcfgWrite_legal (hl : c < 16 ∧ classLegal v = true ∧ s.classFits c v = true) :
    exec (.classcfgWrite m c v) s = .next { s with classcfg := put c v s.classcfg } := by
  obtain ⟨h1, h2, h3⟩ := hl
  change execClasscfgWrite m c v s = _
  rw [execClasscfgWrite, asOwner_owner h, if_pos (by simp [h1, h2, h3])]

theorem classcfgWrite_illegal (hl : ¬ (c < 16 ∧ classLegal v = true ∧ s.classFits c v = true)) :
    exec (.classcfgWrite m c v) s = .next { s with status := s.status ||| 1 } := by
  change execClasscfgWrite m c v s = _
  rw [execClasscfgWrite, asOwner_owner h, if_neg fun e => hl (by simpa [and_assoc] using e)]

end

end Sys2Proof.Machine
end

section
/-! PROOFS. Power-on, records of host links, the replay of a journal, and the temperature of a die (R35, R365, R422 to R427, R437, R438). -/
namespace Sys2Proof.Machine

/-! ## POWER_ON (R365, R437) -/

/-- What the innkeepers' bring-up leaves: everything but stations, clusters, the agenda and the memory. -/
structure BroughtUp (s t : State) : Prop where
  rest : t = { s with stations := t.stations, clusters := t.clusters, agenda := t.agenda, mem := t.mem, empties := t.empties, poison := t.poison }
  poison : s.poison = [] → t.poison = []

theorem BroughtUp.refl (s : State) : BroughtUp s s := ⟨rfl, id⟩

theorem BroughtUp.foldl {α : Type} {s t : State} (l : List α) {f : State → α → State} (hf : ∀ u a, BroughtUp s u → BroughtUp s (f u a))
    (h : BroughtUp s t) : BroughtUp s (l.foldl f t) := by
  induction l generalizing t with
  | nil => exact h
  | cons a r ih => exact ih (hf _ _ h)

theorem BroughtUp.modStation {s t : State} (h : BroughtUp s t) (n : Nat) (f : Station → Station) : BroughtUp s (t.modStation n f) :=
  ⟨by rw [State.modStation, State.setStation, h.rest], h.poison⟩

theorem BroughtUp.modHolder {s t : State} (h : BroughtUp s t) (w : Who) (f : Holder → Holder) : BroughtUp s (t.modHolder w f) :=
  h.modStation w.st (fun x => x.setCore w.core (f (t.holder w)))

theorem BroughtUp.later {s t : State} (h : BroughtUp s t) (e : Instr) : BroughtUp s (t.later e) :=
  ⟨by rw [State.later, h.rest], h.poison⟩

theorem BroughtUp.setBfmt {s t : State} (h : BroughtUp s t) (cl bank : Nat) (v : Word) : BroughtUp s (t.setBfmt cl bank v) := by
  refine ⟨by rw [State.setBfmt, State.modCluster, State.clearAt, h.rest], fun e => ?_⟩
  have empty := h.poison e
  rw [State.setBfmt, State.modCluster, State.clearAt, empty]
  rfl

/-- New handlers change a station, and may start its attempts to steal (R181). -/
theorem installHandlers_cases (s : State) (st : Nat) (es : List (Nat × BitVec 256)) : ∃ f,
    s.installHandlers st es = s.modStation st f ∨ s.installHandlers st es = (s.modStation st f).later (.stealAttempt st) :=
  ⟨_, (ite_eq_or_eq _ _ _).symm⟩

theorem BroughtUp.installHandlers {s t : State} (h : BroughtUp s t) (st : Nat) (es : List (Nat × BitVec 256)) :
    BroughtUp s (t.installHandlers st es) := by
  obtain ⟨f, e | e⟩ := installHandlers_cases t st es <;> rw [e]
  · exact h.modStation ..
  · exact (h.modStation ..).later _

theorem installImage_broughtUp (s : State) (b : BootImage) : BroughtUp s (s.installImage b) := by
  unfold State.installImage
  refine .foldl _ (fun u e hu => hu.modHolder ..) (.foldl _ (fun u e hu => hu.installHandlers ..) ?_)
  have formats : BroughtUp s (b.formats.foldl (fun (s : State) e => s.setBfmt e.1 e.2.1 e.2.2) (b.layouts.foldl (fun (s : State) e =>
      s.modStation e.1 (fun x => { x with plb1 := e.2.1, plb2 := e.2.2.1, plb3 := e.2.2.2, app1 := e.2.1, app2 := e.2.2.1, app3 := e.2.2.2 })) s)) :=
    .foldl _ (fun u e hu => hu.setBfmt ..) (.foldl _ (fun u e hu => hu.modStation ..) (.refl s))
  exact ⟨by conv_lhs => rw [formats.rest], formats.poison⟩

theorem foldl_mem {α : Type} (l : List α) {f : State → α → State} (hf : ∀ u a, (f u a).mem = u.mem) (t : State) : (l.foldl f t).mem = t.mem := by
  induction l generalizing t with
  | nil => rfl
  | cons a r ih => exact (ih _).trans (hf _ _)

theorem installHandlers_mem (s : State) (st : Nat) (es : List (Nat × BitVec 256)) : (s.installHandlers st es).mem = s.mem := by
  obtain ⟨f, e | e⟩ := installHandlers_cases s st es <;> rw [e]
  · rfl
  · rfl

/-- An image without bytes and formats leaves the memory. -/
theorem installImage_mem {s : State} {b : BootImage} (h1 : b.bytes = []) (h2 : b.formats = []) : (s.installImage b).mem = s.mem := by
  unfold State.installImage
  dsimp only
  rw [foldl_mem _ (fun _ _ => modHolder_mem ..), foldl_mem _ (fun _ _ => installHandlers_mem ..), h1, h2]
  exact foldl_mem _ (fun _ _ => modStation_mem ..) s

/-- The state in which an image is placed. -/
def State.powered (s : State) (b : BootImage) : State :=
  { s with
    boot := .running, sram := some b, hbper := if periodLegal b.hbper then b.hbper else 8192,
    classcfg := b.classes.zipIdx.map (fun e => (e.2, e.1)), asroot := b.roots.zipIdx.map (fun e => (e.2, e.1)),
    fnmode := b.fnmode &&& 0x1F, notice := b.notice, cxl := b.cxlBytes.zipIdx.map (fun e => (e.2, e.1)), mem := [], empties := [],
    poison := [], now := 0 }

/-- The roll call of every station starts (R365). -/
def rollCall (per : Nat) : List Timed :=
  ((List.range Config.stations).map (fun st => [({ due := 0, ev := .heartbeatSend st } : Timed), { due := per, ev := .periodEnd st }])).flatten

theorem mem_rollCall {per n : Nat} (h : n < 8192) : { due := 0, ev := Instr.heartbeatSend n } ∈ rollCall per ∧
    { due := per, ev := Instr.periodEnd n } ∈ rollCall per := by
  have listed : [({ due := 0, ev := .heartbeatSend n } : Timed), { due := per, ev := .periodEnd n }] ∈
      (List.range Config.stations).map (fun st => [({ due := 0, ev := .heartbeatSend st } : Timed), { due := per, ev := .periodEnd st }]) :=
    List.mem_map.2 ⟨n, List.mem_range.2 h, rfl⟩
  exact ⟨List.mem_flatten.2 ⟨_, listed, List.mem_cons_self⟩,
    List.mem_flatten.2 ⟨_, listed, List.mem_cons_of_mem _ List.mem_cons_self⟩⟩

section
variable {s : State} {b : BootImage}

theorem powerOn_running (h : s.boot = .running) : exec (.powerOn b) s = .next s := by
  change execPowerOn b s = _
  rw [execPowerOn, if_pos (by rw [h]; rfl)]

variable (h : s.boot ≠ .running)
include h

theorem powerOn_fails (hf : b.signed = false ∨ 2 ^ 24 < b.size) :
    exec (.powerOn b) s = .next { s with boot := .failed, sram := some b } := by
  change execPowerOn b s = _
  rw [execPowerOn, if_neg (by simpa using h), if_pos]
  rw [Bool.or_eq_true, Bool.not_eq_true']
  exact hf.imp_right fun e => decide_eq_true (p := imageBytes < b.size) e

theorem powerOn_starts (h1 : b.signed = true) (h2 : b.size ≤ 2 ^ 24) : exec (.powerOn b) s =
    .next { (s.powered b).installImage b with agenda := ((s.powered b).installImage b).agenda ++ rollCall (s.powered b).hbper } := by
  have fits : ¬ (!b.signed || decide (imageBytes < b.size)) = true := by
    rw [h1, Bool.not_true, Bool.false_or, decide_eq_true_eq]
    exact Nat.not_lt.2 h2
  change execPowerOn b s = _
  rw [execPowerOn, if_neg (by simpa using h), if_neg fits]
  rfl

end

theorem periodLegal_iff (n : Nat) : periodLegal n = true ↔ ∃ i, i ≤ 10 ∧ n = 2 ^ (10 + i) := by
  simp only [periodLegal, List.any_eq_true, List.mem_range, beq_iff_eq, Nat.lt_succ_iff]

/-- A list kept by index reads as the list. -/
theorem look_zipIdx {α : Type} (d d' : α) (l : List α) (k i : Nat) (h : i < l.length) :
    look d ((l.zipIdx k).map (fun e => (e.2, e.1))) (k + i) = l.getD i d' := by
  induction l generalizing k i with
  | nil => exact absurd h (Nat.not_lt_zero i)
  | cons a r ih =>
    rw [List.zipIdx_cons, List.map_cons, look]
    cases i with
    | zero => rw [if_pos (Nat.add_zero k).symm, List.getD_cons_zero]
    | succ i =>
      rw [if_neg (by omega), List.getD_cons_succ, ← ih (k + 1) i (Nat.lt_of_succ_lt_succ h)]
      congr 1
      omega

/-! ## INBOUND_RECORD (R422 to R424, R426) -/

section
variable {s : State} {link off : Nat} {write : Bool} {words : List Word}

theorem inbound_waits (h : s.boot ≠ .running) : exec (.inboundRecord link { off := off, write := write, words := words }) s = .next s.wait := by
  change execInboundRecord link { off := off, write := write, words := words } s = _
  rw [execInboundRecord, if_pos (by simpa using h)]

theorem inbound_whole (hw : write = true ∧ words.length = 16 ∧ off % 128 = 0 ∧ off < 65536 ∧ link < 2) :
    ¬ (!write || words.length != 16 || off % 128 != 0 || decide (65536 ≤ off) || decide (2 ≤ link)) = true := by
  obtain ⟨h1, h2, h3, h4, h5⟩ := hw
  simp [h1, h2, h3, h4, h5]

variable (h : s.boot = .running)
include h

theorem inbound_refused (hw : ¬ (write = true ∧ words.length = 16 ∧ off % 128 = 0 ∧ off < 65536 ∧ link < 2)) :
    exec (.inboundRecord link { off := off, write := write, words := words }) s =
      .next (s.record (clusterBank 0) deferred 0x0F 0 0 0 0) := by
  change execInboundRecord link { off := off, write := write, words := words } s = _
  rw [execInboundRecord, if_neg (by rw [h]; decide), if_pos]
  by_contra whole
  refine hw ?_
  simpa [and_assoc] using whole

variable (hw : write = true ∧ words.length = 16 ∧ off % 128 = 0 ∧ off < 65536 ∧ link < 2)
include hw

theorem inbound_again (hl : (words.getD 12 0).toNat ≤ look 0 s.lastSeq link) :
    exec (.inboundRecord link { off := off, write := write, words := words }) s = .next s := by
  change execInboundRecord link { off := off, write := write, words := words } s = _
  rw [execInboundRecord, if_neg (by rw [h]; decide), if_neg (inbound_whole hw)]
  exact if_pos hl

variable (hl : look 0 s.lastSeq link < (words.getD 12 0).toNat)
include hl

theorem inbound_malformed (hi : inboundLegal words = false) :
    exec (.inboundRecord link { off := off, write := write, words := words }) s =
      .next { s.record (clusterBank 0) deferred 0x0F 0 0 0 0 with
        lastSeq := put link (max (look 0 s.lastSeq link) (bitsOf (words.getD 12 0) 59 0)) s.lastSeq } := by
  change execInboundRecord link { off := off, write := write, words := words } s = _
  rw [execInboundRecord, if_neg (by rw [h]; decide), if_neg (inbound_whole hw)]
  refine (if_neg (Nat.not_le.2 hl)).trans ((if_pos (by rw [hi]; rfl)).trans ?_)
  rfl

theorem inbound_legal (hi : inboundLegal words = true) :
    exec (.inboundRecord link { off := off, write := write, words := words }) s =
      match s.journalAccept (rankCoord ((s.station (4096 * link)).rankEntry (hdrDest (s.inboundMsg link words).header)) / 1024)
        (s.inboundMsg link words) with
      | none => .next s.wait
      | some t => .next (({ t with
          lastSeq := put link (max (look 0 s.lastSeq link) (bitsOf (words.getD 12 0) 59 0)) t.lastSeq } : State).routeMsg (4096 * link)
            (hdrDest (s.inboundMsg link words).header) (s.inboundMsg link words)) := by
  change execInboundRecord link { off := off, write := write, words := words } s = _
  rw [execInboundRecord, if_neg (by rw [h]; decide), if_neg (inbound_whole hw)]
  refine (if_neg (Nat.not_le.2 hl)).trans ((if_neg (by rw [hi]; decide)).trans ?_)
  rfl

end

theorem inboundLegal_seq {words : List Word} (h : inboundLegal words = true) : (words.getD 12 0).toNat < 2 ^ 60 := by
  have top : bitsOf (words.getD 12 0) 63 60 = 0 := by
    simp only [inboundLegal, Bool.and_eq_true, beq_iff_eq] at h
    exact h.1.2
  rw [bitsOf_top _ _ (by decide)] at top
  omega

/-! ## JOURNAL_REPLAY (R427) -/

theorem journalReplay_none {s : State} {die : Nat} (h : ∀ j ∈ s.journal, j.die ≠ die) : exec (.journalReplay die) s = .next s := by
  have none_ : s.journal.filter (fun j => j.die == die) = [] := List.filter_eq_nil_iff.2 fun j hj => by simpa using h j hj
  change execJournalReplay die s = _
  rw [execJournalReplay, none_]
  rfl

theorem journalReplay_single {s : State} {die : Nat} {j : JEntry} (h : s.journal = [j]) (hd : j.die = die) :
    exec (.journalReplay die) s =
      .next (s.routeMsg (routerOf die (s.journalMsg j).source) (hdrDest (s.journalMsg j).header) (s.journalMsg j)) := by
  have single : s.journal.filter (fun j => j.die == die) = [j] := by simp [h, hd]
  change execJournalReplay die s = _
  rw [execJournalReplay, single]
  rfl

/-! ## The temperature of a die (R438) -/

/-- The clock of a die goes on from where it stands. -/
theorem clock_rated (s : State) (die r : Nat) : (s.modDie die (fun d =>
    { d with clock := d.clock + (s.now - d.clockAt) * d.rate, clockAt := s.now, rate := r })).clock die = s.clock die := by
  rw [State.clock, die_modDie_same, modDie_now, State.clock]
  dsimp only
  rw [Nat.sub_self, Nat.zero_mul, Nat.add_zero]

theorem throttle_rate (temp rate : Nat) : (if throttleTemp ≤ temp then Nat.max 32 (Nat.min 63 rate) else 64) =
    if temp < 840 then 64 else if rate < 32 then 32 else if 63 < rate then 63 else rate := by
  rw [throttleTemp]
  split
  · rw [if_neg (by omega)]
    change max 32 (min 63 rate) = _
    split
    · omega
    · split <;> omega
  · rw [if_pos (by omega)]

/-! ## A cache die resets (R427) -/

theorem recallOwner_now {s t : State} {line : Nat} (h : s.recallOwner line = some t) : t.now = s.now := by
  unfold State.recallOwner at h
  split at h
  · cases h; rfl
  · split at h
    · cases h
    · next l hl =>
      cases h
      have kept (es : List (Nat × Byte)) (u : State) :
          (es.foldl (fun (s : State) e => { s with mem := memPut (Config.physAt (line * 128 + e.1)) e.2 s.mem }) u).now = u.now := by
        induction es generalizing u with
        | nil => rfl
        | cons e r ih => exact ih _
      exact kept _ s

theorem recalled_now (l : List Nat) (s : State) : (l.foldl (fun (s : State) l => (s.recallOwner l).getD s) s).now = s.now := by
  induction l generalizing s with
  | nil => rfl
  | cons a r ih =>
    refine (ih _).trans ?_
    dsimp only
    cases h : s.recallOwner a with
    | none => rfl
    | some t => exact recallOwner_now h

theorem resetSlices_now (s : State) (die : Nat) : (s.resetSlices die).now = s.now := recalled_now ..

end Sys2Proof.Machine
end

section
/-! PROOFS. What a reset of a station keeps and what it clears (R374, R427), and the module's edges case by case. -/
namespace Sys2Proof.Machine

/-! ## What the end of a task keeps of every station (R173) -/

/-- The time, and of every station its handler table and its count of launches, are as they were. -/
structure Kept (s t : State) : Prop where
  now : t.now = s.now
  handlers : ∀ n, (t.station n).handlers = (s.station n).handlers
  launches : ∀ n, (t.station n).launches = (s.station n).launches

theorem Kept.refl (s : State) : Kept s s := ⟨rfl, fun _ => rfl, fun _ => rfl⟩

theorem Kept.trans {s t u : State} (h : Kept s t) (k : Kept t u) : Kept s u :=
  ⟨k.now.trans h.now, fun n => (k.handlers n).trans (h.handlers n), fun n => (k.launches n).trans (h.launches n)⟩

theorem Kept.foldl {α : Type} (l : List α) {f : State → α → State} (hf : ∀ u a, Kept u (f u a)) (t : State) : Kept t (l.foldl f t) := by
  induction l generalizing t with
  | nil => exact .refl t
  | cons a r ih => exact (hf t a).trans (ih _)

theorem Kept.stations {s t : State} (h : t.stations = s.stations) (hn : t.now = s.now) : Kept s t :=
  ⟨hn, fun n => by rw [station_congr h], fun n => by rw [station_congr h]⟩

theorem Kept.modStation (s : State) (n : Nat) {f : Station → Station} (h1 : ∀ x, (f x).handlers = x.handlers)
    (h2 : ∀ x, (f x).launches = x.launches) : Kept s (s.modStation n f) := by
  refine ⟨rfl, fun k => ?_, fun k => ?_⟩
  · by_cases e : k = n
    · rw [e, station_modStation_same, h1]
    · rw [station_modStation_other _ _ _ _ e]
  · by_cases e : k = n
    · rw [e, station_modStation_same, h2]
    · rw [station_modStation_other _ _ _ _ e]

theorem Kept.modHolder (s : State) (w : Who) (f : Holder → Holder) : Kept s (s.modHolder w f) :=
  Kept.modStation s w.st (f := fun x => x.setCore w.core (f (s.holder w))) (fun _ => rfl) (fun _ => rfl)

theorem Kept.ite {s t u : State} (c : Prop) [Decidable c] (ht : Kept s t) (hu : Kept s u) : Kept s (if c then t else u) := by
  split
  · exact ht
  · exact hu

theorem releaseBehind_kept (s : State) : Kept s s.releaseBehind := .stations rfl rfl

theorem dropIdle_kept (s : State) (st : Nat) : Kept s (s.dropIdle st) := by
  unfold State.dropIdle
  exact .modStation _ _ (fun _ => rfl) (fun _ => rfl)

theorem withdraw_kept (s : State) (st : Nat) (p : AccPart → Bool) : Kept s (s.withdraw st p) := by
  unfold State.withdraw
  dsimp only
  refine Kept.trans ?_ (.foldl _ (fun u x => ?_) _)
  · refine Kept.trans ?_ (dropIdle_kept ..)
    refine Kept.trans ?_ (releaseBehind_kept _)
    refine Kept.trans ?_ (.modStation _ _ (fun _ => rfl) (fun _ => rfl))
    exact .stations rfl rfl
  · cases x.kind with
    | store => exact .modHolder ..
    | red _ _ => exact .modHolder ..
    | _ => exact .refl u

theorem dropHeld_kept (s : State) (w : Who) (task : Word) : Kept s (s.dropHeld w task) := by
  unfold State.dropHeld
  refine Kept.trans ?_ (.foldl _ (fun _ _ => .modHolder ..) _)
  exact .modStation _ _ (fun _ => rfl) (fun _ => rfl)

theorem phaserWithdraw_kept (s : State) (w : Who) (task : Word) : Kept s (s.phaserWithdraw w task) := by
  have station (n : Nat) : (s.phaserWithdraw w task).station n = { s.station n with phasers := (s.station n).phasers.map (fun q =>
      (q.1, { q.2 with waiting := q.2.waiting.filter (fun v => !isPhaserOf w task v.op) })) } :=
    look_map Station.reset (fun x : Station => { x with phasers := x.phasers.map (fun q =>
      (q.1, { q.2 with waiting := q.2.waiting.filter (fun v => !isPhaserOf w task v.op) })) }) rfl s.stations n
  exact ⟨rfl, fun n => by rw [station n], fun n => by rw [station n]⟩

theorem sendPhaser_kept (s : State) (o : PhaserOp) : Kept s (s.sendPhaser o) := by
  unfold State.sendPhaser
  exact .ite _ (.modStation _ _ (fun _ => rfl) (fun _ => rfl)) (.stations rfl rfl)

theorem phaserLeaveAll_kept (s : State) (w : Who) (h : Holder) : Kept s (s.phaserLeaveAll w h) :=
  .foldl _ (fun u _ => Kept.trans (t := { u with ops := u.ops + 1 }) (.stations rfl rfl) (sendPhaser_kept ..)) _

theorem undoPorts_kept (s : State) (w : Who) (us : List Unsettled) : Kept s (s.undoPorts w us) := by
  unfold State.undoPorts
  refine Kept.trans (.foldl _ (fun u e => ?_) _) (.foldl _ (fun _ _ => .modHolder ..) _)
  split
  · exact .refl u
  · split
    · exact .modStation _ _ (fun _ => rfl) (fun _ => rfl)
    · exact .modHolder ..

theorem unbind_kept (s : State) (w : Who) (b : PortBinding) : Kept s (s.unbind w b) := by
  unfold State.unbind
  split
  · exact .stations rfl rfl
  · exact .refl s

theorem dropPortSteps_kept (s : State) (w : Who) (which : Nat → Bool) : Kept s (s.dropPortSteps w which) := .stations rfl rfl

theorem unbindAll_kept (s : State) (w : Who) : Kept s (s.unbindAll w) := by
  unfold State.unbindAll
  exact (Kept.foldl _ (fun _ _ => unbind_kept ..) _).trans ((dropPortSteps_kept ..).trans (.modHolder ..))

theorem closeWindow_kept (s : State) (w : Who) : Kept s (s.closeWindow w) := by
  unfold State.closeWindow
  exact .ite _ (Kept.trans (.modHolder ..) (.modStation _ _ (fun _ => rfl) (fun _ => rfl))) (.modHolder ..)

theorem stopCore_kept (s : State) (w : Who) : Kept s (s.stopCore w) := by
  unfold State.stopCore State.restCore
  exact (withdraw_kept ..).trans ((unbindAll_kept ..).trans (.modHolder ..))

theorem closeParked_kept (s : State) (st n : Nat) : Kept s (s.closeParked st n) := by
  unfold State.closeParked
  exact .ite _ (.stations (writeAt_stations ..) (writeAt_now ..)) (.refl s)

theorem unparkNow_kept (s : State) (st : Nat) : Kept s (s.unparkNow st) := by
  unfold State.unparkNow
  exact .modStation _ _ (fun _ => rfl) (fun _ => rfl)

theorem closeBatch_kept (s : State) (w : Who) : Kept s (s.closeBatch w) := by
  unfold State.closeBatch
  refine .ite _ (.modStation _ _ (fun _ => rfl) (fun _ => rfl)) ?_
  refine Kept.trans ?_ ?_ (t := s.modStation w.st (fun x =>
    { x with batch0 := if x.batch0 = some (slotNumber w.core) && !x.closing0 then none else x.batch0,
             mopenq := x.mopenq.filter (· != slotNumber w.core),
             parking := if x.parking = some (slotNumber w.core) then none else x.parking }))
  · exact .modStation _ _ (fun _ => rfl) (fun _ => rfl)
  · split
    · exact .refl _
    · next m _ =>
      dsimp only
      split
      · exact closeParked_kept ..
      · refine (closeParked_kept _ w.st (slotNumber w.core)).trans ?_
        split
        · exact unparkNow_kept ..
        · exact .modStation _ _ (fun _ => rfl) (fun _ => rfl)

theorem slotFreed_kept (s : State) (w : Who) (tcmn phn : Nat) : Kept s (s.slotFreed w tcmn phn) := by
  unfold State.slotFreed
  dsimp only
  refine .ite _ (.refl s) ?_
  split
  · exact .refl s
  · exact .ite _ (.refl s) (Kept.trans (.ite _ (.modHolder ..) (.refl s)) (.modStation _ _ (fun _ => rfl) (fun _ => rfl)))

theorem freeHolder_kept (s : State) (w : Who) (killed : Bool) : Kept s (s.freeHolder w killed) := by
  unfold State.freeHolder
  dsimp only
  refine Kept.trans ?_ (slotFreed_kept ..)
  refine Kept.trans ?_ (.modHolder ..)
  refine Kept.trans ?_ (closeBatch_kept ..)
  refine Kept.trans ?_ (.foldl _ (fun u c => .ite _ (stopCore_kept ..) (.refl u)) _)
  refine Kept.trans ?_ (.modStation _ _ (fun _ => rfl) (fun _ => rfl))
  refine Kept.trans ?_ (closeWindow_kept ..)
  refine Kept.trans ?_ (unbindAll_kept ..)
  exact (phaserWithdraw_kept ..).trans ((phaserLeaveAll_kept ..).trans (undoPorts_kept ..))

theorem journalRetire_kept (s : State) (seq : Word) : Kept s (s.journalRetire seq) := by
  unfold State.journalRetire
  split
  · exact .refl s
  · exact .stations rfl rfl

theorem decrement_kept (s : State) (id : Nat) (failed : Bool) (src : Nat) : Kept s (s.decrement id failed src) := .stations rfl rfl

theorem complete_kept (s : State) (w : Who) (h : Holder) (failed : Bool) : Kept s (s.complete w h failed) := by
  unfold State.complete
  split
  · exact .refl s
  · next t _ =>
    have counted : Kept s (match t.cctr with
        | some id => s.decrement id failed (rankOf w.st)
        | none => s) := by
      split
      · exact decrement_kept ..
      · exact .refl s
    have retired (u : State) (hu : Kept s u) : Kept s (if t.jseq = 0 then u else u.journalRetire t.jseq) :=
      .ite _ hu (hu.trans (journalRetire_kept ..))
    cases t.gang with
    | none => exact retired _ counted
    | some g => exact (retired _ counted).trans (.stations rfl rfl)

theorem kill_kept (s : State) (w : Who) (restart : Bool) : Kept s (s.kill w restart) := by
  unfold State.kill
  dsimp only
  have freed := (withdraw_kept s w.st (fun p => p.acc.who.st == w.st && p.acc.task == (s.holder w).taskid && p.acc.eng == 0 &&
    !((s.station w.st).shut && (match p.kind with | .red _ _ => true | _ => false)) && (s.feWaits p || s.parkedParts.contains p))).trans
    ((dropHeld_kept _ w (s.holder w).taskid).trans (freeHolder_kept _ w true))
  exact .ite _ freed (freed.trans (complete_kept ..))

theorem clearAt_kept (s : State) (a n : Nat) : Kept s (s.clearAt a n) := .stations rfl rfl

theorem loseStation_kept (s : State) (st : Nat) : Kept s (s.loseStation st) := by
  unfold State.loseStation
  dsimp only
  refine Kept.trans ?_ (.modStation _ _ (fun _ => rfl) (fun _ => rfl))
  exact (withdraw_kept ..).trans (.stations rfl rfl)

/-! ## A station resets (R374, R427) -/

theorem readmit_routed (s : State) (n : Nat) : Routed (s.modStation n (fun x => { x with
    shut := false, sealed := false, appealing := false, shutWhy := 0,
    neighbours := x.neighbours.map (fun k => { Neighbour.reset with shut := k.shut, heard := [x.epoch] }) })) (s.readmit n) :=
  Routed.foldl _ (fun _ _ h => h.modNeighbour ..) (.refl _)

theorem readmit_rest (s : State) (n : Nat) : s.readmit n = { s with stations := (s.readmit n).stations } := (readmit_routed s n).rest

theorem readmit_station (s : State) (n : Nat) : (s.readmit n).station n = { s.station n with
    shut := false, sealed := false, appealing := false, shutWhy := 0, neighbours := ((s.readmit n).station n).neighbours } := by
  have h := (readmit_routed s n).station n
  rwa [station_modStation_same] at h

/-- A station whose tasks and memory are gone, as its reset leaves it. -/
def State.emptied (s : State) (st : Nat) : State :=
  let runs := taskCores.filter (fun c =>
    let h := s.holder { st := st, core := c }
    h.state != .free && h.state != .reserved)
  let s1 := runs.foldl (fun (s : State) c =>
    let w : Who := { st := st, core := c }
    s.kill w (match (s.holder w).task with | some t => t.jseq != 0 | none => true)) s
  (s1.loseStation st).clearAt (Config.poolAt st) Config.poolSize

/-- A station after its reset, before record 0 of its mailbox is written. -/
def State.restarted (s : State) (st : Nat) : State :=
  ((s.emptied st).modStation st (fun x => x.afterReset (s.clock (dieOf st)))).readmit st

theorem resetStation_eq (s : State) (st : Nat) : s.resetStation st = (s.restarted st).mailStatus st := rfl

theorem emptied_kept (s : State) (st : Nat) : Kept s (s.emptied st) := by
  unfold State.emptied
  exact (Kept.foldl _ (fun _ _ => kill_kept ..) _).trans ((loseStation_kept ..).trans (clearAt_kept ..))

theorem emptied_pool (s : State) {st off : Nat} (h : off < Config.poolSize) : memGet (s.emptied st).mem (Config.poolAt st + off) = 0 :=
  (memGet_clear ..).trans (if_pos ⟨by omega, by omega⟩)

theorem restarted_station (s : State) (st : Nat) : (s.restarted st).station st =
    { ((s.emptied st).station st).afterReset (s.clock (dieOf st)) with
      shut := false, sealed := false, appealing := false, shutWhy := 0, neighbours := ((s.restarted st).station st).neighbours } := by
  have h := readmit_station ((s.emptied st).modStation st (fun x => x.afterReset (s.clock (dieOf st)))) st
  rwa [station_modStation_same] at h

theorem restarted_mem (s : State) (st : Nat) : (s.restarted st).mem = (s.emptied st).mem := by
  rw [State.restarted, readmit_rest, modStation_mem]

theorem restarted_now (s : State) (st : Nat) : (s.restarted st).now = s.now := by
  rw [State.restarted, readmit_rest, modStation_now, (emptied_kept s st).now]

theorem mailWord_empty {x : Station} (h : x.mail = []) : x.mailWord = 0 := by
  simp [Station.mailWord, Station.recordsInUse, h]

/-- A station that has just started again holds no record. -/
theorem restarted_mailWord (s : State) (st : Nat) : ((s.restarted st).station st).mailWord = 0 :=
  mailWord_empty (by rw [restarted_station]; rfl)

section
variable (s : State) (st : Nat)

theorem resetStation_station : (s.resetStation st).station st =
    { ((s.emptied st).station st).afterReset (s.clock (dieOf st)) with
      shut := false, sealed := false, appealing := false, shutWhy := 0, neighbours := ((s.restarted st).station st).neighbours,
      thresholds := ((s.resetStation st).station st).thresholds } := by
  rw [resetStation_eq, mailStatus_station, restarted_station]

theorem resetStation_holder (c : Core) : (s.resetStation st).holder { st := st, core := c } = Holder.reset := by
  rw [State.holder, resetStation_station]
  exact Vector.getElem_replicate ..

theorem resetStation_shut : ((s.resetStation st).station st).shut = false := by rw [resetStation_station]

theorem resetStation_handlers : ((s.resetStation st).station st).handlers = (s.station st).handlers := by
  rw [resetStation_station, ← (emptied_kept s st).handlers st]
  rfl

theorem resetStation_launches : ((s.resetStation st).station st).launches = (s.station st).launches := by
  rw [resetStation_station, ← (emptied_kept s st).launches st]
  rfl

theorem resetStation_now : (s.resetStation st).now = s.now := by
  rw [resetStation_eq, mailStatus_now, restarted_now]

theorem resetStation_pool {off : Nat} (h : off < Config.poolSize) : memGet (s.resetStation st).mem (Config.poolAt st + off) = 0 := by
  have zero (i : Nat) : (List.replicate 8 (0 : Byte)).getD i unlistedByte = 0 := by
    rw [List.getD_eq_getElem?_getD]
    exact List.getElem?_getD_replicate_default_eq (d := (0 : Byte)) 8 i
  have bytes : leBytes 0 8 = List.replicate 8 0 := rfl
  rw [resetStation_eq, (mailStatus_gauged ..).mem, restarted_mailWord, bytes, writeAt_mem, memGet_memWrite, restarted_mem, emptied_pool s h, zero,
    ite_self]

end

/-- After a reset its journal's replay is on the agenda (R427). -/
theorem replay_later (t : State) (n d : Nat) (h : t.now = n) : { due := n + 1, ev := Instr.journalReplay d } ∈ (t.later (.journalReplay d)).agenda := by
  rw [← h]
  exact List.mem_append_right _ List.mem_cons_self

end Sys2Proof.Machine
end

section
/-! PROOFS. O59: the owner's commands, bring-up, inbound records and resets, assembled. -/
namespace Sys2Proof.Machine

/-! ## Commands of the owner, and of others (R429 to R431) -/

/-- The state with an election opened where one may open (R429). -/
def State.opened (t : State) : State :=
  if t.vacant = true ∧ t.election = none ∧ (∃ e ∈ t.claims, e.2 ≠ 0) then
    ({ t with election := some (t.now + 65536) } : State).laterAt (t.now + 65536) .electionEnd
  else t

theorem openElection_opened (t : State) : t.openElection = t.opened := by
  unfold State.opened
  split
  · next h => exact openElection_opens h
  · next h => exact openElection_rests h

section
variable {s : State} {m : Nat}

theorem ownerCommands_other (h : ¬ (s.vacant = false ∧ s.master = m)) (c to_ : Nat) (v : Word) :
    exec (.classcfgWrite m c v) s = .next { s with status := s.status ||| 2 } ∧
    exec (.fnmodeset m v) s = .next { s with status := s.status ||| 2 } ∧
    exec (.handoverGive m to_) s = .next { s with status := s.status ||| 2 } ∧
    exec (.handoverRelease m) s = .next { s with status := s.status ||| 2 } ∧ exec (.masterPathDown m) s = .next s :=
  ⟨congrArg Host.Outcome.next (asOwner_other h _), congrArg Host.Outcome.next (asOwner_other h _), congrArg Host.Outcome.next (asOwner_other h _),
    congrArg Host.Outcome.next (asOwner_other h _), masterPathDown_other h⟩

variable (h : s.vacant = false ∧ s.master = m)
include h

theorem classcfgWrite_owner {c : Nat} {v : Word} (hl : c < 16 ∧ classLegal v = true ∧ s.classFits c v = true) :
    ∃ t, exec (.classcfgWrite m c v) s = .next t ∧ t.classCfg c = v ∧ (∀ k, k ≠ c → t.classCfg k = s.classCfg k) ∧ t.status = s.status :=
  ⟨_, classcfgWrite_legal h hl, look_put_same .., fun _ hk => look_put_other _ _ _ _ _ hk, rfl⟩

theorem fnmodeset_owner (v : Word) : exec (.fnmodeset m v) s = .next { s with fnmodeset := v, fnmode := v &&& 0x1F } :=
  congrArg Host.Outcome.next (asOwner_owner h _)

theorem handoverGive_owner {n : Nat} (hn : n < 4) : exec (.handoverGive m n) s = .next { s with master := n } := by
  have given : exec (.handoverGive m n) s = .next { s with master := n % 4 } := congrArg Host.Outcome.next (asOwner_owner h _)
  rwa [Nat.mod_eq_of_lt hn] at given

theorem handoverRelease_owner : exec (.handoverRelease m) s = .next ({ s with vacant := true } : State).opened :=
  (congrArg Host.Outcome.next (asOwner_owner h _)).trans (congrArg Host.Outcome.next (openElection_opened _))

theorem masterPathDown_opened : exec (.masterPathDown m) s = .next ({ s with vacant := true } : State).opened :=
  (masterPathDown_owner h).trans (congrArg Host.Outcome.next (openElection_opened _))

end

/-! ## Claims (R428, R429) -/

/-- What a write of a claim leaves before an election may open. -/
def Claimed (s : State) (k : Nat) (v : Word) (t : State) : Prop :=
  (look 0 t.claims k).toNat = v.toNat % 2 ^ 32 ∧ (∀ j, j ≠ k → look 0 t.claims j = look 0 s.claims j) ∧ t.vacant = s.vacant ∧
    t.election = s.election

theorem claim_claimed {s : State} {m : Nat} (v : Word) (h : m < 4) :
    ∃ t, exec (.claim m v) s = .next t.opened ∧ Claimed s m v t := by
  obtain ⟨t, written, claimed⟩ := claims_written s m v
  exact ⟨t, by rw [claim_own v h, written, openElection_opened], claimed⟩

section
variable {s : State} {m k : Nat} (v : Word) (h : k < 4)
include h

theorem managementClaim_claimed (ho : k = m ∨ (s.vacant = false ∧ s.master = m)) :
    ∃ t, exec (.registerWrite (.managementOther m (8 + 8 * k)) v) s = .next t.opened ∧ Claimed s k v t := by
  obtain ⟨t, written, claimed⟩ := claims_written s k v
  refine ⟨t, ?_, claimed⟩
  rw [writeManagement_claim v h, ← openElection_opened, ← written]
  split
  · rfl
  · next hk => rw [asOwner_owner (ho.resolve_left hk)]

theorem managementClaim_other (hk : k ≠ m) (ho : ¬ (s.vacant = false ∧ s.master = m)) :
    exec (.registerWrite (.managementOther m (8 + 8 * k)) v) s = .next { s with status := s.status ||| 2 } := by
  rw [writeManagement_claim v h, if_neg hk, asOwner_other ho]

end

theorem electionEnd_lowest {s : State} {t w : Nat} (h : s.election = some t) (ht : t ≤ s.now) (hw : w < 4) (hn : look 0 s.claims w ≠ 0)
    (low : ∀ k, k < 4 → look 0 s.claims k ≠ 0 → (look 0 s.claims w).toNat ≤ (look 0 s.claims k).toNat ∧
      (look 0 s.claims k = look 0 s.claims w → w ≤ k)) :
    exec .electionEnd s = .next { s with vacant := false, master := w, election := none } := by
  have claimed (k : Nat) : (look 0 s.claims k).toNat ≠ 0 ↔ look 0 s.claims k ≠ 0 := by
    rw [Ne, Ne, BitVec.toNat_eq]
    rfl
  refine electionEnd_elects h ht (winner_lowest ⟨hw, (claimed w).2 hn, fun k hk kn => ?_⟩)
  obtain ⟨least, tie⟩ := low k hk ((claimed k).1 kn)
  exact ⟨least, fun e => tie (BitVec.eq_of_toNat_eq e)⟩

/-! ## POWER_ON (R365, R437) -/

theorem powerOn_started {s : State} {b : BootImage} (h : s.boot ≠ .running) (h1 : b.signed = true) (h2 : b.size ≤ 2 ^ 24) :
    ∃ t, exec (.powerOn b) s = .next t ∧ t.boot = .running ∧ t.sram = some b ∧ t.now = 0 ∧
      t.hbper = (if ∃ i, i ≤ 10 ∧ b.hbper = 2 ^ (10 + i) then b.hbper else 8192) ∧ t.fnmode = b.fnmode &&& 0x1F ∧
      t.notice = b.notice ∧ t.poison = [] ∧ (b.bytes = [] → b.formats = [] → (∀ x, memGet t.mem x = 0)) ∧
      (∀ i, i < b.classes.length → t.classCfg i = b.classes.getD i 0) ∧
      (∀ n, n < 8192 → { due := 0, ev := Instr.heartbeatSend n } ∈ t.agenda ∧ { due := t.hbper, ev := Instr.periodEnd n } ∈ t.agenda) := by
  obtain ⟨rest, poison⟩ := installImage_broughtUp (s.powered b) b
  have boot : ((s.powered b).installImage b).boot = .running := by rw [rest]; rfl
  have sram : ((s.powered b).installImage b).sram = some b := by rw [rest]; rfl
  have now : ((s.powered b).installImage b).now = 0 := by rw [rest]; rfl
  have hbper : ((s.powered b).installImage b).hbper = (s.powered b).hbper := by rw [rest]
  have fnmode : ((s.powered b).installImage b).fnmode = b.fnmode &&& 0x1F := by rw [rest]; rfl
  have notice : ((s.powered b).installImage b).notice = b.notice := by rw [rest]; rfl
  have classcfg : ((s.powered b).installImage b).classcfg = b.classes.zipIdx.map (fun e => (e.2, e.1)) := by rw [rest]; rfl
  refine ⟨_, powerOn_starts h h1 h2, boot, sram, now, ?_, fnmode, notice, poison rfl, fun e1 e2 x => ?_, fun i hi => ?_, fun n hn => ?_⟩
  · refine hbper.trans ?_
    simp only [State.powered, periodLegal_iff]
  · refine (congrArg (fun m => memGet m x) (installImage_mem e1 e2)).trans ?_
    rfl
  · have at_ := look_zipIdx 0xFFFF0001#64 0 b.classes 0 i hi
    rw [Nat.zero_add] at at_
    exact (congrArg (fun l => look 0xFFFF0001#64 l i) classcfg).trans at_
  · obtain ⟨send, period⟩ := mem_rollCall (per := (s.powered b).hbper) hn
    have due : { due := ((s.powered b).installImage b).hbper, ev := Instr.periodEnd n } ∈ rollCall (s.powered b).hbper := by
      rw [hbper]
      exact period
    exact ⟨List.mem_append_right _ send, List.mem_append_right _ due⟩

/-! ## INBOUND_RECORD and JOURNAL_REPLAY (R422 to R427) -/

theorem inboundMsg_dest (s : State) (link : Nat) (words : List Word) :
    hdrDest (s.inboundMsg link words).header = (words.getD 0 0).toNat / 2 ^ 51 := by
  have rank : hdrDest (words.getD 0 0) < 8192 := by
    rw [hdrDest, bitsOf_eq]
    omega
  exact hdrDest_setField_src _ _ rank

section
variable {s : State} {link off : Nat} {write : Bool} {words : List Word} (h : s.boot = .running)
  (hw : write = true ∧ words.length = 16 ∧ off % 128 = 0 ∧ off < 65536 ∧ link < 2) (hl : look 0 s.lastSeq link < (words.getD 12 0).toNat)
include h hw hl

theorem inbound_malformed_leaves (hi : inboundLegal words = false) :
    ∃ t, exec (.inboundRecord link { off := off, write := write, words := words }) s = .next t ∧
      look 0 t.lastSeq link = max (look 0 s.lastSeq link) ((words.getD 12 0).toNat % 2 ^ 60) ∧
      t.banks = (s.record (clusterBank 0) deferred 0x0F 0 0 0 0).banks ∧ t.mem = s.mem ∧ t.agenda = s.agenda := by
  refine ⟨_, inbound_malformed h hw hl hi, ?_, rfl, rfl, rfl⟩
  rw [look_put_same, bitsOf_eq, Nat.pow_zero, Nat.div_one]

theorem inbound_legal_accepts (hi : inboundLegal words = true) :
    (words.getD 12 0).toNat < 2 ^ 60 ∧
    (s.journalAccept (rankCoord ((s.station (4096 * link)).rankEntry ((words.getD 0 0).toNat / 2 ^ 51)) / 1024)
        (s.inboundMsg link words) = none →
      exec (.inboundRecord link { off := off, write := write, words := words }) s = .next s.wait) ∧
    (∀ t, s.journalAccept (rankCoord ((s.station (4096 * link)).rankEntry ((words.getD 0 0).toNat / 2 ^ 51)) / 1024)
        (s.inboundMsg link words) = some t →
      exec (.inboundRecord link { off := off, write := write, words := words }) s =
        .next (({ t with lastSeq := put link (words.getD 12 0).toNat t.lastSeq } : State).routeMsg (4096 * link)
          ((words.getD 0 0).toNat / 2 ^ 51) (s.inboundMsg link words))) := by
  have small := inboundLegal_seq hi
  have seq : max (look 0 s.lastSeq link) (bitsOf (words.getD 12 0) 59 0) = (words.getD 12 0).toNat := by
    rw [bitsOf_eq, Nat.pow_zero, Nat.div_one, Nat.mod_eq_of_lt small]
    exact Nat.max_eq_right hl.le
  rw [inbound_legal h hw hl hi, inboundMsg_dest, seq]
  refine ⟨small, fun e => ?_, fun t e => ?_⟩ <;> rw [e]

end

theorem journalReplay_one {s : State} {die : Nat} {j : JEntry} (h : s.journal = [j]) (hd : j.die = die) :
    exec (.journalReplay die) s =
      .next (s.routeMsg (routerOf die (s.journalMsg j).source) ((s.journalMsg j).header.toNat / 2 ^ 51) (s.journalMsg j)) := by
  rw [journalReplay_single h hd, hdrDest, bitsOf_top _ _ (by decide)]

/-! ## Resets and the clock of a die (R427, R438) -/

theorem partReset_station (s : State) (st : Nat) : ∃ t, exec (.partReset (.station st)) s = .next t ∧
    (∀ c, t.holder { st := st, core := c } = Holder.reset) ∧ (t.station st).shut = false ∧
    (t.station st).handlers = (s.station st).handlers ∧ (t.station st).launches = (s.station st).launches ∧
    (∀ off, off < Config.poolSize → memGet t.mem (Config.poolAt st + off) = 0) ∧
    { due := s.now + 1, ev := Instr.journalReplay (dieOf st) } ∈ t.agenda :=
  ⟨((s.dropReplayed (· == st)).resetStation st).later (.journalReplay (dieOf st)), rfl, resetStation_holder _ st, resetStation_shut _ st,
    resetStation_handlers _ st, resetStation_launches _ st, fun _ h => resetStation_pool _ st h, replay_later _ _ _ (resetStation_now _ st)⟩

theorem partReset_cacheDie (s : State) (die : Nat) : ∃ t, exec (.partReset (.cacheDie die)) s = .next t ∧
    (∀ e ∈ t.tlb, e.slice / 64 ≠ die) ∧ (∀ e ∈ t.walks, e.slice / 64 ≠ die) ∧ (∀ e ∈ t.lines, e.slice / 64 ≠ die) ∧
    { due := s.now + 1, ev := Instr.journalReplay die } ∈ t.agenda := by
  have elsewhere {n : Nat} (h : (!n / 64 == die) = true) : n / 64 ≠ die := by simpa using h
  exact ⟨(s.resetSlices die).later (.journalReplay die), rfl, fun e he => elsewhere (List.mem_filter.1 he).2,
    fun e he => elsewhere (List.mem_filter.1 he).2, fun e he => elsewhere (List.mem_filter.1 he).2, replay_later _ _ _ (resetSlices_now s die)⟩

section
variable {s : State} {die : Nat}

theorem thermalReset_hot (h : 920 ≤ Config.dieTemp die s.now) : exec (.thermalReset die) s = .next (s.resetAndReplay die) := by
  change execThermalReset die s = _
  exact if_pos h

theorem thermalReset_cool (h : Config.dieTemp die s.now < 920) : exec (.thermalReset die) s = .next s := by
  change execThermalReset die s = _
  exact if_neg (Nat.not_le.2 h)

end

theorem throttle_clock (s : State) (die rate : Nat) : ∃ t, exec (.throttle die rate) s = .next t ∧
    (t.die die).rate = (if Config.dieTemp die s.now < 840 then 64 else if rate < 32 then 32 else if 63 < rate then 63 else rate) ∧
    (t.die die).clockAt = s.now ∧ t.clock die = s.clock die ∧ t.mem = s.mem := by
  refine ⟨_, rfl, ?_, ?_, clock_rated s die _, rfl⟩
  · rw [die_modDie_same]
    exact throttle_rate ..
  · rw [die_modDie_same]

/-! ## The obligation -/

/-- Settles O59, from the clauses above. -/
theorem ownershipBringUpAndResetEvents : Obligations.OwnershipBringUpAndResetEvents := by
  unfold Obligations.OwnershipBringUpAndResetEvents
  refine ⟨fun s m to_ c v => ?_, fun s b link off die rate st write words => ?_⟩
  · exact ⟨fun h => ownerCommands_other h c to_ v,
      fun h => ⟨classcfgWrite_owner h, classcfgWrite_illegal h, ⟨_, fnmodeset_owner h v, rfl, rfl, rfl, rfl⟩, handoverGive_owner h,
        handoverRelease_owner h, masterPathDown_opened h⟩,
      claim_none v, claim_claimed v, ⟨fun _ hk => managementClaim_claimed v hk, fun _ hk => managementClaim_other v hk⟩,
      electionEnd_none, fun _ => electionEnd_early, fun _ _ => electionEnd_lowest⟩
  · exact ⟨powerOn_running, powerOn_fails, powerOn_started,
      ⟨inbound_waits, inbound_refused, inbound_again, inbound_malformed_leaves, inbound_legal_accepts⟩,
      journalReplay_none, fun _ => journalReplay_one, fun _ => partReset_station s st,
      ⟨rfl, thermalReset_hot, thermalReset_cool⟩, partReset_cacheDie s die, throttle_clock s die rate⟩

end Sys2Proof.Machine
end

section
/-! PROOFS. MBIND, MSEAL and the rank table (R195 to R199), and what their checks share with those of the SYNC commands. -/
namespace Sys2Proof.Machine

/-! ## One check at the end of an issue -/

section
variable {s : State} {c : Bool} {p : Prop} [Decidable p] {e : TrapInfo} {f : Unit → Res (State × PcFlow)}

/-- A check goes on where its condition, said in numbers, holds. -/
theorem finish_needs (hc : c = true ↔ p) : s.finish ((need c e).bind f) = if p then s.finish (f ()) else .next (s.trapNow e) := by
  cases c
  · exact (if_neg fun h => Bool.false_ne_true (hc.2 h)).symm
  · exact (if_pos (hc.1 rfl)).symm

/-- An instruction waits while something stands in its way. -/
theorem finish_awaits (hc : c = false ↔ p) : s.finish ((await c).bind f) = if p then .next s.wait else s.finish (f ()) := by
  cases c
  · exact (if_pos (hc.1 rfl)).symm
  · exact (if_neg fun h => Bool.false_ne_true (hc.2 h).symm).symm

theorem finish_awaits_not : s.finish ((await (!c)).bind f) = if c = true then .next s.wait else s.finish (f ()) :=
  finish_awaits (by simp)

end

/-! ## MBIND (R195) -/

/-- A descriptor that MBIND refuses. -/
abbrev mbindBad (v : Word) : Prop :=
  v.toNat / 2 ^ 23 ≠ 0 ∨ v.toNat / 2 ^ 13 % 8 ≠ 0 ∨ 64 < v.toNat / 2 ^ 16 % 128 ∨ v.toNat % 256 = 255

theorem mbindLegal_iff (v : Word) : (bitsOf v 63 23 == 0 && bitsOf v 15 13 == 0 && decide (bitsOf v 22 16 ≤ 64) &&
    bitsOf v 7 0 != 255) = true ↔ ¬ mbindBad v := by
  rw [bitsOf_top _ _ (by decide)]
  simp [mbindBad, bitsOf_eq, and_assoc]

section
variable {s : State} {a b : Reg} {ka kb : Bool} (hr : s.ready .vstore ⟨[(.s a, ka)], []⟩ = true)
include hr

theorem mbind_malformed (hb : mbindBad (s.valS s.cur a)) : exec (.mbind a b ka kb) s = .next (s.trapNow (engineTrap 0 0x05)) := by
  change execMbind a b ka kb s = _
  rw [execMbind, issue_ready _ _ _ _ hr, finish_needs (mbindLegal_iff _), if_neg (not_not_intro hb)]

/-- N = 0 releases the range bound last. -/
theorem mbind_releases (hb : ¬ mbindBad (s.valS s.cur a)) (hn : (s.valS s.cur a).toNat / 2 ^ 16 % 128 = 0) :
    let t := s.popAll s.cur [(.s a, ka)]
    exec (.mbind a b ka kb) s = if (t.station s.cur.st).bindings = [] then .next (s.trapNow (engineTrap 0 0x07))
      else .next (((t.modStation s.cur.st (fun z => { z with bindings := z.bindings.dropLast })).mailStatus s.cur.st).retire s.cur .next) := by
  intro t
  have none_ : bitsOf (s.valS s.cur a) 22 16 = 0 := (bitsOf_eq ..).trans hn
  change execMbind a b ka kb s = _
  rw [execMbind, issue_ready _ _ _ _ hr, finish_needs (mbindLegal_iff _), if_pos hb, none_, if_pos rfl]
  change s.finish (match (t.station s.cur.st).bindings.getLast? with | none => _ | some _ => _) = _
  by_cases empty : (t.station s.cur.st).bindings = []
  · rw [if_pos empty, empty]
    rfl
  · rw [if_neg empty, List.getLast?_eq_some_getLast empty]
    rfl

/-- N ≥ 1 binds a range that ends at LOW, unless eight are bound. -/
theorem mbind_binds (hb : ¬ mbindBad (s.valS s.cur a)) (hn : (s.valS s.cur a).toNat / 2 ^ 16 % 128 ≠ 0) :
    let v := s.valS s.cur a
    let y := s.valS s.cur b
    let n := v.toNat / 2 ^ 16 % 128
    let t := s.popAll s.cur [(.s a, ka)]
    let x := t.station s.cur.st
    let srcs : List (RegName × Bool) := if a = b then [] else [(.s b, kb)]
    t.checkSrcs s.cur srcs = .go () → exec (.mbind a b ka kb) s =
      if y.toNat + 128 * n = x.lowBound ∧ x.app3 * 8192 + 25 * 128 ≤ y.toNat then
        if x.bindings.length < 8 then
          .next (((((t.popAll s.cur srcs).modStation s.cur.st (fun z =>
            ({ z with bindings := z.bindings ++ [{ lo := y.toNat, n := n, urg := v.getLsbD 12, cls := v.toNat / 256 % 16,
                                                   handler := v.toNat % 256, active := false,
                                                   who := t.worksFor s.cur }] } :
              Station).settleBindings)).mailStatus s.cur.st).retire s.cur .next))
        else .next (s.trapNow (engineTrap 0 0x07))
      else .next (s.trapNow (engineTrap 0 0x06)) := by
  intro v y n t x srcs hs
  have count : bitsOf v 22 16 = n := bitsOf_eq ..
  have class_ : bitsOf v 11 8 = v.toNat / 256 % 16 := bitsOf_eq ..
  change execMbind a b ka kb s = _
  rw [execMbind, issue_ready _ _ _ _ hr, finish_needs (mbindLegal_iff _), if_pos hb, if_neg (fun h => hn (count.symm.trans h))]
  change s.finish ((t.checkSrcs s.cur srcs).bind _) = _
  rw [hs, bind_go, finish_needs (p := y.toNat + 128 * n = x.lowBound ∧ x.app3 * 8192 + 25 * 128 ≤ y.toNat) (by rw [count]; simp [x, y, t]),
    finish_needs (p := x.bindings.length < 8) (by simp [x, t]), count, class_]
  rfl

end

/-! ## MSEAL (R196) -/

theorem mem_setDel (n k : Nat) (l : List Nat) : k ∈ setDel n l ↔ k ∈ l ∧ k ≠ n := by simp [setDel]

/-- The seal of one handler set or lifted, and those of the others. -/
theorem mem_sealed (n k : Nat) (l : List Nat) (p : Prop) [Decidable p] :
    k ∈ (if p then setIns n l else setDel n l) ↔ if k = n then p else k ∈ l := by
  by_cases hp : p <;> by_cases hk : k = n <;> simp [hp, hk, Laws.mem_setIns, mem_setDel]

section
variable {s : State} {a b : Reg} {ka kb : Bool}

theorem mseal_ready (hr : s.ready .vstore ⟨[(.s a, ka), (.s b, kb)], []⟩ = true) :
    let v := s.valS s.cur a
    let y := s.valS s.cur b
    exec (.mseal a b ka kb) s =
      if v.toNat < 255 ∧ y.toNat ≤ 1 then
        .next (((s.popAll s.cur [(.s a, ka), (.s b, kb)]).modStation s.cur.st (fun x =>
          { x with seals := if y = 1 then setIns v.toNat x.seals else setDel v.toNat x.seals })).retire s.cur .next)
      else .next (s.trapNow (engineTrap 0 0x08)) := by
  intro v y
  change execMseal a b ka kb s = _
  rw [execMseal, issue_ready _ _ _ _ hr, finish_needs (p := v.toNat < 255 ∧ y.toNat ≤ 1) (by simp [v, y])]
  rfl

/-! ## The rank table (R197 to R199) -/

theorem rankmv_ready (hr : s.ready .vstore ⟨[(.s a, ka)], []⟩ = true) :
    let v := s.valS s.cur a
    exec (.rankmv a ka) s =
      if v.toNat < 8192 then
        .next (((s.popAll s.cur [(.s a, ka)]).modStation s.cur.st (fun z =>
          { z with ranks := put v.toNat (z.rankEntry v.toNat ||| 0x8000#16) z.ranks })).retire s.cur .next)
      else .next (s.trapNow (engineTrap 0 0x09)) := by
  intro v
  change execRankmv a ka s = _
  rw [execRankmv, issue_ready _ _ _ _ hr, finish_needs decide_eq_true_iff]
  rfl

/-- What RANKWR may write: COORD and SHUT. -/
theorem rankValue_iff (y : Word) : (bitsOf y 63 15 == 0 && bitsOf y 13 13 == 0) = true ↔ y.toNat < 2 ^ 15 ∧ y.getLsbD 13 = false := by
  rw [bitsOf_top _ _ (by decide), bitsOf_eq, BitVec.getLsbD, Nat.testBit_eq_decide_div_mod_eq]
  simp [Nat.div_eq_zero_iff]

theorem rankwr_ready (hr : s.ready .vstore ⟨[(.s a, ka), (.s b, kb)], []⟩ = true) :
    let v := s.valS s.cur a
    let y := s.valS s.cur b
    exec (.rankwr a b ka kb) s =
      if v.toNat < 8192 ∧ y.toNat < 2 ^ 15 ∧ y.getLsbD 13 = false then
        .next (((s.popAll s.cur [(.s a, ka), (.s b, kb)]).writeRank s.cur.st v.toNat y).retire s.cur .next)
      else .next (s.trapNow (engineTrap 0 0x09)) := by
  intro v y
  change execRankwr a b ka kb s = _
  rw [execRankwr, issue_ready _ _ _ _ hr, finish_needs (p := v.toNat < 8192 ∧ y.toNat < 2 ^ 15 ∧ y.getLsbD 13 = false)
    (by rw [Bool.and_assoc, Bool.and_eq_true, rankValue_iff, decide_eq_true_iff])]
  rfl

theorem rankrd_ready (hr : s.ready .vstore ⟨[(.s a, ka)], [.s b]⟩ = true) :
    let v := s.valS s.cur a
    let t := s.popAll s.cur [(.s a, ka)]
    exec (.rankrd a b ka) s =
      if v.toNat < 8192 then
        .next ((t.answerNow s.cur (.engine b false) v (leBytes ((t.station s.cur.st).rankEntry v.toNat).toNat 8)).retire s.cur .load)
      else .next (s.trapNow (engineTrap 0 0x09)) := by
  intro v t
  change execRankrd a b ka s = _
  rw [execRankrd, issue_ready _ _ _ _ hr, finish_needs decide_eq_true_iff]
  rfl

end

/-! ## The obligation -/

/-- Settles O35: MBIND by its descriptor, then MSEAL and the rank table, each by its one check. -/
theorem mailboxAndRankCommands : Obligations.MailboxAndRankCommands := by
  refine fun s a b ka kb => ⟨fun hr => ⟨fun bad => mbind_malformed hr bad, fun bad hn hx => ?_, fun bad hn hx => ?_,
    fun bad hn hs => ⟨fun off => ?_, fun fits full => ?_, fun fits room => ?_⟩, fun high => ?_, fun low => ?_⟩,
    fun hr => ⟨fun bad => ?_, fun hv hy => ?_, fun bad => ?_, fun hv hy h13 => ?_⟩, fun hr => ⟨fun high => ?_, fun low => ?_⟩⟩
  · exact (mbind_releases hr bad hn).trans (if_pos hx)
  · exact (mbind_releases hr bad hn).trans (if_neg hx)
  · exact (mbind_binds hr bad hn hs).trans (if_neg off)
  · exact (mbind_binds hr bad hn hs).trans ((if_pos fits).trans (if_neg (Nat.not_lt.2 full)))
  · exact (mbind_binds hr bad hn hs).trans ((if_pos fits).trans (if_pos room))
  · exact (rankmv_ready hr).trans (if_neg (Nat.not_lt.2 high))
  · exact (rankmv_ready hr).trans (if_pos low)
  · exact (mseal_ready hr).trans (if_neg (by omega))
  · exact ⟨_, (mseal_ready hr).trans (if_pos ⟨hv, hy⟩), fun k => mem_sealed ..⟩
  · refine (rankwr_ready hr).trans (if_neg fun ⟨hv, hy, h13⟩ => ?_)
    rcases bad with high | high | set_
    · omega
    · omega
    · exact Bool.false_ne_true (h13.symm.trans set_)
  · exact (rankwr_ready hr).trans (if_pos ⟨hv, hy, h13⟩)
  · exact (rankrd_ready hr).trans (if_neg (Nat.not_lt.2 high))
  · exact (rankrd_ready hr).trans (if_pos low)

end Sys2Proof.Machine
end

section
/-! PROOFS. The phaser commands at issue (R186, R190, R200 to R203). -/
namespace Sys2Proof.Machine

/-! ## Which core may issue a SYNC command (R190) -/

/-- The phaser and deque commands of a task are every core's but an innkeeper's. -/
theorem syncAllowed_worker {c : Core} {op : Nat} (hop : op ≤ 9) (hq : op ≠ 5) : syncAllowed c op = true ↔ c ≠ .keeper := by
  cases c <;> simp [syncAllowed] <;> omega

/-- PQRY, GDEC and GARM are every core's. -/
theorem syncAllowed_any {c : Core} {op : Nat} (hop : op = 5 ∨ op = 10 ∨ op = 11) : syncAllowed c op = true := by
  cases c <;> simp [syncAllowed] <;> omega

/-- The task controls and THRBIND are a task's own. -/
theorem syncAllowed_task {c : Core} {op : Nat} (hop : 12 ≤ op) : syncAllowed c op = true ↔ c ≠ .keeper ∧ c ≠ .loader ∧ c ≠ .storer := by
  cases c <;> simp [syncAllowed] <;> omega

section
variable {s : State} {op : Nat} {u : Uses} {body : State → Res (State × PcFlow)} (hr : s.ready .store u = true)
include hr

theorem sync_refused (hc : ¬ syncAllowed s.cur.core op = true) :
    s.sync op u body = .next (s.trapNow (accessTrap (s.me.ir.setWidth 64))) := by
  rw [State.sync, issue_ready _ _ _ _ hr, finish_needs Iff.rfl, if_neg hc]

theorem sync_allowed (hc : syncAllowed s.cur.core op = true) : s.sync op u body = s.finish (body (s.popAll s.cur u.srcs)) := by
  rw [State.sync, issue_ready _ _ _ _ hr, finish_needs Iff.rfl, if_pos hc]

theorem sync_worker (hop : op ≤ 9) (hq : op ≠ 5) (hc : s.cur.core ≠ .keeper) :
    s.sync op u body = s.finish (body (s.popAll s.cur u.srcs)) :=
  sync_allowed hr ((syncAllowed_worker hop hq).2 hc)

theorem sync_keeper (hop : op ≤ 9) (hq : op ≠ 5) (hc : ¬ s.cur.core ≠ .keeper) :
    s.sync op u body = .next (s.trapNow (accessTrap (s.me.ir.setWidth 64))) :=
  sync_refused hr fun h => hc ((syncAllowed_worker hop hq).1 h)

theorem sync_task (hop : 12 ≤ op) (hc : s.cur.core ≠ .keeper ∧ s.cur.core ≠ .loader ∧ s.cur.core ≠ .storer) :
    s.sync op u body = s.finish (body (s.popAll s.cur u.srcs)) :=
  sync_allowed hr ((syncAllowed_task hop).2 hc)

theorem sync_server (hop : 12 ≤ op) (hc : ¬ (s.cur.core ≠ .keeper ∧ s.cur.core ≠ .loader ∧ s.cur.core ≠ .storer)) :
    s.sync op u body = .next (s.trapNow (accessTrap (s.me.ir.setWidth 64))) :=
  sync_refused hr fun h => hc ((syncAllowed_task hop).1 h)

end

/-! ## What every phaser command checks (R200) -/

theorem nameLegal_iff (v : Word) : nameLegal v = true ↔ v.toNat / 2 ^ 45 = 0 ∧ v.toNat / 2 ^ 6 % 2 ^ 26 = 0 := by
  rw [nameLegal, bitsOf_top _ _ (by decide), bitsOf_eq]
  simp

/-- A phaser command that its core may issue only as a member of the phaser, in one of the modes given. -/
def State.memberCommand (s : State) (op : Nat) (u : Uses) (v : Word) (modes : List Nat) (f : State → State × PcFlow) : Out :=
  s.sync op u (fun t => (t.checkPhaser s.cur v true modes).bind (fun _ => .go (f t)))

theorem pleave_memberCommand (s : State) (a : Reg) (ka : Bool) : exec (.pleave a ka) s =
    s.memberCommand 1 ⟨[(.s a, ka)], []⟩ (s.valS s.cur a) [0, 1, 2] (fun t =>
      ((t.modHolder (t.worksFor s.cur) (fun h => { h with phasers := h.phasers.filter (fun m =>
        !(m.rank == nameRank (s.valS s.cur a) && m.idx == nameIdx (s.valS s.cur a))) })).bump.sendPhaser
          (t.phaserOp s.cur .leave (s.valS s.cur a)), .next)) := rfl

theorem psig_memberCommand (s : State) (a : Reg) (ka : Bool) : exec (.psig a ka) s =
    s.memberCommand 2 ⟨[(.s a, ka)], []⟩ (s.valS s.cur a) [0, 2] (fun t =>
      (t.bump.sendPhaser (t.phaserOp s.cur .sig (s.valS s.cur a)), .next)) := rfl

/-- A phaser command sent, whose value is outstanding from then on (R189). -/
def State.phaserAsked (s t : State) (cmd : PhaserCmd) (k : LoadKind) (v : Word) : State × PcFlow :=
  ((t.addUnsettled s.cur k v false 1).bump.sendPhaser (t.phaserOp s.cur cmd v), .load)

theorem pwait_memberCommand (s : State) (a b : Reg) (ka : Bool) : exec (.pwait a b ka) s =
    s.memberCommand 3 ⟨[(.s a, ka)], [.s b]⟩ (s.valS s.cur a) [1, 2] (fun t => s.phaserAsked t .wait (.phaser b) (s.valS s.cur a)) := rfl

theorem psigw_memberCommand (s : State) (a b : Reg) (ka : Bool) : exec (.psigw a b ka) s =
    s.memberCommand 4 ⟨[(.s a, ka)], [.s b]⟩ (s.valS s.cur a) [0, 2] (fun t => s.phaserAsked t .sigw (.phaser b) (s.valS s.cur a)) := rfl

section
variable {s : State} {op : Nat} {u : Uses} {v : Word} {modes : List Nat} {f : State → State × PcFlow} (hr : s.ready .store u = true)
include hr

theorem memberCommand_refused (hop : op ≤ 4) (hc : ¬ s.cur.core ≠ .keeper) :
    s.memberCommand op u v modes f = .next (s.trapNow (accessTrap (s.me.ir.setWidth 64))) :=
  sync_keeper hr (by omega) (by omega) hc

variable (hop : op ≤ 4) (hc : s.cur.core ≠ .keeper)
include hop hc

theorem memberCommand_checks : s.memberCommand op u v modes f =
    s.finish (((s.popAll s.cur u.srcs).checkPhaser s.cur v true modes).bind (fun _ => .go (f (s.popAll s.cur u.srcs)))) :=
  sync_worker hr (by omega) (by omega) hc

theorem memberCommand_unnamed (hn : ¬ (v.toNat / 2 ^ 45 = 0 ∧ v.toNat / 2 ^ 6 % 2 ^ 26 = 0)) :
    s.memberCommand op u v modes f = .next (s.trapNow (engineTrap 1 0x20)) := by
  rw [memberCommand_checks hr hop hc, State.checkPhaser, eq_false_of_ne_true (fun h => hn ((nameLegal_iff v).1 h))]
  rfl

variable (hn : v.toNat / 2 ^ 45 = 0 ∧ v.toNat / 2 ^ 6 % 2 ^ 26 = 0)
include hn

theorem memberCommand_stranger (hm : (s.popAll s.cur u.srcs).membership s.cur v = none) :
    s.memberCommand op u v modes f = .next (s.trapNow (engineTrap 1 0x21)) := by
  rw [memberCommand_checks hr hop hc, State.checkPhaser, (nameLegal_iff v).2 hn, hm]
  rfl

variable {m : Joined} (hm : (s.popAll s.cur u.srcs).membership s.cur v = some m)
include hm

theorem memberCommand_mode (hk : m.mode ∉ modes) : s.memberCommand op u v modes f = .next (s.trapNow (engineTrap 1 0x23)) := by
  have mode : modes.contains m.mode = false := by simpa using hk
  rw [memberCommand_checks hr hop hc, State.checkPhaser, (nameLegal_iff v).2 hn, hm]
  simp only [if_true, mode, need_true, need_false, bind_go, bind_trap, finish_trap]

theorem memberCommand_sent (hk : m.mode ∈ modes) (free : (s.popAll s.cur u.srcs).phaserMustWait s.cur.st (nameRank v) = false) :
    s.memberCommand op u v modes f =
      .next ((f (s.popAll s.cur u.srcs)).1.retire s.cur (f (s.popAll s.cur u.srcs)).2) := by
  have mode : modes.contains m.mode = true := by simpa using hk
  rw [memberCommand_checks hr hop hc, State.checkPhaser, (nameLegal_iff v).2 hn, hm, free]
  simp only [if_true, mode, need_true, Bool.not_false, await_true, bind_go]
  rfl

end

/-! ## PQRY, which needs no membership -/

section
variable {s : State} {a b : Reg} {ka : Bool} (hr : s.ready .store ⟨[(.s a, ka)], [.s b]⟩ = true)
include hr

theorem pqry_ready :
    let v := s.valS s.cur a
    let t := s.popAll s.cur [(.s a, ka)]
    exec (.pqry a b ka) s =
      if v.toNat / 2 ^ 45 = 0 ∧ v.toNat / 2 ^ 6 % 2 ^ 26 = 0 then
        if t.phaserMustWait s.cur.st (nameRank v) = true then .next s.wait
        else .next ((s.phaserAsked t .qry (.engine b false) v).1.retire s.cur .load)
      else .next (s.trapNow (engineTrap 1 0x20)) := by
  intro v t
  change s.phaserLoad 5 .qry a b ka false [] (.engine b false) = _
  rw [State.phaserLoad, sync_allowed hr (syncAllowed_any (.inl rfl))]
  change s.finish (((need (nameLegal v) _).bind (fun _ => (Res.go ()).bind (fun _ => await (!t.phaserMustWait s.cur.st (nameRank v))))).bind _) = _
  by_cases hn : v.toNat / 2 ^ 45 = 0 ∧ v.toNat / 2 ^ 6 % 2 ^ 26 = 0
  · rw [(nameLegal_iff v).2 hn, if_pos hn, need_true, bind_go, bind_go, finish_awaits_not]
    rfl
  · rw [eq_false_of_ne_true (fun h => hn ((nameLegal_iff v).1 h)), if_neg hn]
    rfl

end

/-! ## PJOIN -/

/-- What R200 asks of a join at issue, and what R190 asks of the urgent bank. -/
def State.mayJoin (t : State) (w : Who) (v mode : Word) : Bool :=
  (t.membership w v).isNone && decide (mode.toNat ≤ 2) &&
    (match (t.holder (t.worksFor w)).task with
      | some i => decide ((t.holder (t.worksFor w)).phasers.length < i.phn)
      | none => false) && w.core != .urgent

theorem mayJoin_iff (t : State) (w : Who) (v mode : Word) : t.mayJoin w v mode = true ↔
    t.membership w v = none ∧ mode.toNat ≤ 2 ∧
      (∃ i, (t.holder (t.worksFor w)).task = some i ∧ (t.holder (t.worksFor w)).phasers.length < i.phn) ∧ w.core ≠ .urgent := by
  rw [State.mayJoin]
  cases (t.holder (t.worksFor w)).task <;> simp [and_assoc]

section
variable {s : State} {a b : Reg} {ka kb : Bool} (hr : s.ready .store ⟨[(.s a, ka), (.s b, kb)], []⟩ = true)
include hr

theorem pjoin_refused (hc : ¬ s.cur.core ≠ .keeper) : exec (.pjoin a b ka kb) s = .next (s.trapNow (accessTrap (s.me.ir.setWidth 64))) := by
  change execPjoin a b ka kb s = _
  rw [execPjoin, sync_keeper hr (by omega) (by omega) hc]

theorem pjoin_ready (hc : s.cur.core ≠ .keeper) :
    let v := s.valS s.cur a
    let mode := s.valS s.cur b
    let t := s.popAll s.cur [(.s a, ka), (.s b, kb)]
    exec (.pjoin a b ka kb) s =
      if v.toNat / 2 ^ 45 = 0 ∧ v.toNat / 2 ^ 6 % 2 ^ 26 = 0 then
        if t.mayJoin s.cur v mode = true then
          if t.phaserMustWait s.cur.st (nameRank v) = true then .next s.wait
          else .next (((((t.addUnsettled s.cur .answer v false 1).modHolder s.cur (fun k => { k with acquire := some t.ops })).bump).sendPhaser
            (t.phaserOp s.cur (.join mode.toNat) v)).retire s.cur .load)
        else .next (s.trapNow (engineTrap 1 0x22))
      else .next (s.trapNow (engineTrap 1 0x20)) := by
  intro v mode t
  change execPjoin a b ka kb s = _
  rw [execPjoin, sync_worker hr (by omega) (by omega) hc, finish_needs (nameLegal_iff v)]
  refine if_congr Iff.rfl ?_ rfl
  change s.finish ((need (t.mayJoin s.cur v mode) _).bind _) = _
  rw [finish_needs Iff.rfl, finish_awaits_not]
  rfl

end

/-! ## The obligation -/

/-- Settles O36: PJOIN by its own checks, the commands of a member by the checks they share, PQRY by its name alone. -/
theorem phaserCommands : Obligations.PhaserCommands := by
  refine fun s a b ka kb => ⟨fun hr => ⟨pjoin_refused hr, fun hc hn => ?_, fun hc hn may => ?_, fun hc hn may free => ?_⟩,
    fun hr => ⟨fun hc => ?_, fun hc hn => ?_, fun hc hn hm => ?_, fun hc hn m hm => ⟨fun hk free => ?_, fun hk => ?_, fun hk free => ?_⟩⟩,
    fun hr => ⟨fun hn => ?_, fun hn free => ?_, fun hc => ?_, fun hc hn => ?_, fun hc hn hm => ?_,
      fun hc hn m hm => ⟨fun hk => ?_, fun hk => ?_, fun hk free => ?_, fun hk free => ?_⟩⟩⟩
  · exact (pjoin_ready hr hc).trans (if_neg hn)
  · exact (pjoin_ready hr hc).trans ((if_pos hn).trans (if_neg fun h => may ((mayJoin_iff ..).1 h)))
  · exact (pjoin_ready hr hc).trans ((if_pos hn).trans ((if_pos ((mayJoin_iff ..).2 may)).trans (if_neg (ne_true_of_eq_false free))))
  · rw [pleave_memberCommand, psig_memberCommand]
    exact ⟨memberCommand_refused hr (by decide) hc, memberCommand_refused hr (by decide) hc⟩
  · rw [pleave_memberCommand, psig_memberCommand]
    exact ⟨memberCommand_unnamed hr (by decide) hc hn, memberCommand_unnamed hr (by decide) hc hn⟩
  · rw [pleave_memberCommand, psig_memberCommand]
    exact ⟨memberCommand_stranger hr (by decide) hc hn hm, memberCommand_stranger hr (by decide) hc hn hm⟩
  · rw [pleave_memberCommand]
    exact memberCommand_sent hr (by decide) hc hn hm (by simp; omega) free
  · rw [psig_memberCommand]
    exact memberCommand_mode hr (by decide) hc hn hm (by simp [hk])
  · rw [psig_memberCommand]
    exact memberCommand_sent hr (by decide) hc hn hm (by simpa using hk) free
  · exact (pqry_ready hr).trans (if_neg hn)
  · exact (pqry_ready hr).trans ((if_pos hn).trans (if_neg (ne_true_of_eq_false free)))
  · rw [pwait_memberCommand, psigw_memberCommand]
    exact ⟨memberCommand_refused hr (by decide) hc, memberCommand_refused hr (by decide) hc⟩
  · rw [pwait_memberCommand, psigw_memberCommand]
    exact ⟨memberCommand_unnamed hr (by decide) hc hn, memberCommand_unnamed hr (by decide) hc hn⟩
  · rw [pwait_memberCommand, psigw_memberCommand]
    exact ⟨memberCommand_stranger hr (by decide) hc hn hm, memberCommand_stranger hr (by decide) hc hn hm⟩
  · rw [pwait_memberCommand]
    exact memberCommand_mode hr (by decide) hc hn hm (by simp [hk])
  · rw [psigw_memberCommand]
    exact memberCommand_mode hr (by decide) hc hn hm (by simp [hk])
  · rw [pwait_memberCommand]
    exact memberCommand_sent hr (by decide) hc hn hm (by simpa using hk) free
  · rw [psigw_memberCommand]
    exact memberCommand_sent hr (by decide) hc hn hm (by simpa using hk) free

end Sys2Proof.Machine
end

section
/-! PROOFS. The deque, the graph counters, task controls and thresholds at issue (R190, R204 to R210). -/
namespace Sys2Proof.Machine

/-! ## Package time is not a pop's to change (R25) -/

@[simp] theorem popFinal_now (s : State) (w : Who) (p : Nat) : (s.popFinal w p).now = s.now := by
  rw [State.popFinal]
  split
  · rfl
  · split
    · rfl
    · exact later_now ..
    · dsimp only
      split
      · rw [later_now, modHolder_now]
      · exact modHolder_now ..

@[simp] theorem popPort_now (s : State) (w : Who) (b : PortBinding) : (s.popPort w b).now = s.now := by
  rw [State.popPort]
  cases s.portHead w b with
  | none => rfl
  | some e =>
    cases b.target <;> dsimp only <;> split <;> simp only [popFinal_now, modHolder_now, modStation_now]

@[simp] theorem popAll_now (s : State) (w : Who) (srcs : List (RegName × Bool)) : (s.popAll w srcs).now = s.now := by
  rw [State.popAll]
  refine List.foldlRecOn (motive := fun t : State => t.now = s.now) _ _ rfl fun t ht p _ => ?_
  split
  · rw [popPort_now, ht]
  · exact ht

/-! ## The deque (R204, R205) -/

section
variable {s : State} {a b : Reg} {ka kb : Bool}

theorem dqpush_refused (hr : s.ready .store ⟨[(.s a, ka), (.s b, kb)], []⟩ = true) (hc : s.cur.core = .keeper) :
    exec (.dqpush a b ka kb) s = .next (s.trapNow (accessTrap (s.me.ir.setWidth 64))) := by
  change execDqpush a b ka kb s = _
  rw [execDqpush, sync_keeper hr (by omega) (by omega) (not_not_intro hc)]

theorem dqpush_ready (hr : s.ready .store ⟨[(.s a, ka), (.s b, kb)], []⟩ = true) (hc : s.cur.core ≠ .keeper) :
    let v := s.valS s.cur a
    let y := s.valS s.cur b
    let t := s.popAll s.cur [(.s a, ka), (.s b, kb)]
    exec (.dqpush a b ka kb) s =
      if t.dequeLate s.cur.st 0 = true then .next s.wait
      else if 1 ≤ y.toNat ∧ y.toNat ≤ 2 ^ 24 ∧ v.toNat % 2 ^ 24 + y.toNat ≤ 2 ^ 24 then
        if (t.station s.cur.st).deque.length < 64 then
          .next ((t.modStation s.cur.st (fun z => { z with deque := (v, y.toNat) :: z.deque })).retire s.cur .next)
        else .next (s.trapNow (queueTrap 0))
      else .next (s.trapNow (engineTrap 1 0x24)) := by
  intro v y t
  have start : bitsOf v 23 0 = v.toNat % 2 ^ 24 := rfl
  change execDqpush a b ka kb s = _
  rw [execDqpush, sync_worker hr (by omega) (by omega) hc, finish_awaits_not,
    finish_needs (p := 1 ≤ y.toNat ∧ y.toNat ≤ 2 ^ 24 ∧ v.toNat % 2 ^ 24 + y.toNat ≤ 2 ^ 24) (by
      rw [start, Bool.and_assoc]
      simp only [Bool.and_eq_true, decide_eq_true_iff]
      rfl),
    finish_needs decide_eq_true_iff]
  rfl

theorem dqpop_ready (hr : s.ready .store ⟨[], [.s b, .s (b + 1)]⟩ = true) (hc : s.cur.core ≠ .keeper) :
    let d := (s.station s.cur.st).deque
    let e := d.headD (0, 0)
    exec (.dqpop b) s =
      if s.dequeLate s.cur.st 0 = true then .next s.wait
      else .next (((s.modStation s.cur.st (fun z => { z with deque := d.tail })).answerNow s.cur (.engine b true) 0
        (leBytes e.1.toNat 8 ++ leBytes e.2 8)).retire s.cur .load) := by
  intro d e
  change execDqpop b s = _
  rw [execDqpop, sync_worker hr (by omega) (by omega) hc, popAll_nil, finish_awaits_not]
  rfl

section
variable (hr : s.ready .store ⟨[(.s a, ka)], []⟩ = true) (hc : s.cur.core ≠ .keeper)
include hr hc

theorem dqsplit_late (late : (s.popAll s.cur [(.s a, ka)]).dequeLate s.cur.st 0 = true) : exec (.dqsplit a ka) s = .next s.wait := by
  change execDqsplit a ka s = _
  rw [execDqsplit, sync_worker hr (by omega) (by omega) hc, finish_awaits_not, if_pos late]

variable (now_ : (s.popAll s.cur [(.s a, ka)]).dequeLate s.cur.st 0 = false)
include now_

theorem dqsplit_empty (hd : ((s.popAll s.cur [(.s a, ka)]).station s.cur.st).deque = []) :
    exec (.dqsplit a ka) s = .next ((s.popAll s.cur [(.s a, ka)]).retire s.cur .next) := by
  change execDqsplit a ka s = _
  rw [execDqsplit, sync_worker hr (by omega) (by omega) hc, finish_awaits_not,
    if_neg (ne_true_of_eq_false now_), finish_go, hd]

/-- The bottom entry is split where both halves are large enough and there is a place. -/
theorem dqsplit_entry {j : Word} {n : Nat} {r : List (Word × Nat)}
    (hd : ((s.popAll s.cur [(.s a, ka)]).station s.cur.st).deque = (j, n) :: r) :
    let t := s.popAll s.cur [(.s a, ka)]
    exec (.dqsplit a ka) s =
      if 2 ≤ n ∧ (s.valS s.cur a).toNat ≤ n / 2 ∧ r.length + 1 < 64 then
        .next ((t.modStation s.cur.st (fun z =>
          { z with deque := (j, n / 2) :: (setField j 23 0 (bitsOf j 23 0 + n / 2), n - n / 2) :: r })).retire s.cur .next)
      else .next (t.retire s.cur .next) := by
  intro t
  change execDqsplit a ka s = _
  rw [execDqsplit, sync_worker hr (by omega) (by omega) hc, finish_awaits_not,
    if_neg (ne_true_of_eq_false now_), finish_go, hd]
  have cond : (decide (2 ≤ n) && decide ((s.valS s.cur a).toNat ≤ n / 2) && decide (r.length + 1 < 64)) = true ↔
      2 ≤ n ∧ (s.valS s.cur a).toNat ≤ n / 2 ∧ r.length + 1 < 64 := by simp [and_assoc]
  by_cases splits : 2 ≤ n ∧ (s.valS s.cur a).toNat ≤ n / 2 ∧ r.length + 1 < 64
  · simp only [cond, if_pos splits]
    rfl
  · simp only [cond, if_neg splits]
    rfl

end

/-- The upper part of a split entry begins where the lower one ends. -/
theorem splitStart_toNat {j : Word} {n : Nat} (two : 2 ≤ n) (h : j.toNat % 2 ^ 24 + n ≤ 2 ^ 24) :
    (setField j 23 0 (bitsOf j 23 0 + n / 2)).toNat = j.toNat + n / 2 :=
  setField_low_add (by omega)

/-- A DQSTEAL as its station sends it, or performs it on its own deque (R204). -/
def State.stealBy (s t : State) (v : Word) : Steal :=
  { thief := s.cur.st, rank := v.toNat, victim := s.cur.st, who := some (s.cur, t.ops), task := (t.holder (t.worksFor s.cur)).taskid }

theorem dqsteal_ready (hr : s.ready .store ⟨[(.s a, ka)], [.s b, .s (b + 1)]⟩ = true) (hc : s.cur.core ≠ .keeper) :
    let v := s.valS s.cur a
    let t := s.popAll s.cur [(.s a, ka)]
    let own : Prop := v.toNat = rankOf s.cur.st ∧ (t.station s.cur.st).rankEntry v.toNat = BitVec.ofNat 16 s.cur.st
    exec (.dqsteal a b ka) s =
      if v.toNat < 8192 then
        if t.rankFull s.cur.st v.toNat = true ∨ own ∧ t.dequeLate s.cur.st 0 = true then .next s.wait
        else if own then
          .next (((t.takeTop (s.stealBy t v)).2.answerNow s.cur (.engine b true) v
            (leBytes (t.takeTop (s.stealBy t v)).1.1.toNat 8 ++ leBytes (t.takeTop (s.stealBy t v)).1.2 8)).retire s.cur .load)
        else .next (((t.addUnsettled s.cur (.engine b true) v false 1).bump.sendSteal (s.stealBy t v)).retire s.cur .load)
      else .next (s.trapNow (engineTrap 1 0x09)) := by
  intro v t own
  have own_iff : (decide (v.toNat = rankOf s.cur.st) && (t.station s.cur.st).rankEntry v.toNat == BitVec.ofNat 16 s.cur.st) = true ↔ own := by
    simp [own]
  change execDqsteal a b ka s = _
  rw [execDqsteal, sync_worker hr (by omega) (by omega) hc, finish_needs decide_eq_true_iff]
  refine if_congr Iff.rfl ?_ rfl
  dsimp only
  rw [finish_awaits (p := t.rankFull s.cur.st v.toNat = true ∨ own ∧ t.dequeLate s.cur.st 0 = true) (by
    rw [← own_iff]
    cases t.rankFull s.cur.st v.toNat <;> simp [v, t])]
  refine if_congr Iff.rfl rfl ?_
  by_cases ho : own
  · rw [if_pos ho, if_pos (own_iff.2 ho)]
    rfl
  · rw [if_neg ho, if_neg (fun h => ho (own_iff.1 h))]
    rfl

/-! ## The graph counters (R206, R207) -/

theorem gdec_ready (hr : s.ready .store ⟨[(.s a, ka)], []⟩ = true) :
    let v := s.valS s.cur a
    let t := s.popAll s.cur [(.s a, ka)]
    exec (.gdec a ka) s =
      if v.toNat / 2 ^ 17 = 0 then .next (((t.later (.counterDecrement (v.toNat % 2 ^ 17) false (srcRankOf s.cur)
        (some { who := t.worksFor s.cur, op := t.ops }))).bump).retire s.cur .next)
      else .next (s.trapNow (engineTrap 1 0x25)) := by
  intro v t
  change execGdec a ka s = _
  rw [execGdec, sync_allowed hr (syncAllowed_any (by decide)), finish_needs (p := v.toNat / 2 ^ 17 = 0) (by
    rw [bitsOf_top _ _ (by decide), beq_iff_eq])]
  rfl

theorem garm_ready (hr : s.ready .store ⟨[(.s a, ka), (.s b, kb)], []⟩ = true) :
    let v := s.valS s.cur a
    let y := s.valS s.cur b
    let t := s.popAll s.cur [(.s a, ka), (.s b, kb)]
    exec (.garm a b ka kb) s =
      if v.toNat / 2 ^ 45 = 0 ∧ v.toNat / 2 ^ 17 % 2 ^ 14 ≠ 0 ∧ y.toNat % 2 ^ 32 ≠ 0 then
        .next (((t.later (.garmAtHome (v.toNat % 2 ^ 17) (y.toNat % 2 ^ 32) (y.toNat / 2 ^ 32) (v.toNat / 2 ^ 17 % 2 ^ 14)
          (v.toNat / 2 ^ 31 % 2 ^ 14) (srcRankOf s.cur) (some { who := t.worksFor s.cur, op := t.ops }))).bump).retire s.cur .next)
      else .next (s.trapNow (engineTrap 1 0x25)) := by
  intro v y t
  have id_ : bitsOf v 16 0 = v.toNat % 2 ^ 17 := rfl
  have count : bitsOf y 31 0 = y.toNat % 2 ^ 32 := rfl
  have reload : bitsOf y 63 32 = y.toNat / 2 ^ 32 := bitsOf_top _ _ (by decide)
  have node : bitsOf v 30 17 = v.toNat / 2 ^ 17 % 2 ^ 14 := bitsOf_eq ..
  have failNode : bitsOf v 44 31 = v.toNat / 2 ^ 31 % 2 ^ 14 := bitsOf_eq ..
  have top : bitsOf v 63 45 = v.toNat / 2 ^ 45 := bitsOf_top _ _ (by decide)
  change execGarm a b ka kb s = _
  rw [execGarm, sync_allowed hr (syncAllowed_any (by decide)),
    finish_needs (p := v.toNat / 2 ^ 45 = 0 ∧ v.toNat / 2 ^ 17 % 2 ^ 14 ≠ 0 ∧ y.toNat % 2 ^ 32 ≠ 0) (by
      rw [count, node, top]
      simp [and_assoc]),
    id_, count, reload, node, failNode]
  rfl

/-! ## Task controls (R208, R209) -/

theorem taskControls_refused (hr : s.ready .store ⟨[(.s a, ka)], []⟩ = true)
    (hc : ¬ (s.cur.core ≠ .keeper ∧ s.cur.core ≠ .loader ∧ s.cur.core ≠ .storer)) :
    exec (.tdead a ka) s = .next (s.trapNow (accessTrap (s.me.ir.setWidth 64))) ∧
    exec (.tclass a ka) s = .next (s.trapNow (accessTrap (s.me.ir.setWidth 64))) := by
  change execTdead a ka s = _ ∧ execTclass a ka s = _
  rw [execTdead, execTclass, sync_server hr (by omega) hc,
    sync_server hr (by omega) hc]
  exact ⟨rfl, rfl⟩

section
variable (hr : s.ready .store ⟨[(.s a, ka)], []⟩ = true) (hc : s.cur.core ≠ .keeper ∧ s.cur.core ≠ .loader ∧ s.cur.core ≠ .storer)
include hr hc

/-- A deadline that has come kills the task; one that may come is watched. -/
theorem tdead_ready :
    let v := s.valS s.cur a
    let t := s.popAll s.cur [(.s a, ka)]
    let dl := if v.toNat < t.me.deadl.toNat then v else t.me.deadl
    let u := t.modHolder s.cur (fun h => { h with deadl := dl })
    exec (.tdead a ka) s =
      if dl.toNat ≤ s.now then .next (u.deadlineKill s.cur)
      else if dl = BitVec.allOnes 64 then .next (u.retire s.cur .next)
      else .next ((u.laterAt dl.toNat (.deadlineExpiry s.cur t.me.taskid)).retire s.cur .next) := by
  intro v t dl u
  have time : t.now = s.now := popAll_now ..
  change execTdead a ka s = _
  rw [execTdead, sync_task hr (by omega) hc, ← time, ← noDeadline_eq]
  change s.finish (if dl.toNat ≤ t.now then _ else if dl = noDeadline then _ else _) = _
  by_cases past : dl.toNat ≤ t.now
  · rw [if_pos past, if_pos past]
    rfl
  · rw [if_neg past, if_neg past]
    by_cases never : dl = noDeadline
    · rw [if_pos never, if_pos never]
      rfl
    · rw [if_neg never, if_neg never]
      rfl

theorem tclass_ready :
    let v := s.valS s.cur a
    let u := (s.popAll s.cur [(.s a, ka)]).modHolder s.cur (fun h => { h with cls := v.toNat })
    let u2 := u.modHolder s.cur (fun h => { h with ep := u.formEp s.cur })
    exec (.tclass a ka) s =
      if v.toNat < 16 then .next ((u2.noticeEp (u2.signallersFor u2.me.taskid)).retire s.cur .next)
      else .next (s.trapNow (engineTrap 1 0x26)) := by
  intro v u u2
  change execTclass a ka s = _
  rw [execTclass, sync_task hr (by omega) hc, finish_needs decide_eq_true_iff]
  rfl

end

/-! ## Thresholds (R210) -/

section
variable (hr : s.ready .store ⟨[(.s a, ka), (.s b, kb)], []⟩ = true)
include hr

theorem thrbind_refused (hc : ¬ (s.cur.core ≠ .keeper ∧ s.cur.core ≠ .loader ∧ s.cur.core ≠ .storer)) :
    exec (.thrbind a b ka kb) s = .next (s.trapNow (accessTrap (s.me.ir.setWidth 64))) := by
  change execThrbind a b ka kb s = _
  rw [execThrbind, sync_server hr (by omega) hc]

theorem thrbind_ready (hc : s.cur.core ≠ .keeper ∧ s.cur.core ≠ .loader ∧ s.cur.core ≠ .storer) :
    let v := s.valS s.cur a
    let y := s.valS s.cur b
    exec (.thrbind a b ka kb) s =
      if v.toNat < 32 ∧ y.toNat < 2 ^ 14 ∧ y.toNat % 256 ≠ 255 then
        .next (((s.popAll s.cur [(.s a, ka), (.s b, kb)]).modStation s.cur.st (fun z =>
          { z with thresholds := put v.toNat { z.thr v.toNat with bound :=
              (if y.getLsbD 13 then some (y.getLsbD 12, y.toNat / 256 % 16, y.toNat % 256) else none) } z.thresholds })).retire s.cur .next)
      else .next (s.trapNow (engineTrap 1 0x27)) := by
  intro v y
  have class_ : bitsOf y 11 8 = y.toNat / 256 % 16 := bitsOf_eq ..
  have handler : bitsOf y 7 0 = y.toNat % 256 := rfl
  have top : bitsOf y 63 14 = y.toNat / 2 ^ 14 := bitsOf_top _ _ (by decide)
  change execThrbind a b ka kb s = _
  rw [execThrbind, sync_task hr (by omega) hc,
    finish_needs (p := v.toNat < 32 ∧ y.toNat < 2 ^ 14 ∧ y.toNat % 256 ≠ 255) (by
      rw [handler, top]
      simp [and_assoc, v]), class_, handler]
  rfl

end
end

/-! ## The obligation -/

/-- Settles O37: the commands of two sources, DQPOP, those of one source, DQSTEAL, each by its checks in their order. -/
theorem dequeCounterAndControlCommands : Obligations.DequeCounterAndControlCommands := by
  refine fun s a b ka kb => ⟨fun hr => ⟨dqpush_refused hr, fun hc late => ?_, thrbind_refused hr, fun hc now_ off => ?_,
      fun hc now_ fits full => ?_, fun hc now_ fits room => ?_, fun off => ?_, fun armed => ?_, fun hc off => ?_, fun hc binds => ?_⟩,
    fun hr hc => ⟨fun late => ?_, fun now_ => ?_⟩,
    fun hr => ⟨fun hc => dqsplit_late hr hc, fun hc now_ => ⟨dqsplit_empty hr hc now_, fun j n r hd => ⟨fun whole => ?_, fun splits => ?_⟩⟩,
      fun off => ?_, fun low => ?_, taskControls_refused hr,
      fun hc => ⟨⟨fun past => ?_, fun ahead some_ => ?_, fun ahead never => ?_⟩, fun high => ?_, fun low => ?_⟩⟩,
    fun hr hc => ⟨fun high => ?_, fun low full => ?_, fun low free => ⟨fun own late => ?_, fun own now_ => ?_, fun away => ?_⟩⟩⟩
  · exact (dqpush_ready hr hc).trans (if_pos late)
  · exact (dqpush_ready hr hc).trans ((if_neg (ne_true_of_eq_false now_)).trans (if_neg off))
  · exact (dqpush_ready hr hc).trans ((if_neg (ne_true_of_eq_false now_)).trans ((if_pos fits).trans (if_neg (Nat.not_lt.2 full))))
  · exact (dqpush_ready hr hc).trans ((if_neg (ne_true_of_eq_false now_)).trans ((if_pos fits).trans (if_pos room)))
  · exact (garm_ready hr).trans (if_neg off)
  · exact (garm_ready hr).trans (if_pos armed)
  · exact (thrbind_ready hr hc).trans (if_neg off)
  · exact (thrbind_ready hr hc).trans (if_pos binds)
  · exact (dqpop_ready hr hc).trans (if_pos late)
  · exact (dqpop_ready hr hc).trans (if_neg (ne_true_of_eq_false now_))
  · exact (dqsplit_entry hr hc now_ hd).trans (if_neg whole)
  · exact ⟨_, (dqsplit_entry hr hc now_ hd).trans (if_pos splits), splitStart_toNat splits.1⟩
  · exact (gdec_ready hr).trans (if_neg off)
  · have whole : (s.valS s.cur a).toNat % 2 ^ 17 = (s.valS s.cur a).toNat := Nat.mod_eq_of_lt low
    rw [← whole]
    exact (gdec_ready hr).trans (if_pos (Nat.div_eq_of_lt low))
  · exact (tdead_ready hr hc).trans (if_pos past)
  · exact (tdead_ready hr hc).trans ((if_neg (Nat.not_le.2 ahead)).trans (if_neg some_))
  · exact (tdead_ready hr hc).trans ((if_neg (Nat.not_le.2 ahead)).trans (if_pos never))
  · exact (tclass_ready hr hc).trans (if_neg (Nat.not_lt.2 high))
  · exact (tclass_ready hr hc).trans (if_pos low)
  · exact (dqsteal_ready hr hc).trans (if_neg (Nat.not_lt.2 high))
  · exact (dqsteal_ready hr hc).trans ((if_pos low).trans (if_pos (.inl full)))
  · exact (dqsteal_ready hr hc).trans ((if_pos low).trans (if_pos (.inr ⟨own, late⟩)))
  · refine (dqsteal_ready hr hc).trans ((if_pos low).trans ((if_neg ?_).trans (if_pos own)))
    exact fun h => h.elim (ne_true_of_eq_false free) fun ⟨_, late⟩ => ne_true_of_eq_false now_ late
  · refine (dqsteal_ready hr hc).trans ((if_pos low).trans ((if_neg ?_).trans (if_neg away)))
    exact fun h => h.elim (ne_true_of_eq_false free) fun ⟨own, _⟩ => away own

end Sys2Proof.Machine
end

section
/-! PROOFS. The signature commands at issue (R217 to R220, R259 to R264, R266, R285, R286). -/
namespace Sys2Proof.Machine

/-! ## The numbered checks of an engine (R266) -/

section
variable {s : State} {eng : Nat} {o : Option Nat} {f : Unit → Res (State × PcFlow)}

theorem finish_fails {sub : Nat} (h : o = some sub) : s.finish ((noFault eng o).bind f) = .next (s.trapNow (engineTrap eng sub)) := by
  subst h
  rfl

theorem finish_passes (h : o = none) : s.finish ((noFault eng o).bind f) = s.finish (f ()) := by
  subst h
  rfl

end

/-! ## The checks of a signature command (R286) -/

section
variable {t : State} {w : Who} {k : SigKind} {q : SgRegs} {a b : Nat}

/-- The operand names a bank of the A side of the own cluster. -/
def State.aBank (t : State) (w : Who) (a : Nat) (f : BankFmt) : Prop := ∃ bank, t.ownBank w a = some (bank, f) ∧ f.b = false

/-- The last check of a command: its ranges may be named (R285). -/
def State.rangeFault (t : State) (w : Who) (k : SigKind) (q : SgRegs) (a b fmt : Nat) : Option Nat :=
  if t.rangesOk w (sigRanges k q a b fmt) = true then none else some 0x84

theorem sigFault_noBank (hk : k = .hash ∨ k = .lead) (h : ∀ f, ¬ t.aBank w a f) : t.sigFault w k q a b = some 0x80 := by
  unfold State.sigFault
  rcases e : t.ownBank w a with _ | ⟨bank, f⟩
  · rcases hk with rfl | rfl <;> rfl
  · have side : f.b = true := by simpa using fun hb => h f ⟨bank, e, hb⟩
    rcases hk with rfl | rfl <;> simp only [side, if_true]

theorem sigFault_bank {f : BankFmt} (hk : k = .hash ∨ k = .lead) (h : t.aBank w a f) : t.sigFault w k q a b =
    if k = .lead ∧ f.fmt = 0x16 then some 0x81 else if kmax f < 32 * q.kg then some 0x82 else t.rangeFault w k q a b f.fmt := by
  obtain ⟨bank, e, hb⟩ := h
  unfold State.sigFault
  by_cases h1 : k = .lead ∧ f.fmt = 0x16
  · obtain ⟨rfl, h1⟩ := h1
    simp [e, hb, h1]
  · have lead : ¬ (k == .lead && f.fmt == 0x16) = true := by simpa using h1
    rw [if_neg h1]
    by_cases h2 : kmax f < 32 * q.kg
    · rcases hk with rfl | rfl <;> simp only [e, hb, if_neg lead, if_pos h2, Bool.false_eq_true, if_false]
    · rcases hk with rfl | rfl <;> simp only [e, hb, if_neg lead, if_neg h2, Bool.false_eq_true, if_false] <;> rfl

theorem sigFault_plain (hk : ¬ (k = .hash ∨ k = .lead)) : t.sigFault w k q a b =
    if (k = .scat ∨ k = .sum) ∧ q.slen = 0 then some 0x83 else t.rangeFault w k q a b 0 := by
  unfold State.sigFault State.rangeFault
  cases k
  case hash | lead => simp at hk
  case room | sel => rfl
  case scat | sum => 
    by_cases h : q.slen = 0
    · simp [h]
    · refine Eq.trans ?_ (if_neg fun c => h c.2).symm
      simp only [if_neg h]
      rfl

end

/-! ## A signature command issues -/

/-- A command as the unit takes it, last of its queue, with the unit's registers as they stand; the first one is to be performed. -/
def State.sigTaken (t : State) (w : Who) (k : SigKind) (va vb : Word) : State :=
  let x := t.station w.st
  let c : SigCmd := { id := t.ops, kind := k, who := w, acc := t.engAccess w 4, a := va, b := vb, regs := x.sg, retry := none }
  let u := t.modStation w.st (fun y => { y with sigs := y.sigs ++ [c] })
  (if x.sigs = [] then u.later (.sigCommandPerform w.st) else u).bump

/-- What the issue of a ready command comes to. -/
def State.sigOutcome (s : State) (srcs : List (RegName × Bool)) (k : SigKind) (va vb : Word) : Out :=
  let t := s.popAll s.cur srcs
  let x := t.station s.cur.st
  match t.sigFault s.cur k x.sg va.toNat vb.toNat with
  | some sub => .next (s.trapNow (engineTrap 4 sub))
  | none => if x.sigs.length < 8 then .next ((t.sigTaken s.cur k va vb).retire s.cur .next) else .next s.wait

theorem sigIssue_ready {s : State} {k : SigKind} {a b : Reg} {ka kb two : Bool} {srcs : List (RegName × Bool)}
    (hs : (if two then [(.s a, ka), (.s b, kb)] else [(.s a, ka)]) = srcs) (hr : s.ready .vstore ⟨srcs, []⟩ = true) :
    s.sigIssue k a b ka kb two = s.sigOutcome srcs k (s.valS s.cur a) (s.valS s.cur b) := by
  subst hs
  rw [State.sigIssue, issue_ready _ _ _ _ hr]
  dsimp only [State.sigOutcome]
  generalize s.popAll s.cur _ = t
  cases h : t.sigFault s.cur k (t.station s.cur.st).sg (s.valS s.cur a).toNat (s.valS s.cur b).toNat with
  | some sub => exact finish_fails rfl
  | none =>
    rw [finish_passes rfl, finish_awaits (p := ¬ (t.station s.cur.st).sigs.length < 8) decide_eq_false_iff_not, ite_not,
      finish_go, State.sigTaken]
    simp only [List.isEmpty_iff]

section
variable {s : State} {srcs : List (RegName × Bool)} {k : SigKind} {va vb : Word}

theorem sigOutcome_fault {sub : Nat}
    (h : (s.popAll s.cur srcs).sigFault s.cur k ((s.popAll s.cur srcs).station s.cur.st).sg va.toNat vb.toNat = some sub) :
    s.sigOutcome srcs k va vb = .next (s.trapNow (engineTrap 4 sub)) := by
  simp only [State.sigOutcome, h]

theorem sigOutcome_none
    (h : (s.popAll s.cur srcs).sigFault s.cur k ((s.popAll s.cur srcs).station s.cur.st).sg va.toNat vb.toNat = none) :
    s.sigOutcome srcs k va vb = if ((s.popAll s.cur srcs).station s.cur.st).sigs.length < 8 then
      .next (((s.popAll s.cur srcs).sigTaken s.cur k va vb).retire s.cur .next) else .next s.wait := by
  simp only [State.sigOutcome, h]

end

theorem rangeFault_bad {t : State} {w : Who} {k : SigKind} {q : SgRegs} {a b fmt : Nat}
    (h : t.rangesOk w (sigRanges k q a b fmt) = false) : t.rangeFault w k q a b fmt = some 0x84 := if_neg (ne_true_of_eq_false h)

theorem rangeFault_ok {t : State} {w : Who} {k : SigKind} {q : SgRegs} {a b fmt : Nat}
    (h : t.rangesOk w (sigRanges k q a b fmt) = true) : t.rangeFault w k q a b fmt = none := if_pos h

/-! ## The obligation -/

/-- Settles O41: SGHASH and SGLEAD by their bank operand, the others by SG.SLEN, then all by their ranges and the unit's queue. -/
theorem signatureCommands : Obligations.SignatureCommands := by
  intro s a b ka kb w engine runs va vb two
  have key (srcs : List (RegName × Bool)) (k : SigKind) (va vb : Word) : runs srcs k va vb (s.sigOutcome srcs k va vb) := by
    dsimp only [runs]
    split
    case isTrue hk =>
      refine ⟨fun h => sigOutcome_fault (sigFault_noBank hk h), fun f hf => ?_⟩
      have checks := sigFault_bank (b := vb.toNat) (q := ((s.popAll s.cur srcs).station s.cur.st).sg) hk hf
      refine ⟨fun h1 h2 => sigOutcome_fault (checks.trans (if_pos ⟨h1, h2⟩)),
        fun h1 h2 => sigOutcome_fault (checks.trans ((if_neg h1).trans (if_pos h2))),
        fun h1 h2 h3 => sigOutcome_fault (checks.trans ((if_neg h1).trans ((if_neg (Nat.not_lt.2 h2)).trans (rangeFault_bad h3)))),
        fun h1 h2 h3 => ?_⟩
      have passed := sigOutcome_none (checks.trans ((if_neg h1).trans ((if_neg (Nat.not_lt.2 h2)).trans (rangeFault_ok h3))))
      exact ⟨fun full => passed.trans (if_neg (Nat.not_lt.2 full)), fun room => passed.trans (if_pos room)⟩
    case isFalse hk =>
      have checks := sigFault_plain (t := s.popAll s.cur srcs) (w := s.cur) (a := va.toNat) (b := vb.toNat)
        (q := ((s.popAll s.cur srcs).station s.cur.st).sg) hk
      refine ⟨fun h1 h2 => sigOutcome_fault (checks.trans (if_pos ⟨h1, h2⟩)),
        fun h1 => ⟨fun h3 => sigOutcome_fault (checks.trans ((if_neg h1).trans (rangeFault_bad h3))), fun h3 => ?_⟩⟩
      have passed := sigOutcome_none (checks.trans ((if_neg h1).trans (rangeFault_ok h3)))
      exact ⟨fun full => passed.trans (if_neg (Nat.not_lt.2 full)), fun room => passed.trans (if_pos room)⟩
  have issued {k : SigKind} {c d : Reg} {kc kd two : Bool} {srcs : List (RegName × Bool)}
      (hs : (if two then [(.s c, kc), (.s d, kd)] else [(.s c, kc)]) = srcs) (hr : s.ready .vstore ⟨srcs, []⟩ = true) :
      runs srcs k (s.valS s.cur c) (s.valS s.cur d) (s.sigIssue k c d kc kd two) := sigIssue_ready hs hr ▸ key ..
  exact ⟨fun hr => ⟨issued (two := true) rfl hr, issued (two := true) rfl hr, issued (two := true) rfl hr, issued (two := true) rfl hr,
    issued (two := true) rfl hr⟩, fun hr => issued (d := 0) (kd := false) (two := false) rfl hr⟩

end Sys2Proof.Machine
end

section
/-! PROOFS. CPY, CPYM and CPYG at issue (R212, R216, R231, R266, R268 to R270). -/
namespace Sys2Proof.Machine

/-! ## The checks of a copy (R270) -/

section
variable {u : State} {w : Who} {k : CopyKind} {r : CopySet} {src dst : Word}

theorem copyFault_noLength (h : r.len = 0) : u.copyFault w k r src dst = some 0x40 := if_pos h

/-- Some row of a copy begins at a source or a destination for which a test holds. -/
def CopySet.someRow (r : CopySet) (src dst : Word) (p q : Nat → Bool) : Prop :=
  ∃ i, i < r.rows ∧ (p (src + BitVec.ofNat 64 i * r.sstr).toNat = true ∨ q (dst + BitVec.ofNat 64 i * r.dstr).toNat = true)

theorem someRow_iff (p q : Nat → Bool) :
    ((List.range r.rows).any (fun i => p (rowAt src r.sstr i)) || (List.range r.rows).any (fun i => q (rowAt dst r.dstr i))) = true ↔
      r.someRow src dst p q := by
  simp only [CopySet.someRow, Bool.or_eq_true, List.any_eq_true, List.mem_range, rowAt, ← exists_or, ← and_or_left]

/-- A copy between plain ends fails a check of its rows alone: what it may name, the plane banks, the bound range. -/
theorem copyFault_plain (hl : r.len ≠ 0) (hs : u.planeEnd w src.toNat = none) (hd : u.planeEnd w dst.toNat = none) (hk : k ≠ .gather) :
    let away (e : Nat) : Bool := !u.mayName w e r.len
    let plane (e : Nat) : Bool := u.touchesPlane w e r.len
    (r.someRow src dst away away → u.copyFault w k r src dst = some 0x41) ∧
    (¬ r.someRow src dst away away → r.someRow src dst plane plane → u.copyFault w k r src dst = some 0x42) ∧
    (¬ r.someRow src dst away away → ¬ r.someRow src dst plane plane →
      u.copyFault w k r src dst = if u.leavesRange w r dst then some 0x47 else none) := by
  intro away plane
  rw [← someRow_iff away away, ← someRow_iff plane plane]
  have plain : (k != .gather) = true := by simpa using hk
  have gather : (k == .gather) = false := by simpa using hk
  simp only [State.copyFault, if_neg hl, hs, hd, plain, gather, lenFmt]
  refine ⟨fun h => ?_, fun h1 h2 => ?_, fun h1 h2 => ?_⟩
  · exact if_pos h
  · refine (if_neg h1).trans (if_pos ?_)
    simpa using h2
  · refine (if_neg h1).trans ((if_neg ?_).trans ?_)
    · simpa using h2
    · simp

end

/-! ## CPY and CPYG at issue -/

section
variable {s : State} {a b : Reg} {ka kb : Bool} {t : BitVec 3}

/-- The copy set that a tag names as it stands once the sources have been popped. -/
def State.setAt (s u : State) (t : BitVec 3) : CopySet := (u.station s.cur.st).sets[tagSet t]

section
variable (hr : s.ready .store ⟨[(.s a, ka), (.s b, kb)], []⟩ = true)
include hr

theorem copying_fails {k : CopyKind} {sub : Nat} (h : (s.popAll s.cur [(.s a, ka), (.s b, kb)]).copyFault s.cur k
      (s.setAt (s.popAll s.cur [(.s a, ka), (.s b, kb)]) t) (s.valS s.cur a) (s.valS s.cur b) = some sub) :
    s.copying k a b ka kb t = .next (s.trapNow (engineTrap 2 sub)) := by
  rw [State.copying, issue_ready _ _ _ _ hr]
  exact finish_fails h

theorem copying_passes {k : CopyKind} :
    let u := s.popAll s.cur [(.s a, ka), (.s b, kb)]
    let r := s.setAt u t
    u.copyFault s.cur k r (s.valS s.cur a) (s.valS s.cur b) = none → s.copying k a b ka kb t =
      if k = .gather ∧ u.listFault s.cur r = true then .next (s.trapNow (engineTrap 2 0x49))
      else if u.copyRoom s.cur.st = true then
        .next (((u.acceptCopy k (tagSet t) (s.valS s.cur a) (s.valS s.cur b)).bump).retire s.cur .next)
      else .next s.wait := by
  intro u r h
  rw [State.copying, issue_ready _ _ _ _ hr]
  change s.finish ((noFault 2 (u.copyFault s.cur k r (s.valS s.cur a) (s.valS s.cur b))).bind _) = _
  rw [finish_passes h, finish_needs (p := ¬ (k = .gather ∧ u.listFault s.cur r = true)) (by
    simp [u, r, State.setAt, imp_iff_not_or]), ite_not,
    finish_awaits (p := ¬ u.copyRoom s.cur.st = true) (by simp [u]), ite_not]
  rfl

/-! ## CPYM at issue -/

theorem cpym_fails {sub : Nat} (h : (s.popAll s.cur [(.s a, ka), (.s b, kb)]).copyFault s.cur .follow
      (s.setAt (s.popAll s.cur [(.s a, ka), (.s b, kb)]) t) (s.valS s.cur a) (s.valS s.cur b) = some sub) :
    exec (.cpym a b ka kb t) s = .next (s.trapNow (engineTrap 2 sub)) := by
  change execCpym a b ka kb t s = _
  rw [execCpym, issue_ready _ _ _ _ hr]
  exact finish_fails h

/-- An address names a bank of one side of the holder's own cluster. -/
def State.namesSide (u : State) (w : Who) (e : Nat) (side : Bool) : Prop := ∃ bank f, u.ownBank w e = some (bank, f) ∧ f.b = side

/-- What is left of a CPYM whose copy passes its checks, whose banks are right, and whose context is not parked away. -/
def State.followOut (s u : State) (t : BitVec 3) (src dst : Word) : Out :=
  let w := s.cur
  let x := u.station w.st
  let r := s.setAt u t
  s.finish ((noFault 2 (u.mmulFault (u.worksFor w) x.mx dst.toNat r.fb.toNat r.ft)).bind (fun _ =>
    (await (u.copyRoom w.st && decide ((x.mtx (isCtx1 w)).length < 8))).bind (fun _ =>
      .go (((u.acceptCopy .follow (tagSet t) src dst).acceptMtx w (.mul dst r.fb r.ft) false).bump, .next))))

open Classical in
theorem cpym_passes :
    let u := s.popAll s.cur [(.s a, ka), (.s b, kb)]
    let r := s.setAt u t
    let dst := s.valS s.cur b
    u.copyFault s.cur .follow r (s.valS s.cur a) dst = none → exec (.cpym a b ka kb t) s =
      if u.namesSide s.cur dst.toNat false ∧ u.namesSide s.cur r.fb.toNat true then
        if u.mtxHeld (u.worksFor s.cur) = true then .next s.wait else s.followOut u t (s.valS s.cur a) dst
      else .next (s.trapNow (engineTrap 2 0x48)) := by
  intro u r dst h
  change execCpym a b ka kb t s = _
  rw [execCpym, issue_ready _ _ _ _ hr]
  change s.finish ((noFault 2 (u.copyFault s.cur .follow r (s.valS s.cur a) dst)).bind _) = _
  rw [finish_passes h, finish_needs (p := u.namesSide s.cur dst.toNat false ∧ u.namesSide s.cur r.fb.toNat true) (by
    change (_ && match u.ownBank s.cur r.fb.toNat with | some (_, f) => f.b | none => false) = true ↔ _
    unfold State.namesSide
    rcases u.ownBank s.cur dst.toNat with _ | ⟨_, f⟩ <;> rcases u.ownBank s.cur r.fb.toNat with _ | ⟨_, g⟩ <;> simp)]
  refine if_congr Iff.rfl ?_ rfl
  rw [finish_awaits_not]
  rfl

end

section
variable {u : State} {src dst : Word}

theorem followOut_fails {sub : Nat} (h : u.mmulFault (u.worksFor s.cur) (u.station s.cur.st).mx dst.toNat (s.setAt u t).fb.toNat
    (s.setAt u t).ft = some sub) : s.followOut u t src dst = .next (s.trapNow (engineTrap 2 sub)) := finish_fails h

theorem followOut_passes (h : u.mmulFault (u.worksFor s.cur) (u.station s.cur.st).mx dst.toNat (s.setAt u t).fb.toNat
    (s.setAt u t).ft = none) : s.followOut u t src dst =
      if ¬ u.copyRoom s.cur.st = true ∨ 8 ≤ ((u.station s.cur.st).mtx (isCtx1 s.cur)).length then .next s.wait
      else .next ((((u.acceptCopy .follow (tagSet t) src dst).acceptMtx s.cur (.mul dst (s.setAt u t).fb (s.setAt u t).ft)
        false).bump).retire s.cur .next) := by
  refine (finish_passes h).trans (finish_awaits ?_)
  simp [imp_iff_not_or]

end
end

/-! ## The accepted copy (R212, R213, R231) -/

/-- A copy as it is accepted: with its operands, its own copy of the descriptor set and of the conversion table, not begun. -/
def State.newCopy (s : State) (k : CopyKind) (n : Fin 8) (src dst : Word) : CopyCmd :=
  let x := s.station s.cur.st
  { id := s.ops, kind := k, who := s.cur, acc := s.engAccess s.cur 2, set := n.val, src := src, dst := dst, regs := x.sets[n],
    table := x.cbt, row := 0, idxs := [], faulted := false, retry := none, ghosts := [], got := [], placed := [],
    data := none, put := [], noted := [], landed := false, tilec := (s.holder (s.worksFor s.cur)).tilec }

theorem acceptCopy_eq (s : State) (k : CopyKind) (n : Fin 8) (src dst : Word) : s.acceptCopy k n src dst =
    (s.modStation s.cur.st (fun y => { y with copies := y.copies ++ [s.newCopy k n src dst] })).later (.copyPerform s.cur.st s.ops) := rfl

theorem acceptCopy_station (s : State) (k : CopyKind) (n : Fin 8) (src dst : Word) : (s.acceptCopy k n src dst).station s.cur.st =
    { s.station s.cur.st with copies := (s.station s.cur.st).copies ++ [s.newCopy k n src dst] } := by
  rw [acceptCopy_eq, station_later, station_modStation_same]

/-! ## The obligation -/

/-- Settles O38: CPY and CPYG by one issue, CPYM by its own further checks, then the accepted copy field by field. -/
theorem copyCommands : Obligations.CopyCommands := by
  refine ⟨fun s a b ka kb t hr => ⟨fun k h => copyFault_noLength h, fun k hl hs hd hk => copyFault_plain hl hs hd hk,
    fun sub h => copying_fails hr h, fun sub h => copying_fails hr h, fun sub h => cpym_fails hr h,
    fun h => ⟨fun full => ?_, fun room => ?_⟩, fun h => ⟨fun bad => ?_, fun good full => ?_, fun good room => ?_⟩,
    fun h => ⟨fun sides => ?_, fun ha hb held => ?_, fun ha hb free => ⟨fun sub mul => ?_, fun mul full => ?_, fun mul room => ?_⟩⟩⟩,
    fun s k n src dst _ => ⟨s.newCopy k n src dst, ?_⟩⟩
  · exact (copying_passes hr h).trans ((if_neg fun c => CopyKind.noConfusion c.1).trans (if_neg full))
  · exact (copying_passes hr h).trans ((if_neg fun c => CopyKind.noConfusion c.1).trans (if_pos room))
  · exact (copying_passes hr h).trans (if_pos ⟨rfl, bad⟩)
  · exact (copying_passes hr h).trans ((if_neg fun c => good c.2).trans (if_neg full))
  · exact (copying_passes hr h).trans ((if_neg fun c => good c.2).trans (if_pos room))
  · exact (cpym_passes hr h).trans (if_neg sides)
  · exact (cpym_passes hr h).trans ((if_pos ⟨ha, hb⟩).trans (if_pos held))
  · exact (cpym_passes hr h).trans ((if_pos ⟨ha, hb⟩).trans ((if_neg (ne_true_of_eq_false free)).trans (followOut_fails mul)))
  · exact (cpym_passes hr h).trans ((if_pos ⟨ha, hb⟩).trans ((if_neg (ne_true_of_eq_false free)).trans
      ((followOut_passes mul).trans (if_pos full))))
  · exact (cpym_passes hr h).trans ((if_pos ⟨ha, hb⟩).trans ((if_neg (ne_true_of_eq_false free)).trans
      ((followOut_passes mul).trans (if_neg room))))
  · have station := acceptCopy_station s k n src dst
    exact ⟨congrArg Station.copies station, rfl, rfl, rfl, rfl, rfl, rfl, rfl, rfl, rfl, rfl, rfl, rfl, rfl, rfl, rfl, rfl, rfl, rfl,
      rfl, rfl, rfl, rfl, rfl, fun st h => by rw [acceptCopy_eq, station_later, station_modStation_other _ _ _ _ h], station⟩

end Sys2Proof.Machine
end

section
/-! PROOFS. The engine registers (R212, R233, R247, R248, R259, R287 to R290, R407 to R409). -/
namespace Sys2Proof.Machine

/-! ## The registers of each engine as they read (R287) -/

/-- The registers of a descriptor set (R212, R233). -/
def CopySet.reg (r : CopySet) (i : Nat) : Option Word :=
  match i with
  | 0 => some (BitVec.ofNat 64 r.len)
  | 1 => some (BitVec.ofNat 64 r.rows)
  | 2 => some r.sstr
  | 3 => some r.dstr
  | 4 => some r.idx
  | 5 => some r.fb
  | 6 => some (BitVec.ofNat 64 r.ft)
  | 7 => some r.done
  | 8 => some r.cmp
  | _ => none

/-- The registers of the matrix engine (R247, R248). -/
def Station.mxReg (x : Station) (i : Nat) : Option Word :=
  match i with
  | 0 => some (BitVec.ofNat 64 x.mx.pa)
  | 1 => some (BitVec.ofNat 64 x.mx.pb)
  | 2 => some (BitVec.ofNat 64 x.mx.kg)
  | 3 => some (BitVec.ofNat 64 x.mx.dfmt)
  | 4 => some x.mxStat
  | i => if 0x100 ≤ i && i < 0x160 then some (look 0#64 x.cbt (i - 0x100)) else none

/-- The registers of the signature unit (R259). -/
def SgRegs.reg (q : SgRegs) (i : Nat) : Option Word :=
  match i with
  | 0 => some (BitVec.ofNat 64 q.w)
  | 1 => some q.seed
  | 2 => some (BitVec.ofNat 64 q.rule)
  | 3 => some (BitVec.ofNat 64 q.rows)
  | 4 => some (BitVec.ofNat 64 q.kg)
  | 5 => some q.rl
  | 6 => some (BitVec.ofNat 64 q.slen)
  | 7 => some (BitVec.ofNat 64 q.smode)
  | 8 => some q.keys
  | 9 => some (BitVec.ofNat 64 q.nq)
  | 10 => some (BitVec.ofNat 64 q.nk)
  | 11 => some (BitVec.ofNat 64 q.topk)
  | _ => none

/-- The registers of the crossing unit (R407 to R409). -/
def Crossing.reg (u : Crossing) (i : Nat) : Option Word :=
  match i with
  | 0 => some (BitVec.ofNat 64 u.dtmin)
  | 1 => some (BitVec.ofNat 64 u.budg)
  | 2 => some (BitVec.ofNat 64 u.curfew)
  | 3 => some u.stat
  | 4 => some u.dbl
  | 5 => some u.overs
  | 6 => some (BitVec.ofNat 64 u.vsel)
  | i => if 0x10 ≤ i && i ≤ 0x19 then some (u.vrec (i - 0x10)) else none

section
variable (x : Station) {n : Nat}

theorem engReg_copy {k : Fin 8} (hn : n / 4096 = 2) (hi : n % 4096 < 128) (hk : copySetOf (n % 4096) = k) :
    x.engReg n = (x.sets[k]).reg (n % 4096 % 16) := by
  subst hk
  simp only [Station.engReg, hn, if_pos hi]
  rfl

theorem engReg_copy_none (hn : n / 4096 = 2) (hi : ¬ n % 4096 < 128) : x.engReg n = none := by
  simp only [Station.engReg, hn, if_neg hi]

theorem engReg_mx (hn : n / 4096 = 3) : x.engReg n = x.mxReg (n % 4096) := by
  simp only [Station.engReg, hn]
  rfl

theorem engReg_sg (hn : n / 4096 = 4) : x.engReg n = x.sg.reg (n % 4096) := by
  simp only [Station.engReg, hn]
  rfl

theorem engReg_xg (hn : n / 4096 = 5) : x.engReg n = x.xing.reg (n % 4096) := by
  simp only [Station.engReg, hn]
  rfl

end

/-! ## One register written (R288) -/

theorem ranged_ok {c : Bool} {x y : Station} : ranged c x = .ok y ↔ c = true ∧ x = y := by cases c <;> simp [ranged]

section
variable {x y : Station} {i : Nat} {v : Word}

theorem copyReg_written {set_ : Fin 8} (h : x.setCopyReg set_ i v = .ok y) :
    ∃ r : CopySet, y = { x with sets := x.sets.set set_.val r } ∧ r.reg i = some v ∧
      ∀ j, j ≠ i → r.reg j = (x.sets[set_]).reg j := by
  unfold Station.setCopyReg at h
  split at h <;> simp only [ranged_ok, EngWrite.ok.injEq, reduceCtorEq] at h
  case h_1 | h_2 | h_5 | h_7 | h_9 =>
    exact ⟨_, h.2.symm, by simp [CopySet.reg], fun j hj => by unfold CopySet.reg; split <;> simp_all⟩
  case h_3 | h_4 | h_6 | h_8 =>
    exact ⟨_, h.symm, by simp [CopySet.reg], fun j hj => by unfold CopySet.reg; split <;> simp_all⟩

theorem mxReg_written (h : x.setMxReg i v = .ok y) :
    ∃ mx cbt, y = { x with mx := mx, cbt := cbt } ∧ y.mxReg i = some v ∧ ∀ j, j ≠ i → y.mxReg j = x.mxReg j := by
  unfold Station.setMxReg at h
  split at h
  case h_1 | h_2 | h_3 | h_4 =>
    obtain ⟨-, rfl⟩ := ranged_ok.1 h
    exact ⟨_, _, rfl, by simp [Station.mxReg], fun j hj => by unfold Station.mxReg; split <;> simp_all [Station.mxStat]⟩
  case h_5 => simp at h
  case h_6 h0 h1 h2 h3 h4 =>
    split at h
    case isFalse => simp at h
    case isTrue hr =>
      obtain rfl := EngWrite.ok.inj h
      refine ⟨_, _, rfl, ?_, fun j hj => ?_⟩
      · unfold Station.mxReg
        split <;> simp_all [look_put_same]
      · unfold Station.mxReg
        split
        case h_6 =>
          by_cases hq : (decide (0x100 ≤ j) && decide (j < 0x160)) = true
          · simp only [if_pos hq]
            rw [look_put_other]
            simp at hq hr
            omega
          · simp only [if_neg hq]
        all_goals rfl

theorem sgReg_written (h : x.setSgReg i v = .ok y) :
    ∃ q : SgRegs, y = { x with sg := q } ∧ q.reg i = some v ∧ ∀ j, j ≠ i → q.reg j = x.sg.reg j := by
  unfold Station.setSgReg at h
  split at h <;> simp only [ranged_ok, EngWrite.ok.injEq, reduceCtorEq] at h
  case h_2 => exact ⟨_, h.symm, by simp [SgRegs.reg], fun j hj => by unfold SgRegs.reg; split <;> simp_all⟩
  all_goals exact ⟨_, h.2.symm, by simp [SgRegs.reg], fun j hj => by unfold SgRegs.reg; split <;> simp_all⟩

/-- A write of XG.VSEL changes what XG.VREC reads. -/
theorem xgReg_written (h : x.setXgReg i v = .ok y) :
    ∃ u : Crossing, y = { x with xing := u } ∧ u.reg i = some v ∧
      ∀ j, j ≠ i → ¬ (i = 6 ∧ 0x10 ≤ j ∧ j ≤ 0x19) → u.reg j = x.xing.reg j := by
  unfold Station.setXgReg at h
  split at h <;> simp only [ranged_ok, reduceCtorEq] at h
  case h_8 => split at h <;> simp at h
  all_goals
    refine ⟨_, h.2.symm, by simp [Crossing.reg], fun j hj hs => ?_⟩
    unfold Crossing.reg
    split <;> simp_all [Crossing.stat]
  · rfl
  · rfl
  · grind

end

/-- An engine's registers read alike where its own part of the station is alike. -/
theorem engReg_frame {x y : Station} {n : Nat} (sets : n / 4096 = 2 → y.sets = x.sets) (mx : n / 4096 = 3 → y.mxReg = x.mxReg)
    (sg : n / 4096 = 4 → y.sg = x.sg) (xing : n / 4096 = 5 → y.xing = x.xing) : y.engReg n = x.engReg n := by
  unfold Station.engReg
  generalize n / 4096 = c at sets mx sg xing
  rcases c with _ | _ | _ | _ | _ | _ | c
  · rfl
  · rfl
  · exact congrArg (fun v : Vector CopySet 8 =>
      if n % 4096 < 128 then (v[copySetOf (n % 4096)]).reg (n % 4096 % 16) else none) (sets rfl)
  · exact congrFun (mx rfl) _
  · exact congrArg (fun q : SgRegs => q.reg (n % 4096)) (sg rfl)
  · exact congrArg (fun u : Crossing => u.reg (n % 4096)) (xing rfl)
  · rfl

/-! ## The engine registers as one table -/

section
variable {x y : Station} {n m : Nat} {v : Word}

theorem copyNumber_written (hn : n / 4096 = 2) (hi : n % 4096 < 128)
    (h : x.setCopyReg (copySetOf (n % 4096)) (n % 4096 % 16) v = .ok y) :
    y.engReg n = some v ∧ (m ≠ n → y.engReg m = x.engReg m) := by
  obtain ⟨r, rfl, hv, hj⟩ := copyReg_written h
  refine ⟨?_, fun hm => ?_⟩
  · rw [engReg_copy _ hn hi rfl]
    simpa using hv
  · by_cases hc : m / 4096 = 2
    case neg => exact engReg_frame (fun e => absurd e hc) (fun _ => rfl) (fun _ => rfl) (fun _ => rfl)
    by_cases hi' : m % 4096 < 128
    case neg => rw [engReg_copy_none _ hc hi', engReg_copy_none _ hc hi']
    by_cases hs : copySetOf (m % 4096) = copySetOf (n % 4096)
    · rw [engReg_copy _ hc hi' hs, engReg_copy _ hc hi' hs]
      have same := Fin.val_eq_of_eq hs
      simp only [copySetOf] at same
      simpa using hj _ (by omega)
    · rw [engReg_copy _ hc hi' rfl, engReg_copy _ hc hi' rfl]
      congr 1
      exact Vector.getElem_set_ne (copySetOf (n % 4096)).isLt (copySetOf (m % 4096)).isLt (fun e => hs (Fin.ext e.symm))

/-- A register that is written reads as the value written, and no other changes but XG.VREC by the selection of XG.VSEL. -/
theorem engReg_written (h : x.setEngReg n v = .ok y) :
    y.engReg n = some v ∧ (m ≠ n → ¬ (n = 0x5006 ∧ 0x5010 ≤ m ∧ m ≤ 0x5019) → y.engReg m = x.engReg m) := by
  have apart {c : Nat} (hn : n / 4096 = c) (hm : m / 4096 = c) (h : m ≠ n) : m % 4096 ≠ n % 4096 := by omega
  unfold Station.setEngReg at h
  dsimp only at h
  split at h
  case h_1 hn =>
    split at h
    case isFalse => simp at h
    case isTrue hi => exact (copyNumber_written hn hi h).imp_right fun hj hm _ => hj hm
  case h_2 hn =>
    obtain ⟨mx, cbt, rfl, hv, hj⟩ := mxReg_written h
    refine ⟨(engReg_mx _ hn).trans hv, fun hm _ => ?_⟩
    by_cases hc : m / 4096 = 3
    · rw [engReg_mx _ hc, engReg_mx _ hc, hj _ (apart hn hc hm)]
    · exact engReg_frame (fun _ => rfl) (fun e => absurd e hc) (fun _ => rfl) (fun _ => rfl)
  case h_3 hn =>
    obtain ⟨q, rfl, hv, hj⟩ := sgReg_written h
    refine ⟨(engReg_sg _ hn).trans hv, fun hm _ => ?_⟩
    by_cases hc : m / 4096 = 4
    · rw [engReg_sg _ hc, engReg_sg _ hc, hj _ (apart hn hc hm)]
    · exact engReg_frame (fun _ => rfl) (fun _ => rfl) (fun e => absurd e hc) (fun _ => rfl)
  case h_4 hn =>
    obtain ⟨u, rfl, hv, hj⟩ := xgReg_written h
    refine ⟨(engReg_xg _ hn).trans hv, fun hm hs => ?_⟩
    by_cases hc : m / 4096 = 5
    · rw [engReg_xg _ hc, engReg_xg _ hc, hj _ (apart hn hc hm) (by omega)]
    · exact engReg_frame (fun _ => rfl) (fun _ => rfl) (fun _ => rfl) (fun e => absurd e hc)
  case h_5 => simp at h

end

/-! ## ECFG, ERD and EDRAIN at issue (R265, R288 to R290) -/

/-- A register number that a core may name, in numbers. -/
theorem engNumberOk_iff (w : Who) (v : Word) :
    engNumberOk w v = true ↔ v.toNat < 2 ^ 16 ∧ (w.core = .keeper → v.toNat % 2 ^ 16 / 2 ^ 12 = 2) := by
  have engine : bitsOf v 15 12 = v.toNat % 2 ^ 16 / 2 ^ 12 := by
    rw [bitsOf_eq]
    omega
  rw [engNumberOk, bitsOf_top _ _ (by decide), engine]
  simp [Nat.div_eq_zero_iff, imp_iff_not_or]

section
variable {s : State} {a b : Reg} {ka kb : Bool}

theorem ecfg_ready (hr : s.ready .store ⟨[(.s a, ka), (.s b, kb)], []⟩ = true) :
    let v := s.valS s.cur a
    let n := v.toNat % 2 ^ 16
    let t := s.popAll s.cur [(.s a, ka), (.s b, kb)]
    exec (.ecfg a b ka kb) s =
      if v.toNat < 2 ^ 16 ∧ (s.cur.core = .keeper → n / 2 ^ 12 = 2) then
        match (t.station s.cur.st).setEngReg n (s.valS s.cur b) with
        | .unused => .next (s.trapNow (engineRegTrap 7 0xA0 n))
        | .range => .next (s.trapNow (engineRegTrap 7 0xA1 n))
        | .readOnly => .next (s.trapNow (engineRegTrap 7 0xA2 n))
        | .ok x => .next ((((t.setStation s.cur.st x).testNotifies s.cur.st).bump).retire s.cur .next)
      else .next (s.trapNow (engineRegTrap 7 0xA0 n)) := by
  intro v n t
  have number : bitsOf v 15 0 = n := rfl
  change execEcfg a b ka kb s = _
  rw [execEcfg, issue_ready _ _ _ _ hr, finish_needs (engNumberOk_iff ..), number]
  refine if_congr Iff.rfl ?_ rfl
  cases (t.station s.cur.st).setEngReg n (s.valS s.cur b) <;> rfl

theorem erd_ready (hr : s.ready .store ⟨[(.s a, ka)], [.s b]⟩ = true) :
    let v := s.valS s.cur a
    let n := v.toNat % 2 ^ 16
    let t := s.popAll s.cur [(.s a, ka)]
    exec (.erd a b ka) s =
      if v.toNat < 2 ^ 16 ∧ (s.cur.core = .keeper → n / 2 ^ 12 = 2) then
        match (t.station s.cur.st).engReg n with
        | none => .next (s.trapNow (engineRegTrap 7 0xA0 n))
        | some x => .next ((t.answerNow s.cur (.engine b false) v (leBytes x.toNat 8)).retire s.cur .load)
      else .next (s.trapNow (engineRegTrap 7 0xA0 n)) := by
  intro v n t
  have number : bitsOf v 15 0 = n := rfl
  change execErd a b ka s = _
  rw [execErd, issue_ready _ _ _ _ hr, finish_needs (engNumberOk_iff ..), number]
  refine if_congr Iff.rfl ?_ rfl
  cases (t.station s.cur.st).engReg n <;> rfl

theorem edrain_ready (hr : s.ready .store ⟨[(.s a, ka)], []⟩ = true) :
    let v := s.valS s.cur a
    let t := s.popAll s.cur [(.s a, ka)]
    exec (.edrain a ka) s =
      if v.toNat < 8 ∧ v.toNat ≠ 6 ∧ (s.cur.core = .keeper → v.toNat = 2 ∨ v.toNat = 7) then
        if t.drained s.cur v.toNat = true then .next (t.retire s.cur .next) else .next s.wait
      else .next (s.trapNow (trapOf 0x08 0x7A3)) := by
  intro v t
  change execEdrain a ka s = _
  rw [execEdrain, issue_ready _ _ _ _ hr,
    finish_needs (p := v.toNat < 8 ∧ v.toNat ≠ 6 ∧ (s.cur.core = .keeper → v.toNat = 2 ∨ v.toNat = 7)) (by
      simp [v, and_assoc, imp_iff_not_or, or_assoc])]
  refine if_congr Iff.rfl ?_ rfl
  change s.finish ((await (t.drained s.cur v.toNat)).bind _) = _
  cases t.drained s.cur v.toNat <;> rfl

end

/-! ## The obligation -/

/-- Settles O43: ECFG, ERD and EDRAIN by their checks in order, then the table of the registers. -/
theorem engineRegisters : Obligations.EngineRegisters := by
  refine ⟨fun s a b ka kb => ⟨fun sub _ => ⟨rfl, ?_⟩, fun hr => ⟨fun unnamed => ?_, fun named => ?_⟩,
    fun hr => ⟨fun unnamed => ?_, fun named unused => ?_, fun named x read_ => ?_⟩,
    fun hr => ⟨fun none_ => ?_, fun exists_ busy => ?_, fun exists_ idle => ?_⟩⟩,
    fun x y n m v _ _ h => engReg_written h⟩
  · have small : (s.valS s.cur a).toNat % 2 ^ 16 % 65536 = (s.valS s.cur a).toNat % 2 ^ 16 := by omega
    rw [engineRegTrap, small]
    rfl
  · exact (ecfg_ready hr).trans (if_neg unnamed)
  · have written := (ecfg_ready hr).trans (if_pos named)
    split <;> simp only [*]
  · exact (erd_ready hr).trans (if_neg unnamed)
  · exact ((erd_ready hr).trans (if_pos named)).trans (by rw [unused])
  · exact ((erd_ready hr).trans (if_pos named)).trans (by rw [read_])
  · exact (edrain_ready hr).trans (if_neg none_)
  · exact (edrain_ready hr).trans ((if_pos exists_).trans (if_neg (ne_true_of_eq_false busy)))
  · exact (edrain_ready hr).trans ((if_pos exists_).trans (if_pos idle))

end Sys2Proof.Machine
end

section
/-! PROOFS. Copies and publishes as they are performed (R212, R213, R221, R231 to R234, R242). -/
namespace Sys2Proof.Machine

/-! ## COPY_PERFORM (R213, R231, R232) -/

section
variable {s : State} {st id : Nat} {c : CopyCmd}

theorem copyPerform_none (h : (s.station st).copies.find? (fun c => c.id == id) = none) : exec (.copyPerform st id) s = .next s := by
  change execCopyPerform st id s = _
  rw [execCopyPerform, h]

section
variable (h : (s.station st).copies.find? (fun c => c.id == id) = some c)
include h

theorem copyPerform_landed (hl : c.landed = true) : exec (.copyPerform st id) s = .next s := by
  change execCopyPerform st id s = _
  rw [execCopyPerform, h]
  exact if_pos (by rw [hl, Bool.true_or])

/-- A copy that has not landed waits for its release, then does its next unit, or has landed. -/
theorem copyPerform_turn (hl : c.landed = false) (hr : c.retry = none) : exec (.copyPerform st id) s =
    if (s.storesDone (some (workOfTask c.who c.acc.task, id)) = true ∧ s.copyTurn (workOfTask c.who c.acc.task) id = true) ∧
        s.engBehind id (fun cl b => s.copyInBank cl b c) = false then
      if c.regs.rows ≤ c.row then .next ((s.setCopy { c with landed := true }).later (.copyComplete st id))
      else ((if c.kind = .gather ∧ c.idxs = [] then s.readList c else s.copyRows c).elim (.next s.wait) .next)
    else .next s.wait := by
  change execCopyPerform st id s = _
  rw [execCopyPerform, h]
  refine (if_neg (by simp [hl, hr, retryAhead])).trans ?_
  by_cases goes : (s.storesDone (some (workOfTask c.who c.acc.task, id)) = true ∧
      s.copyTurn (workOfTask c.who c.acc.task) id = true) ∧ s.engBehind id (fun cl b => s.copyInBank cl b c) = false
  · rw [if_pos goes]
    obtain ⟨⟨stores, turn⟩, behind⟩ := goes
    refine (if_neg (by simp [State.copyReleased, stores, turn, behind])).trans (if_congr Iff.rfl rfl ?_)
    simp only [Bool.and_eq_true, decide_eq_true_iff, List.isEmpty_iff]
    cases (if c.kind = .gather ∧ c.idxs = [] then s.readList c else s.copyRows c) <;> rfl
  · rw [if_neg goes]
    refine if_pos ?_
    simp only [State.copyReleased, Bool.or_eq_true, Bool.not_eq_true', Bool.and_eq_false_iff]
    by_cases stores : s.storesDone (some (workOfTask c.who c.acc.task, id)) = true <;>
      by_cases turn : s.copyTurn (workOfTask c.who c.acc.task) id = true <;> simp_all

/-- A released copy with rows left does its next unit, or waits for what that unit needs. -/
theorem copyPerform_unit (hl : c.landed = false) (hr : c.retry = none)
    (released : s.storesDone (some (workOfTask c.who c.acc.task, id)) = true ∧ s.copyTurn (workOfTask c.who c.acc.task) id = true)
    (free : s.engBehind id (fun cl b => s.copyInBank cl b c) = false) (more : c.row < c.regs.rows) {o : Option State}
    (ho : (if c.kind = .gather ∧ c.idxs = [] then s.readList c else s.copyRows c) = o) :
    (∀ t, o = some t → exec (.copyPerform st id) s = .next t) ∧ (o = none → exec (.copyPerform st id) s = .next s.wait) := by
  rw [copyPerform_turn h hl hr, if_pos ⟨released, free⟩, if_neg (Nat.not_le.2 more), ho]
  exact ⟨fun t e => e ▸ rfl, fun e => e ▸ rfl⟩

end
end

/-! ## COPY_COMPLETE (R233, R234) -/

theorem modSet_eq (x : Station) {n : Nat} (h : n < 8) (f : CopySet → CopySet) :
    x.modSet n f = { x with sets := x.sets.set n (f x.sets[n]) } := by
  rw [Station.modSet, Vector.getElem?_eq_getElem h]
  exact congrArg (fun v => ({ x with sets := v } : Station)) (Vector.toArray_inj.1 (by simp [Array.setIfInBounds, h]))

theorem testNotifies_idle {s : State} {st : Nat} (h : (s.station st).notifies = []) :
    s.testNotifies st = s.modStation st (fun y => { y with notifies := [] }) := by
  simp only [State.testNotifies, State.modStation, h, List.filter_nil, List.foldl_nil]

section
variable {s : State} {st id : Nat} {c : CopyCmd}

theorem copyComplete_none (h : (s.station st).copies.find? (fun c => c.id == id) = none) : exec (.copyComplete st id) s = .next s := by
  change execCopyComplete st id s = _
  rw [execCopyComplete, h]

/-- The state once a copy has left its station's queue and its set has counted it. -/
def State.copyCounted (s : State) (st : Nat) (c : CopyCmd) (id : Nat) : State :=
  s.modStation st (fun x =>
    ({ x with copies := x.copies.filter (fun k => k.id != id) } : Station).modSet c.set (fun r => { r with done := r.done + 1 }))

/-- A plain copy into the station's TCM completes with its count and its counter alone. -/
theorem copyComplete_tcm (h : (s.station st).copies.find? (fun c => c.id == id) = some c)
    (hd : s.regionOf c.who c.dst.toNat = some .tcm) (hk : c.kind = .plain) : exec (.copyComplete st id) s =
      .next ((if c.regs.cmp.getLsbD 17 = true then (s.copyCounted st c id).decrement (c.regs.cmp.toNat % 2 ^ 17) false (srcRankOf c.who)
        else s.copyCounted st c id).testNotifies st) := by
  have place : s.placeOf c.who c.dst.toNat = .pool c.who.st c.dst.toNat := by rw [State.placeOf, hd]
  have range : s.boundRange c.who c.dst.toNat = none := by rw [State.boundRange, hd]
  have counter : bitsOf c.regs.cmp 16 0 = c.regs.cmp.toNat % 2 ^ 17 := rfl
  change execCopyComplete st id s = _
  rw [execCopyComplete, h]
  simp only [hd, place, range, counter, State.releaseFollow, hk, reduceCtorEq, if_false]
  rfl

end

/-! ## Publishes (R221, R242, R277) -/

theorem memRead_getD (m : Memory) (a n i : Nat) (d : Byte) (h : i < n) : (memRead m a n).getD i d = memGet m (a + i) := by
  induction n generalizing a i with
  | zero => omega
  | succ n ih =>
    cases i with
    | zero => rfl
    | succ i => rw [memRead, List.getD_cons_succ, ih _ _ (by omega), show a + 1 + i = a + (i + 1) by omega]

section
variable (s : State) (st : Nat) (win : BufWindow)

/-- Each half of a window takes the other's bytes. -/
theorem exchange_halves {i : Nat} (h : i < win.len) :
    let a := Config.poolAt st + win.base
    memGet (s.exchange st win).mem (a + i) = memGet s.mem (a + win.len + i) ∧
      memGet (s.exchange st win).mem (a + win.len + i) = memGet s.mem (a + i) := by
  intro a
  change memGet (memWrite (memWrite s.mem a (memRead s.mem (a + win.len) win.len)) (a + win.len) (memRead s.mem a win.len)) _ = _ ∧
    memGet (memWrite _ (a + win.len) (memRead s.mem a win.len)) _ = _
  constructor
  · rw [memGet_memWrite_other (by omega), memGet_memWrite, memRead_length, if_pos (by omega), Nat.add_sub_cancel_left,
      memRead_getD _ _ _ _ _ h]
  · rw [memGet_memWrite, memRead_length, if_pos (by omega), Nat.add_sub_cancel_left, memRead_getD _ _ _ _ _ h]

theorem exchange_outside {k : Nat} (h : k < Config.poolAt st + win.base ∨ Config.poolAt st + win.base + 2 * win.len ≤ k) :
    memGet (s.exchange st win).mem k = memGet s.mem k := by
  change memGet (memWrite (memWrite s.mem _ _) _ _) k = _
  rw [memGet_memWrite_other (by rw [State.readAt, memRead_length]; omega),
    memGet_memWrite_other (by rw [State.readAt, memRead_length]; omega)]

/-- The half whose granules were the other's takes their full and empty bits. -/
theorem exchange_empties {g : Nat} (hn : win.len % 16 = 0) :
    let a := Config.poolAt st + win.base
    a % 16 = 0 → a / 16 ≤ g → g < (a + win.len) / 16 → (g ∈ (s.exchange st win).empties ↔ g + win.len / 16 ∈ s.empties) := by
  intro a ha lo hi
  change g ∈ (s.empties.map _).foldl (fun r u => setIns u r) [] ↔ _
  rw [Laws.mem_foldl_setIns]
  simp only [List.not_mem_nil, false_or, List.mem_map, Bool.and_eq_true, decide_eq_true_iff]
  change (∃ u ∈ s.empties, (if a ≤ u * 16 ∧ u * 16 < a + win.len then u + win.len / 16
    else if a + win.len ≤ u * 16 ∧ u * 16 < a + win.len + win.len then u - win.len / 16 else u) = g) ↔ _
  constructor
  · rintro ⟨u, hu, hg⟩
    split at hg
    case isTrue => omega
    case isFalse =>
      split at hg
      case isTrue => rwa [show g + win.len / 16 = u by omega]
      case isFalse => omega
  · intro h
    exact ⟨_, h, by rw [if_neg (by omega), if_pos (by omega), Nat.add_sub_cancel]⟩

end

section
variable {s : State} {st id : Nat}

theorem publishExchange_none (h : (s.station st).publishes.find? (fun c => c.id == id) = none) :
    exec (.publishExchange st id) s = .next s := by
  change execPublishExchange st id s = _
  rw [execPublishExchange, h]

section
variable {c : PublishCmd} (h : (s.station st).publishes.find? (fun c => c.id == id) = some c)
include h

theorem publishExchange_waits (hw : s.storesDone (some (workOfTask c.who c.task, id)) = false ∨
    s.enginesBefore (workOfTask c.who c.task) id = false) : exec (.publishExchange st id) s = .next s.wait := by
  change execPublishExchange st id s = _
  rw [execPublishExchange, h]
  refine if_pos ?_
  rcases hw with hw | hw <;> simp [hw]

/-- The window whose halves a PUBLISH exchanges: the one that stood when it was issued. -/
def Station.publishedWindow (x : Station) (c : PublishCmd) (id : Nat) : Option BufWindow :=
  x.windows.find? (fun v => v.base == c.base && v.task == c.task && decide (v.born < id) && (v.live || decide (id < v.died)))

theorem publishExchange_goes (stores : s.storesDone (some (workOfTask c.who c.task, id)) = true)
    (engines : s.enginesBefore (workOfTask c.who c.task) id = true) :
    let t := s.modStation st (fun x => { x with publishes := x.publishes.filter (fun k => k.id != id) })
    exec (.publishExchange st id) s = .next (((s.station st).publishedWindow c id).elim t (t.exchange st)) := by
  intro t
  change execPublishExchange st id s = _
  rw [execPublishExchange, h]
  refine (if_neg (by simp [stores, engines])).trans ?_
  change (match (s.station st).publishedWindow c id with | some win => Host.Outcome.next (t.exchange st win) | none => .next t) = _
  cases (s.station st).publishedWindow c id <;> rfl

end
end

end Sys2Proof.Machine
end

section
/-! PROOFS. Relayed steps (R146, R166, R375, R433, R434). -/
namespace Sys2Proof.Machine

/-! ## The collectives of a die -/

theorem collective_desc {s : State} {die desc : Nat} {c : Collective} (h : s.collective die desc = some c) : c.desc = desc := by
  simpa using List.find?_some h

/-- A collective that is set again stands where it stood. -/
theorem collective_setCollective {s : State} {die : Nat} {c c1 : Collective} (h : s.collective die c.desc = some c)
    (hd : c1.desc = c.desc) : (s.setCollective die c1).collective die c.desc = some c1 := by
  rw [State.collective] at h ⊢
  rw [State.setCollective, die_modDie_same, List.find?_map]
  have same : ((fun k : Collective => k.desc == c.desc) ∘ fun k => if k.desc == c1.desc then c1 else k) = fun k => k.desc == c.desc := by
    funext k
    by_cases hk : k.desc = c.desc <;> simp [hk, hd]
  rw [same, h]
  simp [hd]

theorem collective_endCollective (s : State) (die desc : Nat) : (s.endCollective die desc).collective die desc = none := by
  rw [State.collective, State.endCollective, die_modDie_same]
  simp

section
variable {s : State} {die desc step : Nat} {f : RelayFrame}

theorem relay_none (h : s.collective die desc = none) : exec (.relayStepAcknowledged die desc step) s = .next s ∧
    exec (.relayStepFail die desc step) s = .next s ∧ exec (.relayAckTimeout die desc step) s = .next s := by
  change execRelayStepAcknowledged die desc step s = _ ∧ execRelayStepFail die desc step s = _ ∧ execRelayAckTimeout die desc step s = _
  rw [execRelayStepAcknowledged, execRelayStepFail, execRelayAckTimeout, h]
  exact ⟨rfl, rfl, rfl⟩

/-! ## A frame arrives (R375) -/

theorem relayStepReceived_none (h : s.collective f.die f.desc = none) : exec (.relayStepReceived f) s = .next s.wait := by
  change execRelayStepReceived f s = _
  rw [execRelayStepReceived, h]

section
variable {c : Collective} (h : s.collective f.die f.desc = some c)
include h

theorem relayStepReceived_again (hg : ∃ g ∈ c.got, g.member = f.member) : exec (.relayStepReceived f) s = .next s := by
  change execRelayStepReceived f s = _
  rw [execRelayStepReceived, h]
  exact if_pos (by simpa using hg)

/-- A gathered frame is kept while the collective's own step is not acknowledged. -/
theorem relayStepReceived_kept (hg : ∀ g ∈ c.got, g.member ≠ f.member) (ho : c.op = 1) (ha : c.acked = false) :
    exec (.relayStepReceived f) s = .next (s.setCollective f.die { c with got := c.got ++ [f] }) := by
  have op : ({ c with got := c.got ++ [f] } : Collective).op = 1 := ho
  have open_ : ({ c with got := c.got ++ [f] } : Collective).done = false := by
    simp only [Collective.done, op]
    simp [ha]
  change execRelayStepReceived f s = _
  rw [execRelayStepReceived, h]
  refine (if_neg (by simpa using hg)).trans ?_
  simp only [ho, State.finishCollective, open_, Option.bind_some, Bool.not_false, if_true]

end

/-! ## An acknowledgement (R375, R434) -/

section
variable {c : Collective} (h : s.collective die desc = some c)
include h

theorem relayStepAcknowledged_open (ho : c.op = 1) (hg : c.got.length + 1 < c.members) :
    exec (.relayStepAcknowledged die desc step) s = .next (s.setCollective die { c with acked := true }) := by
  have op : ({ c with acked := true } : Collective).op = 1 := ho
  have members : ({ c with acked := true } : Collective).members = c.members := rfl
  have open_ : ({ c with acked := true } : Collective).done = false := by simp [Collective.done, op, members, hg]
  change execRelayStepAcknowledged die desc step s = _
  rw [execRelayStepAcknowledged, h]
  simp only [State.finishCollective, open_, Bool.not_false, if_true]

/-- A broadcast is done with its acknowledgement. -/
theorem relayStepAcknowledged_broadcast (ho : c.op = 0) : exec (.relayStepAcknowledged die desc step) s =
    .next (((s.setCollective die { c with acked := true }).endCollective die c.desc).decrement c.counter false (1024 * die)) := by
  have op : ({ c with acked := true } : Collective).op = 0 := ho
  have done_ : ({ c with acked := true } : Collective).done = true := by simp [Collective.done, op]
  change execRelayStepAcknowledged die desc step s = _
  rw [execRelayStepAcknowledged, h]
  simp only [State.finishCollective, done_, op, Bool.not_true, Bool.false_eq_true, if_false, Option.map_some]
  rfl

/-! ## A step fails, or its acknowledgement is late (R375) -/

theorem relay_acked (ha : c.acked = true) :
    exec (.relayStepFail die desc step) s = .next s ∧ exec (.relayAckTimeout die desc step) s = .next s := by
  change execRelayStepFail die desc step s = _ ∧ execRelayAckTimeout die desc step s = _
  rw [execRelayStepFail, execRelayAckTimeout, h]
  simp [ha]

theorem relayAckTimeout_early (ht : s.now < c.sentAt + 65536) : exec (.relayAckTimeout die desc step) s = .next s := by
  change execRelayAckTimeout die desc step s = _
  rw [execRelayAckTimeout, h]
  simp [ht]

/-- A failure that is reported, and an acknowledgement that is overdue, are one failure of the step. -/
theorem relay_fails (ha : c.acked = false) {i : Instr}
    (hi : i = .relayStepFail die desc step ∨ (i = .relayAckTimeout die desc step ∧ c.sentAt + 65536 ≤ s.now)) :
    exec i s = .next (s.relayFails die c) := by
  rcases hi with rfl | ⟨rfl, late⟩
  · change execRelayStepFail die desc step s = _
    rw [execRelayStepFail, h]
    simp [ha]
  · change execRelayAckTimeout die desc step s = _
    rw [execRelayAckTimeout, h]
    simp [ha, Nat.not_lt.2 late]

end
end

/-- A failed step is sent again while retries are left. -/
theorem relayFails_again {s : State} {die : Nat} {c : Collective} (h : s.collective die c.desc = some c) (ht : c.tries < c.retries) :
    (s.relayFails die c).collective die c.desc = some { c with tries := c.tries + 1, sentAt := s.now } ∧
    { due := s.now + 65536, ev := Instr.relayAckTimeout die c.desc 0 } ∈ (s.relayFails die c).agenda ∧ (s.relayFails die c).mem = s.mem := by
  rw [State.relayFails, if_pos ht]
  exact ⟨collective_setCollective (c1 := { c with tries := c.tries + 1, sentAt := s.now }) h rfl, by simp, rfl⟩

/-- Without a retry left the collective ends, its counter is marked failed, and the link's bank has a record. -/
theorem relayFails_ends (s : State) {die : Nat} {c : Collective} (ht : c.retries ≤ c.tries) :
    (s.relayFails die c).collective die c.desc = none ∧
    (s.relayFails die c).bank (linkBank c.link) = (s.record (linkBank c.link) deferred 0x0E 0 0 0 0).bank (linkBank c.link) ∧
    { due := s.now + 1, ev := Instr.counterDecrement c.counter true (1024 * die) none } ∈ (s.relayFails die c).agenda ∧
    (s.relayFails die c).mem = s.mem := by
  rw [State.relayFails, if_neg (Nat.not_lt.2 ht)]
  exact ⟨collective_endCollective _ _ _, rfl, List.mem_append_right _ (List.mem_singleton_self _), rfl⟩

end Sys2Proof.Machine
end

section
/-! PROOFS. O55: copies, publishes and relayed steps, assembled. -/
namespace Sys2Proof.Machine

/-- A plain copy into the station's TCM at its end, where no notification is pending (R233). -/
theorem copyComplete_counts {s : State} {st id : Nat} {c : CopyCmd} (h : (s.station st).copies.find? (fun c => c.id == id) = some c)
    (hd : s.regionOf c.who c.dst.toNat = some .tcm) (hst : c.who.st = st) (hc : c.who.core ≠ .keeper) (hk : c.kind = .plain)
    (hn : (s.station st).notifies = []) (h8 : c.set < 8) : ∃ t, exec (.copyComplete st id) s = .next t ∧
      ((t.station st).sets[c.set]).done = ((s.station st).sets[c.set]).done + 1 ∧
      (t.station st).copies = (s.station st).copies.filter (fun k => k.id != id) ∧ t.mem = s.mem ∧
      (c.regs.cmp.getLsbD 17 = true → t.agenda = s.agenda ++
        [{ due := s.now + 1, ev := .counterDecrement (c.regs.cmp.toNat % 2 ^ 17) false st none }]) ∧
      (c.regs.cmp.getLsbD 17 = false → t.agenda = s.agenda) := by
  have source : srcRankOf c.who = st := by rw [srcRankOf, if_neg hc, hst, rankOf]
  have counted : (s.copyCounted st c id).station st = { s.station st with
      copies := (s.station st).copies.filter (fun k => k.id != id),
      sets := (s.station st).sets.set c.set { (s.station st).sets[c.set] with done := ((s.station st).sets[c.set]).done + 1 } } := by
    rw [State.copyCounted, station_modStation_same, modSet_eq _ h8]
  have told (u : State) (hu : u.station st = (s.copyCounted st c id).station st) :
      (((u.testNotifies st).station st).sets[c.set]).done = ((s.station st).sets[c.set]).done + 1 ∧
      ((u.testNotifies st).station st).copies = (s.station st).copies.filter (fun k => k.id != id) ∧
      (u.testNotifies st).mem = u.mem ∧ (u.testNotifies st).agenda = u.agenda := by
    rw [testNotifies_idle (by rw [hu, counted]; exact hn), station_modStation_same, hu, counted]
    exact ⟨by simp, rfl, rfl, rfl⟩
  have ends := copyComplete_tcm h hd hk
  rw [source] at ends
  by_cases bit : c.regs.cmp.getLsbD 17 = true
  · rw [if_pos bit] at ends
    obtain ⟨sets, copies, mem, agenda⟩ := told _ (station_later ..)
    exact ⟨_, ends, sets, copies, mem, fun _ => agenda, fun no => absurd bit (ne_true_of_eq_false no)⟩
  · rw [if_neg bit] at ends
    obtain ⟨sets, copies, mem, agenda⟩ := told _ rfl
    exact ⟨_, ends, sets, copies, mem, fun yes => absurd yes bit, fun _ => agenda⟩

/-- A PUBLISH that goes leaves its station's queue, and exchanges the halves of its window where it stands. -/
theorem publishExchange_exchanges {s : State} {st id : Nat} {c : PublishCmd}
    (h : (s.station st).publishes.find? (fun c => c.id == id) = some c)
    (stores : s.storesDone (some (workOfTask c.who c.task, id)) = true)
    (engines : s.enginesBefore (workOfTask c.who c.task) id = true) : ∃ t, exec (.publishExchange st id) s = .next t ∧
      t.station st = { s.station st with publishes := (s.station st).publishes.filter (fun k => k.id != id) } ∧
      ((s.station st).publishedWindow c id = none → t.mem = s.mem) ∧
      (∀ win, (s.station st).publishedWindow c id = some win →
        let a := Config.poolAt st + win.base
        (∀ i, i < win.len → memGet t.mem (a + i) = memGet s.mem (a + win.len + i) ∧
          memGet t.mem (a + win.len + i) = memGet s.mem (a + i)) ∧
        (∀ k, (k < a ∨ a + 2 * win.len ≤ k) → memGet t.mem k = memGet s.mem k) ∧
        (∀ g, win.len % 16 = 0 → a % 16 = 0 → a / 16 ≤ g → g < (a + win.len) / 16 →
          (g ∈ t.empties ↔ g + win.len / 16 ∈ s.empties))) := by
  have left_ := station_modStation_same s st (fun x => { x with publishes := x.publishes.filter (fun k => k.id != id) })
  refine ⟨_, publishExchange_goes h stores engines, ?_⟩
  cases (s.station st).publishedWindow c id with
  | none => exact ⟨left_, fun _ => rfl, nofun⟩
  | some win =>
    refine ⟨left_, nofun, fun w e => ?_⟩
    cases e
    exact ⟨fun i hi => exchange_halves _ st win hi, fun k hk => exchange_outside _ st win hk,
      fun g hn ha lo hi => exchange_empties _ st win hn ha lo hi⟩

/-- Settles O55: the steps of copies and publishes, then those of relay collectives, case by case. -/
theorem copyAndRelayEvents : Obligations.CopyAndRelayEvents := by
  refine ⟨fun s st id => ⟨fun h => ⟨copyPerform_none h, copyComplete_none h⟩, fun c h =>
      ⟨fun landed => copyPerform_landed h landed, fun ahead first => ⟨fun blocked => ?_, fun released free => ⟨fun ends => ?_,
        fun more other => copyPerform_unit h ahead first released free more
          (if_neg fun ⟨gather, unread⟩ => other.elim (fun k => k gather) fun k => k unread),
        fun more gather unread => copyPerform_unit h ahead first released free more (if_pos ⟨gather, unread⟩)⟩⟩,
      fun hd hst hc hk hn h8 => copyComplete_counts h hd hst hc hk hn h8⟩,
      fun h => publishExchange_none h,
      fun c h => ⟨fun hw => publishExchange_waits h hw, fun stores engines => publishExchange_exchanges h stores engines⟩⟩,
    fun s f die desc step link => ⟨fun h => relayStepReceived_none h,
      fun c h => ⟨fun hg => relayStepReceived_again h hg, fun hg ho ha => relayStepReceived_kept h hg ho ha⟩,
      fun h => relay_none h, fun c h => ⟨fun ho hg => relayStepAcknowledged_open h ho hg, fun ho _ => ?_,
        fun ha => relay_acked h ha, fun _ early => relayAckTimeout_early h early, fun ha i hi => ⟨fun left same => ?_, fun none_ same => ?_⟩⟩,
      rfl⟩⟩
  · refine (copyPerform_turn h ahead first).trans (if_neg fun ⟨released, free⟩ => ?_)
    exact blocked.elim (fun held => held released) fun behind => Bool.false_ne_true (free.symm.trans behind)
  · exact (copyPerform_turn h ahead first).trans ((if_pos ⟨released, free⟩).trans (if_pos ends))
  · obtain rfl := collective_desc h
    exact ⟨_, relayStepAcknowledged_broadcast h ho, collective_endCollective _ _ _, rfl,
      List.mem_append_right _ (List.mem_singleton_self _)⟩
  · subst same
    exact ⟨_, relay_fails h ha hi, relayFails_again h left⟩
  · subst same
    exact ⟨_, relay_fails h ha hi, relayFails_ends s none_⟩

end Sys2Proof.Machine
end

section
/-! PROOFS. What the signature commands write (R219, R261). The bank below shows where the statement on leads is too wide: `rowNorm` scales
by the exponent that the side storage gives a group, and the values of an INT1 group are ±1 whatever exponent stands there. -/
namespace Sys2Proof.Machine

/-- An A bank of INT1 elements in one plane. -/
def int1Bank : BankFmt := { zs := false, b := false, typed := false, p := 1, fmt := 0 }

/-- Station 0 reads a room list at 0xC000 of one room with rows 0 and 1. In bank 0 of its cluster every element is 1, and the side
storage gives row 0 the exponent −256, as no placement of INT1 elements does: the model's norm of row 0 is 2^160 times smaller. -/
def sided : State :=
  { State.reset with
    mem := [(Config.poolAt 0 + 0xC000, 1), (Config.poolAt 0 + 0xC002, 2), (Config.poolAt 0 + 0xC08A, 2)],
    clusters := [(0, { Cluster.reset with bfmt := [(0, 0x20)], side := [(0, 0, 0, false)] })] }

/-- SGLEAD over that bank under MAXNORM, with the lead block at 0xD000. -/
def sidedLead : SigCmd :=
  let w : Who := { st := 0, core := .slot0 }
  { id := 0, kind := .lead, who := w, acc := sided.engAccess w 4, a := 0x1000000, b := 0xD000,
    regs := { SgRegs.reset with rule := 2, rows := 2, kg := 1, rl := 0xC000 }, retry := none }

theorem sided_bank : sided.ownBank sidedLead.who sidedLead.a.toNat = some (0, int1Bank) := by decide +kernel

/-- The list is valid, and its room 0 has rows 0 and 1. -/
theorem sided_list : let l := roomList (memRead sided.mem (Config.poolAt 0 + 0xC000) 392)
    l.valid 2 = true ∧ l.nroom = 1 ∧ l.room.getD 0 0 = 0 := by decide +kernel

/-- The places that the command names lie in the TCM. -/
theorem sided_tcm : sided.regionOfAll sidedLead.who 0xC000 392 = some .tcm ∧ sided.regionOfAll sidedLead.who 0xD000 8 = some .tcm := by
  decide +kernel

/-- Both rows have the same values. -/
theorem sided_values :
    (List.range 32).map (fun k => groupValue 0 (sided.groupAt 0 0 int1Bank (groupIx int1Bank 0 (k / 32))) (k % 32)) =
      (List.range 32).map (fun k => groupValue 0 (sided.groupAt 0 0 int1Bank (groupIx int1Bank 1 (k / 32))) (k % 32)) := by
  decide +kernel

theorem sided_whole : (sided.groupAt 0 0 int1Bank (groupIx int1Bank 1 0)).nan = false := by decide +kernel

/-- The command names row 1 as the lead of room 0. -/
theorem sided_lead : (({ cmd := sidedLead, s := sided, faults := [] } : SigRun).run).map (fun r =>
    leNat (memRead r.s.mem (Config.poolAt 0 + (0xC000 + 136)) 2)) = some 1 := by decide +kernel

/-- Refutes O58: of the members with the largest norm the statement asks for the lowest under MAXNORM, for every side storage. In `sided`
rows 0 and 1 have one norm, and the command names row 1. -/
theorem not_signatureResults : ¬ Obligations.SignatureResults := by
  intro h
  obtain ⟨-, -, leads, -, -⟩ := h sided sidedLead rfl rfl rfl
  obtain ⟨valid, rooms, row0⟩ := sided_list
  obtain ⟨list, block⟩ := sided_tcm
  obtain ⟨-, named⟩ := leads 0 int1Bank rfl ⟨sided_bank, rfl, by decide, by decide, by decide⟩ (by decide) list valid block (.inr (by decide))
  obtain ⟨r, run, -, all⟩ := named rfl
  obtain ⟨best, -, most, -, lead⟩ := all 0 (Nat.one_pos.trans_eq rooms.symm)
  have one : best = 1 := by
    have written := sided_lead
    rw [run] at written
    exact lead.symm.trans (Option.some.inj written)
  subst one
  obtain ⟨-, lowest⟩ := most 0 ⟨by decide, row0⟩
  refine absurd (lowest ?_) (by decide)
  rintro ⟨-, ⟨k, hk, lost⟩ | less⟩
  · obtain rfl : k = 0 := Nat.lt_one_iff.1 hk
    exact Bool.false_ne_true (sided_whole.symm.trans lost)
  · refine absurd less (not_lt_of_ge (ge_of_eq ?_))
    exact congrArg (fun l : List Value => (l.map _).sum) sided_values

end Sys2Proof.Machine
end
